-- ==== Sys2Proof/Word.lean ====
section
/-! DEFINITION. The word types of the part and their plainest arithmetic. -/

namespace Sys2Proof

/-- One byte. -/
abbrev Byte := BitVec 8

/-- One 32-bit word: a scalar register (R288), a BAR0 register (R11), an accumulator word. -/
abbrev Word := BitVec 32

/-- The number of a scalar register, s0 to s31 (R288). -/
abbrev Reg := BitVec 5

/-- `n` bits of `x` from bit `lo` up. -/
def bitsOf (x lo n : Nat) : Nat := x / 2 ^ lo % 2 ^ n

/-- A natural number read as a two's complement number of `w` bits. -/
def signedOf (w x : Nat) : Int :=
  if x % 2 ^ w < 2 ^ (w - 1) then (x % 2 ^ w : Nat) else (x % 2 ^ w : Nat) - (2 ^ w : Nat)

/-- An integer narrowed to `w` bits. -/
def wrapOf (w : Nat) (x : Int) : Nat := (x % (2 ^ w : Nat)).toNat

/-- A multiple of `k` at or above `x`. -/
def ceilDiv (x k : Nat) : Nat := (x + k - 1) / k

/-- One byte of a natural number. -/
def byteAt (x i : Nat) : Byte := BitVec.ofNat 8 (x / 256 ^ i)

/-- The `n` lowest bytes of `x`, least significant first. -/
def leBytes : Nat → Nat → List Byte
  | 0, _ => []
  | n + 1, x => BitVec.ofNat 8 x :: leBytes n (x / 256)

/-- A little-endian number from its bytes. -/
def ofLe : List Byte → Nat
  | [] => 0
  | b :: bs => b.toNat + 256 * ofLe bs

/-- A big-endian number from its bytes. -/
def ofBe (bs : List Byte) : Nat := bs.foldl (fun a b => a * 256 + b.toNat) 0

/-- The `n` lowest bytes of `x`, most significant first. -/
def beBytes (n x : Nat) : List Byte := (leBytes n x).reverse

/-- Bytes `lo` to `lo + n - 1` of a list, zero beyond its end. -/
def sliceOf (bs : List Byte) (lo n : Nat) : List Byte :=
  let t := (bs.drop lo).take n
  t ++ List.replicate (n - t.length) 0#8

/-- The little-endian field of `n` bytes at offset `o`. -/
def fieldOf (bs : List Byte) (o n : Nat) : Nat := ofLe (sliceOf bs o n)

end Sys2Proof
end

