-- ==== Sys2Proof/Syntax.lean ====
section
/-! DEFINITION. The commands of the part: one constructor of Instr for each row of the operation and event table, with the operands the spec's text gives it, or the outcome that the hardware or the environment supplies. -/

namespace Sys2Proof

/-- A hardware context of a scalar core, by the logical facet that holds it (R54). -/
structure Who where
  lf : Nat
  ctx : Nat
  deriving DecidableEq, Repr

/-- The operands of an integer or FP32 instruction: register form or immediate form (Table 10-3). -/
structure AluArgs where
  immForm : Bool
  d : Reg
  a : Reg
  b : Reg
  imm : Word
  deriving DecidableEq, Repr

/-- The branch conditions of BR (R296). -/
inductive Cond where
  | eq | ne | lt | ge | ltu | geu
  deriving DecidableEq, Repr

/-- A channel's name: its consumer's logical facet and its index there (R306). -/
structure ChanName where
  consumer : Nat
  index : Nat
  deriving DecidableEq, Repr

/-- The operands of STRM (Table 11-2, R323). -/
structure StrmArgs where
  d : Reg
  a : Reg
  b : Reg
  handle : Nat
  ctr : Nat
  listAddr : Nat
  compress : Bool
  list : Bool
  qeng : Bool
  deriving DecidableEq, Repr

/-- The operands of a vector instruction: its registers, the vector operand field of R331, its function bits and its AFTER field.
`sel` is VRED's sum or maximum, or VCVT's conversion code. -/
structure VecArgs where
  d : Reg
  a : Reg
  b : Reg
  count : Nat
  dacc : Bool
  aacc : Bool
  bacc : Bool
  bbc : Bool
  bf16 : Bool
  noadd : Bool
  negb : Bool
  sel : Nat
  after : Nat
  deriving DecidableEq, Repr

/-- The seven command queues of a context (Table 11-1). -/
inductive EQueue where
  | str | lat | drn | vec | mrg | prd | upd
  deriving DecidableEq, Repr

/-- The registers that set the report ring (R53). -/
inductive RingReg where
  | baseLo | baseHi | cfg
  deriving DecidableEq, Repr

/-- What issued a device read that failed (R394). -/
inductive ReadSource where
  | task (w : Who)
  | command (qp : Nat)
  deriving DecidableEq, Repr

/-- The two bindings of the management controller (R422). -/
inductive Binding where
  | sideband | pcie
  deriving DecidableEq, Repr

/-- The arrays of a facet in which an uncorrectable error is found (Table 02-9). -/
inductive FacetArray where
  | vector | cell | wab | staging | acc | scalar
  deriving DecidableEq, Repr

/-- Where an error was corrected (R452). -/
inductive ErrorSite where
  | facet (f : Nat)
  | fmem (f : Nat)
  | slice (addr : Nat)
  | far (frame : Nat)
  | table
  | merge
  | predictor
  | prism (q : Nat)
  | facetStream (f : Nat)
  | quadStream (q : Nat)
  | update (q : Nat)
  | fec (p : Nat) (symbols : Nat)
  deriving DecidableEq, Repr

/-- A known-answer test as a facet in structured mode ran it, with integer data (R127): the stored tiles of its span, the INT8 rows streamed against it, the accumulator rows that came out, and what LAT_CNT_LOAD, LAT_CNT_INJECT and LAT_CNT_STALL counted. -/
structure KatRun where
  tiles : List (List Byte)
  inputs : List (List Byte)
  results : List (List Word)
  loads : Nat
  injects : Nat
  stalls : Nat
  deriving DecidableEq, Repr

/-- How the elements of an output of a shadow check compare: by value in a floating-point type, or exactly (R477). -/
inductive OutElem where
  | fp32 | bf16 | e4m3 | e5m2 | exact
  deriving DecidableEq, Repr

/-- One output of a task, as an engine queue issues it (R476): its address, counts and headers, and the patterns of its elements. -/
structure TaskOut where
  head : List Nat
  elem : OutElem
  elems : List Nat
  deriving DecidableEq, Repr

/-- The outputs of the live facet's task and of the spare's (R476). -/
structure ShadowOuts where
  live : List TaskOut
  spare : List TaskOut
  deriving DecidableEq, Repr

/-- What a BAR4 access brings: a write's bytes, and the 8-byte words in which a read meets an uncorrectable error for the first time (R186). -/
structure Bar4Data where
  bytes : List Byte
  bad : List Nat
  deriving DecidableEq, Repr

/-- One sample of a quadrant: core voltage in mV, junction temperature in 1/8 degrees, stretched cycles in the last 1 024 (R482). -/
structure QuadSample where
  mv : Nat
  temp : Int
  stretch : Nat
  deriving DecidableEq, Repr

/-- The commands and events of the part. -/
inductive Instr where
  /-- The internal timer, counting the reference clock, reaches the end of a period and makes the tick that starts the next frame. (R20, row INTERNAL_TIMER_TICK) -/
  | internalTimerTick
  /-- A rising edge on TICK_IN makes a tick, or is ignored and counted in FSQ_CNT_EARLY when it comes earlier than R20 allows. (R21, row TICK_IN_EDGE) -/
  | tickInEdge
  /-- The PTM-aligned timer reaches its grid point, given in PTM nanoseconds, and makes a tick, moved towards the grid within the limits of R20. (R22, row PTM_GRID_TICK) -/
  | ptmGridTick (point : Int)
  /-- No TICK_IN edge has come by the latest allowed time, so the Frame Sequencer makes the tick itself and counts it as missed. (R21, row TICK_SYNTH) -/
  | tickSynth
  /-- The host writes a new tick source, to take effect after the next tick. (R23, row FSQ_TICKCTL_WRITE) -/
  | fsqTickctlWrite (src : Nat)
  /-- A write of 1 to FSQ_CTL.RUN while it reads 0 starts frames, or cancels a pending stop. (R52, row RUN_START) -/
  | runStart
  /-- A write of 0 to FSQ_CTL.RUN stops frames at the next tick, after the running frame and its report complete. (R52, row RUN_STOP) -/
  | runStop
  /-- A write of 1 to FSQ_SWAP.REQ requests that the admitted pending image become active at a later tick. (R33, row FSQ_SWAP_REQ) -/
  | fsqSwapReq
  /-- A write of 1 to FSQ_SWAP.CANCEL clears a swap request that has not yet taken place. (R33, row FSQ_SWAP_CANCEL) -/
  | fsqSwapCancel
  /-- The LOAD_IMAGE command fetches a frame image into the pending slot and starts admission, or completes at once with PENDING_BUSY. (R30, row LOAD_IMAGE) -/
  | loadImage (qp : Nat)
  /-- Admission checks end, and the result is posted on MSI-X vector 3, in FSQ_ADMIT and in the completion entry. (R31, row ADMISSION_END) -/
  | admissionEnd
  /-- The MANIFEST command names the session entries for a target frame, and completes LATE or BAD_FRAME when it comes too late or names a wrong frame. (R39, row MANIFEST) -/
  | manifestCmd (qp : Nat)
  /-- The fetch of a manifest's entries ends when all of them have been fetched, or at the tick of the target frame, and the command completes. (R408, row MANIFEST_FETCH_END) -/
  | manifestFetchEnd (fetched : Nat)
  /-- A 128-byte write to an express window is checked and queued for its express task, or is refused or discarded. (R410, row EXPRESS_REQUEST) -/
  | expressRequest (qp : Nat) (request : List Byte)
  /-- An express task starts 9 cycles after its request, or after its window opens, when the window still holds its XWCL. (R42, row EXPRESS_DISPATCH) -/
  | expressDispatch (task : Nat)
  /-- A task is released at its release offset, or after the earlier task on its context ends, and its context starts at ENTRY. (R287, row TASK_RELEASE) -/
  | taskRelease (task : Nat)
  /-- A task's watchdog limit expires, and the task is aborted with STALL_WATCHDOG. (R44, row STALL_WATCHDOG) -/
  | stallWatchdog (w : Who)
  /-- At cycle B + 52 000, every task still running is aborted with OVERRUN, and tasks not yet released are not run. (R45, row HARD_LIMIT) -/
  | hardLimit
  /-- After the last task of a frame ends, the frame report is written into the next free ring buffer or dropped, and MSI-X vector 0 is raised. (R48, row FRAME_REPORT) -/
  | frameReport
  /-- A write to FSQ_RPT_TAIL returns report buffers to the device, or is ignored when it is out of range. (R53, row FSQ_RPT_TAIL_WRITE) -/
  | fsqRptTailWrite (tail : Nat)
  /-- A write to FSQ_RPT_BASE_LO, FSQ_RPT_BASE_HI or FSQ_RPT_CFG sets the report ring and resets HEAD and TAIL to 0. (R53, row FSQ_RPT_RING_CONFIG) -/
  | fsqRptRingConfig (reg : RingReg) (value : Word)
  /-- A host write to a register field that has no row of its own acts by its access code, including W1C clears and W1S sets. (R13, row HOST_REGISTER_WRITE) -/
  | hostRegisterWrite (addr size value : Nat)
  /-- A narrow, unaligned or unassigned BAR0 access completes normally: a write is discarded, a read returns 0xFF bytes, and a host access error is logged. (R12, row BAR0_ACCESS_ERROR) -/
  | bar0AccessError (bar : Nat) (isWrite : Bool) (addr size : Nat)
  /-- An instruction with a reserved opcode, an undefined function or a non-zero unused field aborts its task with ILLEGAL_INSN when it would issue. (R292, row ILLEGAL_INSTRUCTION) -/
  | illegalInstruction (w : Who) (word : BitVec 64)
  /-- Integer addition modulo 2^32, in register or immediate form. (R294, row ADD) -/
  | add (w : Who) (o : AluArgs)
  /-- Integer subtraction modulo 2^32. (R294, row SUB) -/
  | sub (w : Who) (o : AluArgs)
  /-- Bitwise AND. (R294, row AND) -/
  | andI (w : Who) (o : AluArgs)
  /-- Bitwise OR. (R294, row OR) -/
  | orI (w : Who) (o : AluArgs)
  /-- Bitwise XOR. (R294, row XOR) -/
  | xorI (w : Who) (o : AluArgs)
  /-- Shift left by b[4:0]. (R294, row SLL) -/
  | sll (w : Who) (o : AluArgs)
  /-- Logical shift right by b[4:0]. (R294, row SRL) -/
  | srl (w : Who) (o : AluArgs)
  /-- Arithmetic shift right by b[4:0]. (R294, row SRA) -/
  | sra (w : Who) (o : AluArgs)
  /-- Writes 1 when a is below b as signed numbers, else 0. (R294, row SLT) -/
  | slt (w : Who) (o : AluArgs)
  /-- Writes 1 when a is below b as unsigned numbers, else 0. (R294, row SLTU) -/
  | sltu (w : Who) (o : AluArgs)
  /-- Signed minimum. (R294, row MIN) -/
  | minS (w : Who) (o : AluArgs)
  /-- Signed maximum. (R294, row MAX) -/
  | maxS (w : Who) (o : AluArgs)
  /-- Unsigned minimum. (R294, row MINU) -/
  | minu (w : Who) (o : AluArgs)
  /-- Unsigned maximum. (R294, row MAXU) -/
  | maxu (w : Who) (o : AluArgs)
  /-- Low 32 bits of the product. (R294, row MUL) -/
  | mul (w : Who) (o : AluArgs)
  /-- High 32 bits of the signed product. (R294, row MULH) -/
  | mulh (w : Who) (o : AluArgs)
  /-- High 32 bits of the unsigned product. (R294, row MULHU) -/
  | mulhu (w : Who) (o : AluArgs)
  /-- Signed division rounded towards zero, with fixed results for division by zero and overflow. (R294, row DIV) -/
  | div (w : Who) (o : AluArgs)
  /-- Unsigned division, giving 0xFFFF_FFFF for division by zero. (R294, row DIVU) -/
  | divu (w : Who) (o : AluArgs)
  /-- Signed remainder with the sign of a. (R294, row REM) -/
  | rem (w : Who) (o : AluArgs)
  /-- Unsigned remainder. (R294, row REMU) -/
  | remu (w : Who) (o : AluArgs)
  /-- Counts the leading zeros of a. (R294, row CLZ) -/
  | clz (w : Who) (o : AluArgs)
  /-- Counts the trailing zeros of a. (R294, row CTZ) -/
  | ctz (w : Who) (o : AluArgs)
  /-- Counts the set bits of a. (R294, row POPC) -/
  | popc (w : Who) (o : AluArgs)
  /-- FP32 addition, rounded to nearest even, with subnormals flushed. (R295, row FADD) -/
  | fadd (w : Who) (o : AluArgs)
  /-- FP32 subtraction. (R295, row FSUB) -/
  | fsub (w : Who) (o : AluArgs)
  /-- FP32 multiplication. (R295, row FMUL) -/
  | fmul (w : Who) (o : AluArgs)
  /-- FP32 d + a x b with one rounding. (R295, row FMA) -/
  | fma (w : Who) (o : AluArgs)
  /-- FP32 division, correctly rounded. (R295, row FDIV) -/
  | fdiv (w : Who) (o : AluArgs)
  /-- FP32 square root, correctly rounded. (R295, row FSQRT) -/
  | fsqrt (w : Who) (o : AluArgs)
  /-- FP32 minimum, giving the NaN pattern when either operand is NaN. (R295, row FMIN) -/
  | fmin (w : Who) (o : AluArgs)
  /-- FP32 maximum, giving the NaN pattern when either operand is NaN. (R295, row FMAX) -/
  | fmax (w : Who) (o : AluArgs)
  /-- FP32 equality compare. (R295, row FEQ) -/
  | feq (w : Who) (o : AluArgs)
  /-- FP32 less-than compare. (R295, row FLT) -/
  | flt (w : Who) (o : AluArgs)
  /-- FP32 less-or-equal compare. (R295, row FLE) -/
  | fle (w : Who) (o : AluArgs)
  /-- Converts a signed integer to FP32. (R295, row FCVT_S_W) -/
  | fcvtSW (w : Who) (o : AluArgs)
  /-- Converts FP32 to a signed integer with saturation, NaN giving 0. (R295, row FCVT_W_S) -/
  | fcvtWS (w : Who) (o : AluArgs)
  /-- FP32 absolute value. (R295, row FABS) -/
  | fabs (w : Who) (o : AluArgs)
  /-- FP32 negation. (R295, row FNEG) -/
  | fneg (w : Who) (o : AluArgs)
  /-- Jumps relative to pc and links pc + 8 into s[d]. (R296, row JAL) -/
  | jal (w : Who) (d : Reg) (imm : Word)
  /-- Jumps to s[a] + IMM and links pc + 8 into s[d]. (R296, row JALR) -/
  | jalr (w : Who) (d a : Reg) (imm : Word)
  /-- Conditional branch by the FUNC condition on s[a] and s[b]. (R296, row BR) -/
  | br (w : Who) (cond : Cond) (a b : Reg) (imm : Word)
  /-- Decrements s[d] and branches when the result is not zero. (R296, row DBNZ) -/
  | dbnz (w : Who) (d : Reg) (imm : Word)
  /-- Waits until TCYC reaches s[a] + IMM. (R296, row WAITT) -/
  | waitt (w : Who) (a : Reg) (imm : Word)
  /-- TCYC reaches a waiting WAITT's target, and the instruction completes. (R298, row WAITT_TARGET_REACHED) -/
  | waittTargetReached (w : Who)
  /-- Reads a special register into s[d]. (R299, row MFSR) -/
  | mfsr (w : Who) (d : Reg) (n : Nat)
  /-- Writes s[a] to a writable special register such as SLOTSEL. (R299, row MTSR) -/
  | mtsr (w : Who) (a : Reg) (n : Nat)
  /-- Loads a facet memory word through the narrow view. (R301, row LD_W) -/
  | ldW (w : Who) (d a : Reg) (imm : Word)
  /-- Stores a word to facet memory through the narrow view. (R301, row ST_W) -/
  | stW (w : Who) (a b : Reg) (imm : Word)
  /-- Fills a facet memory range with a 32-bit pattern, holding its context until done. (R172, row MFILL) -/
  | mfill (w : Who) (a b : Reg) (imm : Word)
  /-- Copies a facet memory range within the same facet, holding its context until done. (R173, row MCOPY) -/
  | mcopy (w : Who) (a b : Reg) (imm : Word)
  /-- An MFILL or MCOPY finishes, and its context may issue again. (R303, row FILL_COPY_COMPLETE) -/
  | fillCopyComplete (w : Who)
  /-- Sends a wait for n counts to a semaphore and stalls until it is granted. (R258, row SWAIT) -/
  | swait (w : Who) (d a b : Reg) (imm : Word)
  /-- Takes n counts only when they are available without queuing, and returns the outcome and the count. (R258, row SWAIT_TRY) -/
  | swaitTry (w : Who) (d a b : Reg) (imm : Word)
  /-- Fences unless NOFENCE is set, then sends a post of n to a semaphore. (R259, row SPOST) -/
  | spost (w : Who) (a b : Reg) (imm : Word) (nofence : Bool)
  /-- A semaphore operation message reaches its quadrant, where posts are applied first and then waiters are served in order. (R260, row SEM_MESSAGE_APPLY) -/
  | semMessageApply (sem : Nat)
  /-- A grant reaches the waiting context, which writes s[d] and completes its SWAIT. (R262, row SWAIT_GRANT) -/
  | swaitGrant (w : Who)
  /-- Waits until an arrival counter reaches a target. (R177, row CWAIT) -/
  | cwait (w : Who) (d a b : Reg) (ctr : Nat)
  /-- Returns an arrival counter's value without waiting. (R305, row CWAIT_TRY) -/
  | cwaitTry (w : Who) (d a b : Reg) (ctr : Nat)
  /-- Sets an arrival counter to 0. (R176, row CRESET) -/
  | creset (w : Who) (ctr : Nat)
  /-- An arrival counter reaches a waiting CWAIT's target, and the CWAIT completes with the count. (R177, row CWAIT_SATISFIED) -/
  | cwaitSatisfied (w : Who)
  /-- The producer takes a credit from EMPTY and reserves the next channel slot, waiting while no credit is free. (R266, row CHPUSH) -/
  | chpush (w : Who) (d : Reg) (ch : ChanName)
  /-- A credit is granted to a waiting CHPUSH, which returns the reserved slot's address. (R266, row CHPUSH_GRANT) -/
  | chpushGrant (w : Who)
  /-- The producer commits its oldest uncommitted reservation as a packet of L bytes. (R268, row CHCOMMIT) -/
  | chcommit (w : Who) (a : Reg) (ch : ChanName)
  /-- The producer voids every open reservation of the channel. (R269, row CHCOMMIT_REWIND) -/
  | chcommitRewind (w : Who) (ch : ChanName)
  /-- A commit or rewind message reaches the channel after its travel time. (R268, row COMMIT_ARRIVAL) -/
  | commitArrival (ch : ChanName)
  /-- A packet becomes visible once its commit has arrived and its fill count reaches L, acting as a post of 1 on FULL. (R268, row PACKET_VISIBLE) -/
  | packetVisible (ch : ChanName)
  /-- The consumer waits for the oldest visible packet, as an SWAIT of 1 on FULL. (R270, row CHPOP_ACQUIRE) -/
  | chpopAcquire (w : Who) (d b : Reg) (ch : ChanName)
  /-- A visible packet is granted to a waiting ACQUIRE, which returns the packet's address and length. (R270, row PACKET_ACQUIRED) -/
  | packetAcquired (w : Who)
  /-- The consumer releases its oldest acquired packet once its reads are done, posting 1 on EMPTY. (R271, row CHPOP_RELEASE) -/
  | chpopRelease (w : Who) (ch : ChanName)
  /-- The producer or consumer voids every reservation and packet of the channel, setting FULL and EMPTY to 0. (R272, row CHFLUSH) -/
  | chflush (w : Who) (ch : ChanName)
  /-- Once the accesses in flight have been performed, the delayed post on EMPTY of a rewind, release, flush or end is made. (R524, row DEFERRED_EMPTY_POST) -/
  | deferredEmptyPost (ch : ChanName)
  /-- The device rewrites a channel record within 16 cycles of a change to it. (R275, row CHANNEL_RECORD_REWRITE) -/
  | channelRecordRewrite (ch : ChanName)
  /-- Waits until the context's stores and earlier engine commands are performed and visible. (R282, row FENCE) -/
  | fence (w : Who)
  /-- The conditions a FENCE waits for hold, and the FENCE completes. (R282, row FENCE_COMPLETE) -/
  | fenceComplete (w : Who)
  /-- Starts the end of a task: it fences, drains posts and commits, ends Merge parts and closes streams. (R307, row TEND) -/
  | tend (w : Who)
  /-- TEND completes, the task ends, and R276 applies to the task's channels. (R307, row TEND_COMPLETE) -/
  | tendComplete (w : Who)
  /-- Validates a tensor descriptor image and installs it in a handle, writing the check code. (R320, row TDMK) -/
  | tdmk (w : Who) (d a : Reg) (handle off : Nat) (fromSts : Bool) (after : Nat)
  /-- Makes a descriptor handle invalid. (R321, row TDRL) -/
  | tdrl (w : Who) (handle : Nat) (after : Nat)
  /-- Opens a stream on a facet or quadrant engine with a block list, a rate and options. (R323, row STRM) -/
  | strm (w : Who) (o : StrmArgs) (after : Nat)
  /-- Returns a stream's state, optionally waiting until it leaves the open state. (R324, row STQ) -/
  | stq (w : Who) (d : Reg) (handle : Nat) (wait qeng walk : Bool) (after : Nat)
  /-- Names a span of tiles, waits for their headers, chooses g, and loads the first pass's stationary values. (R326, row LLOAD) -/
  | lload (w : Who) (n kp fmt : Nat) (hi : Bool) (after : Nat)
  /-- Runs the passes of the last loaded span over M streamed rows into accumulator rows. (R328, row LPASS) -/
  | lpass (w : Who) (a b : Reg) (accum : Bool) (afmt np : Nat) (after : Nat)
  /-- Puts the Lattice into split mode. (R329, row LSPLIT) -/
  | lsplit (w : Who) (after : Nat)
  /-- Reads accumulator rows, converts them, and writes them to facet memory. (R330, row LDRAIN_DRAIN) -/
  | ldrainDrain (w : Who) (d a b : Reg) (rows conv : Nat) (after : Nat)
  /-- Writes rows from facet memory into the accumulator. (R330, row LDRAIN_FILL) -/
  | ldrainFill (w : Who) (a b : Reg) (rows conv : Nat) (after : Nat)
  /-- Sets the issuing context's GMAX. (R325, row CMODE) -/
  | cmode (w : Who) (gmax : Nat) (after : Nat)
  /-- Vector addition. (R332, row VADD) -/
  | vadd (w : Who) (v : VecArgs)
  /-- Vector maximum. (R332, row VMAX) -/
  | vmax (w : Who) (v : VecArgs)
  /-- Vector fused multiply-add, or a multiply with NOADD. (R332, row VFMA) -/
  | vfma (w : Who) (v : VecArgs)
  /-- Vector exponential. (R332, row VEXP) -/
  | vexp (w : Who) (v : VecArgs)
  /-- Vector reciprocal square root. (R332, row VRSQ) -/
  | vrsq (w : Who) (v : VecArgs)
  /-- Vector sigmoid. (R332, row VSIG) -/
  | vsig (w : Who) (v : VecArgs)
  /-- Reduces each vector to one FP32 sum or maximum. (R332, row VRED) -/
  | vred (w : Who) (v : VecArgs)
  /-- Converts groups of elements by a conversion code. (R332, row VCVT) -/
  | vcvt (w : Who) (v : VecArgs)
  /-- Pushes records from facet memory into the facet's Merge leaf for a job. (R334, row MGPUSH) -/
  | mgpush (w : Who) (a b : Reg) (job : Nat) (after : Nat)
  /-- Pushes records, then ends the leaf's part in the job. (R334, row MGPUSH_END) -/
  | mgpushEnd (w : Who) (a b : Reg) (job : Nat) (after : Nat)
  /-- Opens a Merge job from a 64-byte job descriptor. (R335, row MGDRAIN_OPEN) -/
  | mgdrainOpen (w : Who) (a : Reg) (after : Nat)
  /-- Waits for a job to complete, returns its counts and frees the job number. (R335, row MGDRAIN_WAIT) -/
  | mgdrainWait (w : Who) (d b : Reg) (job : Nat) (after : Nat)
  /-- Queues a Predictor query that writes a neuron list for S sessions. (R336, row PDQ_QUERY) -/
  | pdqQuery (w : Who) (d a : Reg) (after : Nat)
  /-- Asks the Predictor to load a weight set ahead of use. (R336, row PDQ_PREFETCH) -/
  | pdqPrefetch (w : Who) (a : Reg) (after : Nat)
  /-- Applies a group's sign rule to parameters from a sign vector, aborting with STEP_MISMATCH on a wrong stamp. (R339, row UPSIGN) -/
  | upsign (w : Who) (a : Reg) (after : Nat)
  /-- Writes the majority vote of V sign vectors, aborting with STEP_MISMATCH on a wrong stamp. (R340, row UPVOTE) -/
  | upvote (w : Who) (a : Reg) (after : Nat)
  /-- An engine takes a queued command once its start conditions hold, and checks it, aborting the task imprecisely on a fault. (R319, row ENGINE_COMMAND_START) -/
  | engineCommandStart (w : Who) (q : EQueue)
  /-- An engine command's effects are all performed and visible, and it writes its result to s[d]. (R318, row ENGINE_COMMAND_COMPLETE) -/
  | engineCommandComplete (w : Who) (q : EQueue)
  /-- Once a span's headers have arrived, the Compactor chooses its gather factor. (R115, row GATHER_FACTOR_CHOICE) -/
  | gatherFactorChoice (w : Who)
  /-- Once a pass's group has been staged, the Compactor loads the stationary values into the Lattice over 128 cycles. (R58, row STATIONARY_LOAD) -/
  | stationaryLoad (w : Who)
  /-- A stream engine fetches a 512-byte burst of block-list entries when four or fewer remain, taking the descriptors the entries name. (R234, row BLOCK_LIST_FETCH) -/
  | blockListFetch (e h : Nat)
  /-- A transfer starts once fewer than six are in flight, translating any context pages it touches. (R237, row TRANSFER_START) -/
  | transferStart (e h : Nat)
  /-- A transfer is performed at its destination, in entry order for operand buffers and in any order for memory. (R237, row TRANSFER_COMPLETE) -/
  | transferComplete (e t : Nat)
  /-- A stream's list counter reaches its target, and the engine reads the list and works out the active groups. (R239, row NEURON_LIST_READY) -/
  | neuronListReady (e h : Nat)
  /-- The combiner emits a key's result, which is written through the output descriptor. (R138, row MERGE_RESULT_WRITE) -/
  | mergeResultWrite (job : Nat)
  /-- Every producer leaf of a job has ended, the last key is emitted, and the WAIT form can complete. (R142, row MERGE_JOB_COMPLETE) -/
  | mergeJobComplete (job : Nat)
  /-- The Predictor loads a weight set into its least recently used buffer half. (R148, row WEIGHT_SET_LOAD) -/
  | weightSetLoad
  /-- The Predictor takes the next queued query, scores its sessions and writes the neuron list. (R154, row PREDICTOR_QUERY_SERVICE) -/
  | predictorQueryService
  /-- A host write through the facet window reaches facet memory, or is discarded when it targets instruction memory or a gated bank. (R166, row FACET_WINDOW_WRITE) -/
  | facetWindowWrite (addr : Nat) (data : List Byte)
  /-- START with OP 4 in FMEM_OPCTL starts a host fill, or is refused. (R172, row FMEM_HOST_FILL) -/
  | fmemHostFill (f : Nat)
  /-- START with OP 5 in FMEM_OPCTL starts a host copy, or is refused. (R173, row FMEM_HOST_COPY) -/
  | fmemHostCopy (f : Nat)
  /-- A host fill or copy completes, and FMEM_OPSTAT.STATE reads 2. (R190, row FMEM_HOST_OP_DONE) -/
  | fmemHostOpDone (f : Nat)
  /-- Setting a bit of FMEM_GATE requests that the bank be gated. (R178, row FMEM_GATE_REQUEST) -/
  | fmemGateRequest (f bank : Nat)
  /-- Clearing a bit of FMEM_GATE before the bank has gated cancels the request. (R178, row FMEM_GATE_CANCEL) -/
  | fmemGateCancel (f bank : Nat)
  /-- Clearing a bit of FMEM_GATE for a gated bank starts a wake. (R181, row FMEM_WAKE) -/
  | fmemWake (f bank : Nat)
  /-- The bank's pending-write counter reaches 0, and the bank gates. (R178, row BANK_GATED) -/
  | bankGated (f bank : Nat)
  /-- 4 096 cycles after the request, the bank gates regardless, dropping pending writes. (R178, row GATE_FORCED) -/
  | gateForced (f bank : Nat)
  /-- A waking bank has zeroed its lines, and FMEM_GATED clears. (R181, row BANK_WAKE_DONE) -/
  | bankWakeDone (f bank : Nat)
  /-- A host access through BAR4 reads or writes the State Store byte by byte, with out-of-range and page-table bytes handled specially; `bad` names the 8-byte words in which a read meets an uncorrectable error. (R187, row BAR4_ACCESS) -/
  | bar4Access (isWrite : Bool) (addr len : Nat) (data : Bar4Data)
  /-- State Store zeroing after a main power-on reset ends, and INIT_DONE reads 1. (R189, row STS_INIT_DONE) -/
  | stsInitDone
  /-- Far memory zeroing ends, and FAR_STATUS.INIT_DONE reads 1. (R220, row FAR_INIT_DONE) -/
  | farInitDone
  /-- The MIGRATE command supplies migration entries to run during frame t - 1, or completes LATE or BAD_FRAME. (R211, row MIGRATE) -/
  | migrateCmd (qp : Nat)
  /-- A migration entry reads a FAR page into a near frame, leaving it BOTH and clean. (R212, row FETCH) -/
  | fetchPage (m n : Nat)
  /-- A migration entry moves a FAR page to NEAR and releases the far frame. (R212, row FETCH_MOVE) -/
  | fetchMove (m i : Nat)
  /-- A migration entry writes a NEAR or BOTH page to far memory as needed, leaving it FAR. (R212, row EVICT) -/
  | evictPage (m i : Nat)
  /-- A migration entry writes a page to its far home, leaving it BOTH and clean. (R212, row CLEAN) -/
  | cleanPage (m i : Nat)
  /-- A migration entry releases a BOTH page's far home, leaving it NEAR. (R212, row DROP_FAR) -/
  | dropFar (m i : Nat)
  /-- A migration entry zero-fills a near frame for an ABSENT page, leaving it NEAR. (R212, row ZERO_NEAR) -/
  | zeroNear (m i : Nat)
  /-- A migration entry releases a page's frames, leaving it ABSENT. (R212, row FREE) -/
  | freePage (m i : Nat)
  /-- A migration entry changes only a page's format and pin. (R212, row RETAG) -/
  | retagPage (m i : Nat)
  /-- A migration's transfer ends, the new page-table entry is written, and waiting writes go to the new place. (R214, row MIGRATION_COMMIT) -/
  | migrationCommit (m i : Nat)
  /-- At the end of frame t - 1, entry statuses are written back, unstarted entries read NOT_RUN, and the command completes. (R213, row MIGRATE_STATUS_WRITEBACK) -/
  | migrateStatusWriteback
  /-- A reserved window opens at T0 for the page mover, the Protractor or shadow checks. (R29, row RESERVED_WINDOW_OPEN) -/
  | reservedWindowOpen (i : Nat)
  /-- A reserved window closes at T1. (R29, row RESERVED_WINDOW_CLOSE) -/
  | reservedWindowClose (i : Nat)
  /-- The page mover copies a failing far frame to a pool frame, commits it and logs the retirement. (R218, row FAR_FRAME_RETIRE) -/
  | farFrameRetire
  /-- A write of GO to CPT_PTE_CMD writes one page-table entry, or refuses it with a RESULT. (R222, row CPT_PTE_WRITE) -/
  | cptPteWrite
  /-- A write of GO to PRS_PCMD loads PRS_PBUF as a stored permutation, or refuses it when a lane repeats. (R249, row PERMUTATION_LOAD) -/
  | permutationLoad (quad index : Nat)
  /-- The Prism finishes computing a permutation's stage settings and sets its VALID bit. (R249, row PERMUTATION_STORED) -/
  | permutationStored
  /-- A write of 1 to CHD_P_CTL.ENABLE starts bring-up of a Chord port at DETECT. (R358, row PORT_ENABLE) -/
  | portEnable (p : Nat)
  /-- A write of 0 to ENABLE takes the port to DOWN at once and discards its queued packets. (R358, row PORT_DISABLE) -/
  | portDisable (p : Nat)
  /-- Each lane of a port finds its partner's signal, and the port moves to TRAIN. (R358, row SIGNAL_DETECTED) -/
  | signalDetected (p : Nat)
  /-- The Protractor finishes adapting a port's equalisers, and the port moves to ALIGN. (R358, row TRAIN_DONE) -/
  | trainDone (p : Nat)
  /-- The receiver finds lane order and skew and locks to pair boundaries, and the port moves to EXCHANGE. (R358, row ALIGN_DONE) -/
  | alignDone (p : Nat)
  /-- A bring-up state runs out its time, and the port returns to DOWN with its REASON. (R358, row BRINGUP_TIMEOUT) -/
  | bringupTimeout (p : Nat)
  /-- 1 ms after a failure, the port starts again at DETECT. (R358, row BRINGUP_RETRY) -/
  | bringupRetry (p : Nat)
  /-- An EXCHANGE control field carrying version, chip identifier or credits is received and checked. (R359, row EXCHANGE) -/
  | exchange (p version chip vc credits : Nat)
  /-- A DELAY_PROBE control field is received and echoed. (R359, row DELAY_PROBE) -/
  | delayProbe (p stamp : Nat)
  /-- A DELAY_ECHO control field is received, and the one-way delay is measured and written. (R359, row DELAY_ECHO) -/
  | delayEcho (p stamp : Nat)
  /-- A TICK control field is received, and a follower places its TICK_IN edge from it. (R387, row TICK_FIELD) -/
  | tickField (p arg : Nat)
  /-- A receiver finds a data lane lost or worn and starts a lane swap, or leaves ACTIVE when no spare remains. (R388, row LANE_LOST) -/
  | laneLost (p lane : Nat)
  /-- A SWAP_REQ control field is received, and the partner copies the lane onto the spare. (R388, row SWAP_REQ) -/
  | swapReq (p lane count : Nat)
  /-- A SWAP_ACK control field is received, and the receiver deskews the spare and switches at the counted pair. (R388, row SWAP_ACK) -/
  | swapAck (p lane count : Nat)
  /-- A codeword pair fails FEC decoding and delivers none of its flits or control field. (R357, row FEC_FAILURE) -/
  | fecFailure (p : Nat)
  /-- A DATA flit is received and accepted in order, or refused with a NAK. (R363, row DATA_FLIT) -/
  | dataFlit (p : Nat) (flit : List Byte)
  /-- An IDLE flit is received, carrying an ACK and returned credits. (R363, row IDLE_FLIT) -/
  | idleFlit (p : Nat) (flit : List Byte)
  /-- No acknowledgement advances for 4 us, so the transmitter resends, or retrains after nine sends. (R364, row ACK_TIMEOUT) -/
  | ackTimeout (p : Nat)
  /-- A queued packet leaves its port once it holds credits for its whole length. (R367, row PACKET_TRANSMIT) -/
  | packetTransmit (p vc : Nat)
  /-- A received WRITE packet is performed into the State Store, or refused when out of range. (R376, row WRITE) -/
  | writePkt (p : Nat)
  /-- A received READ packet is answered with a RESP, or with ERROR when out of range. (R376, row READ) -/
  | readPkt (p : Nat)
  /-- A received RESP delivers read data, or aborts the requester on ERROR, or is discarded for a freed tag. (R377, row RESP) -/
  | respPkt (p : Nat)
  /-- A received POST adds to a semaphore, or is dropped when not allowed. (R378, row POST) -/
  | postPkt (p : Nat)
  /-- A received MERGE record enters leaf 48 + p of its job, or waits or is discarded. (R384, row MERGE) -/
  | mergePkt (p : Nat)
  /-- A received MERGE_END ends the port's leaf for the job. (R385, row MERGE_END) -/
  | mergeEndPkt (p : Nat)
  /-- A READ has no RESP 40 us after it was sent, and its task is aborted with HW_FAULT. (R377, row READ_TIMEOUT) -/
  | readTimeout (tag : Nat)
  /-- A multicast packet waits for credits beyond MCAST_STALL, and its task is aborted. (R383, row MCAST_STALL) -/
  | mcastStall (p vc : Nat)
  /-- A write to CHD_CHIPID sets the chip identifier, or is ignored while any port is not DOWN. (R360, row CHIPID_WRITE) -/
  | chipidWrite (chip : Nat)
  /-- A write of GO to CHD_OTCMD loads an owner table image, or refuses it. (R379, row OWNER_TABLE_LOAD) -/
  | ownerTableLoad (table : Nat)
  /-- A valid owner table load ends and sets its valid bit. (R379, row OWNER_TABLE_LOADED) -/
  | ownerTableLoaded
  /-- The host link trains at the highest speed and width the partner and channel allow. (R391, row LINK_TRAINING) -/
  | linkTraining (speed width : Nat)
  /-- A write of 1 to HIF_Q_CFG.ENABLE starts a queue pair, or leaves it DISABLED with ERRCODE 4. (R401, row QP_ENABLE) -/
  | qpEnable (q : Nat)
  /-- A write of 0 to ENABLE stops fetching, and the pair drains. (R412, row QP_DISABLE) -/
  | qpDisable (q : Nat)
  /-- Every command of a draining queue pair has finished, and STATE reads DISABLED. (R412, row QP_DRAINED) -/
  | qpDrained (q : Nat)
  /-- An SQ_TAIL doorbell write submits entries, or puts the pair in ERROR when out of range. (R402, row SQ_TAIL) -/
  | sqTail (q value : Nat)
  /-- A CQ_HEAD doorbell write frees completion entries, or puts the pair in ERROR. (R402, row CQ_HEAD) -/
  | cqHead (q value : Nat)
  /-- The device fetches a submitted entry once it can reserve a CQ place for its completion. (R404, row SQ_FETCH) -/
  | sqFetch (q : Nat)
  /-- The NOP command completes when fetched. (R406, row NOP) -/
  | nopCmd (qp : Nat)
  /-- An SQ entry with an undefined opcode or bad fields completes with BAD_COMMAND. (R405, row BAD_COMMAND) -/
  | badCommand (qp : Nat)
  /-- A device read ends in an error completion or a timeout, aborting the task or failing the command. (R394, row DEVICE_READ_ERROR) -/
  | deviceReadError (src : ReadSource)
  /-- Clearing Bus Master Enable stops device requests and MSI-X messages. (R396, row BUS_MASTER_DISABLE) -/
  | busMasterDisable
  /-- Entry to D3hot clears RUN at the next tick and disables the queue pairs. (R398, row D3HOT_ENTRY) -/
  | d3hotEntry
  /-- Return to D0 keeps memory contents, and the host re-enables queues and RUN. (R398, row D0_RETURN) -/
  | d0Return
  /-- A Function Level Reset performs the function reset, disabling queues and discarding commands. (R397, row FUNCTION_LEVEL_RESET) -/
  | functionLevelReset
  /-- A Hot Reset received on the link causes a function reset. (R497, row HOT_RESET) -/
  | hotReset
  /-- The link going down, or the loss of PCIE_REFCLK, causes a function reset. (R497, row DL_DOWN) -/
  | dlDown
  /-- Every 1 ms, a PTM exchange runs, and PTM time becomes available or, after three failures, unavailable. (R416, row PTM_EXCHANGE) -/
  | ptmExchange (ok : Bool) (timeNs : Nat)
  /-- A DOE mailbox request for discovery or SPDM is served. (R415, row DOE_REQUEST) -/
  | doeRequest (object : List Byte)
  /-- A lane margining command is carried out at the receiver in L0. (R417, row LANE_MARGINING) -/
  | laneMargining (lane : Nat) (voltage : Bool) (step : Nat) (errors : Nat)
  /-- MCTP Set Endpoint ID gives one binding's endpoint its ID. (R422, row SET_ENDPOINT_ID) -/
  | setEndpointId (binding : Binding) (eid : Nat)
  /-- The Limmund GET_STATUS command returns the device status. (R423, row GET_STATUS) -/
  | getStatus (binding : Binding)
  /-- SET_OFFLINE mode 0 leaves the offline mode and boots the main side when needed. (R426, row SET_OFFLINE_NONE) -/
  | setOfflineNone (binding : Binding)
  /-- SET_OFFLINE mode 1 clears RUN at the next tick and ignores host writes of 1 to RUN. (R426, row SET_OFFLINE_QUIESCE) -/
  | setOfflineQuiesce (binding : Binding)
  /-- SET_OFFLINE mode 2 quiesces, then holds the main domain in reset. (R426, row SET_OFFLINE_RESET) -/
  | setOfflineReset (binding : Binding)
  /-- SET_OFFLINE mode 3 resets the main domain, then sequences the main rails off. (R426, row SET_OFFLINE_POWER_OFF) -/
  | setOfflinePowerOff (binding : Binding)
  /-- Sets or removes the package power cap. (R427, row SET_POWER_CAP) -/
  | setPowerCap (binding : Binding) (watts : Nat)
  /-- Returns entries of the management event log. (R423, row READ_LOG) -/
  | readLog (binding : Binding) (first count : Nat)
  /-- The manager reads BAR0 registers. (R425, row REG_READ) -/
  | regRead (binding : Binding) (addr words : Nat)
  /-- The manager writes a BAR0 register, or gets NOT_OWNER for a host-owned field. (R425, row REG_WRITE) -/
  | regWrite (binding : Binding) (addr : Nat) (value : Word)
  /-- The manager fills MGT_M2H_BUF and sets READY, or gets BUSY. (R439, row MBX_SEND) -/
  | mbxSend (binding : Binding) (message : List Byte)
  /-- The manager takes part of the host's mailbox message from an offset. (R439, row MBX_FETCH) -/
  | mbxFetch (binding : Binding) (offset : Nat)
  /-- A write of SEND to MGT_H2M sends the host's message to the manager. (R439, row HOST_MAILBOX_SEND) -/
  | hostMailboxSend (len : Nat)
  /-- Gives the owner image key, which is installed now or at the next main power-on reset. (R432, row SET_IMAGE_KEY) -/
  | setImageKey (binding : Binding) (key : List Byte)
  /-- Fuses an owner key hash into an unfused slot, or fails with AUTH_FAIL. (R431, row FUSE_OWNER) -/
  | fuseOwner (binding : Binding) (slot : Nat) (hash signature publicKey : List Byte)
  /-- Sets the revoke bit of a vendor or owner key slot under a signature. (R431, row REVOKE) -/
  | revoke (binding : Binding) (cls slot : Nat) (signature publicKey : List Byte)
  /-- Raises a component's anti-rollback counter to its active image's SVN. (R433, row COMMIT_SVN) -/
  | commitSvn (binding : Binding) (component : Nat)
  /-- A Limmund message with an undefined command or a malformed body completes with BAD_REQUEST. (R423, row LIMMUND_BAD_REQUEST) -/
  | limmundBadRequest (binding : Binding) (command : Nat) (body : List Byte)
  /-- A PLDM RequestUpdate starts a firmware update, or gets RETRY_REQUEST_UPDATE. (R436, row REQUEST_UPDATE) -/
  | requestUpdate (binding : Binding)
  /-- The component written to the inactive slot is checked by R428. (R436, row VERIFY_COMPLETE) -/
  | verifyComplete (component : Nat)
  /-- Marks verified slots active, switching the management firmware over at once. (R436, row ACTIVATE_FIRMWARE) -/
  | activateFirmware
  /-- New management firmware has not reported ready within 2 s, and the ROM returns to the other slot. (R437, row FIRMWARE_READY_TIMEOUT) -/
  | firmwareReadyTimeout
  /-- The SPDM responder returns the certificate chain of slot 0. (R434, row GET_CERTIFICATE) -/
  | getCertificate (offset len : Nat)
  /-- The SPDM responder signs a challenge with the alias key. (R435, row CHALLENGE) -/
  | challenge (nonce : List Byte)
  /-- The SPDM responder returns the measurement blocks, signed. (R435, row GET_MEASUREMENTS) -/
  | getMeasurements (index : Nat) (nonce : List Byte)
  /-- A PLDM Type 2 request reads a power or thermal sensor. (R513, row SENSOR_READ) -/
  | sensorRead (binding : Binding) (id : Nat) (reading : Int)
  /-- A write of COMMIT to RPM_CFG_CMD clamps the staged fields into the committed copy, or is refused. (R443, row CONFIG_COMMIT) -/
  | configCommit
  /-- A corrected error is fixed in flight and counted. (R452, row CORRECTED_ERROR) -/
  | correctedError (site : ErrorSite)
  /-- An uncorrectable error in a facet array aborts the task or half that owns it. (R71, row FACET_UE) -/
  | facetUe (f : Nat) (array : FacetArray) (half : Nat)
  /-- An uncorrectable facet memory error aborts the accessing task and records the address. (R164, row FMEM_UE) -/
  | fmemUe (f addr : Nat) (finder : Option Who)
  /-- An uncorrectable State Store error aborts the reading task and records the address. (R186, row STS_UE) -/
  | stsUe (addr : Nat) (finder : Option Who)
  /-- An uncorrectable far memory error aborts the task and marks the frame for retirement. (R193, row FAR_UE) -/
  | farUe (frame : Nat) (finder : Option Who)
  /-- An uncorrectable Merge tree error aborts tasks with open jobs and frees every job. (R146, row MERGE_UE) -/
  | mergeUe
  /-- An uncorrectable weight buffer error aborts the running query's task and invalidates both halves. (R155, row PREDICTOR_UE) -/
  | predictorUe
  /-- An uncorrectable Prism error aborts every task with a block in that Prism. (R255, row PRISM_UE) -/
  | prismUe (q : Nat)
  /-- An uncorrectable stream engine error aborts every task with a stream open there. (R256, row STREAM_ENGINE_UE) -/
  | streamEngineUe (e : Nat)
  /-- An uncorrectable Update unit error aborts the running command's task. (R354, row UPDATE_UE) -/
  | updateUe (q : Nat)
  /-- An uncorrectable error in the page table or its cache aborts the translating task. (R221, row TABLE_UE) -/
  | tableUe (w : Who)
  /-- A fatal error aborts every task, stops releases and clears RUN. (R455, row FATAL_ERROR) -/
  | fatalError (cause : Nat)
  /-- A slice copy ends, and the map changes at the next prologue. (R465, row SLICE_COPY_DONE) -/
  | sliceCopyDone
  /-- A retraining not run within 64 frames starts at once as urgent. (R468, row URGENT_RETRAIN) -/
  | urgentRetrain (ch : Nat)
  /-- A far retraining ends and resumes the channel, or fails. (R467, row RETRAIN_DONE) -/
  | retrainDone (ok : Bool)
  /-- A shadow check finishes comparing its outputs with the live task's. (R477, row SHADOW_CHECK_END) -/
  | shadowCheckEnd (q : Nat) (outs : ShadowOuts) (abandoned : Bool)
  /-- A lane's 65 536-symbol window ends, and the equaliser fit is applied or kept. (R473, row PROTRACTOR_WINDOW) -/
  | protractorWindow (host : Bool) (lane transitions : Nat) (singular : Bool) (ctle width height : Nat)
  /-- After 4 096 read bursts, the far read-strobe phase is adjusted. (R472, row FAR_STROBE_TRACK) -/
  | farStrobeTrack (ch readWindow writeWindow : Nat)
  /-- Every 1 300 cycles, RPM samples each quadrant's voltage, temperature and stretch. (R482, row SKEW_SAMPLE) -/
  | skewSample (samples : List QuadSample) (spineTemp : Int)
  /-- A skew excursion has lasted 26 000 cycles, and tasks on the throttled quadrant are aborted with OVERRUN. (R484, row SKEW_OVERRUN) -/
  | skewOverrun (q : Nat)
  /-- Every 130 000 cycles, package power is compared with the cap, and the throttle is adjusted. (R485, row POWER_CAP_SAMPLE) -/
  | powerCapSample (watts : Nat)
  /-- A sensor reaches 115 C: THERMTRIP_N asserts, the main domain resets, and every enable drops. (R512, row THERMTRIP) -/
  | thermtrip
  /-- SYS_REFCLK stops, or a core PLL loses lock, and a fatal error is declared. (R505, row CLOCK_LOSS) -/
  | clockLoss (pcie : Bool)
  /-- STBY_PWROK rises, the standby power-on reset ends, and the boot ROM runs. (R492, row STBY_PWROK_RISE) -/
  | stbyPwrokRise (straps : Nat)
  /-- STBY_PWROK falls, and the standby domain enters reset. (R495, row STBY_PWROK_FALL) -/
  | stbyPwrokFall
  /-- A PWR_GOOD rises, and after 1 ms the next group is enabled or the main power-on reset begins. (R493, row PWR_GOOD_RISE) -/
  | pwrGoodRise (n : Nat)
  /-- A PWR_GOOD has not risen within 20 ms, and the manager powers down and goes to POWER_OFF. (R493, row PWR_GOOD_TIMEOUT) -/
  | pwrGoodTimeout (n : Nat)
  /-- A PWR_GOOD falls unexpectedly, the main domain enters reset, and the rails are disabled. (R495, row PWR_GOOD_LOSS) -/
  | pwrGoodLoss (n : Nat)
  /-- A group's PWR_GOOD falls, or 5 ms pass, and the next lower group is disabled. (R494, row POWER_DOWN_STEP) -/
  | powerDownStep
  /-- Components 0x0002 and 0x0003 are checked and loaded, and the main domain leaves reset. (R430, row MAIN_FIRMWARE_LOADED) -/
  | mainFirmwareLoaded
  /-- PERST_N falls after the main power-on reset has ended, causing a main reset. (R497, row PERST_N_FALL) -/
  | perstNFall
  /-- PERST_N rises, releasing the host interface, or ending a main reset with a firmware reload. (R501, row PERST_N_RISE) -/
  | perstNRise
  /-- Every 100 us, the manager reads each core regulator's current over AVSBus. (R491, row AVS_CURRENT_READ) -/
  | avsCurrentRead (q amps : Nat)
  /-- The spare's recovery self-test and instruction-memory load end, and the new map is written with held accesses released, or the logical facet is left unmapped. (R459, row FACET_SWAP_DONE) -/
  | facetSwapDone (q : Nat) (runs : List KatRun)
  /-- The loaded management firmware reports ready, ending boot or switch-over, so that STATE reads READY and, at boot, main-rail power-up starts. (R429, row MANAGEMENT_FIRMWARE_READY) -/
  | managementFirmwareReady
  /-- The start-up self-test after the main domain is released ends, CMP_STATUS.STRUCT clears and GLB_STATUS.MAIN_READY reads 1. (R125, row START_UP_SELF_TEST_END) -/
  | startUpSelfTestEnd (runs : List (Nat × KatRun))
  /-- Setting Bus Master Enable to 1 lets the device issue memory requests and MSI-X messages again, so held command fetches, completion writes and report writes proceed. (R396, row BUS_MASTER_ENABLE) -/
  | busMasterEnable
  /-- A function reset completes within 100 ms and the host interface serves again. (R397, row FUNCTION_RESET_END) -/
  | functionResetEnd
  /-- In I3C mode, a SETDASA or ENTDAA on the side-band gives the device its dynamic address. (R421, row DYNAMIC_ADDRESS_ASSIGNMENT) -/
  | dynamicAddressAssignment (addr : Nat)
  /-- During a PLDM Type 5 update, the component image is written to its inactive flash slot. (R436, row COMPONENT_WRITE) -/
  | componentWrite (component offset : Nat) (data : List Byte)
  deriving DecidableEq, Repr

end Sys2Proof
end

