-- ==== Sys2Proof/WellFormed.lean ====
section
/-! DEFINITION. Which commands are well formed: an instruction's operands fit the fields of its encoding and leave its unused fields 0 (R292, R293, R331); a unit named by a command exists. -/

namespace Sys2Proof

/-- The context exists: logical facets 0 to 47, contexts 0 and 1. -/
def Who.wf (w : Who) : Bool := decide (w.lf < 48) && decide (w.ctx < 2)

/-- The channel name fits IMM[12:0] (R306). -/
def ChanName.wf (c : ChanName) : Bool := decide (c.consumer < 256) && decide (c.index < 32)

/-- Operands of a binary operation: the register form leaves IMM 0, the immediate form B 0 (R292, Table 10-3). -/
def AluArgs.wf (o : AluArgs) : Bool := if o.immForm then decide (o.b = 0) else decide (o.imm = 0)

/-- Operands of a unary operation: B and IMM are 0 (Table 10-3). -/
def AluArgs.wfUnary (o : AluArgs) : Bool := decide (o.b = 0) && decide (o.imm = 0)

/-- Operands of STRM: without LIST, D and the list's bits of IMM are 0 (R323). -/
def StrmArgs.wf (o : StrmArgs) : Bool :=
  decide (o.handle < 16) && decide (o.ctr < 64) && decide (o.listAddr < 8192) && (o.list || (decide (o.d = 0) && decide (o.ctr = 0) && decide (o.listAddr = 0)))

/-- Operands of a vector instruction within their fields (R317, R331). -/
def VecArgs.wf (v : VecArgs) : Bool := decide (v.count < 4096) && decide (v.after < 8)

/-- A vector instruction that has no operand B leaves B and its flags 0, and has no function bit of the binary operations (R331, R332). -/
def VecArgs.noB (v : VecArgs) : Bool := decide (v.b = 0) && !v.bacc && !v.bbc && !v.noadd && !v.negb

/-- Whether a command is well formed. -/
def Instr.wf : Instr → Bool
  | .internalTimerTick => true
  | .tickInEdge => true
  | .ptmGridTick _ => true
  | .tickSynth => true
  | .fsqTickctlWrite src => decide (src < 4)
  | .runStart => true
  | .runStop => true
  | .fsqSwapReq => true
  | .fsqSwapCancel => true
  | .loadImage qp => decide (qp < 64)
  | .admissionEnd => true
  | .manifestCmd qp => decide (qp < 64)
  | .manifestFetchEnd _ => true
  | .expressRequest qp request => decide (qp < 64) && decide (request.length = 128)
  | .expressDispatch _ => true
  | .taskRelease _ => true
  | .stallWatchdog w => w.wf
  | .hardLimit => true
  | .frameReport => true
  | .fsqRptTailWrite _ => true
  | .fsqRptRingConfig _ _ => true
  | .hostRegisterWrite _ _ _ => true
  | .bar0AccessError _ _ _ _ => true
  | .illegalInstruction w _ => w.wf
  | .add w o => w.wf && o.wf
  | .sub w o => w.wf && o.wf
  | .andI w o => w.wf && o.wf
  | .orI w o => w.wf && o.wf
  | .xorI w o => w.wf && o.wf
  | .sll w o => w.wf && o.wf
  | .srl w o => w.wf && o.wf
  | .sra w o => w.wf && o.wf
  | .slt w o => w.wf && o.wf
  | .sltu w o => w.wf && o.wf
  | .minS w o => w.wf && o.wf
  | .maxS w o => w.wf && o.wf
  | .minu w o => w.wf && o.wf
  | .maxu w o => w.wf && o.wf
  | .mul w o => w.wf && o.wf
  | .mulh w o => w.wf && o.wf
  | .mulhu w o => w.wf && o.wf
  | .div w o => w.wf && o.wf
  | .divu w o => w.wf && o.wf
  | .rem w o => w.wf && o.wf
  | .remu w o => w.wf && o.wf
  | .clz w o => w.wf && o.wfUnary
  | .ctz w o => w.wf && o.wfUnary
  | .popc w o => w.wf && o.wfUnary
  | .fadd w o => w.wf && o.wf
  | .fsub w o => w.wf && o.wf
  | .fmul w o => w.wf && o.wf
  | .fma w o => w.wf && o.wf
  | .fdiv w o => w.wf && o.wf
  | .fsqrt w o => w.wf && o.wfUnary
  | .fmin w o => w.wf && o.wf
  | .fmax w o => w.wf && o.wf
  | .feq w o => w.wf && o.wf
  | .flt w o => w.wf && o.wf
  | .fle w o => w.wf && o.wf
  | .fcvtSW w o => w.wf && o.wfUnary
  | .fcvtWS w o => w.wf && o.wfUnary
  | .fabs w o => w.wf && o.wfUnary
  | .fneg w o => w.wf && o.wfUnary
  | .jal w _ _ => w.wf
  | .jalr w _ _ _ => w.wf
  | .br w _ _ _ _ => w.wf
  | .dbnz w d _ => w.wf && decide (d ≠ 0)
  | .waitt w _ _ => w.wf
  | .waittTargetReached w => w.wf
  | .mfsr w _ n => w.wf && decide (n < 4096)
  | .mtsr w _ n => w.wf && decide (n < 4096)
  | .ldW w _ _ _ => w.wf
  | .stW w _ _ _ => w.wf
  | .mfill w _ _ _ => w.wf
  | .mcopy w _ _ _ => w.wf
  | .fillCopyComplete w => w.wf
  | .swait w _ _ _ _ => w.wf
  | .swaitTry w _ _ _ _ => w.wf
  | .spost w _ _ _ _ => w.wf
  | .semMessageApply sem => decide (sem < 4096)
  | .swaitGrant w => w.wf
  | .cwait w _ _ _ ctr => w.wf && decide (ctr < 64)
  | .cwaitTry w _ _ _ ctr => w.wf && decide (ctr < 64)
  | .creset w ctr => w.wf && decide (ctr < 64)
  | .cwaitSatisfied w => w.wf
  | .chpush w _ ch => w.wf && ch.wf
  | .chpushGrant w => w.wf
  | .chcommit w _ ch => w.wf && ch.wf
  | .chcommitRewind w ch => w.wf && ch.wf
  | .commitArrival ch => ch.wf
  | .packetVisible ch => ch.wf
  | .chpopAcquire w d b ch => w.wf && ch.wf && decide (b ≠ d) && decide (b ≠ 0) && decide (d ≠ 0)
  | .packetAcquired w => w.wf
  | .chpopRelease w ch => w.wf && ch.wf
  | .chflush w ch => w.wf && ch.wf
  | .deferredEmptyPost ch => ch.wf
  | .channelRecordRewrite ch => ch.wf
  | .fence w => w.wf
  | .fenceComplete w => w.wf
  | .tend w => w.wf
  | .tendComplete w => w.wf
  | .tdmk w _ _ handle off _ after => w.wf && decide (handle < 64) && decide (off < 16384) && decide (after < 8)
  | .tdrl w handle after => w.wf && decide (handle < 64) && decide (after < 8)
  | .strm w o after => w.wf && o.wf && decide (after < 8)
  | .stq w _ handle _ _ _ after => w.wf && decide (handle < 16) && decide (after < 8)
  | .lload w n kp fmt _ after => w.wf && decide (n < 16) && decide (kp < 256) && decide (fmt < 4) && decide (after < 8)
  | .lpass w _ _ _ afmt np after => w.wf && decide (afmt < 4) && decide (np < 256) && decide (after < 8)
  | .lsplit w after => w.wf && decide (after < 8)
  | .ldrainDrain w d _ _ rows conv after => w.wf && decide (rows < 1024) && decide (conv < 16) && decide (conv = 1 ∨ d = 0) && decide (after < 8)
  | .ldrainFill w _ _ rows conv after => w.wf && decide (rows < 1024) && decide (conv < 16) && decide (after < 8)
  | .cmode w gmax after => w.wf && decide (gmax < 16) && decide (after < 8)
  | .vadd w v => w.wf && v.wf && !v.noadd && decide (v.sel = 0)
  | .vmax w v => w.wf && v.wf && !v.noadd && decide (v.sel = 0)
  | .vfma w v => w.wf && v.wf && decide (v.sel = 0)
  | .vexp w v => w.wf && v.wf && v.noB && decide (v.sel = 0)
  | .vrsq w v => w.wf && v.wf && v.noB && decide (v.sel = 0)
  | .vsig w v => w.wf && v.wf && v.noB && decide (v.sel = 0)
  | .vred w v => w.wf && v.wf && v.noB && !v.bf16 && decide (v.sel < 2)
  | .vcvt w v => w.wf && v.wf && v.noB && !v.bf16 && decide (v.sel < 8)
  | .mgpush w _ _ job after => w.wf && decide (job < 16) && decide (after < 8)
  | .mgpushEnd w _ _ job after => w.wf && decide (job < 16) && decide (after < 8)
  | .mgdrainOpen w _ after => w.wf && decide (after < 8)
  | .mgdrainWait w _ _ job after => w.wf && decide (job < 16) && decide (after < 8)
  | .pdqQuery w _ _ after => w.wf && decide (after < 8)
  | .pdqPrefetch w _ after => w.wf && decide (after < 8)
  | .upsign w _ after => w.wf && decide (after < 8)
  | .upvote w _ after => w.wf && decide (after < 8)
  | .engineCommandStart w _ => w.wf
  | .engineCommandComplete w _ => w.wf
  | .gatherFactorChoice w => w.wf
  | .stationaryLoad w => w.wf
  | .blockListFetch e h => decide (e < 52) && decide (h < 16)
  | .transferStart e h => decide (e < 52) && decide (h < 16)
  | .transferComplete e _ => decide (e < 52)
  | .neuronListReady e h => decide (e < 52) && decide (h < 16)
  | .mergeResultWrite job => decide (job < 16)
  | .mergeJobComplete job => decide (job < 16)
  | .weightSetLoad => true
  | .predictorQueryService => true
  | .facetWindowWrite _ _ => true
  | .fmemHostFill f => decide (f < 52)
  | .fmemHostCopy f => decide (f < 52)
  | .fmemHostOpDone f => decide (f < 52)
  | .fmemGateRequest f bank => decide (f < 52) && decide (bank < 32)
  | .fmemGateCancel f bank => decide (f < 52) && decide (bank < 32)
  | .fmemWake f bank => decide (f < 52) && decide (bank < 32)
  | .bankGated f bank => decide (f < 52) && decide (bank < 32)
  | .gateForced f bank => decide (f < 52) && decide (bank < 32)
  | .bankWakeDone f bank => decide (f < 52) && decide (bank < 32)
  | .bar4Access _ _ _ _ => true
  | .stsInitDone => true
  | .farInitDone => true
  | .migrateCmd qp => decide (qp < 64)
  | .fetchPage _ _ => true
  | .fetchMove _ _ => true
  | .evictPage _ _ => true
  | .cleanPage _ _ => true
  | .dropFar _ _ => true
  | .zeroNear _ _ => true
  | .freePage _ _ => true
  | .retagPage _ _ => true
  | .migrationCommit _ _ => true
  | .migrateStatusWriteback => true
  | .reservedWindowOpen _ => true
  | .reservedWindowClose _ => true
  | .farFrameRetire => true
  | .cptPteWrite => true
  | .permutationLoad quad _ => decide (quad < 4)
  | .permutationStored => true
  | .portEnable p => decide (p < 8)
  | .portDisable p => decide (p < 8)
  | .signalDetected p => decide (p < 8)
  | .trainDone p => decide (p < 8)
  | .alignDone p => decide (p < 8)
  | .bringupTimeout p => decide (p < 8)
  | .bringupRetry p => decide (p < 8)
  | .exchange p _ _ vc _ => decide (p < 8) && decide (vc < 3)
  | .delayProbe p _ => decide (p < 8)
  | .delayEcho p _ => decide (p < 8)
  | .tickField p _ => decide (p < 8)
  | .laneLost p _ => decide (p < 8)
  | .swapReq p _ _ => decide (p < 8)
  | .swapAck p _ _ => decide (p < 8)
  | .fecFailure p => decide (p < 8)
  | .dataFlit p _ => decide (p < 8)
  | .idleFlit p _ => decide (p < 8)
  | .ackTimeout p => decide (p < 8)
  | .packetTransmit p vc => decide (p < 8) && decide (vc < 3)
  | .writePkt p => decide (p < 8)
  | .readPkt p => decide (p < 8)
  | .respPkt p => decide (p < 8)
  | .postPkt p => decide (p < 8)
  | .mergePkt p => decide (p < 8)
  | .mergeEndPkt p => decide (p < 8)
  | .readTimeout tag => decide (tag < 65536)
  | .mcastStall p vc => decide (p < 8) && decide (vc < 3)
  | .chipidWrite _ => true
  | .ownerTableLoad _ => true
  | .ownerTableLoaded => true
  | .linkTraining _ _ => true
  | .qpEnable q => decide (q < 64)
  | .qpDisable q => decide (q < 64)
  | .qpDrained q => decide (q < 64)
  | .sqTail q _ => decide (q < 64)
  | .cqHead q _ => decide (q < 64)
  | .sqFetch q => decide (q < 64)
  | .nopCmd qp => decide (qp < 64)
  | .badCommand qp => decide (qp < 64)
  | .deviceReadError _ => true
  | .busMasterDisable => true
  | .d3hotEntry => true
  | .d0Return => true
  | .functionLevelReset => true
  | .hotReset => true
  | .dlDown => true
  | .ptmExchange _ _ => true
  | .doeRequest _ => true
  | .laneMargining _ _ _ _ => true
  | .setEndpointId _ _ => true
  | .getStatus _ => true
  | .setOfflineNone _ => true
  | .setOfflineQuiesce _ => true
  | .setOfflineReset _ => true
  | .setOfflinePowerOff _ => true
  | .setPowerCap _ _ => true
  | .readLog _ _ _ => true
  | .regRead _ _ _ => true
  | .regWrite _ _ _ => true
  | .mbxSend _ _ => true
  | .mbxFetch _ _ => true
  | .hostMailboxSend _ => true
  | .setImageKey _ _ => true
  | .fuseOwner _ _ _ _ _ => true
  | .revoke _ cls slot _ _ => decide (cls < 2) && decide (slot < 4)
  | .commitSvn _ _ => true
  | .limmundBadRequest _ _ _ => true
  | .requestUpdate _ => true
  | .verifyComplete _ => true
  | .activateFirmware => true
  | .firmwareReadyTimeout => true
  | .getCertificate _ _ => true
  | .challenge _ => true
  | .getMeasurements _ _ => true
  | .sensorRead _ _ _ => true
  | .configCommit => true
  | .correctedError _ => true
  | .facetUe f _ _ => decide (f < 52)
  | .fmemUe f _ finder => decide (f < 52) && finder.all Who.wf
  | .stsUe _ finder => finder.all Who.wf
  | .farUe _ finder => finder.all Who.wf
  | .mergeUe => true
  | .predictorUe => true
  | .prismUe q => decide (q < 4)
  | .streamEngineUe e => decide (e < 52)
  | .updateUe q => decide (q < 4)
  | .tableUe w => w.wf
  | .fatalError _ => true
  | .sliceCopyDone => true
  | .urgentRetrain _ => true
  | .retrainDone _ => true
  | .shadowCheckEnd q _ _ => decide (q < 4)
  | .protractorWindow _ _ _ _ _ _ _ => true
  | .farStrobeTrack _ _ _ => true
  | .skewSample _ _ => true
  | .skewOverrun q => decide (q < 4)
  | .powerCapSample _ => true
  | .thermtrip => true
  | .clockLoss _ => true
  | .stbyPwrokRise _ => true
  | .stbyPwrokFall => true
  | .pwrGoodRise _ => true
  | .pwrGoodTimeout _ => true
  | .pwrGoodLoss _ => true
  | .powerDownStep => true
  | .mainFirmwareLoaded => true
  | .perstNFall => true
  | .perstNRise => true
  | .avsCurrentRead q _ => decide (q < 4)
  | .facetSwapDone q _ => decide (q < 4)
  | .managementFirmwareReady => true
  | .startUpSelfTestEnd _ => true
  | .busMasterEnable => true
  | .functionResetEnd => true
  | .dynamicAddressAssignment _ => true
  | .componentWrite _ _ _ => true

end Sys2Proof
end

