-- ==== Sys2Proof/Decode.lean ====
section
/-! DEFINITION. The scalar core's instruction words: their fields (Table 10-1), the decoder that refuses every illegal word (R292, R293), the encoder of a well-formed instruction; and the commands that the opcode table's bits spell, of which there are none. -/

namespace Sys2Proof

/-- The command that a word spells by the bits of the opcode table: the table gives no row any bits. -/
def decodeTableWord (_nbits _w : Nat) : Option Instr := none

/-- The six fields of an instruction (Table 10-1). -/
structure Fields where
  major : BitVec 6
  d : Reg
  a : Reg
  b : Reg
  func : BitVec 11
  imm : Word
  deriving DecidableEq, Repr

/-- The fields of a 64-bit instruction word (R291). -/
def unpack (x : BitVec 64) : Fields :=
  ⟨x.extractLsb' 58 6, x.extractLsb' 53 5, x.extractLsb' 48 5, x.extractLsb' 43 5, x.extractLsb' 32 11, x.extractLsb' 0 32⟩

/-- The word of the fields. -/
def pack (f : Fields) : BitVec 64 := f.major ++ (f.d ++ (f.a ++ (f.b ++ (f.func ++ f.imm))))

/-- The integer functions, and whether each is unary (Table 10-3). -/
def intFunc (n : Nat) : Option (Bool × (Who → AluArgs → Instr)) :=
  match n with
  | 0 => some (false, .add)
  | 1 => some (false, .sub)
  | 2 => some (false, .andI)
  | 3 => some (false, .orI)
  | 4 => some (false, .xorI)
  | 5 => some (false, .sll)
  | 6 => some (false, .srl)
  | 7 => some (false, .sra)
  | 8 => some (false, .slt)
  | 9 => some (false, .sltu)
  | 10 => some (false, .minS)
  | 11 => some (false, .maxS)
  | 12 => some (false, .minu)
  | 13 => some (false, .maxu)
  | 16 => some (false, .mul)
  | 17 => some (false, .mulh)
  | 18 => some (false, .mulhu)
  | 20 => some (false, .div)
  | 21 => some (false, .divu)
  | 22 => some (false, .rem)
  | 23 => some (false, .remu)
  | 24 => some (true, .clz)
  | 25 => some (true, .ctz)
  | 26 => some (true, .popc)
  | _ => none

/-- The FP32 functions, and whether each is unary (Table 10-3). -/
def fpFunc (n : Nat) : Option (Bool × (Who → AluArgs → Instr)) :=
  match n with
  | 0 => some (false, .fadd)
  | 1 => some (false, .fsub)
  | 2 => some (false, .fmul)
  | 3 => some (false, .fma)
  | 4 => some (false, .fdiv)
  | 5 => some (true, .fsqrt)
  | 6 => some (false, .fmin)
  | 7 => some (false, .fmax)
  | 8 => some (false, .feq)
  | 9 => some (false, .flt)
  | 10 => some (false, .fle)
  | 11 => some (true, .fcvtSW)
  | 12 => some (true, .fcvtWS)
  | 13 => some (true, .fabs)
  | 14 => some (true, .fneg)
  | _ => none

/-- A word of the integer or FP32 majors: the register form needs IMM 0, the immediate form B 0, a unary operation both (R292, Table 10-3). -/
def decodeAlu (w : Who) (immForm : Bool) (fn : Option (Bool × (Who → AluArgs → Instr))) (f : Fields) : Option Instr :=
  match fn with
  | none => none
  | some (unary, mk) =>
    if (if unary then f.b = 0 ∧ f.imm = 0 else if immForm then f.b = 0 else f.imm = 0) then some (mk w ⟨immForm, f.d, f.a, f.b, f.imm⟩)
    else none

/-- The condition of a BR (R296). -/
def condOf (n : Nat) : Option Cond :=
  match n with
  | 0 => some .eq
  | 1 => some .ne
  | 2 => some .lt
  | 3 => some .ge
  | 4 => some .ltu
  | 5 => some .geu
  | _ => none

/-- The channel that IMM names (R306). -/
def chanOfImm (imm : Word) : ChanName := ⟨imm.toNat % 256, imm.toNat / 256⟩

/-- An answer that stands only if a condition holds. -/
def only (p : Prop) [Decidable p] (i : Instr) : Option Instr := if p then some i else none

/-- The vector operand field of R331 with the other operands of a vector instruction. -/
def vecOf (f : Fields) (bf16 noadd negb : Bool) (sel after : Nat) : VecArgs :=
  { d := f.d, a := f.a, b := f.b, count := f.imm.toNat % 4096, dacc := f.imm.getLsbD 12, aacc := f.imm.getLsbD 13, bacc := f.imm.getLsbD 14
    bbc := f.imm.getLsbD 15, bf16 := bf16, noadd := noadd, negb := negb, sel := sel, after := after }

/-- The control, memory and synchronisation instructions, MAJOR 0x10 to 0x27 (R296 to R307). -/
def decodeCore (w : Who) (f : Fields) : Option Instr :=
  let n := f.func.toNat
  let i := f.imm.toNat
  match f.major.toNat with
  | 0x10 => only (f.a = 0 ∧ f.b = 0 ∧ n = 0) (.jal w f.d f.imm)
  | 0x11 => only (f.b = 0 ∧ n = 0) (.jalr w f.d f.a f.imm)
  | 0x12 =>
    match condOf n with
    | none => none
    | some c => only (f.d = 0) (.br w c f.a f.b f.imm)
  | 0x13 => only (f.a = 0 ∧ f.b = 0 ∧ n = 0 ∧ f.d ≠ 0) (.dbnz w f.d f.imm)
  | 0x14 => only (f.d = 0 ∧ f.b = 0 ∧ n = 0) (.waitt w f.a f.imm)
  | 0x16 => only (f.a = 0 ∧ f.b = 0 ∧ n = 0 ∧ i < 4096) (.mfsr w f.d i)
  | 0x17 => only (f.d = 0 ∧ f.b = 0 ∧ n = 0 ∧ i < 4096) (.mtsr w f.a i)
  | 0x18 => only (f.b = 0 ∧ n = 0) (.ldW w f.d f.a f.imm)
  | 0x19 => only (f.d = 0 ∧ n = 0) (.stW w f.a f.b f.imm)
  | 0x1A => only (f.d = 0 ∧ n = 0) (.mfill w f.a f.b f.imm)
  | 0x1B => only (f.d = 0 ∧ n = 0) (.mcopy w f.a f.b f.imm)
  | 0x20 => if n = 0 then some (.swait w f.d f.a f.b f.imm) else only (n = 1) (.swaitTry w f.d f.a f.b f.imm)
  | 0x21 => only (f.d = 0 ∧ n < 2) (.spost w f.a f.b f.imm (decide (n = 1)))
  | 0x22 =>
    if i < 64 then
      if n = 0 then some (.cwait w f.d f.a f.b i)
      else if n = 1 then some (.cwaitTry w f.d f.a f.b i)
      else only (n = 2 ∧ f.d = 0 ∧ f.a = 0 ∧ f.b = 0) (.creset w i)
    else none
  | 0x23 => only (f.a = 0 ∧ f.b = 0 ∧ n = 0 ∧ i < 8192) (.chpush w f.d (chanOfImm f.imm))
  | 0x24 =>
    if f.d = 0 ∧ f.b = 0 ∧ i < 8192 then
      if n = 0 then some (.chcommit w f.a (chanOfImm f.imm)) else only (n = 1 ∧ f.a = 0) (.chcommitRewind w (chanOfImm f.imm))
    else none
  | 0x25 =>
    if f.a = 0 ∧ i < 8192 then
      if n = 0 then only (f.b ≠ f.d ∧ f.b ≠ 0 ∧ f.d ≠ 0) (.chpopAcquire w f.d f.b (chanOfImm f.imm))
      else only (n = 1 ∧ f.d = 0 ∧ f.b = 0) (.chpopRelease w (chanOfImm f.imm))
    else none
  | 0x26 => only (f.d = 0 ∧ f.a = 0 ∧ f.b = 0 ∧ n = 0 ∧ i < 8192) (.chflush w (chanOfImm f.imm))
  | 0x27 =>
    if f.d = 0 ∧ f.a = 0 ∧ f.b = 0 ∧ i = 0 then (if n = 0 then some (.fence w) else only (n = 1) (.tend w)) else none
  | _ => none

/-- The engine instructions, MAJOR 0x28 to 0x3E (Table 11-2): `t` is the AFTER field, `n` the function bits. -/
def decodeEngine (w : Who) (f : Fields) (t n : Nat) : Option Instr :=
  let i := f.imm.toNat
  match f.major.toNat with
  | 0x28 => only (f.b = 0 ∧ n < 2 ∧ i % 256 < 64 ∧ i < 2 ^ 22) (.tdmk w f.d f.a (i % 256) (i / 256) (decide (n = 1)) t)
  | 0x29 => only (f.d = 0 ∧ f.a = 0 ∧ f.b = 0 ∧ n = 0 ∧ i < 64) (.tdrl w i t)
  | 0x2A =>
    only (n < 8 ∧ i < 2 ^ 23 ∧ (n / 2 % 2 = 0 → f.d = 0 ∧ i < 16))
      (.strm w ⟨f.d, f.a, f.b, i % 16, i / 16 % 64, i / 1024, decide (n % 2 = 1), decide (n / 2 % 2 = 1), decide (n / 4 = 1)⟩ t)
  | 0x2B => only (f.a = 0 ∧ f.b = 0 ∧ n < 8 ∧ i < 16) (.stq w f.d i (decide (n % 2 = 1)) (decide (n / 2 % 2 = 1)) (decide (n / 4 = 1)) t)
  | 0x30 => only (f.d = 0 ∧ f.a = 0 ∧ f.b = 0 ∧ n < 8 ∧ i % 256 < 16 ∧ i < 65536) (.lload w (i % 256) (i / 256) (n % 4) (decide (n / 4 = 1)) t)
  | 0x31 => only (f.d = 0 ∧ n < 8 ∧ i < 256) (.lpass w f.a f.b (decide (n % 2 = 1)) (n / 2) i t)
  | 0x32 => only (f.d = 0 ∧ f.a = 0 ∧ f.b = 0 ∧ n = 0 ∧ i = 0) (.lsplit w t)
  | 0x33 =>
    if i < 16384 then
      if n = 0 then only (i / 1024 ≠ 1 → f.d = 0) (.ldrainDrain w f.d f.a f.b (i % 1024) (i / 1024) t)
      else only (n = 1 ∧ f.d = 0) (.ldrainFill w f.a f.b (i % 1024) (i / 1024) t)
    else none
  | 0x34 => only (f.d = 0 ∧ f.a = 0 ∧ f.b = 0 ∧ n = 0 ∧ i < 16) (.cmode w i t)
  | 0x38 =>
    let v := vecOf f (decide (n / 8 % 2 = 1)) (decide (n / 4 % 2 = 1)) (decide (n / 16 = 1)) 0 t
    if n < 32 ∧ i < 65536 then
      if n % 4 = 0 then only (v.noadd = false) (.vadd w v)
      else if n % 4 = 1 then only (v.noadd = false) (.vmax w v)
      else only (n % 4 = 2) (.vfma w v)
    else none
  | 0x39 =>
    let v := vecOf f (decide (n / 8 = 1)) false false 0 t
    if n < 16 ∧ n / 4 % 2 = 0 ∧ f.b = 0 ∧ i < 2 ^ 14 then
      if n % 4 = 0 then some (.vexp w v) else if n % 4 = 1 then some (.vrsq w v) else only (n % 4 = 2) (.vsig w v)
    else none
  | 0x3A => only (n < 2 ∧ f.b = 0 ∧ i < 2 ^ 14) (.vred w (vecOf f false false false n t))
  | 0x3B => only (n < 8 ∧ f.b = 0 ∧ i < 2 ^ 14) (.vcvt w (vecOf f false false false n t))
  | 0x3C =>
    if n = 0 then only (f.d = 0 ∧ i < 16) (.mgpush w f.a f.b i t)
    else if n = 1 then only (f.d = 0 ∧ i < 16) (.mgpushEnd w f.a f.b i t)
    else if n = 2 then only (f.d = 0 ∧ f.b = 0 ∧ i = 0) (.mgdrainOpen w f.a t)
    else only (n = 3 ∧ f.a = 0 ∧ i < 16) (.mgdrainWait w f.d f.b i t)
  | 0x3D => if n = 0 then only (f.b = 0 ∧ i = 0) (.pdqQuery w f.d f.a t) else only (n = 1 ∧ f.d = 0 ∧ f.b = 0 ∧ i = 0) (.pdqPrefetch w f.a t)
  | 0x3E =>
    if f.d = 0 ∧ f.b = 0 ∧ i = 0 then (if n = 0 then some (.upsign w f.a t) else only (n = 1) (.upvote w f.a t)) else none
  | _ => none

/-- The instruction of a word on a context, none when the word is illegal (R292, R293). -/
def decodeFields (w : Who) (f : Fields) : Option Instr :=
  match f.major.toNat with
  | 0x00 => decodeAlu w false (intFunc f.func.toNat) f
  | 0x01 => decodeAlu w true (intFunc f.func.toNat) f
  | 0x02 => decodeAlu w false (fpFunc f.func.toNat) f
  | 0x03 => decodeAlu w true (fpFunc f.func.toNat) f
  | m => if m < 0x28 then decodeCore w f else if f.func.toNat / 128 < 8 then decodeEngine w f (f.func.toNat / 128) (f.func.toNat % 128) else none

/-- The instruction that a context decodes from a word; none where it is illegal. -/
def decodeInsn (w : Who) (x : BitVec 64) : Option Instr := decodeFields w (unpack x)

/-- The words that R330 makes faulting at their engine although every field is in its place: LDRAIN with FORM 2 or 3. `some t` gives their AFTER. -/
def badForm (x : BitVec 64) : Option Nat :=
  let f := unpack x
  if f.major = 0x33 ∧ 2 ≤ f.func.toNat % 128 ∧ f.func.toNat % 128 < 4 ∧ f.func.toNat / 128 < 8 ∧ f.imm.toNat < 16384 ∧ (f.imm.toNat / 1024 ≠ 1 → f.d = 0)
  then some (f.func.toNat / 128) else none

/-! ### The encoder -/

/-- The fields of an integer or FP32 instruction: `fp` 0 or 2 is the register form's major. -/
def aluFields (fp func : Nat) (o : AluArgs) : Fields :=
  ⟨BitVec.ofNat 6 (fp + (if o.immForm then 1 else 0)), o.d, o.a, o.b, BitVec.ofNat 11 func, o.imm⟩

/-- The IMM of a channel instruction (R306). -/
def chanImm (c : ChanName) : Word := BitVec.ofNat 32 (c.consumer + 256 * c.index)

/-- A flag as a bit. -/
def bitOf (p : Bool) : Nat := if p then 1 else 0

/-- The FUNC field of an engine instruction (R317). -/
def engFunc (after n : Nat) : BitVec 11 := BitVec.ofNat 11 (after * 128 + n)

/-- The fields of a vector instruction. -/
def vecFields (major n : Nat) (v : VecArgs) : Fields :=
  ⟨BitVec.ofNat 6 major, v.d, v.a, v.b, engFunc v.after n,
    BitVec.ofNat 32 (v.count + 4096 * bitOf v.dacc + 8192 * bitOf v.aacc + 16384 * bitOf v.bacc + 32768 * bitOf v.bbc)⟩

/-- The number of a branch condition (R296). -/
def condNum : Cond → Nat
  | .eq => 0
  | .ne => 1
  | .lt => 2
  | .ge => 3
  | .ltu => 4
  | .geu => 5

/-- The fields of a scalar core's instruction, by the encodings of Tables 10-2, 10-3 and 11-2; none for a command that is no instruction. -/
def encodeFields : Instr → Option Fields
  | .add _ o => some (aluFields 0 0 o)
  | .sub _ o => some (aluFields 0 1 o)
  | .andI _ o => some (aluFields 0 2 o)
  | .orI _ o => some (aluFields 0 3 o)
  | .xorI _ o => some (aluFields 0 4 o)
  | .sll _ o => some (aluFields 0 5 o)
  | .srl _ o => some (aluFields 0 6 o)
  | .sra _ o => some (aluFields 0 7 o)
  | .slt _ o => some (aluFields 0 8 o)
  | .sltu _ o => some (aluFields 0 9 o)
  | .minS _ o => some (aluFields 0 10 o)
  | .maxS _ o => some (aluFields 0 11 o)
  | .minu _ o => some (aluFields 0 12 o)
  | .maxu _ o => some (aluFields 0 13 o)
  | .mul _ o => some (aluFields 0 16 o)
  | .mulh _ o => some (aluFields 0 17 o)
  | .mulhu _ o => some (aluFields 0 18 o)
  | .div _ o => some (aluFields 0 20 o)
  | .divu _ o => some (aluFields 0 21 o)
  | .rem _ o => some (aluFields 0 22 o)
  | .remu _ o => some (aluFields 0 23 o)
  | .clz _ o => some (aluFields 0 24 o)
  | .ctz _ o => some (aluFields 0 25 o)
  | .popc _ o => some (aluFields 0 26 o)
  | .fadd _ o => some (aluFields 2 0 o)
  | .fsub _ o => some (aluFields 2 1 o)
  | .fmul _ o => some (aluFields 2 2 o)
  | .fma _ o => some (aluFields 2 3 o)
  | .fdiv _ o => some (aluFields 2 4 o)
  | .fsqrt _ o => some (aluFields 2 5 o)
  | .fmin _ o => some (aluFields 2 6 o)
  | .fmax _ o => some (aluFields 2 7 o)
  | .feq _ o => some (aluFields 2 8 o)
  | .flt _ o => some (aluFields 2 9 o)
  | .fle _ o => some (aluFields 2 10 o)
  | .fcvtSW _ o => some (aluFields 2 11 o)
  | .fcvtWS _ o => some (aluFields 2 12 o)
  | .fabs _ o => some (aluFields 2 13 o)
  | .fneg _ o => some (aluFields 2 14 o)
  | .jal _ d imm => some ⟨0x10, d, 0, 0, 0, imm⟩
  | .jalr _ d a imm => some ⟨0x11, d, a, 0, 0, imm⟩
  | .br _ c a b imm => some ⟨0x12, 0, a, b, BitVec.ofNat 11 (condNum c), imm⟩
  | .dbnz _ d imm => some ⟨0x13, d, 0, 0, 0, imm⟩
  | .waitt _ a imm => some ⟨0x14, 0, a, 0, 0, imm⟩
  | .mfsr _ d n => some ⟨0x16, d, 0, 0, 0, BitVec.ofNat 32 n⟩
  | .mtsr _ a n => some ⟨0x17, 0, a, 0, 0, BitVec.ofNat 32 n⟩
  | .ldW _ d a imm => some ⟨0x18, d, a, 0, 0, imm⟩
  | .stW _ a b imm => some ⟨0x19, 0, a, b, 0, imm⟩
  | .mfill _ a b imm => some ⟨0x1A, 0, a, b, 0, imm⟩
  | .mcopy _ a b imm => some ⟨0x1B, 0, a, b, 0, imm⟩
  | .swait _ d a b imm => some ⟨0x20, d, a, b, 0, imm⟩
  | .swaitTry _ d a b imm => some ⟨0x20, d, a, b, 1, imm⟩
  | .spost _ a b imm nofence => some ⟨0x21, 0, a, b, BitVec.ofNat 11 (bitOf nofence), imm⟩
  | .cwait _ d a b ctr => some ⟨0x22, d, a, b, 0, BitVec.ofNat 32 ctr⟩
  | .cwaitTry _ d a b ctr => some ⟨0x22, d, a, b, 1, BitVec.ofNat 32 ctr⟩
  | .creset _ ctr => some ⟨0x22, 0, 0, 0, 2, BitVec.ofNat 32 ctr⟩
  | .chpush _ d ch => some ⟨0x23, d, 0, 0, 0, chanImm ch⟩
  | .chcommit _ a ch => some ⟨0x24, 0, a, 0, 0, chanImm ch⟩
  | .chcommitRewind _ ch => some ⟨0x24, 0, 0, 0, 1, chanImm ch⟩
  | .chpopAcquire _ d b ch => some ⟨0x25, d, 0, b, 0, chanImm ch⟩
  | .chpopRelease _ ch => some ⟨0x25, 0, 0, 0, 1, chanImm ch⟩
  | .chflush _ ch => some ⟨0x26, 0, 0, 0, 0, chanImm ch⟩
  | .fence _ => some ⟨0x27, 0, 0, 0, 0, 0⟩
  | .tend _ => some ⟨0x27, 0, 0, 0, 1, 0⟩
  | .tdmk _ d a handle off fromSts after => some ⟨0x28, d, a, 0, engFunc after (bitOf fromSts), BitVec.ofNat 32 (handle + 256 * off)⟩
  | .tdrl _ handle after => some ⟨0x29, 0, 0, 0, engFunc after 0, BitVec.ofNat 32 handle⟩
  | .strm _ o after => some ⟨0x2A, o.d, o.a, o.b, engFunc after (bitOf o.compress + 2 * bitOf o.list + 4 * bitOf o.qeng), BitVec.ofNat 32 (o.handle + 16 * o.ctr + 1024 * o.listAddr)⟩
  | .stq _ d handle wait qeng walk after => some ⟨0x2B, d, 0, 0, engFunc after (bitOf wait + 2 * bitOf qeng + 4 * bitOf walk), BitVec.ofNat 32 handle⟩
  | .lload _ n kp fmt hi after => some ⟨0x30, 0, 0, 0, engFunc after (fmt + 4 * bitOf hi), BitVec.ofNat 32 (n + 256 * kp)⟩
  | .lpass _ a b accum afmt np after => some ⟨0x31, 0, a, b, engFunc after (bitOf accum + 2 * afmt), BitVec.ofNat 32 np⟩
  | .lsplit _ after => some ⟨0x32, 0, 0, 0, engFunc after 0, 0⟩
  | .ldrainDrain _ d a b rows conv after => some ⟨0x33, d, a, b, engFunc after 0, BitVec.ofNat 32 (rows + 1024 * conv)⟩
  | .ldrainFill _ a b rows conv after => some ⟨0x33, 0, a, b, engFunc after 1, BitVec.ofNat 32 (rows + 1024 * conv)⟩
  | .cmode _ gmax after => some ⟨0x34, 0, 0, 0, engFunc after 0, BitVec.ofNat 32 gmax⟩
  | .mgpush _ a b job after => some ⟨0x3C, 0, a, b, engFunc after 0, BitVec.ofNat 32 job⟩
  | .mgpushEnd _ a b job after => some ⟨0x3C, 0, a, b, engFunc after 1, BitVec.ofNat 32 job⟩
  | .mgdrainOpen _ a after => some ⟨0x3C, 0, a, 0, engFunc after 2, 0⟩
  | .mgdrainWait _ d b job after => some ⟨0x3C, d, 0, b, engFunc after 3, BitVec.ofNat 32 job⟩
  | .pdqQuery _ d a after => some ⟨0x3D, d, a, 0, engFunc after 0, 0⟩
  | .pdqPrefetch _ a after => some ⟨0x3D, 0, a, 0, engFunc after 1, 0⟩
  | .upsign _ a after => some ⟨0x3E, 0, a, 0, engFunc after 0, 0⟩
  | .upvote _ a after => some ⟨0x3E, 0, a, 0, engFunc after 1, 0⟩
  | .vadd _ v => some (vecFields 0x38 (0 + 8 * bitOf v.bf16 + 16 * bitOf v.negb) v)
  | .vmax _ v => some (vecFields 0x38 (1 + 8 * bitOf v.bf16 + 16 * bitOf v.negb) v)
  | .vfma _ v => some (vecFields 0x38 (2 + 4 * bitOf v.noadd + 8 * bitOf v.bf16 + 16 * bitOf v.negb) v)
  | .vexp _ v => some (vecFields 0x39 (0 + 8 * bitOf v.bf16) v)
  | .vrsq _ v => some (vecFields 0x39 (1 + 8 * bitOf v.bf16) v)
  | .vsig _ v => some (vecFields 0x39 (2 + 8 * bitOf v.bf16) v)
  | .vred _ v => some (vecFields 0x3A (v.sel) v)
  | .vcvt _ v => some (vecFields 0x3B (v.sel) v)
  | _ => none

/-- The context that issues an instruction; none for a command that is no instruction. -/
def whoOf : Instr → Option Who
  | .add w _ => some w
  | .sub w _ => some w
  | .andI w _ => some w
  | .orI w _ => some w
  | .xorI w _ => some w
  | .sll w _ => some w
  | .srl w _ => some w
  | .sra w _ => some w
  | .slt w _ => some w
  | .sltu w _ => some w
  | .minS w _ => some w
  | .maxS w _ => some w
  | .minu w _ => some w
  | .maxu w _ => some w
  | .mul w _ => some w
  | .mulh w _ => some w
  | .mulhu w _ => some w
  | .div w _ => some w
  | .divu w _ => some w
  | .rem w _ => some w
  | .remu w _ => some w
  | .clz w _ => some w
  | .ctz w _ => some w
  | .popc w _ => some w
  | .fadd w _ => some w
  | .fsub w _ => some w
  | .fmul w _ => some w
  | .fma w _ => some w
  | .fdiv w _ => some w
  | .fsqrt w _ => some w
  | .fmin w _ => some w
  | .fmax w _ => some w
  | .feq w _ => some w
  | .flt w _ => some w
  | .fle w _ => some w
  | .fcvtSW w _ => some w
  | .fcvtWS w _ => some w
  | .fabs w _ => some w
  | .fneg w _ => some w
  | .vadd w _ => some w
  | .vmax w _ => some w
  | .vfma w _ => some w
  | .vexp w _ => some w
  | .vrsq w _ => some w
  | .vsig w _ => some w
  | .vred w _ => some w
  | .vcvt w _ => some w
  | .jal w _ _ => some w
  | .jalr w _ _ _ => some w
  | .br w _ _ _ _ => some w
  | .dbnz w _ _ => some w
  | .waitt w _ _ => some w
  | .mfsr w _ _ => some w
  | .mtsr w _ _ => some w
  | .ldW w _ _ _ => some w
  | .stW w _ _ _ => some w
  | .mfill w _ _ _ => some w
  | .mcopy w _ _ _ => some w
  | .swait w _ _ _ _ => some w
  | .swaitTry w _ _ _ _ => some w
  | .spost w _ _ _ _ => some w
  | .cwait w _ _ _ _ => some w
  | .cwaitTry w _ _ _ _ => some w
  | .creset w _ => some w
  | .chpush w _ _ => some w
  | .chcommit w _ _ => some w
  | .chcommitRewind w _ => some w
  | .chpopAcquire w _ _ _ => some w
  | .chpopRelease w _ => some w
  | .chflush w _ => some w
  | .fence w => some w
  | .tend w => some w
  | .tdmk w _ _ _ _ _ _ => some w
  | .tdrl w _ _ => some w
  | .strm w _ _ => some w
  | .stq w _ _ _ _ _ _ => some w
  | .lload w _ _ _ _ _ => some w
  | .lpass w _ _ _ _ _ _ => some w
  | .lsplit w _ => some w
  | .ldrainDrain w _ _ _ _ _ _ => some w
  | .ldrainFill w _ _ _ _ _ => some w
  | .cmode w _ _ => some w
  | .mgpush w _ _ _ _ => some w
  | .mgpushEnd w _ _ _ _ => some w
  | .mgdrainOpen w _ _ => some w
  | .mgdrainWait w _ _ _ _ => some w
  | .pdqQuery w _ _ _ => some w
  | .pdqPrefetch w _ _ => some w
  | .upsign w _ _ => some w
  | .upvote w _ _ => some w
  | _ => none

/-- The word of a scalar core's instruction. -/
def encode (i : Instr) : Option (BitVec 64) := (encodeFields i).map pack

end Sys2Proof
end

