-- ==== Sys2Proof/Config.lean ====
section
/-! DEFINITION. What one part fixes (its identity, its spare units, its fuses) and the free values: values the spec leaves open, held by constants with no body, so that nothing can be proved of the value itself. -/

namespace Sys2Proof.Config

/-- The serial number of the part, fused (R3, Table 14-11). -/
opaque serial : Nat

/-- Whether the silicon is stepping B0 rather than A0 (R3, R7). -/
opaque steppingB0 : Bool

/-- The behaviour level of the part (EV48-01-S, R2). -/
def level : Nat := 1

/-- What the order of a quadrant's physical facets at production test is taken from (open by R5, R8). -/
opaque facetKey : Nat → Nat

/-- What the order of a quadrant's physical slices at production test is taken from (open by R5, R8). -/
opaque sliceKey : Nat → Nat

/-- A unit put in its place in a list that its key orders, after units of the same key. -/
def placeUnit (key : Nat → Nat) (u : Nat) : List Nat → List Nat
  | [] => [u]
  | x :: xs => if key u < key x then u :: x :: xs else x :: placeUnit key u xs

/-- The units from `base`, `n` of them, in the order of their keys. -/
def ordered (key : Nat → Nat) (base n : Nat) : List Nat := (List.range n).foldl (fun xs i => placeUnit key (base + i) xs) []

/-- The physical facets of the logical ones at shipment. Of the 13 facets of a quadrant, in an order that production test decides, twelve carry its logical facets, and the last is its spare (R5, R8). -/
def shippedFacets : List Nat := (List.range 4).flatMap (fun q => (ordered facetKey (13 * q) 13).take 12)

/-- The physical slices of the logical ones at shipment: of the 50 slices of a quadrant the last two are its spares (R5, R8). -/
def shippedSlices : List Nat := (List.range 4).flatMap (fun q => (ordered sliceKey (50 * q) 50).take 48)

/-- The physical facet of logical facet `l` at shipment. -/
def facetMap (l : Nat) : Nat := shippedFacets.getD l 0x3F

/-- `RPM_FSTATE` of physical facet `f` at shipment: 1 for the spare of its quadrant, else 0 (Table 17-10). -/
def facetState (f : Nat) : Nat := if shippedFacets.contains f then 0 else 1

/-- The physical slice of logical slice `l` at shipment. -/
def sliceMap (l : Nat) : Nat := shippedSlices.getD l 0xFF

/-- `RPM_SSTATE` of physical slice `p` at shipment (Table 17-10). -/
def sliceState (p : Nat) : Nat := if shippedSlices.contains p then 0 else 1

/-- Default of configuration record field `i` (Table 16-1). -/
def cfgDefault (i : Nat) : Nat := [10000, 5000, 20, 1, 20, 10, 0x1F5C, 1].getD i 0

/-- Lowest value of configuration record field `i` (Table 16-1). -/
def cfgLow (i : Nat) : Nat := [250, 100, 5, 0, 1, 4, 0, 0].getD i 0

/-- Highest value of configuration record field `i` (Table 16-1). -/
def cfgHigh (i : Nat) : Nat := [20000, 100000, 200, 64, 20000, 23, 0xFFFF, 0xFFFF].getD i 0

/-- The SHA-256 of the vendor public key fused in slot 0 to 3 at production (Table 15-7). -/
opaque vendorKeyHash : Nat → Nat

/-- Whether vendor slot 0 to 3 is fused at production (Table 15-7). -/
opaque vendorFused : Nat → Bool

/-- The device secret: 256 bits, never readable (Table 15-7). -/
opaque deviceSecret : Nat

/-- The measurement of the boot ROM (Table 15-8), a value that identifies the part (R3). -/
opaque bootRomMeasurement : Nat

/-- The certificate chain of SPDM slot 0 up to the identity certificate (R434). -/
opaque certificateChain : List Byte

/-- The alias key pair's certificate as SEC derives and signs it from the device secret and a firmware digest (R434). -/
opaque aliasCertificate : Nat → List Byte

/-- A signature of SEC with the alias key of a firmware digest, over a transcript; `n` is the nonce counter, since ECDSA draws one (R434, R435). -/
opaque aliasSign : Nat → List Byte → Nat → List Byte

/-- Free words: the `n`-th value that the spec leaves unspecified. -/
opaque freeWord : Nat → Word

/-- Free bytes of a buffer or memory that holds unspecified values: epoch, then address (R55, R165). -/
opaque freeByte : Nat → Nat → Byte

/-- Free accumulator words: epoch, then cell (R55, R73). -/
opaque freeAcc : Nat → Nat → Word

/-- Free order keys: the order in which a floating-point sum is taken (R77, R135), by draw and term. -/
opaque freeOrder : Nat → Nat → Nat

/-- Free error of a function that the spec bounds in ulp only (Table 02-7): draw and operand give a choice among the allowed results. -/
opaque freeUlp : Nat → Word → Nat

/-- Whether the Predictor multiplies each weight by its row's scale before it adds, or the row's sum by the scale after (open by the network of R147). -/
opaque predScaleFirst : Bool

/-- The known-answer tests of a spare that tests itself in a maintenance tail, where no command brings them, by draw (R463, R480). -/
opaque freeKat : Nat → List KatRun

/-- Whether a shadow check takes an infinity and another value for a match: their difference and the tolerance are both infinite (open by R477). -/
opaque infMatch : Nat → Nat → Bool

/-- By how many steps of 5 mV the manager moves the set point of a quadrant's core rail in a cycle (open by R491). -/
opaque avsSteps : Nat → Nat → Int

/-- The range of a lane's CTLE peaking steps (open by R473). -/
opaque ctleRange : Nat

/-- The code of an entry of the event log for a PWR_GOOD that did not rise (0), one that fell (1), a thermal trip (2). -/
opaque powerEventCode : Nat → Nat

end Sys2Proof.Config
end

