-- ==== Sys2Proof/Machine/Regs.lean ====
section
/-! DEFINITION. Every register field of the part, one definition each, as the register tables of the spec give it: BAR0 address, bits, access code, reset value. -/

namespace Sys2Proof.Machine

/-- Access codes of Table 00-5 (R13). -/
inductive Access where
  | rw | ro | wo | w1c | w1s
  deriving DecidableEq, Repr

/-- One field of one register: its BAR0 address, its bit range, its access code and its reset value.
`own` marks a field whose write is a command of its own in the opcode table, so that a plain register write leaves it to that command. -/
structure Field where
  addr : Nat
  hi : Nat
  lo : Nat
  acc : Access
  reset : Nat
  own : Bool
  deriving DecidableEq, Repr

/-- The key of a field in the register file. -/
def Field.key (f : Field) : Nat := f.addr * 32 + f.lo

/-- Number of bits of a field. -/
def Field.width (f : Field) : Nat := f.hi - f.lo + 1

-- FSQ_CTL
def Fld.fsqCtl_RUN : Field := ⟨0x10000, 0, 0, .rw, 0, true⟩
-- FSQ_TICKCTL
def Fld.fsqTickctl_SRC : Field := ⟨0x10004, 1, 0, .rw, 0, true⟩
-- FSQ_PERIOD
def Fld.fsqPeriod_PERIODUS : Field := ⟨0x10008, 14, 0, .ro, 10000, false⟩
-- FSQ_BUDGET
def Fld.fsqBudget_B : Field := ⟨0x1000c, 24, 0, .ro, 12070500, false⟩
-- FSQ_FRAME
def Fld.fsqFrame_FRAME : Field := ⟨0x10010, 31, 0, .ro, 0, false⟩
-- FSQ_TCYC
def Fld.fsqTcyc_TCYC : Field := ⟨0x10014, 24, 0, .ro, 0, false⟩
-- FSQ_STATUS
def Fld.fsqStatus_ACTIVEVALID : Field := ⟨0x10018, 4, 4, .ro, 0, false⟩
def Fld.fsqStatus_PENDING : Field := ⟨0x10018, 2, 0, .ro, 0, false⟩
-- FSQ_SWAP
def Fld.fsqSwap_CANCEL : Field := ⟨0x1001c, 1, 1, .wo, 0, true⟩
def Fld.fsqSwap_REQ : Field := ⟨0x1001c, 0, 0, .w1s, 0, true⟩
-- FSQ_ADMIT
def Fld.fsqAdmit_PRIMARY : Field := ⟨0x10020, 7, 0, .ro, 0, false⟩
-- FSQ_ADMIT_MAP
def Fld.fsqAdmitMap_MAP : Field := ⟨0x10024, 12, 1, .ro, 0, false⟩
-- FSQ_ACTIVE_ID
def Fld.fsqActiveId_ID : Field := ⟨0x10028, 31, 0, .ro, 0, false⟩
-- FSQ_PENDING_ID
def Fld.fsqPendingId_ID : Field := ⟨0x1002c, 31, 0, .ro, 0, false⟩
-- FSQ_EVENTS
def Fld.fsqEvents_OVERRUN : Field := ⟨0x10030, 4, 4, .w1c, 0, false⟩
def Fld.fsqEvents_RPTDROP : Field := ⟨0x10030, 3, 3, .w1c, 0, false⟩
def Fld.fsqEvents_TICKLOST : Field := ⟨0x10030, 2, 2, .w1c, 0, false⟩
def Fld.fsqEvents_TICKEARLY : Field := ⟨0x10030, 1, 1, .w1c, 0, false⟩
def Fld.fsqEvents_TICKMISSED : Field := ⟨0x10030, 0, 0, .w1c, 0, false⟩
-- FSQ_INTEN
def Fld.fsqInten_EN : Field := ⟨0x10034, 4, 0, .rw, 0, false⟩
-- FSQ_CNT_MISSED
def Fld.fsqCntMissed_COUNT : Field := ⟨0x10038, 31, 0, .ro, 0, false⟩
-- FSQ_CNT_EARLY
def Fld.fsqCntEarly_COUNT : Field := ⟨0x1003c, 31, 0, .ro, 0, false⟩
-- FSQ_CNT_LATE
def Fld.fsqCntLate_COUNT : Field := ⟨0x10040, 31, 0, .ro, 0, false⟩
-- FSQ_CNT_RPTDROP
def Fld.fsqCntRptdrop_COUNT : Field := ⟨0x10044, 31, 0, .ro, 0, false⟩
-- FSQ_PTMPHASE
def Fld.fsqPtmphase_PHASEUS : Field := ⟨0x10048, 14, 0, .rw, 0, false⟩
-- FSQ_PTMERR
def Fld.fsqPtmerr_ERRNS : Field := ⟨0x1004c, 31, 0, .ro, 0, false⟩
-- FSQ_RPT_BASE_LO
def Fld.fsqRptBaseLo_BASE : Field := ⟨0x10050, 31, 12, .rw, 0, true⟩
-- FSQ_RPT_BASE_HI
def Fld.fsqRptBaseHi_BASE : Field := ⟨0x10054, 31, 0, .rw, 0, true⟩
-- FSQ_RPT_CFG
def Fld.fsqRptCfg_BUFKIB : Field := ⟨0x10058, 31, 16, .rw, 256, true⟩
def Fld.fsqRptCfg_BUFS : Field := ⟨0x10058, 11, 0, .rw, 0, true⟩
-- FSQ_RPT_TAIL
def Fld.fsqRptTail_TAIL : Field := ⟨0x1005c, 11, 0, .rw, 0, true⟩
-- FSQ_RPT_HEAD
def Fld.fsqRptHead_HEAD : Field := ⟨0x10060, 11, 0, .ro, 0, false⟩
-- FCT_ID
def Fld.fctId_QUAD (f : Nat) : Field := ⟨0x10f0000 + f * 0x100000, 15, 8, .ro, f / 13, false⟩
def Fld.fctId_PFACET (f : Nat) : Field := ⟨0x10f0000 + f * 0x100000, 7, 0, .ro, f, false⟩
-- FCT_MAP
def Fld.fctMap_SPARE (f : Nat) : Field := ⟨0x10f0004 + f * 0x100000, 8, 8, .ro, 1, false⟩
def Fld.fctMap_LFACET (f : Nat) : Field := ⟨0x10f0004 + f * 0x100000, 7, 0, .ro, 255, false⟩
-- FCT_STATE
def Fld.fctState_STATE (f : Nat) : Field := ⟨0x10f0008 + f * 0x100000, 2, 0, .ro, 0, false⟩
-- FCT_TASK
def Fld.fctTask_TASKB (f : Nat) : Field := ⟨0x10f000c + f * 0x100000, 31, 16, .ro, 65535, false⟩
def Fld.fctTask_TASKA (f : Nat) : Field := ⟨0x10f000c + f * 0x100000, 15, 0, .ro, 65535, false⟩
-- FCT_ERR
def Fld.fctErr_SCALARUE (f : Nat) : Field := ⟨0x10f0010 + f * 0x100000, 6, 6, .w1c, 0, false⟩
def Fld.fctErr_ACCUE (f : Nat) : Field := ⟨0x10f0010 + f * 0x100000, 5, 5, .w1c, 0, false⟩
def Fld.fctErr_STGUE (f : Nat) : Field := ⟨0x10f0010 + f * 0x100000, 4, 4, .w1c, 0, false⟩
def Fld.fctErr_WABUE (f : Nat) : Field := ⟨0x10f0010 + f * 0x100000, 3, 3, .w1c, 0, false⟩
def Fld.fctErr_CELLPAR (f : Nat) : Field := ⟨0x10f0010 + f * 0x100000, 2, 2, .w1c, 0, false⟩
def Fld.fctErr_VECUE (f : Nat) : Field := ⟨0x10f0010 + f * 0x100000, 1, 1, .w1c, 0, false⟩
def Fld.fctErr_CE (f : Nat) : Field := ⟨0x10f0010 + f * 0x100000, 0, 0, .w1c, 0, false⟩
-- FCT_ERRHALF
def Fld.fctErrhalf_B (f : Nat) : Field := ⟨0x10f0014 + f * 0x100000, 1, 1, .ro, 0, false⟩
def Fld.fctErrhalf_A (f : Nat) : Field := ⟨0x10f0014 + f * 0x100000, 0, 0, .ro, 0, false⟩
-- FCT_CNT_CE
def Fld.fctCntCe_COUNT (f : Nat) : Field := ⟨0x10f0018 + f * 0x100000, 31, 0, .ro, 0, false⟩
-- FCT_CNT_UE
def Fld.fctCntUe_COUNT (f : Nat) : Field := ⟨0x10f001c + f * 0x100000, 31, 0, .ro, 0, false⟩
-- FCT_INTEN
def Fld.fctInten_EN (f : Nat) : Field := ⟨0x10f0020 + f * 0x100000, 6, 0, .rw, 0, false⟩
-- FCT_CNT_VEC
def Fld.fctCntVec_COUNT (f : Nat) : Field := ⟨0x10f0024 + f * 0x100000, 31, 0, .ro, 0, false⟩
-- LAT_STATUS
def Fld.latStatus_ACCWRAP (f : Nat) : Field := ⟨0x10f1000 + f * 0x100000, 5, 5, .w1c, 0, false⟩
def Fld.latStatus_BUSY (f : Nat) : Field := ⟨0x10f1000 + f * 0x100000, 4, 4, .ro, 0, false⟩
def Fld.latStatus_MODE (f : Nat) : Field := ⟨0x10f1000 + f * 0x100000, 1, 0, .ro, 0, false⟩
-- LAT_CNT_LOAD
def Fld.latCntLoad_COUNT (f : Nat) : Field := ⟨0x10f1004 + f * 0x100000, 31, 0, .ro, 0, false⟩
-- LAT_CNT_PASS
def Fld.latCntPass_COUNT (f : Nat) : Field := ⟨0x10f1008 + f * 0x100000, 31, 0, .ro, 0, false⟩
-- LAT_CNT_STALL
def Fld.latCntStall_COUNT (f : Nat) : Field := ⟨0x10f100c + f * 0x100000, 31, 0, .ro, 0, false⟩
-- LAT_CNT_INJECT
def Fld.latCntInject_COUNT (f : Nat) : Field := ⟨0x10f1010 + f * 0x100000, 31, 0, .ro, 0, false⟩
-- LAT_CNT_WAIT
def Fld.latCntWait_COUNT (f : Nat) : Field := ⟨0x10f1014 + f * 0x100000, 31, 0, .ro, 0, false⟩
-- LAT_CNT_WRAP
def Fld.latCntWrap_COUNT (f : Nat) : Field := ⟨0x10f1018 + f * 0x100000, 31, 0, .ro, 0, false⟩
-- LAT_CNT_DRAIN
def Fld.latCntDrain_COUNT (f : Nat) : Field := ⟨0x10f101c + f * 0x100000, 31, 0, .ro, 0, false⟩
-- CMP_STATUS
def Fld.cmpStatus_STRUCT (f : Nat) : Field := ⟨0x10f2000 + f * 0x100000, 12, 12, .ro, 1, false⟩
def Fld.cmpStatus_BUSY (f : Nat) : Field := ⟨0x10f2000 + f * 0x100000, 8, 8, .ro, 0, false⟩
def Fld.cmpStatus_GLAST (f : Nat) : Field := ⟨0x10f2000 + f * 0x100000, 5, 4, .ro, 0, false⟩
def Fld.cmpStatus_PLAST (f : Nat) : Field := ⟨0x10f2000 + f * 0x100000, 3, 0, .ro, 0, false⟩
-- CMP_MODE
def Fld.cmpMode_GMAXB (f : Nat) : Field := ⟨0x10f2004 + f * 0x100000, 5, 4, .ro, 3, false⟩
def Fld.cmpMode_GMAXA (f : Nat) : Field := ⟨0x10f2004 + f * 0x100000, 1, 0, .ro, 3, false⟩
-- CMP_CNT_SPAN
def Fld.cmpCntSpan_COUNT (f : Nat) : Field := ⟨0x10f2008 + f * 0x100000, 31, 0, .ro, 0, false⟩
-- CMP_CNT_DENSE
def Fld.cmpCntDense_COUNT (f : Nat) : Field := ⟨0x10f200c + f * 0x100000, 31, 0, .ro, 0, false⟩
-- CMP_CNT_G2
def Fld.cmpCntG2_COUNT (f : Nat) : Field := ⟨0x10f2010 + f * 0x100000, 31, 0, .ro, 0, false⟩
-- CMP_CNT_G4
def Fld.cmpCntG4_COUNT (f : Nat) : Field := ⟨0x10f2014 + f * 0x100000, 31, 0, .ro, 0, false⟩
-- CMP_CNT_G8
def Fld.cmpCntG8_COUNT (f : Nat) : Field := ⟨0x10f2018 + f * 0x100000, 31, 0, .ro, 0, false⟩
-- CMP_CNT_SKIP
def Fld.cmpCntSkip_COUNT (f : Nat) : Field := ⟨0x10f201c + f * 0x100000, 31, 0, .ro, 0, false⟩
-- CMP_CNT_SAVED
def Fld.cmpCntSaved_COUNT (f : Nat) : Field := ⟨0x10f2020 + f * 0x100000, 31, 0, .ro, 0, false⟩
-- CMP_CNT_NOFIT
def Fld.cmpCntNofit_COUNT (f : Nat) : Field := ⟨0x10f2024 + f * 0x100000, 31, 0, .ro, 0, false⟩
-- CMP_CNT_HDRCHK
def Fld.cmpCntHdrchk_COUNT (f : Nat) : Field := ⟨0x10f2028 + f * 0x100000, 31, 0, .ro, 0, false⟩
-- CMP_KAT
def Fld.cmpKat_TIMEFAIL (f : Nat) : Field := ⟨0x10f202c + f * 0x100000, 1, 1, .ro, 0, false⟩
def Fld.cmpKat_RESULTFAIL (f : Nat) : Field := ⟨0x10f202c + f * 0x100000, 0, 0, .ro, 0, false⟩
-- MRG_STATUS
def Fld.mrgStatus_OPEN : Field := ⟨0x70000, 31, 16, .ro, 0, false⟩
def Fld.mrgStatus_BUSY : Field := ⟨0x70000, 0, 0, .ro, 0, false⟩
-- MRG_ERR
def Fld.mrgErr_UE : Field := ⟨0x70004, 1, 1, .w1c, 0, false⟩
def Fld.mrgErr_CE : Field := ⟨0x70004, 0, 0, .w1c, 0, false⟩
-- MRG_INTEN
def Fld.mrgInten_EN : Field := ⟨0x70008, 1, 0, .rw, 0, false⟩
-- MRG_CNT_REC
def Fld.mrgCntRec_COUNT : Field := ⟨0x7000c, 31, 0, .ro, 0, false⟩
-- MRG_CNT_OUT
def Fld.mrgCntOut_COUNT : Field := ⟨0x70010, 31, 0, .ro, 0, false⟩
-- MRG_CNT_OUTDROP
def Fld.mrgCntOutdrop_COUNT : Field := ⟨0x70014, 31, 0, .ro, 0, false⟩
-- MRG_CNT_DISCARD
def Fld.mrgCntDiscard_COUNT : Field := ⟨0x70018, 31, 0, .ro, 0, false⟩
-- MRG_CNT_BUSY
def Fld.mrgCntBusy_COUNT : Field := ⟨0x7001c, 31, 0, .ro, 0, false⟩
-- MRG_CNT_CE
def Fld.mrgCntCe_COUNT : Field := ⟨0x70020, 31, 0, .ro, 0, false⟩
-- PRD_STATUS
def Fld.prdStatus_QDEPTH : Field := ⟨0x80000, 20, 16, .ro, 0, false⟩
def Fld.prdStatus_RESIDENT : Field := ⟨0x80000, 9, 8, .ro, 0, false⟩
def Fld.prdStatus_BUSY : Field := ⟨0x80000, 0, 0, .ro, 0, false⟩
-- PRD_ERR
def Fld.prdErr_UE : Field := ⟨0x80004, 1, 1, .w1c, 0, false⟩
def Fld.prdErr_CE : Field := ⟨0x80004, 0, 0, .w1c, 0, false⟩
-- PRD_INTEN
def Fld.prdInten_EN : Field := ⟨0x80008, 1, 0, .rw, 0, false⟩
-- PRD_RES0
def Fld.prdRes0_ADDR : Field := ⟨0x8000c, 31, 0, .ro, 0, false⟩
-- PRD_RES1
def Fld.prdRes1_ADDR : Field := ⟨0x80010, 31, 0, .ro, 0, false⟩
-- PRD_CNT_QUERY
def Fld.prdCntQuery_COUNT : Field := ⟨0x80014, 31, 0, .ro, 0, false⟩
-- PRD_CNT_LOAD
def Fld.prdCntLoad_COUNT : Field := ⟨0x80018, 31, 0, .ro, 0, false⟩
-- PRD_CNT_BUSY
def Fld.prdCntBusy_COUNT : Field := ⟨0x8001c, 31, 0, .ro, 0, false⟩
-- PRD_CNT_SELECT
def Fld.prdCntSelect_COUNT : Field := ⟨0x80020, 31, 0, .ro, 0, false⟩
-- PRD_CNT_GRPOFF
def Fld.prdCntGrpoff_COUNT : Field := ⟨0x80024, 31, 0, .ro, 0, false⟩
-- PRD_CNT_CE
def Fld.prdCntCe_COUNT : Field := ⟨0x80028, 31, 0, .ro, 0, false⟩
-- FMEM_GATE
def Fld.fmemGate_REQ (f : Nat) : Field := ⟨0x10f3000 + f * 0x100000, 31, 0, .rw, 0, true⟩
-- FMEM_GATED
def Fld.fmemGated_STATE (f : Nat) : Field := ⟨0x10f3004 + f * 0x100000, 31, 0, .ro, 0, false⟩
-- FMEM_ERR
def Fld.fmemErr_GATEDRD (f : Nat) : Field := ⟨0x10f3008 + f * 0x100000, 3, 3, .w1c, 0, false⟩
def Fld.fmemErr_GATEDWR (f : Nat) : Field := ⟨0x10f3008 + f * 0x100000, 2, 2, .w1c, 0, false⟩
def Fld.fmemErr_UE (f : Nat) : Field := ⟨0x10f3008 + f * 0x100000, 1, 1, .w1c, 0, false⟩
def Fld.fmemErr_CE (f : Nat) : Field := ⟨0x10f3008 + f * 0x100000, 0, 0, .w1c, 0, false⟩
-- FMEM_INTEN
def Fld.fmemInten_EN (f : Nat) : Field := ⟨0x10f300c + f * 0x100000, 3, 0, .rw, 0, false⟩
-- FMEM_CNT_CE
def Fld.fmemCntCe_COUNT (f : Nat) : Field := ⟨0x10f3010 + f * 0x100000, 31, 0, .ro, 0, false⟩
-- FMEM_CNT_UE
def Fld.fmemCntUe_COUNT (f : Nat) : Field := ⟨0x10f3014 + f * 0x100000, 31, 0, .ro, 0, false⟩
-- FMEM_UE_ADDR
def Fld.fmemUeAddr_ADDR (f : Nat) : Field := ⟨0x10f3018 + f * 0x100000, 18, 2, .ro, 0, false⟩
-- FMEM_CNT_GATEDWR
def Fld.fmemCntGatedwr_COUNT (f : Nat) : Field := ⟨0x10f301c + f * 0x100000, 31, 0, .ro, 0, false⟩
-- FMEM_CNT_GATEDRD
def Fld.fmemCntGatedrd_COUNT (f : Nat) : Field := ⟨0x10f3020 + f * 0x100000, 31, 0, .ro, 0, false⟩
-- FMEM_CNT_FORCED
def Fld.fmemCntForced_COUNT (f : Nat) : Field := ⟨0x10f3024 + f * 0x100000, 31, 0, .ro, 0, false⟩
-- FMEM_CNT_CONFLICT
def Fld.fmemCntConflict_COUNT (f : Nat) : Field := ⟨0x10f3028 + f * 0x100000, 31, 0, .ro, 0, false⟩
-- FMEM_OPCTL
def Fld.fmemOpctl_START (f : Nat) : Field := ⟨0x10f3030 + f * 0x100000, 31, 31, .w1s, 0, true⟩
def Fld.fmemOpctl_OP (f : Nat) : Field := ⟨0x10f3030 + f * 0x100000, 2, 0, .rw, 0, false⟩
-- FMEM_OPSRC
def Fld.fmemOpsrc_ADDR (f : Nat) : Field := ⟨0x10f3034 + f * 0x100000, 18, 2, .rw, 0, false⟩
-- FMEM_OPDST
def Fld.fmemOpdst_ADDR (f : Nat) : Field := ⟨0x10f3038 + f * 0x100000, 18, 2, .rw, 0, false⟩
-- FMEM_OPLEN
def Fld.fmemOplen_LEN (f : Nat) : Field := ⟨0x10f303c + f * 0x100000, 19, 2, .rw, 0, false⟩
-- FMEM_OPVAL
def Fld.fmemOpval_VALUE (f : Nat) : Field := ⟨0x10f3040 + f * 0x100000, 31, 0, .rw, 0, false⟩
-- FMEM_OPSTAT
def Fld.fmemOpstat_STATE (f : Nat) : Field := ⟨0x10f3044 + f * 0x100000, 1, 0, .ro, 0, false⟩
-- FMEM_ARR
def Fld.fmemArr_COUNT (f : Nat) (i : Nat) : Field := ⟨0x10f3100 + f * 0x100000 + i * 0x4, 31, 0, .ro, 0, false⟩
-- STS_STATUS
def Fld.stsStatus_INITDONE : Field := ⟨0xa0000, 8, 8, .ro, 0, false⟩
-- STS_ERR
def Fld.stsErr_BAR4RANGE : Field := ⟨0xa0004, 3, 3, .w1c, 0, false⟩
def Fld.stsErr_PTWRITE : Field := ⟨0xa0004, 2, 2, .w1c, 0, false⟩
def Fld.stsErr_UE : Field := ⟨0xa0004, 1, 1, .w1c, 0, false⟩
def Fld.stsErr_CE : Field := ⟨0xa0004, 0, 0, .w1c, 0, false⟩
-- STS_INTEN
def Fld.stsInten_EN : Field := ⟨0xa0008, 3, 0, .rw, 0, false⟩
-- STS_CNT_CE
def Fld.stsCntCe_COUNT : Field := ⟨0xa000c, 31, 0, .ro, 0, false⟩
-- STS_CNT_UE
def Fld.stsCntUe_COUNT : Field := ⟨0xa0010, 31, 0, .ro, 0, false⟩
-- STS_UE_ADDR
def Fld.stsUeAddr_ADDR : Field := ⟨0xa0014, 31, 0, .ro, 0, false⟩
-- STS_CNT_PTWR
def Fld.stsCntPtwr_COUNT : Field := ⟨0xa0018, 31, 0, .ro, 0, false⟩
-- STS_CNT_RANGE
def Fld.stsCntRange_COUNT : Field := ⟨0xa001c, 31, 0, .ro, 0, false⟩
-- STS_CNT_LINES
def Fld.stsCntLines_COUNT (i : Nat) : Field := ⟨0xa0020 + i * 0x4, 31, 0, .ro, 0, false⟩
-- STS_CNT_XQ
def Fld.stsCntXq_COUNT (i : Nat) : Field := ⟨0xa0030 + i * 0x4, 31, 0, .ro, 0, false⟩
-- CPT_STATUS
def Fld.cptStatus_WINDOW : Field := ⟨0x60000, 8, 8, .ro, 0, false⟩
def Fld.cptStatus_BUSY : Field := ⟨0x60000, 0, 0, .ro, 0, false⟩
-- CPT_ERR
def Fld.cptErr_TABLEUE : Field := ⟨0x60004, 2, 2, .w1c, 0, false⟩
def Fld.cptErr_ABSENT : Field := ⟨0x60004, 1, 1, .w1c, 0, false⟩
def Fld.cptErr_CE : Field := ⟨0x60004, 0, 0, .w1c, 0, false⟩
-- CPT_INTEN
def Fld.cptInten_EN : Field := ⟨0x60008, 2, 0, .rw, 0, false⟩
-- CPT_PTE_VPN
def Fld.cptPteVpn_VPN : Field := ⟨0x6000c, 23, 0, .rw, 0, false⟩
-- CPT_PTE_DATA
def Fld.cptPteData_VALUE : Field := ⟨0x60010, 31, 0, .rw, 0, false⟩
-- CPT_PTE_CMD
def Fld.cptPteCmd_GO : Field := ⟨0x60014, 31, 31, .w1s, 0, true⟩
def Fld.cptPteCmd_RESULT : Field := ⟨0x60014, 9, 8, .ro, 0, false⟩
-- CPT_CNT_HIT
def Fld.cptCntHit_COUNT : Field := ⟨0x60018, 31, 0, .ro, 0, false⟩
-- CPT_CNT_MISS
def Fld.cptCntMiss_COUNT : Field := ⟨0x6001c, 31, 0, .ro, 0, false⟩
-- CPT_CNT_ABSENT
def Fld.cptCntAbsent_COUNT : Field := ⟨0x60020, 31, 0, .ro, 0, false⟩
-- CPT_CNT_IN
def Fld.cptCntIn_COUNT : Field := ⟨0x60024, 31, 0, .ro, 0, false⟩
-- CPT_CNT_OUT
def Fld.cptCntOut_COUNT : Field := ⟨0x60028, 31, 0, .ro, 0, false⟩
-- CPT_CNT_FAIL
def Fld.cptCntFail_COUNT : Field := ⟨0x6002c, 31, 0, .ro, 0, false⟩
-- CPT_CNT_WWAIT
def Fld.cptCntWwait_COUNT : Field := ⟨0x60030, 31, 0, .ro, 0, false⟩
-- CPT_NEAR_FREE
def Fld.cptNearFree_COUNT : Field := ⟨0x60034, 17, 0, .ro, 0, false⟩
-- CPT_CNT_CE
def Fld.cptCntCe_COUNT : Field := ⟨0x60038, 31, 0, .ro, 0, false⟩
-- FAR_STATUS
def Fld.farStatus_INITDONE : Field := ⟨0xb0000, 16, 16, .ro, 0, false⟩
def Fld.farStatus_CHUP : Field := ⟨0xb0000, 15, 0, .ro, 0, false⟩
-- FAR_ERR
def Fld.farErr_POOLLOW : Field := ⟨0xb0004, 2, 2, .w1c, 0, false⟩
def Fld.farErr_UE : Field := ⟨0xb0004, 1, 1, .w1c, 0, false⟩
def Fld.farErr_CE : Field := ⟨0xb0004, 0, 0, .w1c, 0, false⟩
-- FAR_INTEN
def Fld.farInten_EN : Field := ⟨0xb0008, 2, 0, .rw, 0, false⟩
-- FAR_CNT_CE
def Fld.farCntCe_COUNT : Field := ⟨0xb000c, 31, 0, .ro, 0, false⟩
-- FAR_CNT_UE
def Fld.farCntUe_COUNT : Field := ⟨0xb0010, 31, 0, .ro, 0, false⟩
-- FAR_UE_FRAME
def Fld.farUeFrame_FRAME : Field := ⟨0xb0014, 23, 0, .ro, 0, false⟩
-- FAR_RETIRE_THR
def Fld.farRetireThr_THR : Field := ⟨0xb0018, 7, 0, .rw, 16, false⟩
-- FAR_RETIDX
def Fld.farRetidx_IDX : Field := ⟨0xb001c, 15, 0, .rw, 0, false⟩
-- FAR_RETLOG
def Fld.farRetlog_CAUSE : Field := ⟨0xb0020, 31, 24, .ro, 0, false⟩
def Fld.farRetlog_FRAME : Field := ⟨0xb0020, 23, 0, .ro, 0, false⟩
-- FAR_RETCOUNT
def Fld.farRetcount_COUNT : Field := ⟨0xb0024, 16, 0, .ro, 0, false⟩
-- FAR_CH_STATE
def Fld.farChState_WORN (d : Nat) : Field := ⟨0xb0100 + d * 0x40, 8, 8, .ro, 0, false⟩
def Fld.farChState_STATE (d : Nat) : Field := ⟨0xb0100 + d * 0x40, 2, 0, .ro, 0, false⟩
-- FAR_CH_CE
def Fld.farChCe_COUNT (d : Nat) : Field := ⟨0xb0104 + d * 0x40, 31, 0, .ro, 0, false⟩
-- FAR_CH_UE
def Fld.farChUe_COUNT (d : Nat) : Field := ⟨0xb0108 + d * 0x40, 31, 0, .ro, 0, false⟩
-- FAR_CH_POOL
def Fld.farChPool_FREE (d : Nat) : Field := ⟨0xb010c + d * 0x40, 12, 0, .ro, 4096, false⟩
-- FAR_CH_BLOCKS
def Fld.farChBlocks_COUNT (d : Nat) : Field := ⟨0xb0110 + d * 0x40, 31, 0, .ro, 0, false⟩
-- STR_STATUS
def Fld.strStatus_OUTSTANDING (f : Nat) : Field := ⟨0x10f4000 + f * 0x100000, 19, 16, .ro, 0, false⟩
def Fld.strStatus_OPEN (f : Nat) : Field := ⟨0x10f4000 + f * 0x100000, 15, 0, .ro, 0, false⟩
-- STR_ERR
def Fld.strErr_UE (f : Nat) : Field := ⟨0x10f4004 + f * 0x100000, 1, 1, .w1c, 0, false⟩
def Fld.strErr_CE (f : Nat) : Field := ⟨0x10f4004 + f * 0x100000, 0, 0, .w1c, 0, false⟩
-- STR_INTEN
def Fld.strInten_EN (f : Nat) : Field := ⟨0x10f4008 + f * 0x100000, 1, 0, .rw, 0, false⟩
-- STR_CNT_BLOCKS
def Fld.strCntBlocks_COUNT (f : Nat) : Field := ⟨0x10f400c + f * 0x100000, 31, 0, .ro, 0, false⟩
-- STR_CNT_IN64
def Fld.strCntIn64_COUNT (f : Nat) : Field := ⟨0x10f4010 + f * 0x100000, 31, 0, .ro, 0, false⟩
-- STR_CNT_OUT64
def Fld.strCntOut64_COUNT (f : Nat) : Field := ⟨0x10f4014 + f * 0x100000, 31, 0, .ro, 0, false⟩
-- STR_CNT_SKIP
def Fld.strCntSkip_COUNT (f : Nat) : Field := ⟨0x10f4018 + f * 0x100000, 31, 0, .ro, 0, false⟩
-- STR_CNT_CLIP
def Fld.strCntClip_COUNT (f : Nat) : Field := ⟨0x10f401c + f * 0x100000, 31, 0, .ro, 0, false⟩
-- STR_CNT_TDREF
def Fld.strCntTdref_COUNT (f : Nat) : Field := ⟨0x10f4020 + f * 0x100000, 31, 0, .ro, 0, false⟩
-- STR_CNT_DRY
def Fld.strCntDry_COUNT (f : Nat) : Field := ⟨0x10f4024 + f * 0x100000, 31, 0, .ro, 0, false⟩
-- STR_CNT_SPARSE
def Fld.strCntSparse_COUNT (f : Nat) : Field := ⟨0x10f4028 + f * 0x100000, 31, 0, .ro, 0, false⟩
-- STR_CNT_DENSE
def Fld.strCntDense_COUNT (f : Nat) : Field := ⟨0x10f402c + f * 0x100000, 31, 0, .ro, 0, false⟩
-- STR_CNT_WALKDROP
def Fld.strCntWalkdrop_COUNT (f : Nat) : Field := ⟨0x10f4030 + f * 0x100000, 31, 0, .ro, 0, false⟩
-- STR_CNT_CE
def Fld.strCntCe_COUNT (f : Nat) : Field := ⟨0x10f4034 + f * 0x100000, 31, 0, .ro, 0, false⟩
-- STR_ST
def Fld.strSt_STATE (f : Nat) (i : Nat) : Field := ⟨0x10f4040 + f * 0x100000 + i * 0x4, 31, 30, .ro, 0, false⟩
def Fld.strSt_LISTWAIT (f : Nat) (i : Nat) : Field := ⟨0x10f4040 + f * 0x100000 + i * 0x4, 29, 29, .ro, 0, false⟩
def Fld.strSt_DONE (f : Nat) (i : Nat) : Field := ⟨0x10f4040 + f * 0x100000 + i * 0x4, 23, 0, .ro, 0, false⟩
-- STR_QSTATUS
def Fld.strQstatus_OUTSTANDING (i : Nat) : Field := ⟨0x40000 + i * 0x4, 19, 16, .ro, 0, false⟩
def Fld.strQstatus_OPEN (i : Nat) : Field := ⟨0x40000 + i * 0x4, 15, 0, .ro, 0, false⟩
-- STR_QERR
def Fld.strQerr_UE : Field := ⟨0x40010, 7, 4, .w1c, 0, false⟩
def Fld.strQerr_CE : Field := ⟨0x40010, 3, 0, .w1c, 0, false⟩
-- STR_QINTEN
def Fld.strQinten_EN : Field := ⟨0x40014, 7, 0, .rw, 0, false⟩
-- STR_QCNT_BLOCKS
def Fld.strQcntBlocks_COUNT (i : Nat) : Field := ⟨0x40020 + i * 0x4, 31, 0, .ro, 0, false⟩
-- STR_FSUM_LO
def Fld.strFsumLo_FACET : Field := ⟨0x40030, 31, 0, .ro, 0, false⟩
-- STR_FSUM_HI
def Fld.strFsumHi_FACET : Field := ⟨0x40034, 19, 0, .ro, 0, false⟩
-- PRS_STATUS
def Fld.prsStatus_PBUSY : Field := ⟨0x50000, 8, 8, .ro, 0, false⟩
def Fld.prsStatus_BUSY : Field := ⟨0x50000, 3, 0, .ro, 0, false⟩
-- PRS_ERR
def Fld.prsErr_UE : Field := ⟨0x50004, 7, 4, .w1c, 0, false⟩
def Fld.prsErr_CE : Field := ⟨0x50004, 3, 0, .w1c, 0, false⟩
-- PRS_INTEN
def Fld.prsInten_EN : Field := ⟨0x50008, 7, 0, .rw, 0, false⟩
-- PRS_PCMD
def Fld.prsPcmd_GO : Field := ⟨0x5000c, 31, 31, .w1s, 0, true⟩
def Fld.prsPcmd_RESULT : Field := ⟨0x5000c, 17, 16, .ro, 0, false⟩
def Fld.prsPcmd_QUAD : Field := ⟨0x5000c, 9, 8, .rw, 0, false⟩
def Fld.prsPcmd_INDEX : Field := ⟨0x5000c, 5, 0, .rw, 0, false⟩
-- PRS_PVALID_LO
def Fld.prsPvalidLo_VALID (i : Nat) : Field := ⟨0x50010 + i * 0x8, 31, 0, .ro, 0, false⟩
-- PRS_PVALID_HI
def Fld.prsPvalidHi_VALID (i : Nat) : Field := ⟨0x50014 + i * 0x8, 31, 0, .ro, 0, false⟩
-- PRS_CNT_BYTES
def Fld.prsCntBytes_COUNT (i : Nat) : Field := ⟨0x50030 + i * 0x4, 31, 0, .ro, 0, false⟩
-- PRS_CNT_BADPERM
def Fld.prsCntBadperm_COUNT : Field := ⟨0x50040, 31, 0, .ro, 0, false⟩
-- PRS_CNT_PARTIAL
def Fld.prsCntPartial_COUNT : Field := ⟨0x50044, 31, 0, .ro, 0, false⟩
-- PRS_CNT_CE
def Fld.prsCntCe_COUNT : Field := ⟨0x50048, 31, 0, .ro, 0, false⟩
-- PRS_PBUF
def Fld.prsPbuf_LANES (i : Nat) : Field := ⟨0x50080 + i * 0x4, 31, 0, .rw, 0, false⟩
-- UPD_STATUS
def Fld.updStatus_BUSY : Field := ⟨0x90000, 3, 0, .ro, 0, false⟩
-- UPD_QDEPTH
def Fld.updQdepth_Q3 : Field := ⟨0x90004, 28, 24, .ro, 0, false⟩
def Fld.updQdepth_Q2 : Field := ⟨0x90004, 20, 16, .ro, 0, false⟩
def Fld.updQdepth_Q1 : Field := ⟨0x90004, 12, 8, .ro, 0, false⟩
def Fld.updQdepth_Q0 : Field := ⟨0x90004, 4, 0, .ro, 0, false⟩
-- UPD_ERR
def Fld.updErr_UE : Field := ⟨0x90008, 7, 4, .w1c, 0, false⟩
def Fld.updErr_CE : Field := ⟨0x90008, 3, 0, .w1c, 0, false⟩
-- UPD_INTEN
def Fld.updInten_EN : Field := ⟨0x9000c, 7, 0, .rw, 0, false⟩
-- UPD_GTAB_BASE
def Fld.updGtabBase_BASE : Field := ⟨0x90010, 31, 6, .rw, 0, false⟩
-- UPD_GTAB_COUNT
def Fld.updGtabCount_COUNT : Field := ⟨0x90014, 12, 0, .rw, 0, false⟩
-- UPD_CNT_SIGN
def Fld.updCntSign_COUNT : Field := ⟨0x90018, 31, 0, .ro, 0, false⟩
-- UPD_CNT_VOTE
def Fld.updCntVote_COUNT : Field := ⟨0x9001c, 31, 0, .ro, 0, false⟩
-- UPD_CNT_PARAMS
def Fld.updCntParams_COUNT : Field := ⟨0x90020, 31, 0, .ro, 0, false⟩
-- UPD_CNT_MASKED
def Fld.updCntMasked_COUNT : Field := ⟨0x90024, 31, 0, .ro, 0, false⟩
-- UPD_CNT_CLIP
def Fld.updCntClip_COUNT : Field := ⟨0x90028, 31, 0, .ro, 0, false⟩
-- UPD_CNT_STEPMM
def Fld.updCntStepmm_COUNT : Field := ⟨0x9002c, 31, 0, .ro, 0, false⟩
-- UPD_CNT_BUSY
def Fld.updCntBusy_COUNT (i : Nat) : Field := ⟨0x90030 + i * 0x4, 31, 0, .ro, 0, false⟩
-- UPD_CNT_CE
def Fld.updCntCe_COUNT : Field := ⟨0x90040, 31, 0, .ro, 0, false⟩
-- UPD_MM_GROUP
def Fld.updMmGroup_GROUP : Field := ⟨0x90044, 15, 0, .ro, 0, false⟩
-- UPD_MM_STAMP
def Fld.updMmStamp_STAMP : Field := ⟨0x90048, 31, 0, .ro, 0, false⟩
-- UPD_MM_EXPECT
def Fld.updMmExpect_STAMP : Field := ⟨0x9004c, 31, 0, .ro, 0, false⟩
-- CHD_CHIPID
def Fld.chdChipid_CHIP : Field := ⟨0xc0000, 5, 0, .rw, 0, true⟩
-- CHD_STATUS
def Fld.chdStatus_UP : Field := ⟨0xc0004, 7, 0, .ro, 0, false⟩
-- CHD_ERR
def Fld.chdErr_TIMEOUT : Field := ⟨0xc0008, 5, 5, .w1c, 0, false⟩
def Fld.chdErr_REMOTERANGE : Field := ⟨0xc0008, 4, 4, .w1c, 0, false⟩
def Fld.chdErr_DROP : Field := ⟨0xc0008, 3, 3, .w1c, 0, false⟩
def Fld.chdErr_PORTDOWN : Field := ⟨0xc0008, 2, 2, .w1c, 0, false⟩
def Fld.chdErr_LANESWAP : Field := ⟨0xc0008, 1, 1, .w1c, 0, false⟩
def Fld.chdErr_POSTDROP : Field := ⟨0xc0008, 0, 0, .w1c, 0, false⟩
-- CHD_INTEN
def Fld.chdInten_EN : Field := ⟨0xc000c, 5, 0, .rw, 0, false⟩
-- CHD_TICKCTL
def Fld.chdTickctl_FORWARD : Field := ⟨0xc0010, 15, 8, .rw, 0, false⟩
def Fld.chdTickctl_FOLLOW : Field := ⟨0xc0010, 4, 4, .rw, 0, false⟩
def Fld.chdTickctl_PORT : Field := ⟨0xc0010, 2, 0, .rw, 0, false⟩
-- CHD_MCSTALL
def Fld.chdMcstall_LIMITUS : Field := ⟨0xc0014, 15, 0, .ro, 20, false⟩
-- CHD_OTCMD
def Fld.chdOtcmd_GO : Field := ⟨0xc0018, 31, 31, .w1s, 0, true⟩
def Fld.chdOtcmd_RESULT : Field := ⟨0xc0018, 17, 16, .ro, 0, false⟩
def Fld.chdOtcmd_BUSY : Field := ⟨0xc0018, 8, 8, .ro, 0, false⟩
def Fld.chdOtcmd_TABLE : Field := ⟨0xc0018, 5, 0, .rw, 0, false⟩
-- CHD_OTADDR
def Fld.chdOtaddr_ADDR : Field := ⟨0xc001c, 31, 4, .rw, 0, false⟩
-- CHD_OTVALID_LO
def Fld.chdOtvalidLo_VALID : Field := ⟨0xc0020, 31, 0, .ro, 0, false⟩
-- CHD_OTVALID_HI
def Fld.chdOtvalidHi_VALID : Field := ⟨0xc0024, 31, 0, .ro, 0, false⟩
-- CHD_CNT_DROP
def Fld.chdCntDrop_COUNT : Field := ⟨0xc0028, 31, 0, .ro, 0, false⟩
-- CHD_CNT_REJECT
def Fld.chdCntReject_COUNT : Field := ⟨0xc002c, 31, 0, .ro, 0, false⟩
-- CHD_CNT_POSTDROP
def Fld.chdCntPostdrop_COUNT : Field := ⟨0xc0030, 31, 0, .ro, 0, false⟩
-- CHD_CNT_TIMEOUT
def Fld.chdCntTimeout_COUNT : Field := ⟨0xc0034, 31, 0, .ro, 0, false⟩
-- CHD_P_STATE
def Fld.chdPState_LANES (p : Nat) : Field := ⟨0xc0100 + p * 0x40, 28, 24, .ro, 15, false⟩
def Fld.chdPState_PARTNER (p : Nat) : Field := ⟨0xc0100 + p * 0x40, 21, 16, .ro, 0, false⟩
def Fld.chdPState_REASON (p : Nat) : Field := ⟨0xc0100 + p * 0x40, 11, 8, .ro, 0, false⟩
def Fld.chdPState_STATE (p : Nat) : Field := ⟨0xc0100 + p * 0x40, 2, 0, .ro, 0, false⟩
-- CHD_P_CTL
def Fld.chdPCtl_ENABLE (p : Nat) : Field := ⟨0xc0104 + p * 0x40, 0, 0, .rw, 0, true⟩
-- CHD_P_DELAY
def Fld.chdPDelay_DELAY (p : Nat) : Field := ⟨0xc0108 + p * 0x40, 15, 0, .ro, 0, false⟩
-- CHD_P_CNT_FEC
def Fld.chdPCntFec_COUNT (p : Nat) : Field := ⟨0xc010c + p * 0x40, 31, 0, .ro, 0, false⟩
-- CHD_P_CNT_CRC
def Fld.chdPCntCrc_COUNT (p : Nat) : Field := ⟨0xc0110 + p * 0x40, 31, 0, .ro, 0, false⟩
-- CHD_P_CNT_REPLAY
def Fld.chdPCntReplay_COUNT (p : Nat) : Field := ⟨0xc0114 + p * 0x40, 31, 0, .ro, 0, false⟩
-- CHD_P_CNT_TX
def Fld.chdPCntTx_COUNT (p : Nat) : Field := ⟨0xc0118 + p * 0x40, 31, 0, .ro, 0, false⟩
-- CHD_P_CNT_RX
def Fld.chdPCntRx_COUNT (p : Nat) : Field := ⟨0xc011c + p * 0x40, 31, 0, .ro, 0, false⟩
-- CHD_P_CNT_SWAP
def Fld.chdPCntSwap_COUNT (p : Nat) : Field := ⟨0xc0120 + p * 0x40, 31, 0, .ro, 0, false⟩
-- CHD_P_CNT_WAIT
def Fld.chdPCntWait_COUNT (p : Nat) : Field := ⟨0xc0124 + p * 0x40, 31, 0, .ro, 0, false⟩
-- CHD_ROUTE
def Fld.chdRoute_VALID (i : Nat) : Field := ⟨0xc0400 + i * 0x4, 8, 8, .rw, 0, false⟩
def Fld.chdRoute_PORT (i : Nat) : Field := ⟨0xc0400 + i * 0x4, 2, 0, .rw, 0, false⟩
-- CHD_MCAST_LO
def Fld.chdMcastLo_MASK (i : Nat) : Field := ⟨0xc0600 + i * 0x8, 31, 0, .rw, 0, false⟩
-- CHD_MCAST_HI
def Fld.chdMcastHi_MASK (i : Nat) : Field := ⟨0xc0604 + i * 0x8, 31, 0, .rw, 0, false⟩
-- GLB_ID
def Fld.glbId_DEVICE : Field := ⟨0x0, 31, 16, .ro, 20040, false⟩
def Fld.glbId_VENDOR : Field := ⟨0x0, 15, 0, .ro, 8028, false⟩
-- GLB_REV
def Fld.glbRev_GRADE : Field := ⟨0x4, 23, 16, .ro, 83, false⟩
def Fld.glbRev_LEVEL : Field := ⟨0x4, 15, 8, .ro, 1, false⟩
def Fld.glbRev_STEPPING : Field := ⟨0x4, 7, 0, .ro, (if Config.steppingB0 then 0x10 else 0), false⟩
-- GLB_SERIAL_LO
def Fld.glbSerialLo_SERIAL : Field := ⟨0x8, 31, 0, .ro, Config.serial % 4294967296, false⟩
-- GLB_SERIAL_HI
def Fld.glbSerialHi_SERIAL : Field := ⟨0xc, 31, 0, .ro, Config.serial / 4294967296 % 4294967296, false⟩
-- GLB_STATUS
def Fld.glbStatus_OFFLINE : Field := ⟨0x10, 3, 3, .ro, 0, false⟩
def Fld.glbStatus_FARREADY : Field := ⟨0x10, 2, 2, .ro, 0, false⟩
def Fld.glbStatus_STSREADY : Field := ⟨0x10, 1, 1, .ro, 0, false⟩
def Fld.glbStatus_MAINREADY : Field := ⟨0x10, 0, 0, .ro, 0, false⟩
-- GLB_INTSUM
def Fld.glbIntsum_BLOCK : Field := ⟨0x14, 15, 0, .ro, 0, false⟩
-- GLB_FSUM_LO
def Fld.glbFsumLo_FACET : Field := ⟨0x18, 31, 0, .ro, 0, false⟩
-- GLB_FSUM_HI
def Fld.glbFsumHi_FACET : Field := ⟨0x1c, 19, 0, .ro, 0, false⟩
-- GLB_HERR
def Fld.glbHerr_ACCESS : Field := ⟨0x20, 0, 0, .w1c, 0, false⟩
-- GLB_INTEN
def Fld.glbInten_EN : Field := ⟨0x24, 0, 0, .rw, 0, false⟩
-- GLB_HERR_INFO
def Fld.glbHerrInfo_BAR : Field := ⟨0x28, 31, 30, .ro, 0, false⟩
def Fld.glbHerrInfo_WRITE : Field := ⟨0x28, 16, 16, .ro, 0, false⟩
def Fld.glbHerrInfo_BYTES : Field := ⟨0x28, 15, 8, .ro, 0, false⟩
def Fld.glbHerrInfo_CAUSE : Field := ⟨0x28, 3, 0, .ro, 0, false⟩
-- GLB_HERR_ADDR_LO
def Fld.glbHerrAddrLo_ADDR : Field := ⟨0x2c, 31, 0, .ro, 0, false⟩
-- GLB_HERR_ADDR_HI
def Fld.glbHerrAddrHi_ADDR : Field := ⟨0x30, 31, 0, .ro, 0, false⟩
-- GLB_CNT_HERR
def Fld.glbCntHerr_COUNT : Field := ⟨0x34, 31, 0, .ro, 0, false⟩
-- GLB_SCRATCH
def Fld.glbScratch_VALUE : Field := ⟨0x38, 31, 0, .rw, 0, false⟩
-- HIF_LINK
def Fld.hifLink_SPEED : Field := ⟨0x20000, 10, 8, .ro, 0, false⟩
def Fld.hifLink_WIDTH : Field := ⟨0x20000, 4, 0, .ro, 0, false⟩
-- HIF_ERR
def Fld.hifErr_XDROP : Field := ⟨0x20004, 3, 3, .w1c, 0, false⟩
def Fld.hifErr_BMEDROP : Field := ⟨0x20004, 2, 2, .w1c, 0, false⟩
def Fld.hifErr_CPLERR : Field := ⟨0x20004, 1, 1, .w1c, 0, false⟩
def Fld.hifErr_QERR : Field := ⟨0x20004, 0, 0, .w1c, 0, false⟩
-- HIF_INTEN
def Fld.hifInten_EN : Field := ⟨0x20008, 3, 0, .rw, 0, false⟩
-- HIF_QERR_LO
def Fld.hifQerrLo_QP : Field := ⟨0x2000c, 31, 0, .ro, 0, false⟩
-- HIF_QERR_HI
def Fld.hifQerrHi_QP : Field := ⟨0x20010, 31, 0, .ro, 0, false⟩
-- HIF_CNT_CMD
def Fld.hifCntCmd_COUNT : Field := ⟨0x20014, 31, 0, .ro, 0, false⟩
-- HIF_CNT_CPL
def Fld.hifCntCpl_COUNT : Field := ⟨0x20018, 31, 0, .ro, 0, false⟩
-- HIF_CNT_CPLERR
def Fld.hifCntCplerr_COUNT : Field := ⟨0x2001c, 31, 0, .ro, 0, false⟩
-- HIF_CNT_BMEDROP
def Fld.hifCntBmedrop_COUNT : Field := ⟨0x20020, 31, 0, .ro, 0, false⟩
-- HIF_PTMSTAT
def Fld.hifPtmstat_VALID : Field := ⟨0x20024, 0, 0, .ro, 0, false⟩
-- HIF_CNT_XDROP
def Fld.hifCntXdrop_COUNT : Field := ⟨0x20028, 31, 0, .ro, 0, false⟩
-- HIF_Q_SQB_LO
def Fld.hifQSqbLo_BASE (q : Nat) : Field := ⟨0x20100 + q * 0x20, 31, 12, .rw, 0, false⟩
-- HIF_Q_SQB_HI
def Fld.hifQSqbHi_BASE (q : Nat) : Field := ⟨0x20104 + q * 0x20, 31, 0, .rw, 0, false⟩
-- HIF_Q_CQB_LO
def Fld.hifQCqbLo_BASE (q : Nat) : Field := ⟨0x20108 + q * 0x20, 31, 12, .rw, 0, false⟩
-- HIF_Q_CQB_HI
def Fld.hifQCqbHi_BASE (q : Nat) : Field := ⟨0x2010c + q * 0x20, 31, 0, .rw, 0, false⟩
-- HIF_Q_CFG
def Fld.hifQCfg_ENABLE (q : Nat) : Field := ⟨0x20110 + q * 0x20, 31, 31, .rw, 0, true⟩
def Fld.hifQCfg_IEN (q : Nat) : Field := ⟨0x20110 + q * 0x20, 30, 30, .rw, 0, false⟩
def Fld.hifQCfg_CQSIZE (q : Nat) : Field := ⟨0x20110 + q * 0x20, 27, 16, .rw, 0, false⟩
def Fld.hifQCfg_SQSIZE (q : Nat) : Field := ⟨0x20110 + q * 0x20, 11, 0, .rw, 0, false⟩
-- HIF_Q_STATE
def Fld.hifQState_STATE (q : Nat) : Field := ⟨0x20114 + q * 0x20, 18, 16, .ro, 0, false⟩
def Fld.hifQState_ERRCODE (q : Nat) : Field := ⟨0x20114 + q * 0x20, 11, 8, .ro, 0, false⟩
-- HIF_Q_SQHEAD
def Fld.hifQSqhead_HEAD (q : Nat) : Field := ⟨0x20118 + q * 0x20, 11, 0, .ro, 0, false⟩
-- HIF_Q_CQTAIL
def Fld.hifQCqtail_PHASE (q : Nat) : Field := ⟨0x2011c + q * 0x20, 16, 16, .ro, 1, false⟩
def Fld.hifQCqtail_TAIL (q : Nat) : Field := ⟨0x2011c + q * 0x20, 11, 0, .ro, 0, false⟩
-- SEC_STATUS
def Fld.secStatus_UNOWNED : Field := ⟨0xf0000, 12, 12, .ro, 0, false⟩
def Fld.secStatus_OWNERREVOKED : Field := ⟨0xf0000, 11, 8, .ro, 0, false⟩
def Fld.secStatus_OWNERFUSED : Field := ⟨0xf0000, 7, 4, .ro, 0, false⟩
def Fld.secStatus_DEBUGLOCKED : Field := ⟨0xf0000, 0, 0, .ro, 1, false⟩
-- SEC_OIK_CTL
def Fld.secOikCtl_LOCK : Field := ⟨0xf0004, 8, 8, .ro, 0, false⟩
def Fld.secOikCtl_VALID : Field := ⟨0xf0004, 4, 4, .ro, 0, false⟩
def Fld.secOikCtl_SLOT : Field := ⟨0xf0004, 1, 0, .ro, 0, false⟩
-- SEC_SVN
def Fld.secSvn_PROT : Field := ⟨0xf0008, 23, 16, .ro, 0, false⟩
def Fld.secSvn_MAIN : Field := ⟨0xf0008, 15, 8, .ro, 0, false⟩
def Fld.secSvn_MGT : Field := ⟨0xf0008, 7, 0, .ro, 0, false⟩
-- SEC_BOOT
def Fld.secBoot_PROTSLOT : Field := ⟨0xf000c, 2, 2, .ro, 0, false⟩
def Fld.secBoot_MAINSLOT : Field := ⟨0xf000c, 1, 1, .ro, 0, false⟩
def Fld.secBoot_MGTSLOT : Field := ⟨0xf000c, 0, 0, .ro, 0, false⟩
-- SEC_ERR
def Fld.secErr_SIGFAIL : Field := ⟨0xf0010, 1, 1, .w1c, 0, false⟩
def Fld.secErr_FWFAIL : Field := ⟨0xf0010, 0, 0, .w1c, 0, false⟩
-- SEC_INTEN
def Fld.secInten_EN : Field := ⟨0xf0014, 1, 0, .rw, 0, false⟩
-- SEC_CNT_SIGFAIL
def Fld.secCntSigfail_COUNT : Field := ⟨0xf0018, 31, 0, .ro, 0, false⟩
-- SEC_CNT_FWFAIL
def Fld.secCntFwfail_COUNT : Field := ⟨0xf001c, 31, 0, .ro, 0, false⟩
-- SEC_OIK
def Fld.secOik_KEY (i : Nat) : Field := ⟨0xf0040 + i * 0x4, 31, 0, .ro, 0, false⟩
-- SEC_AIMG
def Fld.secAimg_DIGEST (i : Nat) : Field := ⟨0xf0080 + i * 0x4, 31, 0, .ro, 0, false⟩
-- MGT_STATUS
def Fld.mgtStatus_CAPACTIVE : Field := ⟨0xf0800, 16, 16, .ro, 0, false⟩
def Fld.mgtStatus_OFFLINE : Field := ⟨0xf0800, 9, 8, .ro, 0, false⟩
def Fld.mgtStatus_STATE : Field := ⟨0xf0800, 2, 0, .ro, 0, false⟩
-- MGT_CAP
def Fld.mgtCap_WATTS : Field := ⟨0xf0804, 9, 0, .ro, 0, false⟩
-- MGT_CNT_LOST
def Fld.mgtCntLost_COUNT : Field := ⟨0xf0808, 31, 0, .ro, 0, false⟩
-- MGT_H2M
def Fld.mgtH2m_SEND : Field := ⟨0xf080c, 31, 31, .w1s, 0, true⟩
def Fld.mgtH2m_BUSY : Field := ⟨0xf080c, 30, 30, .ro, 0, false⟩
def Fld.mgtH2m_LEN : Field := ⟨0xf080c, 8, 0, .rw, 0, false⟩
-- MGT_M2H
def Fld.mgtM2h_READY : Field := ⟨0xf0810, 31, 31, .w1c, 0, false⟩
def Fld.mgtM2h_LEN : Field := ⟨0xf0810, 8, 0, .ro, 0, false⟩
-- MGT_VER
def Fld.mgtVer_VERSION (i : Nat) : Field := ⟨0xf0814 + i * 0x4, 31, 0, .ro, 0, false⟩
-- MGT_H2M_BUF
def Fld.mgtH2mBuf_DATA (i : Nat) : Field := ⟨0xf0900 + i * 0x4, 31, 0, .rw, 0, false⟩
-- MGT_M2H_BUF
def Fld.mgtM2hBuf_DATA (i : Nat) : Field := ⟨0xf0a00 + i * 0x4, 31, 0, .ro, 0, false⟩
-- RPM_CFG_CMD
def Fld.rpmCfgCmd_COMMIT : Field := ⟨0xec000, 31, 31, .w1s, 0, true⟩
def Fld.rpmCfgCmd_RESULT : Field := ⟨0xec000, 17, 16, .ro, 0, false⟩
def Fld.rpmCfgCmd_WAITING : Field := ⟨0xec000, 8, 8, .ro, 0, false⟩
-- RPM_CFG_CLAMPMAP
def Fld.rpmCfgClampmap_FIELD : Field := ⟨0xec004, 7, 0, .ro, 0, false⟩
-- RPM_CFG_CNT_CLAMP
def Fld.rpmCfgCntClamp_COUNT : Field := ⟨0xec008, 31, 0, .ro, 0, false⟩
-- RPM_CFG_STAGE
def Fld.rpmCfgStage_VALUE (i : Nat) : Field := ⟨0xec040 + i * 0x4, 31, 0, .rw, Config.cfgDefault i, false⟩
-- RPM_CFG_STAGE_M
def Fld.rpmCfgStageM_VALUE (i : Nat) : Field := ⟨0xec058 + i * 0x4, 31, 0, .ro, Config.cfgDefault (i + 6), false⟩
-- RPM_CFG_COMMIT
def Fld.rpmCfgCommit_VALUE (i : Nat) : Field := ⟨0xec080 + i * 0x4, 31, 0, .ro, Config.cfgDefault i, false⟩
-- RPM_CFG_FORCE
def Fld.rpmCfgForce_VALUE (i : Nat) : Field := ⟨0xec0c0 + i * 0x4, 31, 0, .ro, Config.cfgDefault i, false⟩
-- CAL_STATUS
def Fld.calStatus_FARCH : Field := ⟨0xd0000, 20, 16, .ro, 0, false⟩
def Fld.calStatus_FARPAUSE : Field := ⟨0xd0000, 8, 8, .ro, 0, false⟩
def Fld.calStatus_SHADOW : Field := ⟨0xd0000, 3, 0, .ro, 0, false⟩
-- CAL_ERR
def Fld.calErr_SHADOWMM : Field := ⟨0xd0004, 2, 2, .w1c, 0, false⟩
def Fld.calErr_RETRAINFAIL : Field := ⟨0xd0004, 1, 1, .w1c, 0, false⟩
def Fld.calErr_MARGINLOW : Field := ⟨0xd0004, 0, 0, .w1c, 0, false⟩
-- CAL_INTEN
def Fld.calInten_EN : Field := ⟨0xd0008, 2, 0, .rw, 0, false⟩
-- CAL_CNT_SINGULAR
def Fld.calCntSingular_COUNT : Field := ⟨0xd000c, 31, 0, .ro, 0, false⟩
-- CAL_CNT_UPDATE
def Fld.calCntUpdate_COUNT : Field := ⟨0xd0010, 31, 0, .ro, 0, false⟩
-- CAL_CNT_SHADOW
def Fld.calCntShadow_COUNT : Field := ⟨0xd0014, 31, 0, .ro, 0, false⟩
-- CAL_CNT_SHADOWMM
def Fld.calCntShadowmm_COUNT : Field := ⟨0xd0018, 31, 0, .ro, 0, false⟩
-- CAL_CNT_ABANDON
def Fld.calCntAbandon_COUNT : Field := ⟨0xd001c, 31, 0, .ro, 0, false⟩
-- CAL_CNT_RETRAIN
def Fld.calCntRetrain_COUNT : Field := ⟨0xd0020, 31, 0, .ro, 0, false⟩
-- CAL_SHADOW_LAST
def Fld.calShadowLast_TASKID : Field := ⟨0xd0024, 31, 16, .ro, 0, false⟩
def Fld.calShadowLast_LFACET : Field := ⟨0xd0024, 13, 8, .ro, 0, false⟩
def Fld.calShadowLast_MATCH : Field := ⟨0xd0024, 0, 0, .ro, 0, false⟩
-- CAL_LANE
def Fld.calLane_CTLE (i : Nat) : Field := ⟨0xd0100 + i * 0x4, 23, 16, .ro, 0, false⟩
def Fld.calLane_WIDTH (i : Nat) : Field := ⟨0xd0100 + i * 0x4, 15, 8, .ro, 0, false⟩
def Fld.calLane_HEIGHT (i : Nat) : Field := ⟨0xd0100 + i * 0x4, 7, 0, .ro, 0, false⟩
-- CAL_HLANE
def Fld.calHlane_CTLE (i : Nat) : Field := ⟨0xd0200 + i * 0x4, 23, 16, .ro, 0, false⟩
def Fld.calHlane_WIDTH (i : Nat) : Field := ⟨0xd0200 + i * 0x4, 15, 8, .ro, 0, false⟩
def Fld.calHlane_HEIGHT (i : Nat) : Field := ⟨0xd0200 + i * 0x4, 7, 0, .ro, 0, false⟩
-- CAL_FAR
def Fld.calFar_READ (i : Nat) : Field := ⟨0xd0300 + i * 0x4, 15, 8, .ro, 0, false⟩
def Fld.calFar_WRITE (i : Nat) : Field := ⟨0xd0300 + i * 0x4, 7, 0, .ro, 0, false⟩
-- CAL_CORE
def Fld.calCore_SLACK (i : Nat) : Field := ⟨0xd0400 + i * 0x4, 7, 0, .ro, 0, false⟩
-- RPM_STATUS
def Fld.rpmStatus_SPARES : Field := ⟨0xe0000, 15, 8, .ro, 0xAA, false⟩
def Fld.rpmStatus_SPAREF : Field := ⟨0xe0000, 3, 0, .ro, 0xF, false⟩
-- RPM_ERR
def Fld.rpmErr_FATAL : Field := ⟨0xe0004, 5, 5, .w1c, 0, false⟩
def Fld.rpmErr_SKEWOVERRUN : Field := ⟨0xe0004, 4, 4, .w1c, 0, false⟩
def Fld.rpmErr_THROTTLE : Field := ⟨0xe0004, 3, 3, .w1c, 0, false⟩
def Fld.rpmErr_SPAREOUT : Field := ⟨0xe0004, 2, 2, .w1c, 0, false⟩
def Fld.rpmErr_SLICERETIRE : Field := ⟨0xe0004, 1, 1, .w1c, 0, false⟩
def Fld.rpmErr_FACETSWAP : Field := ⟨0xe0004, 0, 0, .w1c, 0, false⟩
-- RPM_INTEN
def Fld.rpmInten_EN : Field := ⟨0xe0008, 5, 0, .rw, 0, false⟩
-- RPM_MAPGEN
def Fld.rpmMapgen_GEN : Field := ⟨0xe000c, 31, 0, .ro, 0, false⟩
-- RPM_REPAIR
def Fld.rpmRepair_KIND : Field := ⟨0xe0010, 31, 28, .ro, 0, false⟩
def Fld.rpmRepair_INDEX : Field := ⟨0xe0010, 23, 16, .ro, 0, false⟩
def Fld.rpmRepair_PROGRESS : Field := ⟨0xe0010, 15, 0, .ro, 0, false⟩
-- RPM_THROTTLE
def Fld.rpmThrottle_Q0 : Field := ⟨0xe0014, 1, 0, .ro, 0, false⟩
def Fld.rpmThrottle_Q1 : Field := ⟨0xe0014, 5, 4, .ro, 0, false⟩
def Fld.rpmThrottle_Q2 : Field := ⟨0xe0014, 9, 8, .ro, 0, false⟩
def Fld.rpmThrottle_Q3 : Field := ⟨0xe0014, 13, 12, .ro, 0, false⟩
-- RPM_FATAL
def Fld.rpmFatal_CAUSE : Field := ⟨0xe0018, 7, 0, .ro, 0, false⟩
-- RPM_CNT_SWAP
def Fld.rpmCntSwap_COUNT : Field := ⟨0xe001c, 31, 0, .ro, 0, false⟩
-- RPM_CNT_PLANNED
def Fld.rpmCntPlanned_COUNT : Field := ⟨0xe0020, 31, 0, .ro, 0, false⟩
-- RPM_CNT_SLICE
def Fld.rpmCntSlice_COUNT : Field := ⟨0xe0024, 31, 0, .ro, 0, false⟩
-- RPM_CNT_SKEW
def Fld.rpmCntSkew_COUNT : Field := ⟨0xe0028, 31, 0, .ro, 0, false⟩
-- RPM_CNT_THROT
def Fld.rpmCntThrot_COUNT : Field := ⟨0xe002c, 31, 0, .ro, 0, false⟩
-- RPM_CNT_OVERRUN
def Fld.rpmCntOverrun_COUNT : Field := ⟨0xe0030, 31, 0, .ro, 0, false⟩
-- RPM_CNT_RECDROP
def Fld.rpmCntRecdrop_COUNT : Field := ⟨0xe0034, 31, 0, .ro, 0, false⟩
-- RPM_QV
def Fld.rpmQv_MV (i : Nat) : Field := ⟨0xe0040 + i * 0x4, 15, 0, .ro, 0, false⟩
-- RPM_QT
def Fld.rpmQt_TEMP (i : Nat) : Field := ⟨0xe0050 + i * 0x4, 15, 0, .ro, 0, false⟩
-- RPM_QSTR
def Fld.rpmQstr_STRETCH (i : Nat) : Field := ⟨0xe0060 + i * 0x4, 10, 0, .ro, 0, false⟩
-- RPM_FMAP
def Fld.rpmFmap_PFACET (i : Nat) : Field := ⟨0xe0100 + i * 0x4, 5, 0, .ro, Config.facetMap i, false⟩
-- RPM_SMAP
def Fld.rpmSmap_PSLICE (i : Nat) : Field := ⟨0xe0200 + i * 0x4, 7, 0, .ro, Config.sliceMap i, false⟩
-- RPM_FSTATE
def Fld.rpmFstate_WORN (i : Nat) : Field := ⟨0xe0500 + i * 0x4, 8, 8, .ro, 0, false⟩
def Fld.rpmFstate_STATE (i : Nat) : Field := ⟨0xe0500 + i * 0x4, 2, 0, .ro, Config.facetState i, false⟩
-- RPM_SSTATE
def Fld.rpmSstate_WORN (i : Nat) : Field := ⟨0xe0600 + i * 0x4, 8, 8, .ro, 0, false⟩
def Fld.rpmSstate_STATE (i : Nat) : Field := ⟨0xe0600 + i * 0x4, 2, 0, .ro, Config.sliceState i, false⟩

/-- The field of a table row that lies at address `a`, if one does: `mk` gives the field of an index, `n` and `st` are the number and spacing of its copies. -/
def rowAt (base n st : Nat) (mk : Nat → Field) (a : Nat) : Option Field :=
  if base ≤ a ∧ a < base + n * st ∧ (a - base) % st = 0 then some (mk ((a - base) / st)) else none

/-- As `rowAt` for the registers of the facet control pages (R80): one page for each physical facet, `n` copies in a page. -/
def facetRowAt (base n st : Nat) (mk : Nat → Nat → Field) (a : Nat) : Option Field :=
  if 0x1000000 ≤ a ∧ a < 0x1000000 + 52 * 0x100000 then
    let f := (a - 0x1000000) / 0x100000
    rowAt (base + f * 0x100000) n st (mk f) a
  else none

/-- The fields of block FSQ that lie at address `a`. -/
def fieldsIn_fsq (a : Nat) : List Field :=
  List.filterMap id [
    rowAt 0x10000 1 4 (fun _ => Fld.fsqCtl_RUN) a,
    rowAt 0x10004 1 4 (fun _ => Fld.fsqTickctl_SRC) a,
    rowAt 0x10008 1 4 (fun _ => Fld.fsqPeriod_PERIODUS) a,
    rowAt 0x1000c 1 4 (fun _ => Fld.fsqBudget_B) a,
    rowAt 0x10010 1 4 (fun _ => Fld.fsqFrame_FRAME) a,
    rowAt 0x10014 1 4 (fun _ => Fld.fsqTcyc_TCYC) a,
    rowAt 0x10018 1 4 (fun _ => Fld.fsqStatus_ACTIVEVALID) a,
    rowAt 0x10018 1 4 (fun _ => Fld.fsqStatus_PENDING) a,
    rowAt 0x1001c 1 4 (fun _ => Fld.fsqSwap_CANCEL) a,
    rowAt 0x1001c 1 4 (fun _ => Fld.fsqSwap_REQ) a,
    rowAt 0x10020 1 4 (fun _ => Fld.fsqAdmit_PRIMARY) a,
    rowAt 0x10024 1 4 (fun _ => Fld.fsqAdmitMap_MAP) a,
    rowAt 0x10028 1 4 (fun _ => Fld.fsqActiveId_ID) a,
    rowAt 0x1002c 1 4 (fun _ => Fld.fsqPendingId_ID) a,
    rowAt 0x10030 1 4 (fun _ => Fld.fsqEvents_OVERRUN) a,
    rowAt 0x10030 1 4 (fun _ => Fld.fsqEvents_RPTDROP) a,
    rowAt 0x10030 1 4 (fun _ => Fld.fsqEvents_TICKLOST) a,
    rowAt 0x10030 1 4 (fun _ => Fld.fsqEvents_TICKEARLY) a,
    rowAt 0x10030 1 4 (fun _ => Fld.fsqEvents_TICKMISSED) a,
    rowAt 0x10034 1 4 (fun _ => Fld.fsqInten_EN) a,
    rowAt 0x10038 1 4 (fun _ => Fld.fsqCntMissed_COUNT) a,
    rowAt 0x1003c 1 4 (fun _ => Fld.fsqCntEarly_COUNT) a,
    rowAt 0x10040 1 4 (fun _ => Fld.fsqCntLate_COUNT) a,
    rowAt 0x10044 1 4 (fun _ => Fld.fsqCntRptdrop_COUNT) a,
    rowAt 0x10048 1 4 (fun _ => Fld.fsqPtmphase_PHASEUS) a,
    rowAt 0x1004c 1 4 (fun _ => Fld.fsqPtmerr_ERRNS) a,
    rowAt 0x10050 1 4 (fun _ => Fld.fsqRptBaseLo_BASE) a,
    rowAt 0x10054 1 4 (fun _ => Fld.fsqRptBaseHi_BASE) a,
    rowAt 0x10058 1 4 (fun _ => Fld.fsqRptCfg_BUFKIB) a,
    rowAt 0x10058 1 4 (fun _ => Fld.fsqRptCfg_BUFS) a,
    rowAt 0x1005c 1 4 (fun _ => Fld.fsqRptTail_TAIL) a,
    rowAt 0x10060 1 4 (fun _ => Fld.fsqRptHead_HEAD) a]

/-- The fields of block FCT that lie at address `a`. -/
def fieldsIn_fct (a : Nat) : List Field :=
  List.filterMap id [
    facetRowAt 0x10f0000 1 4 (fun f _ => Fld.fctId_QUAD f) a,
    facetRowAt 0x10f0000 1 4 (fun f _ => Fld.fctId_PFACET f) a,
    facetRowAt 0x10f0004 1 4 (fun f _ => Fld.fctMap_SPARE f) a,
    facetRowAt 0x10f0004 1 4 (fun f _ => Fld.fctMap_LFACET f) a,
    facetRowAt 0x10f0008 1 4 (fun f _ => Fld.fctState_STATE f) a,
    facetRowAt 0x10f000c 1 4 (fun f _ => Fld.fctTask_TASKB f) a,
    facetRowAt 0x10f000c 1 4 (fun f _ => Fld.fctTask_TASKA f) a,
    facetRowAt 0x10f0010 1 4 (fun f _ => Fld.fctErr_SCALARUE f) a,
    facetRowAt 0x10f0010 1 4 (fun f _ => Fld.fctErr_ACCUE f) a,
    facetRowAt 0x10f0010 1 4 (fun f _ => Fld.fctErr_STGUE f) a,
    facetRowAt 0x10f0010 1 4 (fun f _ => Fld.fctErr_WABUE f) a,
    facetRowAt 0x10f0010 1 4 (fun f _ => Fld.fctErr_CELLPAR f) a,
    facetRowAt 0x10f0010 1 4 (fun f _ => Fld.fctErr_VECUE f) a,
    facetRowAt 0x10f0010 1 4 (fun f _ => Fld.fctErr_CE f) a,
    facetRowAt 0x10f0014 1 4 (fun f _ => Fld.fctErrhalf_B f) a,
    facetRowAt 0x10f0014 1 4 (fun f _ => Fld.fctErrhalf_A f) a,
    facetRowAt 0x10f0018 1 4 (fun f _ => Fld.fctCntCe_COUNT f) a,
    facetRowAt 0x10f001c 1 4 (fun f _ => Fld.fctCntUe_COUNT f) a,
    facetRowAt 0x10f0020 1 4 (fun f _ => Fld.fctInten_EN f) a,
    facetRowAt 0x10f0024 1 4 (fun f _ => Fld.fctCntVec_COUNT f) a]

/-- The fields of block LAT that lie at address `a`. -/
def fieldsIn_lat (a : Nat) : List Field :=
  List.filterMap id [
    facetRowAt 0x10f1000 1 4 (fun f _ => Fld.latStatus_ACCWRAP f) a,
    facetRowAt 0x10f1000 1 4 (fun f _ => Fld.latStatus_BUSY f) a,
    facetRowAt 0x10f1000 1 4 (fun f _ => Fld.latStatus_MODE f) a,
    facetRowAt 0x10f1004 1 4 (fun f _ => Fld.latCntLoad_COUNT f) a,
    facetRowAt 0x10f1008 1 4 (fun f _ => Fld.latCntPass_COUNT f) a,
    facetRowAt 0x10f100c 1 4 (fun f _ => Fld.latCntStall_COUNT f) a,
    facetRowAt 0x10f1010 1 4 (fun f _ => Fld.latCntInject_COUNT f) a,
    facetRowAt 0x10f1014 1 4 (fun f _ => Fld.latCntWait_COUNT f) a,
    facetRowAt 0x10f1018 1 4 (fun f _ => Fld.latCntWrap_COUNT f) a,
    facetRowAt 0x10f101c 1 4 (fun f _ => Fld.latCntDrain_COUNT f) a]

/-- The fields of block CMP that lie at address `a`. -/
def fieldsIn_cmp (a : Nat) : List Field :=
  List.filterMap id [
    facetRowAt 0x10f2000 1 4 (fun f _ => Fld.cmpStatus_STRUCT f) a,
    facetRowAt 0x10f2000 1 4 (fun f _ => Fld.cmpStatus_BUSY f) a,
    facetRowAt 0x10f2000 1 4 (fun f _ => Fld.cmpStatus_GLAST f) a,
    facetRowAt 0x10f2000 1 4 (fun f _ => Fld.cmpStatus_PLAST f) a,
    facetRowAt 0x10f2004 1 4 (fun f _ => Fld.cmpMode_GMAXB f) a,
    facetRowAt 0x10f2004 1 4 (fun f _ => Fld.cmpMode_GMAXA f) a,
    facetRowAt 0x10f2008 1 4 (fun f _ => Fld.cmpCntSpan_COUNT f) a,
    facetRowAt 0x10f200c 1 4 (fun f _ => Fld.cmpCntDense_COUNT f) a,
    facetRowAt 0x10f2010 1 4 (fun f _ => Fld.cmpCntG2_COUNT f) a,
    facetRowAt 0x10f2014 1 4 (fun f _ => Fld.cmpCntG4_COUNT f) a,
    facetRowAt 0x10f2018 1 4 (fun f _ => Fld.cmpCntG8_COUNT f) a,
    facetRowAt 0x10f201c 1 4 (fun f _ => Fld.cmpCntSkip_COUNT f) a,
    facetRowAt 0x10f2020 1 4 (fun f _ => Fld.cmpCntSaved_COUNT f) a,
    facetRowAt 0x10f2024 1 4 (fun f _ => Fld.cmpCntNofit_COUNT f) a,
    facetRowAt 0x10f2028 1 4 (fun f _ => Fld.cmpCntHdrchk_COUNT f) a,
    facetRowAt 0x10f202c 1 4 (fun f _ => Fld.cmpKat_TIMEFAIL f) a,
    facetRowAt 0x10f202c 1 4 (fun f _ => Fld.cmpKat_RESULTFAIL f) a]

/-- The fields of block MRG that lie at address `a`. -/
def fieldsIn_mrg (a : Nat) : List Field :=
  List.filterMap id [
    rowAt 0x70000 1 4 (fun _ => Fld.mrgStatus_OPEN) a,
    rowAt 0x70000 1 4 (fun _ => Fld.mrgStatus_BUSY) a,
    rowAt 0x70004 1 4 (fun _ => Fld.mrgErr_UE) a,
    rowAt 0x70004 1 4 (fun _ => Fld.mrgErr_CE) a,
    rowAt 0x70008 1 4 (fun _ => Fld.mrgInten_EN) a,
    rowAt 0x7000c 1 4 (fun _ => Fld.mrgCntRec_COUNT) a,
    rowAt 0x70010 1 4 (fun _ => Fld.mrgCntOut_COUNT) a,
    rowAt 0x70014 1 4 (fun _ => Fld.mrgCntOutdrop_COUNT) a,
    rowAt 0x70018 1 4 (fun _ => Fld.mrgCntDiscard_COUNT) a,
    rowAt 0x7001c 1 4 (fun _ => Fld.mrgCntBusy_COUNT) a,
    rowAt 0x70020 1 4 (fun _ => Fld.mrgCntCe_COUNT) a]

/-- The fields of block PRD that lie at address `a`. -/
def fieldsIn_prd (a : Nat) : List Field :=
  List.filterMap id [
    rowAt 0x80000 1 4 (fun _ => Fld.prdStatus_QDEPTH) a,
    rowAt 0x80000 1 4 (fun _ => Fld.prdStatus_RESIDENT) a,
    rowAt 0x80000 1 4 (fun _ => Fld.prdStatus_BUSY) a,
    rowAt 0x80004 1 4 (fun _ => Fld.prdErr_UE) a,
    rowAt 0x80004 1 4 (fun _ => Fld.prdErr_CE) a,
    rowAt 0x80008 1 4 (fun _ => Fld.prdInten_EN) a,
    rowAt 0x8000c 1 4 (fun _ => Fld.prdRes0_ADDR) a,
    rowAt 0x80010 1 4 (fun _ => Fld.prdRes1_ADDR) a,
    rowAt 0x80014 1 4 (fun _ => Fld.prdCntQuery_COUNT) a,
    rowAt 0x80018 1 4 (fun _ => Fld.prdCntLoad_COUNT) a,
    rowAt 0x8001c 1 4 (fun _ => Fld.prdCntBusy_COUNT) a,
    rowAt 0x80020 1 4 (fun _ => Fld.prdCntSelect_COUNT) a,
    rowAt 0x80024 1 4 (fun _ => Fld.prdCntGrpoff_COUNT) a,
    rowAt 0x80028 1 4 (fun _ => Fld.prdCntCe_COUNT) a]

/-- The fields of block FMEM that lie at address `a`. -/
def fieldsIn_fmem (a : Nat) : List Field :=
  List.filterMap id [
    facetRowAt 0x10f3000 1 4 (fun f _ => Fld.fmemGate_REQ f) a,
    facetRowAt 0x10f3004 1 4 (fun f _ => Fld.fmemGated_STATE f) a,
    facetRowAt 0x10f3008 1 4 (fun f _ => Fld.fmemErr_GATEDRD f) a,
    facetRowAt 0x10f3008 1 4 (fun f _ => Fld.fmemErr_GATEDWR f) a,
    facetRowAt 0x10f3008 1 4 (fun f _ => Fld.fmemErr_UE f) a,
    facetRowAt 0x10f3008 1 4 (fun f _ => Fld.fmemErr_CE f) a,
    facetRowAt 0x10f300c 1 4 (fun f _ => Fld.fmemInten_EN f) a,
    facetRowAt 0x10f3010 1 4 (fun f _ => Fld.fmemCntCe_COUNT f) a,
    facetRowAt 0x10f3014 1 4 (fun f _ => Fld.fmemCntUe_COUNT f) a,
    facetRowAt 0x10f3018 1 4 (fun f _ => Fld.fmemUeAddr_ADDR f) a,
    facetRowAt 0x10f301c 1 4 (fun f _ => Fld.fmemCntGatedwr_COUNT f) a,
    facetRowAt 0x10f3020 1 4 (fun f _ => Fld.fmemCntGatedrd_COUNT f) a,
    facetRowAt 0x10f3024 1 4 (fun f _ => Fld.fmemCntForced_COUNT f) a,
    facetRowAt 0x10f3028 1 4 (fun f _ => Fld.fmemCntConflict_COUNT f) a,
    facetRowAt 0x10f3030 1 4 (fun f _ => Fld.fmemOpctl_START f) a,
    facetRowAt 0x10f3030 1 4 (fun f _ => Fld.fmemOpctl_OP f) a,
    facetRowAt 0x10f3034 1 4 (fun f _ => Fld.fmemOpsrc_ADDR f) a,
    facetRowAt 0x10f3038 1 4 (fun f _ => Fld.fmemOpdst_ADDR f) a,
    facetRowAt 0x10f303c 1 4 (fun f _ => Fld.fmemOplen_LEN f) a,
    facetRowAt 0x10f3040 1 4 (fun f _ => Fld.fmemOpval_VALUE f) a,
    facetRowAt 0x10f3044 1 4 (fun f _ => Fld.fmemOpstat_STATE f) a,
    facetRowAt 0x10f3100 64 4 Fld.fmemArr_COUNT a]

/-- The fields of block STS that lie at address `a`. -/
def fieldsIn_sts (a : Nat) : List Field :=
  List.filterMap id [
    rowAt 0xa0000 1 4 (fun _ => Fld.stsStatus_INITDONE) a,
    rowAt 0xa0004 1 4 (fun _ => Fld.stsErr_BAR4RANGE) a,
    rowAt 0xa0004 1 4 (fun _ => Fld.stsErr_PTWRITE) a,
    rowAt 0xa0004 1 4 (fun _ => Fld.stsErr_UE) a,
    rowAt 0xa0004 1 4 (fun _ => Fld.stsErr_CE) a,
    rowAt 0xa0008 1 4 (fun _ => Fld.stsInten_EN) a,
    rowAt 0xa000c 1 4 (fun _ => Fld.stsCntCe_COUNT) a,
    rowAt 0xa0010 1 4 (fun _ => Fld.stsCntUe_COUNT) a,
    rowAt 0xa0014 1 4 (fun _ => Fld.stsUeAddr_ADDR) a,
    rowAt 0xa0018 1 4 (fun _ => Fld.stsCntPtwr_COUNT) a,
    rowAt 0xa001c 1 4 (fun _ => Fld.stsCntRange_COUNT) a,
    rowAt 0xa0020 4 4 Fld.stsCntLines_COUNT a,
    rowAt 0xa0030 4 4 Fld.stsCntXq_COUNT a]

/-- The fields of block CPT that lie at address `a`. -/
def fieldsIn_cpt (a : Nat) : List Field :=
  List.filterMap id [
    rowAt 0x60000 1 4 (fun _ => Fld.cptStatus_WINDOW) a,
    rowAt 0x60000 1 4 (fun _ => Fld.cptStatus_BUSY) a,
    rowAt 0x60004 1 4 (fun _ => Fld.cptErr_TABLEUE) a,
    rowAt 0x60004 1 4 (fun _ => Fld.cptErr_ABSENT) a,
    rowAt 0x60004 1 4 (fun _ => Fld.cptErr_CE) a,
    rowAt 0x60008 1 4 (fun _ => Fld.cptInten_EN) a,
    rowAt 0x6000c 1 4 (fun _ => Fld.cptPteVpn_VPN) a,
    rowAt 0x60010 1 4 (fun _ => Fld.cptPteData_VALUE) a,
    rowAt 0x60014 1 4 (fun _ => Fld.cptPteCmd_GO) a,
    rowAt 0x60014 1 4 (fun _ => Fld.cptPteCmd_RESULT) a,
    rowAt 0x60018 1 4 (fun _ => Fld.cptCntHit_COUNT) a,
    rowAt 0x6001c 1 4 (fun _ => Fld.cptCntMiss_COUNT) a,
    rowAt 0x60020 1 4 (fun _ => Fld.cptCntAbsent_COUNT) a,
    rowAt 0x60024 1 4 (fun _ => Fld.cptCntIn_COUNT) a,
    rowAt 0x60028 1 4 (fun _ => Fld.cptCntOut_COUNT) a,
    rowAt 0x6002c 1 4 (fun _ => Fld.cptCntFail_COUNT) a,
    rowAt 0x60030 1 4 (fun _ => Fld.cptCntWwait_COUNT) a,
    rowAt 0x60034 1 4 (fun _ => Fld.cptNearFree_COUNT) a,
    rowAt 0x60038 1 4 (fun _ => Fld.cptCntCe_COUNT) a]

/-- The fields of block FAR that lie at address `a`. -/
def fieldsIn_far (a : Nat) : List Field :=
  List.filterMap id [
    rowAt 0xb0000 1 4 (fun _ => Fld.farStatus_INITDONE) a,
    rowAt 0xb0000 1 4 (fun _ => Fld.farStatus_CHUP) a,
    rowAt 0xb0004 1 4 (fun _ => Fld.farErr_POOLLOW) a,
    rowAt 0xb0004 1 4 (fun _ => Fld.farErr_UE) a,
    rowAt 0xb0004 1 4 (fun _ => Fld.farErr_CE) a,
    rowAt 0xb0008 1 4 (fun _ => Fld.farInten_EN) a,
    rowAt 0xb000c 1 4 (fun _ => Fld.farCntCe_COUNT) a,
    rowAt 0xb0010 1 4 (fun _ => Fld.farCntUe_COUNT) a,
    rowAt 0xb0014 1 4 (fun _ => Fld.farUeFrame_FRAME) a,
    rowAt 0xb0018 1 4 (fun _ => Fld.farRetireThr_THR) a,
    rowAt 0xb001c 1 4 (fun _ => Fld.farRetidx_IDX) a,
    rowAt 0xb0020 1 4 (fun _ => Fld.farRetlog_CAUSE) a,
    rowAt 0xb0020 1 4 (fun _ => Fld.farRetlog_FRAME) a,
    rowAt 0xb0024 1 4 (fun _ => Fld.farRetcount_COUNT) a,
    rowAt 0xb0100 16 64 Fld.farChState_WORN a,
    rowAt 0xb0100 16 64 Fld.farChState_STATE a,
    rowAt 0xb0104 16 64 Fld.farChCe_COUNT a,
    rowAt 0xb0108 16 64 Fld.farChUe_COUNT a,
    rowAt 0xb010c 16 64 Fld.farChPool_FREE a,
    rowAt 0xb0110 16 64 Fld.farChBlocks_COUNT a]

/-- The fields of block STR that lie at address `a`. -/
def fieldsIn_str (a : Nat) : List Field :=
  List.filterMap id [
    facetRowAt 0x10f4000 1 4 (fun f _ => Fld.strStatus_OUTSTANDING f) a,
    facetRowAt 0x10f4000 1 4 (fun f _ => Fld.strStatus_OPEN f) a,
    facetRowAt 0x10f4004 1 4 (fun f _ => Fld.strErr_UE f) a,
    facetRowAt 0x10f4004 1 4 (fun f _ => Fld.strErr_CE f) a,
    facetRowAt 0x10f4008 1 4 (fun f _ => Fld.strInten_EN f) a,
    facetRowAt 0x10f400c 1 4 (fun f _ => Fld.strCntBlocks_COUNT f) a,
    facetRowAt 0x10f4010 1 4 (fun f _ => Fld.strCntIn64_COUNT f) a,
    facetRowAt 0x10f4014 1 4 (fun f _ => Fld.strCntOut64_COUNT f) a,
    facetRowAt 0x10f4018 1 4 (fun f _ => Fld.strCntSkip_COUNT f) a,
    facetRowAt 0x10f401c 1 4 (fun f _ => Fld.strCntClip_COUNT f) a,
    facetRowAt 0x10f4020 1 4 (fun f _ => Fld.strCntTdref_COUNT f) a,
    facetRowAt 0x10f4024 1 4 (fun f _ => Fld.strCntDry_COUNT f) a,
    facetRowAt 0x10f4028 1 4 (fun f _ => Fld.strCntSparse_COUNT f) a,
    facetRowAt 0x10f402c 1 4 (fun f _ => Fld.strCntDense_COUNT f) a,
    facetRowAt 0x10f4030 1 4 (fun f _ => Fld.strCntWalkdrop_COUNT f) a,
    facetRowAt 0x10f4034 1 4 (fun f _ => Fld.strCntCe_COUNT f) a,
    facetRowAt 0x10f4040 16 4 Fld.strSt_STATE a,
    facetRowAt 0x10f4040 16 4 Fld.strSt_LISTWAIT a,
    facetRowAt 0x10f4040 16 4 Fld.strSt_DONE a]

/-- The fields of block STRQ that lie at address `a`. -/
def fieldsIn_strq (a : Nat) : List Field :=
  List.filterMap id [
    rowAt 0x40000 4 4 Fld.strQstatus_OUTSTANDING a,
    rowAt 0x40000 4 4 Fld.strQstatus_OPEN a,
    rowAt 0x40010 1 4 (fun _ => Fld.strQerr_UE) a,
    rowAt 0x40010 1 4 (fun _ => Fld.strQerr_CE) a,
    rowAt 0x40014 1 4 (fun _ => Fld.strQinten_EN) a,
    rowAt 0x40020 4 4 Fld.strQcntBlocks_COUNT a,
    rowAt 0x40030 1 4 (fun _ => Fld.strFsumLo_FACET) a,
    rowAt 0x40034 1 4 (fun _ => Fld.strFsumHi_FACET) a]

/-- The fields of block PRS that lie at address `a`. -/
def fieldsIn_prs (a : Nat) : List Field :=
  List.filterMap id [
    rowAt 0x50000 1 4 (fun _ => Fld.prsStatus_PBUSY) a,
    rowAt 0x50000 1 4 (fun _ => Fld.prsStatus_BUSY) a,
    rowAt 0x50004 1 4 (fun _ => Fld.prsErr_UE) a,
    rowAt 0x50004 1 4 (fun _ => Fld.prsErr_CE) a,
    rowAt 0x50008 1 4 (fun _ => Fld.prsInten_EN) a,
    rowAt 0x5000c 1 4 (fun _ => Fld.prsPcmd_GO) a,
    rowAt 0x5000c 1 4 (fun _ => Fld.prsPcmd_RESULT) a,
    rowAt 0x5000c 1 4 (fun _ => Fld.prsPcmd_QUAD) a,
    rowAt 0x5000c 1 4 (fun _ => Fld.prsPcmd_INDEX) a,
    rowAt 0x50010 4 8 Fld.prsPvalidLo_VALID a,
    rowAt 0x50014 4 8 Fld.prsPvalidHi_VALID a,
    rowAt 0x50030 4 4 Fld.prsCntBytes_COUNT a,
    rowAt 0x50040 1 4 (fun _ => Fld.prsCntBadperm_COUNT) a,
    rowAt 0x50044 1 4 (fun _ => Fld.prsCntPartial_COUNT) a,
    rowAt 0x50048 1 4 (fun _ => Fld.prsCntCe_COUNT) a,
    rowAt 0x50080 32 4 Fld.prsPbuf_LANES a]

/-- The fields of block UPD that lie at address `a`. -/
def fieldsIn_upd (a : Nat) : List Field :=
  List.filterMap id [
    rowAt 0x90000 1 4 (fun _ => Fld.updStatus_BUSY) a,
    rowAt 0x90004 1 4 (fun _ => Fld.updQdepth_Q3) a,
    rowAt 0x90004 1 4 (fun _ => Fld.updQdepth_Q2) a,
    rowAt 0x90004 1 4 (fun _ => Fld.updQdepth_Q1) a,
    rowAt 0x90004 1 4 (fun _ => Fld.updQdepth_Q0) a,
    rowAt 0x90008 1 4 (fun _ => Fld.updErr_UE) a,
    rowAt 0x90008 1 4 (fun _ => Fld.updErr_CE) a,
    rowAt 0x9000c 1 4 (fun _ => Fld.updInten_EN) a,
    rowAt 0x90010 1 4 (fun _ => Fld.updGtabBase_BASE) a,
    rowAt 0x90014 1 4 (fun _ => Fld.updGtabCount_COUNT) a,
    rowAt 0x90018 1 4 (fun _ => Fld.updCntSign_COUNT) a,
    rowAt 0x9001c 1 4 (fun _ => Fld.updCntVote_COUNT) a,
    rowAt 0x90020 1 4 (fun _ => Fld.updCntParams_COUNT) a,
    rowAt 0x90024 1 4 (fun _ => Fld.updCntMasked_COUNT) a,
    rowAt 0x90028 1 4 (fun _ => Fld.updCntClip_COUNT) a,
    rowAt 0x9002c 1 4 (fun _ => Fld.updCntStepmm_COUNT) a,
    rowAt 0x90030 4 4 Fld.updCntBusy_COUNT a,
    rowAt 0x90040 1 4 (fun _ => Fld.updCntCe_COUNT) a,
    rowAt 0x90044 1 4 (fun _ => Fld.updMmGroup_GROUP) a,
    rowAt 0x90048 1 4 (fun _ => Fld.updMmStamp_STAMP) a,
    rowAt 0x9004c 1 4 (fun _ => Fld.updMmExpect_STAMP) a]

/-- The fields of block CHD that lie at address `a`. -/
def fieldsIn_chd (a : Nat) : List Field :=
  List.filterMap id [
    rowAt 0xc0000 1 4 (fun _ => Fld.chdChipid_CHIP) a,
    rowAt 0xc0004 1 4 (fun _ => Fld.chdStatus_UP) a,
    rowAt 0xc0008 1 4 (fun _ => Fld.chdErr_TIMEOUT) a,
    rowAt 0xc0008 1 4 (fun _ => Fld.chdErr_REMOTERANGE) a,
    rowAt 0xc0008 1 4 (fun _ => Fld.chdErr_DROP) a,
    rowAt 0xc0008 1 4 (fun _ => Fld.chdErr_PORTDOWN) a,
    rowAt 0xc0008 1 4 (fun _ => Fld.chdErr_LANESWAP) a,
    rowAt 0xc0008 1 4 (fun _ => Fld.chdErr_POSTDROP) a,
    rowAt 0xc000c 1 4 (fun _ => Fld.chdInten_EN) a,
    rowAt 0xc0010 1 4 (fun _ => Fld.chdTickctl_FORWARD) a,
    rowAt 0xc0010 1 4 (fun _ => Fld.chdTickctl_FOLLOW) a,
    rowAt 0xc0010 1 4 (fun _ => Fld.chdTickctl_PORT) a,
    rowAt 0xc0014 1 4 (fun _ => Fld.chdMcstall_LIMITUS) a,
    rowAt 0xc0018 1 4 (fun _ => Fld.chdOtcmd_GO) a,
    rowAt 0xc0018 1 4 (fun _ => Fld.chdOtcmd_RESULT) a,
    rowAt 0xc0018 1 4 (fun _ => Fld.chdOtcmd_BUSY) a,
    rowAt 0xc0018 1 4 (fun _ => Fld.chdOtcmd_TABLE) a,
    rowAt 0xc001c 1 4 (fun _ => Fld.chdOtaddr_ADDR) a,
    rowAt 0xc0020 1 4 (fun _ => Fld.chdOtvalidLo_VALID) a,
    rowAt 0xc0024 1 4 (fun _ => Fld.chdOtvalidHi_VALID) a,
    rowAt 0xc0028 1 4 (fun _ => Fld.chdCntDrop_COUNT) a,
    rowAt 0xc002c 1 4 (fun _ => Fld.chdCntReject_COUNT) a,
    rowAt 0xc0030 1 4 (fun _ => Fld.chdCntPostdrop_COUNT) a,
    rowAt 0xc0034 1 4 (fun _ => Fld.chdCntTimeout_COUNT) a,
    rowAt 0xc0100 8 64 Fld.chdPState_LANES a,
    rowAt 0xc0100 8 64 Fld.chdPState_PARTNER a,
    rowAt 0xc0100 8 64 Fld.chdPState_REASON a,
    rowAt 0xc0100 8 64 Fld.chdPState_STATE a,
    rowAt 0xc0104 8 64 Fld.chdPCtl_ENABLE a,
    rowAt 0xc0108 8 64 Fld.chdPDelay_DELAY a,
    rowAt 0xc010c 8 64 Fld.chdPCntFec_COUNT a,
    rowAt 0xc0110 8 64 Fld.chdPCntCrc_COUNT a,
    rowAt 0xc0114 8 64 Fld.chdPCntReplay_COUNT a,
    rowAt 0xc0118 8 64 Fld.chdPCntTx_COUNT a,
    rowAt 0xc011c 8 64 Fld.chdPCntRx_COUNT a,
    rowAt 0xc0120 8 64 Fld.chdPCntSwap_COUNT a,
    rowAt 0xc0124 8 64 Fld.chdPCntWait_COUNT a,
    rowAt 0xc0400 64 4 Fld.chdRoute_VALID a,
    rowAt 0xc0400 64 4 Fld.chdRoute_PORT a,
    rowAt 0xc0600 64 8 Fld.chdMcastLo_MASK a,
    rowAt 0xc0604 64 8 Fld.chdMcastHi_MASK a]

/-- The fields of block GLB that lie at address `a`. -/
def fieldsIn_glb (a : Nat) : List Field :=
  List.filterMap id [
    rowAt 0x0 1 4 (fun _ => Fld.glbId_DEVICE) a,
    rowAt 0x0 1 4 (fun _ => Fld.glbId_VENDOR) a,
    rowAt 0x4 1 4 (fun _ => Fld.glbRev_GRADE) a,
    rowAt 0x4 1 4 (fun _ => Fld.glbRev_LEVEL) a,
    rowAt 0x4 1 4 (fun _ => Fld.glbRev_STEPPING) a,
    rowAt 0x8 1 4 (fun _ => Fld.glbSerialLo_SERIAL) a,
    rowAt 0xc 1 4 (fun _ => Fld.glbSerialHi_SERIAL) a,
    rowAt 0x10 1 4 (fun _ => Fld.glbStatus_OFFLINE) a,
    rowAt 0x10 1 4 (fun _ => Fld.glbStatus_FARREADY) a,
    rowAt 0x10 1 4 (fun _ => Fld.glbStatus_STSREADY) a,
    rowAt 0x10 1 4 (fun _ => Fld.glbStatus_MAINREADY) a,
    rowAt 0x14 1 4 (fun _ => Fld.glbIntsum_BLOCK) a,
    rowAt 0x18 1 4 (fun _ => Fld.glbFsumLo_FACET) a,
    rowAt 0x1c 1 4 (fun _ => Fld.glbFsumHi_FACET) a,
    rowAt 0x20 1 4 (fun _ => Fld.glbHerr_ACCESS) a,
    rowAt 0x24 1 4 (fun _ => Fld.glbInten_EN) a,
    rowAt 0x28 1 4 (fun _ => Fld.glbHerrInfo_BAR) a,
    rowAt 0x28 1 4 (fun _ => Fld.glbHerrInfo_WRITE) a,
    rowAt 0x28 1 4 (fun _ => Fld.glbHerrInfo_BYTES) a,
    rowAt 0x28 1 4 (fun _ => Fld.glbHerrInfo_CAUSE) a,
    rowAt 0x2c 1 4 (fun _ => Fld.glbHerrAddrLo_ADDR) a,
    rowAt 0x30 1 4 (fun _ => Fld.glbHerrAddrHi_ADDR) a,
    rowAt 0x34 1 4 (fun _ => Fld.glbCntHerr_COUNT) a,
    rowAt 0x38 1 4 (fun _ => Fld.glbScratch_VALUE) a]

/-- The fields of block HIF that lie at address `a`. -/
def fieldsIn_hif (a : Nat) : List Field :=
  List.filterMap id [
    rowAt 0x20000 1 4 (fun _ => Fld.hifLink_SPEED) a,
    rowAt 0x20000 1 4 (fun _ => Fld.hifLink_WIDTH) a,
    rowAt 0x20004 1 4 (fun _ => Fld.hifErr_XDROP) a,
    rowAt 0x20004 1 4 (fun _ => Fld.hifErr_BMEDROP) a,
    rowAt 0x20004 1 4 (fun _ => Fld.hifErr_CPLERR) a,
    rowAt 0x20004 1 4 (fun _ => Fld.hifErr_QERR) a,
    rowAt 0x20008 1 4 (fun _ => Fld.hifInten_EN) a,
    rowAt 0x2000c 1 4 (fun _ => Fld.hifQerrLo_QP) a,
    rowAt 0x20010 1 4 (fun _ => Fld.hifQerrHi_QP) a,
    rowAt 0x20014 1 4 (fun _ => Fld.hifCntCmd_COUNT) a,
    rowAt 0x20018 1 4 (fun _ => Fld.hifCntCpl_COUNT) a,
    rowAt 0x2001c 1 4 (fun _ => Fld.hifCntCplerr_COUNT) a,
    rowAt 0x20020 1 4 (fun _ => Fld.hifCntBmedrop_COUNT) a,
    rowAt 0x20024 1 4 (fun _ => Fld.hifPtmstat_VALID) a,
    rowAt 0x20028 1 4 (fun _ => Fld.hifCntXdrop_COUNT) a,
    rowAt 0x20100 64 32 Fld.hifQSqbLo_BASE a,
    rowAt 0x20104 64 32 Fld.hifQSqbHi_BASE a,
    rowAt 0x20108 64 32 Fld.hifQCqbLo_BASE a,
    rowAt 0x2010c 64 32 Fld.hifQCqbHi_BASE a,
    rowAt 0x20110 64 32 Fld.hifQCfg_ENABLE a,
    rowAt 0x20110 64 32 Fld.hifQCfg_IEN a,
    rowAt 0x20110 64 32 Fld.hifQCfg_CQSIZE a,
    rowAt 0x20110 64 32 Fld.hifQCfg_SQSIZE a,
    rowAt 0x20114 64 32 Fld.hifQState_STATE a,
    rowAt 0x20114 64 32 Fld.hifQState_ERRCODE a,
    rowAt 0x20118 64 32 Fld.hifQSqhead_HEAD a,
    rowAt 0x2011c 64 32 Fld.hifQCqtail_PHASE a,
    rowAt 0x2011c 64 32 Fld.hifQCqtail_TAIL a]

/-- The fields of block SEC that lie at address `a`. -/
def fieldsIn_sec (a : Nat) : List Field :=
  List.filterMap id [
    rowAt 0xf0000 1 4 (fun _ => Fld.secStatus_UNOWNED) a,
    rowAt 0xf0000 1 4 (fun _ => Fld.secStatus_OWNERREVOKED) a,
    rowAt 0xf0000 1 4 (fun _ => Fld.secStatus_OWNERFUSED) a,
    rowAt 0xf0000 1 4 (fun _ => Fld.secStatus_DEBUGLOCKED) a,
    rowAt 0xf0004 1 4 (fun _ => Fld.secOikCtl_LOCK) a,
    rowAt 0xf0004 1 4 (fun _ => Fld.secOikCtl_VALID) a,
    rowAt 0xf0004 1 4 (fun _ => Fld.secOikCtl_SLOT) a,
    rowAt 0xf0008 1 4 (fun _ => Fld.secSvn_PROT) a,
    rowAt 0xf0008 1 4 (fun _ => Fld.secSvn_MAIN) a,
    rowAt 0xf0008 1 4 (fun _ => Fld.secSvn_MGT) a,
    rowAt 0xf000c 1 4 (fun _ => Fld.secBoot_PROTSLOT) a,
    rowAt 0xf000c 1 4 (fun _ => Fld.secBoot_MAINSLOT) a,
    rowAt 0xf000c 1 4 (fun _ => Fld.secBoot_MGTSLOT) a,
    rowAt 0xf0010 1 4 (fun _ => Fld.secErr_SIGFAIL) a,
    rowAt 0xf0010 1 4 (fun _ => Fld.secErr_FWFAIL) a,
    rowAt 0xf0014 1 4 (fun _ => Fld.secInten_EN) a,
    rowAt 0xf0018 1 4 (fun _ => Fld.secCntSigfail_COUNT) a,
    rowAt 0xf001c 1 4 (fun _ => Fld.secCntFwfail_COUNT) a,
    rowAt 0xf0040 16 4 Fld.secOik_KEY a,
    rowAt 0xf0080 8 4 Fld.secAimg_DIGEST a,
    rowAt 0xf0800 1 4 (fun _ => Fld.mgtStatus_CAPACTIVE) a,
    rowAt 0xf0800 1 4 (fun _ => Fld.mgtStatus_OFFLINE) a,
    rowAt 0xf0800 1 4 (fun _ => Fld.mgtStatus_STATE) a,
    rowAt 0xf0804 1 4 (fun _ => Fld.mgtCap_WATTS) a,
    rowAt 0xf0808 1 4 (fun _ => Fld.mgtCntLost_COUNT) a,
    rowAt 0xf080c 1 4 (fun _ => Fld.mgtH2m_SEND) a,
    rowAt 0xf080c 1 4 (fun _ => Fld.mgtH2m_BUSY) a,
    rowAt 0xf080c 1 4 (fun _ => Fld.mgtH2m_LEN) a,
    rowAt 0xf0810 1 4 (fun _ => Fld.mgtM2h_READY) a,
    rowAt 0xf0810 1 4 (fun _ => Fld.mgtM2h_LEN) a,
    rowAt 0xf0814 3 4 Fld.mgtVer_VERSION a,
    rowAt 0xf0900 64 4 Fld.mgtH2mBuf_DATA a,
    rowAt 0xf0a00 64 4 Fld.mgtM2hBuf_DATA a]

/-- The fields of block RPM that lie at address `a`. -/
def fieldsIn_rpm (a : Nat) : List Field :=
  List.filterMap id [
    rowAt 0xec000 1 4 (fun _ => Fld.rpmCfgCmd_COMMIT) a,
    rowAt 0xec000 1 4 (fun _ => Fld.rpmCfgCmd_RESULT) a,
    rowAt 0xec000 1 4 (fun _ => Fld.rpmCfgCmd_WAITING) a,
    rowAt 0xec004 1 4 (fun _ => Fld.rpmCfgClampmap_FIELD) a,
    rowAt 0xec008 1 4 (fun _ => Fld.rpmCfgCntClamp_COUNT) a,
    rowAt 0xec040 6 4 Fld.rpmCfgStage_VALUE a,
    rowAt 0xec058 2 4 Fld.rpmCfgStageM_VALUE a,
    rowAt 0xec080 8 4 Fld.rpmCfgCommit_VALUE a,
    rowAt 0xec0c0 8 4 Fld.rpmCfgForce_VALUE a,
    rowAt 0xe0000 1 4 (fun _ => Fld.rpmStatus_SPARES) a,
    rowAt 0xe0000 1 4 (fun _ => Fld.rpmStatus_SPAREF) a,
    rowAt 0xe0004 1 4 (fun _ => Fld.rpmErr_FATAL) a,
    rowAt 0xe0004 1 4 (fun _ => Fld.rpmErr_SKEWOVERRUN) a,
    rowAt 0xe0004 1 4 (fun _ => Fld.rpmErr_THROTTLE) a,
    rowAt 0xe0004 1 4 (fun _ => Fld.rpmErr_SPAREOUT) a,
    rowAt 0xe0004 1 4 (fun _ => Fld.rpmErr_SLICERETIRE) a,
    rowAt 0xe0004 1 4 (fun _ => Fld.rpmErr_FACETSWAP) a,
    rowAt 0xe0008 1 4 (fun _ => Fld.rpmInten_EN) a,
    rowAt 0xe000c 1 4 (fun _ => Fld.rpmMapgen_GEN) a,
    rowAt 0xe0010 1 4 (fun _ => Fld.rpmRepair_KIND) a,
    rowAt 0xe0010 1 4 (fun _ => Fld.rpmRepair_INDEX) a,
    rowAt 0xe0010 1 4 (fun _ => Fld.rpmRepair_PROGRESS) a,
    rowAt 0xe0014 1 4 (fun _ => Fld.rpmThrottle_Q0) a,
    rowAt 0xe0014 1 4 (fun _ => Fld.rpmThrottle_Q1) a,
    rowAt 0xe0014 1 4 (fun _ => Fld.rpmThrottle_Q2) a,
    rowAt 0xe0014 1 4 (fun _ => Fld.rpmThrottle_Q3) a,
    rowAt 0xe0018 1 4 (fun _ => Fld.rpmFatal_CAUSE) a,
    rowAt 0xe001c 1 4 (fun _ => Fld.rpmCntSwap_COUNT) a,
    rowAt 0xe0020 1 4 (fun _ => Fld.rpmCntPlanned_COUNT) a,
    rowAt 0xe0024 1 4 (fun _ => Fld.rpmCntSlice_COUNT) a,
    rowAt 0xe0028 1 4 (fun _ => Fld.rpmCntSkew_COUNT) a,
    rowAt 0xe002c 1 4 (fun _ => Fld.rpmCntThrot_COUNT) a,
    rowAt 0xe0030 1 4 (fun _ => Fld.rpmCntOverrun_COUNT) a,
    rowAt 0xe0034 1 4 (fun _ => Fld.rpmCntRecdrop_COUNT) a,
    rowAt 0xe0040 4 4 Fld.rpmQv_MV a,
    rowAt 0xe0050 4 4 Fld.rpmQt_TEMP a,
    rowAt 0xe0060 4 4 Fld.rpmQstr_STRETCH a,
    rowAt 0xe0100 48 4 Fld.rpmFmap_PFACET a,
    rowAt 0xe0200 192 4 Fld.rpmSmap_PSLICE a,
    rowAt 0xe0500 52 4 Fld.rpmFstate_WORN a,
    rowAt 0xe0500 52 4 Fld.rpmFstate_STATE a,
    rowAt 0xe0600 200 4 Fld.rpmSstate_WORN a,
    rowAt 0xe0600 200 4 Fld.rpmSstate_STATE a]

/-- The fields of block CAL that lie at address `a`. -/
def fieldsIn_cal (a : Nat) : List Field :=
  List.filterMap id [
    rowAt 0xd0000 1 4 (fun _ => Fld.calStatus_FARCH) a,
    rowAt 0xd0000 1 4 (fun _ => Fld.calStatus_FARPAUSE) a,
    rowAt 0xd0000 1 4 (fun _ => Fld.calStatus_SHADOW) a,
    rowAt 0xd0004 1 4 (fun _ => Fld.calErr_SHADOWMM) a,
    rowAt 0xd0004 1 4 (fun _ => Fld.calErr_RETRAINFAIL) a,
    rowAt 0xd0004 1 4 (fun _ => Fld.calErr_MARGINLOW) a,
    rowAt 0xd0008 1 4 (fun _ => Fld.calInten_EN) a,
    rowAt 0xd000c 1 4 (fun _ => Fld.calCntSingular_COUNT) a,
    rowAt 0xd0010 1 4 (fun _ => Fld.calCntUpdate_COUNT) a,
    rowAt 0xd0014 1 4 (fun _ => Fld.calCntShadow_COUNT) a,
    rowAt 0xd0018 1 4 (fun _ => Fld.calCntShadowmm_COUNT) a,
    rowAt 0xd001c 1 4 (fun _ => Fld.calCntAbandon_COUNT) a,
    rowAt 0xd0020 1 4 (fun _ => Fld.calCntRetrain_COUNT) a,
    rowAt 0xd0024 1 4 (fun _ => Fld.calShadowLast_TASKID) a,
    rowAt 0xd0024 1 4 (fun _ => Fld.calShadowLast_LFACET) a,
    rowAt 0xd0024 1 4 (fun _ => Fld.calShadowLast_MATCH) a,
    rowAt 0xd0100 40 4 Fld.calLane_CTLE a,
    rowAt 0xd0100 40 4 Fld.calLane_WIDTH a,
    rowAt 0xd0100 40 4 Fld.calLane_HEIGHT a,
    rowAt 0xd0200 16 4 Fld.calHlane_CTLE a,
    rowAt 0xd0200 16 4 Fld.calHlane_WIDTH a,
    rowAt 0xd0200 16 4 Fld.calHlane_HEIGHT a,
    rowAt 0xd0300 16 4 Fld.calFar_READ a,
    rowAt 0xd0300 16 4 Fld.calFar_WRITE a,
    rowAt 0xd0400 52 4 Fld.calCore_SLACK a]

/-- Every register field at BAR0 address `a`: none where no block defines a register there (R12). -/
def fieldsAt (a : Nat) : List Field :=
  if a < 0x1000000 then
    match a / 0x10000 with
    | 0 => fieldsIn_glb a
    | 1 => fieldsIn_fsq a
    | 2 => fieldsIn_hif a
    | 4 => fieldsIn_strq a
    | 5 => fieldsIn_prs a
    | 6 => fieldsIn_cpt a
    | 7 => fieldsIn_mrg a
    | 8 => fieldsIn_prd a
    | 9 => fieldsIn_upd a
    | 10 => fieldsIn_sts a
    | 11 => fieldsIn_far a
    | 12 => fieldsIn_chd a
    | 13 => fieldsIn_cal a
    | 14 => fieldsIn_rpm a
    | 15 => fieldsIn_sec a
    | _ => []
  else
    match (a % 0x100000) / 0x1000 with
    | 240 => fieldsIn_fct a
    | 241 => fieldsIn_lat a
    | 242 => fieldsIn_cmp a
    | 243 => fieldsIn_fmem a
    | 244 => fieldsIn_str a
    | _ => []

/-- The event counters outside the facet pages: base, number and spacing. -/
def counterRows : List (Nat × Nat × Nat) :=
  [(0x10038, 1, 4), (0x1003c, 1, 4), (0x10040, 1, 4), (0x10044, 1, 4), (0x7000c, 1, 4), (0x70010, 1, 4), (0x70014, 1, 4), (0x70018, 1, 4), (0x7001c, 1, 4), (0x70020, 1, 4)] ++
  [(0x80014, 1, 4), (0x80018, 1, 4), (0x8001c, 1, 4), (0x80020, 1, 4), (0x80024, 1, 4), (0x80028, 1, 4), (0xa000c, 1, 4), (0xa0010, 1, 4), (0xa0018, 1, 4), (0xa001c, 1, 4)] ++
  [(0xa0020, 4, 4), (0xa0030, 4, 4), (0x60018, 1, 4), (0x6001c, 1, 4), (0x60020, 1, 4), (0x60024, 1, 4), (0x60028, 1, 4), (0x6002c, 1, 4), (0x60030, 1, 4), (0x60038, 1, 4)] ++
  [(0xb000c, 1, 4), (0xb0010, 1, 4), (0xb0104, 16, 64), (0xb0108, 16, 64), (0xb0110, 16, 64), (0x40020, 4, 4), (0x50030, 4, 4), (0x50040, 1, 4), (0x50044, 1, 4), (0x50048, 1, 4)] ++
  [(0x90018, 1, 4), (0x9001c, 1, 4), (0x90020, 1, 4), (0x90024, 1, 4), (0x90028, 1, 4), (0x9002c, 1, 4), (0x90030, 4, 4), (0x90040, 1, 4), (0xc0028, 1, 4), (0xc002c, 1, 4)] ++
  [(0xc0030, 1, 4), (0xc0034, 1, 4), (0xc010c, 8, 64), (0xc0110, 8, 64), (0xc0114, 8, 64), (0xc0118, 8, 64), (0xc011c, 8, 64), (0xc0120, 8, 64), (0xc0124, 8, 64), (0x34, 1, 4)] ++
  [(0x20014, 1, 4), (0x20018, 1, 4), (0x2001c, 1, 4), (0x20020, 1, 4), (0x20028, 1, 4), (0xf0018, 1, 4), (0xf001c, 1, 4), (0xf0808, 1, 4), (0xec008, 1, 4), (0xd000c, 1, 4)] ++
  [(0xd0010, 1, 4), (0xd0014, 1, 4), (0xd0018, 1, 4), (0xd001c, 1, 4), (0xd0020, 1, 4), (0xe001c, 1, 4), (0xe0020, 1, 4), (0xe0024, 1, 4), (0xe0028, 1, 4), (0xe002c, 1, 4)] ++
  [(0xe0030, 1, 4), (0xe0034, 1, 4)]

/-- The event counters of a facet page, by their offsets in the facet window. -/
def facetCounters : List Nat :=
  [0xf0018, 0xf001c, 0xf0024, 0xf1004, 0xf1008, 0xf100c, 0xf1010, 0xf1014, 0xf1018, 0xf101c] ++
  [0xf2008, 0xf200c, 0xf2010, 0xf2014, 0xf2018, 0xf201c, 0xf2020, 0xf2024, 0xf2028, 0xf3010] ++
  [0xf3014, 0xf301c, 0xf3020, 0xf3024, 0xf3028, 0xf400c, 0xf4010, 0xf4014, 0xf4018, 0xf401c] ++
  [0xf4020, 0xf4024, 0xf4028, 0xf402c, 0xf4030, 0xf4034]

/-- Whether an event counter (R81) lies at an address. -/
def isCounter (a : Nat) : Bool :=
  if a < 0x1000000 then counterRows.any (fun r => decide (r.1 ≤ a) && decide (a < r.1 + r.2.1 * r.2.2) && decide ((a - r.1) % r.2.2 = 0))
  else facetCounters.contains (a % 0x100000)

end Sys2Proof.Machine
end

