-- ==== Sys2Proof/Machine/State.lean ====
section
/-! DEFINITION. The state of the part as plain data: everything the spec gives it that a command or an event reads or writes. Every register of the register tables lives in one sparse register file. -/

namespace Sys2Proof.Machine

/-- A finite map: keys strictly rising; an unlisted key reads as the default its reader names. -/
abbrev SMap (α : Type) := List (Nat × α)

/-- A byte memory: addresses strictly rising, no listed byte zero; an unlisted address reads as zero. -/
abbrev Mem := List Host.Cell

/-! ### Frame images (file 01, file 09) -/

/-- A task entry (Table 01-3), with the logical facet whose table holds it. -/
structure TaskEntry where
  lf : Nat
  id : Nat
  kind : Nat
  flags : Nat
  release : Nat
  wcl : Nat
  entry : Nat
  wdog : Nat
  slotFirst : Nat
  slotCount : Nat
  xwcl : Nat
  deriving DecidableEq, Repr

/-- A slot table entry (Table 01-4). -/
structure SlotEntry where
  slot : Nat
  cls : Nat
  flags : Nat
  maxIn : Nat
  maxOut : Nat
  deriving DecidableEq, Repr

/-- An allocation entry (Table 01-12). -/
structure AllocEntry where
  base : Nat
  len : Nat
  kind : Nat
  deriving DecidableEq, Repr

/-- A reserved window entry (Table 01-13). -/
structure WindowEntry where
  kind : Nat
  quad : Nat
  channels : Nat
  t0 : Nat
  t1 : Nat
  deriving DecidableEq, Repr

/-- A channel entry (Table 09-3). -/
structure ChanEntry where
  consumer : Nat
  index : Nat
  slots : Nat
  slotBytes : Nat
  fullSem : Nat
  emptySem : Nat
  prodTask : Nat
  consTask : Nat
  bankA : Nat
  bankB : Nat
  record : Nat
  deriving DecidableEq, Repr

/-- An entry of the stream interval table (Table 08-8). -/
structure DemandEntry where
  cls : Nat
  index : Nat
  t0 : Nat
  t1 : Nat
  amount : Nat
  deriving DecidableEq, Repr

/-- A frame image: its control part as bytes, and what the tables of the control part say. -/
structure Image where
  control : List Byte
  id : Nat
  level : Nat
  period : Nat
  imemOff : Nat
  tasks : List TaskEntry
  imemUsed : List Nat
  fmemUsed : List Nat
  slots : List SlotEntry
  allocs : List AllocEntry
  windows : List WindowEntry
  sems : List (Nat × Nat)
  chans : List ChanEntry
  waits : List (Nat × Nat)
  consumes : List (Nat × Nat)
  demand : List DemandEntry
  deriving DecidableEq, Repr

/-- A command fetched from a submission queue, or an express request: what its completion needs (Table 14-6). An express request has no entry. -/
structure HostCmd where
  qp : Nat
  gen : Nat
  cid : Nat
  sqHead : Nat
  entry : List Byte
  arrival : Nat
  deriving DecidableEq, Repr

/-! ### Frames (file 01) -/

/-- Where a task of the frame stands. -/
inductive TaskPhase where
  | waiting | running | ended
  deriving DecidableEq, Repr

/-- A task of the current frame with its record (Table 01-8). -/
structure TaskRec where
  entry : TaskEntry
  phase : TaskPhase
  status : Nat
  reason : Nat
  start : Nat
  stop : Nat
  deriving DecidableEq, Repr

/-- What the Frame Sequencer latched for a session slot: 0 active, 1 IDLE, 2 SKIPPED, 3 REJECTED, and the manifest entry (R39 to R41, R300). -/
structure SlotInfo where
  status : Nat
  entry : List Byte
  deriving DecidableEq, Repr

/-- A MANIFEST command whose entries are being or have been fetched for a frame (R39, R408). -/
structure Manifest where
  cmd : HostCmd
  frame : Nat
  count : Nat
  entries : List (List Byte)
  done : Bool
  short : Bool
  deriving DecidableEq, Repr

/-- An express request that waits or runs (R42, R409). -/
structure ExpressReq where
  cmd : HostCmd
  task : Nat
  slot : Nat
  entry : List Byte
  deriving DecidableEq, Repr

/-- One field of a commit that a clamp replaced (R443, R449). -/
structure Clamp where
  field : Nat
  kind : Nat
  requested : Nat
  applied : Nat
  deriving DecidableEq, Repr

/-- The Frame Sequencer's own state beside its registers. `lastTick`, `runAt` and `swapAt` are cycles of `now`; `cutoff` is the manifest cut-off that the frame under way had (R39); `edgeAt` is where a TICK field has placed the next TICK_IN edge (R387); `expRuns` and `expAborted` are the slots that express tasks served or served in vain in this frame (R47). -/
structure Sequencer where
  active : Option Image
  pendingImg : Option Image
  loading : Option HostCmd
  fetchedImg : List Byte
  inFrame : Bool
  lastTick : Nat
  runAt : Nat
  firstTick : Bool
  stopReq : Bool
  src : Nat
  srcChanged : Bool
  madeTicks : Nat
  cutoff : Option Nat
  tasks : List TaskRec
  slots : SMap SlotInfo
  manifests : List Manifest
  skips : List (Nat × Nat)
  express : List ExpressReq
  synth : Bool
  swapped : Bool
  repairFlag : Bool
  clampRecs : List Clamp
  errRecs : List (List Byte)
  pmIn : Nat
  pmOut : Nat
  pmFail : Nat
  pmCycles : Nat
  hardDone : Bool
  reported : Bool
  winOpen : List Nat
  tickTime : Nat
  ran : Bool
  swapAt : Nat
  edgeAt : Option Nat
  expRuns : SMap (List Byte)
  expAborted : List Nat
  deriving DecidableEq, Repr

/-! ### Facets (files 02, 04, 10, 11) -/

/-- Vector operations (R332). -/
inductive VOp where
  | add | max | fma | exp | rsq | sig | red | cvt
  deriving DecidableEq, Repr

/-- An engine command with the register values it took at issue (R314). -/
inductive EOp where
  | tdmk (fromSts : Bool) (addr : Word) (handle : Nat)
  | tdrl (handle : Nat)
  | strm (o : StrmArgs) (addr rate target : Word)
  | stq (handle : Nat) (wait qeng walk : Bool)
  | lload (n kp fmt : Nat) (hi : Bool)
  | lpass (m base : Word) (accum : Bool) (afmt np : Nat)
  | lsplit
  | cmode (gmax : Nat)
  | drain (addr row scale : Word) (rows conv : Nat)
  | fill (addr row : Word) (rows conv : Nat)
  | vec (op : VOp) (v : VecArgs) (dv av bv : Word)
  | mgpush (last : Bool) (addr count : Word) (job : Nat)
  | mgopen (addr : Word)
  | mgwait (job : Nat)
  | query (addr : Word)
  | prefetch (addr : Word)
  | upsign (addr : Word)
  | upvote (addr : Word)
  | badForm
  deriving DecidableEq, Repr

/-- A command in a queue of a context, waiting or started (R293, R316). `d` and `b` are its result registers, 0 for none. `storesAt` is the cycle by which the stores issued before it are performed (R280), `image` what it read at its start, `todo` the records it has still to push, `result` and `result2` what it will write. -/
structure ECmd where
  seq : Nat
  queue : EQueue
  op : EOp
  after : Nat
  d : Reg
  b : Reg
  issued : Nat
  storesAt : Nat
  started : Option Nat
  doneAt : Nat
  image : List Byte
  todo : List (List Byte)
  result : Word
  result2 : Word
  ready : Bool
  deriving DecidableEq, Repr

/-- A fill or copy of facet memory under way (R172, R173): where it writes how many bytes, the bytes themselves, taken when it began, and where a copy took them from. A copy of the host's waits for waking banks with nothing taken yet (R181); writes at banks in `lost` were dropped when their gating was forced (R179). -/
structure MemOp where
  doneAt : Nat
  dst : Nat
  src : Option Nat
  len : Nat
  bytes : List Byte
  lost : List Nat
  deriving DecidableEq, Repr

/-- What a context waits for (R298, R303, R308). -/
inductive Wait where
  | none
  | tcyc (target : Word)
  | memOp (m : MemOp)
  | sem (d : Reg)
  | push (d : Reg) (chan : Nat)
  | acquire (d b : Reg) (chan : Nat)
  | counter (d : Reg) (ctr : Nat) (target : Word)
  | fence
  | tend
  deriving DecidableEq, Repr

/-- A post whose fence is not complete yet (R259): the commands issued before it have numbers below `seq`, the stores before it are performed by `storeAt`. -/
structure PendingPost where
  sem : Nat
  n : Nat
  seq : Nat
  storeAt : Nat
  deriving DecidableEq, Repr

/-- An LD.W or ST.W that a context has issued: its address, and the cycle by which it is performed (R303, R524). -/
structure Narrow where
  isWrite : Bool
  addr : Nat
  doneAt : Nat
  deriving DecidableEq, Repr

/-- One context of a scalar core (R54, R287). Times are cycles of `now`; `start` is the TCYC of release. -/
structure Ctx where
  task : Option Nat
  pc : Nat
  regs : SMap Word
  ready : SMap Nat
  free : Nat
  wait : Wait
  slotSel : Nat
  gmax : Nat
  start : Nat
  startNow : Nat
  wdog : Nat
  cmds : List ECmd
  posts : List PendingPost
  lloaded : Bool
  lsplit : Bool
  storeAt : Nat
  narrow : List Narrow
  express : Option ExpressReq
  mergeJobs : List Nat
  deriving DecidableEq, Repr

/-- A tile at the staging input (R115): the transfer of the facet's stream engine that brings it, its stream's handle, its header, and the length it moves (R93). -/
structure TileIn where
  id : Nat
  handle : Nat
  head : List Byte
  len : Nat
  deriving DecidableEq, Repr

/-- A group of a span: its first tile, its gather factor and its passes (R107). -/
structure TileGroup where
  first : Nat
  g : Nat
  passes : Nat
  deriving DecidableEq, Repr

/-- A span that an LLOAD names (R106, R107): `seq` is that command. The passes still to load stand in `todo` as (group, pass) pairs; `cur` is the pair last loaded, and `seen` the groups loaded or skipped so far. -/
structure Span where
  seq : Nat
  n : Nat
  kp : Nat
  fmt : Nat
  hi : Bool
  tiles : List TileIn
  groups : List TileGroup
  todo : List (Nat × Nat)
  passes : Nat
  chosen : Bool
  kzero : Bool
  fresh : Bool
  cur : Nat × Nat
  seen : Nat
  deriving DecidableEq, Repr

/-- A staging bank that a group of a span holds (R119): `left` are the transfers of its tiles that are not staged yet. -/
structure BankUse where
  seq : Nat
  group : Nat
  bank : Nat
  left : List Nat
  deriving DecidableEq, Repr

/-- Bytes that a stream has delivered into an operand buffer and its consumer has not taken (R241): `place` is a staging bank, or 2 for the west ring. -/
structure Due where
  handle : Nat
  place : Nat
  bytes : Nat
  deriving DecidableEq, Repr

/-- An LPASS that is injecting rows: `pass` passes are over, `row` rows of the current one have entered (R61, R523). -/
structure LRun where
  seq : Nat
  m : Nat
  base : Nat
  np : Nat
  afmt : Nat
  accum : Bool
  pass : Nat
  passes : Nat
  row : Nat
  n : Nat
  reuse : Bool
  deriving DecidableEq, Repr

/-- The Lattice, Compactor and west ring of a facet, or of one half in split mode. `span` is the span last loaded, `ahead` the spans chosen for LLOADs still in the queue; `bank` is the bank that the next group takes, free from cycle `free0` or `free1` on (R119). A cell is its stationary byte plus 256 times its selector. `rd` and `fill` are the read position and fill level of the west ring, `discard` the bytes to release unread (R523), `due` what its buffers hold of each stream. `rowAt` gives the cycle from which on the accesses of passes to an accumulator row are over (R72), `ends` the cycles at which passes complete; a load occupies the row inputs before cycle `loadUntil`, anything before `busyUntil` (R58, R61). -/
structure Lat where
  tilesIn : List TileIn
  span : Option Span
  ahead : List Span
  banks : List BankUse
  cells : SMap Nat
  cellFmt : Nat
  run : Option LRun
  bank : Nat
  free0 : Nat
  free1 : Nat
  rd : Nat
  fill : Nat
  discard : Nat
  due : List Due
  rowAt : SMap Nat
  ends : List Nat
  loadUntil : Nat
  busyUntil : Nat
  deriving DecidableEq, Repr

/-- A logical facet as its tasks see it. Operand buffer bytes and accumulator words that are not listed hold free values of the half's epoch (R55, R56). -/
structure Facet where
  ctxA : Ctx
  ctxB : Ctx
  latA : Lat
  latB : Lat
  split : Bool
  acc : SMap Word
  wab : SMap Byte
  stg : SMap Byte
  epochA : Nat
  epochB : Nat
  tds : SMap (List Byte)
  seq : Nat
  deriving DecidableEq, Repr

/-! ### Streams (file 08) -/

/-- A block-list entry with the descriptors taken at its fetch (R234). `left` counts its deliveries, `piece` the owner pieces already started. -/
structure BEntry where
  addr : Nat
  raw : List Byte
  src : Option (List Byte)
  dst : Option (List Byte)
  left : Nat
  piece : Nat
  clipped : Bool
  inAlloc : Bool
  deriving DecidableEq, Repr

/-- A neuron list attached to a stream (R239). -/
structure ListRef where
  addr : Nat
  ctr : Nat
  target : Word
  deriving DecidableEq, Repr

/-- A stream on a handle of an engine (R232, R233). `next` is the address of the next entry to fetch; `groups` the N and active groups of its neuron list once read; `fed` the (chip, job) pairs whose end it owes (R385); `moved` counts the bytes delivered, `movedAt` the cycle of the first delivery (R241); `burstAt` the cycle at which the burst now due was asked for (R234). -/
structure Stream where
  lf : Nat
  ctx : Nat
  task : Nat
  state : Nat
  done : Nat
  rate : Nat
  next : Nat
  entries : List BEntry
  ended : Bool
  compress : Bool
  list : Option ListRef
  groups : Option (Nat × List Nat)
  lastWalk : Nat
  fed : List (Nat × Nat)
  endedAt : Nat
  moved : Nat
  movedAt : Option Nat
  burstAt : Nat
  deriving DecidableEq, Repr

/-- Where a transfer puts its bytes. -/
inductive Dest where
  | fmem (lf : Nat)
  | sts
  | pages
  | wab
  | stage
  | tile
  | remote
  deriving DecidableEq, Repr

/-- Where a transfer stands: a block moves whole; a stored tile moves its header first, is parked at the staging input until its group is wanted there, and moves its values then, or is over without them (R93, R112, R115). -/
inductive Phase where
  | whole | header | parked | wanted | values | over
  deriving DecidableEq, Repr

/-- A transfer in flight (R237), with the entry it delivers: `off` is its first element within the block, `data` the bytes it delivers, `writes` where they go; `phase` is where a stored tile stands, `lim` the bytes its entry lets it move, and `pieces` the owner pieces that it stands for (R245). `tags` are the remote reads it waits for, with `late` while its bytes are not complete; `packets` are its packets still to leave; `recs` the records it has still to enter in `merge`; it is performed at `doneAt` at the earliest (R50, R185). -/
structure Transfer where
  id : Nat
  handle : Nat
  lf : Nat
  ctx : Nat
  task : Nat
  ent : BEntry
  off : Nat
  data : List Byte
  writes : List (Nat × Byte)
  dest : Dest
  phase : Phase
  lim : Nat
  pieces : Nat
  arr : Option Nat
  formats : List (Nat × Nat)
  tags : List Nat
  late : Bool
  packets : Nat
  quad : Option Nat
  units : Nat
  sparse : Option Bool
  walkDrop : Nat
  notify : Option Nat
  merge : Option Nat
  recs : List (List Byte)
  doneAt : Nat
  deriving DecidableEq, Repr

/-- A stream engine: facet engines 0 to 47 by logical facet, quadrant engines 48 to 51. `lastBulk` is the handle of the bulk stream served last (R241). -/
structure Engine where
  streams : SMap Stream
  transfers : List Transfer
  nextId : Nat
  lastBulk : Nat
  deriving DecidableEq, Repr

/-! ### Semaphores and channels (file 09) -/

/-- What a semaphore operation is for. -/
inductive SemOp where
  | wait | tryTake | push | acquire | post
  deriving DecidableEq, Repr

/-- A semaphore operation on its way, or a waiter (R258 to R262). `arrive` is the cycle of arrival at the quadrant. -/
structure SemMsg where
  sem : Nat
  op : SemOp
  n : Nat
  lf : Nat
  ctx : Nat
  task : Nat
  arrive : Nat
  deriving DecidableEq, Repr

/-- A semaphore (R257). -/
structure Sem where
  count : Nat
  waiters : List SemMsg
  deriving DecidableEq, Repr

/-- A grant on its way back to its waiter (R262). -/
structure Grant where
  lf : Nat
  ctx : Nat
  task : Nat
  op : SemOp
  sem : Nat
  left : Nat
  took : Bool
  arrive : Nat
  deriving DecidableEq, Repr

/-- A reservation of a channel: its number, the bytes counted in its slot, the length a commit gave it, and the cycle of the last of these (R265 to R268). -/
structure Reservation where
  n : Nat
  fill : Nat
  len : Option Nat
  lastAt : Nat
  deriving DecidableEq, Repr

/-- A commit or rewind on its way to its channel (R268, R269). -/
structure CommitMsg where
  rewind : Bool
  len : Nat
  arrive : Nat
  deriving DecidableEq, Repr

/-- Accesses in flight that something waits for (R524): engine commands as (context number, sequence number) pairs with context number 2 × facet + context, transfers as (engine, number) pairs, and the cycle by which loads and stores are performed. -/
structure Flight where
  cmds : List (Nat × Nat)
  transfers : List (Nat × Nat)
  storeAt : Nat
  deriving DecidableEq, Repr

/-- A delayed post of `n` on EMPTY, or a restoring of EMPTY, with the accesses it waits for (R524). -/
structure Deferred where
  n : Nat
  restore : Bool
  flight : Flight
  deriving DecidableEq, Repr

/-- A channel at run time, beside its entry in the active image (R264 to R276). -/
structure Chan where
  next : Nat
  res : List Reservation
  visible : List (Nat × Nat)
  acquired : List (Nat × Nat)
  pushed : Nat
  committed : Nat
  nacquired : Nat
  released : Nat
  flushes : Nat
  rewinds : Nat
  void : Nat
  sink : Bool
  lastLen : Nat
  commits : List CommitMsg
  deferred : List Deferred
  prodEnded : Bool
  prodHold : Option Flight
  dirty : Bool
  deriving DecidableEq, Repr

/-- An event of a channel in a cycle, beside a flush, with what its delayed post waits for (R268 to R271, R273, R276). -/
inductive ChanEvent where
  | reserve | visible | acquire | voidRest
  | commit (len : Nat)
  | rewind (flight : Flight)
  | release (flight : Flight)
  deriving DecidableEq, Repr

/-! ### Merge tree, Predictor, Update units (files 05, 12) -/

/-- A record in the Merge tree: its reduced key, the cycle in which it reaches the place where it stands, and its bytes with that key (R133, R135). -/
structure MergeRec where
  key : Nat
  at_ : Nat
  bytes : List Byte
  deriving DecidableEq, Repr

/-- A producer leaf of a job (R130, R131, R134). -/
structure Leaf where
  ended : Bool
  lastKey : Option Nat
  recs : List MergeRec
  deriving DecidableEq, Repr

/-- The running result of a key in the combiner (R136). -/
structure Running where
  key : Nat
  count : Nat
  m : Word
  l : Word
  xs : List Word
  deriving DecidableEq, Repr

/-- A Merge job (R129, R142 to R145). Node 1 is the root of the tree, the inputs of node i are nodes 2i and 2i + 1, and leaf l stands in the place of node 64 + l. `nodes` holds what each node has emitted and its parent, or the combiner, has not taken; `foldAt` the cycle in which the last fold completes; `out` the results of keys that are over with the cycles from which they are written; `fed` the jobs that its results feed (R384). -/
structure Job where
  lf : Nat
  ctx : Nat
  task : Nat
  desc : List Byte
  td : List Byte
  closing : Bool
  complete : Bool
  orphan : Bool
  aborted : Bool
  leaves : SMap Leaf
  nodes : SMap (List MergeRec)
  running : Option Running
  foldAt : Nat
  out : List (Nat × Running)
  fed : List (Nat × Nat)
  written : Nat
  dropped : Nat
  offset : Nat
  deriving DecidableEq, Repr

/-- A record that a result write has for a job of this chip, or the end of its leaf there, in its turn to enter (R384, R385). -/
structure LeafItem where
  leaf : Nat
  job : Nat
  record : Option (List Byte)
  aborted : Bool
  deriving DecidableEq, Repr

/-- One half of the Predictor's weight buffer (R148): the header, the A part and the B part of its set as they stood when it was loaded. -/
structure PredHalf where
  valid : Bool
  addr : Nat
  lastUse : Nat
  data : List Byte
  deriving DecidableEq, Repr

/-- A query in the Predictor's queue (R154, R336). -/
structure PredQuery where
  lf : Nat
  ctx : Nat
  task : Nat
  seq : Nat
  block : List Byte
  deriving DecidableEq, Repr

/-- What the Predictor runs: the load of a weight set since a cycle, or the query that stands first (R148, R154). -/
inductive PredRun where
  | load (addr since : Nat)
  | query
  deriving DecidableEq, Repr

/-- The Predictor: its buffer halves, its queue, the sets that PREFETCH asked for, what it runs. -/
structure Predictor where
  half0 : PredHalf
  half1 : PredHalf
  queue : List PredQuery
  prefetches : List Nat
  useCount : Nat
  running : Option PredRun
  deriving DecidableEq, Repr

/-- A command in an Update unit's queue (R337). -/
structure UpdateReq where
  lf : Nat
  ctx : Nat
  seq : Nat
  deriving DecidableEq, Repr

/-! ### Context paging and far memory (file 07) -/

/-- A near-frame table entry: an owned near frame (R202). -/
structure NearEntry where
  vpn : Nat
  home : Option Nat
  dirty : Bool
  deriving DecidableEq, Repr

/-- A migration entry: its bytes, its status once it has one, whether it runs, and the cycle by which its transfer ends (R211 to R215). -/
structure MigEntry where
  raw : List Byte
  status : Option Nat
  running : Bool
  doneAt : Nat
  deriving DecidableEq, Repr

/-- A MIGRATE command (R211, R213). -/
structure MigCmd where
  cmd : HostCmd
  target : Nat
  addr : Nat
  entries : List MigEntry
  deriving DecidableEq, Repr

/-- Context paging unit state beside its registers: `chanFree` holds the cycle by which the page mover's work on each channel ends (R194, R213, R218), `pausedAt` the channels that were paused when a page-mover window that claims them last closed in the frame (Table 07-6), `badWords` the 8-byte words of the State Store with an uncorrectable error that nothing has overwritten (R215). -/
structure Paging where
  near : SMap NearEntry
  cache : SMap (List Nat)
  migrations : List MigCmd
  retired : List (Nat × Nat)
  retireDue : List (Nat × Nat)
  retiredNow : Nat
  poolUsed : List Nat
  badBlocks : List Nat
  frameCe : SMap Nat
  busySince : Nat
  chanFree : SMap Nat
  pausedAt : List Nat
  badWords : List Nat
  deriving DecidableEq, Repr

/-! ### Prism and owner tables (files 08, 13) -/

/-- A permutation load that is computing (R249). -/
structure PermLoad where
  quad : Nat
  index : Nat
  lanes : List Nat
  startAt : Nat
  deriving DecidableEq, Repr

/-! ### Chord (file 13) -/

/-- A packet in a transmit queue: its bytes, its virtual channel, when it was queued, and the transfer it belongs to. -/
structure TxPacket where
  bytes : List Byte
  vc : Nat
  since : Nat
  forwarded : Bool
  mcast : Option Nat
  engine : Nat
  transfer : Nat
  task : Nat
  lf : Nat
  ctx : Nat
  deriving DecidableEq, Repr

/-- A flit in the replay buffer: its sequence number, its bytes and how often it was sent (R363, R364). -/
structure ReplayFlit where
  seq : Nat
  bytes : List Byte
  sends : Nat
  deriving DecidableEq, Repr

/-- A Chord port beside its registers (R356 to R371). Credits and owed credits are for VC 0, 1, 2. `idle` are credits carried by IDLE flits that may still be refused, as (last sequence number before it, VC, units); `swap` is the receive lane being replaced and since when; `exchanged` are the VCs whose credits have come. -/
structure Port where
  since : Nat
  failedAt : Option Nat
  txSeq : Nat
  replay : List ReplayFlit
  ackAt : Nat
  rxLast : Nat
  rxAny : Bool
  nak : Bool
  txq : List TxPacket
  credits : List Nat
  owed : List Nat
  owedTurn : Nat
  rxUnits : List Byte
  rxPackets : List (List Byte)
  txLanes : Nat
  swap : Option (Nat × Nat)
  probe : Option Nat
  exchanged : List Nat
  idle : List (Nat × Nat × Nat)
  deriving DecidableEq, Repr

/-- A READ that waits for its RESP (R376, R377). It has its `tag` and `sentAt` from when it is sent. -/
structure RemoteRead where
  tag : Nat
  port : Nat
  sentAt : Nat
  sent : Bool
  lf : Nat
  ctx : Nat
  task : Nat
  engine : Nat
  transfer : Nat
  index : Nat
  len : Nat
  deriving DecidableEq, Repr

/-! ### Host interface (file 14) -/

/-- A queue pair beside its registers (R400 to R412). `gen` names the run of the pair between two enables; a command of an earlier run completes without an entry. -/
structure Qp where
  sqTail : Nat
  cqHead : Nat
  gen : Nat
  reserved : Nat
  arrivals : List (Nat × Nat)
  fetched : List HostCmd
  live : Nat
  deriving DecidableEq, Repr

/-- A completion that waits for Bus Master Enable (R396). -/
structure HeldCompletion where
  cmd : HostCmd
  status : Nat
  result : Nat
  info : Nat
  deriving DecidableEq, Repr

/-- Host interface state beside its registers. `msix` holds the words of the MSI-X table and, from 0x1000, of the PBA. `heldWrites` wait for Bus Master Enable, `expressIn` holds express requests on their way, each with its cycle of arrival and queue pair. -/
structure HostIf where
  qps : SMap Qp
  bme : Bool
  d3hot : Bool
  msix : SMap Nat
  heldCpl : List HeldCompletion
  heldWrites : List (Nat × List Byte)
  expressIn : List (Nat × Nat × List Byte)
  ptmFails : Nat
  ptmBase : Int
  msixAt : Option Nat
  deriving DecidableEq, Repr

/-! ### Management and security (file 15) -/

/-- A firmware update in progress (R436). -/
structure Update where
  agent : Binding
  verified : List Nat
  deriving DecidableEq, Repr

/-- Management controller and root of trust beside their registers. Slots are 0 for A and 1 for B. -/
structure Mgmt where
  eidSide : Nat
  eidPcie : Nat
  i3c : Bool
  addr : Nat
  dynAddr : Option Nat
  log : List (List Byte)
  logCount : Nat
  h2mLen : Nat
  ownerHash : SMap (List Byte)
  vendorRevoked : Nat
  storedKey : Option (List Byte)
  storedUnowned : Bool
  active1 : Nat
  active2 : Nat
  active3 : Nat
  update : Option Update
  bootTried : Nat
  bootAt : Nat
  switchFrom : Option Nat
  switchAt : Option Nat
  flashLog : List (List Byte)
  mainDigest : List Byte
  protDigest : List Byte
  mgtDigest : List Byte
  nonce : Nat
  deriving DecidableEq, Repr

/-! ### Faults, repair and calibration (file 17) -/

/-- A facet swap, unplanned or planned (R459, R463); a planned one is ready once its map may change. -/
structure FacetSwap where
  lf : Nat
  source : Nat
  target : Nat
  startAt : Nat
  ready : Bool
  deriving DecidableEq, Repr

/-- A slice retirement (R465). -/
structure SliceCopy where
  logical : Nat
  source : Nat
  target : Nat
  copied : Bool
  poisoned : Nat
  deriving DecidableEq, Repr

/-- A far retraining (R467, R468). -/
structure Retrain where
  channel : Nat
  urgent : Bool
  startAt : Nat
  deriving DecidableEq, Repr

/-- Shadow checking of one quadrant (R474 to R481). -/
structure Shadow where
  running : Option (Nat × Nat)
  last : Nat
  repeatTask : Option Nat
  misses : Nat
  missFacet : Nat
  suspect : Option Nat
  doneFrame : Bool
  deriving DecidableEq, Repr

/-- Throttling of one quadrant: the skew, thermal and power levels with their counts of samples within limits, and the start of an excursion (R483 to R485, R511). -/
structure Throttle where
  skew : Nat
  thermal : Nat
  power : Nat
  skewOk : Nat
  thermalOk : Nat
  since : Option Nat
  quantity : Nat
  held : Bool
  ran : Nat
  deriving DecidableEq, Repr

/-- Repair and power manager state beside its registers. -/
structure Repair where
  swaps : List FacetSwap
  pendingSwaps : List FacetSwap
  slices : List SliceCopy
  retrain : Option Retrain
  due : List (Nat × Nat)
  failsInRow : SMap Nat
  shadow : SMap Shadow
  throttle : SMap Throttle
  ueFacet : SMap Nat
  ueSlice : SMap Nat
  ceFacet : SMap Nat
  ceSlice : SMap Nat
  slackLow : SMap Nat
  eyeLow : SMap Nat
  outSlices : List Nat
  spineThermal : Nat
  spineOk : Nat
  capRan : Nat
  deferredFacets : List Nat
  deriving DecidableEq, Repr

/-! ### Power and reset (file 18) -/

/-- What the main domain is doing. `held` is a reset that cannot end, since its firmware was refused: the main power-on reset where the argument is true, else a main reset (R430). -/
inductive MainPhase where
  | off | powerOn | mainReset | held (first : Bool) | selfTest | running
  deriving DecidableEq, Repr

/-- Pins, rails and resets. `enabled` and `good` are bit masks of the four sequence groups. `riseAt` is the cycle in which the next group is to be enabled, `dropStep` the time between the groups that the manager takes down by itself, `hifAt` the first cycle in which the host interface may leave reset; `corePoints` holds the set points of the core rails in mV, 750 where none is listed (R491, R493, R495, R501). -/
structure Power where
  stbyOk : Bool
  mgmtUp : Bool
  enabled : Nat
  good : Nat
  stepAt : Nat
  goingDown : Bool
  riseAt : Option Nat
  dropStep : Option Nat
  hifAt : Nat
  stopReq : Option Nat
  phase : MainPhase
  perstHigh : Bool
  perstReset : Bool
  offlineReset : Bool
  hifReset : Bool
  funcReset : Option Nat
  thermtrip : Bool
  fatal : Bool
  bootedMain : Bool
  currents : SMap Nat
  corePoints : SMap Nat
  zeroAt : Nat
  deriving DecidableEq, Repr

/-! ### What the part sends -/

/-- What the part sends to the outside. -/
inductive Msg where
  | msix (vector : Nat)
  | tickOut
  | readData (data : List Byte)
  | limmund (binding : Binding) (status : Nat) (body : List Byte)
  | mctp (binding : Binding) (body : List Byte)
  | spdm (body : List Byte)
  | flit (port : Nat) (bytes : List Byte)
  | control (port kind arg : Nat)
  | unavailable (binding : Binding) (sensor : Nat)
  | sensor (binding : Binding) (id : Nat) (reading : Int)
  | margin (lane : Nat) (errors : Nat)
  deriving DecidableEq, Repr

/-- A message with the cycle at which it was sent. -/
structure Out where
  time : Nat
  msg : Msg
  deriving DecidableEq, Repr

/-- What happened in one cycle, where the outcome for a cycle does not depend on the order of its events: W1C flags that the hardware set (R16), shared fields that each master wrote, as (field, bits) pairs, and the gating that the host's writes found (R424), what the staged fields held before the cycle's writes, and what the committed fields and clamp records were before its commit (R445, R447), the bytes of facet memories that wide writes have reached (R162), what arrival counters have received (R176), and the events of channels, with what each channel was before them (R273). -/
structure Cycle where
  number : Nat
  flags : List (Nat × Nat)
  manager : List (Nat × Nat)
  host : List (Nat × Nat)
  gating : List (Nat × (Bool × Option Nat × Option Nat))
  staged : List (Nat × Nat)
  commit : Option (List Nat × List Clamp)
  wide : List Nat
  arrivals : List (Nat × Nat)
  chans : List (Nat × Chan × List ChanEvent)
  deriving DecidableEq, Repr

/-- The state of the part.
`now` counts nominal core cycles from the standby power-on reset; `free` is the model's own counter of the free values drawn so far. `links` holds, for each ordered pair of quadrants q and r under 4q + r, the cycle by which the data accepted in their crossing queue has crossed (R277). `masks` lists the physical facets whose memory holds unspecified values (R165), each with the draw that names them: a byte of such a facet is what `fmem` holds, exclusive-or the free byte of that draw. -/
structure State where
  pending : List Instr
  now : Nat
  free : Nat
  regs : SMap Nat
  fmem : Mem
  imem : Mem
  sts : Mem
  far : Mem
  host : Mem
  flash : Mem
  seq : Sequencer
  facets : SMap Facet
  engines : SMap Engine
  sems : SMap Sem
  links : SMap Nat
  semMsgs : List SemMsg
  grants : List Grant
  chans : SMap Chan
  jobs : SMap Job
  portMerge : SMap (List (List Byte))
  leafItems : List LeafItem
  earlyEnds : List (Nat × Nat)
  predictor : Predictor
  updates : SMap (List UpdateReq)
  paging : Paging
  perms : SMap (List Nat)
  permLoad : Option PermLoad
  owners : SMap (List Byte)
  ownerLoad : Option (Nat × List Byte)
  ports : SMap Port
  reads : SMap RemoteRead
  hif : HostIf
  mgmt : Mgmt
  clamps : List Clamp
  cyc : Cycle
  memOps : SMap MemOp
  gates : SMap Nat
  wakes : SMap Nat
  masks : SMap Nat
  repair : Repair
  power : Power
  outs : List Out
  deriving DecidableEq, Repr

/-! ### Outcomes other than a next state -/

/-- The part has no fault of its own: where the spec finds an error it gives the next state (an aborted task, a set flag, a discarded access), so no command ends in one, and this type is empty. Safe: nothing is cut short. -/
inductive Fault : Type where
  deriving DecidableEq, Repr

/-- Why a command is refused. -/
inductive Refusal where
  /-- Raised by an arm of `exec` whose command has no meaning yet. Safe. -/
  | notModelled (mnemonic : String)
  deriving DecidableEq, Repr

/-! ### Reset -/

/-- A context that runs no task. -/
def Ctx.idle : Ctx :=
  { task := none, pc := 0, regs := [], ready := [], free := 0, wait := .none, slotSel := 0, gmax := 8, start := 0, startNow := 0
    wdog := 0, cmds := [], posts := [], lloaded := false, lsplit := false, storeAt := 0, narrow := [], express := none, mergeJobs := [] }

/-- A Lattice that has loaded nothing. The spec names no bank for a task's first group: the model takes bank 0. DESIGN CHOICE (log entry 27). -/
def Lat.empty : Lat :=
  { tilesIn := [], span := none, ahead := [], banks := [], cells := [], cellFmt := 0, run := none, bank := 0, free0 := 0, free1 := 0
    rd := 0, fill := 0, discard := 0, due := [], rowAt := [], ends := [], loadUntil := 0, busyUntil := 0 }

/-- A facet that runs no task. -/
def Facet.idle : Facet :=
  { ctxA := .idle, ctxB := .idle, latA := .empty, latB := .empty, split := false, acc := [], wab := [], stg := []
    epochA := 0, epochB := 0, tds := [], seq := 0 }

/-- A cycle in which nothing has happened yet. -/
def Cycle.fresh (n : Nat) : Cycle := { number := n, flags := [], manager := [], host := [], gating := [], staged := [], commit := none, wide := [], arrivals := [], chans := [] }

/-- An engine with no stream. -/
def Engine.idle : Engine := { streams := [], transfers := [], nextId := 0, lastBulk := 15 }

/-- A semaphore that no image declares. -/
def Sem.zero : Sem := { count := 0, waiters := [] }

/-- A channel at a tick (R264). -/
def Chan.fresh : Chan :=
  { next := 0, res := [], visible := [], acquired := [], pushed := 0, committed := 0, nacquired := 0, released := 0, flushes := 0
    rewinds := 0, void := 0, sink := false, lastLen := 0, commits := [], deferred := [], prodEnded := false, prodHold := none
    dirty := true }

/-- A leaf that has received nothing. -/
def Leaf.empty : Leaf := { ended := false, lastKey := none, recs := [] }

/-- A port that is DOWN: four data lanes, the credits of Table 13-5. -/
def Port.down : Port :=
  { since := 0, failedAt := none, txSeq := 0, replay := [], ackAt := 0, rxLast := 4095, rxAny := false, nak := false, txq := []
    credits := [0, 0, 0], owed := [0, 0, 0], owedTurn := 0, rxUnits := [], rxPackets := [], txLanes := 15, swap := none
    probe := none, exchanged := [], idle := [] }

/-- A queue pair that was never enabled. -/
def Qp.off : Qp := { sqTail := 0, cqHead := 0, gen := 0, reserved := 0, arrivals := [], fetched := [], live := 0 }

/-- A half of the weight buffer that holds no set. -/
def PredHalf.empty : PredHalf := { valid := false, addr := 0, lastUse := 0, data := [] }

/-- Shadow checking of a quadrant that has checked nothing. -/
def Shadow.fresh : Shadow :=
  { running := none, last := 0, repeatTask := none, misses := 0, missFacet := 0, suspect := none, doneFrame := false }

/-- A quadrant without a throttle. -/
def Throttle.none : Throttle :=
  { skew := 0, thermal := 0, power := 0, skewOk := 0, thermalOk := 0, since := Option.none, quantity := 0, held := false, ran := 0 }

/-- The Frame Sequencer after a reset: no image, no frame (R37). -/
def Sequencer.reset : Sequencer :=
  { active := none, pendingImg := none, loading := none, fetchedImg := [], inFrame := false, lastTick := 0, runAt := 0, firstTick := false
    stopReq := false, src := 0, srcChanged := false, madeTicks := 0, cutoff := none, tasks := [], slots := [], manifests := []
    skips := [], express := [], synth := false, swapped := false, repairFlag := false, clampRecs := [], errRecs := [], pmIn := 0
    pmOut := 0, pmFail := 0, pmCycles := 0, hardDone := false, reported := false, winOpen := [], tickTime := 0
    ran := false, swapAt := 0, edgeAt := none, expRuns := [], expAborted := [] }

/-- The Predictor after a reset or a tick. -/
def Predictor.reset : Predictor :=
  { half0 := .empty, half1 := .empty, queue := [], prefetches := [], useCount := 0, running := none }

/-- Context paging after a main power-on reset: every page ABSENT, nothing retired. -/
def Paging.reset : Paging :=
  { near := [], cache := [], migrations := [], retired := [], retireDue := [], retiredNow := 0, poolUsed := [], badBlocks := [], frameCe := [], busySince := 0, chanFree := [], pausedAt := [], badWords := [] }

/-- The host interface after a reset: the standard's configuration space, MSI-X masked by an empty table. -/
def HostIf.reset : HostIf :=
  { qps := [], bme := false, d3hot := false, msix := [], heldCpl := [], heldWrites := [], expressIn := [], ptmFails := 0, ptmBase := 0, msixAt := none }

/-- The management side as it leaves production: no owner fuse, an empty log. -/
def Mgmt.reset : Mgmt :=
  { eidSide := 0, eidPcie := 0, i3c := false, addr := 0x3C, dynAddr := none, log := [], logCount := 0, h2mLen := 0
    ownerHash := [], vendorRevoked := 0, storedKey := none, storedUnowned := false, active1 := 0, active2 := 0, active3 := 0
    update := none, bootTried := 0, bootAt := 0, switchFrom := none, switchAt := none, flashLog := [], mainDigest := [], protDigest := []
    mgtDigest := [], nonce := 0 }

/-- No repair under way. -/
def Repair.reset : Repair :=
  { swaps := [], pendingSwaps := [], slices := [], retrain := none, due := [], failsInRow := [], shadow := [], throttle := [], ueFacet := []
    ueSlice := [], ceFacet := [], ceSlice := [], slackLow := [], eyeLow := [], outSlices := [], spineThermal := 0, spineOk := 0
    capRan := 0, deferredFacets := [] }

/-- Standby power-on reset: no rail good, every enable low (R492). -/
def Power.reset : Power :=
  { stbyOk := false, mgmtUp := false, enabled := 0, good := 0, stepAt := 0, goingDown := false, riseAt := none, dropStep := none, hifAt := 0, stopReq := none, phase := .off
    perstHigh := false, perstReset := false, offlineReset := false, hifReset := true, funcReset := none, thermtrip := false, fatal := false
    bootedMain := false, currents := [], corePoints := [], zeroAt := 0 }

/-- The part in standby power-on reset, as production leaves it: every register at the reset value of its table, every memory zero, nothing running. -/
def State.reset : State :=
  { pending := [], now := 0, free := 0, regs := [], fmem := [], imem := [], sts := [], far := [], host := [], flash := []
    seq := .reset, facets := [], engines := [], sems := [], links := [], semMsgs := [], grants := [], chans := [], jobs := [], portMerge := [], leafItems := [], earlyEnds := []
    predictor := .reset, updates := [], paging := .reset, perms := [], permLoad := none, owners := [], ownerLoad := none, ports := []
    reads := [], hif := .reset, mgmt := .reset, clamps := [], cyc := .fresh 0, memOps := [], gates := [], wakes := [], masks := [], repair := .reset
    power := .reset, outs := [] }

end Sys2Proof.Machine
end

