-- ==== Sys2Proof/Machine/Maps.lean ====
section
/-! DEFINITION. Finite maps and byte memories in canonical form, and the few list operations the other files share. -/

namespace Sys2Proof.Machine

variable {α : Type}

/-- What a map holds at a key. -/
def mapFind (m : SMap α) (k : Nat) : Option α :=
  match m with
  | [] => none
  | (k', v) :: r => if k = k' then some v else mapFind r k

/-- What a map holds at a key, or `d`. -/
def mapGet (m : SMap α) (k : Nat) (d : α) : α := (mapFind m k).getD d

/-- The map with `v` at key `k`. -/
def mapPut (m : SMap α) (k : Nat) (v : α) : SMap α :=
  match m with
  | [] => [(k, v)]
  | (k', v') :: r => if k < k' then (k, v) :: (k', v') :: r else if k = k' then (k, v) :: r else (k', v') :: mapPut r k v

/-- The map without key `k`. -/
def mapDel (m : SMap α) (k : Nat) : SMap α := m.filter (fun e => e.1 ≠ k)

/-- Many puts, in order. -/
def mapPuts (m : SMap α) (es : List (Nat × α)) : SMap α := es.foldl (fun m e => mapPut m e.1 e.2) m

/-- The byte at an address: zero where nothing is listed (R189, R220). -/
def memRead (m : Mem) (a : Nat) : Byte :=
  match m with
  | [] => 0#8
  | (a', b) :: r => if a = a' then b else memRead r a

/-- `n` bytes from address `a`. -/
def memReadN (m : Mem) (a n : Nat) : List Byte := (List.range n).map (fun i => memRead m (a + i))

/-- The cells of bytes laid out from address `a`, zero bytes left out. -/
def memCells (a : Nat) (bs : List Byte) : Mem :=
  match bs with
  | [] => []
  | b :: r => if b = 0#8 then memCells (a + 1) r else (a, b) :: memCells (a + 1) r

/-- The memory with bytes written from address `a`. -/
def memWrite (m : Mem) (a : Nat) (bs : List Byte) : Mem :=
  m.filter (fun c => c.1 < a) ++ memCells a bs ++ m.filter (fun c => a + bs.length ≤ c.1)

/-- The memory with `n` bytes from address `a` set to zero. -/
def memZero (m : Mem) (a n : Nat) : Mem := m.filter (fun c => c.1 < a) ++ m.filter (fun c => a + n ≤ c.1)

/-- Byte writes in order. -/
def memPuts (m : Mem) (ws : List (Nat × Byte)) : Mem := ws.foldl (fun m w => memWrite m w.1 [w.2]) m

/-- Addresses strictly rise. -/
def memSorted (m : Mem) : Bool :=
  match m with
  | [] => true
  | [_] => true
  | c :: d :: r => decide (c.1 < d.1) && memSorted (d :: r)

/-- The canonical form of a memory: addresses strictly rising and no zero byte listed. -/
def Memory.wf (m : Mem) : Bool := memSorted m && m.all (fun c => c.2 != 0#8)

/-- A little-endian number of `n` bytes in memory. -/
def memLe (m : Mem) (a n : Nat) : Nat := ofLe (memReadN m a n)

/-- Whether an element satisfies a test, with its place. -/
def findIdxFrom (p : α → Bool) (i : Nat) (xs : List α) : Option Nat :=
  match xs with
  | [] => none
  | x :: r => if p x then some i else findIdxFrom p (i + 1) r

/-- The place of the first element that satisfies a test. -/
def firstIdx (p : α → Bool) (xs : List α) : Option Nat := findIdxFrom p 0 xs

/-- A list with its element at `i` changed. -/
def updAt (xs : List α) (i : Nat) (f : α → α) : List α :=
  match xs, i with
  | [], _ => []
  | x :: r, 0 => f x :: r
  | x :: r, j + 1 => x :: updAt r j f

/-- A list with its element at `i` left out. -/
def dropAt (xs : List α) (i : Nat) : List α := xs.take i ++ xs.drop (i + 1)

/-- A list without the first element that satisfies a test. -/
def dropFirst (p : α → Bool) (xs : List α) : List α :=
  match xs with
  | [] => []
  | x :: r => if p x then r else x :: dropFirst p r

/-- Keys inserted in rising order, equal keys kept in order of insertion. -/
def insertBy (key : α → Nat) (x : α) (xs : List α) : List α :=
  match xs with
  | [] => [x]
  | y :: r => if key x < key y then x :: y :: r else y :: insertBy key x r

/-- A list sorted by a key, equal keys in their old order. -/
def sortBy (key : α → Nat) (xs : List α) : List α := xs.foldl (fun acc x => insertBy key x acc) []

/-- Whether a rising list has no repeats. -/
def strictlyRising (xs : List Nat) : Bool :=
  match xs with
  | [] => true
  | [_] => true
  | a :: b :: r => decide (a < b) && strictlyRising (b :: r)

/-- Whether bit `i` of `x` is set. -/
def bitSet (x i : Nat) : Bool := decide (x / 2 ^ i % 2 = 1)

/-- `x` with bit `i` set. -/
def setBit (x i : Nat) : Nat := if bitSet x i then x else x + 2 ^ i

/-- `x` with bit `i` cleared. -/
def clearBit (x i : Nat) : Nat := if bitSet x i then x - 2 ^ i else x

/-- Two half-open intervals share a point (R521). -/
def overlaps (a b c d : Nat) : Bool := decide (a < d) && decide (c < b) && decide (a < b) && decide (c < d)

/-- The lengths of pieces of at most `n` that make up `total`. -/
def chunkList (n : Nat) (xs : List α) : Nat → List (List α)
  | 0 => []
  | k + 1 => if xs.isEmpty then [] else xs.take n :: chunkList n (xs.drop n) k

end Sys2Proof.Machine
end

