-- ==== Sys2Proof/Machine/Ops.lean ====
section
/-! DEFINITION. The named operations over registers, memories and the parts of the state: register fields, error flags and interrupts, host memory and completions, facet memory and its gating, page-table entries. -/

namespace Sys2Proof.Machine

/-- What the commands of the part answer. -/
abbrev Res := Host.Outcome State Fault Refusal

/-- The next state if a condition holds; otherwise the command or event is not enabled and nothing changes. -/
def whenever (p : Bool) (s t : State) : Res := if p then .next t else .next s

/-! ### Registers -/

/-- The value of a register field. -/
def fget (s : State) (f : Field) : Nat := mapGet s.regs f.key f.reset

/-- Whether a register field is not zero. -/
def fon (s : State) (f : Field) : Bool := decide (fget s f ≠ 0)

/-- A register field set to a value, cut to its width. -/
def fset (s : State) (f : Field) (v : Nat) : State := { s with regs := mapPut s.regs f.key (v % 2 ^ f.width) }

/-- An event counter advanced by `n`, modulo its width (R81). -/
def bump (s : State) (f : Field) (n : Nat) : State := fset s f (fget s f + n)

/-- The stored word of a register: its fields in place, reserved bits zero (R14). -/
def wordOf (s : State) (a : Nat) : Nat := (fieldsAt a).foldl (fun w f => w + fget s f * 2 ^ f.lo) 0

/-! ### Parts of the state -/

def modSeq (s : State) (f : Sequencer → Sequencer) : State := { s with seq := f s.seq }
def modHif (s : State) (f : HostIf → HostIf) : State := { s with hif := f s.hif }
def modMgmt (s : State) (f : Mgmt → Mgmt) : State := { s with mgmt := f s.mgmt }
def modRepair (s : State) (f : Repair → Repair) : State := { s with repair := f s.repair }
def modPower (s : State) (f : Power → Power) : State := { s with power := f s.power }
def modPaging (s : State) (f : Paging → Paging) : State := { s with paging := f s.paging }

/-- The facet of a logical number. -/
def facetOf (s : State) (lf : Nat) : Facet := mapGet s.facets lf .idle

/-- A facet changed. -/
def modFacet (s : State) (lf : Nat) (f : Facet → Facet) : State := { s with facets := mapPut s.facets lf (f (facetOf s lf)) }

/-- A context of a facet. -/
def Facet.ctx (f : Facet) (c : Nat) : Ctx := if c = 0 then f.ctxA else f.ctxB

/-- A facet with a context replaced. -/
def Facet.setCtx (f : Facet) (c : Nat) (x : Ctx) : Facet := if c = 0 then { f with ctxA := x } else { f with ctxB := x }

/-- The Lattice of a facet, or of a half in split mode. -/
def Facet.lat (f : Facet) (c : Nat) : Lat := if c = 0 then f.latA else f.latB

/-- A facet with a Lattice replaced. -/
def Facet.setLat (f : Facet) (c : Nat) (x : Lat) : Facet := if c = 0 then { f with latA := x } else { f with latB := x }

/-- The context that a command names. -/
def ctxOf (s : State) (w : Who) : Ctx := (facetOf s w.lf).ctx w.ctx

/-- A context changed. -/
def modCtx (s : State) (w : Who) (f : Ctx → Ctx) : State := modFacet s w.lf (fun x => x.setCtx w.ctx (f (x.ctx w.ctx)))

/-- A Lattice changed. -/
def modLat (s : State) (w : Who) (f : Lat → Lat) : State := modFacet s w.lf (fun x => x.setLat w.ctx (f (x.lat w.ctx)))

/-- A stream engine. -/
def engineOf (s : State) (e : Nat) : Engine := mapGet s.engines e .idle

/-- A stream engine changed. -/
def modEngine (s : State) (e : Nat) (f : Engine → Engine) : State := { s with engines := mapPut s.engines e (f (engineOf s e)) }

/-- The stream on a handle of an engine. -/
def streamOf (s : State) (e h : Nat) : Option Stream := mapFind (engineOf s e).streams h

/-- A stream changed, where there is one. -/
def modStream (s : State) (e h : Nat) (f : Stream → Stream) : State :=
  match streamOf s e h with
  | none => s
  | some x => modEngine s e (fun g => { g with streams := mapPut g.streams h (f x) })

def semOf (s : State) (n : Nat) : Sem := mapGet s.sems n .zero
def modSem (s : State) (n : Nat) (f : Sem → Sem) : State := { s with sems := mapPut s.sems n (f (semOf s n)) }
def chanOf (s : State) (k : Nat) : Chan := mapGet s.chans k .fresh

/-- A channel changed; its record then differs from memory until it is rewritten (R275). -/
def modChan (s : State) (k : Nat) (f : Chan → Chan) : State := { s with chans := mapPut s.chans k { f (chanOf s k) with dirty := true } }

def portOf (s : State) (p : Nat) : Port := mapGet s.ports p .down
def modPort (s : State) (p : Nat) (f : Port → Port) : State := { s with ports := mapPut s.ports p (f (portOf s p)) }
def qpOf (s : State) (q : Nat) : Qp := mapGet s.hif.qps q .off
def modQp (s : State) (q : Nat) (f : Qp → Qp) : State := modHif s (fun h => { h with qps := mapPut h.qps q (f (qpOf s q)) })
def shadowOf (s : State) (q : Nat) : Shadow := mapGet s.repair.shadow q .fresh
def modShadow (s : State) (q : Nat) (f : Shadow → Shadow) : State := modRepair s (fun r => { r with shadow := mapPut r.shadow q (f (shadowOf s q)) })
def throttleOf (s : State) (q : Nat) : Throttle := mapGet s.repair.throttle q .none
def modThrottle (s : State) (q : Nat) (f : Throttle → Throttle) : State :=
  modRepair s (fun r => { r with throttle := mapPut r.throttle q (f (throttleOf s q)) })

/-- A free value: the word the state's counter names. -/
def freshWord (s : State) : Word := Config.freeWord s.free

/-- The state after a free value has been drawn. -/
def drawn (s : State) : State := { s with free := s.free + 1 }

/-- A message sent to the outside. -/
def emit (s : State) (m : Msg) : State := { s with outs := s.outs ++ [⟨s.now, m⟩] }

/-! ### Where the part stands -/

/-- The main domain is out of reset (R430). -/
def mainUp (s : State) : Bool :=
  match s.power.phase with
  | .running => true
  | .selfTest => true
  | _ => false

/-- The main domain serves: out of reset, not in a function reset. -/
def serving (s : State) : Bool := mainUp s && s.power.funcReset.isNone

/-- `GLB_STATUS.MAIN_READY`. -/
def mainReady (s : State) : Bool := fon s Fld.glbStatus_MAINREADY

/-- The host reaches the configuration space: the part serves, its host interface is out of reset, and it no longer answers with Retry Status (R501). -/
def hostLink (s : State) : Bool := serving s && !s.power.hifReset && mainReady s

/-- The host reaches the BARs: the function is in D0 as well. -/
def hostUp (s : State) : Bool := hostLink s && !s.hif.d3hot

/-- Frames run (`FSQ_CTL.RUN` reads 1). -/
def runOn (s : State) : Bool := fon s Fld.fsqCtl_RUN

/-- Cycles since the tick (FSQ_TCYC). -/
def tcyc (s : State) : Nat := if s.seq.inFrame then s.now - s.seq.lastTick else 0

/-- Nanoseconds that `c` cycles last (1 300 per microsecond, R504). -/
def nsOf (c : Nat) : Nat := c * 1000 / 1300

/-- Cycles that `us` microseconds last. -/
def cyclesOf (us : Nat) : Nat := us * 1300

/-- The quadrant of a logical facet (Table 00-4). -/
def quadOf (lf : Nat) : Nat := lf / 12

/-- The physical facet of a logical one, 0x3F when unmapped (R8, R462). -/
def physOf (s : State) (lf : Nat) : Nat := fget s (Fld.rpmFmap_PFACET lf)

/-- The logical facet of a physical one. -/
def logicalOf (s : State) (pf : Nat) : Option Nat := (List.range 48).find? (fun l => physOf s l = pf)

/-- The budget in force (R25). -/
def budget (s : State) : Nat := fget s Fld.fsqBudget_B

/-- A field of the configuration record in force (Table 16-1). -/
def cfgForce (s : State) (i : Nat) : Nat := fget s (Fld.rpmCfgForce_VALUE i)

/-- The FMEM_USED that the active image declares for a logical facet. -/
def fmemUsed (s : State) (lf : Nat) : Nat :=
  match s.seq.active with
  | none => 0
  | some i => i.fmemUsed.getD lf 0

/-- The bytes of instruction memory that the active image uses on a logical facet (R297). -/
def imemLimit (s : State) (lf : Nat) : Nat :=
  match s.seq.active with
  | none => 0
  | some i => 256 * i.imemUsed.getD lf 0

/-- The allocations of the active image. -/
def allocs (s : State) : List AllocEntry :=
  match s.seq.active with
  | none => []
  | some i => i.allocs

/-- Whether `n` bytes from State Store address `a` lie inside one allocation of the active image that is not of kind PAGES (R319). -/
def inData (s : State) (a n : Nat) : Bool :=
  (allocs s).any (fun e => decide (e.kind ≠ 1) && decide (e.base ≤ a) && decide (a + n ≤ e.base + e.len))

/-- Whether `n` bytes from address `a` lie inside one allocation of the active image, of either kind. -/
def inAnyAlloc (s : State) (a n : Nat) : Bool :=
  (allocs s).any (fun e => decide (e.base ≤ a) && decide (a + n ≤ e.base + e.len))

/-- The channels of the active image. -/
def chanDecls (s : State) : List ChanEntry :=
  match s.seq.active with
  | none => []
  | some i => i.chans

/-- The key of a channel. -/
def chanKey (c : ChanName) : Nat := c.consumer * 32 + c.index

/-- The declaration of a channel in the active image. -/
def chanDecl (s : State) (k : Nat) : Option ChanEntry := (chanDecls s).find? (fun e => e.consumer * 32 + e.index = k)

/-- Whether the active image declares a semaphore. -/
def semDeclared (s : State) (n : Nat) : Bool :=
  match s.seq.active with
  | none => false
  | some i => i.sems.any (fun e => e.1 = n)

/-- Whether a semaphore serves a channel (R257). -/
def semOfChan (s : State) (n : Nat) : Bool := (chanDecls s).any (fun e => decide (e.fullSem = n) || decide (e.emptySem = n))

/-- Cycles that a semaphore message travels between two quadrants (Table 09-1). -/
def travel (q r : Nat) : Nat := if q = r then 4 else 24

/-! ### Error flags and interrupts (R16, R413, R414) -/

/-- The error and enable registers of the fifteen spine blocks, in the order of `GLB_INTSUM`. -/
def blockRegs : List (Nat × Nat) :=
  [(0x20, 0x24), (0x10030, 0x10034), (0x20004, 0x20008), (0x40010, 0x40014), (0x50004, 0x50008), (0x60004, 0x60008), (0x70004, 0x70008),
   (0x80004, 0x80008), (0x90008, 0x9000C), (0xA0004, 0xA0008), (0xB0004, 0xB0008), (0xC0008, 0xC000C), (0xD0004, 0xD0008),
   (0xE0004, 0xE0008), (0xF0010, 0xF0014)]

/-- Whether a block holds a set flag that its enable register lets through. -/
def enabledFlag (s : State) (r : Nat × Nat) : Bool := decide (Nat.land (wordOf s r.1) (wordOf s r.2) ≠ 0)

/-- Whether a physical facet has an enabled flag set. -/
def facetFlag (s : State) (f : Nat) : Bool :=
  let b := 0x10F0000 + f * 0x100000
  enabledFlag s (b + 0x10, b + 0x20) || enabledFlag s (b + 0x3008, b + 0x300C) || enabledFlag s (b + 0x4004, b + 0x4008)

/-- The bits of `GLB_INTSUM`, lowest first. -/
def intBits (s : State) : List Bool := blockRegs.map (enabledFlag s) ++ [(List.range 52).any (facetFlag s)]

/-- A number from its bits, lowest first. -/
def ofBits (bs : List Bool) : Nat := bs.foldr (fun b n => (if b then 1 else 0) + 2 * n) 0

/-- A word of the MSI-X table or PBA. The mask bit of a vector is 1 until the host clears it. -/
def msixWord (s : State) (k : Nat) : Nat := mapGet s.hif.msix k (if k < 0x1000 ∧ k % 16 = 12 then 1 else 0)

/-- An MSI-X message: sent, or left pending while its vector is masked; nothing is sent while Bus Master Enable is 0 (R396, R413). -/
def sendVec (s : State) (v : Nat) : State :=
  if !s.hif.bme then s
  else if msixWord s (16 * v + 12) % 2 = 1 then
    modHif s (fun h => { h with msix := mapPut h.msix (0x1000 + v / 32 * 4) (setBit (msixWord s (0x1000 + v / 32 * 4)) (v % 32)) })
  else emit s (.msix v)

/-- Vector 1 for the bits of `GLB_INTSUM` that rose from `old` to `s`, once in a cycle (R414). -/
def settle (old s : State) : State :=
  if ((intBits old).zip (intBits s)).any (fun p => !p.1 && p.2) ∧ s.hif.msixAt ≠ some s.now then
    sendVec (modHif s (fun h => { h with msixAt := some s.now })) 1
  else s

/-- What has happened in the current cycle. -/
def thisCycle (s : State) : Cycle := if s.cyc.number = s.now then s.cyc else .fresh s.now

/-- Something that happened in the current cycle, kept. -/
def modCycle (s : State) (f : Cycle → Cycle) : State := { s with cyc := f (thisCycle s) }

/-- The bits of a field among (field, bits) pairs. -/
def bitsIn (xs : List (Nat × Nat)) (k : Nat) : Nat := (xs.filter (fun x => x.1 = k)).foldl (fun n x => Nat.lor n x.2) 0

/-- Bits of a W1C field set by the hardware: a write in the same cycle does not clear them (R16). -/
def setBits (s : State) (f : Field) (bits : Nat) : State :=
  modCycle (settle s (fset s f (Nat.lor (fget s f) bits))) (fun c => { c with flags := c.flags ++ [(f.key, bits)] })

/-- A W1C flag set by the hardware. -/
def setFlag (s : State) (f : Field) : State := setBits s f 1

/-- One bit of a W1C field set by the hardware, where a field holds one bit for each unit. -/
def setFlagBit (s : State) (f : Field) (i : Nat) : State := setBits s f (2 ^ i)

/-- A flag with its event counter: the counter counts, and the flag is set (R16). -/
def event (s : State) (f c : Field) : State := setFlag (bump s c 1) f

/-- A host access error: logged in the GLB registers and counted (R12, R418). `cause` is that of GLB_HERR_INFO. -/
def hostErr (s : State) (bar : Nat) (isWrite : Bool) (addr size cause : Nat) : State :=
  let s := fset (fset s Fld.glbHerrInfo_BAR bar) Fld.glbHerrInfo_WRITE (if isWrite then 1 else 0)
  let s := fset (fset s Fld.glbHerrInfo_BYTES (if 256 ≤ size then 0 else size)) Fld.glbHerrInfo_CAUSE cause
  let s := fset (fset s Fld.glbHerrAddrLo_ADDR addr) Fld.glbHerrAddrHi_ADDR (addr / 2 ^ 32)
  event s Fld.glbHerr_ACCESS Fld.glbCntHerr_COUNT

/-! ### Event log and error records (R423, R453) -/

/-- An entry of the management event log: time in microseconds, code, 24 bytes of detail; the last 4 096 are held. -/
def logEvent (s : State) (code : Nat) (detail : List Byte) : State :=
  let e := leBytes 4 (s.now / 1300) ++ leBytes 4 code ++ sliceOf detail 0 24
  modMgmt s (fun m => { m with log := ((m.log ++ [e]).drop ((m.log.length + 1) - 4096)), logCount := m.logCount + 1 })

/-- An error record of Table 17-2. -/
def recBytes (cls unit index ev task cycle detail : Nat) : List Byte :=
  leBytes 1 cls ++ leBytes 1 unit ++ leBytes 2 index ++ leBytes 2 ev ++ leBytes 2 task ++ leBytes 4 cycle ++ leBytes 4 detail

/-- An event of class 1 to 5 recorded in the frame's report: at most 256 records, further ones counted; repair and retirement events also go to the event log, and from there to the log region of the flash (R423, R453). -/
def errorRec (s : State) (cls unit index ev task detail : Nat) : State :=
  let r := recBytes cls unit index ev task (tcyc s) detail
  let s := if s.seq.errRecs.length < 256 then modSeq s (fun q => { q with errRecs := q.errRecs ++ [r] }) else bump s Fld.rpmCntRecdrop_COUNT 1
  let s := if cls = 2 then modSeq s (fun q => { q with repairFlag := true }) else s
  if cls = 2 then modMgmt (logEvent s ev r) (fun m => { m with flashLog := m.flashLog ++ [r] }) else s

/-! ### Host memory and completions (R404 to R406) -/

/-- A write to host memory: it waits while Bus Master Enable is 0 (R396). -/
def hostWrite (s : State) (a : Nat) (bs : List Byte) : State :=
  if s.hif.bme then { s with host := memWrite s.host a bs }
  else modHif s (fun h => { h with heldWrites := h.heldWrites ++ [(a, bs)] })

/-- The base of a queue pair's submission ring. -/
def sqBase (s : State) (q : Nat) : Nat := fget s (Fld.hifQSqbHi_BASE q) * 2 ^ 32 + fget s (Fld.hifQSqbLo_BASE q) * 2 ^ 12

/-- The base of a queue pair's completion ring. -/
def cqBase (s : State) (q : Nat) : Nat := fget s (Fld.hifQCqbHi_BASE q) * 2 ^ 32 + fget s (Fld.hifQCqbLo_BASE q) * 2 ^ 12

/-- Completion entries that the host has not freed. -/
def cqUsed (s : State) (q : Nat) : Nat :=
  let n := fget s (Fld.hifQCfg_CQSIZE q) + 1
  (fget s (Fld.hifQCqtail_TAIL q) + n - (qpOf s q).cqHead % n) % n

/-- Whether a queue pair's completion ring has a place that is free and not reserved: one place always stays free, as HEAD equal to TAIL reads empty. -/
def cqFree (s : State) (q : Nat) : Bool := decide (cqUsed s q + (qpOf s q).reserved < fget s (Fld.hifQCfg_CQSIZE q))

/-- The bytes of a completion entry (Table 14-6). -/
def cplBytes (cid sqHead status phase qp result info : Nat) : List Byte :=
  leBytes 2 cid ++ leBytes 2 sqHead ++ leBytes 1 status ++ leBytes 1 phase ++ leBytes 2 qp ++ leBytes 4 result ++ leBytes 4 info

/-- A completion entry written in its ring, the ring's tail and phase advanced, its vector sent (R405, Table 14-9). An EXPRESS request, which was not fetched from a submission ring, shows the SQ head of this moment (Table 14-6). -/
def writeCpl (s : State) (c : HostCmd) (status result info : Nat) : State :=
  let q := c.qp
  let t := fget s (Fld.hifQCqtail_TAIL q)
  let ph := fget s (Fld.hifQCqtail_PHASE q)
  let head := if c.entry.isEmpty then fget s (Fld.hifQSqhead_HEAD q) else c.sqHead
  let s := { s with host := memWrite s.host (cqBase s q + 16 * t) (cplBytes c.cid head status ph q result info) }
  let wrap := decide (fget s (Fld.hifQCfg_CQSIZE q) < t + 1)
  let s := fset s (Fld.hifQCqtail_TAIL q) (if wrap then 0 else t + 1)
  let s := if wrap then fset s (Fld.hifQCqtail_PHASE q) (1 - ph) else s
  let s := bump s Fld.hifCntCpl_COUNT 1
  if fon s (Fld.hifQCfg_IEN q) then sendVec s (4 + q) else s

/-- INFO of a completion whose command fetched nothing: the frame number of a MANIFEST or MIGRATE; the IMAGE_ID of a LOAD_IMAGE, which has not been read, is left free by draw `n` (Table 14-6). -/
def infoUnread (n : Nat) (c : HostCmd) : Nat :=
  match fieldOf c.entry 0 1 with
  | 1 => (Config.freeWord n).toNat
  | 2 => fieldOf c.entry 0x14 4
  | 4 => fieldOf c.entry 0x14 4
  | _ => 0

/-- Whether a command's completion is still wanted: its queue pair runs as it did when the command came, and is READY. -/
def cplWanted (s : State) (c : HostCmd) : Bool :=
  decide ((qpOf s c.qp).gen = c.gen) && decide (fget s (Fld.hifQState_STATE c.qp) = 1)

/-- A command ends with a status: its reserved place is given up and its completion entry written, held while Bus Master Enable is 0, or discarded when the pair was disabled or is in ERROR (R402, R411, R412). -/
def complete (s : State) (c : HostCmd) (status result info : Nat) : State :=
  let wanted := cplWanted s c
  let s := modQp s c.qp (fun p => if p.gen = c.gen then { p with live := p.live - 1, reserved := p.reserved - 1 } else p)
  if !wanted then s
  else if s.hif.bme then writeCpl s c status result info
  else modHif s (fun h => { h with heldCpl := h.heldCpl ++ [⟨c, status, result, info⟩] })

/-! ### Facet memory (R160 to R181) -/

/-- The bank of a facet address (R160). -/
def bankOf (a : Nat) : Nat := a / 2 ^ 17 % 4 * 8 + Nat.xor (Nat.xor (bitsOf a 6 3) (bitsOf a 9 3)) (bitsOf a 12 3)

/-- Whether the bank of an address of a physical facet is gated. -/
def gatedAt (s : State) (pf a : Nat) : Bool := bitSet (fget s (Fld.fmemGated_STATE pf)) (bankOf a)

/-- Whether the bank of an address of a physical facet is waking (R181). -/
def wakingAt (s : State) (pf a : Nat) : Bool := (mapFind s.wakes (pf * 32 + bankOf a)).isSome

/-- The base of a physical facet's memory in `fmem`. -/
def fbase (pf : Nat) : Nat := pf * 2 ^ 19

/-- The base of a physical facet's instruction memory in `imem`. -/
def ibase (pf : Nat) : Nat := pf * 2 ^ 16

/-- The distinct values of a list, in order. -/
def distinct (xs : List Nat) : List Nat := xs.foldl (fun acc x => if acc.contains x then acc else acc ++ [x]) []

/-- The lines of gated banks among some addresses. -/
def gatedLines (s : State) (pf : Nat) (as : List Nat) : List Nat :=
  if fget s (Fld.fmemGated_STATE pf) = 0 then [] else distinct ((as.filter (gatedAt s pf)).map (· / 64))

/-- What the stored byte of a physical facet's memory is combined with: zero, or a free byte where the memory holds unspecified values since a map change (R165). -/
def fmemMask (s : State) (pf a : Nat) : Byte :=
  match mapFind s.masks pf with
  | none => 0#8
  | some e => Config.freeByte e a

/-- Bytes read from a physical facet's memory: zero from a gated bank (R180). -/
def fmemPeek (s : State) (pf : Nat) (as : List Nat) : List Byte :=
  as.map (fun a => if gatedAt s pf a then 0#8 else memRead s.fmem (fbase pf + a) ^^^ fmemMask s pf a)

/-- The state after a read: each line of a gated bank counts and sets its flag (R180). -/
def fmemTouch (s : State) (pf : Nat) (as : List Nat) : State :=
  let n := (gatedLines s pf as).length
  if n = 0 then s else setFlag (bump s (Fld.fmemCntGatedrd_COUNT pf) n) (Fld.fmemErr_GATEDRD pf)

/-- The writes that a gated bank does not drop. -/
def keptWrites (s : State) (pf : Nat) (ws : List (Nat × Byte)) : List (Nat × Byte) := ws.filter (fun x => !gatedAt s pf x.1)

/-- Byte writes stored in a physical facet's memory, whatever its gates. -/
def fmemStore (s : State) (pf : Nat) (ws : List (Nat × Byte)) : State :=
  { s with fmem := memPuts s.fmem (ws.map (fun w => (fbase pf + w.1, w.2 ^^^ fmemMask s pf w.1))) }

/-- The writes that gated banks drop are counted and flagged, line by line (R179). -/
def countDropped (s : State) (pf : Nat) (ws : List (Nat × Byte)) : State :=
  let n := (gatedLines s pf (ws.map (·.1))).length
  if n = 0 then s else setFlag (bump s (Fld.fmemCntGatedwr_COUNT pf) n) (Fld.fmemErr_GATEDWR pf)

/-- Wide writes performed in a physical facet's memory; those of gated banks are dropped (R179). The bytes they reach are kept for the cycle (R162). -/
def fmemPut (s : State) (pf : Nat) (ws : List (Nat × Byte)) : State :=
  let kept := keptWrites s pf ws
  countDropped (modCycle (fmemStore s pf kept) (fun c => { c with wide := c.wide ++ kept.map (fun w => fbase pf + w.1) })) pf ws

/-- A narrow write performed: where a wide write reaches the same bytes in the same cycle, the wide write's remain (R162). -/
def fmemPutNarrow (s : State) (pf : Nat) (ws : List (Nat × Byte)) : State :=
  countDropped (fmemStore s pf ((keptWrites s pf ws).filter (fun w => !(thisCycle s).wide.contains (fbase pf + w.1)))) pf ws

/-- Whether some of the writes would be dropped at a gated bank. -/
def fmemDrops (s : State) (pf : Nat) (ws : List (Nat × Byte)) : Bool := decide (gatedLines s pf (ws.map (·.1)) ≠ [])

/-- Addresses from `a`, `n` of them. -/
def span (a n : Nat) : List Nat := (List.range n).map (a + ·)

/-- Bytes with their addresses from `a`. -/
def laidAt (a : Nat) (bs : List Byte) : List (Nat × Byte) := (span a bs.length).zip bs

/-- `n` bytes of a logical facet's memory. -/
def facetRead (s : State) (lf a n : Nat) : List Byte := fmemPeek s (physOf s lf) (span a n)

/-! ### The State Store (R183 to R191) -/

/-- The quadrant whose slices hold the line of a State Store address (R183). -/
def lineQuad (line : Nat) : Nat := line / 6291456

/-- Lines that the slices serve for one access, none of them twice, counted; those that cross a link between quadrants too: a read's leave the slice's quadrant, a write's that of the unit that sends them. A unit of the spine has no quadrant (R184, R191). DEDUCED (log entry 46). -/
def serveLines (s : State) (unit : Option Nat) (isWrite : Bool) (lines : List Nat) : State :=
  (List.range 4).foldl (fun s q =>
    let n := (lines.filter (fun l => lineQuad l = q)).length
    let s := if n = 0 then s else bump s (Fld.stsCntLines_COUNT q) n
    match unit with
    | none => s
    | some u => if n = 0 ∨ u = q then s else bump s (Fld.stsCntXq_COUNT (if isWrite then u else q)) n) s

/-- The lines of an access to some State Store bytes, each counted once. -/
def countLines (s : State) (unit : Option Nat) (isWrite : Bool) (as : List Nat) : State :=
  serveLines s unit isWrite (distinct ((as.map (· / 128)).eraseReps))

/-- The lines that `n` bytes from address `a` lie in. -/
def linesOf (a n : Nat) : List Nat := if n = 0 then [] else (List.range ((a + n - 1) / 128 + 1 - a / 128)).map (a / 128 + ·)

/-- The lines of an access to contiguous State Store bytes, counted. -/
def countRange (s : State) (unit : Option Nat) (isWrite : Bool) (a n : Nat) : State := serveLines s unit isWrite (linesOf a n)

/-- Words of the State Store written whole hold no error any more; a smaller write merges with what the word holds (R186, R187). -/
def healWords (s : State) (whole : Nat → Bool) : State :=
  if s.paging.badWords.isEmpty then s else modPaging s (fun p => { p with badWords := p.badWords.filter (fun k => !whole k) })

/-- Bytes written in the State Store by a unit, its lines counted. -/
def stsPut (s : State) (unit : Option Nat) (ws : List (Nat × Byte)) : State :=
  let as := ws.map (·.1)
  countLines (healWords { s with sts := memPuts s.sts ws } (fun k => (List.range 8).all (fun i => as.contains (8 * k + i)))) unit true as

/-- Contiguous bytes written in the State Store by a unit, its lines counted. -/
def stsWrite (s : State) (unit : Option Nat) (a : Nat) (bs : List Byte) : State :=
  countRange (healWords { s with sts := memWrite s.sts a bs } (fun k => decide (a ≤ 8 * k) && decide (8 * k + 8 ≤ a + bs.length))) unit true a bs.length

/-! ### Page table (R196 to R204) -/

/-- The page-table entry of a page. -/
def pteOf (s : State) (vpn : Nat) : Nat := memLe s.sts (0xBC000000 + 4 * vpn) 4

/-- A page-table entry written, by the context paging unit alone (R204). -/
def setPte (s : State) (vpn v : Nat) : State := stsWrite s none (0xBC000000 + 4 * vpn) (leBytes 4 v)

/-- STATE of a page-table entry: 0 ABSENT, 1 FAR, 2 NEAR, 3 BOTH (Table 07-2). -/
def pteState (e : Nat) : Nat := bitsOf e 30 2
def pteMigrating (e : Nat) : Bool := bitSet e 29
def ptePinned (e : Nat) : Bool := bitSet e 28
def pteFormat (e : Nat) : Nat := bitsOf e 24 4
def pteFrame (e : Nat) : Nat := bitsOf e 0 24

/-- A page-table entry from its fields. -/
def mkPte (st : Nat) (migr pin : Bool) (fmt frame : Nat) : Nat :=
  st % 4 * 2 ^ 30 + (if migr then 2 ^ 29 else 0) + (if pin then 2 ^ 28 else 0) + fmt % 16 * 2 ^ 24 + frame % 2 ^ 24

/-- The set of the page-table cache that serves a page (R203). -/
def cacheSet (vpn : Nat) : Nat := Nat.xor (vpn % 4096) (vpn / 4096 % 4096)

/-- A translation's effect on the page-table cache: a hit or a miss counted, the page most recently used in its set of 16 (R203). -/
def cacheLookup (s : State) (vpn : Nat) : State :=
  let set := mapGet s.paging.cache (cacheSet vpn) []
  let hit := set.contains vpn
  let set' := (vpn :: set.filter (· ≠ vpn)).take 16
  let s := modPaging s (fun p => { p with cache := mapPut p.cache (cacheSet vpn) set' })
  if hit then bump s Fld.cptCntHit_COUNT 1 else countLines (bump s Fld.cptCntMiss_COUNT 1) none false [0xBC000000 + 4 * vpn]

/-- Where byte `off` of a page lies: `true` and a State Store address when it is near, else an address in far memory (R199, R209). -/
def pageAddr (s : State) (vpn off : Nat) : Bool × Nat :=
  let e := pteOf s vpn
  (decide (2 ≤ pteState e), pteFrame e * 2 ^ 14 + off)

/-- Bytes of a page, from its near copy or from far memory. -/
def pageRead (s : State) (vpn off n : Nat) : List Byte :=
  let a := pageAddr s vpn off
  if a.1 then memReadN s.sts a.2 n else memReadN s.far a.2 n

/-- The number of unowned near frames in the PAGES ranges of the active image (CPT_NEAR_FREE). -/
def nearFree (s : State) : Nat :=
  let ranges := (allocs s).filter (fun e => e.kind = 1)
  let total := ranges.foldl (fun n e => n + e.len / 2 ^ 14) 0
  let owned := (s.paging.near.filter (fun e => ranges.any (fun r => decide (r.base ≤ e.1 * 2 ^ 14) && decide (e.1 * 2 ^ 14 + 2 ^ 14 ≤ r.base + r.len)))).length
  total - owned

/-- Near frame `n` is usable: it lies wholly inside an allocation of kind PAGES (R199). -/
def nearUsable (s : State) (n : Nat) : Bool :=
  decide (n < 192512) && (allocs s).any (fun e => decide (e.kind = 1) && decide (e.base ≤ n * 2 ^ 14) && decide (n * 2 ^ 14 + 2 ^ 14 ≤ e.base + e.len))

end Sys2Proof.Machine
end

