-- ==== Sys2Proof/Machine/ConfigRec.lean ====
section
/-! DEFINITION. The device configuration record (file 16): staging, committing and clamping (R443, R444), taking effect (R445), the allowance and the budget (R25, R442), clamp records (R449). -/

namespace Sys2Proof.Machine

/-- The staged value of a field. -/
def cfgStaged (s : State) (i : Nat) : Nat := fget s (Fld.rpmCfgStage_VALUE i)

/-- The address of a staged field that a host write reaches. -/
def stagedAddr (a : Nat) : Bool := decide (0xEC040 ≤ a) && decide (a < 0xEC058)

/-- What a staged field held before the first write of the cycle, kept (R447). -/
def keepStaged (s : State) (f : Field) : State :=
  if decide (0xEC040 ≤ f.addr) && decide (f.addr < 0xEC060) && !(thisCycle s).staged.any (fun x => x.1 = (f.addr - 0xEC040) / 4) then
    modCycle s (fun c => { c with staged := c.staged ++ [((f.addr - 0xEC040) / 4, fget s f)] })
  else s

/-- The staged value that a commit takes: as it stood before a write in the same cycle (R447). -/
def cfgTaken (s : State) (i : Nat) : Nat :=
  match (thisCycle s).staged.find? (fun x => x.1 = i) with
  | some x => x.2
  | none => cfgStaged s i

/-- The committed value of a field. -/
def cfgCommitted (s : State) (i : Nat) : Nat := fget s (Fld.rpmCfgCommit_VALUE i)

/-- A staged value within its range (R443). -/
def cfgClamped (i v : Nat) : Nat := min (max v (Config.cfgLow i)) (Config.cfgHigh i)

/-- Cycles of a period at nominal clock (R25). -/
def periodCycles (us : Nat) : Nat := us * 1300

/-- The allowance before the cycle minimum (R442). -/
def allowTerm (us ppm : Nat) : Nat := periodCycles us * ppm / 1000000

/-- The calibration allowance (R442). -/
def calAllowance (us ppm : Nat) : Nat := max (allowTerm us ppm) (ceilDiv (periodCycles us) 10000)

/-- The frame budget B (R25). -/
def budgetOf (us ppm : Nat) : Nat := periodCycles us * 15 / 16 - 52000 - calAllowance us ppm

/-- The budget that admission uses: that of the committed copy (R444). -/
def committedBudget (s : State) : Nat := budgetOf (cfgCommitted s 0) (cfgCommitted s 1)

/-- A clamp record produced: counted, and held for the next report (R449). -/
def produceClamp (s : State) (c : Clamp) : State :=
  modSeq (bump s Fld.rpmCfgCntClamp_COUNT 1) (fun q => { q with clampRecs := q.clampRecs ++ [c] })

/-- A committed field comes into force, with its clamp record if one waits (R445, R449). -/
def applyField (s : State) (i : Nat) : State :=
  let recs := if cfgCommitted s i = cfgForce s i then [] else s.clamps.filter (fun c => c.field = i)
  let s := fset s (Fld.rpmCfgForce_VALUE i) (cfgCommitted s i)
  let s := if i = 4 then fset s Fld.chdMcstall_LIMITUS (cfgCommitted s 4) else s
  recs.foldl produceClamp { s with clamps := s.clamps.filter (fun c => c.field ≠ i) }

/-- WAITING shows committed swap fields that are not in force. -/
def cfgWaiting (s : State) : State :=
  fset s Fld.rpmCfgCmd_WAITING (if cfgCommitted s 0 ≠ cfgForce s 0 ∨ cfgCommitted s 1 ≠ cfgForce s 1 then 1 else 0)

/-- Fields 0 and 1 come into force, and the allowance is computed afresh (R442, R445, R449). -/
def applySwapFields (s : State) : State :=
  let s := applyField (applyField s 0) 1
  let us := cfgForce s 0
  let ppm := cfgForce s 1
  let s := fset (fset s Fld.fsqPeriod_PERIODUS us) Fld.fsqBudget_B (budgetOf us ppm)
  let s := if allowTerm us ppm < calAllowance us ppm then produceClamp s ⟨1, 3, allowTerm us ppm, calAllowance us ppm⟩ else s
  cfgWaiting s

/-- Fields 2 to 5 come into force. -/
def applyTickFields (s : State) : State := [2, 3, 4, 5].foldl applyField s

/-- Fields 6 and 7 come into force, at a reset of the host interface (R445). -/
def applyHostFields (s : State) : State := [6, 7].foldl applyField s

/-- At a swap: fields 0 and 1, where a commit has left either different from its value in force (R445). -/
def applyAtSwap (s : State) : State :=
  if cfgCommitted s 0 ≠ cfgForce s 0 ∨ cfgCommitted s 1 ≠ cfgForce s 1 then applySwapFields s else s

/-- The committed fields set. -/
def putCommitted (s : State) (vs : List Nat) : State := ((List.range 8).zip vs).foldl (fun t x => fset t (Fld.rpmCfgCommit_VALUE x.1) x.2) s

/-- The committed fields. -/
def committedNow (s : State) : List Nat := (List.range 8).map (cfgCommitted s)

/-- At a tick fields 2 to 5 come into force; a commit in the same cycle waits for the next tick (R445). -/
def applyAtTick (s : State) : State :=
  match (thisCycle s).commit with
  | none => applyTickFields s
  | some (vs, cs) =>
    let t := applyTickFields (putCommitted { s with clamps := cs } vs)
    putCommitted { t with clamps := s.clamps } (committedNow s)

/-- A commit that is accepted (R443). -/
def acceptCommit (s : State) : State :=
  let is := List.range 8
  let clamps := is.filterMap (fun i =>
    let v := cfgTaken s i
    let c := cfgClamped i v
    if c = v then none else some ⟨i, if v < c then 1 else 2, v, c⟩)
  let map := ofBits (is.map (fun i => decide (cfgClamped i (cfgTaken s i) ≠ cfgTaken s i)))
  let t := putCommitted { s with clamps := clamps } (is.map (fun i => cfgClamped i (cfgTaken s i)))
  cfgWaiting (fset (fset t Fld.rpmCfgCmd_RESULT 0) Fld.rpmCfgClampmap_FIELD map)

/-- A commit is refused: field 0 or 1 would change while an image is pending (R444). -/
def commitRefused (s : State) : Bool :=
  decide (fget s Fld.fsqStatus_PENDING ≠ 0)
    && (decide (cfgClamped 0 (cfgTaken s 0) ≠ cfgCommitted s 0) || decide (cfgClamped 1 (cfgTaken s 1) ≠ cfgCommitted s 1))

/-- While no frame runs, the fields take effect at once, 0 and 1 only with no image active (R445). -/
def applyAtRest (s : State) : State :=
  if runOn s then s
  else
    let s := applyTickFields s
    if fon s Fld.fsqStatus_ACTIVEVALID then s else applySwapFields s

/-- A write of COMMIT, by either master; commits of one cycle form one commit (R443 to R445, R447). -/
def execConfigCommit (s : State) : Res :=
  whenever (serving s && (thisCycle s).commit.isNone) s
    (modCycle (if commitRefused s then fset s Fld.rpmCfgCmd_RESULT 1 else applyAtRest (acceptCommit s))
      (fun c => { c with commit := some (committedNow s, s.clamps) }))

end Sys2Proof.Machine
end

