-- ==== Sys2Proof/Machine/Crypto.lean ====
section
/-! DEFINITION. The standard algorithms that the spec names: SHA-256, ECDSA verification over P-256 (R27, R428, R431, R525), CRC-32C (R362). Their constants come from the standards. PRESUMED (log entry 20). -/

namespace Sys2Proof.Machine

/-! ### SHA-256 -/

/-- The largest `r` below `2^n` whose power `k` is at most `x`, found bit by bit. -/
def rootBits (k x : Nat) : Nat → Nat → Nat
  | 0, r => r
  | n + 1, r => if (r + 2 ^ n) ^ k ≤ x then rootBits k x n (r + 2 ^ n) else rootBits k x n r

/-- Whether no number from 2 up to `k` divides `n`. -/
def undivided (n : Nat) : Nat → Bool
  | 0 => true
  | 1 => true
  | k + 1 => decide (n % (k + 1) ≠ 0) && undivided n k

/-- The primes below 312, of which there are 64. -/
def shaPrimes : List Nat := (List.range 312).filter (fun p => decide (2 ≤ p) && undivided p (p - 1))

/-- The first 32 bits of the fractional part of the `k`-th root of a number below 2^9. -/
def rootFraction (k p : Nat) : Nat := rootBits k (p * 2 ^ (32 * k)) 42 0 % 2 ^ 32

/-- The round constants of SHA-256: from the cube roots of the first 64 primes. -/
def shaK : List Nat := shaPrimes.map (rootFraction 3)

/-- The eight working words of SHA-256. -/
structure Sha where
  a : Word
  b : Word
  c : Word
  d : Word
  e : Word
  f : Word
  g : Word
  h : Word
  deriving DecidableEq, Repr

/-- Working words from numbers. -/
def Sha.of (xs : List Nat) : Sha :=
  let w (i : Nat) : Word := BitVec.ofNat 32 (xs.getD i 0)
  ⟨w 0, w 1, w 2, w 3, w 4, w 5, w 6, w 7⟩

/-- The initial hash value: from the square roots of the first eight primes. -/
def Sha.init : Sha := Sha.of ((shaPrimes.take 8).map (rootFraction 2))

/-- One round with a constant and a schedule word. -/
def Sha.round (x : Sha) (k w : Word) : Sha :=
  let s1 := x.e.rotateRight 6 ^^^ x.e.rotateRight 11 ^^^ x.e.rotateRight 25
  let t1 := x.h + s1 + ((x.e &&& x.f) ^^^ (~~~x.e &&& x.g)) + k + w
  let s0 := x.a.rotateRight 2 ^^^ x.a.rotateRight 13 ^^^ x.a.rotateRight 22
  let t2 := s0 + ((x.a &&& x.b) ^^^ (x.a &&& x.c) ^^^ (x.b &&& x.c))
  ⟨t1 + t2, x.a, x.b, x.c, x.d + t1, x.e, x.f, x.g⟩

/-- The schedule word that follows a window of sixteen. -/
def shaNext (w : List Word) : Word :=
  let w1 := w.getD 1 0
  let w14 := w.getD 14 0
  (w14.rotateRight 17 ^^^ w14.rotateRight 19 ^^^ (w14 >>> 10)) + w.getD 9 0
    + (w1.rotateRight 7 ^^^ w1.rotateRight 18 ^^^ (w1 >>> 3)) + w.getD 0 0

/-- The rounds with the constants that are left, `w` holding the next sixteen schedule words. -/
def shaRounds (x : Sha) (w : List Word) : List Nat → Sha
  | [] => x
  | k :: ks => shaRounds (x.round (BitVec.ofNat 32 k) (w.getD 0 0)) (w.drop 1 ++ [shaNext w]) ks

/-- One block of 64 bytes. -/
def Sha.block (x : Sha) (bs : List Byte) : Sha :=
  let w := (List.range 16).map (fun i => BitVec.ofNat 32 (ofBe (sliceOf bs (4 * i) 4)))
  let y := shaRounds x w shaK
  ⟨x.a + y.a, x.b + y.b, x.c + y.c, x.d + y.d, x.e + y.e, x.f + y.f, x.g + y.g, x.h + y.h⟩

/-- A message with its padding. -/
def shaPad (bs : List Byte) : List Byte :=
  bs ++ [0x80#8] ++ List.replicate ((119 - bs.length % 64) % 64) 0#8 ++ beBytes 8 (8 * bs.length)

/-- SHA-256 of a message: 32 bytes, most significant word first. -/
def sha256 (bs : List Byte) : List Byte :=
  let p := shaPad bs
  let x := (chunkList 64 p (p.length / 64)).foldl Sha.block Sha.init
  [x.a, x.b, x.c, x.d, x.e, x.f, x.g, x.h].flatMap (fun w => beBytes 4 w.toNat)

/-! ### P-256 -/

/-- The field prime of P-256. -/
def p256P : Nat := 0xffffffff00000001000000000000000000000000ffffffffffffffffffffffff

/-- The order of the group. -/
def p256N : Nat := 0xffffffff00000000ffffffffffffffffbce6faada7179e84f3b9cac2fc632551

/-- The coefficient b of the curve; a is -3. -/
def p256B : Nat := 0x5ac635d8aa3a93e7b3ebbd55769886bc651d06b0cc53b0f63bce3c3e27d2604b

/-- The generator. -/
def p256G : Nat × Nat :=
  (0x6b17d1f2e12c4247f8bce6e563a440f277037d812deb33a0f4a13945d898c296,
   0x4fe342e2fe1a7f9b8ee7eb4a7c0f9e162bce33576b315ececbb6406837bf51f5)

/-- `x` to the power `e` modulo `m`, over `n` bits of `e`. -/
def powMod (m x e : Nat) : Nat → Nat
  | 0 => 1 % m
  | n + 1 =>
    let h := powMod m x (e / 2) n
    if e % 2 = 1 then h * h % m * x % m else h * h % m

/-- The inverse modulo a prime below 2^256. -/
def invMod (m x : Nat) : Nat := powMod m x (m - 2) 256

/-- A point of the curve; `none` is the point at infinity. -/
abbrev Point := Option (Nat × Nat)

/-- The sum of two points. -/
def pointAdd (a b : Point) : Point :=
  match a, b with
  | none, q => q
  | q, none => q
  | some (x, y), some (u, v) =>
    if x = u ∧ (y + v) % p256P = 0 then none
    else
      let l := if x = u then (3 * x * x + (p256P - 3)) * invMod p256P (2 * y) % p256P
               else (v + p256P - y) * invMod p256P ((u + p256P - x) % p256P) % p256P
      let z := (l * l + 2 * p256P - x - u) % p256P
      some (z, (l * ((x + p256P - z) % p256P) + p256P - y) % p256P)

/-- A multiple of a point, over `n` bits of `k`. -/
def pointMul (k : Nat) (q : Point) : Nat → Point
  | 0 => none
  | n + 1 =>
    let h := pointMul (k / 2) q n
    let d := pointAdd h h
    if k % 2 = 1 then pointAdd d q else d

/-- Whether coordinates name a point of the curve. -/
def onCurve (x y : Nat) : Bool :=
  decide (x < p256P) && decide (y < p256P) && decide (y * y % p256P = (x * x * x + (p256P - 3) * x + p256B) % p256P)

/-- Whether a signature, r then s, of a digest verifies under a public key, X then Y, each integer 32 bytes big-endian (R525). -/
def ecdsaVerify (key digest sig : List Byte) : Bool :=
  let x := ofBe (sliceOf key 0 32)
  let y := ofBe (sliceOf key 32 32)
  let r := ofBe (sliceOf sig 0 32)
  let s := ofBe (sliceOf sig 32 32)
  if onCurve x y && decide (0 < r) && decide (r < p256N) && decide (0 < s) && decide (s < p256N) then
    let w := invMod p256N s
    let u := ofBe digest * w % p256N
    let v := r * w % p256N
    match pointAdd (pointMul u (some p256G) 256) (pointMul v (some (x, y)) 256) with
    | none => false
    | some (z, _) => decide (z % p256N = r)
  else false

/-! ### CRC-32C -/

/-- One bit of the reflected polynomial of CRC-32C, `n` times. -/
def crcBits (c : Nat) : Nat → Nat
  | 0 => c
  | n + 1 => crcBits (if c % 2 = 1 then Nat.xor (c / 2) 0x82F63B78 else c / 2) n

/-- CRC-32C of bytes (R362). -/
def crc32c (bs : List Byte) : Nat :=
  Nat.xor (bs.foldl (fun c b => crcBits (Nat.xor c b.toNat) 8) 0xFFFFFFFF) 0xFFFFFFFF

end Sys2Proof.Machine
end

