-- ==== Sys2Proof/Machine/Descriptor.lean ====
section
/-! DEFINITION. Tensor descriptors and context-walk descriptors: their fields (Tables 08-1, 08-3), the checks of TDMK (R226, R228) and view addressing (R224). -/

namespace Sys2Proof.Machine

/-- The 64 bytes of a descriptor. -/
abbrev Td := List Byte

def Td.kind (d : Td) : Nat := fieldOf d 0 1
def Td.space (d : Td) : Nat := fieldOf d 1 1
def Td.elem (d : Td) : Nat := fieldOf d 2 1 % 16
def Td.widthField (d : Td) : Nat := fieldOf d 2 1 / 16
def Td.width (d : Td) : Nat := if d.widthField = 0 then 8 else d.widthField
def Td.rank (d : Td) : Nat := fieldOf d 3 1
def Td.flags (d : Td) : Nat := fieldOf d 4 2
def Td.isWrite (d : Td) : Bool := bitSet d.flags 0
def Td.overlap (d : Td) : Bool := bitSet d.flags 1
def Td.rowMajor (d : Td) : Bool := bitSet d.flags 2
def Td.facet (d : Td) : Nat := fieldOf d 6 1
def Td.arrByte (d : Td) : Nat := fieldOf d 7 1
def Td.rangeBase (d : Td) : Nat := fieldOf d 8 4
def Td.rangeLen (d : Td) : Nat := fieldOf d 0xC 4
def Td.base (d : Td) : Nat := fieldOf d 0x10 4
def Td.padVal (d : Td) : Nat := fieldOf d 0x14 4
def Td.extent (d : Td) (i : Nat) : Nat := fieldOf d (0x18 + 8 * i) 2
def Td.padLo (d : Td) (i : Nat) : Nat := fieldOf d (0x1A + 8 * i) 1
def Td.padHi (d : Td) (i : Nat) : Nat := fieldOf d (0x1B + 8 * i) 1
def Td.stride (d : Td) (i : Nat) : Int := signedOf 32 (fieldOf d (0x1C + 8 * i) 4)

/-- The arrival counter that an ARR byte enables. -/
def arrEnabled (b : Nat) : Option Nat := if 128 ≤ b then some (b % 64) else none

/-- Bytes of an element type (Table 08-2). -/
def elemSize (code : Nat) : Nat := [1, 1, 1, 2, 4, 4, 1].getD code 1

/-- Bytes of an element of a context walk by its UNIT (Table 08-3). -/
def unitSize (unit : Nat) : Nat := [128, 16384, 4].getD unit 1

/-- UNIT of a context walk. -/
def Td.unit (d : Td) : Nat := fieldOf d 3 1

/-- Element size e of a descriptor. -/
def Td.esize (d : Td) : Nat := if d.kind = 1 then unitSize d.unit else elemSize d.elem

/-- View extent of dimension `i`. -/
def Td.view (d : Td) (i : Nat) : Nat := d.padLo i + d.extent i + d.padHi i

/-- The number of view elements; a context walk has COUNT (R224, Table 08-3). -/
def Td.count (d : Td) : Nat :=
  if d.kind = 1 then fieldOf d 0x14 4 else (List.range d.rank).foldl (fun n i => n * d.view i) 1

/-- Σ r_i × STRIDE_i of view number `v` over `dims` dimensions from `i`, none for a pad element (R224). -/
def Td.offset (d : Td) : Nat → Nat → Nat → Option Int
  | 0, _, _ => some 0
  | dims + 1, i, v =>
    let vi := v % d.view i
    if vi < d.padLo i ∨ d.padLo i + d.extent i ≤ vi then none
    else (d.offset dims (i + 1) (v / d.view i)).map (fun x => x + ((vi - d.padLo i : Nat) : Int) * d.stride i)

/-- The byte address of view element `v`, none for a pad element (R224, R225). -/
def Td.addr (d : Td) (v : Nat) : Option Nat := (d.offset d.rank 0 v).map (fun x => ((d.base : Int) + d.esize * x).toNat)

/-- The bytes of a pad element. -/
def Td.padBytes (d : Td) : List Byte := leBytes d.esize d.padVal

/-! ### Owner tables (Table 13-7) -/

/-- The image of an owner table that is loaded. -/
def ownerImage (s : State) (t : Nat) : Option (List Byte) := mapFind s.owners t

/-- SHIFT of an owner table image. -/
def ownerShift (img : List Byte) : Nat := fieldOf img 2 1

/-- The length of the tensor of an owner table: ENTRIES × 2^SHIFT. -/
def tensorLength (img : List Byte) : Nat := fieldOf img 0 2 * 2 ^ ownerShift img

/-! ### The checks of TDMK -/

/-- Check 1, TD_FORMAT (Table 08-4). -/
def tdFormatBad (d : Td) : Bool :=
  decide (d.kind ≠ 0 ∧ d.kind ≠ 2) || decide ((if d.kind = 0 then 4 else 0) < d.space) || decide (6 < d.elem)
    || decide (d.rank = 0 ∨ 5 < d.rank) || decide (8 < d.widthField) || decide (8 ≤ d.flags) || bitSet d.arrByte 6
    || (List.range 5).any (fun i => if i < d.rank then decide (d.extent i = 0) else decide (fieldOf d (0x18 + 8 * i) 8 ≠ 0))
    || (if d.kind = 2 then decide (63 < d.facet) else if d.space = 2 then decide (47 < d.facet) else decide (d.facet ≠ 0))
    || decide (d.rangeLen = 0)

/-- Check 2, TD_RANGE. -/
def tdRangeBad (s : State) (lf : Nat) (d : Td) : Bool :=
  if d.kind = 2 then decide (tensorLength ((ownerImage s d.facet).getD []) < d.rangeBase + d.rangeLen)
  else
    match d.space with
    | 0 => !inFacet lf
    | 1 => !inData s d.rangeBase d.rangeLen
    | 2 => !inFacet d.facet
    | _ => decide (65536 < d.rangeBase + d.rangeLen)
where
  /-- The range lies below FMEM_USED of a logical facet. -/
  inFacet (f : Nat) : Bool := decide (d.rangeBase + d.rangeLen ≤ fmemUsed s f)

/-- Check 3, TD_ALIGN. -/
def tdAlignBad (d : Td) : Bool := decide (d.base % d.esize ≠ 0 ∨ d.rangeBase % d.esize ≠ 0 ∨ d.rangeLen % d.esize ≠ 0)

/-- The span in bytes of dimension `i`: (EXTENT − 1) × STRIDE × e. -/
def Td.span (d : Td) (i : Nat) : Int := ((d.extent i : Int) - 1) * d.stride i * d.esize

/-- Check 4, TD_FOOTPRINT. -/
def tdFootprintBad (d : Td) : Bool :=
  let lo := (List.range d.rank).foldl (fun x i => if d.span i < 0 then x + d.span i else x) (d.base : Int)
  let hi := (List.range d.rank).foldl (fun x i => if d.span i < 0 then x else x + d.span i) (d.base : Int) + d.esize - 1
  decide (lo < d.rangeBase) || decide ((d.rangeBase : Int) + d.rangeLen - 1 < hi)

/-- The non-overlap test (R226). -/
def tdOverlaps (d : Td) : Bool :=
  let dims := sortBy (fun i => (d.stride i).natAbs) ((List.range d.rank).filter (fun i => decide (1 < d.extent i)))
  (dims.foldl (fun (x : Nat × Bool) i =>
    let a := (d.stride i).natAbs
    (x.1 + (d.extent i - 1) * a, x.2 || decide (a < x.1))) (1, false)).2

/-- Check 7: a context-walk descriptor breaks Table 08-3 (R228). -/
def walkBad (d : Td) : Bool :=
  let fmt := fieldOf d 0xA 1
  decide (d.space ≠ 0 ∨ 2 < d.unit ∨ 3 < d.facet ∨ d.count = 0) || decide (fmt ≠ 0 ∧ ¬(d.unit = 1 ∧ d.isWrite = true)) || decide (2 < fmt)
    || decide (fieldOf d 2 1 ≠ 0 ∨ 2 ≤ d.flags ∨ fieldOf d 0xB 1 ≠ 0 ∨ fieldOf d 0xE 2 ≠ 0 ∨ fieldOf d 0x18 40 ≠ 0) || bitSet d.arrByte 6

/-- The code of the first check that fails, 0 when all pass (R226, R228, Table 08-4). -/
def tdCheck (s : State) (lf : Nat) (d : Td) : Nat :=
  if d.kind = 1 then (if walkBad d then 7 else 0)
  else if tdFormatBad d then 1
  else if d.kind = 2 ∧ (ownerImage s d.facet).isNone then 6
  else if tdRangeBad s lf d then 2
  else if tdAlignBad d then 3
  else if tdFootprintBad d then 4
  else if d.isWrite && !d.overlap && tdOverlaps d then 5
  else 0

/-- The descriptor that a handle of a facet holds. -/
def tdOf (s : State) (lf h : Nat) : Option Td := if h < 64 then mapFind (facetOf s lf).tds h else none

/-- A handle of a facet set or made invalid. -/
def setTd (s : State) (lf h : Nat) (d : Option Td) : State :=
  modFacet s lf (fun f => { f with tds := match d with
    | none => mapDel f.tds h
    | some x => mapPut f.tds h x })

/-! ### View elements in memory -/

/-- The byte addresses of view elements `first` to `first + n - 1`. -/
def viewAddrs (d : Td) (first n : Nat) : List Nat :=
  (List.range n).flatMap (fun i => match d.addr (first + i) with
    | none => []
    | some a => span a d.esize)

/-! ### Block-list entries (Table 08-5) -/

def BEntry.op (b : BEntry) : Nat := fieldOf b.raw 0 1
def BEntry.hasGroup (b : BEntry) : Bool := bitSet (fieldOf b.raw 1 1) 0
def BEntry.xform (b : BEntry) : Nat := fieldOf b.raw 2 1
def BEntry.xarg (b : BEntry) : Nat := fieldOf b.raw 3 1
def BEntry.srcFirst (b : BEntry) : Nat := fieldOf b.raw 8 4
def BEntry.dstFirst (b : BEntry) : Nat := fieldOf b.raw 0xC 4
def BEntry.count (b : BEntry) : Nat := fieldOf b.raw 0x10 4
def BEntry.group (b : BEntry) : Nat := fieldOf b.raw 0x14 2
def BEntry.link (b : BEntry) : Nat := fieldOf b.raw 0x18 4
def BEntry.srcTd (b : BEntry) : Td := b.src.getD []
def BEntry.dstTd (b : BEntry) : Td := b.dst.getD []

/-- The arrival counter that a block names: the entry's own, else its destination descriptor's (R237). -/
def BEntry.arr (b : BEntry) : Option Nat :=
  match arrEnabled (fieldOf b.raw 6 1) with
  | some i => some i
  | none => arrEnabled b.dstTd.arrByte

/-- The facet memory that a SPACE 0 or SPACE 2 descriptor of a stream names. -/
def Td.memFacet (d : Td) (own : Nat) : Nat := if d.space = 2 then d.facet else own

/-- The context of a stream. -/
def Stream.who (x : Stream) : Who := ⟨x.lf, x.ctx⟩

/-- The quadrant of a stream engine. -/
def engineQuad (e : Nat) : Nat := if e < 48 then quadOf e else e - 48

end Sys2Proof.Machine
end

