-- ==== Sys2Proof/Machine/Packet.lean ====
section
/-! DEFINITION. Chord packets: their headers (Table 13-6), routing (R372), the transmit queues, and the leaves of Merge jobs that records and ends reach (R130, R131, R143). -/

namespace Sys2Proof.Machine

/-- A port is ACTIVE (Table 13-2). -/
def portActive (s : State) (p : Nat) : Bool := decide (p < 8) && decide (fget s (Fld.chdPState_STATE p) = 5)

/-- The chip identifier of the part (R360). -/
def chipId (s : State) : Nat := fget s Fld.chdChipid_CHIP

/-- The port on which a packet for a chip leaves: its route entry is valid and names an ACTIVE port (R372). -/
def routePort (s : State) (dst : Nat) : Option Nat :=
  if fon s (Fld.chdRoute_VALID dst) && portActive s (fget s (Fld.chdRoute_PORT dst)) then some (fget s (Fld.chdRoute_PORT dst)) else none

/-- The virtual channel that an OP fixes (Table 13-5). -/
def vcOf (op : Nat) : Nat := if op = 2 then 0 else if op = 3 then 2 else 1

/-- A packet header (Table 13-6). -/
def packetHead (op dst src hops len tag addr length : Nat) : List Byte :=
  leBytes 1 op ++ leBytes 1 dst ++ leBytes 1 src ++ leBytes 1 (hops * 32 + vcOf op) ++ leBytes 2 len ++ leBytes 2 tag ++ leBytes 4 addr
    ++ leBytes 4 length

/-- Whose packet it is: the engine, transfer and task that sent it. -/
structure Origin where
  engine : Nat
  transfer : Nat
  task : Nat
  lf : Nat
  ctx : Nat
  deriving DecidableEq, Repr

/-- An origin that is no task: answers and the ends of streams. -/
def Origin.none : Origin := ⟨64, 0, 0xFFFF, 64, 0⟩

/-- A packet queued on a port. -/
def queueOn (s : State) (p : Nat) (bytes : List Byte) (vc : Nat) (forwarded : Bool) (mcast : Option Nat) (o : Origin) : State :=
  modPort s p (fun x => { x with txq := x.txq ++ [⟨bytes, vc, s.now, forwarded, mcast, o.engine, o.transfer, o.task, o.lf, o.ctx⟩] })

/-- Counts an event on `CHD_CNT_DROP` and sets `CHD_ERR.DROP`. -/
def chordDrop (s : State) : State := event s Fld.chdErr_DROP Fld.chdCntDrop_COUNT

/-! ### Merge jobs and their leaves -/

/-- The PRODUCERS word of a job. -/
def Job.producers (j : Job) : Nat := fieldOf j.desc 8 8

def Job.payload (j : Job) : Nat := fieldOf j.desc 4 2

/-- A leaf of a job. -/
def Job.leaf (j : Job) (l : Nat) : Leaf := mapGet j.leaves l .empty

/-- The job with a leaf changed. -/
def Job.setLeaf (j : Job) (l : Nat) (f : Leaf → Leaf) : Job := { j with leaves := mapPut j.leaves l (f (j.leaf l)) }

/-- Every leaf in PRODUCERS has ended (R142). -/
def Job.allEnded (j : Job) : Bool := (List.range 64).all (fun l => !bitSet j.producers l || (j.leaf l).ended)

/-- The records of a job in the tree. -/
def Job.records (j : Job) : Nat := ((j.leaves.map (fun l => l.2.recs.length)) ++ (j.nodes.map (fun n => n.2.length))).sum

/-- The records in the Merge tree. -/
def treeRecords (s : State) : Nat := (s.jobs.map (fun j => j.2.records)).sum

/-- A context has no part in a job any more. -/
def Ctx.leaveJob (c : Ctx) (n : Nat) : Ctx := { c with mergeJobs := c.mergeJobs.filter (· ≠ n) }

/-- The contexts of the chosen facets have no part in a job any more. -/
def leaveJob (s : State) (n : Nat) (which : Nat → Bool) : State :=
  { s with facets := s.facets.map (fun f => if which f.1 then (f.1, { f.2 with ctxA := f.2.ctxA.leaveJob n, ctxB := f.2.ctxB.leaveJob n }) else f) }

/-- A job number is free (R144, R335). -/
def freeJob (s : State) (n : Nat) : State := leaveJob { s with jobs := mapDel s.jobs n } n (fun _ => true)

/-- A job is changed; a closing job whose producers have all ended is then free (R144). -/
def setJob (s : State) (n : Nat) (j : Job) : State :=
  if j.closing && j.allEnded then freeJob s n else { s with jobs := mapPut s.jobs n j }

/-- A leaf's part in a job ends (R131); `aborted` sets INPUT_ABORTED (R143, R385). -/
def endLeaf (s : State) (n l : Nat) (aborted : Bool) : State :=
  match mapFind s.jobs n with
  | none => s
  | some j =>
    if (j.leaf l).ended then s
    else leaveJob (setJob s n { (j.setLeaf l (fun x => { x with ended := true })) with aborted := j.aborted || aborted }) n (fun f => decide (f = l))

/-- The leaf that a stream engine of this chip feeds: a facet's own, or that of its quadrant engine (Table 05-2). -/
def engineLeaf (e : Nat) : Nat := if e < 48 then e else 56 + (e - 48)

/-- A MERGE_END for a job, to one chip: sent, or performed here (R385). -/
def sendMergeEnd (s : State) (e chip job : Nat) (aborted : Bool) : State :=
  if chip = chipId s then endLeaf s job (engineLeaf e) aborted
  else
    match routePort s chip with
    | none => chordDrop s
    | some p => queueOn s p (packetHead 6 chip (chipId s) 7 0 0 (job % 16 + (if aborted then 2 ^ 31 else 0)) 0) 1 false none .none

/-- The ends that the results of a job owe to the jobs they fed, here in their turn after the records (R385). -/
def resultEnds (s : State) (j : Job) (aborted : Bool) : State :=
  j.fed.foldl (fun s x =>
    if x.1 = chipId s then { s with leafItems := s.leafItems ++ [⟨j.lf, x.2, none, aborted⟩] } else sendMergeEnd s j.lf x.1 x.2 aborted) s

/-- 16-byte units of a packet. -/
def packetUnits (p : List Byte) : Nat := p.length / 16

/-- A packet received on a port has been performed or forwarded: its credits are owed to the sender (R367). -/
def oweCredits (s : State) (p : Nat) (bytes : List Byte) : State :=
  modPort s p (fun x => { x with owed := updAt x.owed (vcOf (fieldOf bytes 0 1)) (· + packetUnits bytes) })

/-- The ends that a stream owes to the jobs it fed (R385). -/
def streamEnds (s : State) (e : Nat) (st : Stream) (aborted : Bool) : State :=
  st.fed.foldl (fun s x => sendMergeEnd s e x.1 x.2 aborted) s

end Sys2Proof.Machine
end

