-- ==== Sys2Proof/Machine/Flight.lean ====
section
/-! DEFINITION. Accesses in flight (R524): the bytes of facet memories that the commands, transfers, loads and stores of a context write and read, and the sets of them that channels wait for. -/

namespace Sys2Proof.Machine

/-- The two stream engines that a logical facet's tasks use. -/
def enginesOf (lf : Nat) : List Nat := [lf, 48 + quadOf lf]

/-- Whether a transfer belongs to a context. -/
def Transfer.of (t : Transfer) (w : Who) : Bool := decide (t.lf = w.lf) && decide (t.ctx = w.ctx)

/-- Whether a stream belongs to a context. -/
def Stream.of (x : Stream) (w : Who) : Bool := decide (x.lf = w.lf) && decide (x.ctx = w.ctx)

/-- The number of a context. -/
def whoNum (w : Who) : Nat := 2 * w.lf + w.ctx

/-! ### What a command accesses in its facet's memory -/

/-- The bytes of one converted element, 0 for an undefined code (Table 11-3). -/
def convSize (conv : Nat) : Nat := [4, 1, 4, 2, 4, 2, 1, 1].getD conv 0

/-- Bytes of a VCVT source element (Table 11-4). -/
def cvtIn (sel : Nat) : Nat := [4, 2, 4, 4, 1, 1, 4, 1].getD sel 4

/-- Bytes of a VCVT result element (Table 11-4). -/
def cvtOut (sel : Nat) : Nat := [2, 4, 1, 1, 4, 4, 1, 4].getD sel 4

/-- Bytes of one vector or group of a source: 512, or 128 elements of VCVT's source size. -/
def vecInBytes (op : VOp) (sel : Nat) : Nat :=
  match op with
  | .cvt => 128 * cvtIn sel
  | _ => 512

/-- Bytes of one result: 512, 4 for VRED, or 128 elements of VCVT's result size. -/
def vecOutBytes (op : VOp) (sel : Nat) : Nat :=
  match op with
  | .red => 4
  | .cvt => 128 * cvtOut sel
  | _ => 512

/-- Whether an operation has an operand B. -/
def usesB (op : VOp) : Bool :=
  match op with
  | .add => true
  | .max => true
  | .fma => true
  | _ => false

/-- Whether an operation reads its destination: VFMA without NOADD. -/
def readsD (op : VOp) (v : VecArgs) : Bool := decide (op = .fma) && !v.noadd

/-- The facet's Lattice runs two halves (R69). -/
def halves (s : State) (w : Who) : Bool := (facetOf s w.lf).split

/-- The number of accumulator columns that a context's commands use. -/
def colCount (s : State) (w : Who) : Nat := if halves s w then 64 else 128

/-- The block of a query, as its command has read it or would. -/
def ECmd.block (c : ECmd) (s : State) (w : Who) (addr : Word) : List Byte := (c.todo.head?).getD (facetRead s w.lf addr.toNat 32)

/-- The header of the weight set that a query names (Table 05-6). -/
def querySet (s : State) (b : List Byte) : List Byte := memReadN s.sts (fieldOf b 0 4) 64

/-- The ranges of facet memory that a command writes, as (first byte, length) pairs. -/
def ECmd.writesTo (s : State) (w : Who) (c : ECmd) : List (Nat × Nat) :=
  match c.op with
  | .tdmk _ _ h => [(64 * h, 64)]
  | .tdrl h => [(64 * h, 64)]
  | .drain a _ _ rows conv => [(a.toNat, rows * colCount s w * convSize conv)]
  | .vec op v dv _ _ => if v.dacc then [] else [(dv.toNat, v.count * vecOutBytes op v.sel)]
  | .query a => let b := c.block s w a; [(fieldOf b 8 4, 48 + 2 * fieldOf (querySet s b) 2 2)]
  | _ => []

/-- The ranges of facet memory that a command reads, as (first byte, length) pairs. -/
def ECmd.readsFrom (s : State) (w : Who) (c : ECmd) : List (Nat × Nat) :=
  match c.op with
  | .tdmk fromSts a _ => if fromSts then [] else [(a.toNat, 64)]
  | .drain _ _ sc _ conv => if conv = 1 then [(sc.toNat, 4 * colCount s w)] else []
  | .fill a _ rows _ => [(a.toNat, rows * colCount s w * 4)]
  | .vec op v dv av bv =>
    (if v.aacc then [] else [(av.toNat, v.count * vecInBytes op v.sel)])
      ++ (if usesB op && !v.bacc then [(bv.toNat, (if v.bbc then 1 else v.count) * 512)] else [])
      ++ (if readsD op v && !v.dacc then [(dv.toNat, v.count * 512)] else [])
  | .mgpush _ a n j => [(a.toNat, n.toNat * (16 + ((mapFind s.jobs j).map (·.payload)).getD 0))]
  | .mgopen a => [(a.toNat, 64)]
  | .query a =>
    let b := c.block s w a
    let h := querySet s b
    [(a.toNat, 32), (fieldOf b 4 4, 2 * fieldOf h 0 2 * fieldOf b 0xE 1)] ++ (if bitSet (fieldOf b 0xD 1) 0 then [(fieldOf b 8 4, 48 + 2 * fieldOf h 2 2)] else [])
  | .prefetch a => [(a.toNat, 32)]
  | .upsign a => [(a.toNat, 32)]
  | .upvote a => [(a.toNat, 32)]
  | _ => []

/-- The elements of its block that a transfer moves at one of its descriptors. -/
def blockAddrs (d : Td) (first n : Nat) : List Nat := viewAddrs d first (min n (d.count - first))

/-- The bytes of a logical facet's memory that a transfer writes: those it holds, or while they are not complete those of its block. -/
def Transfer.writesAt (t : Transfer) (lf : Nat) : List Nat :=
  if t.dest = .fmem lf then t.writes.map (·.1) ++ (if t.late then blockAddrs t.ent.dstTd t.ent.dstFirst t.ent.count else []) else []

/-- The bytes of a logical facet's memory that a transfer reads. -/
def Transfer.readsAt (t : Transfer) (lf : Nat) : List Nat :=
  let d := t.ent.srcTd
  if d.kind = 0 ∧ (d.space = 0 ∨ d.space = 2) ∧ d.memFacet t.lf = lf then blockAddrs d t.ent.srcFirst t.ent.count else []

/-! ### Sets of accesses -/

/-- Some bytes meet one of some ranges. -/
def meetsRange (rs : List (Nat × Nat)) (a n : Nat) : Bool := rs.any (fun r => decide (a < r.1 + r.2) && decide (r.1 < a + n))

/-- The accesses of a context in flight that write, or read, some ranges of a logical facet's memory (R524). -/
def flightAt (s : State) (w : Who) (isWrite : Bool) (lf : Nat) (rs : List (Nat × Nat)) : Flight :=
  let own := decide (w.lf = lf)
  let cmdHit (c : ECmd) : Bool := own && (if isWrite then c.writesTo s w else c.readsFrom s w).any (fun r => meetsRange rs r.1 r.2)
  let moveHit (t : Transfer) : Bool := t.of w && (if isWrite then t.writesAt lf else t.readsAt lf).any (fun a => meetsRange rs a 1)
  let narrowHit (x : Narrow) : Bool := own && decide (x.isWrite = isWrite) && meetsRange rs x.addr 4
  { cmds := ((ctxOf s w).cmds.filter cmdHit).map (fun c => (whoNum w, c.seq))
    transfers := (enginesOf w.lf).flatMap (fun e => ((engineOf s e).transfers.filter moveHit).map (fun t => (e, t.id)))
    storeAt := ((ctxOf s w).narrow.filter narrowHit).foldl (fun n x => max n x.doneAt) s.now }

/-- Every write that a context has in flight (R276, R524). -/
def flightWrites (s : State) (w : Who) : Flight :=
  let writes (c : ECmd) : Bool := !(c.writesTo s w).isEmpty || decide (c.queue = .upd)
  { cmds := ((ctxOf s w).cmds.filter writes).map (fun c => (whoNum w, c.seq))
    transfers := (enginesOf w.lf).flatMap (fun e => ((engineOf s e).transfers.filter (·.of w)).map (fun t => (e, t.id)))
    storeAt := ((ctxOf s w).narrow.filter (·.isWrite)).foldl (fun n x => max n x.doneAt) s.now }

/-- Two sets of accesses in flight together. -/
def Flight.both (a b : Flight) : Flight := ⟨a.cmds ++ b.cmds, a.transfers ++ b.transfers, max a.storeAt b.storeAt⟩

/-- No access in flight. -/
def Flight.none (s : State) : Flight := ⟨[], [], s.now⟩

/-- What is still in flight of some accesses; the cycle in which the last of the others was performed or discarded is kept. -/
def Flight.left (s : State) (f : Flight) : Flight :=
  let cs := f.cmds.filter (fun c => (ctxOf s ⟨c.1 / 2, c.1 % 2⟩).cmds.any (fun x => x.seq = c.2))
  let ts := f.transfers.filter (fun t => (engineOf s t.1).transfers.any (fun x => x.id = t.2))
  if cs.length = f.cmds.length ∧ ts.length = f.transfers.length then f else ⟨cs, ts, max f.storeAt s.now⟩

/-- The accesses that the channels wait for, after some were performed or discarded (R524). -/
def settleFlights (s : State) : State :=
  { s with chans := s.chans.map (fun c =>
      (c.1, { c.2 with deferred := c.2.deferred.map (fun d => { d with flight := d.flight.left s }), prodHold := c.2.prodHold.map (·.left s) })) }

/-- Every access has been performed or discarded, in an earlier cycle. -/
def flightDone (s : State) (f : Flight) : Bool := f.cmds.isEmpty && f.transfers.isEmpty && decide (f.storeAt < s.now)

end Sys2Proof.Machine
end

