-- ==== Sys2Proof/Machine/Chan.lean ====
section
/-! DEFINITION. What the events of a channel do to it: reservations, commits, rewinds, visibility, releases, and a flush, which goes before every other event of its cycle (R265 to R276). -/

namespace Sys2Proof.Machine

/-- The key of a channel entry. -/
def ChanEntry.key (e : ChanEntry) : Nat := e.consumer * 32 + e.index

/-- The slot address of a reservation (R265). -/
def slotAddr (e : ChanEntry) (n : Nat) : Nat :=
  (if n % 2 = 0 then e.bankA else e.bankB) + e.slotBytes * (n / 2 % e.slots)

/-- The banks of a channel, as (first byte, length) pairs. -/
def banksOf (e : ChanEntry) : List (Nat × Nat) := [(e.bankA, e.slots * e.slotBytes), (e.bankB, e.slots * e.slotBytes)]

/-- The slots of some reservations, as (first byte, length) pairs. -/
def slotsOf (e : ChanEntry) (ns : List Nat) : List (Nat × Nat) := ns.map (fun n => (slotAddr e n, e.slotBytes))

/-- The fill counts of the open slots that a task's writes fall into: reservation by reservation, the bytes performed inside its slot (R267). -/
def countFill (s : State) (task lf : Nat) (as : List Nat) : State :=
  (chanDecls s).foldl (fun s e =>
    let hit (r : Reservation) (a : Nat) : Bool := decide (slotAddr e r.n ≤ a) && decide (a < slotAddr e r.n + e.slotBytes)
    let c := chanOf s e.key
    if e.prodTask = task ∧ e.consumer = lf ∧ as.any (fun a => c.res.any (fun r => hit r a)) then
      let c' : Chan := { c with res := c.res.map (fun r => if as.any (hit r) then { r with fill := r.fill + (as.filter (hit r)).length, lastAt := s.now } else r) }
      { s with chans := mapPut s.chans e.key c' }
    else s) s

/-! ### Events -/

/-- Open reservations without a commit are voided once every commit has arrived, their credits owed when the writes in flight are over (R269, R276). -/
def chanProducerGone (c : Chan) : Chan :=
  match c.prodEnded, c.commits, c.prodHold with
  | true, [], some f =>
    let n := (c.res.filter (fun r => r.len.isNone)).length
    if n = 0 then c
    else { c with res := c.res.filter (fun r => r.len.isSome), next := c.next - n, pushed := c.pushed - n
                  deferred := c.deferred ++ [⟨n, false, f⟩] }
  | _, _, _ => c

/-- An event that finds nothing to act on (R273). -/
def voidEvent (c : Chan) : Chan := { c with void := c.void + 1 }

/-- A rewind at its channel: every open reservation voided, their credits owed once the producer's writes into their slots are over (R269). -/
def rewindAt (f : Flight) (c : Chan) : Chan :=
  match c.res with
  | [] => voidEvent c
  | r :: _ =>
    { c with res := [], next := r.n, pushed := c.pushed - c.res.length, rewinds := c.rewinds + 1
             deferred := if c.sink then c.deferred else c.deferred ++ [⟨c.res.length, false, f⟩] }

/-- A commit at its channel: the oldest reservation without one takes it; in a sink its packet is voided (R268, R276). -/
def commitAt (now len : Nat) (c : Chan) : Chan :=
  if !c.res.any (fun r => r.len.isNone) then voidEvent c
  else if c.sink then { c with res := dropFirst (fun r => r.len.isNone) c.res }
  else
    match firstIdx (fun r => r.len.isNone) c.res with
    | none => c
    | some i => { c with res := updAt c.res i (fun r => { r with len := some len, lastAt := now }) }

/-- The oldest reservation becomes a visible packet (R268). -/
def visibleAt (c : Chan) : Chan :=
  match c.res with
  | [] => c
  | r :: rest =>
    match r.len with
    | none => c
    | some l => { c with res := rest, visible := c.visible ++ [(r.n, l)], committed := c.committed + 1, lastLen := l }

/-- The oldest visible packet is acquired (R270). -/
def acquireAt (c : Chan) : Chan :=
  match c.visible with
  | [] => c
  | p :: r => { c with visible := r, acquired := c.acquired ++ [p], nacquired := c.nacquired + 1 }

/-- The oldest acquired packet is released, its credit owed once the consumer's reads from its slot are over (R271). -/
def releaseAt (f : Flight) (c : Chan) : Chan :=
  match c.acquired with
  | [] => voidEvent c
  | _ :: r => { c with acquired := r, released := c.released + 1, deferred := c.deferred ++ [⟨1, false, f⟩] }

/-- The next slot is reserved (R265). -/
def reserveAt (now : Nat) (c : Chan) : Chan := { c with res := c.res ++ [⟨c.next, 0, none, now⟩], next := c.next + 1, pushed := c.pushed + 1 }

/-- The reservations that are left are voided (R276). -/
def voidRest (c : Chan) : Chan := { c with res := [], next := (c.res.map (·.n)).headD c.next, pushed := c.pushed - c.res.length }

/-- What an event does to its channel in the cycle `now`. -/
def chanApply (now : Nat) (c : Chan) : ChanEvent → Chan
  | .reserve => reserveAt now c
  | .commit len => chanProducerGone (commitAt now len c)
  | .rewind f => chanProducerGone (rewindAt f c)
  | .visible => visibleAt c
  | .acquire => acquireAt c
  | .release f => releaseAt f c
  | .voidRest => voidRest c

/-- The channels' events of a cycle with one more: the channel as it stood before the first, and its events. -/
def logChan (log : List (Nat × Chan × List ChanEvent)) (k : Nat) (was : Chan) (ev : ChanEvent) : List (Nat × Chan × List ChanEvent) :=
  if log.any (fun x => x.1 = k) then log.map (fun x => if x.1 = k then (x.1, x.2.1, x.2.2 ++ [ev]) else x) else log ++ [(k, was, [ev])]

/-- An event of a channel. -/
def chanEvent (s : State) (k : Nat) (ev : ChanEvent) : State :=
  modCycle (modChan s k (fun c => chanApply s.now c ev)) (fun y => { y with chans := logChan y.chans k (chanOf s k) ev })

/-! ### Flushes (R272, R273) -/

/-- A channel with the packets and counts that it had before the events of the cycle. -/
def beforeEvents (c was : Chan) : Chan :=
  { c with next := was.next, res := was.res, visible := was.visible, acquired := was.acquired, pushed := was.pushed, committed := was.committed
           nacquired := was.nacquired, released := was.released, rewinds := was.rewinds, void := was.void, lastLen := was.lastLen }

/-- Every reservation and packet voided, EMPTY owed its restoring (R272). -/
def flushAt (f : Flight) (c : Chan) : Chan :=
  { c with res := [], visible := [], acquired := [], committed := c.pushed, nacquired := c.pushed, released := c.pushed
           flushes := c.flushes + 1, deferred := [⟨0, true, f⟩] }

/-- A channel flushed before the other events of its cycle (R273). -/
def flushFirst (now : Nat) (log : List (Nat × Chan × List ChanEvent)) (k : Nat) (f : Flight) (c : Chan) : Chan :=
  match log.find? (fun x => x.1 = k) with
  | none => flushAt f c
  | some x => x.2.2.foldl (chanApply now) (flushAt f (beforeEvents c x.2.1))

/-- A flush: every reservation and packet voided with the posts on their way, FULL and EMPTY 0, EMPTY restored once the accesses in flight are over; the other events of the cycle find the channel flushed (R272, R273). -/
def chanFlush (s : State) (e : ChanEntry) (k : Nat) (f : Flight) : State :=
  let s := modChan s k (flushFirst s.now (thisCycle s).chans k f)
  let s := { s with semMsgs := s.semMsgs.filter (fun m => !(decide (m.op = .post) && (decide (m.sem = e.fullSem) || decide (m.sem = e.emptySem)))) }
  let s := modSem s e.fullSem (fun x => { x with count := 0 })
  modSem s e.emptySem (fun x => { x with count := 0 })

end Sys2Proof.Machine
end

