-- ==== Sys2Proof/Machine/Abort.lean ====
section
/-! DEFINITION. The end of a task: aborts and their cascade over declared consumers (R46), streams, Merge parts and channels that a task leaves behind (R143, R144, R233, R276). -/

namespace Sys2Proof.Machine

/-! ### Tasks of the frame -/

/-- The task of the frame with a TASK_ID. -/
def taskRec (s : State) (id : Nat) : Option TaskRec := s.seq.tasks.find? (fun t => t.entry.id = id)

/-- The records of the frame with one task's changed. -/
def modTask (s : State) (id : Nat) (f : TaskRec → TaskRec) : State :=
  modSeq s (fun q => { q with tasks := q.tasks.map (fun t => if t.entry.id = id then f t else t) })

/-- The context that runs tasks of a KIND (R54). -/
def ctxOfKind (k : Nat) : Nat := if k = 3 then 1 else 0

/-- The context that runs a task. -/
def TaskEntry.who (e : TaskEntry) : Who := ⟨e.lf, ctxOfKind e.kind⟩

/-- Whether a context runs a task. -/
def ctxBusy (s : State) (w : Who) : Bool := (ctxOf s w).task.isSome

/-- Tasks that the image declares as consumers of a task's output: its consume entries and its channels (R46, R263). -/
def consumersOf (i : Image) (id : Nat) : List Nat :=
  (i.consumes.filter (fun p => p.1 = id)).map (·.2) ++ (i.chans.filter (fun c => c.prodTask = id)).map (·.consTask)

/-- Every task reached from `front` through consumers, in order, without repeats. -/
def reached (i : Image) : Nat → List Nat → List Nat → List Nat
  | 0, seen, _ => seen
  | n + 1, seen, front =>
    let new := ((front.flatMap (consumersOf i)).filter (fun t => !seen.contains t)).eraseDups
    if new.isEmpty then seen else reached i n (seen ++ new) new

/-- The tasks that consume a task's output, directly or through further consumers. -/
def downstream (s : State) (id : Nat) : List Nat :=
  match s.seq.active with
  | none => []
  | some i => (reached i (i.tasks.length + 1) [id] [id]).filter (· ≠ id)

/-! ### Channels at a task's end (R276) -/

/-- The producer task of a channel ends. -/
def chanProducerEnd (s : State) (k : Nat) (f : Flight) : State :=
  modChan s k (fun c => chanProducerGone { c with prodEnded := true, prodHold := some f })

/-- The consumer task of a channel ends: the channel is flushed and becomes a sink, and a CHPUSH that waits is granted at once (R276). -/
def chanConsumerEnd (s : State) (e : ChanEntry) (k : Nat) (f : Flight) : State :=
  let s := chanFlush s e k f
  let s := modChan s k (fun c => { c with sink := true })
  let ws := (semOf s e.emptySem).waiters.filter (fun m => m.op = .push)
  let s := modSem s e.emptySem (fun x => { x with waiters := x.waiters.filter (fun m => m.op ≠ .push) })
  { s with grants := s.grants ++ ws.map (fun m => ⟨m.lf, m.ctx, m.task, .push, e.emptySem, 0, true, s.now⟩) }

/-- What the context that runs a task has in flight at some ranges of a facet's memory; nothing where no context runs it (R524). -/
def taskFlight (s : State) (id : Nat) (isWrite : Bool) (lf : Nat) (rs : List (Nat × Nat)) : Flight :=
  match taskRec s id with
  | none => Flight.none s
  | some t => if t.phase = .running then flightAt s t.entry.who isWrite lf rs else Flight.none s

/-- The writes that a channel's producer has in flight into some ranges of the consumer's memory: what it had when it ended, once it has (R269, R276). -/
def producerFlight (s : State) (c : Chan) (e : ChanEntry) (rs : List (Nat × Nat)) : Flight :=
  match c.prodHold with
  | some f => f
  | none => taskFlight s e.prodTask true e.consumer rs

/-- What a flush of a channel waits for: the producer's writes into the banks and the consumer's reads from them (R272). -/
def bankFlight (s : State) (e : ChanEntry) : Flight :=
  (producerFlight s (chanOf s e.key) e (banksOf e)).both (taskFlight s e.consTask false e.consumer (banksOf e))

/-- R276 for every channel of a task that ends; `old` is the state in which it still ran. -/
def chansEnd (old s : State) (id : Nat) : State :=
  let writes := match taskRec old id with
    | none => Flight.none s
    | some t => if t.phase = .running then (flightWrites old t.entry.who).left s else Flight.none s
  (chanDecls s).foldl (fun s e =>
    let s := if e.prodTask = id then chanProducerEnd s e.key writes else s
    if e.consTask = id then chanConsumerEnd s e e.key ((bankFlight old e).left s) else s) s

/-! ### Waits, streams, Merge parts -/

/-- The channels that a semaphore serves have new counts to record (R275). -/
def semDirty (s : State) (sem : Nat) : State :=
  ((chanDecls s).filter (fun e => decide (e.fullSem = sem) || decide (e.emptySem = sem))).foldl (fun s e => modChan s e.key id) s

/-- Whether a waiter is a CHPUSH of a sink, granted without a credit (R276). -/
def sinkPush (s : State) (m : SemMsg) : Bool :=
  decide (m.op = .push) && (chanDecls s).any (fun e => decide (e.emptySem = m.sem) && (chanOf s e.key).sink)

/-- A grant on its way back. -/
def grant (s : State) (m : SemMsg) (left : Nat) (took : Bool) : State :=
  { s with grants := s.grants ++ [⟨m.lf, m.ctx, m.task, m.op, m.sem, left, took, s.now + travel (quadOf m.lf) (m.sem / 1024)⟩] }

/-- The waiters served in order while the first one's count is there (R258); `fuel` is the number of waiters. -/
def serveWaiters (s : State) (sem : Nat) : Nat → State
  | 0 => s
  | fuel + 1 =>
    let x := semOf s sem
    match x.waiters with
    | [] => s
    | m :: r =>
      if sinkPush s m then serveWaiters (grant (modSem s sem (fun y => { y with waiters := r })) m x.count true) sem fuel
      else if m.n ≤ x.count then
        serveWaiters (grant (modSem s sem (fun _ => ⟨x.count - m.n, r⟩)) m (x.count - m.n) (decide (1 ≤ m.n))) sem fuel
      else s

/-- Waiters served. -/
def serve (s : State) (sem : Nat) : State := serveWaiters s sem (semOf s sem).waiters.length

/-- Whether a wait belongs to a context. -/
def SemMsg.of (m : SemMsg) (w : Who) : Bool := decide (m.lf = w.lf) && decide (m.ctx = w.ctx)

/-- A context's waits are withdrawn: messages on their way, places in line, grants on their way back. Posts stay, and waiters that stood behind a withdrawn one are served (R258, R261). -/
def withdrawWaits (s : State) (w : Who) : State :=
  let held := (s.sems.filter (fun e => e.2.waiters.any (·.of w))).map (·.1)
  let s := { s with
    semMsgs := s.semMsgs.filter (fun m => decide (m.op = .post) || !m.of w)
    grants := s.grants.filter (fun g => !(decide (g.lf = w.lf) && decide (g.ctx = w.ctx))) }
  held.foldl (fun s n => semDirty (serve (modSem s n (fun x => { x with waiters := x.waiters.filter (fun m => !m.of w) })) n) n) s

/-- The ends that the streams of a context on one engine owe are sent (R385). -/
def sendEnds (s : State) (w : Who) (aborted : Bool) (e : Nat) : State :=
  let mine := (engineOf s e).streams.filter (fun x => x.2.of w && !x.2.fed.isEmpty)
  let s := modEngine s e (fun g => { g with streams := g.streams.map (fun x => if x.2.of w then (x.1, { x.2 with fed := [] }) else x) })
  mine.foldl (fun s x => streamEnds s e x.2 aborted) s

/-- The open streams of a context on one engine close with a STATE: no further entry is fetched or started (R233). At TEND a stream that has reached its END entry is left to end by itself. -/
def closeStreams (s : State) (w : Who) (state : Nat) (e : Nat) : State :=
  modEngine s e (fun g => { g with streams := g.streams.map (fun x =>
    if x.2.of w && decide (x.2.state = 1) && (decide (state = 3) || !x.2.ended) then
      (x.1, { x.2 with state := state, entries := [], ended := true, endedAt := s.now }) else x) })

/-- Transfers of a context in flight are discarded (R233). -/
def dropTransfers (s : State) (w : Who) : State :=
  let s := (enginesOf w.lf).foldl (fun s e => modEngine s e (fun g => { g with transfers := g.transfers.filter (fun t => !t.of w) })) s
  let s := { s with reads := s.reads.filter (fun r => !(decide (r.2.lf = w.lf) && decide (r.2.ctx = w.ctx))) }
  { s with ports := s.ports.map (fun p => (p.1, { p.2 with txq := p.2.txq.filter (fun t =>
      t.forwarded || !(decide (t.lf = w.lf) && decide (t.ctx = w.ctx))) })) }

/-- The jobs that a context pushes to: those it has pushed to and not ended its part in, and those that its MGPUSH commands name. -/
def pushJobs (s : State) (w : Who) : List Nat :=
  ((ctxOf s w).mergeJobs ++ (ctxOf s w).cmds.filterMap (fun c => match c.op with
    | .mgpush _ _ _ n => some n
    | _ => none)).eraseDups

/-- The part of an aborted task in a job ends; where the job is not open yet, as it opens (R143). -/
def abortPush (s : State) (lf n : Nat) : State :=
  if (mapFind s.jobs n).isSome then endLeaf s n lf true else { s with earlyEnds := s.earlyEnds ++ [(n, lf)] }

/-- A job whose opener was aborted is closing: its records in the tree are discarded and counted, and the jobs that its results fed see its end (R144, R385). -/
def closeJob (s : State) (n : Nat) (j : Job) : State :=
  let j' := { j with closing := true, running := none, nodes := [], out := [], leaves := j.leaves.map (fun l => (l.1, { l.2 with recs := [] })) }
  resultEnds (setJob (bump s Fld.mrgCntDiscard_COUNT j.records) n j') j true

/-- The parts of a context in Merge jobs end, and the jobs it opened close (R143, R144). -/
def abortMerge (s : State) (w : Who) : State :=
  let s := (pushJobs s w).foldl (fun s n => abortPush s w.lf n) s
  let own := s.jobs.filter (fun j => decide (j.2.lf = w.lf) && decide (j.2.ctx = w.ctx) && !j.2.orphan && !j.2.closing)
  own.foldl (fun s j => closeJob s j.1 ((mapFind s.jobs j.1).getD j.2)) s

/-- A context's commands in the Predictor and the Update unit of its quadrant are discarded; a query that runs stops at once (R46, R155). -/
def dropUnits (s : State) (w : Who) : State :=
  let p := s.predictor
  let front := p.queue.head?.any (fun q => decide (q.lf = w.lf) && decide (q.ctx = w.ctx))
  let s := { s with predictor := { p with
    queue := p.queue.filter (fun q => !(decide (q.lf = w.lf) && decide (q.ctx = w.ctx)))
    running := if front && decide (p.running = some PredRun.query) then none else p.running } }
  { s with updates := s.updates.map (fun u => (u.1, u.2.filter (fun r => !(decide (r.lf = w.lf) && decide (r.ctx = w.ctx))))) }

/-- A running shadow check of a quadrant is abandoned (R476, R481). -/
def stopShadow (s : State) (q : Nat) : State :=
  if (shadowOf s q).running.isSome then bump (modShadow s q (fun x => { x with running := none })) Fld.calCntAbandon_COUNT 1 else s

/-- A running shadow check of a task is abandoned (R481). -/
def abandonShadow (s : State) (lf id : Nat) : State :=
  if (shadowOf s (quadOf lf)).running = some (lf, id) then stopShadow s (quadOf lf) else s

/-! ### Facet swaps (R459 to R462) -/

/-- The spare facet of a quadrant, unless it serves a swap already (R8, R470). -/
def spareFacet (s : State) (q : Nat) : Option Nat :=
  (List.range 13).map (13 * q + ·) |>.find? (fun f => decide (fget s (Fld.rpmFstate_STATE f) = 1) && s.repair.swaps.all (fun x => x.target ≠ f))

/-- The map of a logical facet changed; the facet memory it comes to holds unspecified values (R10, R165, R459, R463). -/
def setFacetMap (s : State) (lf pf : Nat) : State :=
  let s := bump (fset s (Fld.rpmFmap_PFACET lf) pf) Fld.rpmMapgen_GEN 1
  let s := drawn { s with masks := mapPut s.masks pf s.free }
  modSeq s (fun q => { q with repairFlag := true })

/-- A physical facet is retired for good (R470). -/
def retireFacet (s : State) (pf : Nat) : State := fset s (Fld.rpmFstate_STATE pf) 4

/-- The record of a logical facet without a physical one (R462). -/
def unmappedRec (s : State) (lf : Nat) : State := setFlag (errorRec s 3 0 lf 11 0xFFFF 0) Fld.rpmErr_SPAREOUT

/-- A logical facet loses its physical facet (R462). -/
def unmapFacet (s : State) (lf : Nat) : State := unmappedRec (setFacetMap s lf 0x3F) lf

/-- A swap of a failed facet starts: its quadrant's spare stops any shadow check and tests itself; with no spare the logical facet is unmapped (R459, R462, R481). -/
def startSwap (s : State) (lf : Nat) : State :=
  let pf := physOf s lf
  match spareFacet s (quadOf lf) with
  | none => unmapFacet (retireFacet s pf) lf
  | some t =>
    let s := stopShadow s (quadOf lf)
    let s := fset (fset s (Fld.cmpKat_RESULTFAIL t) 0) (Fld.cmpKat_TIMEFAIL t) 0
    let s := fset s (Fld.cmpStatus_STRUCT t) 1
    modSeq (modRepair s (fun r => { r with
      swaps := r.swaps ++ [⟨lf, pf, t, s.now, false⟩], pendingSwaps := r.pendingSwaps.filter (fun x => quadOf x.lf ≠ quadOf lf) }))
      (fun q => { q with repairFlag := true })

/-- Accesses addressed to a logical facet are held: its facet is isolated for a swap (R459). -/
def heldFacet (s : State) (lf : Nat) : Bool := s.repair.swaps.any (fun x => x.lf = lf)

/-- A facet was declared failed and its swap waits for a split half that still runs (R461). -/
def deferred (s : State) (lf : Nat) : Bool := s.repair.deferredFacets.contains (physOf s lf)

/-- Cycles that the repair intervals under way have lasted so far: what the watchdogs of running tasks are extended by (R457). -/
def repairTime (s : State) : Nat :=
  let lanes := (s.ports.map (fun p => match p.2.swap with | some x => s.now - x.2 | none => 0)).foldl (· + ·) 0
  s.repair.swaps.foldl (fun n x => n + (s.now - x.startAt))
    (lanes + (match s.repair.retrain with | some r => if r.urgent then s.now - r.startAt else 0 | none => 0))

/-- The watchdogs of the running tasks extended by a repair interval that ends (R457). -/
def extendWatchdogs (s : State) (len : Nat) : State :=
  { s with facets := s.facets.map (fun f => (f.1, { f.2 with
      ctxA := { f.2.ctxA with wdog := f.2.ctxA.wdog + len }, ctxB := { f.2.ctxB with wdog := f.2.ctxB.wdog + len } })) }

/-- A split-half task runs on a context of a facet. -/
def splitHalfRuns (s : State) (w : Who) : Bool :=
  match (ctxOf s w).task with
  | none => false
  | some id => ((taskRec s id).map (fun t => decide (2 ≤ t.entry.kind))).getD false

/-- When no split-half task of a facet runs any more, its Lattice returns to full-width mode, whatever else runs there (R69). -/
def leaveSplit (s : State) (lf : Nat) : State :=
  if (facetOf s lf).split && !splitHalfRuns s ⟨lf, 0⟩ && !splitHalfRuns s ⟨lf, 1⟩ then modFacet s lf (fun f => { f with split := false }) else s

/-- What follows when a context of a facet becomes free: split mode ends with the last half (R69), and a swap that waited for it starts (R461). -/
def facetFreed (s : State) (lf : Nat) : State :=
  let s := leaveSplit s lf
  if deferred s lf && !ctxBusy s ⟨lf, 0⟩ && !ctxBusy s ⟨lf, 1⟩ then
    startSwap (modRepair s (fun r => { r with deferredFacets := r.deferredFacets.filter (· ≠ physOf s lf) })) lf
  else s

/-! ### What a stopped command leaves written -/

/-- A prefix of a list, of a length left free by draw `n`. -/
def freePrefix {α : Type} (n : Nat) (xs : List α) : List α := xs.take ((Config.freeWord n).toNat % (xs.length + 1))

/-- The facet memory bytes that a started drain, vector command or running query writes, in order (R155, R240). -/
def ECmd.facetWrites (c : ECmd) : List (Nat × Byte) :=
  match c.started, c.op with
  | some _, .drain addr _ _ _ _ => laidAt addr.toNat c.image
  | some _, .vec _ v dv _ _ => if v.dacc then [] else laidAt dv.toNat c.image
  | some _, .query _ => laidAt (fieldOf (c.todo.headD []) 8 4 + 48) (c.image.drop 48) ++ laidAt (fieldOf (c.todo.headD []) 8 4) (c.image.take 48)
  | _, _ => []

/-- What a running Update command writes in the State Store, in ascending order: for each parameter its bytes, none where it holds −0 and stays as it is; for a vote the header, then each byte of codes (R341, R343). -/
def ECmd.storeUnits (c : ECmd) : List (List (Nat × Byte)) :=
  let b := c.todo.headD []
  match c.ready, c.op with
  | true, .upsign _ =>
    let z := if fieldOf b 2 1 = 0 then 2 else 4
    (chunkList z (laidAt (fieldOf b 8 4) c.image) c.image.length).map (fun u => if fieldOf (u.map (·.2)) 0 z = 2 ^ (8 * z - 1) then [] else u)
  | true, .upvote _ =>
    let ws := laidAt (fieldOf b 16 4) c.image
    ws.take 16 :: (ws.drop 16).map (fun x => [x])
  | _, _ => []

/-- The State Store bytes that a running Update command writes (R341). -/
def ECmd.storeWrites (c : ECmd) : List (Nat × Byte) := c.storeUnits.flatten

/-- A running Update command stops: a prefix of its elements, of a length that the spec leaves open, is written and counted; how many of them the clip bounded is free (R341, Table 12-7). -/
def stopUpdate (s : State) (w : Who) (c : ECmd) : State :=
  let us := freePrefix s.free c.storeUnits
  let clipped := (Config.freeWord (s.free + 1)).toNat % (min c.result2.toNat us.length + 1)
  let s := drawn (drawn (stsPut s (some (quadOf w.lf)) us.flatten))
  match c.op with
  | .upsign _ =>
    let kept := (us.filter List.isEmpty).length
    bump (bump (bump s Fld.updCntParams_COUNT (us.length - kept)) Fld.updCntMasked_COUNT kept) Fld.updCntClip_COUNT clipped
  | _ => s

/-- The writes of a context's MFILL or MCOPY. -/
def Wait.memWrites (x : Wait) : List (Nat × Byte) :=
  match x with
  | .memOp m => laidAt m.dst m.bytes
  | _ => []

/-- The bytes of a fill or copy in words of four (R311). -/
def memWords (ws : List (Nat × Byte)) : List (List (Nat × Byte)) := chunkList 4 ws ws.length

/-- The accumulator rows that a started command writes, as (first row, number of rows) pairs. -/
def ECmd.rowsWritten (c : ECmd) : List (Nat × Nat) :=
  match c.started, c.op with
  | some _, .lpass m base _ _ _ => [(base.toNat, m.toNat)]
  | some _, .fill _ row rows _ => [(row.toNat, rows)]
  | some _, .vec _ v dv _ _ => if v.dacc then [(dv.toNat, v.count)] else []
  | _, _ => []

/-- The buffers of the chosen halves of a facet hold unspecified values from here on (R55). -/
def renewBuffers (s : State) (lf : Nat) (a b : Bool) : State :=
  let gone (hi : Bool) : Bool := if hi then b else a
  drawn (drawn (modFacet s lf (fun f => { f with
    acc := f.acc.filter (fun e => !gone (decide (64 ≤ e.1 % 128))), wab := f.wab.filter (fun e => !gone (decide (32768 ≤ e.1)))
    stg := f.stg.filter (fun e => !gone (decide (32768 ≤ e.1)))
    epochA := if a then s.free else f.epochA, epochB := if b then s.free + 1 else f.epochB
    latA := if a then .empty else f.latA, latB := if b then .empty else f.latB })))

/-- The accumulator rows that a context's commands were writing hold unspecified values (R73). -/
def freeRows (s : State) (w : Who) : State :=
  let rows := ((ctxOf s w).cmds.flatMap ECmd.rowsWritten).flatMap (fun r => (List.range (min r.2 512)).map (r.1 + ·))
  drawn (modFacet s w.lf (fun f => { f with
    acc := mapPuts f.acc (rows.flatMap (fun r => (List.range 128).map (fun c => (128 * r + c, Config.freeAcc s.free (128 * r + c))))) }))

/-- What an abort leaves in the Lattice and its buffers: passes stop at once, the rows they were writing are unspecified, and of a split half everything (R71, R73). -/
def stopLattice (s : State) (w : Who) : State :=
  if (facetOf s w.lf).split then renewBuffers s w.lf (decide (w.ctx = 0)) (decide (w.ctx ≠ 0))
  else modLat (freeRows s w) w (fun _ => .empty)

/-- What the commands that an abort stops have written already stays written: of each, a prefix of a length that the spec leaves open, in whole words for a fill or copy; what a command wrote in an open slot counts there (R46, R267, R311, R341). -/
def leavePartial (s : State) (w : Who) : State :=
  let x := ctxOf s w
  let pf := physOf s w.lf
  let put (s : State) (ws : List (Nat × Byte)) : State := drawn (fmemPut s pf (keptWrites s pf ws))
  let s := put s (freePrefix s.free (memWords x.wait.memWrites)).flatten
  let s := x.cmds.foldl (fun s c =>
    let ws := freePrefix s.free c.facetWrites
    countFill (put s ws) (x.task.getD 0xFFFF) w.lf ((keptWrites s pf ws).map (·.1))) s
  x.cmds.foldl (fun s c => stopUpdate s w c) s

/-! ### Aborts -/

/-- A running task stops: everything it had outstanding is discarded, its context is free, its record says ABORTED with the reason. -/
def stopTask (s : State) (w : Who) (id reason : Nat) : State :=
  let old := s
  let x := ctxOf s w
  let s := withdrawWaits (stopLattice (leavePartial s w) w) w
  let s := dropTransfers s w
  let s := (enginesOf w.lf).foldl (fun s e => sendEnds (closeStreams s w 3 e) w true e) s
  let s := abortMerge s w
  let s := dropUnits s w
  let s := settleFlights (modCtx s w (fun c => { Ctx.idle with gmax := c.gmax }))
  let s := facetFreed s w.lf
  let s := chansEnd old s id
  let s := modTask s id (fun t => { t with phase := .ended, status := 1, reason := reason, stop := tcyc s })
  let s := abandonShadow s w.lf id
  match x.express with
  | none => s
  | some r => complete (modSeq s (fun q => { q with expAborted := q.expAborted ++ [r.slot] })) r.cmd 6 reason (fget s Fld.fsqFrame_FRAME)

/-- The cycle of the frame at which a request may start: 9 cycles after its arrival or its window's opening (R42). -/
def expressStart (s : State) (t : TaskEntry) (x : ExpressReq) : Nat := max (x.cmd.arrival - s.seq.lastTick) t.release + 9

/-- A request is queued that the window of an express task in this frame still holds (R42). -/
def windowWanted (s : State) (t : TaskEntry) : Bool :=
  s.seq.express.any (fun x => decide (x.task = t.id) && decide (expressStart s t x + t.xwcl ≤ t.release + t.wcl))

/-- An express window in which no task runs: without a request, or at the hard limit (R43, R45). -/
def idleWindow (s : State) (t : TaskEntry) (reason : Nat) : Bool := decide (t.kind = 1) && !(decide (reason = 8) && windowWanted s t)

/-- A task that is not yet released is not run: its record says ABORTED (R46). An express window that no request waits for stays IDLE (R43). A request that waits for the window of a task not run waits on for its next window. -/
def skipTask (s : State) (id reason : Nat) : State :=
  if ((taskRec s id).map (fun t => idleWindow s t.entry reason)).getD false then modTask s id (fun t => { t with phase := .ended, status := 2 })
  else
  let s := modTask s id (fun t => { t with phase := .ended, status := 1, reason := reason, start := tcyc s, stop := tcyc s })
  chansEnd s s id

/-- One task aborted, running or not yet released; a task that has ended is left alone. -/
def abortOne (s : State) (id reason : Nat) : State :=
  match taskRec s id with
  | none => s
  | some t =>
    match t.phase with
    | .ended => s
    | .waiting => skipTask s id reason
    | .running => stopTask s t.entry.who id reason

/-- A task aborted with a reason, and with reason UPSTREAM every task that consumes its output (R46). Reason OVERRUN sets its event (R45). -/
def abortId (s : State) (id reason : Nat) : State :=
  let down := downstream s id
  let s := abortOne s id reason
  let s := down.foldl (fun s t => abortOne s t 8) s
  if reason = 7 then setFlag s Fld.fsqEvents_OVERRUN else s

/-- The task of a context aborted. -/
def abortTask (s : State) (w : Who) (reason : Nat) : State :=
  match (ctxOf s w).task with
  | none => s
  | some id => abortId s id reason

/-- Every task that runs on a logical facet aborted. -/
def abortFacet (s : State) (lf reason : Nat) : State := abortTask (abortTask s ⟨lf, 0⟩ reason) ⟨lf, 1⟩ reason

/-- Every running task aborted. -/
def abortAll (s : State) (reason : Nat) : State := (List.range 48).foldl (fun s lf => abortFacet s lf reason) s

/-- The TASK_ID that a context runs, 0xFFFF for none (Table 17-2). -/
def taskId (s : State) (w : Who) : Nat := (ctxOf s w).task.getD 0xFFFF

/-! ### Semaphore messages -/

/-- A semaphore message from a facet, on its way for the travel time of Table 09-1. -/
def semMsg (s : State) (w : Who) (task sem n : Nat) (op : SemOp) : SemMsg :=
  ⟨sem, op, n, w.lf, w.ctx, task, s.now + travel (quadOf w.lf) (sem / 1024)⟩

/-- A message sent. -/
def sendSem (s : State) (m : SemMsg) : State := { s with semMsgs := s.semMsgs ++ [m] }

/-- The messages in the crossing queue from quadrant `q` to quadrant `r`: posts, waits, commits and grants on their way (R277). A message holds its entry for as long as it travels. DESIGN CHOICE (log entry 50). -/
def crossing (s : State) (q r : Nat) : Nat :=
  (s.semMsgs.filter (fun m => decide (quadOf m.lf = q) && decide (m.sem / 1024 = r) && decide (s.now < m.arrive))).length
    + (s.grants.filter (fun g => decide (g.sem / 1024 = q) && decide (quadOf g.lf = r) && decide (s.now < g.arrive))).length
    + ((chanDecls s).map (fun e =>
        if (taskRec s e.prodTask).map (fun t => quadOf t.entry.lf) = some q ∧ quadOf e.consumer = r then
          ((chanOf s e.key).commits.filter (fun m => decide (s.now < m.arrive))).length else 0)).sum

/-- The crossing queue between two quadrants takes another message: it has 64 entries, and a full one stalls its sender (R277). -/
def crossRoom (s : State) (q r : Nat) : Bool := decide (q = r) || decide (crossing s q r < 64)

/-- Every command of a context numbered below `seq` has completed, those of the STR queue apart (R282). -/
def commandsOver (s : State) (w : Who) (seq : Nat) : Bool := (ctxOf s w).cmds.all (fun c => decide (c.queue = .str) || decide (seq ≤ c.seq))

/-- The posts of a context that wait for nothing but its stores leave as those are performed: an earlier SPOST takes full effect although a later instruction faults; one that waits for a command that the abort discards is dropped with it. DEDUCED (log entry 49). -/
def sendStorePosts (s : State) (w : Who) : State :=
  let ps := (ctxOf s w).posts.filter (fun p => commandsOver s w p.seq)
  ps.foldl (fun t p => let m := semMsg s w (taskId s w) p.sem p.n .post; sendSem t { m with arrive := m.arrive + (p.storeAt - s.now) }) s

/-- A precise fault of the scalar core: every earlier instruction has taken full effect, the faulting one has none, and its task is aborted with ILLEGAL_INSN (R310). -/
def faultTask (s : State) (w : Who) : State := abortTask (sendStorePosts s w) w 1

end Sys2Proof.Machine
end

