-- ==== Sys2Proof/Machine/HostIf.lean ====
section
/-! DEFINITION. The host interface: queue pairs and doorbells (R400 to R405, R411, R412), commands as they leave their queue pair (Table 14-5), failed device reads (R394), Bus Master Enable (R396), the link, PTM and lane margining (R391, R416, R417). -/

namespace Sys2Proof.Machine

/-! ### Queue pairs (R401, R402, R412) -/

/-- Entries of a submission ring. -/
def sqCount (s : State) (q : Nat) : Nat := fget s (Fld.hifQCfg_SQSIZE q) + 1

/-- Entries of a completion ring. -/
def cqCount (s : State) (q : Nat) : Nat := fget s (Fld.hifQCfg_CQSIZE q) + 1

/-- STATE of a queue pair: 0 DISABLED, 1 READY, 2 DRAINING, 3 ERROR. -/
def qpState (s : State) (q : Nat) : Nat := fget s (Fld.hifQState_STATE q)

/-- The bit of a queue pair in HIF_QERR. -/
def setQerr (s : State) (q : Nat) (v : Bool) : State :=
  let f := if q < 32 then Fld.hifQerrLo_QP else Fld.hifQerrHi_QP
  fset s f (if v then setBit (fget s f) (q % 32) else clearBit (fget s f) (q % 32))

/-- STATE of a queue pair changed; HIF_QERR shows the pairs in ERROR. -/
def setQpState (s : State) (q st : Nat) : State := setQerr (fset s (Fld.hifQState_STATE q) st) q (decide (st = 3))

/-- A queue pair starts or stays DISABLED with ERRCODE 4 (R401). -/
def startQp (s : State) (q : Nat) : State :=
  let s := fset s (Fld.hifQCfg_ENABLE q) 1
  if fget s (Fld.hifQCfg_SQSIZE q) = 0 ∨ fget s (Fld.hifQCfg_CQSIZE q) = 0 then fset s (Fld.hifQState_ERRCODE q) 4
  else
    let s := fset (setQpState s q 1) (Fld.hifQState_ERRCODE q) 0
    let s := fset (fset (fset s (Fld.hifQSqhead_HEAD q) 0) (Fld.hifQCqtail_TAIL q) 0) (Fld.hifQCqtail_PHASE q) 1
    modQp s q (fun p => { p with sqTail := 0, cqHead := 0, gen := p.gen + 1, reserved := 0, arrivals := [] })

/-- A write of 1 to ENABLE: it starts a pair that is DISABLED, and has no effect otherwise (R401, R412). -/
def execQpEnable (q : Nat) (s : State) : Res := whenever (hostUp s && decide (q < 64) && decide (qpState s q = 0)) s (startQp s q)

/-- A write of 0 to ENABLE: a pair that runs or is in ERROR drains; while it drains the write is ignored (R412). -/
def stopQp (s : State) (q : Nat) : State :=
  if qpState s q = 2 then s
  else
    let s := fset s (Fld.hifQCfg_ENABLE q) 0
    if qpState s q = 0 then s else modQp (setQpState s q 2) q (fun p => { p with arrivals := [] })

/-- A write of 0 to ENABLE (R412). -/
def execQpDisable (q : Nat) (s : State) : Res := whenever (hostUp s && decide (q < 64)) s (stopQp s q)

/-- Every command of a draining pair has finished (R412). -/
def execQpDrained (q : Nat) (s : State) : Res := whenever (decide (qpState s q = 2) && decide ((qpOf s q).live = 0)) s (setQpState s q 0)

/-- A queue pair enters ERROR (R402). -/
def qpError (s : State) (q code : Nat) : State := setFlag (fset (setQpState s q 3) (Fld.hifQState_ERRCODE q) code) Fld.hifErr_QERR

/-- The ring places from `head` up to, but not including, `tail` of a ring of `n`. -/
def ringFrom (n head tail : Nat) : List Nat := (List.range ((tail + n - head % n) % n)).map (fun i => (head + i) % n)

/-- A doorbell written while its pair does not run is discarded and logged (R402). -/
def badDoorbell (s : State) (addr : Nat) : State := hostErr s 1 true addr 4 6

/-- SQ_TAIL: the entries up to the tail are submitted, to arrive 26 cycles later (R402, R403). -/
def submit (s : State) (q v : Nat) : State :=
  if qpState s q ≠ 1 then badDoorbell s (q * 0x1000)
  else if sqCount s q ≤ v then qpError s q 1
  else
    let new := ringFrom (sqCount s q) (fget s (Fld.hifQSqhead_HEAD q)) v
    modQp s q (fun p => { p with sqTail := v, arrivals := new.map (fun i => (i, ((p.arrivals.find? (fun a => a.1 = i)).map (·.2)).getD (s.now + 26))) })

/-- A write to SQ_TAIL. -/
def execSqTail (q value : Nat) (s : State) : Res := whenever (hostUp s && decide (q < 64)) s (submit s q (value % 2 ^ 32))

/-- CQ_HEAD: entries up to the head are freed (R402). -/
def freeCq (s : State) (q v : Nat) : State :=
  let n := cqCount s q
  if qpState s q ≠ 1 then badDoorbell s (q * 0x1000 + 4)
  else if n ≤ v then qpError s q 2
  else if cqUsed s q < (v + n - (qpOf s q).cqHead % n) % n then qpError s q 3
  else modQp s q (fun p => { p with cqHead := v })

/-- A write to CQ_HEAD. -/
def execCqHead (q value : Nat) (s : State) : Res := whenever (hostUp s && decide (q < 64)) s (freeCq s q (value % 2 ^ 32))

/-- An entry is fetched: its completion's place is reserved, and the head moves on (R404). -/
def takeSqEntry (s : State) (q arrival : Nat) : State :=
  let h := fget s (Fld.hifQSqhead_HEAD q)
  let h' := if h + 1 < sqCount s q then h + 1 else 0
  let e := memReadN s.host (sqBase s q + 64 * h) 64
  let s := bump (fset s (Fld.hifQSqhead_HEAD q) h') Fld.hifCntCmd_COUNT 1
  modQp s q (fun p => { p with
    arrivals := p.arrivals.drop 1, reserved := p.reserved + 1, live := p.live + 1
    fetched := p.fetched ++ [⟨q, p.gen, fieldOf e 2 2, h', e, arrival⟩] })

/-- The device fetches the next submitted entry that has arrived (R396, R403, R404). -/
def execSqFetch (q : Nat) (s : State) : Res :=
  match (qpOf s q).arrivals with
  | [] => .next s
  | a :: _ => whenever (hostUp s && s.hif.bme && decide (qpState s q = 1) && decide (a.2 ≤ s.now) && cqFree s q) s (takeSqEntry s q a.2)

/-! ### Commands -/

/-- A command of the host as Table 14-5 gives it. -/
def HostCmd.opcode (c : HostCmd) : Nat := fieldOf c.entry 0 1
def HostCmd.addr (c : HostCmd) : Nat := fieldOf c.entry 8 8
def HostCmd.len (c : HostCmd) : Nat := fieldOf c.entry 0x10 4
def HostCmd.frame (c : HostCmd) : Nat := fieldOf c.entry 0x14 4

/-- An entry with a defined opcode whose fields are in range (BAD_COMMAND, Table 14-7). -/
def HostCmd.ok (c : HostCmd) : Bool :=
  decide (fieldOf c.entry 1 1 = 0) && decide (fieldOf c.entry 4 4 = 0) && decide (fieldOf c.entry 0x18 40 = 0) && decide (c.addr % 64 = 0) &&
    (match c.opcode with
      | 0 => decide (c.addr = 0) && decide (c.len = 0) && decide (c.frame = 0)
      | 1 => decide (c.frame = 0)
      | 2 => decide (1 ≤ c.len) && decide (c.len ≤ 4096)
      | 4 => decide (1 ≤ c.len) && decide (c.len ≤ 8192)
      | _ => false)

/-- The command of a pair that stands first and has not been carried out, if it is of this opcode. -/
def headCmd (s : State) (q op : Nat) : Option HostCmd :=
  match (qpOf s q).fetched with
  | c :: _ => if c.ok && decide (c.opcode = op) then some c else none
  | [] => none

/-- The first command of a pair taken. -/
def popCmd (s : State) (q : Nat) : State := modQp s q (fun p => { p with fetched := p.fetched.drop 1 })

/-- NOP completes when fetched (Table 14-8). -/
def execNopCmd (qp : Nat) (s : State) : Res :=
  match headCmd s qp 0 with
  | none => .next s
  | some c => .next (complete (popCmd s qp) c 0 0 0)

/-- A command that is not well formed completes with BAD_COMMAND (Table 14-7). -/
def execBadCommand (qp : Nat) (s : State) : Res :=
  match (qpOf s qp).fetched with
  | [] => .next s
  | c :: _ => whenever (!c.ok) s (drawn (complete (popCmd s qp) c 9 0 (infoUnread s.free c)))

/-! ### Failed device reads (R394) -/

/-- The command of a pair that has a fetch under way: the image being loaded, the manifest being fetched, or the command that stands first. The state without it, and the command. -/
def fetchingCmd (s : State) (q : Nat) : Option (State × HostCmd) :=
  let man := s.seq.manifests.find? (fun m => decide (m.cmd.qp = q) && !m.done)
  match man, (qpOf s q).fetched with
  | some m, _ => some (modSeq s (fun x => { x with manifests := dropFirst (fun y => decide (y.cmd = m.cmd) && !y.done) x.manifests }), m.cmd)
  | none, c :: _ => if c.ok && decide (c.opcode ≠ 0) then some (popCmd s q, c) else none
  | none, [] => none

/-- RESULT of a command whose fetch failed: a MANIFEST has fetched some of its entries, how many the spec leaves open (Table 14-6). -/
def entriesRead (n : Nat) (c : HostCmd) : Nat := if c.opcode = 2 then (Config.freeWord n).toNat % (c.len + 1) else 0

/-- A device read delivers no data: its task is aborted, or its command completes with HOST_FAULT (R394). -/
def execDeviceReadError (src : ReadSource) (s : State) : Res :=
  match src with
  | .task w => whenever (hostUp s && ctxBusy s w) s (event (abortTask s w 9) Fld.hifErr_CPLERR Fld.hifCntCplerr_COUNT)
  | .command q =>
    match fetchingCmd s q with
    | none => .next s
    | some (t, c) => whenever (hostUp s && s.hif.bme) s (event (drawn (complete t c 10 (entriesRead s.free c) (infoUnread s.free c))) Fld.hifErr_CPLERR Fld.hifCntCplerr_COUNT)

/-! ### Bus Master Enable (R396) -/

/-- Bus Master Enable cleared: no requests and no messages from now on. -/
def execBusMasterDisable (s : State) : Res := whenever (hostUp s) s (modHif s (fun h => { h with bme := false }))

/-- The writes and completions that waited go out, in order. -/
def releaseHeld (s : State) : State :=
  let ws := s.hif.heldWrites
  let cs := s.hif.heldCpl
  let s := modHif s (fun h => { h with heldWrites := [], heldCpl := [] })
  let s := ws.foldl (fun s w => { s with host := memWrite s.host w.1 w.2 }) s
  cs.foldl (fun s c => if decide ((qpOf s c.cmd.qp).gen = c.cmd.gen) && decide (qpState s c.cmd.qp = 1) then writeCpl s c.cmd c.status c.result c.info else s) s

/-- Bus Master Enable set. -/
def execBusMasterEnable (s : State) : Res := whenever (hostUp s) s (releaseHeld (modHif s (fun h => { h with bme := true })))

/-! ### Configuration space (Tables 14-1 and 14-2) -/

/-- What configuration space identifies the function as. -/
structure PciIdentity where
  vendor : Nat
  device : Nat
  revision : Nat
  classCode : Nat
  headerType : Nat
  subsystemVendor : Nat
  subsystem : Nat
  interruptPin : Nat
  serial : Nat
  deriving DecidableEq, Repr

/-- The identity of the one function of the part (R7, R392, Table 14-1): the Revision ID carries the behaviour level. -/
def pciIdentity (s : State) : PciIdentity :=
  ⟨fget s Fld.glbId_VENDOR, fget s Fld.glbId_DEVICE, fget s Fld.glbRev_LEVEL, 0x120000, 0, cfgForce s 6, cfgForce s 7, 0,
   fget s Fld.glbSerialHi_SERIAL * 2 ^ 32 + fget s Fld.glbSerialLo_SERIAL⟩

/-- The capability structures, each at its offset (Table 14-2). -/
def pciCapabilities : List (Nat × String) :=
  [(0x40, "Power Management"), (0x50, "MSI-X"), (0x60, "PCI Express"), (0x100, "Advanced Error Reporting"), (0x148, "Device Serial Number"),
   (0x158, "Secondary PCI Express"), (0x188, "Data Link Feature"), (0x200, "Physical Layer 16.0 GT/s"), (0x240, "Physical Layer 32.0 GT/s"),
   (0x280, "Physical Layer 64.0 GT/s"), (0x2C0, "Lane Margining at the Receiver"), (0x310, "Precision Time Measurement"), (0x320, "Data Object Exchange")]

/-! ### Link, PTM, margining -/

/-- The code of a link speed that the device trains at, and its width: 4, 8 or 16 lanes (R391). -/
def linkOk (speed width : Nat) : Bool := decide (1 ≤ speed) && decide (speed ≤ 6) && [4, 8, 16].contains width

/-- The link trains at what the partner and the channel allow; no link of 2 lanes or 1 is formed (R391). -/
def execLinkTraining (speed width : Nat) (s : State) : Res :=
  whenever (!s.power.hifReset && decide (s.power.phase ≠ .off)) s
    (if linkOk speed width then fset (fset s Fld.hifLink_SPEED speed) Fld.hifLink_WIDTH width else fset (fset s Fld.hifLink_SPEED 0) Fld.hifLink_WIDTH 0)

/-- Nanoseconds of device time at a cycle: from the end of the last main power-on reset (R416). -/
def deviceNs (s : State) (c : Nat) : Nat := nsOf (c - s.power.zeroAt)

/-- PTM time at a cycle, as the last exchange set it. -/
def ptmNs (s : State) (c : Nat) : Int := (deviceNs s c : Int) + s.hif.ptmBase

/-- PTM time at a cycle, or device time where it is not available (R416). -/
def tickNs (s : State) (c : Nat) : Nat := if fon s Fld.hifPtmstat_VALID then (ptmNs s c).toNat else deviceNs s c

/-- PTM time becomes unavailable; with the PTM-aligned timer in use TICK_MISSED is set, once (R22, R416). -/
def losePtm (s : State) : State :=
  let t := fset s Fld.hifPtmstat_VALID 0
  if fon s Fld.hifPtmstat_VALID && runOn s && decide (s.seq.src = 2) then setFlag t Fld.fsqEvents_TICKMISSED else t

/-- A PTM exchange: the first success makes PTM time available, three failures in a row end it (R416). -/
def execPtmExchange (ok : Bool) (timeNs : Nat) (s : State) : Res :=
  whenever (hostUp s) s
    (if ok then fset (modHif s (fun h => { h with ptmFails := 0, ptmBase := (timeNs : Int) - (deviceNs s s.now : Int) })) Fld.hifPtmstat_VALID 1
     else
      let t := modHif s (fun h => { h with ptmFails := h.ptmFails + 1 })
      if 3 ≤ t.hif.ptmFails then losePtm t else t)

/-- A margining step is one of Table 14-10's. -/
def marginOk (s : State) (lane : Nat) (voltage : Bool) (step : Nat) : Bool :=
  decide (lane < fget s Fld.hifLink_WIDTH) && decide (step ≤ if voltage then 32 else 16)

/-- Margining at the receiver reports the errors it counts; traffic is not disturbed (R417). -/
def execLaneMargining (lane : Nat) (voltage : Bool) (step errors : Nat) (s : State) : Res :=
  whenever (hostUp s && marginOk s lane voltage step) s (emit s (.margin lane errors))

end Sys2Proof.Machine
end

