-- ==== Sys2Proof/Machine/Image.lean ====
section
/-! DEFINITION. Frame images: their tables (R27 to R29, R263), the admission checks (R30, R31, R243, R285, R521), LOAD_IMAGE and the end of admission (R32, R34, R35, R407). -/

namespace Sys2Proof.Machine

/-! ### Reading the control part -/

/-- `n` bytes from offset `o` lie inside the control part. -/
def inCtl (c : List Byte) (o n : Nat) : Bool := decide (o + n ≤ c.length)

/-- `n` reserved bytes from offset `o` are 0. -/
def zeroAt (c : List Byte) (o n : Nat) : Bool := (sliceOf c o n).all (· == 0#8)

/-- Offsets of `n` task tables that lie back to back from `o`. -/
def tableOffs (c : List Byte) (o : Nat) : Nat → List Nat
  | 0 => []
  | n + 1 => o :: tableOffs c (o + 16 + 32 * fieldOf c o 2) n

/-- The offsets of the 48 task tables. -/
def taskTables (c : List Byte) : List Nat := tableOffs c (fieldOf c 0x14 4) 48

/-- Offsets of `n` entries of `w` bytes from `o`. -/
def entryOffs (o n w : Nat) : List Nat := (List.range n).map (fun i => o + w * i)

/-- A task entry at offset `o` of the table of facet `lf` (Table 01-3). -/
def taskAt (c : List Byte) (lf o : Nat) : TaskEntry :=
  { lf := lf, id := fieldOf c o 2, kind := fieldOf c (o + 2) 1, flags := fieldOf c (o + 3) 1, release := fieldOf c (o + 4) 4
    wcl := fieldOf c (o + 8) 4, entry := fieldOf c (o + 0xC) 4, wdog := fieldOf c (o + 0x10) 4, slotFirst := fieldOf c (o + 0x14) 2
    slotCount := fieldOf c (o + 0x16) 2, xwcl := fieldOf c (o + 0x18) 4 }

/-- The tasks of the table at offset `o`. -/
def tableTasks (c : List Byte) (lf o : Nat) : List TaskEntry := (entryOffs (o + 16) (fieldOf c o 2) 32).map (taskAt c lf)

/-- The tasks of the image, in task-table order. -/
def imageTasks (c : List Byte) : List TaskEntry :=
  ((List.range 48).zip (taskTables c)).flatMap (fun t => tableTasks c t.1 t.2)

/-- The offsets of the slot table's entries. -/
def slotOffs (c : List Byte) : List Nat := entryOffs (fieldOf c 0x1C 4) (fieldOf c 0x1A 2) 16

/-- A slot entry (Table 01-4). -/
def slotAt (c : List Byte) (o : Nat) : SlotEntry :=
  ⟨fieldOf c o 2, fieldOf c (o + 2) 1, fieldOf c (o + 3) 1, fieldOf c (o + 4) 4, fieldOf c (o + 8) 4⟩

/-- The offset of the SYNC section and its counts (Table 09-2). -/
def syncOff (c : List Byte) : Nat := fieldOf c 0x24 4
def semCount (c : List Byte) : Nat := fieldOf c (syncOff c) 2
def chanCount (c : List Byte) : Nat := fieldOf c (syncOff c + 2) 2
def waitCount (c : List Byte) : Nat := fieldOf c (syncOff c + 4) 4
def consumeCount (c : List Byte) : Nat := fieldOf c (syncOff c + 8) 4
def chanOff (c : List Byte) : Nat := syncOff c + 16 + 4 * semCount c
def waitOff (c : List Byte) : Nat := chanOff c + 32 * chanCount c
def consumeOff (c : List Byte) : Nat := waitOff c + 4 * waitCount c

/-- A pair of 16-bit numbers. -/
def pairAt (c : List Byte) (o : Nat) : Nat × Nat := (fieldOf c o 2, fieldOf c (o + 2) 2)

/-- The semaphores that the image declares, with their initial counts. -/
def imageSems (c : List Byte) : List (Nat × Nat) := (entryOffs (syncOff c + 16) (semCount c) 4).map (pairAt c)

/-- A channel entry (Table 09-3). -/
def chanAt (c : List Byte) (o : Nat) : ChanEntry :=
  { consumer := fieldOf c o 1, index := fieldOf c (o + 1) 1, slots := fieldOf c (o + 2) 1, slotBytes := fieldOf c (o + 4) 2
    fullSem := fieldOf c (o + 6) 2, emptySem := fieldOf c (o + 8) 2, prodTask := fieldOf c (o + 0xA) 2, consTask := fieldOf c (o + 0xC) 2
    bankA := fieldOf c (o + 0x10) 4, bankB := fieldOf c (o + 0x14) 4, record := fieldOf c (o + 0x18) 4 }

/-- The channels that the image declares. -/
def imageChans (c : List Byte) : List ChanEntry := (entryOffs (chanOff c) (chanCount c) 32).map (chanAt c)

/-- The offsets of the entries of a section that starts with a count and 12 reserved bytes. -/
def sectionOffs (c : List Byte) (o : Nat) : List Nat := entryOffs (o + 16) (fieldOf c o 4) 16

/-- An allocation entry (Table 01-12). -/
def allocAt (c : List Byte) (o : Nat) : AllocEntry := ⟨fieldOf c o 4, fieldOf c (o + 4) 4, fieldOf c (o + 8) 1⟩

/-- A window entry (Table 01-13). -/
def windowAt (c : List Byte) (o : Nat) : WindowEntry :=
  ⟨fieldOf c o 1, fieldOf c (o + 1) 1, fieldOf c (o + 2) 2, fieldOf c (o + 4) 4, fieldOf c (o + 8) 4⟩

/-- An entry of the stream interval table. -/
def demandAt (c : List Byte) (o : Nat) : DemandEntry :=
  ⟨fieldOf c o 2 / 2 ^ 12, fieldOf c o 2 % 2 ^ 12, fieldOf c (o + 4) 4, fieldOf c (o + 8) 4, fieldOf c (o + 12) 4⟩

/-- The image that a control part describes. -/
def imageOf (c : List Byte) : Image :=
  { control := c, id := fieldOf c 0xC 4, level := fieldOf c 6 1, period := fieldOf c 8 4, imemOff := fieldOf c 0x20 4
    tasks := imageTasks c
    imemUsed := (taskTables c).map (fun o => fieldOf c (o + 2) 2), fmemUsed := (taskTables c).map (fun o => fieldOf c (o + 4) 4)
    slots := (slotOffs c).map (slotAt c), allocs := (sectionOffs c (fieldOf c 0x28 4)).map (allocAt c)
    windows := (sectionOffs c (fieldOf c 0x30 4)).map (windowAt c), sems := imageSems c, chans := imageChans c
    waits := (entryOffs (waitOff c) (waitCount c) 4).map (pairAt c), consumes := (entryOffs (consumeOff c) (consumeCount c) 4).map (pairAt c)
    demand := (sectionOffs c (fieldOf c 0x2C 4)).map (demandAt c) }

/-! ### IMAGE_FORMAT (Table 01-5) -/

/-- The header: sizes, magic, version, reserved fields (Table 01-2). -/
def imageHeaderOk (c : List Byte) : Bool :=
  decide (fieldOf c 0 4 = 0x3149464D) && decide (fieldOf c 4 2 = 1) && decide (fieldOf c 7 1 < 2) && decide (fieldOf c 0x18 2 = 48)
    && zeroAt c 0x34 76 && inCtl c (fieldOf c 0x20 4) (48 * 65536)

/-- A task entry: its kind, its reserved fields, XWCL, ENTRY within IMEM_USED. -/
def taskOk (c : List Byte) (imemUsed o : Nat) : Bool :=
  let t := taskAt c 0 o
  decide (t.kind ≤ 3) && decide (t.flags < 2) && zeroAt c (o + 0x1C) 4 && (decide (t.kind = 1) || decide (t.xwcl = 0))
    && decide (t.entry < 256 * imemUsed)

/-- A task table. -/
def tableOk (c : List Byte) (o : Nat) : Bool :=
  inCtl c o 16 && decide (fieldOf c o 2 ≤ 256) && zeroAt c (o + 8) 8 && inCtl c (o + 16) (32 * fieldOf c o 2)
    && (entryOffs (o + 16) (fieldOf c o 2) 32).all (taskOk c (fieldOf c (o + 2) 2))

/-- The task tables, no TASK_ID twice. -/
def tasksOk (c : List Byte) : Bool :=
  (taskTables c).all (tableOk c) && decide ((imageTasks c).map (·.id)).Nodup

/-- The slot table: in ascending order, and every slot that a task serves is in it. -/
def slotsOk (c : List Byte) : Bool :=
  decide (fieldOf c 0x1A 2 ≤ 4096) && inCtl c (fieldOf c 0x1C 4) (16 * fieldOf c 0x1A 2)
    && (slotOffs c).all (fun o => decide ((slotAt c o).slot < 4096) && decide ((slotAt c o).flags < 2) && zeroAt c (o + 0xC) 4)
    && strictlyRising ((slotOffs c).map (fun o => (slotAt c o).slot))
    && (imageTasks c).all (fun t => (span t.slotFirst t.slotCount).all (fun n => (slotOffs c).any (fun o => (slotAt c o).slot = n)))

/-- Whether a TASK_ID is in the image. -/
def hasTask (c : List Byte) (id : Nat) : Bool := (imageTasks c).any (fun t => t.id = id)

/-- A channel entry: its ranges, its tasks, its semaphores (R263). -/
def chanOk (c : List Byte) (o : Nat) : Bool :=
  let e := chanAt c o
  zeroAt c (o + 3) 1 && zeroAt c (o + 0xE) 2 && zeroAt c (o + 0x1C) 4
    && decide (e.consumer < 48) && decide (e.index < 32) && decide (1 ≤ e.slots) && decide (e.slots ≤ 16)
    && decide (64 ≤ e.slotBytes) && decide (e.slotBytes ≤ 16384) && decide (e.slotBytes % 64 = 0)
    && [e.bankA, e.bankB, e.record].all (fun a => decide (a % 64 = 0))
    && hasTask c e.prodTask && (imageTasks c).any (fun t => decide (t.id = e.consTask) && decide (t.lf = e.consumer))
    && [e.fullSem, e.emptySem].all (fun n => decide (n / 1024 = e.consumer / 12) && (imageSems c).any (fun p => p.1 = n))

/-- The SYNC section (R263, Table 09-2). -/
def syncOk (c : List Byte) : Bool :=
  inCtl c (syncOff c) 16 && zeroAt c (syncOff c + 12) 4
    && inCtl c (syncOff c + 16) (4 * semCount c + 32 * chanCount c + 4 * waitCount c + 4 * consumeCount c)
    && (imageSems c).all (fun p => decide (p.1 < 4096)) && strictlyRising ((imageSems c).map (·.1))
    && (entryOffs (chanOff c) (chanCount c) 32).all (chanOk c)
    && decide ((imageChans c).map (fun e => (e.consumer, e.index))).Nodup
    && decide ((imageChans c).flatMap (fun e => [e.fullSem, e.emptySem])).Nodup
    && (entryOffs (waitOff c) (waitCount c + consumeCount c) 4).all (fun o => hasTask c (pairAt c o).1 && hasTask c (pairAt c o).2)

/-- A section of 16-byte entries, at most `limit` of them. -/
def sectionOk (c : List Byte) (o limit : Nat) : Bool :=
  inCtl c o 16 && zeroAt c (o + 4) 12 && decide (fieldOf c o 4 ≤ limit) && inCtl c (o + 16) (16 * fieldOf c o 4)

/-- The State Store allocation list (R28). -/
def allocsOk (c : List Byte) : Bool :=
  let o := fieldOf c 0x28 4
  sectionOk c o 4096
    && (sectionOffs c o).all (fun e => decide ((allocAt c e).kind < 2) && decide ((allocAt c e).len ≠ 0) && zeroAt c (e + 9) 7)
    && strictlyRising ((sectionOffs c o).map (fun e => (allocAt c e).base))

/-- The stream interval table (R243). -/
def demandOk (c : List Byte) : Bool :=
  let o := fieldOf c 0x2C 4
  sectionOk c o (2 ^ 32) && (sectionOffs c o).all (fun e => zeroAt c (e + 2) 2)

/-- Whether a list does not fall. -/
def notFalling : List Nat → Bool
  | [] => true
  | [_] => true
  | a :: b :: r => decide (a ≤ b) && notFalling (b :: r)

/-- The reserved windows (R29). -/
def windowsOk (c : List Byte) : Bool :=
  let o := fieldOf c 0x30 4
  sectionOk c o 256
    && (sectionOffs c o).all (fun e =>
      let w := windowAt c e
      decide (w.kind ≤ 2) && decide (w.quad ≤ 3) && (if w.kind = 2 then decide (w.channels = 0) else decide (w.channels ≠ 0) && decide (w.quad = 0))
        && zeroAt c (e + 12) 4)
    && notFalling ((sectionOffs c o).map (fun e => (windowAt c e).t0))

/-- The size rules of R27 and R407: the bytes loaded are the control part and a signature of 64 bytes. -/
def imageSizeOk (bs : List Byte) (len : Nat) : Bool :=
  let n := fieldOf bs 0x10 4
  decide (128 ≤ n) && decide (n ≤ 4 * 2 ^ 20) && decide (len = n + 64) && decide (bs.length = len)

/-- Check 1: IMAGE_FORMAT. The tables are read only where the ones before them are sound. -/
def formatOk (bs : List Byte) (len : Nat) : Bool :=
  if !imageSizeOk bs len then false
  else
    let c := bs.take (len - 64)
    imageHeaderOk c && tasksOk c && slotsOk c && syncOk c && allocsOk c && demandOk c && windowsOk c

/-! ### The other checks (R30) -/

/-- The cycle intervals of two tasks of one facet may share cycles only as the two halves of a split (R521). -/
def tasksClash (a b : TaskEntry) : Bool :=
  decide (a.lf = b.lf) && overlaps a.release (a.release + a.wcl) b.release (b.release + b.wcl)
    && !(decide (a.kind = 2) && decide (b.kind = 3)) && !(decide (a.kind = 3) && decide (b.kind = 2))

/-- Whether two elements of a list at different places are related. -/
def somePair {α : Type} (p : α → α → Bool) : List α → Bool
  | [] => false
  | x :: r => r.any (p x) || somePair p r

/-- Two windows claim one far channel at once (R29). -/
def windowsClash (a b : WindowEntry) : Bool :=
  decide (a.kind ≠ 2) && decide (b.kind ≠ 2) && decide (Nat.land a.channels b.channels ≠ 0) && overlaps a.t0 a.t1 b.t0 b.t1

/-- A window breaks R29 by itself or against the stream interval table. -/
def windowBad (i : Image) (b : Nat) (w : WindowEntry) : Bool :=
  decide (w.t1 ≤ w.t0) || decide (w.t0 < 2048) || decide (b < w.t1)
    || (decide (w.kind ≠ 2) && i.demand.any (fun e => decide (e.cls = 4) && bitSet w.channels e.index && overlaps e.t0 e.t1 w.t0 w.t1))

/-- Check 5: FIT_CYCLES. -/
def fitCycles (i : Image) (b : Nat) : Bool :=
  i.tasks.any (fun t => decide (t.release < 2048) || decide (b < t.release + t.wcl) || (decide (t.kind = 1) && decide (t.wcl < t.xwcl + 9)))
    || somePair tasksClash i.tasks || i.windows.any (windowBad i b) || somePair windowsClash i.windows

/-- Check 6: FIT_FMEM. -/
def fitFmem (i : Image) : Bool := i.fmemUsed.any (fun n => decide (524288 < n))

/-- Check 7: FIT_IMEM. -/
def fitImem (i : Image) : Bool := i.imemUsed.any (fun n => decide (256 < n))

/-- An allocation breaks R28 by itself: it reaches the page table, or is misaligned for its kind. -/
def allocBad (e : AllocEntry) : Bool :=
  let k := if e.kind = 0 then 128 else 16384
  decide (0xBC000000 < e.base + e.len) || decide (e.base % k ≠ 0) || decide (e.len % k ≠ 0)

/-- Check 8: FIT_STS (R28). -/
def fitSts (i : Image) : Bool :=
  i.allocs.any allocBad || somePair (fun a b => overlaps a.base (a.base + a.len) b.base (b.base + b.len)) i.allocs
    || decide (3008 * 2 ^ 20 < i.allocs.foldl (fun n e => n + e.len) 0)

/-- Check 9: FIT_SEM. -/
def fitSem (i : Image) : Bool :=
  (List.range 4).any (fun q => decide (1024 < (i.sems.filter (fun p => p.1 / 1024 = q)).length)) || i.sems.any (fun p => decide (65535 < p.2))

/-- What a channel occupies in its consumer's facet memory: two banks and the record. -/
def chanParts (e : ChanEntry) : List (Nat × Nat × Nat) :=
  let n := e.slots * e.slotBytes
  [(e.consumer, e.bankA, e.bankA + n), (e.consumer, e.bankB, e.bankB + n), (e.consumer, e.record, e.record + 64)]

/-- Check 10: FIT_CHAN (R263). -/
def fitChan (i : Image) : Bool :=
  let parts := i.chans.flatMap chanParts
  (List.range 48).any (fun f => decide (32 < (i.chans.filter (fun e => e.consumer = f)).length))
    || parts.any (fun p => decide (i.fmemUsed.getD p.1 0 < p.2.2))
    || somePair (fun a b => decide (a.1 = b.1) && overlaps a.2.1 a.2.2 b.2.1 b.2.2) parts

/-- A port of Table 08-8. -/
def portDefined (cls i : Nat) : Bool :=
  if cls = 3 then decide (i < 16) && decide (i / 4 ≠ i % 4) else decide (i < [52, 52, 188, 16, 16, 1, 1, 4, 4, 8, 8, 52].getD cls 0)

/-- Sixteenths of a unit that a port of a class supplies in a cycle (Table 08-8, R375). -/
def supply16 (cls : Nat) : Nat := 16 * [480, 480, 120, 960, 0, 480, 0, 480, 0, 128, 128].getD cls 0 + (if [4, 6, 8].contains cls then 15 else 0)

/-- The entries of a port demand more between two instants than the port supplies (R243). -/
def overDemand (es : List DemandEntry) (cls a b : Nat) : Bool :=
  decide (a < b) && decide (supply16 cls * (b - a) / 16 < (es.filter (fun e => decide (a ≤ e.t0) && decide (e.t1 ≤ b))).foldl (fun n e => n + e.amount) 0)

/-- Check 11: FIT_STREAM (R243). -/
def fitStream (i : Image) (b : Nat) : Bool :=
  i.demand.any (fun e => decide (e.t1 ≤ e.t0) || decide (b < e.t1) || !portDefined e.cls e.index)
    || i.demand.any (fun p =>
      let es := i.demand.filter (fun e => decide (e.cls = p.cls) && decide (e.index = p.index))
      if p.cls = 11 then decide (16 < (es.filter (fun e => decide (e.t0 ≤ p.t0) && decide (p.t0 < e.t1))).length)
      else
        let ts := es.flatMap (fun e => [e.t0, e.t1])
        ts.any (fun x => ts.any (fun y => overDemand es p.cls x y)))

/-- The tasks that wait for none of the tasks in `left` are taken away, `n` times over. -/
def peelWaits (ws : List (Nat × Nat)) : Nat → List (Nat × Nat)
  | 0 => ws
  | n + 1 => peelWaits (ws.filter (fun e => ws.any (fun f => f.1 = e.2))) n

/-- Check 12: WAIT_CYCLE (R285): edges remain when those that lead to a task without further edges are taken away again and again. -/
def waitCycle (i : Image) : Bool := !(peelWaits i.waits i.waits.length).isEmpty

/-- The owner image key as installed: X then Y, each big-endian. -/
def installedKey (s : State) : List Byte := (List.range 16).flatMap (fun i => beBytes 4 (fget s (Fld.secOik_KEY i)))

/-- Check 2: the signature verifies under the owner image key; with no key installed it does not (R27, R432). -/
def imageSigned (s : State) (bs : List Byte) (len : Nat) : Bool :=
  fon s Fld.secOikCtl_VALID && ecdsaVerify (installedKey s) (sha256 (bs.take (len - 64))) ((bs.drop (len - 64)).take 64)

/-- The codes of the checks that fail: the first of 1 to 4 alone, or every one of 5 to 12 (R30). -/
def admission (s : State) (bs : List Byte) (len : Nat) : List Nat :=
  if !formatOk bs len then [1]
  else
    let i := imageOf (bs.take (len - 64))
    if !imageSigned s bs len then [2]
    else if i.level ≠ Config.level then [3]
    else if i.period ≠ cfgCommitted s 0 then [4]
    else
      let b := committedBudget s
      let fits := [fitCycles i b, fitFmem i, fitImem i, fitSts i, fitSem i, fitChan i, fitStream i b, waitCycle i]
      (([5, 6, 7, 8, 9, 10, 11, 12].zip fits).filter (·.2)).map (·.1)

/-! ### LOAD_IMAGE and the end of admission -/

/-- The pending slot: 0 empty, 1 loading, 2 checking, 3 admitted. -/
def pendingState (s : State) : Nat := fget s Fld.fsqStatus_PENDING

/-- LOAD_IMAGE: the image is fetched into the pending slot and its check starts; an admitted image that stands there is lost; with a swap requested or the slot busy the command completes with PENDING_BUSY (R30, R35, R407). -/
def startLoad (s : State) (c : HostCmd) : State :=
  if fon s Fld.fsqSwap_REQ ∨ pendingState s = 1 ∨ pendingState s = 2 then drawn (complete s c 2 0 (infoUnread s.free c))
  else
    let bs := memReadN s.host c.addr (min c.len (4 * 2 ^ 20 + 64))
    let s := modSeq s (fun q => { q with pendingImg := none, loading := some c, fetchedImg := bs })
    fset (fset s Fld.fsqStatus_PENDING 2) Fld.fsqPendingId_ID (fieldOf bs 0xC 4)

/-- LOAD_IMAGE stands first in its queue pair. -/
def execLoadImage (qp : Nat) (s : State) : Res :=
  match headCmd s qp 1 with
  | none => .next s
  | some c => whenever (hostUp s && s.hif.bme) s (startLoad (popCmd s qp) c)

/-- What admission decides (R30 to R32, R34): the codes in FSQ_ADMIT and FSQ_ADMIT_MAP, the pending slot, a request that falls with a refusal, vector 3, the completion. -/
def endAdmission (s : State) (c : HostCmd) (codes : List Nat) : State :=
  let bs := s.seq.fetchedImg
  let primary := codes.headD 0
  let s := fset (fset s Fld.fsqAdmit_PRIMARY primary) Fld.fsqAdmitMap_MAP (codes.foldl (fun m k => m + 2 ^ (k - 1)) 0)
  let s := modSeq s (fun q => { q with loading := none, fetchedImg := [] })
  let s :=
    if codes.isEmpty then
      fset (modSeq s (fun q => { q with pendingImg := some (imageOf (bs.take (c.len - 64))) })) Fld.fsqStatus_PENDING 3
    else fset (fset (fset s Fld.fsqStatus_PENDING 0) Fld.fsqPendingId_ID 0) Fld.fsqSwap_REQ 0
  let s := if primary = 2 then event s Fld.secErr_SIGFAIL Fld.secCntSigfail_COUNT else s
  complete (sendVec s 3) c (if codes.isEmpty then 0 else 1) primary (fieldOf bs 0xC 4)

/-- The checks end. -/
def execAdmissionEnd (s : State) : Res :=
  match s.seq.loading with
  | none => .next s
  | some c => whenever (serving s) s (endAdmission s c (admission s s.seq.fetchedImg c.len))

end Sys2Proof.Machine
end

