-- ==== Sys2Proof/Machine/Operands.lean ====
section
/-! DEFINITION. The scalar core: its registers (R288), when a context issues (R54, R290, R308), the operand forms of the integer and FP32 instructions (Table 10-3), the checks at issue (R292, R297) and the placing of engine commands in their queues (R293, R314). -/

namespace Sys2Proof.Machine

/-- A scalar register: s0 reads as 0 (R288). -/
def rget (s : State) (w : Who) (r : Reg) : Word := if r = 0#5 then 0#32 else mapGet (ctxOf s w).regs r.toNat 0#32

/-- A scalar register written, its value ready `lat` cycles later; a write to s0 is discarded (R288, R290). -/
def rput (s : State) (w : Who) (r : Reg) (v : Word) (lat : Nat) : State :=
  modCtx s w (fun c =>
    if r = 0#5 then c
    else { c with regs := mapPut c.regs r.toNat v, ready := mapPut c.ready r.toNat (max (mapGet c.ready r.toNat 0) (s.now + lat)) })

/-- No engine command of the context has still to write a register (R315). -/
def noResultDue (c : Ctx) (r : Reg) : Bool := decide (r = 0#5) || c.cmds.all (fun x => x.d ≠ r ∧ x.b ≠ r)

/-- A source register is ready (R290, R315). -/
def srcReady (s : State) (w : Who) (r : Reg) : Bool :=
  noResultDue (ctxOf s w) r && (decide (r = 0#5) || decide (mapGet (ctxOf s w).ready r.toNat 0 ≤ s.now))

/-- The other context of a facet. -/
def Who.other (w : Who) : Who := ⟨w.lf, 1 - w.ctx⟩

/-- Both contexts of the facet hold running tasks (R54). -/
def bothRun (s : State) (w : Who) : Bool := ctxBusy s ⟨w.lf, 0⟩ && ctxBusy s ⟨w.lf, 1⟩

/-- A context may issue in this cycle: its task runs and waits for nothing, the last instruction no longer occupies it, and it is its turn where both contexts run: context 0 in even cycles of the frame, context 1 in odd ones (R54, R290). DESIGN CHOICE (log entry 6): which context takes the even cycles. -/
def canIssue (s : State) (w : Who) : Bool :=
  ctxBusy s w && decide ((ctxOf s w).wait = .none) && decide ((ctxOf s w).free ≤ s.now)
    && (!bothRun s w || decide (tcyc s % 2 = w.ctx % 2))

/-- The instruction at the context's pc lies within the image's instruction memory (R297). -/
def fetchOk (s : State) (w : Who) : Bool := decide ((ctxOf s w).pc < imemLimit s w.lf)

/-- The context after an instruction that occupies it for `k` cycles, with its new pc (R308). -/
def occupy (s : State) (w : Who) (k pc : Nat) : State :=
  let n := if bothRun s w then 2 * k - 1 else k
  modCtx s w (fun c => { c with pc := pc, free := s.now + n })

/-- The address of the next instruction: pc + 8, modulo 2^32. -/
def nextPc (s : State) (w : Who) : Nat := ((ctxOf s w).pc + 8) % 2 ^ 32

/-- The context after an instruction that does not branch. -/
def advance (s : State) (w : Who) (k : Nat) : State := occupy s w k (nextPc s w)

/-- An instruction of a context: nothing happens while it may not issue or a register it needs is not ready; a fetch beyond the image's instruction memory or an illegal instruction aborts its task precisely (R290, R292, R297, R310); else it has its effect. -/
def issue (s : State) (w : Who) (srcs dsts : List Reg) (legal : Bool) (k : State → State) : Res :=
  if !canIssue s w then .next s
  else if !fetchOk s w then .next (faultTask s w)
  else if !(srcs.all (srcReady s w) && dsts.all (noResultDue (ctxOf s w))) then .next s
  else if !legal then .next (faultTask s w)
  else .next (k s)

/-- The conditions under which `issue` runs the instruction's effect. -/
def issues (s : State) (w : Who) (srcs dsts : List Reg) : Bool :=
  canIssue s w && fetchOk s w && srcs.all (srcReady s w) && dsts.all (noResultDue (ctxOf s w))

/-- An instruction of a context that stalls while `room` is false, once it is known to be legal. -/
def issueWhen (s : State) (w : Who) (srcs dsts : List Reg) (legal room : Bool) (k : State → State) : Res :=
  if issues s w srcs dsts && legal && !room then .next s else issue s w srcs dsts legal k

/-- The second operand: IMM in the immediate form, else s[b] (Table 10-3). -/
def operandB (s : State) (w : Who) (o : AluArgs) : Word := if o.immForm then o.imm else rget s w o.b

/-- The registers that an integer or FP32 instruction reads; FMA reads s[d] too. -/
def aluSrcs (o : AluArgs) (readsD unary : Bool) : List Reg :=
  o.a :: ((if o.immForm || unary then [] else [o.b]) ++ (if readsD then [o.d] else []))

/-- The state after an integer or FP32 instruction: pc and occupancy moved on, s[d] written with its latency (Table 10-5). -/
def aluEffect (w : Who) (o : AluArgs) (occ lat : Nat) (f : Word → Word → Word → Word) (s : State) : State :=
  rput (advance s w occ) w o.d (f (rget s w o.d) (rget s w o.a) (operandB s w o)) lat

/-- An integer or FP32 instruction: `f` gives the result from the old s[d], s[a] and the second operand. -/
def alu (w : Who) (o : AluArgs) (readsD unary : Bool) (occ lat : Nat) (f : Word → Word → Word → Word) (s : State) : Res :=
  issue s w (aluSrcs o readsD unary) [o.d] (if unary then o.wfUnary else o.wf) (aluEffect w o occ lat f)

/-! ### Engine commands -/

/-- The AFTER field names a queue that holds an unfinished command issued earlier (R317). -/
def queueOfAfter (n : Nat) : Option EQueue :=
  match n with
  | 1 => some .str
  | 2 => some .lat
  | 3 => some .drn
  | 4 => some .vec
  | 5 => some .mrg
  | 6 => some .prd
  | 7 => some .upd
  | _ => none

/-- A command queue holds 16 commands that have not started (R293). -/
def queueFull (s : State) (w : Who) (q : EQueue) : Bool :=
  decide (16 ≤ ((ctxOf s w).cmds.filter (fun c => decide (c.queue = q) && c.started.isNone)).length)

/-- A new command as it enters its queue. -/
def newCmd (seq : Nat) (q : EQueue) (op : EOp) (after : Nat) (d b : Reg) (now stores : Nat) : ECmd :=
  { seq := seq, queue := q, op := op, after := after, d := d, b := b, issued := now, storesAt := stores, started := none, doneAt := 0, image := [], todo := []
    result := 0#32, result2 := 0#32, ready := false }

/-- The state after an engine instruction has entered its queue: one cycle of its context, the next command number of its facet (R293, R314). -/
def enqueue (w : Who) (q : EQueue) (op : EOp) (after : Nat) (d b : Reg) (s : State) : State :=
  let n := (facetOf s w.lf).seq
  let s' := advance s w 1
  let s' := modFacet s' w.lf (fun f => { f with seq := n + 1 })
  modCtx s' w (fun c => { c with cmds := c.cmds ++ [newCmd n q op after d b s.now c.storeAt] })

/-- An engine instruction at issue: checked, then placed in its queue with the register values it reads; it stalls while the queue is full (R293). -/
def engine (w : Who) (q : EQueue) (op : State → EOp) (after : Nat) (srcs : List Reg) (d b : Reg) (legal : Bool) (s : State) : Res :=
  if fetchOk s w && legal && queueFull s w q then .next s
  else issue s w srcs [d, b] legal (fun t => enqueue w q (op t) after d b t)

/-! ### Writes that a task performs in facet memory -/

/-- The abort with GATED_WRITE of a task that has a write dropped; `s` is the state before its writes (R179). -/
def abortDropped (s t : State) (task lf : Nat) (ws : List (Nat × Byte)) : State :=
  if fmemDrops s (physOf s lf) ws then abortId t task 4 else t

/-- A task's wide writes that advance no fill count: by a fill, a copy, or a stream into SPACE 0 (R267, R274). -/
def rawWriteOrAbort (s : State) (task lf : Nat) (ws : List (Nat × Byte)) : State :=
  abortDropped s (fmemPut s (physOf s lf) ws) task lf ws

/-- A task's wide writes in a logical facet's memory: performed, those at gated banks dropped and counted, the fill counts of its open slots advanced (R179, R267). -/
def taskWriteOrAbort (s : State) (task lf : Nat) (ws : List (Nat × Byte)) : State :=
  let pf := physOf s lf
  abortDropped s (countFill (fmemPut s pf ws) task lf ((keptWrites s pf ws).map (·.1))) task lf ws

/-- A task's narrow write: as a wide one, but the bytes of a wide write of the same cycle remain (R162, R179, R267). -/
def narrowWriteOrAbort (s : State) (task lf : Nat) (ws : List (Nat × Byte)) : State :=
  let pf := physOf s lf
  abortDropped s (countFill (fmemPutNarrow s pf ws) task lf ((keptWrites s pf ws).map (·.1))) task lf ws

/-- An arrival counter of a logical facet. -/
def arrOf (s : State) (lf i : Nat) : Nat := fget s (Fld.fmemArr_COUNT (physOf s lf) i)

/-- An arrival counter advanced by the bytes of a write that named it (R175); what it received is kept for the cycle (R176). -/
def arrAdd (s : State) (lf i n : Nat) : State :=
  let f := Fld.fmemArr_COUNT (physOf s lf) i
  modCycle (bump s f n) (fun c => { c with arrivals := c.arrivals ++ [(f.key, n)] })

/-- What an arrival counter has received in the current cycle. -/
def arrived (s : State) (f : Field) : Nat := (((thisCycle s).arrivals.filter (fun x => x.1 = f.key)).map (·.2)).sum

/-- An arrival counter reset: what reaches it in the same cycle is added after (R176). -/
def arrReset (s : State) (lf i : Nat) : State :=
  let f := Fld.fmemArr_COUNT (physOf s lf) i
  fset s f (arrived s f)

/-- A range of facet memory lies below FMEM_USED (R302, R319). -/
def inUsed (s : State) (lf a n : Nat) : Bool := decide (a + n ≤ fmemUsed s lf)

end Sys2Proof.Machine
end

