-- ==== Sys2Proof/Machine/Float.lean ====
section
/-! DEFINITION. Floating-point formats, rounding and arithmetic: FP32, BF16, binary16 and the two FP8 formats (R519, R520), the scalar core's and vector unit's operations with flushed subnormals (R78, R295), and the Lattice's with kept subnormals (R76). -/

namespace Sys2Proof.Machine

/-- A binary floating-point format. `inf` says whether it has infinities; where it has none (E4M3) the all-ones pattern is NaN and overflow saturates. -/
structure FpFmt where
  ebits : Nat
  mbits : Nat
  bias : Nat
  inf : Bool
  deriving DecidableEq, Repr

/-- IEEE binary32. -/
def fp32 : FpFmt := ⟨8, 23, 127, true⟩
/-- BF16. -/
def bf16 : FpFmt := ⟨8, 7, 127, true⟩
/-- IEEE binary16. -/
def fp16 : FpFmt := ⟨5, 10, 15, true⟩
/-- FP8 E4M3 (R519). -/
def e4m3 : FpFmt := ⟨4, 3, 7, false⟩
/-- FP8 E5M2 (R519). -/
def e5m2 : FpFmt := ⟨5, 2, 15, true⟩

/-- A decoded value: a number is `(-1)^neg × m × 2^e`, with `m = 0` for a zero that keeps its sign. -/
inductive Fp where
  | num (neg : Bool) (m : Nat) (e : Int)
  | inf (neg : Bool)
  | nan
  deriving DecidableEq, Repr


/-- All-ones exponent. -/
def FpFmt.emax (f : FpFmt) : Nat := 2 ^ f.ebits - 1

/-- The position of the sign bit. -/
def FpFmt.signBit (f : FpFmt) : Nat := f.ebits + f.mbits

/-- The one NaN pattern of a format (R520). -/
def FpFmt.nanPat (f : FpFmt) : Nat :=
  if f.inf then f.emax * 2 ^ f.mbits + 2 ^ (f.mbits - 1) else 2 ^ f.signBit - 1

/-- The sign bit of a pattern, in place. -/
def FpFmt.signPat (f : FpFmt) (neg : Bool) : Nat := if neg then 2 ^ f.signBit else 0

/-- The value of a pattern (R519). -/
def FpFmt.decode (f : FpFmt) (x : Nat) : Fp :=
  let neg := decide (x / 2 ^ f.signBit % 2 = 1)
  let ex := x / 2 ^ f.mbits % 2 ^ f.ebits
  let m := x % 2 ^ f.mbits
  let q : Int := 1 - (f.bias : Int) - (f.mbits : Int)
  if ex = f.emax ∧ f.inf then (if m = 0 then .inf neg else .nan)
  else if ex = f.emax ∧ m = 2 ^ f.mbits - 1 then .nan
  else if ex = 0 then .num neg m q
  else .num neg (2 ^ f.mbits + m) (q + (ex : Int) - 1)

/-- What a magnitude beyond the format becomes: infinity, or the largest number where there is none (Table 02-5). -/
def FpFmt.overflowPat (f : FpFmt) (neg : Bool) : Nat :=
  f.signPat neg + (if f.inf then f.emax * 2 ^ f.mbits else 2 ^ f.signBit - 2)

/-- Round to nearest even of `m × 2^e`, with `sticky` set when the exact value is a little above it (by less than one unit of a mantissa of at least two bits more than the format's). -/
def FpFmt.round (f : FpFmt) (neg : Bool) (m : Nat) (e : Int) (sticky : Bool) : Nat :=
  if m = 0 then f.signPat neg
  else
    let top : Int := e + (Nat.log2 m : Int)
    let qmin : Int := 1 - (f.bias : Int) - (f.mbits : Int)
    let q : Int := max (top - (f.mbits : Int)) qmin
    let r : Nat :=
      if q ≤ e then m * 2 ^ (e - q).toNat
      else
        let s := (q - e).toNat
        let t := m / 2 ^ s
        let rem := m % 2 ^ s
        let half := 2 ^ (s - 1)
        if rem > half ∨ (rem = half ∧ (sticky ∨ t % 2 = 1)) then t + 1 else t
    let (r', q') := if r ≥ 2 ^ (f.mbits + 1) then (r / 2, q + 1) else (r, q)
    if r' < 2 ^ f.mbits then f.signPat neg + r'
    else
      let ex : Int := q' + (f.bias : Int) + (f.mbits : Int)
      let body := ex.toNat * 2 ^ f.mbits + (r' - 2 ^ f.mbits)
      if f.inf then
        (if ex ≥ (f.emax : Int) then f.overflowPat neg else f.signPat neg + body)
      else
        (if ex > (f.emax : Int) ∨ body ≥ 2 ^ f.signBit - 1 then f.overflowPat neg else f.signPat neg + body)

/-- The pattern of a decoded value rounded once to the format (R522). -/
def FpFmt.encode (f : FpFmt) : Fp → Nat
  | .nan => f.nanPat
  | .inf neg => f.overflowPat neg
  | .num neg m e => f.round neg m e false

/-- Whether a pattern is subnormal or zero. -/
def FpFmt.tiny (f : FpFmt) (x : Nat) : Bool := decide (x / 2 ^ f.mbits % 2 ^ f.ebits = 0)

/-- A subnormal pattern flushed to the zero of its sign (R78, R295). -/
def FpFmt.flush (f : FpFmt) (x : Nat) : Nat := if f.tiny x then x / 2 ^ f.signBit % 2 * 2 ^ f.signBit else x


/-- The exact sum of two numbers, as sign, magnitude and exponent. An exact zero sum of unlike signs is +0. -/
def Fp.add : Fp → Fp → Fp
  | .nan, _ => .nan
  | _, .nan => .nan
  | .inf a, .inf b => if a = b then .inf a else .nan
  | .inf a, _ => .inf a
  | _, .inf b => .inf b
  | .num na ma ea, .num nb mb eb =>
    let e := min ea eb
    let x : Int := (ma * 2 ^ (ea - e).toNat : Nat)
    let y : Int := (mb * 2 ^ (eb - e).toNat : Nat)
    let t : Int := (if na then -x else x) + (if nb then -y else y)
    if t = 0 then .num (na && nb) 0 e else .num (decide (t < 0)) t.natAbs e

/-- The exact product of two values. -/
def Fp.mul : Fp → Fp → Fp
  | .nan, _ => .nan
  | _, .nan => .nan
  | .inf a, .inf b => .inf (a != b)
  | .inf a, .num b m _ => if m = 0 then .nan else .inf (a != b)
  | .num b m _, .inf a => if m = 0 then .nan else .inf (a != b)
  | .num na ma ea, .num nb mb eb => .num (na != nb) (ma * mb) (ea + eb)

/-- The value with its sign changed; a NaN stays NaN. -/
def Fp.neg : Fp → Fp
  | .nan => .nan
  | .inf a => .inf (!a)
  | .num n m e => .num (!n) m e

/-- Whether `a < b`; false when either is NaN. -/
def Fp.lt : Fp → Fp → Bool
  | .nan, _ => false
  | _, .nan => false
  | .inf a, .inf b => a && !b
  | .inf a, .num _ _ _ => a
  | .num _ _ _, .inf b => !b
  | .num na ma ea, .num nb mb eb =>
    let e := min ea eb
    let x : Int := (ma * 2 ^ (ea - e).toNat : Nat)
    let y : Int := (mb * 2 ^ (eb - e).toNat : Nat)
    decide ((if na then -x else x) < (if nb then -y else y))

/-- Whether a value is NaN. -/
def Fp.isNan : Fp → Bool
  | .nan => true
  | _ => false

/-- The integer nearest to a value, ties to even, saturated to `[lo, hi]`; NaN gives 0 (R295, R522). -/
def Fp.toInt (lo hi : Int) : Fp → Int
  | .nan => 0
  | .inf neg => if neg then lo else hi
  | .num neg m e =>
    let r : Nat :=
      if 0 ≤ e then m * 2 ^ e.toNat
      else
        let s := (-e).toNat
        let t := m / 2 ^ s
        let rem := m % 2 ^ s
        let half := 2 ^ (s - 1)
        if rem > half ∨ (rem = half ∧ t % 2 = 1) then t + 1 else t
    let x : Int := if neg then -(r : Int) else r
    max lo (min hi x)

/-- An integer as an exact value. -/
def Fp.ofInt (x : Int) : Fp := .num (decide (x < 0)) x.natAbs 0

/-- The integer square root by bits: the largest `r` below `2^n` with `r * r ≤ x`. -/
def isqrt (x : Nat) : Nat → Nat
  | 0 => 0
  | n + 1 =>
    let r := 2 * isqrt (x / 4) n
    if (r + 1) * (r + 1) ≤ x then r + 1 else r

/-- A quotient rounded once to a format; `0/0` and `inf/inf` are NaN, a number over zero is infinite. -/
def fpDiv (f : FpFmt) : Fp → Fp → Nat
  | .nan, _ => f.nanPat
  | _, .nan => f.nanPat
  | .inf _, .inf _ => f.nanPat
  | .inf a, .num b _ _ => f.overflowPat (a != b)
  | .num a _ _, .inf b => f.signPat (a != b)
  | .num na ma ea, .num nb mb eb =>
    if mb = 0 then (if ma = 0 then f.nanPat else f.overflowPat (na != nb))
    else
      let n := ma * 2 ^ 64
      f.round (na != nb) (n / mb) (ea - eb - 64) (decide (n % mb ≠ 0))

/-- A square root rounded once to a format; −0 gives −0, and a number below zero gives NaN. -/
def fpSqrt (f : FpFmt) : Fp → Nat
  | .nan => f.nanPat
  | .inf neg => if neg then f.nanPat else f.overflowPat false
  | .num neg m e =>
    if m = 0 then f.signPat neg
    else if neg then f.nanPat
    else
      let (m', e') := if e % 2 = 0 then (m * 2 ^ 64, e - 64) else (m * 2 ^ 65, e - 65)
      let r := isqrt m' 64
      f.round false r (e' / 2) (decide (r * r ≠ m'))

/-! ### FP32 with flushed subnormals: the scalar core (R295) and the vector unit (R78) -/

/-- An FP32 word as the scalar core and the vector unit read it. -/
def rdF (w : Word) : Fp := fp32.decode (fp32.flush w.toNat)

/-- A result as the scalar core and the vector unit write it. -/
def wrF (x : Nat) : Word := BitVec.ofNat 32 (fp32.flush x)

def fAdd (a b : Word) : Word := wrF (fp32.encode ((rdF a).add (rdF b)))
def fSub (a b : Word) : Word := wrF (fp32.encode ((rdF a).add (rdF b).neg))
def fMul (a b : Word) : Word := wrF (fp32.encode ((rdF a).mul (rdF b)))
/-- `d + a × b` with one rounding (Table 10-3). -/
def fFma (d a b : Word) : Word := wrF (fp32.encode (((rdF a).mul (rdF b)).add (rdF d)))
def fDiv (a b : Word) : Word := wrF (fpDiv fp32 (rdF a) (rdF b))
def fSqrt (a : Word) : Word := wrF (fpSqrt fp32 (rdF a))

/-- Whether two values are equal as numbers; false when either is NaN. -/
def Fp.eqNum (a b : Fp) : Bool := !a.isNan && !b.isNan && !a.lt b && !b.lt a

/-- The larger of two words; NaN gives the NaN pattern, and +0 is greater than −0 (R295, Table 05-4). -/
def fMax (a b : Word) : Word :=
  if (rdF a).isNan ∨ (rdF b).isNan then BitVec.ofNat 32 fp32.nanPat
  else if (rdF a).lt (rdF b) then wrF b.toNat
  else if (rdF b).lt (rdF a) then wrF a.toNat
  else if a.msb then wrF b.toNat else wrF a.toNat

/-- The smaller of two words, with the corners of `fMax`. -/
def fMin (a b : Word) : Word :=
  if (rdF a).isNan ∨ (rdF b).isNan then BitVec.ofNat 32 fp32.nanPat
  else if (rdF a).lt (rdF b) then wrF a.toNat
  else if (rdF b).lt (rdF a) then wrF b.toNat
  else if a.msb then wrF a.toNat else wrF b.toNat

def boolWord (p : Bool) : Word := if p then 1#32 else 0#32
def fEq (a b : Word) : Word := boolWord ((rdF a).eqNum (rdF b))
def fLt (a b : Word) : Word := boolWord ((rdF a).lt (rdF b))
def fLe (a b : Word) : Word := boolWord ((rdF a).lt (rdF b) || (rdF a).eqNum (rdF b))
/-- FCVT.S.W. -/
def fOfInt (a : Word) : Word := wrF (fp32.encode (Fp.ofInt a.toInt))
/-- FCVT.W.S. -/
def fToInt (a : Word) : Word := BitVec.ofInt 32 ((rdF a).toInt (-2147483648) 2147483647)
/-- FABS: a NaN result is the one NaN pattern, a subnormal is flushed. -/
def fAbs (a : Word) : Word :=
  if (rdF a).isNan then BitVec.ofNat 32 fp32.nanPat else wrF (a.toNat % 2 ^ 31)
/-- FNEG, with the corners of `fAbs`. -/
def fNeg (a : Word) : Word :=
  if (rdF a).isNan then BitVec.ofNat 32 fp32.nanPat else wrF ((a ^^^ 0x80000000#32).toNat)

/-! ### Functions that the spec bounds in ulp only (Table 02-7) -/

/-- ln 2 × 2^128, rounded down. -/
def ln2Fix : Nat := 235865763225513294137944142764154484399

/-- The Taylor series of exp on a fixed-point argument of 128 fraction bits, `n` terms. -/
def expSeries (x : Nat) : Nat → Nat → Nat → Nat
  | 0, _, acc => acc
  | n + 1, term, acc =>
    let k := 60 - n
    let t := term * x / 2 ^ 128 / k
    expSeries x n t (acc + t)

/-- exp of `(-1)^neg × m × 2^e` as mantissa and exponent, good to far more bits than FP32 holds. Arguments beyond ±200 are cut there. -/
def expParts (neg : Bool) (m : Nat) (e : Int) : Nat × Int :=
  let raw : Nat := if 0 ≤ e + 128 then m * 2 ^ (e + 128).toNat else m / 2 ^ (-(e + 128)).toNat
  let x : Int := (min raw (200 * 2 ^ 128) : Nat)
  let y : Int := if neg then -x else x
  let k : Int := y / (ln2Fix : Int)
  let r : Nat := (y - k * (ln2Fix : Int)).toNat
  (expSeries r 60 (2 ^ 128) (2 ^ 128), k - 128)

/-- A magnitude of at most `b` units in the last place of pattern `p`: how far a result may lie from the exact value. -/
def ulpBound (b p : Nat) : Fp :=
  match fp32.decode p with
  | .num _ _ e => .num false b e
  | x => x

/-- The positive FP32 patterns that lie within `b` ulp of the exact value `m × 2^e`, found about the pattern nearest to it (Table 02-7). -/
def ulpNear (b m : Nat) (e : Int) : List Nat :=
  let p := fp32.round false m e true
  let far (r : Nat) : Bool :=
    let d := (fp32.decode r).add (.num true m e)
    (ulpBound b p).lt d || (ulpBound b p).lt d.neg
  ((List.range 9).map (fun i => p + i - 4)).filter (fun r => decide (r < 0x7F800000) && !far r)

/-- A result of draw `n` for operand `w` within `b` ulp of the exact value `m × 2^e`. -/
def withinUlp (b n : Nat) (w : Word) (m : Nat) (e : Int) : Nat :=
  let rs := ulpNear b m e
  rs.getD (Config.freeUlp n w % rs.length) (fp32.round false m e true)

/-- exp in FP32, within 2 ulp: +infinity above 88.72, +0 below −103.97 (R78). `n` is the draw of the free error. -/
def fExp (n : Nat) (a : Word) : Word :=
  match rdF a with
  | .nan => BitVec.ofNat 32 fp32.nanPat
  | .inf neg => if neg then 0#32 else BitVec.ofNat 32 (fp32.overflowPat false)
  | .num neg m e =>
    if !neg && (Fp.num false 8872 (-0)).lt ((Fp.num neg m e).mul (Fp.num false 100 0)) then
      BitVec.ofNat 32 (fp32.overflowPat false)
    else if neg && (Fp.num false 10397 (-0)).lt ((Fp.num false m e).mul (Fp.num false 100 0)) then 0#32
    else if m = 0 then wrF (withinUlp 2 n a 1 0)
    else
      let (em, ee) := expParts neg m e
      wrF (withinUlp 2 n a em ee)

/-- The reciprocal square root in FP32, within 1 ulp: +infinity for ±0 and NaN below zero (R78). -/
def fRsqrt (n : Nat) (a : Word) : Word :=
  match rdF a with
  | .nan => BitVec.ofNat 32 fp32.nanPat
  | .inf neg => if neg then BitVec.ofNat 32 fp32.nanPat else 0#32
  | .num neg m e =>
    if m = 0 then BitVec.ofNat 32 (fp32.overflowPat false)
    else if neg then BitVec.ofNat 32 fp32.nanPat
    else
      let (m', e') := if e % 2 = 0 then (m, e) else (m * 2, e - 1)
      let r := isqrt (2 ^ 160 / m') 80
      wrF (withinUlp 1 n a r (-80 - e' / 2))

/-- The sigmoid in FP32, within 2 ulp (Table 02-7): 1 / (1 + exp(−x)). -/
def fSigmoid (n : Nat) (a : Word) : Word :=
  match rdF a with
  | .nan => BitVec.ofNat 32 fp32.nanPat
  | .inf neg => if neg then 0#32 else 0x3F800000#32
  | .num neg m e =>
    let (em, ee) := expParts (!neg) m e
    -- exp(-x) at 200 fraction bits
    let t : Nat := if 0 ≤ ee + 200 then em * 2 ^ (ee + 200).toNat else em / 2 ^ (-(ee + 200)).toNat
    let q := 2 ^ 500 / (2 ^ 200 + t)
    wrF (withinUlp 2 n a q (-300))

/-! ### FP32 with kept subnormals: the Lattice and the Merge tree (R76, R136, R137) -/

/-- An addition in FP32, round to nearest even, subnormals kept. -/
def kAdd (a b : Word) : Word :=
  BitVec.ofNat 32 (fp32.encode ((fp32.decode a.toNat).add (fp32.decode b.toNat)))

/-- A multiplication in FP32, round to nearest even, subnormals kept. -/
def kMul (a b : Word) : Word :=
  BitVec.ofNat 32 (fp32.encode ((fp32.decode a.toNat).mul (fp32.decode b.toNat)))

/-- A division in FP32, round to nearest even, subnormals kept. -/
def kDiv (a b : Word) : Word :=
  BitVec.ofNat 32 (fpDiv fp32 (fp32.decode a.toNat) (fp32.decode b.toNat))

/-- The larger of two FP32 words, subnormals kept; NaN gives the NaN pattern and +0 is greater than −0 (Table 05-4). -/
def kMax (a b : Word) : Word :=
  let x := fp32.decode a.toNat
  let y := fp32.decode b.toNat
  if x.isNan ∨ y.isNan then BitVec.ofNat 32 fp32.nanPat
  else if x.lt y then b else if y.lt x then a else if a.msb then b else a

/-- A pattern of one format rounded once to another (R522). -/
def convert (src dst : FpFmt) (x : Nat) : Nat := dst.encode (src.decode x)

/-- As `convert`, with subnormals of the source and of the result flushed, as the vector unit works (R78). -/
def convertFlush (src dst : FpFmt) (x : Nat) : Nat := dst.flush (dst.encode (src.decode (src.flush x)))

/-- Insert by a key, smallest first, equal keys in order of arrival. -/
def insertKey {α : Type} (k : Nat) (x : α) : List (Nat × α) → List (Nat × α)
  | [] => [(k, x)]
  | (k', y) :: t => if k < k' then (k, x) :: (k', y) :: t else (k', y) :: insertKey k x t

/-- A list in the order that draw `n` of the free order gives (R77, R135): every order is possible. -/
def freeShuffle {α : Type} (n : Nat) (xs : List α) : List α :=
  let keyed := xs.zipIdx.map (fun p => (Config.freeOrder n p.2, p.1))
  (keyed.foldl (fun acc p => insertKey p.1 p.2 acc) []).map (·.2)

end Sys2Proof.Machine
end

