-- ==== Sys2Proof/Machine/Tile.lean ====
section
/-! DEFINITION. Stored weight tiles: the header and its check (R83 to R85), bitmap and packed values (R86 to R89), depths (R90, R111), the Compactor's choice of a gather factor (R106, R113, R114) and the cells of a pass (R110), and the compressing store (R94 to R98). -/

namespace Sys2Proof.Machine

/-- A tile's bytes; a byte beyond the fetched length reads as zero (R93). -/
abbrev TileBytes := Array Byte

/-- Byte `i` of a tile, as a number. -/
def tb (t : TileBytes) (i : Nat) : Nat := (t.getD i 0#8).toNat

/-- A 16-bit header field. -/
def tb2 (t : TileBytes) (i : Nat) : Nat := tb t i + 256 * tb t (i + 1)

/-- The header check byte: 0x5A with each header byte exclusive-ored (R84). -/
def headerCheck (bs : List Byte) : Byte := (bs.take 31).foldl (· ^^^ ·) 0x5A#8

/-- A header passes its check. -/
def headerOk (t : TileBytes) : Bool := headerCheck ((List.range 31).map (fun i => t.getD i 0#8)) = t.getD 31 0#8

/-- WIDTH; 0 and values above 8 mean 8 (R100). -/
def tileWidth (t : TileBytes) : Nat := if tb t 1 = 0 ∨ 8 < tb t 1 then 8 else tb t 1

/-- NNZ. -/
def tileNnz (t : TileBytes) : Nat := tb2 t 2

/-- VALUE_OFF. -/
def tileOff (t : TileBytes) : Nat := tb2 t 4

/-- A layout code of 1 is sparse; every other code is dense (R100). -/
def tileSparse (t : TileBytes) : Bool := decide (tb t 0 % 16 = 1)

/-- Bytes of the packed values (R83). -/
def valueBytes (width nnz : Nat) : Nat := if width = 8 then nnz else width * 16 * ceilDiv nnz 128

/-- The stored length that the header gives (R83). The spec says what the Compactor makes of a WIDTH of 0 or above 8 (Table 03-3) and not what the fetch does: the model takes 8 in both. DESIGN CHOICE (log entry 28). -/
def storedLength (t : TileBytes) : Nat := ceilDiv (tileOff t + valueBytes (tileWidth t) (tileNnz t)) 32 * 32

/-- What a tile counts against its staging bank (R114). -/
def fitLength (t : TileBytes) : Nat := if headerOk t then storedLength t else 32

/-- A tile's depth at gather factor `g`, from its header alone (R111). -/
def tileDepth (t : TileBytes) (g : Nat) : Nat :=
  if !headerOk t then 0
  else if g = 1 then (if tileSparse t ∧ tileNnz t = 0 then 0 else 1)
  else if tileSparse t then min g (tb t (if g = 2 then 6 else if g = 4 then 7 else 8))
  else g

/-- Whether element (k, c) of a tile is stored: by its bitmap bit, or always in dense form (R86, R87). -/
def stored (t : TileBytes) (k c : Nat) : Bool := !tileSparse t || bitSet8 (tb t (32 + 16 * c + k / 8)) (k % 8)
where
  /-- Whether bit `i` of a byte is set. -/
  bitSet8 (x i : Nat) : Bool := decide (x / 2 ^ i % 2 = 1)

/-- Packed value `i` of a tile (R88). -/
def packedValue (t : TileBytes) (i : Nat) : Nat :=
  let w := tileWidth t
  if w = 8 then tb t (tileOff t + i)
  else
    let l := 16 * ceilDiv (tileNnz t) 128
    (List.range w).foldl (fun v b => v + tb t (tileOff t + b * l + i / 8) / 2 ^ (i % 8) % 2 * 2 ^ b) 0

/-- A packed value as the stationary byte: integers sign-extended to 8 bits, an INT1 code read as +1 or −1, FP8 patterns as they stand (R74, R89). -/
def stationary (fmt width v : Nat) : Nat :=
  if fmt ≠ 0 then v
  else if width = 1 then (if v = 0 then 1 else 255)
  else wrapOf 8 (signedOf width v)

/-- The stored elements of column `c` before K-index `k`. -/
def storedBelow (t : TileBytes) (c k : Nat) : Nat := ((List.range k).filter (fun i => stored t i c)).length

/-- The packed index of the first stored element of each column, as running sums. -/
def columnStarts (t : TileBytes) : Array Nat :=
  (List.range 128).foldl (fun (acc : Array Nat) c => acc.push (acc.getD c 0 + storedBelow t c 128)) #[0]

/-- The packed index of element (k, c). -/
def packedIndex (t : TileBytes) (starts : Array Nat) (k c : Nat) : Nat :=
  if tileSparse t then starts.getD c 0 + storedBelow t c k else c * 128 + k

/-- Cell (j, c) of pass `p` of a group at `g`: the `p`-th stored element of its window with its selector, as stationary byte plus 256 times selector; zero where the window has no further one, where the header failed its check, and from K-index `kp` on in the span's last tile (R85, R110, R327). -/
def cellOf (fmt g p kpLast lastTile : Nat) (group : List (TileBytes × Array Nat)) (first j c : Nat) : Nat :=
  let i := g * j / 128
  let k0 := g * j % 128
  match group[i]? with
  | none => 0
  | some (t, starts) =>
    if !headerOk t then 0
    else
      match (((List.range g).map (k0 + ·)).filter (fun k => stored t k c))[p]? with
      | none => 0
      | some k =>
        let v := if first + i = lastTile ∧ kpLast ≤ k then 0 else stationary fmt (tileWidth t) (packedValue t (packedIndex t starts k c))
        v + 256 * (k - k0)

/-- The cells of a pass, rows 0 to 127 by `cols` columns from `col0`, those that are not zero, in rising order of 128 × row + column. -/
def passCells (fmt g p kpLast lastTile first cols col0 : Nat) (tiles : List TileBytes) : List (Nat × Nat) :=
  let group := tiles.map (fun t => (t, columnStarts t))
  (List.range 128).flatMap (fun j =>
    ((List.range cols).map (fun c => (128 * j + c, cellOf fmt g p kpLast lastTile group first j (col0 + c)))).filter (fun x => x.2 ≠ 0))

/-! ### The choice of a gather factor -/

/-- The groups of a span at `g`. -/
def groupsOf (tiles : List TileBytes) (g : Nat) : List (List TileBytes) :=
  (List.range (tiles.length / g)).map (fun q => (tiles.drop (q * g)).take g)

/-- The pass count of a group (R110, R111). -/
def groupPasses (g : Nat) (group : List TileBytes) : Nat := (group.map (fun t => tileDepth t g)).foldl max 0

/-- The groups of a span at `g`, with their pass counts (R107). -/
def spanGroups (tiles : List TileBytes) (g : Nat) : List TileGroup := (groupsOf tiles g).zipIdx.map (fun x => ⟨g * x.2, g, groupPasses g x.1⟩)

/-- passes(g) (R113). -/
def passesAt (tiles : List TileBytes) (g : Nat) : Nat := ((spanGroups tiles g).map (·.passes)).sum

/-- A group fits when its stored lengths add up to no more than a bank (R114). -/
def groupFits (group : List TileBytes) : Bool := decide ((group.map fitLength).sum ≤ 32768)

/-- A candidate fits when each group's stored lengths add up to no more than a bank; 1 always fits (R114). -/
def fits (tiles : List TileBytes) (g : Nat) : Bool := decide (g = 1) || (groupsOf tiles g).all groupFits

/-- The candidates of a span: 1, and each of 2, 4, 8 no larger than n and the effective GMAX (R113). -/
def candidates (n gmax : Nat) : List Nat := [1, 2, 4, 8].filter (fun g => decide (g = 1) || (decide (g ≤ n) && decide (g ≤ gmax)))

/-- The chosen gather factor: fewest passes among the candidates that fit, the smallest on a tie (R113). -/
def chooseG (tiles : List TileBytes) (n gmax : Nat) : Nat :=
  ((candidates n gmax).filter (fits tiles)).foldl (fun best g => if passesAt tiles g < passesAt tiles best then g else best) 1

/-- A candidate with fewer passes than the chosen one failed to fit (R114). -/
def nofit (tiles : List TileBytes) (n gmax : Nat) : Bool :=
  (candidates n gmax).any (fun g => !fits tiles g && decide (passesAt tiles g < passesAt tiles (chooseG tiles n gmax)))

/-- The 2OF4 bit of a tile; a dense tile's is ignored, and a header that fails its check declares nothing (R91). -/
def twoOfFour (t : TileBytes) : Bool := headerOk t && tileSparse t && decide (tb t 9 % 2 = 1)

/-- The groups of a span in structured mode: each aligned four tiles that declare 2-of-4 and fit a bank run two passes at 4, every other tile one dense pass (R126). -/
def structGroups (tiles : List TileBytes) : List TileGroup :=
  let dense (first k : Nat) : List TileGroup := (List.range k).map (fun i => ⟨first + i, 1, 1⟩)
  if tiles.length < 4 then dense 0 tiles.length
  else (groupsOf tiles 4).zipIdx.flatMap (fun x => if x.1.all twoOfFour && groupFits x.1 then [⟨4 * x.2, 4, 2⟩] else dense (4 * x.2) 4)

/-- The groups that the Compactor runs a span in (R113, R126). -/
def chosenGroups (struct : Bool) (tiles : List TileBytes) (gmax : Nat) : List TileGroup :=
  if struct then structGroups tiles else spanGroups tiles (chooseG tiles tiles.length gmax)

/-- The (group, pass) pairs of a span, in the order of R118. -/
def passList (groups : List TileGroup) : List (Nat × Nat) := groups.zipIdx.flatMap (fun x => (List.range x.1.passes).map (fun p => (x.2, p)))

/-! ### The compressing store -/

/-- Whether a source byte is zero for a compressing store (R96). -/
def srcZero (elem width : Nat) (b : Nat) : Bool :=
  if elem ≠ 0 then decide (b % 128 = 0) else if width = 1 then false else decide (b % 2 ^ width = 0)

/-- The value that a compressing store keeps of a source byte: its low bits, and +0 for −0 (R96). -/
def srcValue (elem width : Nat) (b : Nat) : Nat := if elem ≠ 0 then (if b = 128 then 0 else b) else b % 2 ^ width

/-- Packed values as bytes: one byte each at width 8, else bit planes padded to 16 × ceil(n / 128) bytes (R88). -/
def packValues (width : Nat) (vs : List Nat) : List Byte :=
  if width = 8 then vs.map (fun v => BitVec.ofNat 8 v)
  else
    let a := vs.toArray
    let l := 16 * ceilDiv vs.length 128
    (List.range width).flatMap (fun b => (List.range l).map (fun i =>
      BitVec.ofNat 8 ((List.range 8).foldl (fun x j => x + a.getD (8 * i + j) 0 / 2 ^ b % 2 * 2 ^ j) 0)))

/-- The largest number of set bits in an aligned window of `g` K-indices of one column (R90). -/
def windowDepth (set : Nat → Nat → Bool) (g : Nat) : Nat :=
  (List.range 128).foldl (fun m c => (List.range (128 / g)).foldl (fun m v =>
    max m (((List.range g).filter (fun i => set (g * v + i) c)).length)) m) 0

/-- WIDTH of a tile that a compressing store writes: the descriptor's, 8 for FP8 (Table 03-1, R94). -/
def ctileWidth (elem width : Nat) : Nat := if elem = 0 then width else 8

/-- The size of a tile in dense form (Table 03-2). -/
def denseSize (width : Nat) : Nat := 32 + 2048 * width

/-- The header of a stored tile (Table 03-1). -/
def tileHeader (elem layout width nnz off d2 d4 d8 of4 : Nat) : List Byte :=
  let h := leBytes 1 (elem * 16 + layout) ++ leBytes 1 width ++ leBytes 2 nnz ++ leBytes 2 off ++ leBytes 1 d2 ++ leBytes 1 d4 ++ leBytes 1 d8
    ++ leBytes 1 of4 ++ List.replicate 21 0#8
  h ++ [headerCheck h]

/-- The stored form of a source tile: `src k c` is the source byte of element (k, c) (R94, R95). An FP8 tile has width 8 (Table 03-1). -/
def compressTile (elem width : Nat) (src : Nat → Nat → Nat) : List Byte :=
  let set (k c : Nat) : Bool := !srcZero elem width (src k c)
  let order := (List.range 128).flatMap (fun c => (List.range 128).map (fun k => (k, c)))
  let nz := order.filter (fun x => set x.1 x.2)
  let sparse := ceilDiv (2080 + valueBytes width nz.length) 32 * 32
  let pad (xs : List Byte) : List Byte := xs ++ List.replicate (ceilDiv xs.length 32 * 32 - xs.length) 0#8
  if denseSize width ≤ sparse then
    pad (tileHeader elem 0 width 16384 32 2 4 8 0 ++ packValues width (order.map (fun x => srcValue elem width (src x.1 x.2))))
  else
    let d4 := windowDepth set 4
    let bitmap := (List.range 2048).map (fun i =>
      BitVec.ofNat 8 ((List.range 8).foldl (fun x j => x + (if set (i % 16 * 8 + j) (i / 16) then 2 ^ j else 0)) 0))
    pad (tileHeader elem 1 width nz.length 2080 (windowDepth set 2) d4 (windowDepth set 8) (if d4 ≤ 2 then 1 else 0) ++ bitmap
      ++ packValues width (nz.map (fun x => srcValue elem width (src x.1 x.2))))

end Sys2Proof.Machine
end

