-- ==== Sys2Proof/Machine/Lattice.lean ====
section
/-! DEFINITION. The Lattice and the Compactor at run time: accumulator words (R55, R75 to R77), the west ring (R523), staging (R115, R119), stationary loads (R58, R107), the injection of streamed rows (R109 to R112, R118) and the commands of the LAT queue (R325 to R329). -/

namespace Sys2Proof.Machine

/-- The Lattice that a context uses. -/
def latOf (s : State) (w : Who) : Lat := (facetOf s w.lf).lat w.ctx

/-- The first accumulator column that a context's commands use. -/
def colBase (s : State) (w : Who) : Nat := if halves s w then 64 * w.ctx else 0

/-- The size of a context's ring (R523). -/
def ringSize (s : State) (w : Who) : Nat := if halves s w then 32768 else 65536

/-- The first buffer offset of a context's ring (R523). -/
def ringBase (s : State) (w : Who) : Nat := if halves s w then 32768 * w.ctx else 0

/-- The cycles of a stationary load (R58, R68). -/
def loadCycles (s : State) (w : Who) : Nat := if halves s w then 64 else 128

/-- The cycles from the last injection to the last accumulator write (R61, R68). -/
def drainCycles (s : State) (w : Who) : Nat := if halves s w then 190 else 254

/-- The draw that names the free values of a column's or byte's half. -/
def Facet.epoch (f : Facet) (inB : Bool) : Nat := if inB then f.epochB else f.epochA

/-- An accumulator word; one that the task has not written holds an unspecified value (R55, R56). -/
def Facet.accAt (f : Facet) (row col : Nat) : Word :=
  mapGet f.acc (128 * row + col) (Config.freeAcc (f.epoch (decide (64 ≤ col))) (128 * row + col))

/-- A byte of the west activation buffer. -/
def Facet.wabAt (f : Facet) (o : Nat) : Byte := mapGet f.wab o (Config.freeByte (f.epoch (decide (32768 ≤ o))) o)

/-- A byte of the staging buffer: bank 0 at offset 0, bank 1 at offset 32 768 (R119). -/
def Facet.stgAt (f : Facet) (o : Nat) : Byte := mapGet f.stg o (Config.freeByte (f.epoch (decide (32768 ≤ o))) (65536 + o))

/-- Accumulator words written. -/
def accPut (s : State) (lf : Nat) (ws : List (Nat × Word)) : State := modFacet s lf (fun f => { f with acc := mapPuts f.acc ws })

/-- A command of a context changed. -/
def modCmd (s : State) (w : Who) (seq : Nat) (g : ECmd → ECmd) : State :=
  modCtx s w (fun c => { c with cmds := c.cmds.map (fun x => if x.seq = seq then g x else x) })

/-! ### One streamed row -/

/-- The activation format (R328). -/
def actFmt (n : Nat) : FpFmt := if n = 1 then e4m3 else e5m2

/-- The exact product of two FP8 patterns, in FP32 (R76). -/
def fp8Product (wf af : Nat) (x y : Nat) : Word :=
  BitVec.ofNat 32 (fp32.encode (((actFmt wf).decode x).mul ((actFmt af).decode y)))

/-- The bytes that a row's bundles hold: the streamed row's bytes of one group, from the ring (R109, R523). -/
def bundleBytes (f : Facet) (base size start : Nat) (g q : Nat) : Array Byte :=
  ((List.range (128 * g)).map (fun i => f.wabAt (base + (start + 128 * g * q + i) % size))).toArray

/-- The stationary byte and the activation byte that meet in each cell of a column, row by row (R110). -/
def columnTerms (cells : SMap Nat) (bytes : Array Byte) (g c : Nat) : List (Nat × Nat) :=
  (List.range 128).map (fun j =>
    let x := mapGet cells (128 * j + c) 0
    (x % 256, (bytes.getD (g * j + x / 256) 0#8).toNat))

/-- An exact integer column sum (R75). -/
def intSum (ts : List (Nat × Nat)) : Int := ts.foldl (fun a t => a + signedOf 8 t.1 * signedOf 8 t.2) 0

/-- A floating-point column sum: the exact products added in FP32 in an order left free (R76, R77). -/
def fpSum (draw wf af : Nat) (ts : List (Nat × Nat)) : Word :=
  (freeShuffle draw (ts.map (fun t => fp8Product wf af t.1 t.2))).foldl kAdd 0#32

/-- A column sum added to an accumulator word that holds an integer, and whether it wrapped (R75). -/
def accInt (old : Word) (x : Int) : Word × Bool :=
  let t := old.toInt + x
  (BitVec.ofInt 32 t, decide (t < -2147483648 ∨ 2147483647 < t))

/-- The accumulator words of one streamed row in one pass, and how many additions wrapped. -/
def rowResult (s : State) (w : Who) (l : Lat) (r : LRun) (start g q : Nat) : List (Nat × Word) × Nat :=
  let f := facetOf s w.lf
  let bytes := bundleBytes f (ringBase s w) (ringSize s w) start g q
  let acc := r.accum || decide (0 < r.pass)
  let row := r.base + r.row
  let xs := (List.range r.np).map (fun c =>
    let ts := columnTerms l.cells bytes g c
    let col := colBase s w + c
    let old := f.accAt row col
    if l.cellFmt = 0 then
      (if acc then (128 * row + col, accInt old (intSum ts)) else (128 * row + col, (BitVec.ofInt 32 (intSum ts), false)))
    else
      let v := fpSum (s.free * 65536 + c) l.cellFmt r.afmt ts
      (128 * row + col, (if acc then kAdd old v else v, false)))
  (xs.map (fun x => (x.1, x.2.1)), (xs.filter (fun x => x.2.2)).length)

/-! ### The west ring -/

/-- Bytes taken from a place of the operand buffers, oldest first (R241). -/
def takeDue (place : Nat) : Nat → List Due → List Due
  | _, [] => []
  | n, d :: ds =>
    if d.place ≠ place then d :: takeDue place n ds
    else if d.bytes ≤ n then takeDue place (n - d.bytes) ds
    else { d with bytes := d.bytes - n } :: ds

/-- Bytes released: the read position advances and the fill level falls (R523). -/
def Lat.release (l : Lat) (size n : Nat) : Lat := { l with rd := (l.rd + n) % size, fill := l.fill - n, due := takeDue 2 n l.due }

/-- Bytes owed to be released unread are released as they are there (R523). -/
def Lat.drainDiscard (l : Lat) (size : Nat) : Lat :=
  let n := min l.discard l.fill
  { l.release size n with discard := l.discard - n }

/-- The rows of an LPASS stay in the ring for all its passes (R523). -/
def rowsFit (size n m : Nat) : Bool := decide (128 * n * m ≤ size)

/-- What an LPASS that reads no row releases (R523). -/
def unread (size n m : Nat) : Nat := if rowsFit size n m then 128 * n * m else n * (128 * n * m)

/-! ### Spans and staging (R115, R119) -/

/-- The tiles of a group. -/
def Span.groupTiles (sp : Span) (q : Nat) : List TileIn :=
  match sp.groups[q]? with
  | none => []
  | some g => (sp.tiles.drop g.first).take g.g

/-- A group of a span has a staging bank. -/
def Lat.hasBank (l : Lat) (sp : Span) (q : Nat) : Bool := l.banks.any (fun b => decide (b.seq = sp.seq) && decide (b.group = q))

/-- The groups still to be staged, in order: those of the span last loaded, then those of the spans chosen ahead. -/
def Lat.unstaged (l : Lat) : List (Span × Nat) :=
  (l.span.toList ++ l.ahead).flatMap (fun sp => ((distinct (sp.todo.map (·.1))).filter (fun q => !l.hasBank sp q)).map (fun q => (sp, q)))

/-- Transfers of the facet's engine put into a phase. -/
def setPhase (s : State) (w : Who) (ids : List Nat) (p : Phase) : State :=
  modEngine s w.lf (fun g => { g with transfers := g.transfers.map (fun t => if ids.contains t.id then { t with phase := p, late := false, tags := [] } else t) })

/-- The next group takes its bank where that is free: the banks alternate in full width, each half has its own (R119, R124). The values of its tiles are wanted from now on. -/
def stageNext (s : State) (w : Who) : State :=
  let l := latOf s w
  let bank := if halves s w then w.ctx else l.bank
  match l.unstaged with
  | [] => s
  | (sp, q) :: _ =>
    if l.banks.any (fun b => b.bank = bank) then s
    else
      let ids := (sp.groupTiles q).map (·.id)
      let s := setPhase s w ids .wanted
      modLat s w (fun l => { l with bank := if halves s w then l.bank else 1 - l.bank, banks := l.banks ++ [⟨sp.seq, q, bank, ids⟩] })

/-- Groups take the banks that are free. -/
def stageAll (s : State) (w : Who) : State := stageNext (stageNext s w) w

/-- Where in its bank a tile of a group stands: after the fetched lengths of the tiles before it (R119). -/
def bankOffset (tiles : List TileIn) (id : Nat) : Nat := ((tiles.takeWhile (fun t => t.id ≠ id)).map (·.len)).sum

/-- The bank use and the tiles of the group that a transfer brings a tile for. -/
def Lat.bankOfTile (l : Lat) (id : Nat) : Option (BankUse × List TileIn) :=
  match l.banks.find? (fun b => b.left.contains id) with
  | none => none
  | some b => ((l.span.toList ++ l.ahead).find? (fun sp => sp.seq = b.seq)).map (fun sp => (b, sp.groupTiles b.group))

/-- A tile's bytes staged in its bank. A tile that no stream engine wrote may be longer than the bank, and the spec does not say where its further bytes go: the model stages what fits, and reads zero beyond. DESIGN CHOICE (log entry 29). -/
def stageTile (s : State) (w : Who) (handle id : Nat) (bytes : List Byte) : State :=
  match (latOf s w).bankOfTile id with
  | none => s
  | some (b, tiles) =>
    let o := bankOffset tiles id
    let s := modFacet s w.lf (fun f => { f with stg := mapPuts f.stg (laidAt (32768 * b.bank + o) (bytes.take (32768 - o))) })
    modLat s w (fun l => { l with due := l.due ++ [⟨handle, b.bank, bytes.length⟩]
                                  banks := l.banks.map (fun x => { x with left := x.left.filter (· ≠ id) }) })

/-- A span's staging is over: its groups without a bank are not staged, and staged ones are released unread (R60, R65, R122). -/
def dropSpan (s : State) (w : Who) (sp : Span) : State :=
  let mine (b : BankUse) : Bool := decide (b.seq = sp.seq)
  let gone := ((latOf s w).banks.filter mine).map (·.bank)
  let s := setPhase s w (sp.tiles.map (·.id)) .over
  modLat s w (fun l => { l with banks := l.banks.filter (fun b => !mine b), due := l.due.filter (fun d => !gone.contains d.place) })

/-- The span of the last LLOAD ends: no group of it runs any more. -/
def spanOver (s : State) (w : Who) : State :=
  match (latOf s w).span with
  | none => s
  | some sp => stageAll (modLat (dropSpan s w sp) w (fun l => { l with span := some { sp with fresh := false, todo := [] } })) w

/-- A group's tiles as the Compactor reads them from their bank; a byte beyond the bank reads as zero. -/
def bankTiles (f : Facet) (tiles : List TileIn) (bank : Nat) : List TileBytes :=
  tiles.map (fun t =>
    let o := bankOffset tiles t.id
    ((List.range t.len).map (fun i => if o + i < 32768 then f.stgAt (32768 * bank + o + i) else 0#8)).toArray)

/-! ### CMP registers (Table 04-5) -/

/-- The code of a gather factor in G_LAST. -/
def gCode (g : Nat) : Nat := if g = 1 then 0 else if g = 2 then 1 else if g = 4 then 2 else 3

/-- G_LAST and P_LAST show a group. -/
def showGroup (s : State) (w : Who) (g : TileGroup) : State :=
  fset (fset s (Fld.cmpStatus_GLAST (physOf s w.lf)) (gCode g.g)) (Fld.cmpStatus_PLAST (physOf s w.lf)) g.passes

/-- The groups of a span before `upto` that have not been seen yet are skipped: each is counted and shown (R112). -/
def skipGroups (s : State) (w : Who) (sp : Span) (upto : Nat) : State :=
  let gone := (sp.groups.drop sp.seen).take (upto - sp.seen)
  gone.foldl (fun s g => showGroup (bump s (Fld.cmpCntSkip_COUNT (physOf s w.lf)) 1) w g) s

/-- A group runs: a tile at g = 1, a group at 2, 4 or 8. -/
def countGroup (s : State) (w : Who) (g : Nat) : State :=
  let pf := physOf s w.lf
  bump s (if g = 1 then Fld.cmpCntDense_COUNT pf else if g = 2 then Fld.cmpCntG2_COUNT pf
    else if g = 4 then Fld.cmpCntG4_COUNT pf else Fld.cmpCntG8_COUNT pf) 1

/-- A span has run: groups left over are skipped ones, and the passes it saved are counted. -/
def countSpan (s : State) (w : Who) (sp : Span) : State :=
  bump (skipGroups s w sp sp.groups.length) (Fld.cmpCntSaved_COUNT (physOf s w.lf)) (sp.n - sp.passes)

/-! ### Runs -/

/-- The loads that a span has had. -/
def Span.loads (sp : Span) : Nat := sp.passes - sp.todo.length

/-- The stationary values of the run's current pass are in the cells. -/
def passLoaded (l : Lat) (r : LRun) : Bool :=
  r.reuse || (match l.span with
    | none => false
    | some sp => decide (r.pass < sp.loads))

/-- Where the next row of the run starts, past the read position, when all its bytes are present (R62, R523). -/
def rowStart (size : Nat) (l : Lat) (r : LRun) : Option Nat :=
  let o := if rowsFit size r.n r.m then 128 * r.n * r.row else 0
  if l.discard = 0 ∧ o + 128 * r.n ≤ l.fill then some (l.rd + o) else none

/-- The gather factor and first tile of the group that the cells hold. -/
def cellsAt (l : Lat) (r : LRun) : Nat × Nat :=
  if r.reuse then (1, 0) else match l.span with
    | none => (1, 0)
    | some sp => match sp.groups[sp.cur.1]? with
      | none => (1, 0)
      | some g => (g.g, g.first / g.g)

/-- An LPASS has injected its last row: its command completes when the last accumulator value is written, and its span is over (R61). -/
def endRun (s : State) (w : Who) (r : LRun) : State :=
  let size := ringSize s w
  let s := match (latOf s w).span with
    | none => s
    | some sp => if r.reuse then s else countSpan s w sp
  let s := modLat s w (fun l =>
    let l := if rowsFit size r.n r.m then l.release size (128 * r.n * r.m) else { l with discard := l.discard + (r.n - r.passes) * (128 * r.n * r.m) }
    { l.drainDiscard size with run := none })
  let s := spanOver s w
  modCmd s w r.seq (fun c => { c with ready := true, doneAt := (latOf s w).busyUntil + drainCycles s w })

/-- One streamed row enters in this cycle: its sums go to the accumulator, its bytes are released once no pass needs them (R61, R75, R118, R523). -/
def injectRow (s : State) (w : Who) (r : LRun) (start : Nat) : State :=
  let l := latOf s w
  let pf := physOf s w.lf
  let size := ringSize s w
  let d := drainCycles s w
  let gq := cellsAt l r
  let s := match l.span with
    | some sp => if r.row = 0 ∧ r.reuse = false ∧ sp.cur.2 = 0 then countGroup s w gq.1 else s
    | none => s
  let res := rowResult s w l r start gq.1 gq.2
  let s := accPut s w.lf res.1
  let s := if res.2 = 0 then s else setFlag (bump s (Fld.latCntWrap_COUNT pf) res.2) (Fld.latStatus_ACCWRAP pf)
  let s := modLat (drawn s) w (fun l =>
    let l := if rowsFit size r.n r.m then l else l.release size (128 * r.n)
    { l with busyUntil := max l.busyUntil (s.now + 1), rowAt := mapPut l.rowAt (r.base + r.row) (s.now + 1 + d), run := some { r with row := r.row + 1 } })
  if r.row + 1 < r.m then s
  else
    let r' := { r with row := 0, pass := r.pass + 1 }
    let s := modLat s w (fun l => { l with ends := l.ends ++ [s.now + d], run := some r' })
    if r'.pass < r.passes then s else endRun s w r'

/-! ### The events of the Compactor -/

/-- The LAT command of a context that has started and has not injected or loaded yet. -/
def latCurrent (s : State) (w : Who) : Option ECmd :=
  (ctxOf s w).cmds.find? (fun c => decide (c.queue = .lat) && c.started.isSome && !c.ready)

/-- The KIND of the task that a context runs. -/
def kindOf (s : State) (w : Who) : Nat :=
  match (ctxOf s w).task with
  | none => 0
  | some id => ((taskRec s id).map (·.entry.kind)).getD 0

/-- A split-half task that has not issued LSPLIT may not load or run passes (R69). -/
def splitOk (s : State) (w : Who) : Bool := decide (kindOf s w < 2) || (ctxOf s w).lsplit

/-- The operands of an LLOAD are legal (R106, R326, R327). -/
def lloadOk (s : State) (w : Who) (n kp fmt : Nat) (hi : Bool) : Bool :=
  splitOk s w && [1, 2, 4, 8].contains n && decide (fmt < 3) && decide (kp ≤ 128) && (!hi || halves s w)

/-- A span before its choice (R106). -/
def newSpan (seq n kp fmt : Nat) (hi : Bool) : Span :=
  { seq := seq, n := n, kp := kp, fmt := fmt, hi := hi, tiles := [], groups := [], todo := [], passes := 0, chosen := false
    kzero := decide (kp = 0), fresh := true, cur := (0, 0), seen := 0 }

/-- The first LLOAD of a context's queue whose span is not chosen: one that has started, or one that waits and that no earlier LSPLIT or CMODE in the queue can change. -/
def unchosen (s : State) (w : Who) : Option Span :=
  let l := latOf s w
  match l.span with
  | some sp =>
    if !sp.chosen && !sp.kzero then some sp
    else
      let cs := (ctxOf s w).cmds.filter (fun c => decide (c.queue = .lat) && c.started.isNone && l.ahead.all (fun a => decide (a.seq < c.seq)))
      next cs
  | none =>
    next ((ctxOf s w).cmds.filter (fun c => decide (c.queue = .lat) && c.started.isNone && l.ahead.all (fun a => decide (a.seq < c.seq))))
where
  /-- The span of the next LLOAD of some commands. -/
  next : List ECmd → Option Span
  | [] => none
  | c :: cs =>
    match c.op with
    | .lload n kp fmt hi => if !lloadOk s w n kp fmt hi then none else if kp = 0 then next cs else some (newSpan c.seq n kp fmt hi)
    | .lpass _ _ _ _ _ => next cs
    | _ => none

/-- The span whose headers have reached the staging input (R115). -/
def choiceDue (s : State) (w : Who) : Option Span :=
  match unchosen s w with
  | none => none
  | some sp => if sp.n ≤ (latOf s w).tilesIn.length then some sp else none

/-- An LLOAD completes, and its span is loaded (Table 04-5). -/
def endLload (s : State) (w : Who) (seq at_ : Nat) : State :=
  modCmd (bump s (Fld.cmpCntSpan_COUNT (physOf s w.lf)) 1) w seq (fun x => { x with ready := true, doneAt := at_ })

/-- A span as the Compactor has chosen to run it. -/
def Span.choose (sp : Span) (tiles : List TileIn) (groups : List TileGroup) : Span :=
  { sp with tiles := tiles, groups := groups, todo := passList groups, passes := (passList groups).length, chosen := true }

/-- The Compactor chooses the gather factor of a span once its headers have arrived, for an LLOAD that has started or still waits in its queue; the tiles of skipped groups are over, and groups are staged as banks are free; a span of no passes ends its LLOAD (R112, R113, R115, R126, R326). -/
def execGatherFactorChoice (w : Who) (s : State) : Res :=
  match choiceDue s w with
  | none => .next s
  | some sp =>
    let l := latOf s w
    let pf := physOf s w.lf
    let tiles := l.tilesIn.take sp.n
    let heads := tiles.map (fun t => t.head.toArray)
    let gmax := if halves s w then min (ctxOf s w).gmax 4 else (ctxOf s w).gmax
    let groups := chosenGroups (fon s (Fld.cmpStatus_STRUCT pf)) heads gmax
    let x := sp.choose tiles groups
    let skipped := ((groups.zipIdx.filter (fun g => g.1.passes = 0)).flatMap (fun g => x.groupTiles g.2)).map (·.id)
    let started := decide ((l.span.map (·.seq)) = some sp.seq)
    let t := modLat s w (fun l =>
      { l with tilesIn := l.tilesIn.drop sp.n, span := if started then some x else l.span, ahead := if started then l.ahead else l.ahead ++ [x] })
    let t := if !fon s (Fld.cmpStatus_STRUCT pf) && nofit heads sp.n gmax then bump t (Fld.cmpCntNofit_COUNT pf) 1 else t
    let t := bump t (Fld.cmpCntHdrchk_COUNT pf) ((heads.filter (fun h => !headerOk h)).length)
    let t := stageAll (setPhase t w skipped .over) w
    .next (if started ∧ x.todo = [] then endLload t w sp.seq s.now else t)

/-- The next load of a span may run: its group stands whole in a bank, the row inputs are free, and the LLOAD or the run's next pass needs it (R58, R59, R115). -/
def loadDue (s : State) (w : Who) : Option (Span × Nat × Nat × Nat) :=
  let l := latOf s w
  match l.span with
  | none => none
  | some sp =>
    match sp.todo with
    | [] => none
    | (q, p) :: _ =>
      match l.banks.find? (fun b => decide (b.seq = sp.seq) && decide (b.group = q) && b.left.isEmpty) with
      | none => none
      | some b =>
        let wanted := match l.run with
          | some r => decide (sp.loads = r.pass) && decide (r.row = 0)
          | none => sp.fresh && decide (sp.loads = 0) && (latCurrent s w).isSome
        if sp.chosen && wanted && decide (l.busyUntil ≤ s.now) then some (sp, q, p, b.bank) else none

/-- A bank is released when a load has read it: it takes bytes again from cycle `at_` on (R119). -/
def Lat.releaseBank (l : Lat) (b at_ : Nat) : Lat :=
  { l with banks := l.banks.filter (fun x => x.bank ≠ b), due := l.due.filter (fun d => d.place ≠ b)
           free0 := if b = 0 then at_ else l.free0, free1 := if b = 1 then at_ else l.free1 }

/-- The Compactor loads the stationary values of a pass; a bank is released when the load of its group's last pass has read it (R58, R105, R119). -/
def execStationaryLoad (w : Who) (s : State) : Res :=
  match loadDue s w with
  | none => .next s
  | some (sp, q, p, bank) =>
    let rest := sp.todo.drop 1
    let last := rest.all (fun x => x.1 ≠ q)
    let g := sp.groups.getD q ⟨0, 1, 0⟩
    let cells := passCells sp.fmt g.g p sp.kp (sp.n - 1) g.first (colCount s w) (if sp.hi then 64 else 0) (bankTiles (facetOf s w.lf) (sp.groupTiles q) bank)
    let n := loadCycles s w
    let t := showGroup (skipGroups s w sp q) w g
    let t := modLat t w (fun l =>
      let l := if last then l.releaseBank bank (s.now + n) else l
      { l with cells := cells, cellFmt := sp.fmt, loadUntil := s.now + n, busyUntil := s.now + n
               span := some { sp with todo := rest, cur := (q, p), seen := q + 1 } })
    let t := if last then stageAll t w else t
    .next (match (latOf s w).run, latCurrent s w with
      | none, some c => endLload t w c.seq (s.now + n)
      | _, _ => t)

/-! ### The commands of the LAT queue -/

/-- LLOAD starts: none where it is faulting (R106, R326, R327). It takes its span, chosen already or not; the span before it is discarded (R122). With KP 0 it reads and loads nothing. -/
def startLload (s : State) (w : Who) (seq n kp fmt : Nat) (hi : Bool) : Option State :=
  if !lloadOk s w n kp fmt hi then none
  else
    let l := latOf s w
    let sp := (l.ahead.find? (fun x => x.seq = seq)).getD (newSpan seq n kp fmt hi)
    let t := match l.span with
      | none => s
      | some old => dropSpan s w old
    let t := modLat t w (fun l => { l with span := some sp, ahead := l.ahead.filter (fun x => x.seq ≠ seq) })
    let t := stageAll (modCtx t w (fun c => { c with lloaded := true })) w
    some (if kp = 0 then modCmd t w seq (fun x => { x with ready := true, doneAt := s.now + 1 })
      else if sp.chosen ∧ sp.todo = [] then endLload t w seq s.now else t)

/-- LPASS is faulting (R67, R70, R121, R328). -/
def lpassBad (s : State) (w : Who) (m base afmt np : Nat) : Bool :=
  let reuseBad := match (latOf s w).span with
    | none => true
    | some sp => !sp.fresh && decide (1 < sp.n)
  let fmt := match (latOf s w).span with
    | none => 0
    | some sp => sp.fmt
  !splitOk s w || !(ctxOf s w).lloaded || reuseBad || decide (2 < afmt) || decide (colCount s w < np) || decide (511 < base)
    || decide (512 < m) || decide (512 < base + m) || (decide (fmt = 0) != decide (afmt = 0))

/-- A pass that reads no row: it counts one pass, completes in 16 cycles, or when passes under way have left its `rows` (R72), and ends its span; its bytes are released unread (R64, R65, R523). -/
def emptyPass (s : State) (w : Who) (seq n m : Nat) (rows : List Nat) : State :=
  let size := ringSize s w
  let l := latOf s w
  let at_ := rows.foldl (fun a r => max a (mapGet l.rowAt r 0)) (max l.busyUntil s.now + 16)
  let s := modLat s w (fun l => Lat.drainDiscard { l with discard := l.discard + unread size n m, busyUntil := max l.busyUntil s.now + 16, ends := l.ends ++ [at_ - 1] } size)
  modCmd (spanOver s w) w seq (fun x => { x with ready := true, doneAt := at_ })

/-- The rows of a pass with K = 0 end holding their initial values (R64). -/
def initRows (s : State) (w : Who) (base m np : Nat) (accum : Bool) : State :=
  if accum then s
  else accPut s w.lf ((List.range m).flatMap (fun r => (List.range np).map (fun c => (128 * (base + r) + colBase s w + c, 0#32))))

/-- LPASS starts: none where it is faulting (R328). Its rows enter one a cycle from then on. -/
def startLpass (s : State) (w : Who) (seq m base : Nat) (accum : Bool) (afmt np : Nat) : Option State :=
  if lpassBad s w m base afmt np then none
  else
    match (latOf s w).span with
    | none => none
    | some sp =>
      let reuse := !sp.fresh
      let n := if reuse then 1 else sp.n
      let passes := if reuse then (if sp.kzero ∨ sp.passes = 0 then 0 else 1) else sp.passes
      if m = 0 ∨ np = 0 then some (emptyPass s w seq n m [])
      else if passes = 0 then
        let s := if reuse ∨ sp.kzero then s else countSpan s w sp
        some (emptyPass (initRows s w base m np accum) w seq n m ((List.range m).map (base + ·)))
      else
        some (modLat s w (fun l => { l with run := some { seq := seq, m := m, base := base, np := np, afmt := afmt, accum := accum, pass := 0
                                                          passes := passes, row := 0, n := n, reuse := reuse } }))

/-- LSPLIT, by a split-half task alone (R69, R329). -/
def startLsplit (s : State) (w : Who) (seq : Nat) : Option State :=
  if kindOf s w < 2 then none
  else
    let t := modFacet (modCtx s w (fun c => { c with lsplit := true })) w.lf (fun f => { f with split := true })
    some (modCmd t w seq (fun x => { x with ready := true, doneAt := s.now + 1 }))

/-- CMODE (R108, R325). -/
def startCmode (s : State) (w : Who) (seq gmax : Nat) : Option State :=
  if !([1, 2, 4, 8].contains gmax) then none
  else some (modCmd (modCtx s w (fun c => { c with gmax := gmax })) w seq (fun x => { x with ready := true, doneAt := s.now + 1 }))

end Sys2Proof.Machine
end

