-- ==== Sys2Proof/Machine/Vector.lean ====
section
/-! DEFINITION. The accumulator drain and fill (R330, R522, Tables 02-5 and 11-3) and the vector unit (R78, R79, R331 to R333, Table 11-4): the checks of a command at its start and the bytes it writes. -/

namespace Sys2Proof.Machine

/-! ### LDRAIN -/

/-- One accumulator word converted (Table 02-5, R522); `scale` is the column's FP32 scale. -/
def convWord (conv : Nat) (x scale : Word) : Nat :=
  match conv with
  | 0 => x.toNat
  | 1 => wrapOf 8 ((fp32.decode (fp32.encode ((Fp.ofInt x.toInt).mul (fp32.decode scale.toNat)))).toInt (-128) 127)
  | 2 => fp32.encode (Fp.ofInt x.toInt)
  | 3 => bf16.encode (Fp.ofInt x.toInt)
  | 4 => convert fp32 fp32 x.toNat
  | 5 => convert fp32 bf16 x.toNat
  | 6 => convert fp32 e4m3 x.toNat
  | _ => convert fp32 e5m2 x.toNat

/-- A word of facet memory at an address. -/
def facetWord (s : State) (lf a : Nat) : Word := BitVec.ofNat 32 (ofLe (facetRead s lf a 4))

/-- The bytes that a DRAIN writes, row after row (R330). -/
def drainBytes (s : State) (w : Who) (row scaleAddr rows conv : Nat) : List Byte :=
  let f := facetOf s w.lf
  (List.range rows).flatMap (fun r => (List.range (colCount s w)).flatMap (fun c =>
    leBytes (convSize conv) (convWord conv (f.accAt (row + r) (colBase s w + c)) (if conv = 1 then facetWord s w.lf (scaleAddr + 4 * c) else 0#32))))

/-- DRAIN starts: its converted rows, none where it is faulting (R330). -/
def startDrain (s : State) (w : Who) (addr row scale : Word) (rows conv : Nat) : Option (State × List Byte) :=
  let n := colCount s w
  let a := addr.toNat
  if 512 < row.toNat + rows ∨ 8 ≤ conv ∨ a % 64 ≠ 0 ∨ !inUsed s w.lf a (rows * n * convSize conv)
    ∨ (conv = 1 ∧ (scale.toNat % 64 ≠ 0 ∨ !inUsed s w.lf scale.toNat (4 * n))) then none
  else
    let t := if conv = 1 ∧ rows ≠ 0 then fmemTouch s (physOf s w.lf) (span scale.toNat (4 * n)) else s
    some (t, drainBytes s w row.toNat scale.toNat rows conv)

/-- FILL starts: the bytes it reads, none where it is faulting; only codes 0 and 4 (R330). -/
def startFill (s : State) (w : Who) (addr row : Word) (rows conv : Nat) : Option (State × List Byte) :=
  let n := rows * colCount s w * 4
  let a := addr.toNat
  if 512 < row.toNat + rows ∨ (conv ≠ 0 ∧ conv ≠ 4) ∨ a % 64 ≠ 0 ∨ !inUsed s w.lf a n then none
  else some (fmemTouch s (physOf s w.lf) (span a n), facetRead s w.lf a n)

/-- The accumulator words of bytes that are rows of words, back to back. -/
def rowWords (base cols col0 : Nat) (bs : List Byte) : List (Nat × Word) :=
  (chunkList 4 bs bs.length).zipIdx.map (fun x => (128 * (base + x.2 / cols) + col0 + x.2 % cols, BitVec.ofNat 32 (ofLe x.1)))

/-! ### The vector unit -/

/-- A free FP32 result: any number the unit may write, or its one NaN pattern (R78, R520). -/
def freeF (n : Nat) : Word := if (fp32.decode (Config.freeWord n).toNat).isNan then BitVec.ofNat 32 fp32.nanPat else wrF (Config.freeWord n).toNat

/-- The larger of two words. Where an operand is NaN, and for zeros of unlike sign, the spec names no result, and draw `n` leaves it free. -/
def vMax (n : Nat) (a b : Word) : Word :=
  if (rdF a).isNan ∨ (rdF b).isNan then freeF n
  else if (rdF a).lt (rdF b) then wrF b.toNat
  else if (rdF b).lt (rdF a) then wrF a.toNat
  else if Config.freeUlp n a % 2 = 0 then wrF a.toNat else wrF b.toNat

/-- A BF16 pattern as an FP32 word, subnormals flushed (R78). -/
def ofBf (x : Nat) : Word := BitVec.ofNat 32 (convertFlush bf16 fp32 x)

/-- An FP32 word rounded to BF16, subnormals flushed (R78). -/
def toBf (x : Word) : Nat := convertFlush fp32 bf16 x.toNat

/-- The cycles that a vector of an operation takes (R333). -/
def vecRate (op : VOp) (bf : Bool) : Nat :=
  match op with
  | .exp => if bf then 2 else 1
  | .rsq => if bf then 2 else 1
  | .sig => if bf then 2 else 1
  | _ => 1

/-- The latency of an operation (Table 02-7). -/
def vecLatency (op : VOp) : Nat :=
  match op with
  | .add => 4
  | .max => 4
  | .fma => 5
  | .exp => 12
  | .rsq => 10
  | .sig => 14
  | .red => 11
  | .cvt => 4

/-- One conversion of Table 11-4. R78 has the vector unit flush subnormals, and the model takes it to hold for the FP8 side of a conversion too, which Table 11-4 calls exact for the numbers that are left. DEDUCED (log entry 34). -/
def cvtElem (sel x : Nat) : Nat :=
  match sel with
  | 0 => toBf (BitVec.ofNat 32 x)
  | 1 => (ofBf x).toNat
  | 2 => convertFlush fp32 e4m3 x
  | 3 => convertFlush fp32 e5m2 x
  | 4 => convertFlush e4m3 fp32 x
  | 5 => convertFlush e5m2 fp32 x
  | 6 => wrapOf 8 ((rdF (BitVec.ofNat 32 x)).toInt (-128) 127)
  | _ => (fOfInt (BitVec.ofInt 32 (signedOf 8 x))).toNat

/-- The patterns of `n` elements of `size` bytes. -/
def elemsOf (size : Nat) (bs : List Byte) : List Nat := (chunkList size bs bs.length).map ofLe

/-- The 128 words of an accumulator row. -/
def accRow (s : State) (w : Who) (row : Nat) : List Nat := (List.range 128).map (fun c => ((facetOf s w.lf).accAt row c).toNat)

/-- Vector `i` of an operand, as element patterns of `size` bytes, `bytes` bytes a vector. -/
def vecRead (s : State) (w : Who) (isAcc : Bool) (at_ : Word) (i size bytes : Nat) : List Nat :=
  if isAcc then accRow s w (at_.toNat + i) else elemsOf size (facetRead s w.lf (at_.toNat + bytes * i) bytes)

/-- The sum or maximum of one vector: lanes in pairs, over seven levels (R79); `lv` bounds the levels. -/
def treeFold (f : Word → Word → Word) : Nat → List Word → Word
  | 0, xs => xs.headD 0#32
  | lv + 1, xs => treeFold f lv ((chunkList 2 xs xs.length).map (fun p => f (p.getD 0 0#32) (p.getD 1 0#32)))

/-- One lane of the element-wise operations; `n` is the draw of its free error or free choice (R332). -/
def laneOp (op : VOp) (v : VecArgs) (n : Nat) (d a b : Word) : Word :=
  let b := if v.negb then b ^^^ 0x80000000#32 else b
  match op with
  | .add => fAdd a b
  | .max => vMax n a b
  | .fma => if v.noadd then fMul a b else fFma d a b
  | .exp => fExp n a
  | .rsq => fRsqrt n a
  | _ => fSigmoid n a

/-- The draw of an element of a command. -/
def elemDraw (s : State) (i e : Nat) : Nat := s.free * 2 ^ 20 + 256 * i + e

/-- The result of vector `i` of a command, as bytes (R332). -/
def vecResult (s : State) (w : Who) (op : VOp) (v : VecArgs) (dv av bv : Word) (i : Nat) : List Byte :=
  match op with
  | .red =>
    let xs := (vecRead s w v.aacc av i 4 512).map (fun x => BitVec.ofNat 32 x)
    let f := if v.sel = 0 then fAdd else vMax (elemDraw s i 0)
    leBytes 4 (treeFold f 7 xs).toNat
  | .cvt => (vecRead s w v.aacc av i (cvtIn v.sel) (128 * cvtIn v.sel)).flatMap (fun x => leBytes (cvtOut v.sel) (cvtElem v.sel x))
  | _ =>
    let size := if v.bf16 then 2 else 4
    let up (x : Nat) : Word := if v.bf16 then ofBf x else BitVec.ofNat 32 x
    let as := vecRead s w v.aacc av i size 512
    let ds := vecRead s w v.dacc dv i size 512
    let bs := if v.bbc then List.replicate as.length ((vecRead s w v.bacc bv 0 size 512).headD 0) else vecRead s w v.bacc bv i size 512
    (as.zip (ds.zip bs)).zipIdx.flatMap (fun x =>
      let r := laneOp op v (elemDraw s i x.2) (up x.1.2.1) (up x.1.1) (up x.1.2.2)
      leBytes size (if v.bf16 then toBf r else r.toNat))

/-- An operand in facet memory is aligned and in range; an accumulator operand's rows exist (R331). -/
def operandOk (s : State) (w : Who) (isAcc : Bool) (at_ : Word) (count bytes align : Nat) : Bool :=
  if isAcc then decide (at_.toNat + count ≤ 512)
  else decide (at_.toNat % align = 0) && inUsed s w.lf at_.toNat (count * bytes)

/-- Which accumulator flags an operation may set: VRED's D is a facet address, and VCVT allows the accumulator only for an FP32 side (R332). -/
def accFlagsOk (op : VOp) (v : VecArgs) : Bool :=
  match op with
  | .red => !v.dacc
  | .cvt => (!v.aacc || decide (cvtIn v.sel = 4)) && (!v.dacc || decide (cvtOut v.sel = 4))
  | _ => true

/-- A vector command starts: what it will write, none where it is faulting (R331, R332). -/
def startVec (s : State) (w : Who) (op : VOp) (v : VecArgs) (dv av bv : Word) : Option (State × List Byte) :=
  if v.count = 0 then some (s, [])
  else
    let anyAcc := v.dacc || v.aacc || v.bacc
    let nb := if v.bbc then 1 else v.count
    if (anyAcc && (v.bf16 || decide (2 ≤ kindOf s w))) || !accFlagsOk op v
      || !operandOk s w v.dacc dv v.count (vecOutBytes op v.sel) (if op = .red then 4 else 64)
      || !operandOk s w v.aacc av v.count (vecInBytes op v.sel) 64
      || (usesB op && !operandOk s w v.bacc bv (if v.bacc then v.count else nb) 512 64) then none
    else
      let reads (isAcc : Bool) (a : Word) (n : Nat) : List Nat := if isAcc then [] else span a.toNat n
      let touched := reads v.aacc av (v.count * vecInBytes op v.sel) ++ (if usesB op then reads v.bacc bv (nb * 512) else [])
        ++ (if readsD op v then reads v.dacc dv (v.count * 512) else [])
      let bytes := (List.range v.count).flatMap (vecResult s w op v dv av bv)
      let t := bump (fmemTouch s (physOf s w.lf) touched) (Fld.fctCntVec_COUNT (physOf s w.lf)) (v.count * vecRate op v.bf16)
      some (drawn t, bytes)

/-- The cycles of a vector command (R331, R333). -/
def vecCycles (op : VOp) (v : VecArgs) : Nat := if v.count = 0 then 1 else v.count * vecRate op v.bf16 + vecLatency op

/-! ### Accumulator rows that a command touches (R72) -/

/-- The accumulator rows of a command, as intervals (first row, number of rows). -/
def ECmd.rows (c : ECmd) : List (Nat × Nat) :=
  match c.op with
  | .lpass m base _ _ _ => [(base.toNat, m.toNat)]
  | .drain _ row _ rows _ => [(row.toNat, rows)]
  | .fill _ row rows _ => [(row.toNat, rows)]
  | .vec op v dv av bv =>
    (if v.dacc then [(dv.toNat, v.count)] else []) ++ (if v.aacc then [(av.toNat, v.count)] else [])
      ++ (if v.bacc && usesB op then [(bv.toNat, if v.bbc then 1 else v.count)] else [])
  | _ => []

/-- Two commands touch a common row. -/
def rowsMeet (a b : ECmd) : Bool := a.rows.any (fun x => b.rows.any (fun y => overlaps x.1 (x.1 + x.2) y.1 (y.1 + y.2)))

/-- A started command's accesses to accumulator rows are over: a drain reads a row a cycle, a pass has written its last value (R72, R73). -/
def ECmd.rowsOver (c : ECmd) (now : Nat) : Bool :=
  match c.op, c.started with
  | .drain _ _ _ rows _, some t => decide (t + rows ≤ now)
  | .lpass _ _ _ _ _, _ => c.ready && decide (c.doneAt ≤ now)
  | _, _ => false

/-- Whether a command is an LPASS. -/
def ECmd.isPass (c : ECmd) : Bool :=
  match c.op with
  | .lpass _ _ _ _ _ => true
  | _ => false

/-- Every earlier command of the facet has finished its accesses to the rows of this one; the halves of split mode have rows of their own (R70, R72). Between passes the rows wait one by one, as they enter. -/
def rowsFree (s : State) (w : Who) (c : ECmd) : Bool :=
  let others := if halves s w then (ctxOf s w).cmds else (ctxOf s ⟨w.lf, 0⟩).cmds ++ (ctxOf s ⟨w.lf, 1⟩).cmds
  others.all (fun x => decide (c.seq ≤ x.seq) || !rowsMeet x c || x.rowsOver s.now || (c.isPass && x.isPass))

end Sys2Proof.Machine
end

