-- ==== Sys2Proof/Machine/Control.lean ====
section
/-! DEFINITION. Control flow, special registers, illegal instructions and the narrow view of facet memory (R292, R296 to R303), with MFILL and MCOPY (R172, R173). -/

namespace Sys2Proof.Machine

/-- A taken branch or jump: a target that is no multiple of 8 aborts the task, and the instruction has no effect (R297, R310). -/
def branchTo (s : State) (w : Who) (target : Nat) (k : State → State) : State :=
  if target % 8 ≠ 0 then faultTask s w else k (occupy s w 3 target)

/-- pc plus a signed offset, modulo 2^32. -/
def pcPlus (s : State) (w : Who) (imm : Word) : Nat := ((ctxOf s w).pc + imm.toNat) % 2 ^ 32

/-- The link value pc + 8. -/
def linkOf (s : State) (w : Who) : Word := BitVec.ofNat 32 (nextPc s w)

/-- JAL (R296). -/
def execJal (w : Who) (d : Reg) (imm : Word) (s : State) : Res :=
  issue s w [] [d] true (fun s => branchTo s w (pcPlus s w imm) (fun t => rput t w d (linkOf s w) 1))

/-- JALR: the target comes from s[a] as it stood before s[d] is written (R296). -/
def execJalr (w : Who) (d a : Reg) (imm : Word) (s : State) : Res :=
  issue s w [a] [d] true (fun s => branchTo s w (rget s w a + imm).toNat (fun t => rput t w d (linkOf s w) 1))

/-- A branch condition (R296). -/
def condHolds (c : Cond) (a b : Word) : Bool :=
  match c with
  | .eq => decide (a = b)
  | .ne => decide (a ≠ b)
  | .lt => a.slt b
  | .ge => !a.slt b
  | .ltu => a.ult b
  | .geu => !a.ult b

/-- BR (R296). -/
def execBr (w : Who) (cond : Cond) (a b : Reg) (imm : Word) (s : State) : Res :=
  issue s w [a, b] [] true (fun s =>
    if condHolds cond (rget s w a) (rget s w b) then branchTo s w (pcPlus s w imm) id else advance s w 1)

/-- DBNZ: s[d] less one, and a branch when that is not zero; D = 0 is illegal (R296). -/
def execDbnz (w : Who) (d : Reg) (imm : Word) (s : State) : Res :=
  issue s w [d] [d] (decide (d ≠ 0#5)) (fun s =>
    let v := rget s w d - 1#32
    if v ≠ 0#32 then branchTo s w (pcPlus s w imm) (fun t => rput t w d v 1) else rput (advance s w 1) w d v 1)

/-- A context starts to wait at the instruction it has just issued. -/
def waitFor (s : State) (w : Who) (x : Wait) : State := modCtx (advance s w 1) w (fun c => { c with wait := x })

/-- A wait ends: the next instruction may issue from the following cycle (R308). -/
def endWait (s : State) (w : Who) : State := modCtx s w (fun c => { c with wait := .none, free := s.now + 1 })

/-- WAITT: one cycle when the target has passed, else a wait (R296, R298). -/
def execWaitt (w : Who) (a : Reg) (imm : Word) (s : State) : Res :=
  issue s w [a] [] true (fun s =>
    let target := rget s w a + imm
    if target.toNat ≤ tcyc s then advance s w 1 else waitFor s w (.tcyc target))

/-- A waiting WAITT has reached its target (R298). -/
def waittDue (s : State) (w : Who) : Bool :=
  match (ctxOf s w).wait with
  | .tcyc t => decide (t.toNat ≤ tcyc s)
  | _ => false

/-- TCYC reaches a waiting WAITT's target (R298). -/
def execWaittTargetReached (w : Who) (s : State) : Res := whenever (waittDue s w) s (endWait s w)

/-! ### Special registers (R299, R300) -/

/-- What a task sees of itself. -/
def entryOf (s : State) (w : Who) : Option TaskEntry :=
  match (ctxOf s w).task with
  | none => none
  | some id => (taskRec s id).map (·.entry)

/-- SLOTBASE: SLOT_FIRST, or for an express task the slot of its request (Table 10-4). -/
def slotBase (s : State) (w : Who) (e : TaskEntry) : Nat :=
  match (ctxOf s w).express with
  | some r => r.slot
  | none => e.slotFirst

/-- SLOTCNT: SLOT_COUNT, or 1 for an express task (Table 10-4). -/
def slotCnt (e : TaskEntry) : Nat := if e.kind = 1 then 1 else e.slotCount

/-- The status of slot `i` of the task and its manifest entry: 0 active, 1 IDLE, 2 SKIPPED, 3 REJECTED (R300). -/
def slotInfo (s : State) (w : Who) (e : TaskEntry) (i : Nat) : SlotInfo :=
  match (ctxOf s w).express with
  | some r => ⟨0, r.entry⟩
  | none => mapGet s.seq.slots (slotBase s w e + i) ⟨1, []⟩

/-- CLASS of a slot in the active image's slot table. -/
def slotClass (s : State) (n : Nat) : Nat :=
  match s.seq.active with
  | none => 0
  | some i => ((i.slots.find? (fun x => x.slot = n)).map (·.cls)).getD 0

/-- The slot registers, 0x021 to 0x02F (R300). -/
def slotReg (s : State) (w : Who) (e : TaskEntry) (n : Nat) : Nat :=
  let i := (ctxOf s w).slotSel
  let slot := slotBase s w e + i
  let x := slotInfo s w e i
  if slotCnt e ≤ i then (if n = 0x21 then 0xFFFFFFFF else 0)
  else if n = 0x21 then slot
  else if n = 0x27 then slotClass s slot
  else if x.status ≠ 0 then (if n = 0x22 then x.status else 0)
  else
    match n with
    | 0x22 => bitsOf (fieldOf x.entry 2 1) 1 1 * 2 ^ 16 + fieldOf x.entry 3 1 % 16 * 256
    | 0x23 => fieldOf x.entry 4 4
    | 0x24 => fieldOf x.entry 0x18 4
    | 0x25 => fieldOf x.entry 0x1C 4
    | 0x26 => fieldOf x.entry 0x30 4
    | 0x28 => fieldOf x.entry 8 4
    | 0x29 => fieldOf x.entry 0xC 4
    | 0x2A => fieldOf x.entry 0x10 4
    | 0x2B => fieldOf x.entry 0x14 4
    | _ => fieldOf x.entry (0x20 + 4 * (n - 0x2C)) 4 % 2 ^ 24

/-- The worst-case length that DEADLINE and the watchdog use (R44, Table 10-4). -/
def lengthOf (e : TaskEntry) : Nat := if e.kind = 1 then e.xwcl else e.wcl

/-- The value of a special register; none where the number is not in Table 10-4. -/
def specialReg (s : State) (w : Who) (n : Nat) : Option Nat :=
  let c := ctxOf s w
  match entryOf s w with
  | none => none
  | some e =>
    match n with
    | 0x00 => some (fget s Fld.fsqFrame_FRAME)
    | 0x01 => some (tcyc s)
    | 0x02 => some w.lf
    | 0x03 => some (physOf s w.lf)
    | 0x04 => some (quadOf w.lf)
    | 0x05 => some w.ctx
    | 0x06 => some e.id
    | 0x07 => some e.kind
    | 0x08 => some (slotBase s w e)
    | 0x09 => some (slotCnt e)
    | 0x0A => some c.start
    | 0x0B => some (c.start + lengthOf e)
    | 0x0C => some (c.startNow + c.wdog + repairTime s - s.now)
    | 0x0D => some (budget s)
    | 0x0E => some (fmemUsed s w.lf)
    | 0x0F => some Config.level
    | 0x10 => some (fget s Fld.fsqActiveId_ID)
    | 0x20 => some c.slotSel
    | m => if 0x21 ≤ m ∧ m < 0x30 then some (slotReg s w e m) else none

/-- MFSR (R299). -/
def execMfsr (w : Who) (d : Reg) (n : Nat) (s : State) : Res :=
  issue s w [] [d] (specialReg s w n).isSome (fun s => rput (advance s w 1) w d (BitVec.ofNat 32 ((specialReg s w n).getD 0)) 2)

/-- MTSR: SLOTSEL is the one register it may write; bits [31:12] are ignored (R299, Table 10-4). -/
def execMtsr (w : Who) (a : Reg) (n : Nat) (s : State) : Res :=
  issue s w [a] [] (decide (n = 0x20)) (fun s =>
    let v := (rget s w a).toNat % 4096
    modCtx (advance s w 1) w (fun c => { c with slotSel := v }))

/-! ### Illegal instructions -/

/-- An illegal word aborts its task when it would issue (R292, R293); LDRAIN with FORM 2 or 3 is found at its engine instead (R330). A legal word is not this event. -/
def execIllegalInstruction (w : Who) (word : BitVec 64) (s : State) : Res :=
  match badForm word with
  | some t => engine w .drn (fun _ => .badForm) t [(unpack word).a, (unpack word).b] 0#5 0#5 true s
  | none => if (decodeInsn w word).isSome then .next s else issue s w [] [] false id

/-! ### Facet memory instructions -/

/-- The facet is not isolated for a swap (R459), and every bank that some addresses reach is awake; an access to a waking bank waits (R181). -/
def awake (s : State) (lf : Nat) (as : List Nat) : Bool := !heldFacet s lf && as.all (fun a => !wakingAt s (physOf s lf) a)

/-- The facet address s[a] + IMM of a narrow access. -/
def narrowAddr (s : State) (w : Who) (a : Reg) (imm : Word) : Nat := (rget s w a + imm).toNat

/-- A narrow access is in range and aligned (R302). -/
def narrowOk (s : State) (w : Who) (a : Nat) : Bool := decide (a % 4 = 0) && inUsed s w.lf a 4

/-- Fill, copy or host work is under way in the memory of a facet, of which a narrow load may meet a guaranteed cycle (R161). -/
def guaranteedWork (s : State) (lf : Nat) : Bool :=
  let fills (c : Ctx) : Bool := match c.wait with
    | .memOp _ => true
    | _ => false
  fills (facetOf s lf).ctxA || fills (facetOf s lf).ctxB || (mapFind s.memOps (physOf s lf)).isSome

/-- The latency of a narrow load: three cycles, or four when it meets a guaranteed cycle of its bank; when those fall the spec does not give, so that which of the two is free while such work is under way (R161, R303, Table 01-10). -/
def loadLatency (s : State) (lf : Nat) : Nat := if guaranteedWork s lf then 3 + (freshWord s).toNat % 2 else 3

/-- LD.W (R301, R303). -/
def execLdW (w : Who) (d a : Reg) (imm : Word) (s : State) : Res :=
  if fetchOk s w && !awake s w.lf [narrowAddr s w a imm] then .next s
  else issue s w [a] [d] (narrowOk s w (narrowAddr s w a imm)) (fun s =>
    let x := span (narrowAddr s w a imm) 4
    let v := ofLe (fmemPeek s (physOf s w.lf) x)
    let k := loadLatency s w.lf
    let s := drawn (fmemTouch s (physOf s w.lf) x)
    modCtx (rput (advance s w 1) w d (BitVec.ofNat 32 v) k) w (fun c => { c with narrow := c.narrow.filter (fun x => decide (s.now < x.doneAt)) ++ [⟨false, narrowAddr s w a imm, s.now + k⟩] }))

/-- ST.W: performed by the second cycle after it issues; dropped at a gated bank with an abort (R301, R303, R309). -/
def execStW (w : Who) (a b : Reg) (imm : Word) (s : State) : Res :=
  if fetchOk s w && !awake s w.lf [narrowAddr s w a imm] then .next s
  else issue s w [a, b] [] (narrowOk s w (narrowAddr s w a imm)) (fun s =>
    let ws := laidAt (narrowAddr s w a imm) (leBytes 4 (rget s w b).toNat)
    let t := modCtx (advance s w 1) w (fun c => { c with storeAt := s.now + 2, narrow := c.narrow.filter (fun x => decide (s.now < x.doneAt)) ++ [⟨true, narrowAddr s w a imm, s.now + 2⟩] })
    narrowWriteOrAbort t (taskId s w) w.lf ws)

/-- `n` bytes of a repeated 32-bit pattern. -/
def patternBytes (v : Word) (n : Nat) : List Byte := (List.range n).map (fun i => byteAt v.toNat (i % 4))

/-- A fill or copy that begins: its context waits for it (R303). -/
def startMemOp (s : State) (w : Who) (m : MemOp) : State := waitFor s w (.memOp m)

/-- MFILL: s[b] bytes from s[a] set to the pattern IMM, 256 bytes a cycle at best (R172, R301, R302). -/
def execMfill (w : Who) (a b : Reg) (imm : Word) (s : State) : Res :=
  let dst := (rget s w a).toNat
  let n := (rget s w b).toNat
  if fetchOk s w && !awake s w.lf (if n ≤ 2 ^ 19 then span dst n else []) then .next s
  else issue s w [a, b] [] (decide (dst % 4 = 0) && decide (n % 4 = 0) && (decide (n = 0) || inUsed s w.lf dst n)) (fun s =>
    if n = 0 then advance s w 1 else startMemOp s w ⟨s.now + ceilDiv n 256, dst, none, n, patternBytes imm n, []⟩)

/-- MCOPY: IMM bytes from s[b] to s[a], taken as they stand when the copy begins, 128 bytes a cycle at best (R173, R301, R302). -/
def execMcopy (w : Who) (a b : Reg) (imm : Word) (s : State) : Res :=
  let dst := (rget s w a).toNat
  let src := (rget s w b).toNat
  let n := imm.toNat
  if fetchOk s w && !awake s w.lf (if n ≤ 2 ^ 19 then span dst n ++ span src n else []) then .next s
  else issue s w [a, b] [] (decide (dst % 4 = 0) && decide (src % 4 = 0) && decide (n % 4 = 0) && (decide (n = 0) || (inUsed s w.lf dst n && inUsed s w.lf src n))) (fun s =>
    if n = 0 then advance s w 1
    else
      let bytes := facetRead s w.lf src n
      startMemOp (fmemTouch s (physOf s w.lf) (span src n)) w ⟨s.now + ceilDiv n 128, dst, some src, n, bytes, []⟩)

/-- The bytes that a fill or copy writes: a byte of a copy whose source was written meanwhile is unspecified (R173). -/
def memOpBytes (s : State) (pf : Nat) (m : MemOp) : List Byte :=
  match m.src with
  | none => m.bytes
  | some src =>
    (m.bytes.zip (fmemPeek s pf (span src m.bytes.length))).zipIdx.map (fun x =>
      if x.1.1 = x.1.2 then x.1.1 else Config.freeByte s.free (src + x.2))

/-- The MFILL or MCOPY of a context may have finished. -/
def memOpDue (s : State) (w : Who) : Option MemOp :=
  match (ctxOf s w).wait with
  | .memOp m => if m.doneAt ≤ s.now then some m else none
  | _ => none

/-- An MFILL or MCOPY finishes: its bytes are written and its context may issue again; a write dropped at a gated bank aborts the task (R303, R179). -/
def execFillCopyComplete (w : Who) (s : State) : Res :=
  match memOpDue s w with
  | none => .next s
  | some m => .next (rawWriteOrAbort (drawn (endWait s w)) (taskId s w) w.lf (laidAt m.dst (memOpBytes s (physOf s w.lf) m)))

end Sys2Proof.Machine
end

