-- ==== Sys2Proof/Machine/Walk.lean ====
section
/-! DEFINITION. Context pages and context walks: page formats (R101 to R104), directories (R206 to R209), the elements of a walk (R229 to R231), reads and writes of pages (R197, R214, R217). -/

namespace Sys2Proof.Machine

/-! ### Pages -/

/-- A page's translation: the cache counts it, and an ABSENT page counts and sets its flag (R203, R216). -/
def translate (s : State) (vpn : Nat) : State :=
  let s := cacheLookup s vpn
  if pteState (pteOf s vpn) = 0 then event s Fld.cptErr_ABSENT Fld.cptCntAbsent_COUNT else s

/-- A page is ABSENT. -/
def pageAbsent (s : State) (vpn : Nat) : Bool := decide (pteState (pteOf s vpn) = 0)

/-- A page is FAR. -/
def pageFar (s : State) (vpn : Nat) : Bool := decide (pteState (pteOf s vpn) = 1)

/-- The far channel of a frame serves (R467). -/
def channelServes (s : State) (ch : Nat) : Bool := decide (fget s (Fld.farChState_STATE ch) = 1)

/-- A page's only copy lies on a far channel that is offline (R469). -/
def pageOffline (s : State) (vpn : Nat) : Bool := pageFar s vpn && decide (fget s (Fld.farChState_STATE (pteFrame (pteOf s vpn) % 16)) = 3)

/-- An access to a page need not wait for its far channel; one that is offline aborts the access instead (R467, R469). -/
def pageServed (s : State) (vpn : Nat) : Bool := !pageFar s vpn || channelServes s (pteFrame (pteOf s vpn) % 16) || pageOffline s vpn

/-- The 1 KiB blocks that `n` bytes of a page from offset `off` fall in, as (page, block) pairs (R192). -/
def blocksOf (vpn off n : Nat) : List (Nat × Nat) :=
  if n = 0 then [] else (List.range ((off + n - 1) / 1024 - off / 1024 + 1)).map (fun i => (vpn, off / 1024 + i))

/-- Blocks of far memory moved for a page, counted on its channel (R192). -/
def countFar (s : State) (vpn n : Nat) : State :=
  if pageFar s vpn then bump s (Fld.farChBlocks_COUNT (pteFrame (pteOf s vpn) % 16)) n else s

/-- Blocks read, each counted once where its page is FAR (R192, R209). -/
def readBlocks (s : State) (bs : List (Nat × Nat)) : State := bs.eraseDups.foldl (fun s b => countFar s b.1 1) s

/-- The blocks that a write of `n` bytes moves: each block once, and a block that it fills in part once more to be read (R192). -/
def writeBlocks (s : State) (vpn off n : Nat) : State :=
  let blocks := (blocksOf vpn off n).length
  let part := (if off % 1024 = 0 then 0 else 1) + (if (off + n) % 1024 = 0 then 0 else 1)
  countFar s vpn (blocks + min blocks part)

/-- A page's near copy is marked dirty by a write (R197). -/
def markDirty (s : State) (frame : Nat) : State :=
  match mapFind s.paging.near frame with
  | none => s
  | some e => modPaging s (fun p => { p with near := mapPut p.near frame { e with dirty := true } })

/-- Bytes written in a page, at its near copy or in far memory (R197, R217); a page that has become ABSENT takes none. -/
def pageWrite (s : State) (unit : Option Nat) (vpn : Nat) (ws : List (Nat × Byte)) : State :=
  let at_ := pageAddr s vpn 0
  if pageAbsent s vpn then s
  else
    let moved := ws.map (fun w => (at_.2 + w.1, w.2))
    if at_.1 then markDirty (stsPut s unit moved) (pteFrame (pteOf s vpn))
    else writeBlocks { s with far := memPuts s.far moved } vpn ((ws.map (·.1)).headD 0) ws.length

/-! ### INT4 pages (R102 to R104) -/

/-- One element of an INT4 page as FP8 E4M3 (R103). The spec says nothing of an infinite scale: its product with q = 0 is NaN, as R76 has it for infinity times zero, and delivers 0x7F. DESIGN CHOICE (log entry 30). -/
def int4Element (scale q : Nat) : Byte :=
  BitVec.ofNat 8 (e4m3.encode ((fp16.decode scale).mul (Fp.ofInt (signedOf 4 q))))

/-- Vector `v` of an INT4 page as 128 E4M3 bytes (R102, R103). -/
def int4Vector (s : State) (vpn v : Nat) : List Byte :=
  let scale := ofLe (pageRead s vpn 16320 2)
  (pageRead s vpn (64 * v) 64).flatMap (fun b => [int4Element scale (b.toNat % 16), int4Element scale (b.toNat / 16)])

/-- An E4M3 pattern as a signed multiple of 2^−9, none for NaN. -/
def e4m3Units (x : Nat) : Option Int :=
  match e4m3.decode x with
  | .num neg m e => some ((if neg then -1 else 1) * ((m * 2 ^ (e + 9).toNat : Nat) : Int))
  | _ => none

/-- a / b rounded to the nearest integer, ties to even. -/
def rneDiv (a : Int) (b : Nat) : Int :=
  let q := a / (b : Int)
  let r := a % (b : Int)
  if 2 * r < b then q else if (b : Int) < 2 * r then q + 1 else if q % 2 = 0 then q else q + 1

/-- The smallest shift that brings `a` to at least 1 024 times 3 584. -/
def scaleShift (a : Nat) : Nat → Nat → Nat
  | 0, k => k
  | fuel + 1, k => if 1024 * 3584 ≤ a * 2 ^ k then k else scaleShift a fuel (k + 1)

/-- The scale of an INT4 page whose largest magnitude is `a` × 2^−9, as mantissa and exponent: a / 7 rounded towards +infinity to binary16 (R104). -/
def int4Scale (a : Nat) : Nat × Nat :=
  let k := scaleShift a 40 0
  (ceilDiv (a * 2 ^ k) 3584, k)

/-- The 16 384 bytes of an INT4 page from 32 640 E4M3 source elements (R102, R104). -/
def int4Page (src : List Byte) : List Byte :=
  let xs := src.map (fun b => e4m3Units b.toNat)
  let pack (qs : List Nat) : List Byte := (chunkList 2 qs qs.length).map (fun p => BitVec.ofNat 8 (p.getD 0 0 + 16 * p.getD 1 0))
  let zeros := pack (List.replicate 32640 0)
  let tail := List.replicate 62 0#8
  if xs.any (·.isNone) then zeros ++ leBytes 2 0x7E00 ++ tail
  else
    let vs := xs.map (fun x => x.getD 0)
    let a := (vs.map Int.natAbs).foldl max 0
    if a = 0 then zeros ++ leBytes 2 0 ++ tail
    else
      let (m, k) := int4Scale a
      let q (v : Int) : Nat := wrapOf 4 (max (-8) (min 7 (rneDiv (v * (2 ^ k : Nat)) (512 * m))))
      pack (vs.map q) ++ leBytes 2 (fp16.encode (.num false m (-(k : Int)))) ++ tail

/-! ### Directories (R206 to R208) -/

/-- A stream's directory as a walk finds it: the list page, START, LEN, and its entries up to the one that ends the list, as (tokens, page). -/
structure Directory where
  root : Nat
  valid : Bool
  list : Nat
  start : Nat
  len : Nat
  live : List (Nat × Nat)
  deriving DecidableEq, Repr

/-- List entry `i` of a directory as a word. -/
def listWord (s : State) (list start i : Nat) : Nat := ofLe (pageRead s list (4 * ((start + i) % 4096)) 4)

/-- Entries from the first, up to one with TOKENS 0 (Table 07-3). -/
def liveEntries (s : State) (list start : Nat) : Nat → Nat → List (Nat × Nat)
  | 0, _ => []
  | n + 1, i =>
    let x := listWord s list start i
    if x / 2 ^ 24 = 0 then [] else (x / 2 ^ 24, x % 2 ^ 24) :: liveEntries s list start n (i + 1)

/-- The directory that a root page gives for context stream `e` (R206, R208). -/
def directoryOf (s : State) (root e : Nat) : Directory :=
  let w0 := ofLe (pageRead s root (8 * (e % 2048)) 4)
  let w1 := ofLe (pageRead s root (8 * (e % 2048) + 4) 4)
  let list := w0 % 2 ^ 24
  let start := w1 % 2 ^ 16
  let len := w1 / 2 ^ 16
  let valid := bitSet w0 31
  ⟨root, valid, list, start, len, if valid then liveEntries s list start len 0 else []⟩

/-- SLOT, ROOT, STREAM, FIRST and FORMAT of a context-walk descriptor (Table 08-3). -/
def Td.slot (d : Td) : Nat := fieldOf d 8 2
def Td.stream (d : Td) : Nat := fieldOf d 0xC 2
def Td.first (d : Td) : Nat := fieldOf d 0x10 4
def Td.format (d : Td) : Nat := fieldOf d 0xA 1

/-- The root page that a walk of a task reaches: none for a slot that is not active (R208). -/
def walkRoot (s : State) (w : Who) (d : Td) : Option Nat :=
  match entryOf s w with
  | none => none
  | some e =>
    let x := slotInfo s w e (d.slot % slotCnt e)
    if x.status = 0 then some (fieldOf x.entry (0x20 + 4 * d.facet) 4 % 2 ^ 24) else none

/-- A task with SLOT_COUNT 0 may not walk (R208). -/
def walkIllegal (s : State) (w : Who) : Bool :=
  match entryOf s w with
  | none => true
  | some e => decide (slotCnt e = 0)

/-! ### Elements -/

/-- The page and vector that hold token `t` (R207). -/
def tokenAt (live : List (Nat × Nat)) (t : Nat) : Option (Nat × Nat) :=
  match live with
  | [] => none
  | (n, vpn) :: r => if t < n then some (vpn, t) else tokenAt r (t - n)

/-- Where an element of a walk lies: its page, the offset of its bytes there and their number. For a token of an INT4 page the offset is that of its packed vector. -/
structure Place where
  vpn : Nat
  off : Nat
  len : Nat
  int4 : Bool
  deriving DecidableEq, Repr

/-- Element `i` of a walk, none where it does not exist (R229). -/
def walkElement (s : State) (d : Td) (dir : Directory) (i : Nat) : Option Place :=
  let n := d.first + i
  match d.unit with
  | 0 => (tokenAt dir.live n).map (fun x =>
      if pteFormat (pteOf s x.1) = 2 then ⟨x.1, 64 * (x.2 % 255), 64, true⟩ else ⟨x.1, 128 * (x.2 % 128), 128, false⟩)
  | 1 => (dir.live[n]?).map (fun x => ⟨x.2, 0, 16384, false⟩)
  | _ => if dir.valid ∧ n < dir.len then some ⟨dir.list, 4 * ((dir.start + n) % 4096), 4, false⟩ else none

/-- The elements `first` to `first + n - 1` of a walk. -/
def walkElements (s : State) (d : Td) (dir : Directory) (first n : Nat) : List (Option Place) :=
  (List.range n).map (fun i => walkElement s d dir (first + i))

/-- The pages that a walk touches: root, list, and each page of its elements (R209). -/
def walkPages (dir : Directory) (ps : List Place) : List Nat :=
  distinct (dir.root :: ((if dir.valid then [dir.list] else []) ++ ps.map (·.vpn)))

/-- List entries of a stream read up to the one that holds token `t`. -/
def entriesFor : List (Nat × Nat) → Nat → Nat
  | [], _ => 0
  | (n, _) :: r, t => if t < n then 1 else 1 + entriesFor r (t - n)

/-- The list entries that a walk reads to find its elements up to number `last`: those before the one it needs, and the one that ends the list where it comes to that (R207, Table 07-3). -/
def listReads (d : Td) (dir : Directory) (last : Nat) : Nat :=
  let all := min dir.len (dir.live.length + 1)
  match d.unit with
  | 0 => if (tokenAt dir.live last).isSome then entriesFor dir.live last else all
  | 1 => min (last + 1) all
  | _ => 0

/-- The bytes that the directory reads of a walk of `n` elements from `first` take, as (page, offset, length): the root entry and the list entries (R206, R209). -/
def directoryReads (d : Td) (dir : Directory) (first n : Nat) : List (Nat × Nat × Nat) :=
  (dir.root, 8 * (d.stream % 2048), 8) ::
    (if dir.valid ∧ 0 < n then (List.range (listReads d dir (d.first + first + n - 1))).map (fun i => (dir.list, 4 * ((dir.start + i) % 4096), 4)) else [])

/-- The bytes that an element's read takes; an INT4 page's scale is read with its vectors (R102). -/
def Place.reads (p : Place) : List (Nat × Nat × Nat) := (p.vpn, p.off, p.len) :: (if p.int4 then [(p.vpn, 16320, 2)] else [])

/-- The far blocks that directory reads fall in. -/
def directoryBlocks (d : Td) (dir : Directory) (first n : Nat) : List (Nat × Nat) := (directoryReads d dir first n).flatMap (fun r => blocksOf r.1 r.2.1 r.2.2)

/-- The far blocks that an element's read falls in. -/
def Place.blocks (p : Place) : List (Nat × Nat) := p.reads.flatMap (fun r => blocksOf r.1 r.2.1 r.2.2)

/-- The State Store bytes among some reads of pages: those of pages with a near copy. -/
def nearBytes (s : State) (rs : List (Nat × Nat × Nat)) : List Nat :=
  rs.flatMap (fun r => if 2 ≤ pteState (pteOf s r.1) then span (pageAddr s r.1 r.2.1).2 r.2.2 else [])

/-- The State Store read latency from a facet (Table 01-10). -/
def stsLatency (lf a : Nat) : Nat := if a / 2 ^ 24 / 48 = quadOf lf then 22 else 40

/-- The page-table cache holds a page (R203). -/
def cacheHolds (s : State) (vpn : Nat) : Bool := (mapGet s.paging.cache (cacheSet vpn) []).contains vpn

/-- The cycles from the lookup of a page to its first byte (Table 01-10). -/
def pageLatency (s : State) (lf vpn : Nat) : Nat :=
  (if cacheHolds s vpn then 6 else 48) + (if pageFar s vpn then 234 else stsLatency lf (pageAddr s vpn 0).2)

/-- The cycles from a walk's start to its first data: the root page, then the list page, then its data pages at once (R206, R209, Table 01-10). -/
def walkLatency (s : State) (lf : Nat) (dir : Directory) (ps : List Place) : Nat :=
  pageLatency s lf dir.root + (if dir.valid then pageLatency s lf dir.list else 0) + (distinct (ps.map (·.vpn))).foldl (fun n v => max n (pageLatency s lf v)) 0

/-- The bytes that an element delivers (R229). -/
def placeRead (s : State) (p : Place) : List Byte :=
  if p.int4 then int4Vector s p.vpn (p.off / 64) else pageRead s p.vpn p.off p.len

/-- Source bytes that one element of a walk write takes (R229, R231). -/
def walkBytes (d : Td) : Nat := if d.unit = 1 ∧ d.format = 2 then 32640 else unitSize d.unit

/-- What one element of a walk write puts where, from its source bytes; none where it is discarded (R229 to R231). Addresses are context virtual addresses. -/
def placeWrite (d : Td) (p : Place) (bs : List Byte) : Option (List (Nat × Byte)) :=
  if p.int4 then none
  else some (laidAt (p.vpn * 2 ^ 14 + p.off) (if d.unit = 1 ∧ d.format = 2 then int4Page bs else bs))

end Sys2Proof.Machine
end

