-- ==== Sys2Proof/Machine/Memory.lean ====
section
/-! DEFINITION. Facet memory and the State Store from outside: the facet window (R166, R167), host fills and copies (R169, R172, R173, R190), bank gating (R178 to R181), BAR4 (R187, R188) and the zeroing after reset (R189). -/

namespace Sys2Proof.Machine

/-! ### The facet window (R10, R166, R167) -/

/-- A BAR0 access has a size and alignment that the device accepts (R11). Of an access wider than 64 bits neither R11 nor R12 says what becomes; the model takes it for one of a wrong size: a write is discarded, a read answers with bytes of 0xFF, and it is logged with CAUSE 1. DESIGN CHOICE (log entry 47). -/
def sizeOk (addr size : Nat) : Bool := (decide (size = 4) && decide (addr % 4 = 0)) || (decide (size = 8) && decide (addr % 8 = 0))

/-- A host write in facet memory: bytes at gated banks are discarded, counted, flagged and logged (R179). -/
def hostFacetWrite (s : State) (f off addr : Nat) (data : List Byte) : State :=
  let ws := laidAt off data
  let t := fmemPut s f ws
  if fmemDrops s f ws then hostErr t 0 true addr data.length 5 else t

/-- A host write through the facet window: in facet memory, or discarded and logged in instruction memory or for its size; it waits for a waking bank (R11, R12, R166, R167, R179, R181). -/
def execFacetWindowWrite (addr : Nat) (data : List Byte) (s : State) : Res :=
  let f := (addr - 0x1000000) / 0x100000
  let off := (addr - 0x1000000) % 0x100000
  if addr < 0x1000000 ∨ 52 ≤ f ∨ 0x90000 ≤ off ∨ hostUp s = false then .next s
  else if !sizeOk addr data.length then .next (hostErr s 0 true addr data.length 1)
  else if 0x80000 ≤ off then .next (hostErr s 0 true addr data.length 3)
  else if (span off data.length).any (wakingAt s f) then .next s
  else .next (hostFacetWrite s f off addr data)

/-! ### Errors that a host read finds (R164, R186) -/

/-- An uncorrectable error in a word of a facet's memory: flag, counter and address (R164). -/
def fmemUeSeen (s : State) (f addr : Nat) : State :=
  fset (bump (setFlag s (Fld.fmemErr_UE f)) (Fld.fmemCntUe_COUNT f) 1) (Fld.fmemUeAddr_ADDR f) (addr / 4)

/-- An uncorrectable error in a word of the State Store: flag, counter and address; the word stays in error until it is overwritten (R186, R215). -/
def stsUeSeen (s : State) (addr : Nat) : State :=
  modPaging (fset (bump (setFlag s Fld.stsErr_UE) Fld.stsCntUe_COUNT 1) Fld.stsUeAddr_ADDR addr)
    (fun p => { p with badWords := if p.badWords.contains (addr / 8) then p.badWords else p.badWords ++ [addr / 8] })

/-- A host read through a facet window returns these bytes: the current contents of facet memory, zero for gated banks, all ones for a 4-byte word whose error is uncorrectable, and instruction memory at +0x8_0000 (R164, R166, R167, R180). `bad` names the words in error. -/
def facetWindowRead (s : State) (f off n : Nat) (bad : List Nat) : List Byte :=
  (span off n).map (fun a =>
    if 0x80000 ≤ a then memRead s.imem (ibase f + (a - 0x80000))
    else if bad.contains (a / 4) then 0xFF#8 else (fmemPeek s f [a]).headD 0#8)

/-- What a host read through a facet window leaves: lines of gated banks counted and flagged, each uncorrectable word recorded, the data sent (R164, R166, R180). It waits for waking banks (R181). -/
def facetWindowReadDone (s : State) (f off n : Nat) (bad : List Nat) : State :=
  let inMem := (span off n).filter (fun a => decide (a < 0x80000))
  let hit := (distinct (inMem.map (· / 4))).filter bad.contains
  let t := hit.foldl (fun s k => fmemUeSeen s f (4 * k)) (fmemTouch s f inMem)
  emit t (.readData (facetWindowRead s f off n bad))

/-! ### Memory-side operations (R168 to R171) -/

/-- The traffic class of a request to facet memory, fixed by its source. -/
inductive TrafficClass where
  | engine | control
  deriving DecidableEq, Repr

/-- A class may ask for an operation code of Table 06-3. -/
def opAllowed (c : TrafficClass) (op : Nat) : Bool :=
  match c with
  | .engine => decide (op ≤ 3)
  | .control => decide (op ≤ 1 ∨ op = 4 ∨ op = 5)

/-- The addresses of the elements of a strided read: 64/e elements of e bytes at a signed stride. -/
def stridedAddrs (base e : Nat) (stride : Int) : List Nat := (List.range (64 / e)).map (fun i => ((base : Int) + i * stride).toNat)

/-- The bytes of a strided read: its elements packed in order (R170). -/
def stridedRead (s : State) (pf base e : Nat) (stride : Int) : List Byte := fmemPeek s pf ((stridedAddrs base e stride).flatMap (fun a => span a e))

/-- The address of element (i, j) of a transposed read's result: element i of row j. -/
def transposedAddr (base e rowStride i j : Nat) : Nat := base + j * rowStride + e * i

/-- The bytes of a transposed read: element (i, j) at byte e × (8i + j) (R171). -/
def transposedRead (s : State) (pf base e rowStride : Nat) : List Byte :=
  fmemPeek s pf ((List.range 64).flatMap (fun k => span (transposedAddr base e rowStride (k / 8) (k % 8)) e))

/-- The cycles that a gathering read takes: those of the busiest bank, one for each distinct line that it touches there (R170, R171). -/
def gatherCycles (as : List Nat) : Nat :=
  let lines := distinct (as.map (· / 64))
  (List.range 32).foldl (fun n b => max n (lines.filter (fun l => bankOf (64 * l) = b)).length) 0

/-- An engine-class request that facet memory serves with gathered data. -/
inductive Gather where
  | strided (base e : Nat) (stride : Int)
  | transposed (base e rowStride : Nat)
  deriving DecidableEq, Repr

/-- The operation code of a gathering read (Table 06-3). -/
def Gather.code : Gather → Nat
  | .strided _ _ _ => 2
  | .transposed _ _ _ => 3

/-- The alignment that a gathering read keeps (R170, R171). -/
def Gather.aligned : Gather → Bool
  | .strided base e stride => decide (e = 1 ∨ e = 2 ∨ e = 4) && decide (base % e = 0) && decide (stride % (e : Int) = 0)
  | .transposed base e rowStride => decide (e = 1 ∨ e = 2) && (List.range 8).all (fun r => decide ((base + r * rowStride) % (8 * e) = 0))

/-- The bytes that a gathering read touches. -/
def Gather.addrs : Gather → List Nat
  | .strided base e stride => (stridedAddrs base e stride).flatMap (fun a => span a e)
  | .transposed base e rowStride => (List.range 64).flatMap (fun k => span (transposedAddr base e rowStride (k / 8) (k % 8)) e)

/-- The data of a gathering read. -/
def Gather.bytes (s : State) (pf : Nat) : Gather → List Byte
  | .strided base e stride => stridedRead s pf base e stride
  | .transposed base e rowStride => transposedRead s pf base e rowStride

/-- A gathering read as facet memory serves it: the state, its data and its cycles; none where the request is refused, which reads nothing (R168 to R171, R180). -/
def gatherServe (s : State) (pf : Nat) (c : TrafficClass) (g : Gather) : Option (State × List Byte × Nat) :=
  if opAllowed c g.code && g.aligned then some (fmemTouch s pf g.addrs, g.bytes s pf, gatherCycles g.addrs) else none

/-- A request of a task whose operation is not of its class: refused, the task aborted with ILLEGAL_INSN (R169). -/
def refuseTask (s : State) (w : Who) : State := abortTask s w 1

/-! ### Host fills and copies (R169, R172, R173, R190) -/

/-- The range of a host operation of `n` bytes at `a` lies in facet memory. -/
def opRangeOk (a n : Nat) : Bool := decide (a + n ≤ 0x80000)

/-- A host operation is refused: STATE 3, and a host access error (R169, R190). -/
def refuseOp (s : State) (f : Nat) : State := hostErr (fset s (Fld.fmemOpstat_STATE f) 3) 0 true (0x10F3030 + f * 0x100000) 4 4

/-- A host operation begins: STATE 1. -/
def beginOp (s : State) (f : Nat) (m : MemOp) : State := fset { s with memOps := mapPut s.memOps f m } (Fld.fmemOpstat_STATE f) 1

/-- The source of a copy read, in `n` bytes. -/
def takeSource (s : State) (f : Nat) (m : MemOp) (src : Nat) : State × MemOp :=
  (fmemTouch s f (span src m.len), { m with doneAt := s.now + ceilDiv m.len 128, bytes := fmemPeek s f (span src m.len) })

/-- A host copy begins: it takes its source, or waits with nothing taken while a bank of it wakes (R173, R181). -/
def beginCopy (s : State) (f dst src n : Nat) : State :=
  let m : MemOp := ⟨s.now, dst, some src, n, [], []⟩
  if (span src n).any (wakingAt s f) then beginOp s f m else (let r := takeSource s f m src; beginOp r.1 f r.2)

/-- The effect of START with an operation code in FMEM_OPCTL: while one runs it is ignored as a whole; only a fill or a copy within facet memory is accepted (R169, R172, R173, R190). -/
def startHostOp (s : State) (f op : Nat) : State :=
  if fget s (Fld.fmemOpstat_STATE f) = 1 then s
  else
    let s := fset s (Fld.fmemOpctl_OP f) op
    let dst := 4 * fget s (Fld.fmemOpdst_ADDR f)
    let src := 4 * fget s (Fld.fmemOpsrc_ADDR f)
    let n := 4 * fget s (Fld.fmemOplen_LEN f)
    if op = 4 ∧ opRangeOk dst n = true then
      beginOp s f ⟨s.now + ceilDiv n 256, dst, none, n, patternBytes (BitVec.ofNat 32 (fget s (Fld.fmemOpval_VALUE f))) n, []⟩
    else if op = 5 ∧ (opRangeOk dst n && opRangeOk src n) = true then beginCopy s f dst src n
    else refuseOp s f

/-- START with OP 4 (R172, R190). -/
def execFmemHostFill (f : Nat) (s : State) : Res := whenever (hostUp s && decide (f < 52)) s (startHostOp s f 4)

/-- START with OP 5 (R173, R190). -/
def execFmemHostCopy (f : Nat) (s : State) : Res := whenever (hostUp s && decide (f < 52)) s (startHostOp s f 5)

/-- The source of a host copy is taken: it is no copy, or its bytes are there. -/
def MemOp.taken (m : MemOp) : Bool := m.src.isNone || decide (m.bytes.length = m.len)

/-- A host copy that waited for its source takes it once its banks are awake (R181). -/
def wakeCopies (s : State) : State :=
  s.memOps.foldl (fun s x =>
    match x.2.src with
    | some src =>
      if x.2.taken || (span src x.2.len).any (wakingAt s x.1) then s
      else (let r := takeSource s x.1 x.2 src; { r.1 with memOps := mapPut r.1.memOps x.1 r.2 })
    | none => s) s

/-- The writes of a fill or copy that no forced gate has dropped (R179). -/
def MemOp.kept (m : MemOp) (bytes : List Byte) : List (Nat × Byte) := (laidAt m.dst bytes).filter (fun w => !m.lost.contains (bankOf w.1))

/-- Host writes performed in facet memory, those of gated banks discarded, counted, flagged and logged (R179). -/
def hostPut (s : State) (f addr : Nat) (ws : List (Nat × Byte)) : State :=
  let t := fmemPut s f ws
  if fmemDrops s f ws then hostErr t 0 true addr 4 5 else t

/-- A host operation has ended: its bytes are written, STATE reads 2; it waits for waking banks (R172, R173, R179, R181, R190). -/
def execFmemHostOpDone (f : Nat) (s : State) : Res :=
  match mapFind s.memOps f with
  | none => .next s
  | some m =>
    whenever (m.taken && decide (m.doneAt ≤ s.now) && (span m.dst m.len).all (fun a => !wakingAt s f a)) s
      (let t := fset { drawn s with memOps := mapDel s.memOps f } (Fld.fmemOpstat_STATE f) 2
       hostPut t f (0x10F3030 + f * 0x100000) (m.kept (memOpBytes s f m)))

/-! ### Bank gating (R178 to R181) -/

/-- The key of a bank of a physical facet. -/
def bankKey (f b : Nat) : Nat := f * 32 + b

/-- Facet writes of a context that have begun and are not performed, by its commands or its MFILL or MCOPY. -/
def ctxPending (s : State) (w : Who) : List Nat :=
  ((ctxOf s w).cmds.flatMap (fun c => c.facetWrites.map (·.1))) ++ ((ctxOf s w).wait.memWrites.map (·.1))

/-- The tasks with writes pending at a bank of a physical facet, each with the addresses. -/
def pendingTasks (s : State) (f b : Nat) : List (Nat × List Nat) :=
  let mine (as : List Nat) : List Nat := as.filter (fun a => bankOf a = b)
  let trans := s.engines.flatMap (fun e => e.2.transfers.map (fun t => (t.task, match t.dest with
    | .fmem lf => if physOf s lf = f then mine (t.writes.map (·.1)) else []
    | _ => [])))
  let ctxs := (List.range 96).filterMap (fun i =>
    let w : Who := ⟨i / 2, i % 2⟩
    if physOf s w.lf = f then ((ctxOf s w).task).map (fun t => (t, mine (ctxPending s w))) else none)
  (trans ++ ctxs).filter (fun x => !x.2.isEmpty)

/-- A host operation has writes pending at a bank. -/
def hostPending (s : State) (f b : Nat) : Bool :=
  match mapFind s.memOps f with
  | none => false
  | some m => !m.lost.contains b && (span m.dst m.len).any (fun a => bankOf a = b)

/-- A bank gates: its request is over and its contents are lost. -/
def gateBank (s : State) (f b : Nat) : State :=
  fset { s with gates := mapDel s.gates (bankKey f b) } (Fld.fmemGated_STATE f) (setBit (fget s (Fld.fmemGated_STATE f)) b)

/-- Setting a bit of FMEM_GATE requests the gating of its bank (R178). -/
def requestGate (s : State) (f b : Nat) : State :=
  if bitSet (fget s (Fld.fmemGate_REQ f)) b then s
  else
    let t := fset s (Fld.fmemGate_REQ f) (setBit (fget s (Fld.fmemGate_REQ f)) b)
    if bitSet (fget s (Fld.fmemGated_STATE f)) b && (mapFind s.wakes (bankKey f b)).isNone then t else { t with gates := mapPut t.gates (bankKey f b) s.now }

/-- Clearing a bit of FMEM_GATE cancels a request, or wakes a gated bank over 256 cycles (R178, R181). -/
def clearGate (s : State) (f b : Nat) : State :=
  if bitSet (fget s (Fld.fmemGate_REQ f)) b then
    let t := fset s (Fld.fmemGate_REQ f) (clearBit (fget s (Fld.fmemGate_REQ f)) b)
    let t := { t with gates := mapDel t.gates (bankKey f b) }
    if bitSet (fget s (Fld.fmemGated_STATE f)) b && (mapFind s.wakes (bankKey f b)).isNone then { t with wakes := mapPut t.wakes (bankKey f b) (s.now + 256) } else t
  else s

/-- A bank of a facet exists. -/
def bankExists (f b : Nat) : Bool := decide (f < 52) && decide (b < 32)

/-- The host's write to a bit of FMEM_GATE: discarded and counted where the manager has written the register in the same cycle; else what it finds is kept for the cycle (R424). -/
def hostGate (s : State) (f b : Nat) (act : State → State) : State :=
  if bitsIn (thisCycle s).manager (Fld.fmemGate_REQ f).key ≠ 0 then bump s Fld.mgtCntLost_COUNT 1
  else
    let found := (bankKey f b, (bitSet (fget s (Fld.fmemGate_REQ f)) b, mapFind s.gates (bankKey f b), mapFind s.wakes (bankKey f b)))
    act (modCycle s (fun c => { c with gating := if c.gating.any (fun x => x.1 = found.1) then c.gating else c.gating ++ [found] }))

/-- A map entry put back as it was found. -/
def putBack (m : SMap Nat) (k : Nat) (v : Option Nat) : SMap Nat :=
  match v with
  | some n => mapPut m k n
  | none => mapDel m k

/-- A write of the host's to a bit of FMEM_GATE undone: it met the manager's of the same cycle, and is counted (R424). -/
def undoGate (s : State) (f b : Nat) : State :=
  match (thisCycle s).gating.find? (fun x => x.1 = bankKey f b) with
  | none => s
  | some x =>
    let r := fget s (Fld.fmemGate_REQ f)
    let s := fset s (Fld.fmemGate_REQ f) (if x.2.1 then setBit r b else clearBit r b)
    let s := { s with gates := putBack s.gates x.1 x.2.2.1, wakes := putBack s.wakes x.1 x.2.2.2 }
    bump (modCycle s (fun c => { c with gating := c.gating.filter (fun y => y.1 ≠ x.1) })) Fld.mgtCntLost_COUNT 1

/-- The manager's write to FMEM_GATE (R178, R424, Table 15-3). -/
def managerGate (s : State) (f v : Nat) : State :=
  let s := (List.range 32).foldl (fun s k => if bankExists f k then (if bitSet v k then requestGate (undoGate s f k) f k else clearGate (undoGate s f k) f k) else s) s
  modCycle s (fun c => { c with manager := c.manager ++ [((Fld.fmemGate_REQ f).key, 2 ^ 32 - 1)] })

/-- A request to gate a bank (R178). -/
def execFmemGateRequest (f bank : Nat) (s : State) : Res := whenever (serving s && bankExists f bank) s (hostGate s f bank (requestGate · f bank))

/-- A request cancelled before its bank has gated (R178). -/
def execFmemGateCancel (f bank : Nat) (s : State) : Res :=
  whenever (serving s && bankExists f bank && !bitSet (fget s (Fld.fmemGated_STATE f)) bank) s (hostGate s f bank (clearGate · f bank))

/-- The bit of a gated bank cleared: its wake starts (R181). -/
def execFmemWake (f bank : Nat) (s : State) : Res :=
  whenever (serving s && bankExists f bank && bitSet (fget s (Fld.fmemGated_STATE f)) bank) s (hostGate s f bank (clearGate · f bank))

/-- The bank gates once no write is pending at it and it is awake (R178, R181). -/
def execBankGated (f bank : Nat) (s : State) : Res :=
  whenever ((mapFind s.gates (bankKey f bank)).isSome && (mapFind s.wakes (bankKey f bank)).isNone
      && (pendingTasks s f bank).isEmpty && !hostPending s f bank) s (gateBank s f bank)

/-- The writes pending at a bank are dropped: each counts, the flag is set, and their tasks are aborted (R179). -/
def dropPending (s : State) (ps : List (Nat × List Nat)) (f : Nat) : State :=
  let n := (ps.map (fun p => (distinct (p.2.map (· / 64))).length)).foldl (· + ·) 0
  let s := if n = 0 then s else setFlag (bump s (Fld.fmemCntGatedwr_COUNT f) n) (Fld.fmemErr_GATEDWR f)
  ps.foldl (fun s p => abortId s p.1 4) s

/-- The writes of a host fill or copy pending at a bank are dropped: each line counts, the flag is set, and the loss is logged as a host access error (R179). -/
def dropHostPending (s : State) (f b : Nat) : State :=
  match mapFind s.memOps f with
  | none => s
  | some m =>
    let n := (distinct (((span m.dst m.len).filter (fun a => bankOf a = b)).map (· / 64))).length
    if n = 0 ∨ m.lost.contains b then s
    else
      let s := { s with memOps := mapPut s.memOps f { m with lost := m.lost ++ [b] } }
      hostErr (setFlag (bump s (Fld.fmemCntGatedwr_COUNT f) n) (Fld.fmemErr_GATEDWR f)) 0 true (0x10F3030 + f * 0x100000) 4 5

/-- A request that has stood for 4 096 cycles gates its bank regardless (R178, R179). -/
def execGateForced (f bank : Nat) (s : State) : Res :=
  match mapFind s.gates (bankKey f bank) with
  | none => .next s
  | some t =>
    whenever (decide (t + 4096 ≤ s.now) && (!(pendingTasks s f bank).isEmpty || hostPending s f bank)) s
      (dropPending (dropHostPending (bump (gateBank s f bank) (Fld.fmemCntForced_COUNT f) 1) f bank) (pendingTasks s f bank) f)

/-- Zero written to a physical facet's memory at the addresses that satisfy a test. -/
def zeroFacetAt (s : State) (f : Nat) (p : Nat → Bool) : State :=
  match mapFind s.masks f with
  | none => { s with fmem := s.fmem.filter (fun c => !(decide (fbase f ≤ c.1) && decide (c.1 < fbase (f + 1)) && p (c.1 - fbase f))) }
  | some e => { s with fmem := memPuts s.fmem (((span 0 524288).filter p).map (fun a => (fbase f + a, Config.freeByte e a))) }

/-- A waking bank has written zero to all its lines (R181). -/
def execBankWakeDone (f bank : Nat) (s : State) : Res :=
  match mapFind s.wakes (bankKey f bank) with
  | none => .next s
  | some t =>
    whenever (decide (t ≤ s.now)) s
      (let s := zeroFacetAt { s with wakes := mapDel s.wakes (bankKey f bank) } f (fun a => decide (bankOf a = bank))
       fset s (Fld.fmemGated_STATE f) (clearBit (fget s (Fld.fmemGated_STATE f)) bank))

/-! ### BAR4 (R187, R188) -/

/-- First byte of the page-table slices. -/
def ptBase : Nat := 0xBC000000

/-- First byte beyond the State Store. -/
def stsEnd : Nat := 0xC0000000

/-- Some byte of an access falls in a range. -/
def touches (addr len lo hi : Nat) : Bool := decide (0 < len) && decide (addr < hi) && decide (lo < addr + len)

/-- The near frames that State Store bytes fall in are marked dirty, where they hold a page (R197). -/
def dirtyFrames (s : State) (addr len : Nat) : State :=
  (distinct ((span addr len).map (· / 2 ^ 14))).foldl markDirty s

/-- The events of a BAR4 access (R187, R188). -/
def bar4Events (s : State) (isWrite : Bool) (addr len : Nat) : State :=
  let s := if isWrite && touches addr len ptBase stsEnd then event s Fld.stsErr_PTWRITE Fld.stsCntPtwr_COUNT else s
  if 0 < len ∧ stsEnd < addr + len then event s Fld.stsErr_BAR4RANGE Fld.stsCntRange_COUNT else s

/-- What a BAR4 read returns: all ones for a word whose error is uncorrectable, and beyond the State Store (R186, R187). `bad` names the 8-byte words in error. -/
def bar4Read (s : State) (addr len : Nat) (bad : List Nat) : List Byte :=
  (span addr len).map (fun a => if stsEnd ≤ a ∨ bad.contains (a / 8) = true then 0xFF#8 else memRead s.sts a)

/-- A BAR4 read: its lines are served, each uncorrectable word is recorded, and its data is sent (R186, R187, R191). -/
def bar4Reads (s : State) (addr len : Nat) (bad : List Nat) : State :=
  let inside := min len (stsEnd - addr)
  let bad := bad ++ s.paging.badWords
  let hit := (distinct ((span addr inside).map (· / 8))).filter bad.contains
  let t := hit.foldl (fun s k => stsUeSeen s (8 * k)) (countRange s none false addr inside)
  emit t (.readData (bar4Read s addr len bad))

/-- The State Store after a BAR4 write: bytes in the page-table slices and above are discarded. -/
def bar4Write (s : State) (addr : Nat) (data : List Byte) : State :=
  let keep := data.take (ptBase - addr)
  dirtyFrames (stsWrite s none addr keep) addr keep.length

/-- A BAR4 access; before INIT_DONE reads 1 it waits (R187 to R189). A read's data is sent, and the words in which it meets an uncorrectable error are recorded (R186). -/
def execBar4Access (isWrite : Bool) (addr len : Nat) (data : Bar4Data) (s : State) : Res :=
  whenever (hostUp s && fon s Fld.stsStatus_INITDONE) s
    (if isWrite then bar4Events (bar4Write s addr data.bytes) true addr data.bytes.length else bar4Events (bar4Reads s addr len data.bad) false addr len)

/-- The zeroing of the State Store has ended, 131 072 cycles after the main domain has left its power-on reset (R189). -/
def execStsInitDone (s : State) : Res :=
  whenever (mainUp s && !fon s Fld.stsStatus_INITDONE && decide (s.power.zeroAt + 131072 ≤ s.now)) s (fset s Fld.stsStatus_INITDONE 1)

end Sys2Proof.Machine
end

