-- ==== Sys2Proof/Machine/Timing.lean ====
section
/-! DEFINITION. When the next tick may come (R18 to R23, R52), frame numbers and cut-offs (R39, R40, R211), the reserved windows of the active image (R29). -/

namespace Sys2Proof.Machine

/-- The tick source that a value of SRC selects: 1 TICK_IN, 2 the PTM-aligned timer, else the internal timer (R18). -/
def srcOf (v : Nat) : Nat := if v = 1 ∨ v = 2 then v else 0

/-- Cycles of the period in force. -/
def period (s : State) : Nat := periodCycles (fget s Fld.fsqPeriod_PERIODUS)

/-- The earliest cycle of the next tick (R20, R23, R52). -/
def earliestTick (s : State) : Nat :=
  if s.seq.firstTick then s.seq.runAt + 1
  else if s.seq.srcChanged ∨ s.seq.src = 0 then s.seq.lastTick + period s
  else s.seq.lastTick + (period s - period s / 10000)

/-- The latest cycle of the next tick (R20, R21, R52). -/
def latestTick (s : State) : Nat :=
  if s.seq.firstTick then s.seq.runAt + period s + 6500
  else if s.seq.srcChanged then s.seq.lastTick + 2 * period s
  else if s.seq.src = 0 then s.seq.lastTick + period s
  else s.seq.lastTick + period s + 6500

/-- Ticks are being made: RUN reads 1 and no stop is asked for (R52). -/
def ticking (s : State) : Bool := serving s && runOn s && !s.seq.stopReq

/-- The number of the next frame: one more than that of the last frame, 0 after a reset (R52). -/
def nextFrame (s : State) : Nat := if s.seq.ran then (fget s Fld.fsqFrame_FRAME + 1) % 2 ^ 32 else 0

/-- How many frames after the next one a frame number lies, modulo 2^32. Before any frame has run the spec names no current frame; the model counts from frame 0, the next one, so that frames 0 and 1 may be targeted. DESIGN CHOICE (log entry 21). -/
def framesAhead (s : State) (f : Nat) : Nat := (f + 2 ^ 32 - nextFrame s) % 2 ^ 32

/-- The manifest cut-off of the next frame: MANIFEST_LEAD before its earliest tick; the first frame after RUN is set has none (R39, R446). -/
def cutoffOf (s : State) : Option Nat :=
  if runOn s && !s.seq.firstTick && !s.seq.stopReq then some (earliestTick s - 1300 * cfgForce s 2) else none

/-- A cycle lies after a cut-off. -/
def pastCutoff (cut : Option Nat) (arrival : Nat) : Bool :=
  match cut with
  | none => false
  | some k => decide (k < arrival)

/-- A command reached the Frame Sequencer after the cut-off of the next frame (R39). -/
def afterCutoff (s : State) (arrival : Nat) : Bool := pastCutoff (cutoffOf s) arrival

/-! ### The PTM grid (R18, R20, R22, R52) -/

/-- The period in force in nanoseconds. -/
def periodNs (s : State) : Int := 1000 * fget s Fld.fsqPeriod_PERIODUS

/-- The greatest grid point, in PTM nanoseconds, that is not after `x`: (PTM time − PHASE) is a whole multiple of the period there (R18). -/
def gridBefore (s : State) (x : Int) : Int :=
  let phase : Int := 1000 * fget s Fld.fsqPtmphase_PHASEUS
  x - (x - phase) % periodNs s

/-- The first cycle at which PTM time has reached `x`. -/
def cycleOfPtm (s : State) (x : Int) : Nat := s.power.zeroAt + ceilDiv ((x - s.hif.ptmBase).toNat * 1300) 1000

/-- The grid point that the next tick aims at: the first one after RUN was set (R52), after a change of source the first that the period allows (R23), else the one nearest to a period after the last tick. DEDUCED (log entry 22). -/
def gridTarget (s : State) : Int :=
  if s.seq.firstTick then gridBefore s (ptmNs s s.seq.runAt) + periodNs s
  else if s.seq.srcChanged then gridBefore s (ptmNs s (s.seq.lastTick + period s) - 1) + periodNs s
  else gridBefore s (ptmNs s (s.seq.lastTick + period s) + periodNs s / 2)

/-- The cycle of the PTM-aligned timer's next tick: at its grid point, or as near to it as R20 allows (R22). -/
def ptmDue (s : State) : Nat :=
  if s.seq.firstTick then cycleOfPtm s (gridTarget s) else max (earliestTick s) (min (latestTick s) (cycleOfPtm s (gridTarget s)))

/-- The error that remains from a tick at cycle `c` to its grid point, in nanoseconds, as a signed 32-bit number (R22). -/
def ptmError (s : State) (c : Nat) : Nat := ((ptmNs s c - gridTarget s) % 4294967296).toNat

/-- The reserved windows of the active image. -/
def windows (s : State) : List WindowEntry :=
  match s.seq.active with
  | none => []
  | some i => i.windows

/-- The open windows. -/
def openWindows (s : State) : List WindowEntry := s.seq.winOpen.filterMap (fun i => (windows s)[i]?)

/-- An open page-mover window claims a channel for at least `n` more cycles (R210, R213). -/
def moverWindow (s : State) (ch n : Nat) : Bool :=
  (openWindows s).any (fun e => decide (e.kind = 0) && bitSet e.channels ch && decide (tcyc s + n ≤ e.t1))

end Sys2Proof.Machine
end

