-- ==== Sys2Proof/Machine/Paging.lean ====
section
/-! DEFINITION. The page mover and the page table's registers (file 07): MIGRATE (R211), migration entries and their commit (R212 to R215), the write-back of statuses (R213), retirement of far frames (R218, R219), CPT_PTE_CMD (R222), the zeroing of far memory (R220). -/

namespace Sys2Proof.Machine

/-! ### Migration entries (Table 07-4) -/

def MigEntry.op (e : MigEntry) : Nat := bitsOf (fieldOf e.raw 0 4) 28 4
def MigEntry.vpn (e : MigEntry) : Nat := bitsOf (fieldOf e.raw 0 4) 0 24
def MigEntry.near (e : MigEntry) : Nat := bitsOf (fieldOf e.raw 4 4) 0 24
def MigEntry.far (e : MigEntry) : Nat := bitsOf (fieldOf e.raw 8 4) 0 24
def MigEntry.format (e : MigEntry) : Nat := fieldOf e.raw 0xC 1 % 16
def MigEntry.pin (e : MigEntry) : Bool := bitSet (fieldOf e.raw 0xD 1) 0
def MigEntry.unpin (e : MigEntry) : Bool := bitSet (fieldOf e.raw 0xD 1) 1

/-- The reserved fields of an entry are 0; STATUS is the device's own. -/
def MigEntry.reservedOk (e : MigEntry) : Bool :=
  decide (bitsOf (fieldOf e.raw 0 4) 24 4 = 0) && decide (fieldOf e.raw 7 1 = 0) && decide (fieldOf e.raw 0xB 1 = 0)
    && decide (fieldOf e.raw 0xC 1 < 16) && decide (fieldOf e.raw 0xD 1 < 4) && decide (fieldOf e.raw 0xF 1 = 0)

/-- PINNED as an entry leaves it (R212). -/
def MigEntry.pinned (e : MigEntry) (old : Bool) : Bool := if e.pin then true else if e.unpin then false else old

/-- The near-frame table entry of a near frame. -/
def nearOf (s : State) (n : Nat) : Option NearEntry := mapFind s.paging.near n

/-- The far home of a page whose near copy is at frame `n`. -/
def homeOf (s : State) (n : Nat) : Option Nat := (nearOf s n).bind (fun e => e.home)

/-- The near copy at a frame is dirty. -/
def nearDirty (s : State) (n : Nat) : Bool := ((nearOf s n).map (fun e => e.dirty)).getD false

/-- A near-frame table entry written. -/
def setNear (s : State) (n : Nat) (e : NearEntry) : State := modPaging s (fun p => { p with near := mapPut p.near n e })

/-- A near frame released. -/
def freeNear (s : State) (n : Nat) : State := modPaging s (fun p => { p with near := mapDel p.near n })

/-- The first frame of the spare-page pools (R200). -/
def poolBase : Nat := 15663104

/-- A far frame that the host may name (R200). -/
def farNameable (f : Nat) : Bool := decide (f < poolBase)

/-- A far frame stands in the retired-frame map (R219). -/
def farRetired (s : State) (f : Nat) : Bool := s.paging.retired.any (fun r => r.1 = f)

/-- A far frame released: the host's to reuse, or back in its channel's pool, which is then not empty (R212, R219). -/
def freeFar (s : State) (f : Nat) : State :=
  if poolBase ≤ f ∧ s.paging.poolUsed.contains f then
    fset (bump (modPaging s (fun p => { p with poolUsed := p.poolUsed.filter (· ≠ f) })) (Fld.farChPool_FREE (f % 16)) 1) (Fld.farChState_WORN (f % 16)) 0
  else s

/-! ### The checks of an entry (R212, Tables 07-5 and 07-6) -/

/-- An operation is legal from a page state. -/
def opLegal (op st : Nat) : Bool :=
  match op with
  | 1 => decide (st = 1)
  | 2 => decide (st = 1)
  | 3 => decide (2 ≤ st)
  | 4 => decide (2 ≤ st)
  | 5 => decide (st = 3)
  | 6 => decide (st = 0)
  | 7 => true
  | 8 => decide (1 ≤ st)
  | _ => false

/-- The entry names a near frame. -/
def namesNear (op : Nat) : Bool := [1, 2, 6].contains op

/-- The entry names a far frame: EVICT and CLEAN of a NEAR page. -/
def namesFar (op st : Nat) : Bool := [3, 4].contains op && decide (st = 2)

/-- The status with which an entry fails, the lowest of those that apply, none where it may run. -/
def entryFails (s : State) (e : MigEntry) : Option Nat :=
  let p := pteOf s e.vpn
  let st := pteState p
  if (e.pin ∧ e.unpin) ∨ !e.reservedOk ∨ !opLegal e.op st then some 2
  else if (namesNear e.op && !nearUsable s e.near) || (namesFar e.op st && !farNameable e.far) then some 3
  else if namesNear e.op && (nearOf s e.near).isSome then some 4
  else if namesFar e.op st && decide (e.far % 16 ≠ e.vpn % 16) then some 5
  else if [3, 7].contains e.op && ptePinned p && !e.unpin then some 6
  else if namesFar e.op st && farRetired s e.far then some 7
  else none

/-- The entry moves a page's bytes over its far channel (Table 07-5). -/
def transfers (s : State) (e : MigEntry) : Bool :=
  let p := pteOf s e.vpn
  match e.op with
  | 1 => true
  | 2 => true
  | 3 => decide (pteState p = 2) || nearDirty s (pteFrame p)
  | 4 => decide (pteState p = 2) || nearDirty s (pteFrame p)
  | _ => false

/-! ### MIGRATE (R211) -/

/-- The entries of a command, as its fetch finds them. -/
def fetchEntries (s : State) (c : HostCmd) : List MigEntry :=
  (List.range c.len).map (fun i => ⟨memReadN s.host (c.addr + 16 * i) 16, none, false, 0⟩)

/-- MIGRATE for frame t is kept for frame t − 1, in the order of arrival, or completes with BAD_FRAME or LATE (R211). -/
def takeMigrate (s : State) (c : HostCmd) : State :=
  if framesAhead s c.frame ≠ 1 then complete s c 4 0 c.frame
  else if afterCutoff s c.arrival then complete s c 3 0 c.frame
  else
    let m : MigCmd := ⟨c, c.frame, c.addr, fetchEntries s c⟩
    modPaging s (fun p => { p with
      migrations := p.migrations.filter (fun x => decide (x.cmd.arrival ≤ c.arrival)) ++ m :: p.migrations.filter (fun x => decide (c.arrival < x.cmd.arrival)) })

/-- The MIGRATE command of a queue pair is carried out (R211, R396). -/
def execMigrateCmd (qp : Nat) (s : State) : Res :=
  match headCmd s qp 4 with
  | none => .next s
  | some c => whenever (serving s && s.hif.bme) s (takeMigrate (popCmd s qp) c)

/-! ### Running an entry (R213, R214) -/

/-- Entry `i` of migration command `m`. -/
def migEntry (s : State) (m i : Nat) : Option MigEntry := (s.paging.migrations[m]?).bind (fun c => c.entries[i]?)

/-- An entry changed. -/
def modMig (s : State) (m i : Nat) (f : MigEntry → MigEntry) : State :=
  modPaging s (fun p => { p with migrations := updAt p.migrations m (fun c => { c with entries := updAt c.entries i f }) })

/-- A command's entries run in this frame: it targets the next one. -/
def migNow (s : State) (c : MigCmd) : Bool := s.seq.inFrame && decide (c.target = nextFrame s)

/-- The entries of this frame in order, each with its command and place. -/
def migAll (s : State) : List (Nat × Nat × MigEntry) :=
  s.paging.migrations.zipIdx.flatMap (fun c => if migNow s c.1 then c.1.entries.zipIdx.map (fun e => (c.2, e.2, e.1)) else [])

/-- Entries that are running. -/
def migRunning (s : State) : List MigEntry := ((migAll s).map (fun x => x.2.2)).filter (·.running)

/-- Every earlier entry for the same page has ended (R213). -/
def earlierDone (s : State) (m i vpn : Nat) : Bool :=
  (migAll s).all (fun x => decide (m < x.1 ∨ (m = x.1 ∧ i ≤ x.2.1)) || decide (x.2.2.vpn ≠ vpn) || x.2.2.status.isSome)

/-- The lowest free frame of a channel's pool. -/
def poolFrame (s : State) (ch : Nat) : Option Nat :=
  ((List.range 4096).map (fun i => poolBase + 16 * i + ch)).find? (fun f => !s.paging.poolUsed.contains f && !farRetired s f)

/-- A retirement is due on a channel whose pool has a frame, and comes first (R218, R219). -/
def retireFirst (s : State) (ch : Nat) : Bool :=
  decide (s.paging.retiredNow < 4) && s.paging.retireDue.any (fun r => r.1 % 16 = ch) && (poolFrame s ch).isSome

/-- The cycle by which `n` more cycles of the page mover's work on a channel end. -/
def workEnds (s : State) (ch n : Nat) : Nat := max s.now (mapGet s.paging.chanFree ch 0) + n

/-- The work fits in the remaining time of a window that claims its channel (R213). -/
def workFits (s : State) (ch n : Nat) : Bool := moverWindow s ch (workEnds s ch n - s.now)

/-- Work on a channel that starts. -/
def takeChannel (s : State) (ch n : Nat) : State := modPaging s (fun p => { p with chanFree := mapPut p.chanFree ch (workEnds s ch n) })

/-- An entry fits: one without a transfer in an open window of its channel; one with a transfer in the window time of its serving channel, within the 1 024 cycles that a write waits at most (R213, R214). -/
def migFits (s : State) (e : MigEntry) : Bool :=
  let ch := e.vpn % 16
  if transfers s e then workFits s ch 320 && decide (workEnds s ch 320 ≤ s.now + 1024) && channelServes s ch else moverWindow s ch 0

/-- An entry may start as far as its page and its channel go (R210, R213, R218). -/
def migReady (s : State) (m i : Nat) (e : MigEntry) : Bool :=
  e.status.isNone && !e.running && earlierDone s m i e.vpn && !retireFirst s (e.vpn % 16) && migFits s e

/-- No entry that stands before this one may start: commands run in arrival order, each in entry order (R211). -/
def firstReady (s : State) (m i : Nat) : Bool :=
  (migAll s).all (fun x => decide (m < x.1 ∨ (m = x.1 ∧ i ≤ x.2.1)) || !migReady s x.1 x.2.1 x.2.2)

/-- An entry may start (R210, R211, R213, R218, R220). -/
def migDue (s : State) (m i op : Nat) : Option MigEntry :=
  match migEntry s m i, (s.paging.migrations[m]?).map (migNow s) with
  | some e, some true =>
    if decide (e.op = op) && serving s && fon s Fld.farStatus_INITDONE && decide ((migRunning s).length < 64) && migReady s m i e && firstReady s m i then some e else none
  | _, _ => none

/-- An entry ends with a status: the page mover's counters count it (R213, Table 07-7). -/
def endEntry (s : State) (m i st : Nat) : State :=
  let s := modMig s m i (fun e => { e with status := some st, running := false })
  let s := if st = 0 then s else modSeq (bump s Fld.cptCntFail_COUNT 1) (fun q => { q with pmFail := q.pmFail + 1 })
  if (migRunning s).isEmpty then modSeq s (fun q => { q with pmCycles := q.pmCycles + (s.now - s.paging.busySince) }) else s

/-- The page-table entry that an operation leaves (R212). `frame` is its frame. -/
def resultPte (s : State) (e : MigEntry) (st frame : Nat) : Nat :=
  let p := pteOf s e.vpn
  mkPte st false (e.pinned (ptePinned p)) (if e.op = 7 then pteFormat p else e.format) frame

/-- An operation without a transfer: its effect at once (Table 07-5). -/
def moveNothing (s : State) (e : MigEntry) : State :=
  let v := e.vpn
  let p := pteOf s v
  let n := pteFrame p
  match e.op with
  | 3 => freeNear (setPte s v (resultPte s e 1 ((homeOf s n).getD 0))) n
  | 4 => setPte s v (resultPte s e 3 n)
  | 5 =>
    let s1 := match homeOf s n with
      | none => s
      | some h => freeFar s h
    setPte (setNear s1 n ⟨v, none, nearDirty s n⟩) v (resultPte s e 2 n)
  | 6 => setPte (setNear (countRange (healWords { s with sts := memZero s.sts (e.near * 2 ^ 14) (2 ^ 14) } (fun k => decide (k / 2048 = e.near))) none true (e.near * 2 ^ 14) (2 ^ 14)) e.near ⟨v, none, false⟩) v (resultPte s e 2 e.near)
  | 7 =>
    let st := pteState p
    let s1 := if 2 ≤ st then freeNear s n else s
    let s2 := if st = 1 then freeFar s1 n else if st = 3 then (match homeOf s n with
      | none => s1
      | some h => freeFar s1 h) else s1
    drawn (setPte s2 v (resultPte s e 0 ((Config.freeWord s.free).toNat % 2 ^ 24)))
  | _ => setPte s v (resultPte s e (pteState p) n)

/-- A transfer starts: MIGRATING is set, and the near frame that it fills is claimed (R202, R214). -/
def beginMove (s : State) (m i : Nat) (e : MigEntry) : State :=
  let p := pteOf s e.vpn
  let idle := (migRunning s).isEmpty
  let s := modMig s m i (fun x => { x with running := true, doneAt := workEnds s (e.vpn % 16) 320 })
  let s := takeChannel s (e.vpn % 16) 320
  let s := if idle then modPaging s (fun g => { g with busySince := s.now }) else s
  let s := setPte s e.vpn (mkPte (pteState p) true (ptePinned p) (pteFormat p) (pteFrame p))
  if namesNear e.op then setNear s e.near ⟨e.vpn, none, false⟩ else s

/-- An entry starts: it fails, has its effect at once, or begins its transfer (R212 to R214). -/
def runEntry (s : State) (m i op : Nat) : Res :=
  match migDue s m i op with
  | none => .next s
  | some e =>
    match entryFails s e with
    | some st => .next (endEntry s m i st)
    | none =>
      if transfers s e then .next (beginMove s m i e)
      else
        let idle := (migRunning s).isEmpty
        .next (endEntry (moveNothing (if idle then modPaging s (fun g => { g with busySince := s.now }) else s) e) m i 0)

/-- FETCH (R212). -/
def execFetchPage (m i : Nat) (s : State) : Res := runEntry s m i 1

/-- FETCH_MOVE (R212). -/
def execFetchMove (m i : Nat) (s : State) : Res := runEntry s m i 2

/-- EVICT (R212). -/
def execEvictPage (m i : Nat) (s : State) : Res := runEntry s m i 3

/-- CLEAN (R212). -/
def execCleanPage (m i : Nat) (s : State) : Res := runEntry s m i 4

/-- DROP_FAR (R212). -/
def execDropFar (m i : Nat) (s : State) : Res := runEntry s m i 5

/-- ZERO_NEAR (R212). -/
def execZeroNear (m i : Nat) (s : State) : Res := runEntry s m i 6

/-- FREE (R212). -/
def execFreePage (m i : Nat) (s : State) : Res := runEntry s m i 7

/-- RETAG (R212), and an entry whose OP is undefined, which fails. -/
def execRetagPage (m i : Nat) (s : State) : Res :=
  match migEntry s m i with
  | none => .next s
  | some e => runEntry s m i (if e.op = 0 ∨ 8 < e.op then e.op else 8)

/-! ### Commit (R214, R215) -/

/-- The bytes of a far frame as a copy takes them: each bad 1 KiB block as zero (R215). -/
def farPage (s : State) (f : Nat) : List Byte :=
  (List.range 16).flatMap (fun b => if s.paging.badBlocks.contains (16 * f + b) then List.replicate 1024 0#8 else memReadN s.far (f * 2 ^ 14 + 1024 * b) 1024)

/-- A far frame has a bad block. -/
def farBad (s : State) (f : Nat) : Bool := s.paging.badBlocks.any (fun b => b / 16 = f)

/-- The bytes of a near frame as a copy takes them: each bad 1 KiB block as zero (R215). -/
def nearPage (s : State) (n : Nat) : List Byte :=
  (List.range 16).flatMap (fun b =>
    if s.paging.badWords.any (fun k => k / 128 = 16 * n + b) then List.replicate 1024 0#8 else memReadN s.sts (n * 2 ^ 14 + 1024 * b) 1024)

/-- A near frame has a bad block. -/
def nearBad (s : State) (n : Nat) : Bool := s.paging.badWords.any (fun k => k / 2048 = n)

/-- A far frame is due for retirement: it joins the list once (R218). -/
def dueRetire (s : State) (f cause : Nat) : State :=
  if farRetired s f || s.paging.retireDue.any (fun r => r.1 = f) then s
  else modPaging s (fun p => { p with retireDue := p.retireDue ++ [(f, cause)] })

/-- A whole page moved over a channel: 16 blocks (R192). -/
def countBlocks (s : State) (ch : Nat) : State := bump s (Fld.farChBlocks_COUNT ch) 16

/-- A page read from its far frame into a near frame: the new home, or the far frame released (FETCH, FETCH_MOVE). The state and the entry's status. -/
def commitFetch (s : State) (e : MigEntry) : State × Nat :=
  let f := pteFrame (pteOf s e.vpn)
  let bad := farBad s f
  let v := e.vpn
  let keep := decide (e.op = 1)
  let t := stsWrite s none (e.near * 2 ^ 14) (farPage s f)
  let t := setPte (setNear t e.near ⟨v, if keep then some f else none, false⟩) v (resultPte s e (if keep then 3 else 2) e.near)
  let t := if keep then t else freeFar t f
  let t := if bad then dueRetire t f 1 else t
  let t := bump (countBlocks t (v % 16)) Fld.cptCntIn_COUNT 1
  (if bad then t else modSeq t (fun q => { q with pmIn := q.pmIn + 1 }), if bad then 8 else 0)

/-- A page written from its near frame to its far home (EVICT, CLEAN). The state and the entry's status. -/
def commitOut (s : State) (e : MigEntry) : State × Nat :=
  let p := pteOf s e.vpn
  let n := pteFrame p
  let f := if pteState p = 2 then e.far else (homeOf s n).getD 0
  let v := e.vpn
  let t := countRange { s with far := memWrite s.far (f * 2 ^ 14) (nearPage s n) } none false (n * 2 ^ 14) (2 ^ 14)
  let t := if e.op = 3 then freeNear (setPte t v (resultPte s e 1 f)) n else setPte (setNear t n ⟨v, some f, false⟩) v (resultPte s e 3 n)
  (modSeq (bump (countBlocks t (v % 16)) Fld.cptCntOut_COUNT 1) (fun q => { q with pmOut := q.pmOut + 1 }), if nearBad s n then 8 else 0)

/-- An entry's transfer commits: the new page-table entry is written in one cycle (R214). -/
def commitEntry (s : State) (m i : Nat) (e : MigEntry) : State :=
  let r := if e.op < 3 then commitFetch s e else commitOut s e
  endEntry r.1 m i r.2

/-- A transfer ends: 320 cycles of its channel, after what the channel had to do before it (R194, R214). A transfer in flight when its channel pauses completes (R467). -/
def execMigrationCommit (m i : Nat) (s : State) : Res :=
  match migEntry s m i with
  | none => .next s
  | some e => whenever (e.running && decide (e.doneAt ≤ s.now)) s (commitEntry s m i e)

/-- Every running transfer that satisfies a test commits. -/
def commitWhere (s : State) (p : MigEntry → Bool) : State :=
  (migAll s).foldl (fun s x => if x.2.2.running && p x.2.2 then commitEntry s x.1 x.2.1 x.2.2 else s) s

/-! ### The end of the frame (R213) -/

/-- The cycle at which the last page-mover window of the frame closes. -/
def moverEnd (s : State) : Nat := ((windows s).filter (fun e => e.kind = 0)).foldl (fun n e => max n e.t1) 0

/-- The status that an entry that never started reads: CHANNEL_PAUSED where its channel was paused, or offline, to the end of its window time, else NOT_RUN (Table 07-6, R469). -/
def unrunStatus (s : State) (e : MigEntry) : Nat := if s.paging.pausedAt.contains (e.vpn % 16) then 9 else 1

/-- A page-mover window closes: the transfers that it had time for have ended, and the channels that are paused are noted (R213, Table 07-6). -/
def closeMover (s : State) (w : WindowEntry) : State :=
  let s := commitWhere s (fun e => decide (e.doneAt ≤ s.now))
  let mine := (List.range 16).filter (bitSet w.channels)
  modPaging s (fun p => { p with pausedAt := p.pausedAt.filter (fun c => !mine.contains c) ++ mine.filter (fun c => decide (2 ≤ fget s (Fld.farChState_STATE c))) })

/-- A command's statuses written to host memory, and its completion (R213, Table 14-8). -/
def writeBack (s : State) (c : MigCmd) : State :=
  let es := c.entries.map (fun e => (e.status, e.status.getD (unrunStatus s e)))
  let unrun := (es.filter (fun x => x.1.isNone)).length
  let s := es.zipIdx.foldl (fun s x => hostWrite s (c.addr + 16 * x.2 + 14) (leBytes 1 x.1.2)) s
  let s := modSeq (bump s Fld.cptCntFail_COUNT unrun) (fun q => { q with pmFail := q.pmFail + unrun })
  complete s c.cmd 0 ((es.filter (fun x => x.2 = 0)).length) c.target

/-- The statuses of the commands that ran in this frame; a transfer that still runs ends first (R214). -/
def writeBackAll (s : State) : State :=
  let s := commitWhere s (fun _ => true)
  let cs := s.paging.migrations.filter (migNow s)
  cs.foldl writeBack (modPaging s (fun p => { p with migrations := p.migrations.filter (fun c => !migNow s c) }))

/-- At the end of frame t − 1, with no window left and no entry running (R213). -/
def execMigrateStatusWriteback (s : State) : Res :=
  whenever (s.paging.migrations.any (migNow s) && (migRunning s).isEmpty && decide (moverEnd s ≤ tcyc s)) s (writeBackAll s)

/-! ### Retirement (R218, R219) -/

/-- The pages whose far frame is `f`: FAR pages by number, BOTH pages by near frame. The host gives each page a far frame of its own (R202); where it did not, all of them move. -/
def farPagesAt (s : State) (f : Nat) : List Nat :=
  let vpns := distinct (((s.sts.filter (fun c => decide (0xBC000000 ≤ c.1) && decide (c.1 < 0xC0000000))).map (fun c => (c.1 - 0xBC000000) / 4)).eraseReps)
  vpns.filter (fun v => decide (pteState (pteOf s v) = 1) && decide (pteFrame (pteOf s v) = f))

/-- The near frames whose page has its far home at `f`. -/
def homesAt (s : State) (f : Nat) : List (Nat × NearEntry) := s.paging.near.filter (fun e => e.2.home = some f)

/-- The page of a retired frame moved to a pool frame: its table entry, or its home, names the new frame. -/
def moveHome (s : State) (f new : Nat) : State :=
  let t := { s with far := memWrite s.far (new * 2 ^ 14) (farPage s f) }
  let t := (farPagesAt s f).foldl (fun t v =>
    let p := pteOf s v
    setPte t v (mkPte 1 (pteMigrating p) (ptePinned p) (pteFormat p) new)) t
  (homesAt s f).foldl (fun t e => setNear t e.1 { e.2 with home := some new }) t

/-- A frame joins the retired-frame map and the log; the repair and retirement events are recorded (R218, R453). -/
def logRetired (s : State) (f cause : Nat) : State :=
  let s := modPaging s (fun p => { p with
    retired := p.retired ++ [(f, cause)], retireDue := p.retireDue.filter (fun r => r.1 ≠ f), retiredNow := p.retiredNow + 1 })
  errorRec (fset s Fld.farRetcount_COUNT s.paging.retired.length) 2 2 (f % 16) 8 0xFFFF f

/-- No page of a far frame migrates. -/
def farStill (s : State) (f : Nat) : Bool :=
  (farPagesAt s f).all (fun v => !pteMigrating (pteOf s v)) && (homesAt s f).all (fun e => !pteMigrating (pteOf s e.2.vpn))

/-- The frame that the page mover retires next: the first due whose channel an open window claims for the page's read and write, each 320 cycles; one whose pool is empty is found so once (R194, R218, R219). -/
def retireNext (s : State) : Option (Nat × Nat) :=
  if 4 ≤ s.paging.retiredNow then none
  else s.paging.retireDue.find? (fun r =>
    let ch := r.1 % 16
    workFits s ch 640 && channelServes s ch && farStill s r.1 && ((poolFrame s ch).isSome || !fon s (Fld.farChState_WORN ch)))

/-- A frame is due for retirement and its channel's pool is empty: the frame stays in use, and WORN reads 1 (R219); that no spare is left is recorded (Table 17-1). -/
def poolEmpty (s : State) (ch : Nat) : State := setFlag (errorRec (fset s (Fld.farChState_WORN ch) 1) 3 2 ch 9 0xFFFF 0) Fld.rpmErr_SPAREOUT

/-- A far frame retired; its channel is the page mover's for the copy's 640 cycles (R218, R219). -/
def execFarFrameRetire (s : State) : Res :=
  match retireNext s with
  | none => .next s
  | some (f, cause) =>
    let ch := f % 16
    match poolFrame s ch with
    | none => .next (poolEmpty s ch)
    | some new =>
      let t := moveHome (takeChannel s ch 640) f new
      let t := modPaging t (fun p => { p with poolUsed := p.poolUsed ++ [new] })
      let t := fset t (Fld.farChPool_FREE ch) (fget t (Fld.farChPool_FREE ch) - 1)
      let t := if fget t (Fld.farChPool_FREE ch) = 256 then setFlag t Fld.farErr_POOLLOW else t
      let t := modSeq (countBlocks (countBlocks t ch) ch) (fun q => { q with pmCycles := q.pmCycles + 640 })
      .next (logRetired t f cause)

/-! ### CPT_PTE_CMD (R222) -/

/-- The far home of a page that the host makes BOTH: the far frame it had, or one left free, on the page's channel and not retired (R201, R219). -/
def newHome (s : State) (vpn : Nat) : Nat :=
  let p := pteOf s vpn
  if pteState p = 1 then pteFrame p
  else if pteState p = 3 then (homeOf s (pteFrame p)).getD 0
  else
    let x := (freshWord s).toNat
    (((List.range (s.paging.retired.length + 1)).map (fun i => 16 * ((x + i) % 978944) + vpn % 16)).find? (fun f => !farRetired s f)).getD 0

/-- A new value breaks the frame rules (R199 to R202, R222). -/
def pteRefused (s : State) (vpn x : Nat) : Bool :=
  let st := pteState x
  let f := pteFrame x
  match st with
  | 0 => false
  | 1 => !farNameable f || decide (f % 16 ≠ vpn % 16) || farRetired s f
  | _ => !nearUsable s f || (match nearOf s f with
    | none => false
    | some e => decide (e.vpn ≠ vpn))

/-- An accepted write: the old near frame released, the new one claimed, clean; MIGRATING 0. -/
def acceptPte (s : State) (vpn x : Nat) : State :=
  let p := pteOf s vpn
  let home := newHome s vpn
  let t := if 2 ≤ pteState p then freeNear s (pteFrame p) else s
  let t := if 2 ≤ pteState x then setNear t (pteFrame x) ⟨vpn, if pteState x = 3 then some home else none, false⟩ else t
  drawn (setPte t vpn (mkPte (pteState x) false (ptePinned x) (pteFormat x) (pteFrame x)))

/-- A write of GO (R222). -/
def execCptPteWrite (s : State) : Res :=
  let v := fget s Fld.cptPteVpn_VPN
  let x := fget s Fld.cptPteData_VALUE
  let res (t : State) (r : Nat) : State := fset t Fld.cptPteCmd_RESULT r
  whenever (serving s) s
    (if runOn s then res s 3
     else if pteMigrating (pteOf s v) then res s 1
     else if pteRefused s v x then res s 2
     else res (acceptPte s v x) 0)

/-! ### Zeroing (R220) -/

/-- The zeroing of far memory has ended: every channel serves. -/
def execFarInitDone (s : State) : Res :=
  whenever (mainUp s && !fon s Fld.farStatus_INITDONE) s
    ((List.range 16).foldl (fun t d => if fget t (Fld.farChState_STATE d) = 0 then fset t (Fld.farChState_STATE d) 1 else t) (fset s Fld.farStatus_INITDONE 1))

end Sys2Proof.Machine
end

