-- ==== Sys2Proof/Machine/Predictor.lean ====
section
/-! DEFINITION. The Predictor: weight sets (R147, R148), query blocks (R336, Table 11-5), scores and selection (R149, R150) and the neuron list it writes (Table 05-7). -/

namespace Sys2Proof.Machine

/-! ### Weight sets (Table 05-6) -/

def setD (h : List Byte) : Nat := fieldOf h 0 2
def setN (h : List Byte) : Nat := fieldOf h 2 2
def setR (h : List Byte) : Nat := fieldOf h 4 2
def setAct (h : List Byte) : Nat := fieldOf h 6 1
def setA (h : List Byte) : Nat := fieldOf h 8 4
def setB (h : List Byte) : Nat := fieldOf h 0xC 4

/-- Bytes of the A part: r × d weights and r scales. -/
def setALen (h : List Byte) : Nat := setR h * setD h + 4 * setR h

/-- Bytes of the B part: N × r weights and N scales. -/
def setBLen (h : List Byte) : Nat := setN h * setR h + 4 * setN h

/-- A number that is a multiple of `k` from `lo` to `hi`. -/
def limitOk (k lo hi x : Nat) : Bool := decide (x % k = 0) && decide (lo ≤ x) && decide (x ≤ hi)

/-- A weight set keeps the limits of Table 05-6, and every byte of it lies in an allocation (R147, R319). -/
def setOk (s : State) (a : Nat) : Bool :=
  let h := memReadN s.sts a 64
  decide (a % 64 = 0) && inData s a 64 && limitOk 128 128 16384 (setD h) && limitOk 128 128 32768 (setN h) && limitOk 16 16 512 (setR h)
    && decide (setAct h ≤ 1) && decide (fieldOf h 7 1 = 0) && decide (fieldOf h 0x14 44 = 0)
    && decide (fieldOf h 0x10 4 = setALen h + setBLen h) && decide (setALen h + setBLen h ≤ 4194304)
    && inData s (a + setA h) (setALen h) && inData s (a + setB h) (setBLen h)

/-- The bytes of a weight set as the buffer holds them: header, A part, B part. -/
def setBytes (s : State) (a : Nat) : List Byte :=
  let h := memReadN s.sts a 64
  h ++ memReadN s.sts (a + setA h) (setALen h) ++ memReadN s.sts (a + setB h) (setBLen h)

/-- The State Store lines of a weight set. -/
def setLines (s : State) (a : Nat) : List Nat :=
  let h := memReadN s.sts a 64
  (linesOf a 64 ++ linesOf (a + setA h) (setALen h) ++ linesOf (a + setB h) (setBLen h)).eraseReps

/-! ### Query blocks (Table 11-5) -/

def qSet (b : List Byte) : Nat := fieldOf b 0 4
def qInput (b : List Byte) : Nat := fieldOf b 4 4
def qDest (b : List Byte) : Nat := fieldOf b 8 4
def qMode (b : List Byte) : Nat := fieldOf b 0xC 1
def qOr (b : List Byte) : Bool := bitSet (fieldOf b 0xD 1) 0
def qArr (b : List Byte) : Option Nat := if bitSet (fieldOf b 0xD 1) 1 then some (fieldOf b 0xF 1 % 64) else none
def qS (b : List Byte) : Nat := fieldOf b 0xE 1
def qParam (b : List Byte) : Nat := fieldOf b 0x10 4
def qTag (b : List Byte) : Nat := fieldOf b 0x14 2

/-- A query block that may be queued (R336). -/
def queryOk (s : State) (lf : Nat) (b : List Byte) : Bool :=
  let h := memReadN s.sts (qSet b) 64
  setOk s (qSet b) && decide (qInput b % 64 = 0) && decide (qDest b % 64 = 0) && decide (qMode b ≤ 1) && decide (fieldOf b 0xD 1 < 4)
    && decide (1 ≤ qS b) && decide (qS b ≤ 64) && decide (fieldOf b 0xF 1 < 64) && decide (fieldOf b 0x16 10 = 0)
    && (decide (qMode b = 1) || (decide (1 ≤ qParam b) && decide (qParam b ≤ setN h)))
    && inUsed s lf (qInput b) (2 * setD h * qS b) && inUsed s lf (qDest b) (48 + 2 * setN h)

/-- PDQ starts a QUERY: its block, none where it is faulting (R319, R336). -/
def startQuery (s : State) (w : Who) (addr : Word) : Option (State × List Byte) :=
  let a := addr.toNat
  let b := facetRead s w.lf a 32
  if a % 64 ≠ 0 ∨ !inUsed s w.lf a 32 ∨ !queryOk s w.lf b then none
  else some (fmemTouch s (physOf s w.lf) (span a 32), b)

/-- The Predictor's queue has a place (R148). -/
def predRoom (s : State) : Bool := decide (s.predictor.queue.length < 16)

/-- A query joins the Predictor's queue. -/
def joinPredictor (s : State) (w : Who) (seq : Nat) (b : List Byte) : State :=
  let s := modCmd s w seq (fun c => { c with todo := [b] })
  { s with predictor := { s.predictor with queue := s.predictor.queue ++ [⟨w.lf, w.ctx, taskId s w, seq, b⟩] } }

/-! ### Weight-set loads (R148) -/

/-- The half that holds a set. -/
def residentHalf (p : Predictor) (a : Nat) : Option PredHalf :=
  if p.half0.valid && decide (p.half0.addr = a) then some p.half0
  else if p.half1.valid && decide (p.half1.addr = a) then some p.half1
  else none

/-- The next set to load: that of the query that stands first, then those of PREFETCH, then those of later queries. -/
def loadWanted (p : Predictor) : Option Nat :=
  let sets := ((p.queue.take 1).map (fun q => qSet q.block)) ++ p.prefetches ++ ((p.queue.drop 1).map (fun q => qSet q.block))
  sets.find? (fun a => (residentHalf p a).isNone)

/-- PREFETCH is accepted: a set that is not resident is to be loaded (R148, R336). -/
def acceptPrefetch (s : State) (addr : Nat) : State :=
  if (residentHalf s.predictor addr).isSome ∨ s.predictor.prefetches.contains addr then s
  else { s with predictor := { s.predictor with prefetches := s.predictor.prefetches ++ [addr] } }

/-- The prefetches that still ask for a set that is not resident. -/
def Predictor.tidy (p : Predictor) : Predictor := { p with prefetches := p.prefetches.filter (fun a => (residentHalf p a).isNone) }

/-- A set loaded into the half used least recently, that of the query in front left alone when it is resident (R148). -/
def Predictor.load (p : Predictor) (a : Nat) (bytes : List Byte) : Predictor :=
  let h : PredHalf := ⟨true, a, p.useCount, bytes⟩
  let keep := (p.queue.head?).map (fun q => qSet q.block)
  let holds (x : PredHalf) : Bool := x.valid && decide (keep = some x.addr)
  let zero := if holds p.half0 then false else if holds p.half1 then true
    else if !p.half0.valid then true else if !p.half1.valid then false else decide (p.half0.lastUse ≤ p.half1.lastUse)
  let p := { p with useCount := p.useCount + 1 }
  (if zero then { p with half0 := h } else { p with half1 := h }).tidy

/-- The cycles of a load: 512 bytes in each (R148). -/
def loadTime (s : State) (a : Nat) : Nat := ceilDiv ((setBytes s a).length - 64) 512

/-- The Predictor has loaded a weight set that a query or a PREFETCH needs (R148). -/
def execWeightSetLoad (s : State) : Res :=
  match s.predictor.running with
  | some (.load a since) =>
    whenever (decide (since + loadTime s a ≤ s.now)) s
      (bump { serveLines s none false (setLines s a) with predictor := { s.predictor.load a (setBytes s a) with running := none } } Fld.prdCntLoad_COUNT 1)
  | _ => .next s

/-! ### Scores -/

/-- An INT8 weight as FP32. -/
def weightWord (b : Byte) : Word := BitVec.ofNat 32 (fp32.encode (Fp.ofInt b.toInt))

/-- One row of a layer on an input: products, their FP32 sum in an order left free, and the row's scale; whether the scale comes first is left free. -/
def rowScore (draw : Nat) (ws : List Byte) (scale : Word) (xs : List Word) : Word :=
  let first := Config.predScaleFirst
  let ps := (ws.zip xs).map (fun p => kMul (if first then kMul (weightWord p.1) scale else weightWord p.1) p.2)
  let sum := (freeShuffle draw ps).foldl kAdd 0#32
  if first then sum else kMul sum scale

/-- One layer: `rows` rows of `cols` INT8 weights, then `rows` FP32 scales. -/
def layer (draw rows cols : Nat) (bs : List Byte) (xs : List Word) : List Word :=
  (List.range rows).map (fun i =>
    rowScore (draw + i) (sliceOf bs (i * cols) cols) (BitVec.ofNat 32 (fieldOf bs (rows * cols + 4 * i) 4)) xs)

/-- ReLU: a negative number gives +0. -/
def relu (x : Word) : Word := if (fp32.decode x.toNat).lt (.num false 0 0) then 0#32 else x

/-- The scores of one session from its input row. -/
def scores (draw : Nat) (set : List Byte) (row : List Byte) : List Word :=
  let h := (chunkList 2 row row.length).map (fun b => BitVec.ofNat 32 (fp32.encode (bf16.decode (ofLe b))))
  let u := layer draw (setR set) (setD set) (sliceOf set 64 (setALen set)) h
  let u := if setAct set = 1 then u.map relu else u
  layer (draw + 65536) (setN set) (setR set) (sliceOf set (64 + setALen set) (setBLen set)) u

/-- Score `a` ranks above `b`: NaN below every other score (R149). -/
def ranksAbove (a b : Word) : Bool := !nanScore a && (nanScore b || (fp32.decode b.toNat).lt (fp32.decode a.toNat))
where
  /-- A score that is NaN. -/
  nanScore (x : Word) : Bool := (fp32.decode x.toNat).isNan

/-- A neuron inserted among those ranked so far, behind every one that ranks at least as high. -/
def rankInsert (x : Nat × Word) (l : List (Nat × Word)) : List (Nat × Word) :=
  match l with
  | [] => [x]
  | y :: r => if ranksAbove x.2 y.2 then x :: y :: r else y :: rankInsert x r

/-- The neurons that one session selects (R149). -/
def selected (mode param : Nat) (sc : List Word) : List Nat :=
  let all := sc.zipIdx.map (fun p => (p.2, p.1))
  if mode = 0 then ((all.foldl (fun l x => rankInsert x l) []).take param).map (·.1)
  else (all.filter (fun p => (fp32.decode param).lt (fp32.decode p.2.toNat))).map (·.1)

/-! ### The list (Table 05-7) -/

/-- The indices that the list at the destination already holds, reduced modulo N. -/
def oldIndices (s : State) (lf dest n : Nat) : List Nat :=
  let k := min (ofLe (facetRead s lf dest 2)) n
  (List.range k).map (fun i => ofLe (facetRead s lf (dest + 48 + 2 * i) 2) % n)

/-- The union of the selections of a query's sessions, ascending (R150). -/
def queryUnion (s : State) (lf : Nat) (set b : List Byte) : List Nat :=
  let d := setD set
  let picks := (List.range (qS b)).flatMap (fun i =>
    selected (qMode b) (qParam b) (scores (s.free + 2 ^ 18 * i) set (facetRead s lf (qInput b + 2 * d * i) (2 * d))))
  let old := if qOr b then oldIndices s lf (qDest b) (setN set) else []
  let hit := (picks ++ old).foldl (fun (a : Array Bool) i => a.setIfInBounds i true) (Array.replicate (setN set) false)
  (List.range (setN set)).filter (fun i => hit.getD i false)

/-- The head of a list. -/
def listHead (b : List Byte) (n : Nat) (idx : List Nat) : List Byte :=
  let groups := (idx.map (· / 128)).eraseDups
  leBytes 2 idx.length ++ leBytes 2 n ++ leBytes 2 (qTag b) ++ leBytes 2 groups.length ++ List.replicate 8 0#8
    ++ leBytes 32 ((groups.map (2 ^ ·)).foldl (· + ·) 0)

/-- The list that a query writes, as it stands from DEST on. -/
def queryList (s : State) (q : PredQuery) (set : List Byte) : List Byte :=
  let idx := queryUnion s q.lf set q.block
  listHead q.block (setN set) idx ++ idx.flatMap (leBytes 2)

/-- The facet bytes that a query reads: its input rows and, with OR, the list at its destination (R150, R336). -/
def queryReads (s : State) (q : PredQuery) (set : List Byte) : List Nat :=
  let b := q.block
  span (qInput b) (2 * setD set * qS b)
    ++ (if qOr b then span (qDest b) 2 ++ span (qDest b + 48) (2 * min (ofLe (facetRead s q.lf (qDest b) 2)) (setN set)) else [])

/-- The service of the first query begins, with what it reads: its list is worked out, to be written (R154). -/
def beginQuery (s : State) (q : PredQuery) (h : PredHalf) : State :=
  let p := s.predictor
  let touch (x : PredHalf) : PredHalf := if x.valid ∧ x.addr = h.addr then { x with lastUse := p.useCount } else x
  let s := fmemTouch s (physOf s q.lf) (queryReads s q h.data)
  let out := queryList s q h.data
  let s := modCmd s ⟨q.lf, q.ctx⟩ q.seq (fun c => { c with image := out })
  { s with free := s.free + 2 ^ 24, predictor := { p with running := some .query, useCount := p.useCount + 1, half0 := touch p.half0, half1 := touch p.half1 } }

/-- What an idle Predictor begins: the first query, when its set is resident and the banks that it reads are awake, else a load that is wanted. Queries and loads run one at a time (R148, R154, R181). -/
def beginNext (s : State) : State :=
  let load : State := match loadWanted s.predictor with
    | none => s
    | some a => { s with predictor := { s.predictor with running := some (.load a s.now) } }
  match s.predictor.queue.head? with
  | none => load
  | some q =>
    match residentHalf s.predictor (qSet q.block) with
    | none => load
    | some h => if awake s q.lf (queryReads s q h.data) then beginQuery s q h else s

/-- A cycle of the Predictor (R148, R154): one that a query or a load spends is counted (R156). -/
def predictorCycle (s : State) : State :=
  if s.predictor.queue.isEmpty && s.predictor.prefetches.isEmpty && s.predictor.running.isNone then s
  else
    let s := if s.predictor.running.isNone then beginNext s else s
    let busy := match s.predictor.running with
      | none => false
      | some .query => true
      | some (.load a since) => decide (s.now < since + loadTime s a)
    if busy then bump s Fld.prdCntBusy_COUNT 1 else s

/-- A query's service ends: its list is written, indices first and head last, the head naming its arrival counter, and its command is ready to complete with COUNT (R150, R240, R336). -/
def serveQuery (s : State) (q : PredQuery) (c : ECmd) : State :=
  let b := q.block
  let head := laidAt (qDest b) (c.image.take 48)
  let kept := (keptWrites s (physOf s q.lf) head).length
  let n := fieldOf c.image 2 2
  let count := fieldOf c.image 0 2
  let s := bump (bump (bump s Fld.prdCntQuery_COUNT 1) Fld.prdCntSelect_COUNT count) Fld.prdCntGrpoff_COUNT (ceilDiv n 128 - fieldOf c.image 6 2)
  let s := match qArr b with
    | none => s
    | some i => arrAdd s q.lf i kept
  let s := modCmd s ⟨q.lf, q.ctx⟩ q.seq (fun c => { c with ready := true, doneAt := s.now + 1, image := [], result := BitVec.ofNat 32 count })
  taskWriteOrAbort s q.task q.lf (laidAt (qDest b + 48) (c.image.drop 48) ++ head)

/-- The Predictor has served the query that stands first: its list is written (R154). -/
def execPredictorQueryService (s : State) : Res :=
  match s.predictor.running, s.predictor.queue with
  | some .query, q :: r =>
    match (ctxOf s ⟨q.lf, q.ctx⟩).cmds.find? (fun c => c.seq = q.seq) with
    | none => .next s
    | some c =>
      whenever (awake s q.lf (span (qDest q.block) c.image.length)) s
        (serveQuery { s with predictor := { s.predictor with queue := r, running := none } } q c)
  | _, _ => .next s

end Sys2Proof.Machine
end

