-- ==== Sys2Proof/Machine/SelfTest.lean ====
section
/-! DEFINITION. The self-tests of facets (R125 to R127) and the comparison of a shadow check's outputs (R477). -/

namespace Sys2Proof.Machine

/-! ### Known-answer tests (R127) -/

/-- The tiles of a test's span. -/
def katTiles (r : KatRun) : List TileBytes := r.tiles.map List.toArray

/-- The groups that structured mode runs a test's span in (R126). -/
def katGroups (r : KatRun) : List TileGroup := structGroups (katTiles r)

/-- The passes of a test's span (R126). -/
def katPasses (r : KatRun) : Nat := ((katGroups r).map (·.passes)).sum

/-- One pass of a group over one streamed row, added to the row's 128 accumulator words (R75, R110). -/
def katPass (r : KatRun) (row : Array Byte) (g : TileGroup) (acc : List Word) (p : Nat) : List Word :=
  let cells := passCells 0 g.g p 128 (r.tiles.length - 1) g.first 128 0 (((katTiles r).drop g.first).take g.g)
  let bytes := row.extract (128 * g.first) (128 * (g.first + g.g))
  acc.zipIdx.map (fun x => (accInt x.1 (intSum (columnTerms cells bytes g.g x.2))).1)

/-- The known answer of one streamed row: the exact sums over every pass of every group. -/
def katRow (r : KatRun) (row : List Byte) : List Word :=
  (katGroups r).foldl (fun acc g => (List.range g.passes).foldl (katPass r row.toArray g) acc) (List.replicate 128 0#32)

/-- The result of a test is bit-exact. -/
def katResultOk (r : KatRun) : Bool := decide (r.results = r.inputs.map (katRow r))

/-- The cycle counts of a test are those of R61 and R126: one load and M injections for each pass, and 128 cycles of stall for each load. -/
def katTimeOk (r : KatRun) : Bool :=
  decide (r.loads = katPasses r) && decide (r.injects = katPasses r * r.inputs.length) && decide (r.stalls = 128 * katPasses r)

/-- A facet passes its self-test: no known-answer test mismatches. -/
def katPassed (runs : List KatRun) : Bool := runs.all (fun r => katResultOk r && katTimeOk r)

/-- A facet's self-test ends: structured mode ends, and CMP_KAT shows the mismatches that this test found (R125, R127). -/
def katResult (s : State) (pf : Nat) (runs : List KatRun) : State :=
  fset (fset (fset s (Fld.cmpStatus_STRUCT pf) 0) (Fld.cmpKat_RESULTFAIL pf) (if runs.all katResultOk then 0 else 1))
    (Fld.cmpKat_TIMEFAIL pf) (if runs.all katTimeOk then 0 else 1)

/-! ### Shadow comparison (R477) -/

/-- The format of a floating-point output. -/
def outFmt : OutElem → Option FpFmt
  | .fp32 => some fp32
  | .bf16 => some bf16
  | .e4m3 => some e4m3
  | .e5m2 => some e5m2
  | .exact => none

/-- The magnitude of a value. -/
def Fp.abs : Fp → Fp
  | .num _ m e => .num false m e
  | .inf _ => .inf false
  | .nan => .nan

/-- Two values match: equal, both NaN, or within 2^−`k` of the larger magnitude. The rule's inequality has infinity on both sides where one is infinite and the other differs: whether those match is left free (log entry 35). -/
def fpMatch (k : Nat) (f : FpFmt) (x y : Nat) : Bool :=
  let a := f.decode x
  let b := f.decode y
  let d := (a.add b.neg).abs
  let top := if a.abs.lt b.abs then b.abs else a.abs
  a.eqNum b || (a.isNan && b.isNan)
    || (!a.isNan && !b.isNan && (if top = .inf false then Config.infMatch x y else !(top.mul (.num false 1 (-(k : Int)))).lt d))

/-- Two outputs match: exactly, or, for a task whose FLAGS[0] is 1, with the elements of a floating-point destination compared by value within 2^−min(k, m). -/
def outMatch (byValue : Bool) (k : Nat) (a b : TaskOut) : Bool :=
  match byValue, outFmt a.elem with
  | true, some f =>
    decide (a.head = b.head) && decide (a.elem = b.elem) && decide (a.elems.length = b.elems.length)
      && (a.elems.zip b.elems).all (fun x => fpMatch (min k f.mbits) f x.1 x.2)
  | _, _ => decide (a = b)

/-- The outputs of a live task and of its shadow match, in the order in which each queue issues them (R476, R477). -/
def outsMatch (byValue : Bool) (k : Nat) (live shadow : List TaskOut) : Bool :=
  decide (live.length = shadow.length) && (live.zip shadow).all (fun x => outMatch byValue k x.1 x.2)

end Sys2Proof.Machine
end

