-- ==== Sys2Proof/Machine/Sync.lean ====
section
/-! DEFINITION. Semaphores (R257 to R262, R304), arrival counters (R174 to R177, R305), fences (R282) and the end of a task (R307). -/

namespace Sys2Proof.Machine

/-! ### Fences -/

/-- Every ST.W issued before has been performed, and every command numbered below `seq` has completed, those of the STR queue apart (R282). -/
def fenceHolds (s : State) (w : Who) (seq storeAt : Nat) : Bool :=
  decide (storeAt ≤ s.now) && commandsOver s w seq

/-- The fence of the instruction that the context issues now. -/
def fenceNow (s : State) (w : Who) : Bool := fenceHolds s w (facetOf s w.lf).seq (ctxOf s w).storeAt

/-- FENCE (R282, R307): one cycle when nothing is outstanding, else a wait. -/
def execFence (w : Who) (s : State) : Res :=
  issue s w [] [] true (fun s => if fenceNow s w then advance s w 1 else waitFor s w .fence)

/-- The post that a channel makes, as an SPOST issued by its consumer's facet (R268, R524). -/
def chanPost (s : State) (lf sem n : Nat) : State := sendSem s (semMsg s ⟨lf, 2⟩ 0xFFFF sem n .post)

/-- A message from a facet to a semaphore finds room in the crossing queue, if it has to cross (R277). -/
def semRoom (s : State) (w : Who) (sem : Nat) : Bool := crossRoom s (quadOf w.lf) (sem / 1024)

/-- The oldest post of a context may leave: its fence holds, and it finds room (R259, R277). -/
def postLeaves (s : State) (w : Who) (p : PendingPost) : Bool := fenceHolds s w p.seq p.storeAt && semRoom s w p.sem

/-- The posts of a context leave the facet, oldest first, up to one that may not; `fuel` is their number. -/
def sendPosts (s : State) (w : Who) : Nat → State
  | 0 => s
  | fuel + 1 =>
    match (ctxOf s w).posts with
    | [] => s
    | p :: r =>
      if postLeaves s w p then sendPosts (modCtx (sendSem s (semMsg s w (taskId s w) p.sem p.n .post)) w (fun c => { c with posts := r })) w fuel else s

/-- Something that waits for a fence may go on. -/
def fenceDue (s : State) (w : Who) : Bool :=
  (decide ((ctxOf s w).wait = .fence) && fenceNow s w) || ((ctxOf s w).posts.head?).any (postLeaves s w)

/-- The conditions of a fence hold: a waiting FENCE completes, and the posts that waited for theirs leave (R259, R282). -/
def execFenceComplete (w : Who) (s : State) : Res :=
  whenever (fenceDue s w) s
    (let t := sendPosts s w (ctxOf s w).posts.length
     if (ctxOf s w).wait = .fence ∧ fenceNow s w then endWait t w else t)

/-! ### Semaphore instructions -/

/-- The semaphore that an instruction names: s[a] + IMM[15:0] (R304). -/
def semOperand (s : State) (w : Who) (a : Reg) (imm : Word) : Nat := ((rget s w a).toNat + imm.toNat % 2 ^ 16) % 2 ^ 32

/-- The count that an instruction names: s[b] + IMM[31:16] (R304). -/
def countOperand (s : State) (w : Who) (b : Reg) (imm : Word) : Nat := ((rget s w b).toNat + imm.toNat / 2 ^ 16) % 2 ^ 32

/-- A semaphore and a count that a task may name (R257, R304). -/
def semOk (s : State) (sem n low : Nat) : Bool :=
  decide (sem < 4096) && semDeclared s sem && !semOfChan s sem && decide (low ≤ n) && decide (n ≤ 65535)

/-- SWAIT: the wait is sent, and the context stalls until its grant returns (R258, R304). -/
def execSwait (w : Who) (d a b : Reg) (imm : Word) (s : State) : Res :=
  issueWhen s w [a, b] [d] (semOk s (semOperand s w a imm) (countOperand s w b imm) 1) (semRoom s w (semOperand s w a imm)) (fun s =>
    sendSem (waitFor s w (.sem d)) (semMsg s w (taskId s w) (semOperand s w a imm) (countOperand s w b imm) .wait))

/-- SWAIT TRY: takes the counts only if no waiter stands before it; its answer returns as a grant does (R258, R304). -/
def execSwaitTry (w : Who) (d a b : Reg) (imm : Word) (s : State) : Res :=
  issueWhen s w [a, b] [d] (semOk s (semOperand s w a imm) (countOperand s w b imm) 0) (semRoom s w (semOperand s w a imm)) (fun s =>
    sendSem (waitFor s w (.sem d)) (semMsg s w (taskId s w) (semOperand s w a imm) (countOperand s w b imm) .tryTake))

/-- An SPOST that issues now waits for its fence. -/
def postsWait (s : State) (w : Who) (nofence : Bool) : Bool := !nofence && !fenceNow s w

/-- SPOST: one cycle; the post leaves at once with NOFENCE or when its fence holds already, else when it comes to hold (R259, R304). -/
def execSpost (w : Who) (a b : Reg) (imm : Word) (nofence : Bool) (s : State) : Res :=
  issueWhen s w [a, b] [] (semOk s (semOperand s w a imm) (countOperand s w b imm) 1) (postsWait s w nofence || semRoom s w (semOperand s w a imm)) (fun s =>
    let sem := semOperand s w a imm
    let n := countOperand s w b imm
    if !postsWait s w nofence then sendSem (advance s w 1) (semMsg s w (taskId s w) sem n .post)
    else modCtx (advance s w 1) w (fun c => { c with posts := c.posts ++ [⟨sem, n, (facetOf s w.lf).seq, c.storeAt⟩] }))

/-! ### At the semaphore -/

/-- A post applied; one that would take the count above 65 535 leaves the count, and is a faulting instruction of its task (R259), or a dropped POST when it came over Chord (R378). -/
def applyPost (s : State) (m : SemMsg) : State :=
  if (semOf s m.sem).count + m.n ≤ 65535 then modSem s m.sem (fun x => { x with count := x.count + m.n })
  else if m.ctx = 3 then event s Fld.chdErr_POSTDROP Fld.chdCntPostdrop_COUNT
  else if (ctxOf s ⟨m.lf, m.ctx⟩).task = some m.task ∧ m.ctx < 2 then abortTask s ⟨m.lf, m.ctx⟩ 1
  else s

/-- A wait or TRY that reaches the semaphore takes its place in line (R258); one whose task a post of the same cycle has aborted is withdrawn (R261). -/
def applyWait (s : State) (m : SemMsg) : State :=
  if (ctxOf s ⟨m.lf, m.ctx⟩).task ≠ some m.task then s else
  match m.op with
  | .tryTake =>
    let x := semOf s m.sem
    if x.waiters = [] ∧ m.n ≤ x.count then grant (modSem s m.sem (fun y => { y with count := y.count - m.n })) m (x.count - m.n) (decide (1 ≤ m.n))
    else grant s m x.count false
  | _ => serve (modSem s m.sem (fun x => { x with waiters := x.waiters ++ [m] })) m.sem

/-- The messages for a semaphore that the semaphore has had for its four cycles. -/
def semReady (s : State) (sem : Nat) : List SemMsg := s.semMsgs.filter (fun m => decide (m.sem = sem) && decide (m.arrive + 4 ≤ s.now))

/-- The first cycle of arrival among some messages. -/
def firstArrival (ms : List SemMsg) : Nat := (ms.map (·.arrive)).foldl min ((ms.map (·.arrive)).foldl max 0)

/-- The messages of one cycle of arrival applied: every post first, then the waiters already there, then the waits by logical facet and context (R258, R260). -/
def applyBatch (s : State) (sem : Nat) (ms : List SemMsg) : State :=
  let s := (ms.filter (fun m => m.op = .post)).foldl applyPost s
  let s := serve s sem
  (sortBy (fun m => 2 * m.lf + m.ctx) (ms.filter (fun m => m.op ≠ .post))).foldl applyWait s

/-- A semaphore applies the messages that reached it in one cycle (R260, R262). -/
def execSemMessageApply (sem : Nat) (s : State) : Res :=
  let ms := semReady s sem
  let t := firstArrival ms
  let batch := ms.filter (fun m => m.arrive = t)
  whenever (!ms.isEmpty) s
    (semDirty (applyBatch { s with semMsgs := s.semMsgs.filter (fun m => !(decide (m.sem = sem) && decide (m.arrive = t))) } sem batch) sem)

/-- The grant that has come back to a context for one of some operations. -/
def grantFor (s : State) (w : Who) (ops : List SemOp) : Option Grant :=
  s.grants.find? (fun g => decide (g.lf = w.lf) && decide (g.ctx = w.ctx) && ops.contains g.op && decide (g.arrive ≤ s.now))

/-- A grant taken out of those on their way. -/
def dropGrant (s : State) (g : Grant) : State := { s with grants := dropFirst (fun x => x = g) s.grants }

/-- What SWAIT writes: the count left, and bit 31 when a count was taken (R304). -/
def swaitResult (g : Grant) : Word := BitVec.ofNat 32 (g.left % 2 ^ 16 + (if g.took then 2 ^ 31 else 0))

/-- A grant reaches the waiting context, and its SWAIT completes (R262). -/
def execSwaitGrant (w : Who) (s : State) : Res :=
  match (ctxOf s w).wait, grantFor s w [.wait, .tryTake] with
  | .sem d, some g => .next (rput (endWait (dropGrant s g) w) w d (swaitResult g) 1)
  | _, _ => .next s

/-! ### Arrival counters -/

/-- A counter has reached a target: their difference, as a signed word, is zero or more (R177). -/
def reachedTarget (count target : Word) : Bool := !(count - target).msb

/-- The counter as a word. -/
def arrWord (s : State) (lf ctr : Nat) : Word := BitVec.ofNat 32 (arrOf s lf ctr)

/-- CWAIT for target s[a] + s[b] (R177, R305). -/
def execCwait (w : Who) (d a b : Reg) (ctr : Nat) (s : State) : Res :=
  issue s w [a, b] [d] (decide (ctr < 64)) (fun s =>
    let target := rget s w a + rget s w b
    if reachedTarget (arrWord s w.lf ctr) target then rput (advance s w 1) w d (arrWord s w.lf ctr) 1
    else waitFor s w (.counter d ctr target))

/-- CWAIT TRY: the counter's value, without a wait (R305). -/
def execCwaitTry (w : Who) (d a b : Reg) (ctr : Nat) (s : State) : Res :=
  issue s w [a, b] [d] (decide (ctr < 64)) (fun s => rput (advance s w 1) w d (arrWord s w.lf ctr) 1)

/-- CRESET (R176). -/
def execCreset (w : Who) (ctr : Nat) (s : State) : Res :=
  issue s w [] [] (decide (ctr < 64)) (fun s => arrReset (advance s w 1) w.lf ctr)

/-- A counter reaches the target of a waiting CWAIT, which completes with its value (R177). -/
def execCwaitSatisfied (w : Who) (s : State) : Res :=
  match (ctxOf s w).wait with
  | .counter d ctr target =>
    whenever (reachedTarget (arrWord s w.lf ctr) target) s (rput (endWait s w) w d (arrWord s w.lf ctr) 1)
  | _ => .next s

/-! ### The end of a task -/

/-- TEND starts to wait as R307 states. -/
def execTend (w : Who) (s : State) : Res := issue s w [] [] true (fun s => waitFor s w .tend)

/-- Every commit of a task has reached its channel. -/
def commitsArrived (s : State) (id : Nat) : Bool := (chanDecls s).all (fun e => decide (e.prodTask ≠ id) || (chanOf s e.key).commits.isEmpty)

/-- What TEND waits for holds: the fence, no post still on the facet, every commit at its channel (R307). -/
def tendDue (s : State) (w : Who) : Bool :=
  decide ((ctxOf s w).wait = .tend) && fenceNow s w && (ctxOf s w).posts.isEmpty && commitsArrived s (taskId s w)

/-- Jobs that a task opened and did not wait for run on and are then freed; a job already complete is freed now (R335). -/
def orphanJobs (s : State) (w : Who) (id : Nat) : State :=
  let mine (j : Job) : Bool := decide (j.lf = w.lf) && decide (j.ctx = w.ctx) && decide (j.task = id)
  let s := (s.jobs.filter (fun j => mine j.2 && j.2.complete)).foldl (fun s j => freeJob s j.1) s
  { s with jobs := s.jobs.map (fun j => if mine j.2 then (j.1, { j.2 with orphan := true }) else j) }

/-- A task ends after its Merge parts and its streams: its record says OK, R276 applies to its channels, its express request completes (R289, R307, R410). -/
def endTask (s : State) (w : Who) : State :=
  let id := taskId s w
  let x := ctxOf s w
  let old := s
  let s := (enginesOf w.lf).foldl (fun s e => sendEnds s w false e) s
  let s := orphanJobs s w id
  let s := settleFlights (modCtx s w (fun c => { Ctx.idle with gmax := c.gmax }))
  let s := facetFreed s w.lf
  let s := chansEnd old s id
  let s := modTask s id (fun t => { t with phase := .ended, status := 0, reason := 0, stop := tcyc s })
  match x.express with
  | none => s
  | some r => complete s r.cmd 0 0 (fget s Fld.fsqFrame_FRAME)

/-- A tile whose header has arrived and whose values nothing will ask for any more is over. -/
def dropTiles (s : State) (w : Who) (e : Nat) : State :=
  modEngine s e (fun g => { g with transfers := g.transfers.map (fun t => if t.of w && (decide (t.phase = .parked) || decide (t.phase = .wanted)) then { t with phase := .over } else t) })

/-- What TEND does once what it waits for holds: the task's Merge parts end, then the streams that it still holds open close (R307). -/
def tendCloses (s : State) (w : Who) : State :=
  let s := (ctxOf s w).mergeJobs.foldl (fun s j => endLeaf s j w.lf false) s
  (enginesOf w.lf).foldl (fun s e => dropTiles (closeStreams s w 0 e) w e) s

/-- No transfer of a context is in flight, and no stream of it has an end to reach. -/
def streamsDone (s : State) (w : Who) : Bool :=
  (enginesOf w.lf).all (fun e => (engineOf s e).transfers.all (fun t => !t.of w) && (engineOf s e).streams.all (fun x => !(x.2.of w && decide (x.2.state = 1))))

/-- What TEND waits for holds: its Merge parts end, its streams close, and it completes once their transfers in flight have been performed (R307). -/
def execTendComplete (w : Who) (s : State) : Res :=
  whenever (tendDue s w) s (let t := tendCloses s w; if streamsDone t w then endTask t w else t)

end Sys2Proof.Machine
end

