-- ==== Sys2Proof/Machine/Distributed.lean ====
section
/-! DEFINITION. Distributed tensors: the pieces of a block (R245, R380), their owners and multicast groups (R379, R382), and the packets that write or read them (R376, R377, R381, R384). -/

namespace Sys2Proof.Machine

/-- A piece of a block: its elements counted within the block, `lead` pad elements first, then a run of `len` bytes from tensor offset `x`, then pad elements. -/
structure Piece where
  first : Nat
  n : Nat
  lead : Nat
  x : Option Nat
  len : Nat
  shut : Bool
  deriving DecidableEq, Repr

/-- The pieces with one element more; the last piece stands first. A run continues while its bytes follow on within one owner block (R380). -/
def pieceStep (e shift : Nat) (acc : List Piece) (el : Option Nat × Nat) : List Piece :=
  match acc, el.1 with
  | [], none => [⟨el.2, 1, 1, none, 0, false⟩]
  | [], some x => [⟨el.2, 1, 0, some x, e, false⟩]
  | p :: r, none => { p with n := p.n + 1, lead := if p.x.isNone then p.lead + 1 else p.lead, shut := p.x.isSome } :: r
  | p :: r, some x =>
    match p.x with
    | none => { p with n := p.n + 1, x := some x, len := e } :: r
    | some x0 =>
      if !p.shut && decide (x = x0 + p.len) && decide (x / 2 ^ shift = x0 / 2 ^ shift) then { p with n := p.n + 1, len := p.len + e } :: r
      else ⟨el.2, 1, 0, some x, e, false⟩ :: p :: r

/-- The pieces of a block from the tensor offsets of its elements, none for a pad element. -/
def piecesOf (e shift : Nat) (addrs : List (Option Nat)) : List Piece := (addrs.zipIdx.foldl (pieceStep e shift) []).reverse

/-- Word `i` of owner entry `b`. -/
def ownerWord (img : List Byte) (b i : Nat) : Nat := fieldOf img (16 + 8 * b + 4 * i) 4

/-- The members of a multicast group (R382). -/
def mcastMembers (s : State) (g : Nat) : List Nat :=
  (List.range 64).filter (fun c => bitSet (fget s (if c < 32 then Fld.chdMcastLo_MASK g else Fld.chdMcastHi_MASK g)) (c % 32))

/-- The chips that an owner entry names in ascending order, none for a group of more than 16 (R380, R382). -/
def ownerTargets (s : State) (img : List Byte) (b : Nat) : Option (List Nat) :=
  let w := ownerWord img b 0
  if bitSet w 6 then
    let m := mcastMembers s (w % 64)
    if 16 < m.length then none else some m
  else some [w % 64]

/-- A tensor offset belongs to a multicast group of more than 16 chips, which makes its pieces fail (R382). -/
def groupTooLarge (s : State) (img : List Byte) (x : Nat) : Bool := (ownerTargets s img (x / 2 ^ ownerShift img)).isNone

/-- What a written piece does here: its State Store writes, its records for a Merge job, the semaphore it posts, how many packets it queued, and the jobs elsewhere that it feeds. -/
structure PieceOut where
  writes : List (Nat × Byte)
  merge : Option (Nat × List (List Byte))
  notify : Option Nat
  packets : Nat
  fed : List (Nat × Nat)
  deriving DecidableEq, Repr

/-- Packets of one kind with data, queued on a port one after another. -/
def queueAll (s : State) (p op chip addr : Nat) (mc : Option Nat) (o : Origin) (step : Nat) (ds : List (List Byte)) : State :=
  (ds.zipIdx.foldl (fun s x =>
    queueOn s p (packetHead op chip (chipId s) 7 x.1.length 0 ((addr + step * x.2) % 2 ^ 32) 0 ++ x.1) (vcOf op) false (mc.map (fun k => 4096 * k + x.2 % 4095)) o) s)

/-- A POST of 1 to a semaphore of another chip (R381). -/
def queuePost (s : State) (p chip sem : Nat) (mc : Option Nat) (o : Origin) : State :=
  queueOn s p (packetHead 4 chip (chipId s) 7 0 0 (sem + 2 ^ 16) 0) 1 false (mc.map (fun k => 4096 * k + 4095)) o

/-- A refused access (R376). -/
def remoteReject (s : State) : State := event s Fld.chdErr_REMOTERANGE Fld.chdCntReject_COUNT

/-- Whole parts of `n` bytes; the trailing part that is shorter is left out. -/
def wholeParts (n : Nat) (bs : List Byte) : List (List Byte) := if n = 0 then [] else (chunkList n bs (bs.length / n))

/-- The records of a written piece for one target (R384). -/
def mergeTo (s : State) (o : Origin) (w1 : Nat) (mc : Option Nat) (recs : List (List Byte)) (r : PieceOut) (chip : Nat) : Option (State × PieceOut) :=
  if chip = chipId s then some (s, { r with merge := some (w1 % 16, recs) })
  else (routePort s chip).map (fun p =>
    (queueAll s p 5 chip (w1 % 16) mc o 0 recs, { r with packets := r.packets + recs.length, fed := r.fed ++ [(chip, w1 % 16)] }))

/-- The data of a written piece for one target: a State Store write here, or WRITE packets of at most 512 bytes and the POST that follows them (R380, R381). -/
def dataTo (s : State) (o : Origin) (w0 addr : Nat) (mc : Option Nat) (data : List Byte) (r : PieceOut) (chip : Nat) : Option (State × PieceOut) :=
  let sem := w0 / 2 ^ 16 % 4096
  let notify := bitSet w0 31
  if chip = chipId s then
    (if inData s addr data.length then some (s, { r with writes := r.writes ++ laidAt addr data, notify := if notify then some sem else none })
     else some (remoteReject s, { r with notify := if notify then some sem else none }))
  else (routePort s chip).map (fun p =>
    let parts := chunkList 512 (data.take (data.length / 16 * 16)) data.length
    let s := if data.length % 16 = 0 then s else chordDrop s
    let s := queueAll s p 1 chip addr mc o 512 parts
    let s := if notify then queuePost s p chip sem mc o else s
    (s, { r with packets := r.packets + parts.length + (if notify then 1 else 0) }))

/-- A piece written: its bytes go to every target in ascending order; none where a target has no route or the group is too large (R373, R380, R382). -/
def writePiece (s : State) (o : Origin) (img : List Byte) (x : Nat) (data : List Byte) : Option (State × PieceOut) :=
  let b := x / 2 ^ ownerShift img
  let w0 := ownerWord img b 0
  let w1 := ownerWord img b 1
  let mc := if bitSet w0 6 then some ((64 * o.transfer + o.engine) * 2 ^ 24 + x % 2 ^ 24) else none
  match ownerTargets s img b with
  | none => none
  | some chips =>
    if bitSet w0 7 then
      let n := w1 / 2 ^ 16
      let recs := wholeParts n data
      let s := if recs.flatten.length = data.length then s else chordDrop s
      chips.foldlM (fun (a : State × PieceOut) c => mergeTo a.1 o w1 mc recs a.2 c) (s, ⟨[], none, none, 0, []⟩)
    else
      let addr := w1 + x % 2 ^ ownerShift img
      chips.foldlM (fun (a : State × PieceOut) c => dataTo a.1 o w0 addr mc data a.2 c) (s, ⟨[], none, none, 0, []⟩)

/-- The chip that a piece is read from: this chip when it is among the owners, else the lowest (R380, R381). -/
def readTarget (s : State) (img : List Byte) (x : Nat) : Option Nat :=
  match ownerTargets s img (x / 2 ^ ownerShift img) with
  | none => none
  | some chips => if chips.contains (chipId s) then some (chipId s) else chips.head?

/-- The State Store address of a piece at its owner. -/
def ownerAddr (img : List Byte) (x : Nat) : Nat := ownerWord img (x / 2 ^ ownerShift img) 1 + x % 2 ^ ownerShift img

/-- The first `n` numbers that name no READ yet. -/
def newReads (s : State) (n : Nat) : List Nat := ((List.range (s.reads.length + n)).filter (fun i => (mapFind s.reads i).isNone)).take n

/-- The READ that was sent with a tag and has no answer yet. -/
def readOf (s : State) (tag : Nat) : Option (Nat × RemoteRead) := s.reads.find? (fun r => r.2.sent && decide (r.2.tag = tag))

/-- The lowest tag that no READ without an answer has. -/
def freeTag (s : State) : Option Nat := (List.range 4096).find? (fun t => (readOf s t).isNone)

/-- 16-byte units of the answer to a READ of `len` bytes, its header included. -/
def answerUnits (len : Nat) : Nat := 1 + ceilDiv len 16

/-- A port has receive space for the answer to one more READ beside those that it waits for; the space for answers is what Table 13-5 gives virtual channel 2 (R368). -/
def answerSpace (s : State) (p len : Nat) : Bool :=
  decide ((((s.reads.filter (fun r => r.2.sent && decide (r.2.port = p))).map (fun r => answerUnits r.2.len)).sum + answerUnits len) ≤ 6144)

/-- READ packets for `len` bytes from address `addr` of a chip, whose answers fill a transfer's data from `index` on: the state and the numbers of the READs. A packet gets its tag as it is sent. A request is a multiple of 16 bytes; what it returns beyond `len` is not used. -/
def sendReads (s : State) (o : Origin) (p chip addr len index : Nat) : State × List Nat :=
  let parts := (List.range (ceilDiv len 512)).zip (newReads s (ceilDiv len 512))
  (parts.foldl (fun s x =>
    let n := min 512 (len - 512 * x.1)
    let s := queueOn s p (packetHead 2 chip (chipId s) 7 0 0 ((addr + 512 * x.1) % 2 ^ 32) (16 * ceilDiv n 16)) 0 false none { o with transfer := x.2 }
    { s with reads := mapPut s.reads x.2 ⟨0, p, s.now, false, o.lf, o.ctx, o.task, o.engine, o.transfer, index + 512 * x.1, n⟩ }) s,
   parts.map (·.2))

/-- A post to a semaphore of this chip that no task issued: performed as an SPOST, or dropped and counted where the semaphore may not be posted to (R378, R381). -/
def localPost (s : State) (lf sem n : Nat) : State :=
  if semDeclared s sem && !semOfChan s sem then sendSem s (semMsg s ⟨lf, 3⟩ 0xFFFF sem n .post)
  else event s Fld.chdErr_POSTDROP Fld.chdCntPostdrop_COUNT

end Sys2Proof.Machine
end

