-- ==== Sys2Proof/Machine/Prism.lean ====
section
/-! DEFINITION. The Prism: its operations on a block (R246 to R253, Table 08-9) and the loading of stored permutations (R249). -/

namespace Sys2Proof.Machine

/-- Byte `i` of a unit. -/
def ub (u : Array Byte) (i : Nat) : Byte := u.getD i 0#8

/-- PERMUTE on one chunk: output byte L is input byte P[L] (Table 08-9). -/
def permuteChunk (p : Array Nat) (u : Array Byte) : List Byte := (List.range 128).map (fun l => ub u (p.getD l 0))

/-- The transpose of 128 rows of 128 elements of `e` bytes (R251). -/
def transposeUnit (e : Nat) (u : Array Byte) : List Byte :=
  (List.range 128).flatMap (fun i => (List.range 128).flatMap (fun j => (List.range e).map (fun b => ub u (e * (128 * j + i) + b))))

/-- T8 on one block of 8 × 8 bytes (R251). -/
def transpose8 (u : Array Byte) : List Byte := (List.range 64).map (fun i => ub u (8 * (i % 8) + i / 8))

/-- The dense tile header that T1 with WRAP and WRAP prepend (R251). -/
def wrapHeader (elem : Nat) : List Byte := tileHeader elem 0 8 16384 32 2 4 8 0

/-- PLANES_IN on one unit of `w` planes (R252). -/
def planesIn (w : Nat) (signed : Bool) (u : Array Byte) : List Byte :=
  (List.range 128).map (fun i =>
    let v := (List.range w).foldl (fun x b => x + (ub u (16 * b + i / 8)).toNat / 2 ^ (i % 8) % 2 * 2 ^ b) 0
    if signed then BitVec.ofInt 8 (signedOf w v) else BitVec.ofNat 8 v)

/-- PLANES_OUT on one chunk (R252). -/
def planesOut (w : Nat) (u : Array Byte) : List Byte :=
  (List.range w).flatMap (fun b => (List.range 16).map (fun j =>
    BitVec.ofNat 8 ((List.range 8).foldl (fun x k => x + (ub u (8 * j + k)).toNat / 2 ^ b % 2 * 2 ^ k) 0)))

/-- TPACK: the stored tile of the transposed tile (R253). A tile whose header fails its check gives that header alone. -/
def tpack (t : TileBytes) : List Byte :=
  if !headerOk t then (List.range 32).map (fun i => ub t i)
  else
    let w := tileWidth t
    let elem := tb t 0 / 16
    let starts := columnStarts t
    let value (k c : Nat) : Nat := packedValue t (packedIndex t starts k c)
    let order := (List.range 128).flatMap (fun c => (List.range 128).map (fun k => (k, c)))
    let pad (xs : List Byte) : List Byte := xs ++ List.replicate (ceilDiv xs.length 32 * 32 - xs.length) 0#8
    if tileSparse t then
      let set (k c : Nat) : Bool := stored t c k
      let nz := order.filter (fun x => set x.1 x.2)
      let bitmap := (List.range 2048).map (fun i =>
        BitVec.ofNat 8 ((List.range 8).foldl (fun x j => x + (if set (i % 16 * 8 + j) (i / 16) then 2 ^ j else 0)) 0))
      let d4 := windowDepth set 4
      (pad (tileHeader elem 1 w nz.length 2080 (windowDepth set 2) d4 (windowDepth set 8) (if d4 ≤ 2 then 1 else 0) ++ bitmap
        ++ packValues w (nz.map (fun x => value x.2 x.1)))).take (denseSize w)
    else pad (tileHeader elem 0 w 16384 32 2 4 8 0 ++ packValues w (order.map (fun x => value x.2 x.1)))

/-- The unit of an operation in bytes (Table 08-9); 0 for TPACK, whose unit is one stored tile. -/
def prismUnit (op arg : Nat) : Nat :=
  match op with
  | 1 => 128
  | 2 => 16384
  | 3 => 32768
  | 4 => 64
  | 5 => 16384
  | 6 => 16 * (arg % 8 + 1)
  | 7 => 128
  | _ => 0

/-- One whole unit through an operation; `perm` is the stored permutation that PERMUTE names, none while it is not valid (R249). -/
def prismOne (op arg : Nat) (perm : Option (List Nat)) (u : List Byte) : List Byte :=
  let a := u.toArray
  match op with
  | 1 => match perm with
    | none => u
    | some p => permuteChunk p.toArray a
  | 2 => if bitSet arg 7 then wrapHeader (arg % 16) ++ transposeUnit 1 a else transposeUnit 1 a
  | 3 => transposeUnit 2 a
  | 4 => transpose8 a
  | 5 => wrapHeader (arg % 16) ++ u
  | 6 => planesIn (arg % 8 + 1) (bitSet arg 3) a
  | 7 => planesOut (arg % 8 + 1) a
  | _ => tpack a

/-- The length of the next unit of a block. -/
def nextUnit (op arg : Nat) (bs : List Byte) : Nat :=
  if prismUnit op arg ≠ 0 then prismUnit op arg
  else
    let h := (bs.take 32).toArray
    if headerOk h then max 32 (storedLength h) else 32

/-- A block that TPACK takes and whose next tile has a header that fails its check; it is emitted as that header alone (R253). -/
def badTile (op : Nat) (bs : List Byte) : Bool := decide (op = 8) && decide (32 ≤ bs.length) && !headerOk (bs.take 32).toArray

/-- A block cut into its whole units and the trailing part that is shorter than one (R247); `fuel` bounds the units. -/
def cutUnits (op arg : Nat) : Nat → List Byte → List (List Byte) × List Byte
  | 0, bs => ([], bs)
  | fuel + 1, bs =>
    let n := nextUnit op arg bs
    if badTile op bs then ([bs.take 32], [])
    else if bs.length < n ∨ bs.isEmpty then ([], bs)
    else
      let r := cutUnits op arg fuel (bs.drop n)
      (bs.take n :: r.1, r.2)

/-- The stored permutation `index` of Prism `q`, none while its VALID bit is clear. -/
def storedPerm (s : State) (q index : Nat) : Option (List Nat) := mapFind s.perms (64 * q + index)

/-- A block through Prism `q`: what it emits, with the Prism's counters (R246 to R249). -/
def prismRun (s : State) (q op arg : Nat) (bs : List Byte) : State × List Byte :=
  let cut := cutUnits op arg bs.length bs
  let perm := storedPerm s q (arg % 64)
  let s := bump s (Fld.prsCntBytes_COUNT q) (ceilDiv bs.length 64)
  let s := if cut.2.isEmpty then s else bump s Fld.prsCntPartial_COUNT 1
  let s := if op = 1 ∧ perm.isNone then bump s Fld.prsCntBadperm_COUNT cut.1.length else s
  (s, cut.1.flatMap (prismOne op arg perm) ++ cut.2)

/-! ### Stored permutations -/

/-- The lanes that the permutation buffer holds, each reduced modulo 128 (R249). -/
def bufferLanes (s : State) : List Nat := (List.range 128).map (fun i => fget s (Fld.prsPbuf_LANES (i / 4)) / 256 ^ (i % 4) % 128)

/-- The VALID bit of a stored permutation. -/
def setPermValid (s : State) (q i : Nat) (v : Bool) : State :=
  let f := if i < 32 then Fld.prsPvalidLo_VALID q else Fld.prsPvalidHi_VALID q
  fset s f (if v then setBit (fget s f) (i % 32) else clearBit (fget s f) (i % 32))

/-- A write of GO to PRS_PCMD: QUAD and INDEX take the written values; the load begins, or ends at once with RESULT 1 when a lane is named twice; a GO while PBUSY reads 1 is ignored (R249). -/
def execPermutationLoad (quad index : Nat) (s : State) : Res :=
  let q := quad % 4
  let i := index % 64
  let t := fset (fset s Fld.prsPcmd_QUAD q) Fld.prsPcmd_INDEX i
  let lanes := bufferLanes s
  whenever (hostUp s) s
    (if s.permLoad.isSome then t
     else if lanes.eraseDups.length = 128 then { t with permLoad := some ⟨q, i, lanes, s.now⟩ }
     else { setPermValid (fset t Fld.prsPcmd_RESULT 1) q i false with perms := mapDel t.perms (64 * q + i) })

/-- The Prism has computed a permutation's stage settings (R249). -/
def execPermutationStored (s : State) : Res :=
  match s.permLoad with
  | none => .next s
  | some p => .next { setPermValid (fset s Fld.prsPcmd_RESULT 0) p.quad p.index true with
      permLoad := none, perms := mapPut s.perms (64 * p.quad + p.index) p.lanes }

end Sys2Proof.Machine
end

