-- ==== Sys2Proof/Machine/Stream.lean ====
section
/-! DEFINITION. Stream engines: the fetch of block-list entries (R234), the check of an entry (R235, R246, Table 08-7), the start and the completion of transfers (R236 to R238, R245), neuron lists (R239) and the commands of the STR queue (R320 to R324). -/

namespace Sys2Proof.Machine

/-! ### Fetching (R234, R239) -/

/-- The group of an entry is active in the stream's neuron list (R151, R239). -/
def groupActive (groups : Option (Nat × List Nat)) (g : Nat) : Bool :=
  match groups with
  | none => true
  | some (n, gs) => if n = 0 then true else gs.contains (g % ceilDiv n 128)

/-- What a fetch has gathered: entries, skipped ones, the address of the next entry, and whether it goes on. -/
structure Fetched where
  entries : List BEntry
  skipped : Nat
  next : Nat
  ended : Bool
  on : Bool
  deriving DecidableEq, Repr

/-- One entry of a burst taken: entries outside every allocation and bad LINK entries stop the fetch, END ends the stream, LINK moves it, skipped entries leave nothing (R234, R235, R239). -/
def fetchEntry (s : State) (x : Stream) (acc : Fetched) (a : Nat) : Fetched :=
  if !acc.on then acc
  else
    let raw := memReadN s.sts a 64
    let b : BEntry := ⟨a, raw, tdOf s x.lf (fieldOf raw 4 1), tdOf s x.lf (fieldOf raw 5 1), fieldOf raw 7 1 + 1, 0, false, inAnyAlloc s a 64⟩
    let keep : Fetched := { acc with entries := acc.entries ++ [b], next := a + 64 }
    if !b.inAlloc then { keep with ended := true, on := false }
    else if b.hasGroup && x.list.isSome then { acc with next := a, on := false }
    else if b.hasGroup && !groupActive x.groups b.group then { acc with skipped := acc.skipped + 1, next := a + 64 }
    else
      match b.op with
      | 0 => { acc with ended := true, on := false }
      | 5 => if b.link % 64 ≠ 0 then { keep with ended := true, on := false } else { acc with next := b.link, on := false }
      | _ => keep

/-- The entries from `next` to the end of its 512-byte burst. -/
def fetchBurst (s : State) (x : Stream) : Fetched :=
  ((List.range ((512 - x.next % 512) / 64)).map (fun i => x.next + 64 * i)).foldl (fetchEntry s x) ⟨[], 0, x.next, false, true⟩

/-- A stream that has reached its END entry closes once every block has been performed; it then ends its part in the jobs it fed (R233, R385, Table 08-6). -/
def streamSettle (s : State) (e h : Nat) : State :=
  match streamOf s e h with
  | none => s
  | some x =>
    if x.state = 1 ∧ x.ended = true ∧ x.entries = [] ∧ (engineOf s e).transfers.all (fun t => t.handle ≠ h) = true then
      streamEnds (modStream s e h (fun x => { x with state := 2, endedAt := s.now, fed := [] })) e x false
    else s

/-- A stream fetches its next entries while four or fewer are left, a State Store read after it asked for them; one whose next entry waits for its neuron list fetches nothing (R234, R239). -/
def execBlockListFetch (e h : Nat) (s : State) : Res :=
  match streamOf s e h with
  | none => .next s
  | some x =>
    let f := fetchBurst s x
    whenever (decide (x.state = 1) && !x.ended && decide (x.entries.length ≤ 4) && decide (x.burstAt + stsLatency x.lf x.next ≤ s.now)) s
      (let s := modStream s e h (fun y =>
        { y with next := f.next, ended := f.ended, burstAt := s.now, entries := (y.entries ++ f.entries).dropWhile (fun b => decide (b.op = 6) && b.inAlloc) })
       let s := countRange s (some (quadOf x.lf)) false x.next (512 - x.next % 512)
       streamSettle (bump s (Fld.strCntSkip_COUNT (physOf s x.lf)) f.skipped) e h)

/-- A byte of facet memory that a list read takes; beyond the memory's end the spec gives none. -/
def listByte (s : State) (lf a : Nat) : Byte :=
  if a < 2 ^ 19 then (facetRead s lf a 1).headD 0#8 else Config.freeByte s.free a

/-- The groups that a neuron list marks active, with its N (R239). -/
def listGroups (s : State) (lf a : Nat) : Nat × List Nat :=
  let head := facetRead s lf a 4
  let n := fieldOf head 2 2
  let k := min (fieldOf head 0 2) n
  (n, if n = 0 then [] else distinct ((List.range k).map (fun i =>
    (listByte s lf (a + 48 + 2 * i)).toNat + 256 * (listByte s lf (a + 49 + 2 * i)).toNat) |>.map (fun x => x % n / 128)))

/-- The bytes of facet memory that a list takes: its head, and two for each index. -/
def listAddrs (s : State) (lf a : Nat) : List Nat :=
  let head := facetRead s lf a 4
  (span a (48 + 2 * min (fieldOf head 0 2) (fieldOf head 2 2))).filter (fun x => decide (x < 2 ^ 19))

/-- A stream's list counter has reached its target: the engine reads the list, once its banks are awake, and works out the active groups (R180, R181, R239). -/
def execNeuronListReady (e h : Nat) (s : State) : Res :=
  match streamOf s e h with
  | none => .next s
  | some x =>
    match x.list with
    | none => .next s
    | some l =>
      whenever (decide (x.state = 1) && reachedTarget (arrWord s x.lf l.ctr) l.target && awake s x.lf (listAddrs s x.lf l.addr)) s
        (drawn (modStream (fmemTouch s (physOf s x.lf) (listAddrs s x.lf l.addr)) e h (fun y => { y with list := none, groups := some (listGroups s x.lf l.addr) })))

/-! ### The check of an entry -/

/-- A walk descriptor is one side of the entry. -/
def BEntry.walks (b : BEntry) : Bool := decide (b.srcTd.kind = 1) || decide (b.dstTd.kind = 1)

/-- A descriptor names facet memory of a logical facet of a quadrant. -/
def inQuad (q own : Nat) (d : Td) : Bool := decide (d.kind = 0) && decide (d.space = 0 ∨ d.space = 2) && decide (quadOf (d.memFacet own) = q)

/-- Source and destination are allowed by Table 08-7. -/
def pathOk (e own : Nat) (src dst : Td) : Bool :=
  let into (ks : List Nat) : Bool := decide (dst.kind = 0) && ks.contains dst.space
  if e < 48 then
    if src.kind = 2 ∨ src.kind = 1 ∨ src.space = 1 then into [0, 3, 4]
    else if src.space = 0 then into [0, 1, 2, 3] || decide (dst.kind = 2 ∨ dst.kind = 1)
    else decide (src.space = 2) && into [0]
  else
    let q := e - 48
    if src.kind = 0 ∧ src.space = 1 then into [1] || inQuad q own dst
    else inQuad q own src && into [1]

/-- An entry that aborts its task with ILLEGAL_INSN (R235, R246, Table 08-9). -/
def entryBad (e own : Nat) (compress : Bool) (b : BEntry) : Bool :=
  let writesWalk := b.op = 3 ∧ b.dstTd.kind = 1
  !b.inAlloc || decide (b.op = 0) || decide (4 < b.op) || b.src.isNone || b.dst.isNone || !b.dstTd.isWrite || !pathOk e own b.srcTd b.dstTd
    || (decide (b.op = 1) && decide (b.srcTd.esize ≠ b.dstTd.esize))
    || (decide (b.op = 4) && (!compress || decide (b.srcTd.esize ≠ 1)))
    || (decide (b.op = 2 ∨ b.op = 4) && decide (b.xform ≠ 0)) || (!decide writesWalk && decide (8 < b.xform))

/-! ### Reading a source -/

/-- `n` bytes at a byte address of a descriptor's space. -/
def spaceRead (s : State) (own : Nat) (d : Td) (a n : Nat) : List Byte :=
  if d.space = 1 then memReadN s.sts a n else facetRead s (d.memFacet own) a n

/-- The effect of a read: on a facet's gated banks (R180), or the lines of the State Store that it takes (R191). -/
def spaceTouch (s : State) (own : Nat) (d : Td) (as : List Nat) : State :=
  if d.space = 1 then countLines s (some (quadOf own)) false as else fmemTouch s (physOf s (d.memFacet own)) as

/-- View elements `first` to `first + n - 1` of a descriptor in memory: pad elements deliver PADVAL (R225). -/
def viewRead (s : State) (own : Nat) (d : Td) (first n : Nat) : List Byte :=
  (List.range n).flatMap (fun i => match d.addr (first + i) with
    | none => d.padBytes
    | some a => spaceRead s own d a d.esize)

/-- Bytes laid on the elements of a view from `first`: those of pad elements are discarded, a trailing part element too (R225, R227). -/
def viewWrites (d : Td) (first : Nat) (bs : List Byte) : List (Nat × Byte) :=
  ((chunkList d.esize bs (bs.length / d.esize)).zipIdx).flatMap (fun x => match d.addr (first + x.2) with
    | none => []
    | some a => laidAt a x.1)

/-- Bytes laid from a byte address, those outside the descriptor's range left out (R93, R94). -/
def rawWrites (d : Td) (a : Nat) (bs : List Byte) : List (Nat × Byte) :=
  (laidAt a bs).filter (fun x => decide (d.rangeBase ≤ x.1) && decide (x.1 < d.rangeBase + d.rangeLen))

/-- The bytes from a byte address to the end of a descriptor's range, at most `n` and at most 65 536. -/
def rawLimit (d : Td) (a n : Nat) : Nat := min (min n 65536) (d.rangeBase + d.rangeLen - a)

/-- The length that a TILE entry moves of the `lim` bytes that it allows, from the header that they begin with (R93). A header that gives a stored length below its own 32 bytes leaves open what is moved: the model moves the header. DESIGN CHOICE (log entry 31). -/
def tileLength (head : List Byte) (lim : Nat) : Nat :=
  let t := head.toArray
  if lim < 32 then lim else if headerOk t then max 32 (min (storedLength t) lim) else 32

/-- Where the source bytes of a TILE entry begin, and how many the entry lets it move (R93). -/
def tileFrom (b : BEntry) : Nat × Nat :=
  let d := b.srcTd
  match (if b.srcFirst < d.count then d.addr b.srcFirst else none) with
  | none => (0, 0)
  | some a => (a, rawLimit d a b.count)

/-! ### Building a transfer -/

/-- A transfer of a stream before its bytes are known. -/
def newTransfer (s : State) (e h : Nat) (x : Stream) (b : BEntry) : Transfer :=
  { id := (engineOf s e).nextId, handle := h, lf := x.lf, ctx := x.ctx, task := x.task, ent := b, off := 0, data := [], writes := [], dest := .sts, phase := .whole, lim := 0, pieces := 1
    arr := none, formats := [], tags := [], late := false, packets := 0, quad := none, units := 0, sparse := none, walkDrop := 0, notify := none
    merge := none, recs := [], doneAt := s.now }

/-- Where a destination in memory or a buffer puts its bytes. -/
def destOf (own : Nat) (b : BEntry) : Dest :=
  let d := b.dstTd
  if d.kind = 1 then .pages
  else if d.kind = 2 then .remote
  else
    match d.space with
    | 1 => .sts
    | 3 => .wab
    | 4 => if b.op = 2 then .tile else .stage
    | _ => .fmem (d.memFacet own)

/-- The Prism that a block passes: that of its destination facet's quadrant, for the State Store and other chips that of its source (R246). -/
def prismQuad (e own : Nat) (b : BEntry) : Nat :=
  let d := b.dstTd
  if d.kind = 0 ∧ (d.space = 0 ∨ d.space = 2) then quadOf (d.memFacet own)
  else if d.kind = 0 ∧ d.space ≠ 1 then quadOf own
  else if b.srcTd.kind = 0 ∧ (b.srcTd.space = 0 ∨ b.srcTd.space = 2) then quadOf (b.srcTd.memFacet own)
  else engineQuad e

/-- A block's bytes through the Prism where its entry asks for it (R246). -/
def throughPrism (s : State) (e own : Nat) (b : BEntry) (bs : List Byte) : State × List Byte :=
  if b.xform = 0 ∨ b.dstTd.kind = 1 then (s, bs) else prismRun s (prismQuad e own b) b.xform b.xarg bs

/-- The first clipped delivery of an entry counts it (R236). -/
def countClip (s : State) (e h : Nat) (x : Stream) (clip : Bool) : State :=
  if clip then
    modStream (bump s (Fld.strCntClip_COUNT (physOf s x.lf)) 1) e h (fun y => match y.entries with
      | [] => y
      | b :: r => { y with entries := { b with clipped := true } :: r })
  else s

/-- The elements of a COPY block and whether it is cut: by either view, and at 65 536 bytes (R236). What the Prism adds to a block is cut at its destination by `blockWrites`. -/
def copyCount (b : BEntry) : Nat × Bool :=
  let src := b.srcTd
  let dst := b.dstTd
  let n := min (min b.count (min (src.count - b.srcFirst) (dst.count - b.dstFirst))) (65536 / src.esize)
  (n, decide (n < b.count))

/-- A delivered block's writes in a memory or buffer destination, and whether the destination's view cut it. -/
def blockWrites (b : BEntry) (off : Nat) (bs : List Byte) : List (Nat × Byte) × Bool :=
  let d := b.dstTd
  let first := b.dstFirst + off
  let room := (d.count - first) * d.esize
  (viewWrites d first (bs.take room), decide (room < bs.length))

/-- The cycles that a Prism operation adds to `n` bytes (R253, R254). -/
def prismTime (op n : Nat) : Nat :=
  match op with
  | 0 => 0
  | 2 => 32
  | 3 => 64
  | 5 => 1
  | 8 => 2 * ceilDiv n 512 + 160
  | _ => 16

/-- The cycles that a transfer takes at least: the latency of a State Store read (R50), its bytes at the rate of a facet port (Table 06-4), what the Prism adds, and for a CTILE 160 cycles and the time of the dense form (R98). -/
def transferTime (t : Transfer) : Nat :=
  let b := t.ent
  let src := b.srcTd
  let bytes := max t.data.length t.writes.length
  let elem := if src.elem = 1 ∨ src.elem = 2 then src.elem else 0
  let n := if b.op = 4 then ceilDiv (denseSize (ctileWidth elem src.width)) 512 else ceilDiv bytes 512
  (if src.kind = 0 ∧ src.space = 1 then stsLatency t.lf (src.base + b.srcFirst * src.esize) + (n - 1) else n)
    + (if b.op = 4 then 160 else 0) + (if b.dstTd.kind = 1 then 0 else prismTime b.xform bytes)

/-- The bytes of a block that cross between quadrants, as (from, to, bytes): from the memory that it is read from to the engine's facet, and from there to the memory that it is written to (R277). Blocks of walks and of distributed tensors cross as the accesses of the units that serve them, and are left out. -/
def crossings (own : Nat) (b : BEntry) : List (Nat × Nat × Nat) :=
  let home := quadOf own
  let quads (d : Td) (first : Nat) : List Nat :=
    if d.kind ≠ 0 then []
    else if d.space = 1 then (blockAddrs d first b.count).map (fun a => a / 2 ^ 24 / 48)
    else if d.space = 2 then List.replicate (min b.count (d.count - first) * d.esize) (quadOf d.facet) else []
  let from_ := quads b.srcTd b.srcFirst
  let to_ := quads b.dstTd b.dstFirst
  ((List.range 4).filter (· ≠ home)).flatMap (fun q => [(q, home, from_.countP (fun x => x = q)), (home, q, to_.countP (fun x => x = q))]) |>.filter (fun x => x.2.2 ≠ 0)

/-- The cycle by which the data accepted in a crossing queue has crossed. -/
def linkFree (s : State) (q r : Nat) : Nat := max s.now (mapGet s.links (4 * q + r) 0)

/-- A crossing queue holds its 8 KiB: eight cycles of its link's 1 024 bytes (R277, Table 06-4). -/
def linkFull (s : State) (q r : Nat) : Bool := decide (s.now + 8 ≤ linkFree s q r)

/-- A block's bytes enter the crossing queues that it needs (R185, R277). -/
def crossLinks (s : State) (cs : List (Nat × Nat × Nat)) : State :=
  cs.foldl (fun s x => { s with links := mapPut s.links (4 * x.1 + x.2.1) (linkFree s x.1 x.2.1 + ceilDiv x.2.2 1024) }) s

/-- The entries of a stream after those it has issued: NOP entries at the front are passed over, and once four or fewer are left the next burst is asked for (R234). -/
def Stream.left (y : Stream) (es : List BEntry) (now : Nat) : Stream :=
  let es := es.dropWhile (fun b => decide (b.op = 6) && b.inAlloc)
  { y with entries := es, burstAt := if 4 < y.entries.length ∧ es.length ≤ 4 then now else y.burstAt }

/-- A transfer queued on its engine, its delivery taken off the entry; `more` are cycles beside those of the transfer itself. -/
def launchAfter (s : State) (e h : Nat) (t : Transfer) (whole : Bool) (more : Nat) : State :=
  let cs := if t.ent.piece = 0 then crossings t.lf t.ent else []
  let s := crossLinks s cs
  let crossed := (cs.map (fun x => linkFree s x.1 x.2.1)).foldl max 0
  let t := { t with doneAt := max crossed (s.now + more + (if t.late then 0 else transferTime t)) }
  let s := modEngine s e (fun g => { g with transfers := g.transfers ++ [t], nextId := g.nextId + 1 })
  modStream s e h (fun y => match y.entries with
    | [] => y
    | b :: r =>
      if !whole then { y with entries := { b with piece := b.piece + 1 } :: r }
      else if b.left ≤ 1 then y.left r s.now
      else { y with entries := { b with left := b.left - 1, piece := 0 } :: r })

/-- A transfer queued on its engine. -/
def launch (s : State) (e h : Nat) (t : Transfer) (whole : Bool) : State := launchAfter s e h t whole 0

/-- A COPY between memories and buffers starts: the source is read, the Prism passed, the writes worked out. -/
def startCopy (s : State) (e h : Nat) (x : Stream) (b : BEntry) : State :=
  let (n, cut) := copyCount b
  let bs := viewRead s x.lf b.srcTd b.srcFirst n
  let s := spaceTouch s x.lf b.srcTd (viewAddrs b.srcTd b.srcFirst n)
  let (s, out) := throughPrism s e x.lf b bs
  let (ws, cut') := blockWrites b 0 out
  let s := countClip s e h x ((cut || cut') && !b.clipped)
  let t := newTransfer s e h x b
  launch s e h { t with data := out, writes := ws, dest := destOf x.lf b, arr := b.arr, units := ceilDiv out.length 64
                        quad := if b.xform = 0 then none else some (prismQuad e x.lf b) } true

/-- A TILE between memories starts (R93, Table 08-6). -/
def startTile (s : State) (e h : Nat) (x : Stream) (b : BEntry) : State :=
  let src := b.srcTd
  let (a, lim) := tileFrom b
  let head := spaceRead s x.lf src a (min 32 lim)
  let n := tileLength head lim
  let bs := spaceRead s x.lf src a n
  let s := spaceTouch s x.lf src (span a n)
  let ws := match b.dstTd.addr b.dstFirst with
    | none => []
    | some d => if b.dstFirst < b.dstTd.count then rawWrites b.dstTd d bs else []
  let s := countClip s e h x ((decide (n < tileLength head b.count) || decide (ws.length < bs.length)) && !b.clipped)
  let t := newTransfer s e h x b
  launch s e h { t with data := bs, writes := ws, dest := destOf x.lf b, arr := b.arr, units := ceilDiv bs.length 64 } true

/-- A TILE into staging starts with its header; its values follow when its group is wanted (R93, R115). -/
def startTileHead (s : State) (e h : Nat) (x : Stream) (b : BEntry) : State :=
  let (a, lim) := tileFrom b
  let head := spaceRead s x.lf b.srcTd a (min 32 lim)
  let s := spaceTouch s x.lf b.srcTd (span a head.length)
  let s := countClip s e h x (decide (tileLength head lim < tileLength head b.count) && !b.clipped)
  let t := newTransfer s e h x b
  launch s e h { t with data := head, dest := .tile, phase := .header, lim := lim, units := 1 } true

/-- The element type of the header that a CTILE writes (R94). -/
def ctileElem (d : Td) : Nat := if d.elem = 1 ∨ d.elem = 2 then d.elem else 0

/-- The dense size of a CTILE's slot (R94, R98). -/
def ctileSlot (d : Td) : Nat := denseSize (ctileWidth (ctileElem d) d.width)

/-- The elements that a CTILE's source has (R94). -/
def ctileCount (b : BEntry) : Nat := min 16384 (b.srcTd.count - b.srcFirst)

/-- The stored tile of a CTILE from its source elements, those missing read as zero (R94, R95). -/
def ctileOf (d : Td) (elems : List Byte) : List Byte :=
  let bytes := elems.toArray
  let el (k c : Nat) : Nat := (bytes.getD (if d.rowMajor then 128 * k + c else 128 * c + k) 0#8).toNat
  compressTile (ctileElem d) (ctileWidth (ctileElem d) d.width) el

/-- Whether a CTILE is cut: its source is short, or its slot leaves the destination's range (R94). -/
def ctileCut (b : BEntry) : Bool :=
  let d := b.dstTd
  let a := d.base + b.dstFirst
  decide (ctileCount b < 16384) || decide (a < d.rangeBase ∨ d.rangeBase + d.rangeLen < a + ctileSlot b.srcTd)

/-- The stored form of a tile is sparse. -/
def isSparse (bs : List Byte) : Bool := decide (fieldOf bs 0 1 % 16 = 1)

/-- A CTILE to memory starts (R94 to R98). -/
def startCtile (s : State) (e h : Nat) (x : Stream) (b : BEntry) : State :=
  let d := b.dstTd
  let bs := ctileOf b.srcTd (viewRead s x.lf b.srcTd b.srcFirst (ctileCount b))
  let s := spaceTouch s x.lf b.srcTd (viewAddrs b.srcTd b.srcFirst (ctileCount b))
  let s := countClip s e h x (ctileCut b && !b.clipped)
  let t := newTransfer s e h x b
  launch s e h { t with data := bs, writes := rawWrites d (d.base + b.dstFirst) bs, dest := destOf x.lf b, arr := b.arr, units := ceilDiv bs.length 64
                        sparse := some (isSparse bs) } true

/-! ### Context walks -/

/-- The elements of a WALK block: by the walk's COUNT, by the other side's bytes, at 65 536 bytes. -/
def walkCount (walk other : Td) (walkFirst otherFirst n bytes : Nat) : Nat :=
  min (min n (walk.count - walkFirst)) (min ((other.count - otherFirst) * other.esize / bytes) (65536 / bytes))

/-- Each page of a walk translated (R205, R209). -/
def translateAll (s : State) (ps : List Nat) : State := ps.foldl translate s

/-- The bytes that some elements of a walk deliver. -/
def placesRead (s : State) (ps : List Place) : List Byte := ps.flatMap (placeRead s)

/-- The elements that a read walk delivers: those up to the first that does not exist (R230); of a TILE those that hold its bytes, or its header's alone (R93). -/
def walkPlaces (s : State) (b : BEntry) (dir : Directory) (headOnly : Bool) : List Place :=
  let d := b.srcTd
  let unit := unitSize d.unit
  let some_ (n : Nat) : List Place := ((walkElements s d dir b.srcFirst n).takeWhile (·.isSome)).filterMap id
  if b.op = 2 then
    let lim := min b.count 65536
    let ps := some_ (min (ceilDiv lim unit) (d.count - b.srcFirst))
    let hs := ps.take (ceilDiv 32 unit)
    if headOnly then hs
    else ps.take (ceilDiv (tileLength (placesRead s hs) (min lim (unit * ps.length))) unit)
  else some_ (walkCount d b.dstTd b.srcFirst b.dstFirst b.count unit)

/-- The elements that a walk entry asks for, for its count and its directory reads. -/
def walkAsked (b : BEntry) : Nat :=
  let d := b.srcTd
  if d.kind ≠ 1 then walkCount b.dstTd d b.dstFirst b.srcFirst b.count (walkBytes b.dstTd)
  else if b.op = 2 then min (ceilDiv (min b.count 65536) (unitSize d.unit)) (d.count - b.srcFirst)
  else walkCount d b.dstTd b.srcFirst b.dstFirst b.count (unitSize d.unit)

/-- The effect of a walk's page accesses: every page translated, the far blocks or State Store lines of its directory and its elements read (R191, R192, R203, R209). -/
def touchWalk (s : State) (lf : Nat) (d : Td) (dir : Option Directory) (first n : Nat) (ps : List Place) (reads : Bool) : State :=
  match dir with
  | none => s
  | some y =>
    let s := readBlocks (translateAll s (walkPages y ps)) (directoryBlocks d y first n ++ (if reads then ps.flatMap Place.blocks else []))
    countLines s (some (quadOf lf)) false (nearBytes s (directoryReads d y first n ++ (if reads then ps.flatMap Place.reads else [])))

/-- A read walk starts (R229, R230). A TILE into staging starts with its header. -/
def startWalkRead (s : State) (e h : Nat) (x : Stream) (b : BEntry) (root : Option Nat) : State :=
  let d := b.srcTd
  let n := walkAsked b
  let dest := destOf x.lf b
  let dir := root.map (fun r => directoryOf s r d.stream)
  let places := match dir with
    | none => []
    | some y => walkPlaces s b y (decide (dest = .tile))
  let wait := match dir with
    | none => 0
    | some y => walkLatency s x.lf y places
  let bs := placesRead s places
  let lim := if b.op = 2 ∧ dest = .tile then min (min b.count 65536) (unitSize d.unit * n) else 0
  let bs := if b.op ≠ 2 then bs else if dest = .tile then bs.take (min 32 lim) else bs.take (tileLength bs (min bs.length b.count))
  let s := touchWalk s x.lf d dir b.srcFirst n places true
  let (s, out) := throughPrism s e x.lf b bs
  let (ws, cut') := if b.op = 2 then
      (match b.dstTd.addr b.dstFirst with
        | none => []
        | some a => rawWrites b.dstTd a out, false)
    else blockWrites b 0 out
  let s := countClip s e h x ((decide (n < b.count) || cut') && !b.clipped && decide (b.op ≠ 2))
  let t := newTransfer s e h x b
  launchAfter s e h { t with data := out, writes := if dest = .tile then [] else ws, dest := dest, arr := b.arr, units := ceilDiv out.length 64
                             phase := if dest = .tile then .header else .whole, lim := lim
                             quad := if b.xform = 0 then none else some (prismQuad e x.lf b), walkDrop := places.length } true wait

/-- A write walk starts (R229 to R231). A CTILE with a write walk as its destination, which Table 08-7 allows though a walk has no slot, writes the walk as a WALK entry does. DESIGN CHOICE (log entry 32). -/
def startWalkWrite (s : State) (e h : Nat) (x : Stream) (b : BEntry) (root : Option Nat) : State :=
  let d := b.dstTd
  let unit := walkBytes d
  let per := unit / b.srcTd.esize
  let n := walkAsked b
  let dir := root.map (fun r => directoryOf s r d.stream)
  let els := match dir with
    | none => List.replicate n none
    | some y => walkElements s d y b.dstFirst n
  let wait := match dir with
    | none => 0
    | some y => walkLatency s x.lf y (els.filterMap id)
  let parts := els.zipIdx.map (fun p => match p.1 with
    | none => none
    | some q => (placeWrite d q (viewRead s x.lf b.srcTd (b.srcFirst + per * p.2) per)).map (fun ws => (q.vpn, ws)))
  let done := parts.filterMap id
  let s := spaceTouch (touchWalk s x.lf d dir b.dstFirst n (els.filterMap id) false) x.lf b.srcTd (viewAddrs b.srcTd b.srcFirst (per * n))
  let s := countClip s e h x (decide (n < b.count) && !b.clipped)
  let t := newTransfer s e h x b
  launchAfter s e h { t with writes := done.flatMap (·.2), dest := .pages, units := ceilDiv (unit * done.length) 64
                             formats := if d.unit = 1 then done.map (fun p => (p.1, d.format)) else [], walkDrop := n - done.length } true wait

/-- The pages that a walk needs, for its residency check (R216) and the state of their channels; a TILE into staging asks for those of its header first. -/
def walkNeeds (s : State) (x : Stream) (b : BEntry) (root : Nat) : List Nat :=
  let reads := decide (b.srcTd.kind = 1)
  let d := if reads then b.srcTd else b.dstTd
  let dir := directoryOf s root d.stream
  walkPages dir (if reads then walkPlaces s b dir (decide (destOf x.lf b = .tile)) else (walkElements s d dir b.dstFirst (walkAsked b)).filterMap id)

/-- A walk that meets an ABSENT page: the pages up to that one are translated, in the order of root, list and data, and the far blocks of the directory pages before it are read (R203, R209, R216). -/
def absentWalk (s : State) (x : Stream) (b : BEntry) : State :=
  let reads := decide (b.srcTd.kind = 1)
  let d := if reads then b.srcTd else b.dstTd
  match walkRoot s x.who d with
  | none => s
  | some r =>
    let dir := directoryOf s r d.stream
    let ps := walkNeeds s x b r
    let before := ps.takeWhile (fun v => !pageAbsent s v)
    let blocks := directoryBlocks d dir (if reads then b.srcFirst else b.dstFirst) (walkAsked b)
    readBlocks (translateAll s (before ++ (ps.drop before.length).take 1)) (blocks.filter (fun k => before.contains k.1))

/-! ### Distributed blocks -/

/-- What stops a transfer from starting: a reason that aborts its task (Table 01-9), or 10 for an access that this chip refuses. -/
abbrev Started := Except Nat State


/-- The Prism, a TILE or a CTILE needs a distributed block whole: its pieces then start together, and the transfer stands for all of them; else each piece starts by itself (R245). -/
def wholeBlock (b : BEntry) : Bool := decide (b.xform ≠ 0) || decide (b.op ≠ 1)

/-- The tensor offsets of the elements of a block. -/
def blockOffsets (d : Td) (first n : Nat) : List (Option Nat) := (List.range n).map (fun i => d.addr (first + i))

/-- Raw tensor offsets from an element on, for TILE and CTILE. -/
def rawOffsets (a n : Nat) : List (Option Nat) := (span a n).map some

/-- One piece of a distributed source joins a transfer: read here, or asked of its owner; `at_` is where its bytes stand in the transfer's data. Error 8 for a group of too many chips (R382), 9 where its owner has no route (R373), 10 where this chip refuses the access (R376). -/
def readPiece (o : Origin) (e : Nat) (img : List Byte) (d : Td) (acc : State × Transfer) (p : Piece) (at_ : Nat) : Except Nat (State × Transfer) :=
  let (s, t) := acc
  let pads (k : Nat) : List Byte := (List.replicate k d.padBytes).flatten
  let tail := p.n - p.lead - p.len / e
  match p.x with
  | none => .ok (s, { t with data := t.data ++ pads p.n })
  | some x =>
    match readTarget s img x with
    | none => .error (if groupTooLarge s img x then 8 else 9)
    | some chip =>
      let a := ownerAddr img x
      if chip = chipId s then
        (if inData s a p.len then .ok (countRange s (some (quadOf o.lf)) false a p.len, { t with data := t.data ++ pads p.lead ++ memReadN s.sts a p.len ++ pads tail })
         else .error 10)
      else
        match routePort s chip with
        | none => .error 9
        | some port =>
          let (s, tags) := sendReads s o port chip a p.len (at_ + p.lead * e)
          .ok (s, { t with data := t.data ++ pads p.lead ++ List.replicate p.len 0#8 ++ pads tail, tags := t.tags ++ tags, late := true })

/-- Pieces of a distributed source read into one transfer. -/
def readPieces (o : Origin) (e : Nat) (img : List Byte) (d : Td) (acc : State × Transfer) (ps : List Piece) : Except Nat (State × Transfer) :=
  ps.foldlM (fun a p => readPiece o e img d a p a.2.data.length) acc

/-- The pieces of a TILE's bytes from `lo` to `hi` in a distributed tensor. -/
def tilePieces (img : List Byte) (b : BEntry) (lo hi : Nat) : List Piece := piecesOf 1 (ownerShift img) (rawOffsets ((tileFrom b).1 + lo) (hi - lo))

/-- The values of a distributed TILE asked for: of the bytes after its header, as many as the header gives (R93). -/
def askValues (s : State) (e : Nat) (t : Transfer) : Except Nat (State × Transfer) :=
  let b := t.ent
  let n := tileLength t.data t.lim
  match ownerImage s b.srcTd.facet with
  | none => .error 9
  | some img =>
    let head := t.data.take 32
    readPieces ⟨e, t.id, t.task, t.lf, t.ctx⟩ 1 img b.srcTd
      (s, { t with data := head, phase := .values, late := false, pieces := (tilePieces img b 0 n).length, units := ceilDiv n 64 }) (tilePieces img b head.length n)

/-- A transfer whose bytes have all come: the Prism is passed, a CTILE compressed, and the writes are worked out. -/
def settleBytes (s : State) (e : Nat) (t : Transfer) : State × Transfer :=
  let b := t.ent
  let d := b.dstTd
  match b.op with
  | 2 =>
    let ws := match d.addr b.dstFirst with
      | none => []
      | some a => rawWrites d a t.data
    (s, { t with writes := if t.dest = .tile then [] else ws, late := false, units := ceilDiv t.data.length 64 })
  | 4 =>
    let bs := ctileOf b.srcTd t.data
    (s, { t with data := bs, writes := rawWrites d (d.base + b.dstFirst) bs, late := false, units := ceilDiv bs.length 64, sparse := some (isSparse bs) })
  | _ =>
    let (s, out) := throughPrism s e t.lf b t.data
    (s, { t with data := out, writes := (blockWrites b t.off out).1, late := false, units := ceilDiv out.length 64 })

/-- The bytes that a transfer asked for have come: a TILE for memory goes on with its values; else the transfer has what it delivers. -/
def bytesReady (s : State) (e : Nat) (t : Transfer) : Except Nat (State × Transfer) :=
  if t.phase = .over then .ok (s, t)
  else if t.phase = .header then
    (if t.dest = .tile then .ok (s, { t with late := false })
     else (askValues s e t).map (fun r => if r.2.late then r else settleBytes r.1 e r.2))
  else .ok (settleBytes s e t)

/-- The pieces of a block of a distributed source; a TILE asks for its header first (R93). -/
def sourcePieces (img : List Byte) (b : BEntry) : List Piece :=
  match b.op with
  | 2 => tilePieces img b 0 (min 32 (tileFrom b).2)
  | 4 => piecesOf b.srcTd.esize (ownerShift img) (blockOffsets b.srcTd b.srcFirst (ctileCount b))
  | _ => piecesOf b.srcTd.esize (ownerShift img) (blockOffsets b.srcTd b.srcFirst (copyCount b).1)

/-- A transfer from a distributed tensor starts (R94, R245, R380). -/
def startDistRead (s : State) (e h : Nat) (x : Stream) (b : BEntry) : Started :=
  match ownerImage s b.srcTd.facet with
  | none => .error 9
  | some img =>
    let ps := sourcePieces img b
    let whole := wholeBlock b
    let mine := if whole then ps else (ps.drop b.piece).take 1
    let cut := match b.op with
      | 2 => false
      | 4 => ctileCut b
      | _ => (copyCount b).2
    let s := countClip s e h x (cut && !b.clipped)
    let t0 := newTransfer s e h x b
    let t1 : Transfer := { t0 with dest := destOf x.lf b, arr := b.arr, off := ((mine.head?).map (·.first)).getD 0
                                   phase := if b.op = 2 then .header else .whole, lim := (tileFrom b).2, pieces := if whole then max 1 ps.length else 1
                                   units := 1, quad := if b.xform = 0 then none else some (prismQuad e x.lf b) }
    match readPieces ⟨e, t0.id, x.task, x.lf, x.ctx⟩ (if b.op = 2 then 1 else b.srcTd.esize) img b.srcTd (s, t1) mine with
    | .error r => .error r
    | .ok (s, t) =>
      let last := whole || decide (ps.length ≤ b.piece + 1)
      if t.late then .ok (launch s e h t last)
      else (bytesReady s e t).map (fun r => launch r.1 e h r.2 last)

/-- What a piece written to a distributed tensor adds to its transfer. -/
def joinOut (t : Transfer) (r : PieceOut) : Transfer :=
  { t with writes := t.writes ++ r.writes, packets := t.packets + r.packets
           notify := match r.notify with
             | some n => some n
             | none => t.notify
           merge := match r.merge with
             | some m => some m.1
             | none => t.merge
           recs := t.recs ++ (match r.merge with
             | some m => m.2
             | none => []) }

/-- A transfer to a distributed tensor starts (R245, R380 to R384); `bs` are the bytes of the whole block, `offs` the tensor offsets of its elements of `es` bytes. The header of a CTILE, its first 32 bytes, goes last (R97). -/
def startDistWrite (s : State) (e h : Nat) (x : Stream) (b : BEntry) (bs : List Byte) (es : Nat) (offs : List (Option Nat)) (units : Nat)
    (sparse : Option Bool) : Started :=
  match ownerImage s b.dstTd.facet with
  | none => .error 9
  | some img =>
    let k := if b.op = 4 then 32 else 0
    let body := (piecesOf es (ownerShift img) (offs.drop k)).map (fun p => { p with first := p.first + k })
    let ps := body ++ piecesOf es (ownerShift img) (offs.take k)
    let whole := wholeBlock b
    let mine := if whole then ps else (ps.drop b.piece).take 1
    let t0 : Transfer := { newTransfer s e h x b with dest := .remote, units := units, sparse := sparse, pieces := if whole then max 1 ps.length else 1
                                                      quad := if b.xform = 0 then none else some (prismQuad e x.lf b) }
    let o : Origin := ⟨e, t0.id, x.task, x.lf, x.ctx⟩
    let step (a : State × Transfer × List (Nat × Nat)) (p : Piece) : Option (State × Transfer × List (Nat × Nat)) :=
      match p.x with
      | none => some a
      | some y => (writePiece a.1 o img y (sliceOf bs ((p.first + p.lead) * es) p.len)).map (fun r => (r.1, joinOut a.2.1 r.2, a.2.2 ++ r.2.fed))
    match mine.foldlM step (s, t0, []) with
    | none => .error (if mine.any (fun p => (p.x.map (groupTooLarge s img)).getD false) then 8 else 9)
    | some (s, t, fed) =>
      let s := modStream s e h (fun y => { y with fed := (y.fed ++ fed ++ (match t.merge with
        | none => []
        | some m => [(chipId s, m)])).eraseDups })
      .ok (launch s e h t (whole || decide (ps.length ≤ b.piece + 1)))

/-- A COPY, TILE or CTILE into a distributed tensor starts. -/
def startToDist (s : State) (e h : Nat) (x : Stream) (b : BEntry) : Started :=
  let d := b.dstTd
  let src := b.srcTd
  match b.op with
  | 4 =>
    let bs := ctileOf src (viewRead s x.lf src b.srcFirst (ctileCount b))
    let inside := rawWrites d (d.base + b.dstFirst) bs
    let s := spaceTouch s x.lf src (viewAddrs src b.srcFirst (ctileCount b))
    let s := countClip s e h x (ctileCut b && !b.clipped)
    startDistWrite s e h x b (inside.map (·.2)) 1 (inside.map (fun y => some y.1)) (ceilDiv bs.length 64) (some (isSparse bs))
  | 2 =>
    let (a, lim) := tileFrom b
    let n := tileLength (spaceRead s x.lf src a (min 32 lim)) lim
    let bs := spaceRead s x.lf src a n
    let inside := match d.addr b.dstFirst with
      | none => []
      | some y => rawWrites d y bs
    let s := spaceTouch s x.lf src (span a n)
    let s := countClip s e h x (decide (inside.length < bs.length) && !b.clipped)
    startDistWrite s e h x b (inside.map (·.2)) 1 (inside.map (fun y => some y.1)) (ceilDiv n 64) none
  | _ =>
    let (n, cut) := copyCount b
    let bs := viewRead s x.lf src b.srcFirst n
    let s := if b.piece = 0 then spaceTouch s x.lf src (viewAddrs src b.srcFirst n) else s
    let (s, out) := throughPrism s e x.lf b bs
    let room := d.count - b.dstFirst
    let k := min (out.length / d.esize) room
    let s := countClip s e h x ((cut || decide (room * d.esize < out.length)) && !b.clipped)
    startDistWrite s e h x b (out.take (k * d.esize)) d.esize (blockOffsets d b.dstFirst k) (ceilDiv out.length 64) none

/-! ### Starting a transfer -/

/-- A walk reaches a page whose far channel is offline (R469). -/
def walkOffline (s : State) (x : Stream) (b : BEntry) : Bool :=
  b.walks && (match walkRoot s x.who (if b.srcTd.kind = 1 then b.srcTd else b.dstTd) with
    | none => false
    | some r => (walkNeeds s x b r).any (pageOffline s))

/-- A walk entry starts: a task without slots may not walk, an ABSENT page aborts it, and so does one whose far channel is offline (R208, R216, R469). -/
def startWalk (s : State) (e h : Nat) (x : Stream) (b : BEntry) : Started :=
  let reads := decide (b.srcTd.kind = 1)
  let d := if reads then b.srcTd else b.dstTd
  if walkIllegal s x.who then .error 1
  else
    let root := walkRoot s x.who d
    if ((root.map (walkNeeds s x b)).getD []).any (pageAbsent s) then .error 2
    else if walkOffline s x b then .error 8
    else .ok (if reads then startWalkRead s e h x b root else startWalkWrite s e h x b root)

/-- A block on an OVERLAP destination waits for every earlier block on that descriptor (R227). -/
def overlapWaits (s : State) (e : Nat) (b : BEntry) : Bool :=
  b.dstTd.kind ≠ 1 && b.dstTd.overlap && (engineOf s e).transfers.any (fun t => decide (t.ent.dst = b.dst) && decide (fieldOf t.ent.raw 5 1 = fieldOf b.raw 5 1))

/-- The source's banks are awake (R181) and the far channels of a walk's pages serve (R467). -/
def sourceReady (s : State) (x : Stream) (b : BEntry) : Bool :=
  let d := b.srcTd
  if b.walks then
    walkIllegal s x.who || (match walkRoot s x.who (if d.kind = 1 then d else b.dstTd) with
      | none => true
      | some r => (walkNeeds s x b r).all (pageServed s))
  else if d.kind = 0 ∧ (d.space = 0 ∨ d.space = 2) then
    (if fget s (Fld.fmemGated_STATE (physOf s (d.memFacet x.lf))) = 0 then !heldFacet s (d.memFacet x.lf)
     else awake s (d.memFacet x.lf) (viewAddrs d b.srcFirst (min b.count (d.count - b.srcFirst))))
  else true

/-- An entry's next transfer started. -/
def startEntry (s : State) (e h : Nat) (x : Stream) (b : BEntry) : Started :=
  if entryBad e x.lf x.compress b then .error 1
  else if b.walks then startWalk s e h x b
  else if b.srcTd.kind = 2 then startDistRead s e h x b
  else if b.dstTd.kind = 2 then startToDist s e h x b
  else
    match b.op with
    | 2 => .ok (if destOf x.lf b = .tile then startTileHead s e h x b else startTile s e h x b)
    | 4 => .ok (startCtile s e h x b)
    | _ => .ok (startCopy s e h x b)

/-- A parked tile of a stream whose values are wanted at the staging input. -/
def wantedTile (s : State) (e h : Nat) : Option Transfer := (engineOf s e).transfers.find? (fun t => decide (t.handle = h) && decide (t.phase = .wanted))

/-- The values of a wanted tile may start: its source serves. -/
def tileReady (s : State) (x : Stream) (t : Transfer) : Bool := sourceReady s x t.ent

/-- A stream may start its next transfer but for the limit on transfers in flight: the values of a wanted tile, else its head entry. -/
def mayStart (s : State) (e h : Nat) (x : Stream) : Bool :=
  match wantedTile s e h with
  | some t => tileReady s x t
  | none =>
    match x.entries with
    | [] => false
    | b :: _ => decide (x.state = 1)
        && (entryBad e x.lf x.compress b || (!overlapWaits s e b && (crossings x.lf b).all (fun c => !linkFull s c.1 c.2.1) && sourceReady s x b))

/-- The entry that a stream's next transfer belongs to. -/
def nextEntry (s : State) (e h : Nat) (x : Stream) : Option BEntry :=
  match wantedTile s e h with
  | some t => some t.ent
  | none => x.entries.head?

/-- The bytes that a stream's deliveries are ahead of its consumer: what an operand buffer still holds of it, else what exceeds its rate since its first delivery (R241). -/
def aheadOf (s : State) (e h : Nat) (x : Stream) : Nat :=
  let lat := (facetOf s x.lf).lat x.ctx
  let held (p : Nat → Bool) : Nat := ((lat.due.filter (fun d => decide (d.handle = h) && p d.place)).map (·.bytes)).sum
  match (nextEntry s e h x).map (destOf x.lf) with
  | some .wab => held (fun p => decide (p = 2))
  | some .stage => held (fun p => decide (p ≠ 2))
  | some .tile => held (fun p => decide (p ≠ 2)) + 32 * (lat.tilesIn.filter (fun t => t.handle = h)).length
  | _ => x.moved - x.rate * (s.now - x.movedAt.getD s.now) / 16

/-- A stream's dry time (R241). -/
def dryTime (s : State) (e h : Nat) (x : Stream) : Nat := s.now + 16 * aheadOf s e h x / x.rate

/-- Whether stream `y` on handle `g` is served before stream `x` on handle `h` of the same engine: by dry time, then by handle; bulk streams after every rated one, round robin from the one served last (R241, R242). -/
def servedBefore (s : State) (e g : Nat) (y : Stream) (h : Nat) (x : Stream) : Bool :=
  let turn (k : Nat) : Nat := (k + 15 - (engineOf s e).lastBulk) % 16
  if x.rate = 0 then decide (y.rate ≠ 0) || decide (turn g < turn h)
  else decide (y.rate ≠ 0) && (decide (dryTime s e g y < dryTime s e h x) || (decide (dryTime s e g y = dryTime s e h x) && decide (g < h)))

/-- The transfers in flight of an engine, counted by the pieces that they stand for; a tile that is parked moves nothing (R237, R245). -/
def inFlight (s : State) (e : Nat) : Nat :=
  ((engineOf s e).transfers.map (fun t => match t.phase with
    | .parked => 0
    | .wanted => 0
    | .over => 0
    | _ => t.pieces)).sum

/-- The pieces that the next transfer of a stream stands for. -/
def nextPieces (s : State) (b : BEntry) : Nat :=
  if b.srcTd.kind = 2 ∧ wholeBlock b = true then ((ownerImage s b.srcTd.facet).map (fun img => max 1 (sourcePieces img b).length)).getD 1 else 1

/-- A place among the six transfers in flight is left for a stream once those of its engine that are served before it have theirs (R237, R241). A block of more pieces than six starts alone. -/
def placeFor (s : State) (e h : Nat) (x : Stream) : Bool :=
  let before := (engineOf s e).streams.filter (fun p => decide (p.1 ≠ h) && mayStart s e p.1 p.2 && servedBefore s e p.1 p.2 h x)
  let n := ((nextEntry s e h x).map (nextPieces s)).getD 1
  decide (inFlight s e + before.length + n ≤ 6) || (decide (inFlight s e = 0) && before.isEmpty)

/-- The resources that an entry's next request uses, as (kind, index) pairs: the State Store slice of its source, the memories of the facets it reads and writes, the link between quadrants that it crosses, its Prism (R241). -/
def requestsOf (e own : Nat) (b : BEntry) : List (Nat × Nat) :=
  let side (d : Td) (first : Nat) : List (Nat × Nat) × Option Nat :=
    if d.kind ≠ 0 then ([], none)
    else if d.space = 1 then (match d.addr first with
      | none => ([], none)
      | some a => ([(2, a / 2 ^ 24)], some (a / 2 ^ 24 / 48)))
    else ([(0, if d.space = 2 then d.facet else own)], some (quadOf (if d.space = 2 then d.facet else own)))
  let src := side b.srcTd b.srcFirst
  let dst := side b.dstTd b.dstFirst
  src.1 ++ dst.1 ++ (if b.xform = 0 then [] else [(7, prismQuad e own b)]) ++ (match src.2, dst.2 with
    | some p, some q => if p = q then [] else [(3, 4 * p + q)]
    | _, _ => [])

/-- The far channels of the pages that a walk entry needs. -/
def farChannels (s : State) (x : Stream) (b : BEntry) : List (Nat × Nat) :=
  if !b.walks then []
  else match walkRoot s x.who (if b.srcTd.kind = 1 then b.srcTd else b.dstTd) with
    | none => []
    | some r => ((walkNeeds s x b r).filter (pageFar s)).map (fun v => (4, pteFrame (pteOf s v) % 16))

/-- What the next request of a stream competes for with those of other engines. -/
def competesFor (s : State) (e h : Nat) (x : Stream) : List (Nat × Nat) :=
  match nextEntry s e h x with
  | none => []
  | some b => if entryBad e x.lf x.compress b then [] else requestsOf e x.lf b ++ farChannels s x b

/-- No stream of another engine waits for the same resource with a lower dry time, or with an equal one on a lower facet, quadrant engine q counted as facet 48 + q; a bulk stream waits for every rated one (R241, R242). -/
def winsRequest (s : State) (e h : Nat) (x : Stream) : Bool :=
  let mine := competesFor s e h x
  let first (f g : Nat) (y : Stream) : Bool :=
    decide (y.rate ≠ 0) && (decide (x.rate = 0) || decide (dryTime s f g y < dryTime s e h x) || (decide (dryTime s f g y = dryTime s e h x) && decide (f < e)))
  mine.isEmpty || s.engines.all (fun g => decide (g.1 = e) || g.2.streams.all (fun p =>
    !(first g.1 p.1 p.2 && mayStart s g.1 p.1 p.2 && placeFor s g.1 p.1 p.2 && (competesFor s g.1 p.1 p.2).any mine.contains)))

/-! ### The values of a tile (R93, R115, R119) -/

/-- The cycle from which on the bank that a tile is staged in takes bytes. -/
def bankFreeAt (s : State) (w : Who) (id : Nat) : Nat :=
  match (latOf s w).bankOfTile id with
  | none => s.now
  | some (b, _) => if b.bank = 0 then (latOf s w).free0 else (latOf s w).free1

/-- A tile's transfer replaced, to be performed once its bytes have come and its bank is free. -/
def relaunch (s : State) (e : Nat) (t : Transfer) (more : Nat) : State :=
  let at_ := max (s.now + more + (if t.late then 0 else transferTime t)) (bankFreeAt s ⟨t.lf, t.ctx⟩ t.id)
  modEngine s e (fun g => { g with transfers := g.transfers.map (fun y => if y.id = t.id then { t with doneAt := at_ } else y) })

/-- The values of a tile that is wanted are read from its source. -/
def startValues (s : State) (e : Nat) (x : Stream) (t : Transfer) : Started :=
  let b := t.ent
  let src := b.srcTd
  let n := tileLength t.data t.lim
  let t' := { t with phase := .values, units := ceilDiv n 64 }
  if src.kind = 2 then (askValues s e t).map (fun r => relaunch r.1 e r.2 0)
  else if src.kind = 1 then
    match walkRoot s x.who src with
    | none => .ok (relaunch s e t' 0)
    | some r =>
      let dir := directoryOf s r src.stream
      let ps := walkPlaces s b dir false
      let rest := ps.drop (ceilDiv 32 (unitSize src.unit))
      if (ps.map (·.vpn)).any (pageAbsent s) then .error 2
      else if (ps.map (·.vpn)).any (pageOffline s) then .error 8
      else
        let s' := readBlocks (translateAll s ((distinct (rest.map (·.vpn))).filter (fun v => ((ps.take (ceilDiv 32 (unitSize src.unit))).map (·.vpn)).all (· ≠ v)))) (rest.flatMap Place.blocks)
        .ok (relaunch s' e { t' with data := (placesRead s ps).take n, walkDrop := ps.length } 0)
  else
    let a := (tileFrom b).1 + 32
    let rest := spaceRead s x.lf src a (n - 32)
    .ok (relaunch (spaceTouch s x.lf src (span a (n - 32))) e { t' with data := t.data ++ rest } 0)

/-- A stream starts its next transfer: the values of a wanted tile, else its head entry. -/
def startNext (s : State) (e h : Nat) (x : Stream) : Started :=
  match wantedTile s e h with
  | some t => startValues s e x t
  | none =>
    match x.entries with
    | [] => .ok s
    | b :: _ => startEntry s e h x b

/-- An open stream starts its next transfer, or aborts its task (R93, R115, R235, R237, R241, R373, R469). -/
def execTransferStart (e h : Nat) (s : State) : Res :=
  match streamOf s e h with
  | none => .next s
  | some x =>
    whenever (mayStart s e h x && placeFor s e h x && winsRequest s e h x) s
      (let s := if x.rate = 0 then modEngine s e (fun g => { g with lastBulk := h }) else s
       match startNext s e h x with
        | .ok t => t
        | .error 2 => abortTask (((nextEntry s e h x).map (absentWalk s x)).getD s) x.who 2
        | .error 8 => abortTask s x.who 9
        | .error 9 => abortTask (chordDrop s) x.who 9
        | .error 10 => abortTask (remoteReject s) x.who 9
        | .error r => abortTask s x.who r)

/-! ### Completing a transfer -/

/-- A transfer into an operand buffer of its facet. -/
def Transfer.toBuffer (t : Transfer) : Bool :=
  match t.dest with
  | .wab => true
  | .stage => true
  | .tile => true
  | _ => false

/-- Every earlier block of its stream into an operand buffer has been performed; a tile's header waits for earlier headers alone (R115, R237). -/
def inOrder (s : State) (e : Nat) (t : Transfer) : Bool :=
  !t.toBuffer || decide (t.phase = .over) || (engineOf s e).transfers.all (fun x =>
    decide (x.handle ≠ t.handle) || decide (t.id ≤ x.id) || !x.toBuffer || decide (x.phase = .over) || (decide (t.phase = .header) && decide (x.phase ≠ .header)))

/-- What a delivery into an operand buffer of `n` bytes for each half writes there: in split mode a half's stream reaches the bytes of its own half alone (R70). What becomes of the others the spec does not say; they are not written. DESIGN CHOICE (log entry 33). -/
def ownShare (s : State) (w : Who) (ws : List (Nat × Byte)) : List (Nat × Byte) :=
  if halves s w then ws.filter (fun x => x.1 / 32768 = w.ctx) else ws

/-- A west buffer delivery fits its ring (R523). -/
def wabRoom (s : State) (w : Who) (ws : List (Nat × Byte)) : Bool := decide ((latOf s w).fill + (ownShare s w ws).length ≤ ringSize s w)

/-- A delivery into the west activation buffer: its bytes are written, and the fill level rises by their number (R523). -/
def wabDeliver (s : State) (w : Who) (h : Nat) (ws : List (Nat × Byte)) : State :=
  let mine := ownShare s w ws
  let s := modFacet s w.lf (fun f => { f with wab := mapPuts f.wab mine })
  modLat s w (fun l => Lat.drainDiscard { l with fill := l.fill + mine.length, due := l.due ++ [⟨h, 2, mine.length⟩] } (ringSize s w))

/-- A delivery into the staging buffer by a COPY or WALK (R119). -/
def stageDeliver (s : State) (w : Who) (h : Nat) (ws : List (Nat × Byte)) : State :=
  let mine := ownShare s w ws
  let n (b : Nat) : Nat := (mine.filter (fun x => x.1 / 32768 = b)).length
  let s := modFacet s w.lf (fun f => { f with stg := mapPuts f.stg mine })
  modLat s w (fun l => { l with due := l.due ++ [⟨h, 0, n 0⟩, ⟨h, 1, n 1⟩] })

/-- A tile's header at the staging input: its transfer is parked there until its group is wanted (R115). -/
def parkTile (s : State) (e : Nat) (t : Transfer) : State :=
  let s := modEngine s e (fun g => { g with transfers := g.transfers.map (fun x => if x.id = t.id then { x with phase := .parked } else x) })
  modLat s ⟨t.lf, t.ctx⟩ (fun l => { l with tilesIn := l.tilesIn ++ [⟨t.id, t.handle, t.data, tileLength t.data t.lim⟩] })

/-- The pages that a transfer writes. -/
def Transfer.pagesOf (t : Transfer) : List Nat := distinct (t.writes.map (fun w => w.1 / 2 ^ 14))

/-- A transfer may be performed now: its bytes are there and its packets gone, its turn has come, and its destination takes it (R181, R214, R237, R523). -/
def performable (s : State) (e : Nat) (t : Transfer) : Bool :=
  !t.late && decide (t.phase ≠ .parked) && decide (t.phase ≠ .wanted) && decide (t.doneAt ≤ s.now) && t.tags.isEmpty && decide (t.packets = 0) && t.recs.isEmpty && inOrder s e t &&
    (match t.dest with
      | .fmem lf => awake s lf (t.writes.map (·.1))
      | .wab => wabRoom s ⟨t.lf, t.ctx⟩ t.writes
      | .pages => t.pagesOf.all (fun v => pageServed s v && !pteMigrating (pteOf s v))
      | .remote => (t.notify.map (semRoom s ⟨t.lf, t.ctx⟩)).getD true
      | _ => true)

/-- Format codes of the pages that a page-unit write has filled (R204, R231). -/
def setFormats (s : State) (fs : List (Nat × Nat)) : State :=
  fs.foldl (fun s f =>
    let p := pteOf s f.1
    if pteState p = 0 then s else setPte s f.1 (mkPte (pteState p) (pteMigrating p) (ptePinned p) f.2 (pteFrame p))) s

/-- The bytes of a transfer performed at its destination. -/
def perform (s : State) (t : Transfer) : State :=
  let w : Who := ⟨t.lf, t.ctx⟩
  match t.dest with
  | .fmem lf =>
    let kept := (keptWrites s (physOf s lf) t.writes).length
    let s' := match t.arr with
      | none => s
      | some i => arrAdd s lf i kept
    if t.ent.dstTd.space = 0 then rawWriteOrAbort s' t.task lf t.writes else taskWriteOrAbort s' t.task lf t.writes
  | .sts => stsPut s (some (quadOf t.lf)) t.writes
  | .pages => setFormats (t.pagesOf.foldl (fun s v => pageWrite s (some (quadOf t.lf)) v ((t.writes.filter (fun x => x.1 / 2 ^ 14 = v)).map (fun x => (x.1 % 2 ^ 14, x.2)))) s) t.formats
  | .wab => wabDeliver s w t.handle t.writes
  | .stage => stageDeliver s w t.handle t.writes
  | .tile => if t.phase = .values then stageTile s w t.handle t.id t.data else s
  | .remote =>
    let s := stsPut s (some (quadOf t.lf)) t.writes
    match t.notify with
    | none => s
    | some sem => localPost s t.lf sem 1

/-- The STR counters of a completed transfer (Tables 08-10 and 08-11). -/
def countTransfer (s : State) (e : Nat) (t : Transfer) : State :=
  let pf := physOf s t.lf
  let src := t.ent.srcTd
  let dst := t.ent.dstTd
  let readsWalk := decide (src.kind = 1)
  let s := match t.sparse with
    | none => s
    | some true => bump s (Fld.strCntSparse_COUNT pf) 1
    | some false => bump s (Fld.strCntDense_COUNT pf) 1
  let s := if dst.kind = 1 then bump s (Fld.strCntWalkdrop_COUNT pf) t.walkDrop else s
  if e < 48 then
    let outside (d : Td) : Bool := decide (d.kind ≠ 0) || decide (d.space = 1) || decide (d.space = 2)
    let s := bump s (Fld.strCntBlocks_COUNT pf) t.pieces
    let s := if outside src || readsWalk then bump s (Fld.strCntIn64_COUNT pf) t.units else s
    if outside dst then bump s (Fld.strCntOut64_COUNT pf) t.units else s
  else bump s (Fld.strQcntBlocks_COUNT (e - 48)) t.pieces

/-- A transfer is performed at its destination, its stream counts it, and a stream that has nothing left closes (R233, R237); a page on an offline far channel aborts its task (R469). -/
def execTransferComplete (e id : Nat) (s : State) : Res :=
  match (engineOf s e).transfers.find? (fun t => t.id = id) with
  | none => .next s
  | some t =>
    whenever (performable s e t) s
      (if t.dest = .tile ∧ t.phase = .header then parkTile s e t
       else if t.dest = .pages ∧ t.pagesOf.any (pageOffline s) then abortTask s ⟨t.lf, t.ctx⟩ 9 else
       let s := modEngine s e (fun g => { g with transfers := g.transfers.filter (fun x => x.id ≠ id) })
       let s := modStream (countTransfer s e t) e t.handle (fun x =>
         { x with done := x.done + t.pieces, lastWalk := if t.ent.srcTd.kind = 1 then t.walkDrop else x.lastWalk
                  moved := x.moved + max t.data.length t.writes.length, movedAt := some (x.movedAt.getD s.now) })
       settleFlights (streamSettle (perform s t) e t.handle))

/-! ### The commands of the STR queue -/

/-- TDMK's source address: s[a] + 64 × OFF, modulo 2^32, taken at issue. -/
def tdmkAddr (a : Word) (off : Nat) : Word := a + BitVec.ofNat 32 (64 * off)

/-- TDMK starts: the image it reads, none where it is faulting (R319, R320). -/
def startTdmk (s : State) (w : Who) (fromSts : Bool) (addr : Word) : Option (State × List Byte) :=
  let a := addr.toNat
  if fmemUsed s w.lf < 4096 ∨ a % 64 ≠ 0 then none
  else if fromSts then (if inData s a 64 then some (countRange s (some (quadOf w.lf)) false a 64, memReadN s.sts a 64) else none)
  else if inUsed s w.lf a 64 then some (fmemTouch s (physOf s w.lf) (span a 64), facetRead s w.lf a 64)
  else none

/-- TDMK completes: the image is written at 64 × handle, and the handle holds the descriptor when every check passes (R226, R320). The state and the check code. -/
def finishTdmk (s : State) (w : Who) (h : Nat) (img : List Byte) : State × Nat :=
  let code := tdCheck s w.lf img
  let s := if code = 0 then setTd s w.lf h (some img) else bump (setTd s w.lf h none) (Fld.strCntTdref_COUNT (physOf s w.lf)) 1
  (taskWriteOrAbort s (taskId s w) w.lf (laidAt (64 * h) img), code)

/-- TDRL completes (R321). -/
def finishTdrl (s : State) (w : Who) (h : Nat) : State :=
  taskWriteOrAbort (setTd s w.lf h none) (taskId s w) w.lf (laidAt (64 * h) (0xFF#8 :: List.replicate 63 0#8))

/-- The engine that QENG selects for a context. -/
def strEngine (w : Who) (qeng : Bool) : Nat := if qeng then 48 + quadOf w.lf else w.lf

/-- Another STRM on a handle of an engine is under way. -/
def strmPending (s : State) (e h seq : Nat) (w : Who) : Bool :=
  (List.range 96).any (fun i =>
    let v : Who := ⟨i / 2, i % 2⟩
    (ctxOf s v).cmds.any (fun c => c.started.isSome && !(decide (v = w) && decide (c.seq = seq)) && (match c.op with
      | .strm o _ _ _ => decide (strEngine v o.qeng = e) && decide (o.handle = h)
      | _ => false)))

/-- STRM is faulting (R232, R319, R323). -/
def strmBad (s : State) (w : Who) (seq : Nat) (o : StrmArgs) (addr rate : Word) : Bool :=
  let e := strEngine w o.qeng
  let isOpen := match streamOf s e o.handle with
    | none => false
    | some x => decide (x.state = 1)
  decide (addr.toNat % 64 ≠ 0) || !inData s addr.toNat 64 || decide (16384 < rate.toNat) || isOpen || strmPending s e o.handle seq w
    || (o.list && !inUsed s w.lf (64 * o.listAddr) 48)

/-- STRM completes: the stream is open (R232, R323). -/
def finishStrm (s : State) (w : Who) (o : StrmArgs) (addr rate target : Word) : State :=
  let x : Stream := { lf := w.lf, ctx := w.ctx, task := taskId s w, state := 1, done := 0, rate := rate.toNat % 2 ^ 15, next := addr.toNat, entries := [], ended := false
                      compress := o.compress, list := if o.list then some ⟨64 * o.listAddr, o.ctr, target⟩ else none, groups := none, lastWalk := 0, fed := []
                      endedAt := 0, moved := 0, movedAt := none, burstAt := s.now }
  modEngine s (strEngine w o.qeng) (fun g => { g with streams := mapPut g.streams o.handle x })

/-- What STQ reads of a handle: its stream, where the context may see it (R324). -/
def stqStream (s : State) (w : Who) (h : Nat) (qeng : Bool) : Option Stream :=
  match streamOf s (strEngine w qeng) h with
  | none => none
  | some x => if qeng ∧ ¬(x.of w ∧ x.task = taskId s w) then none else some x

/-- LISTWAIT: an open stream waits for its neuron list (Table 08-10). -/
def Stream.listWait (x : Stream) : Bool := decide (x.state = 1) && x.list.isSome

/-- The layout of STR_ST (Table 08-10). -/
def strStWord (x : Stream) : Nat := x.state * 2 ^ 30 + (if x.listWait then 2 ^ 29 else 0) + x.done % 2 ^ 24

/-- The result of STQ (R324). -/
def stqResult (s : State) (w : Who) (h : Nat) (qeng walk : Bool) : Nat :=
  match stqStream s w h qeng with
  | none => 0
  | some x => if walk then x.lastWalk else strStWord x

/-- STQ may complete: four cycles after its start, and with WAIT four after STATE leaves 1 (R324). -/
def stqDue (s : State) (w : Who) (start h : Nat) (wait qeng : Bool) : Bool :=
  decide (start + 4 ≤ s.now) && (match stqStream s w h qeng with
    | none => true
    | some x => !wait || (decide (x.state ≠ 1) && decide (x.endedAt + 4 ≤ s.now)))

end Sys2Proof.Machine
end

