-- ==== Sys2Proof/Machine/Update.lean ====
section
/-! DEFINITION. The Update units: command blocks (Table 11-6), the group table (R345), the sign rule (R347) and the vote (R349), one command at a time for each unit (R337). -/

namespace Sys2Proof.Machine

/-! ### The sign rule (R347) -/

/-- A group table entry as the unit reads it. -/
structure Group where
  stamp : Nat
  step : Nat
  decay : Nat
  clip : Nat
  margin : Nat
  frozen : Bool
  deriving DecidableEq, Repr

/-- The entry of a group (Table 12-4). -/
def groupOf (s : State) (g : Nat) : Group :=
  let b := memReadN s.sts (fget s Fld.updGtabBase_BASE * 64 + 32 * g) 32
  ⟨fieldOf b 0 4, fieldOf b 4 4, fieldOf b 8 4, fieldOf b 0xC 4, fieldOf b 0x10 1, bitSet (fieldOf b 0x11 1) 0⟩

/-- The direction of a step code (Table 12-2). -/
def direction (c : Nat) : Int := if c = 0 then -1 else if c = 2 then 1 else 0

/-- Format of the parameters: 0 BF16, else FP32. -/
def paramFmt (f : Nat) : FpFmt := if f = 0 then bf16 else fp32

/-- A magnitude rounded towards zero to BF16, or kept in FP32, as a pattern of the format; a NaN stays one. -/
def truncTo (f : Nat) (x : Nat) : Nat := if f = 0 then (if (fp32.decode x).isNan then bf16.nanPat else x / 2 ^ 16) else x

/-- keep = fp32(1 − fp32(step × decay)). -/
def keepOf (g : Group) : Nat :=
  let p := fp32.decode (fp32.encode ((fp32.decode g.step).mul (fp32.decode g.decay)))
  fp32.encode ((Fp.ofInt 1).add p.neg)

/-- A parameter's new pattern under a code, and whether the clip bounded it (R343, R347). The parameter is not −0. -/
def signStep (g : Group) (f : Nat) (p c : Nat) : Nat × Bool :=
  let fmt := paramFmt f
  let w0 := fmt.decode (if fmt.tiny p then 0 else p)
  let d := (Fp.ofInt (direction c)).mul (fp32.decode g.step)
  let w1 := fp32.encode ((w0.mul (fp32.decode (keepOf g))).add d)
  let w2 := if fp32.tiny w1 then 0 else w1
  let w3 := convert fp32 fmt w2
  let clip := truncTo f g.clip
  let x := fmt.decode w3
  let pos := (Fp.num false 0 0).lt (fmt.decode clip)
  if x.isNan then (fmt.nanPat, false)
  else if pos ∧ (fmt.decode clip).lt x then (clip, true)
  else if pos ∧ x.lt (fmt.decode clip).neg then (clip + 2 ^ fmt.signBit, true)
  else (w3, false)

/-- A parameter pattern is −0: outside the mask (R342). -/
def masked (f p : Nat) : Bool := decide (p = 2 ^ (paramFmt f).signBit)

/-- Code `i` of a sign vector's bytes (R338). -/
def codeAt (v : Array Byte) (i : Nat) : Nat := (v.getD (16 + i / 4) 0#8).toNat / 4 ^ (i % 4) % 4

/-- Bytes of a sign vector. -/
def signLen (count : Nat) : Nat := 16 + ceilDiv count 4

/-- Bytes of a parameter. -/
def paramSize (f : Nat) : Nat := if f = 0 then 2 else 4

/-- The parameters that UPSIGN writes, with the counts of masked and clipped ones. -/
def signResult (g : Group) (f : Nat) (ps : List Nat) (v : Array Byte) : List Byte × Nat × Nat :=
  let rs := ps.zipIdx.map (fun x => if masked f x.1 then (x.1, false, true) else
    let r := signStep g f x.1 (codeAt v x.2)
    (r.1, r.2, false))
  (rs.flatMap (fun r => leBytes (paramSize f) r.1), (rs.filter (fun r => r.2.2)).length, (rs.filter (fun r => r.2.1)).length)

/-! ### The vote (R349) -/

/-- The majority code of some input codes. -/
def voteCode (margin : Nat) (cs : List Nat) : Nat :=
  let d := (cs.map direction).foldl (· + ·) 0
  if d.natAbs < max margin 1 then 1 else if 0 < d then 2 else 0

/-- The result vector of UPVOTE. Bits of its last byte beyond the last code are left free. -/
def voteResult (s : State) (g : Group) (group count : Nat) (vs : List (Array Byte)) : List Byte :=
  let head := leBytes 4 g.stamp ++ leBytes 2 group ++ leBytes 2 0 ++ leBytes 4 count ++ leBytes 4 0
  head ++ (List.range (ceilDiv count 4)).map (fun i => BitVec.ofNat 8 ((List.range 4).foldl (fun x j =>
    x + (if 4 * i + j < count then voteCode g.margin (vs.map (fun v => codeAt v (4 * i + j))) else (Config.freeByte s.free j).toNat % 4) * 4 ^ j) 0))

/-! ### Command blocks (Table 11-6) -/

/-- A block of UPSIGN that may be queued (R319, R338). -/
def signOk (s : State) (b : List Byte) : Bool :=
  let n := fieldOf b 4 4
  let f := fieldOf b 2 1
  decide (fieldOf b 0 2 < fget s Fld.updGtabCount_COUNT) && decide (f ≤ 1) && decide (fieldOf b 3 1 = 0) && decide (fieldOf b 0x10 16 = 0)
    && decide (fieldOf b 8 4 % 64 = 0) && decide (fieldOf b 0xC 4 % 64 = 0)
    && (decide (n = 0) || (inData s (fieldOf b 8 4) (n * paramSize f) && inData s (fieldOf b 0xC 4) (signLen n)))

/-- The address of input vector `i` of UPVOTE. -/
def voteInput (b : List Byte) (i : Nat) : Nat := fieldOf b 8 4 + i * fieldOf b 0xC 4

/-- A block of UPVOTE that may be queued (R319, R338). -/
def voteOk (s : State) (b : List Byte) : Bool :=
  let n := fieldOf b 4 4
  let v := fieldOf b 2 1
  decide (fieldOf b 0 2 < fget s Fld.updGtabCount_COUNT) && decide (1 ≤ v) && decide (v ≤ 64) && decide (fieldOf b 3 1 = 0) && decide (fieldOf b 0x14 12 = 0)
    && decide (fieldOf b 8 4 % 64 = 0) && decide (fieldOf b 0xC 4 % 64 = 0) && decide (fieldOf b 0x10 4 % 64 = 0)
    && (decide (n = 0) || ((List.range v).all (fun i => inData s (voteInput b i) (signLen n)) && inData s (fieldOf b 0x10 4) (signLen n)))

/-- An Update command starts: its block, none where it is faulting (R337, R338). -/
def startUpdate (s : State) (w : Who) (isVote : Bool) (addr : Word) : Option (State × List Byte) :=
  let a := addr.toNat
  let b := facetRead s w.lf a 32
  if a % 64 ≠ 0 ∨ !inUsed s w.lf a 32 ∨ !(if isVote then voteOk s b else signOk s b) then none
  else some (fmemTouch s (physOf s w.lf) (span a 32), b)

/-! ### The units -/

/-- The queue of an Update unit. -/
def updateQueue (s : State) (q : Nat) : List UpdateReq := mapGet s.updates q []

/-- An Update unit's queue has a place (R337). -/
def updateRoom (s : State) (w : Who) : Bool := decide ((updateQueue s (quadOf w.lf)).length < 16)

/-- The first input vector whose STAMP differs from the group's. -/
def wrongStamp (s : State) (g : Group) (as : List Nat) : Option Nat := (as.map (fun a => memLe s.sts a 4)).find? (· ≠ g.stamp)

/-- A stamp mismatch: recorded and counted, the task aborted (R339, R340, R346). -/
def stepMismatch (s : State) (w : Who) (group stamp expect : Nat) : State :=
  let s := fset (fset (fset s Fld.updMmGroup_GROUP group) Fld.updMmStamp_STAMP stamp) Fld.updMmExpect_STAMP expect
  abortTask (bump s Fld.updCntStepmm_COUNT 1) w 3

/-- The vectors whose stamps a command checks. -/
def stampInputs (isVote : Bool) (b : List Byte) : List Nat := if isVote then (List.range (fieldOf b 2 1)).map (voteInput b) else [fieldOf b 0xC 4]

/-- What a command will write, and its counts of masked and clipped parameters. -/
def updateOutput (s : State) (isVote : Bool) (g : Group) (b : List Byte) : List Byte × Nat × Nat :=
  let n := fieldOf b 4 4
  if isVote then
    (voteResult s g (fieldOf b 0 2) n ((List.range (fieldOf b 2 1)).map (fun i => (memReadN s.sts (voteInput b i) (signLen n)).toArray)), 0, 0)
  else if g.frozen then ([], 0, 0)
  else
    let f := fieldOf b 2 1
    let ps := (List.range n).map (fun i => memLe s.sts (fieldOf b 8 4 + paramSize f * i) (paramSize f))
    signResult g f ps (memReadN s.sts (fieldOf b 0xC 4) (signLen n)).toArray

/-- The State Store bytes that a command reads: its group's entry, its votes or its signs and parameters. -/
def updateReads (s : State) (isVote : Bool) (g : Group) (b : List Byte) : List Nat :=
  let n := fieldOf b 4 4
  span (fget s Fld.updGtabBase_BASE * 64 + 32 * fieldOf b 0 2) 32 ++ (stampInputs isVote b).flatMap (fun a => span a (if isVote || !g.frozen then signLen n else 64)) ++
    (if isVote || g.frozen then [] else span (fieldOf b 8 4) (n * paramSize (fieldOf b 2 1)))

/-- The command that stands first at a unit begins: its stamps are checked and its result worked out; a mismatch aborts its task and the next one begins. A count of 0 does nothing (R338 to R340, R345). `fuel` bounds the queue. -/
def updateBegin (s : State) (q : Nat) : Nat → State
  | 0 => s
  | fuel + 1 =>
    match updateQueue s q with
    | [] => s
    | r :: _ =>
      let w : Who := ⟨r.lf, r.ctx⟩
      match (ctxOf s w).cmds.find? (fun c => c.seq = r.seq) with
      | none => s
      | some c =>
        if c.ready then s
        else
          let b := c.todo.headD []
          let isVote := decide (c.op = .upvote (match c.op with
            | .upvote a => a
            | _ => 0#32))
          let n := fieldOf b 4 4
          let go (x : ECmd) : ECmd := { x with ready := true, doneAt := s.now + 1 }
          if n = 0 then modCmd s w c.seq go
          else
            let g := groupOf s (fieldOf b 0 2)
            match wrongStamp s g (stampInputs isVote b) with
            | some st => updateBegin (stepMismatch s w (fieldOf b 0 2) st g.stamp) q fuel
            | none =>
              let s := countLines s (some q) false (updateReads s isVote g b)
              let out := updateOutput s isVote g b
              drawn (modCmd s w c.seq (fun x => { go x with image := out.1, result := BitVec.ofNat 32 out.2.1, result2 := BitVec.ofNat 32 out.2.2 }))

/-- A unit goes on with the command that stands first. -/
def updateNext (s : State) (q : Nat) : State := updateBegin s q 17

/-- A command joins its unit's queue and runs at once when it stands first (R337). -/
def joinUpdate (s : State) (w : Who) (seq : Nat) (b : List Byte) : State :=
  let q := quadOf w.lf
  let s := modCmd s w seq (fun c => { c with todo := [b] })
  updateNext { s with updates := mapPut s.updates q (updateQueue s q ++ [⟨w.lf, w.ctx, seq⟩]) } q

/-- A running command has written its result: the counters count it, and the unit goes on (R318, Table 12-7). -/
def finishUpdate (s : State) (w : Who) (c : ECmd) : State :=
  let q := quadOf w.lf
  let b := c.todo.headD []
  let n := fieldOf b 4 4
  let s := stsPut s (some q) c.storeWrites
  let s := match c.op with
    | .upvote _ => bump s Fld.updCntVote_COUNT 1
    | _ =>
      let wrote := if c.image.isEmpty then 0 else n - c.result.toNat
      bump (bump (bump (bump s Fld.updCntSign_COUNT 1) Fld.updCntParams_COUNT wrote) Fld.updCntMasked_COUNT c.result.toNat) Fld.updCntClip_COUNT c.result2.toNat
  updateNext { s with updates := mapPut s.updates q ((updateQueue s q).filter (fun r => !(decide (r.lf = w.lf) && decide (r.ctx = w.ctx) && decide (r.seq = c.seq)))) } q

end Sys2Proof.Machine
end

