-- ==== Sys2Proof/Machine/Repair.lean ====
section
/-! DEFINITION. Faults, repair and calibration (file 17): errors and their classes (R452 to R455), failure and wear (R458), facet swaps (R459 to R463), slice retirement (R465, R466), far retraining (R467 to R469), the Protractor (R472, R473), shadow checks (R474 to R481), throttling (R482 to R485, R510, R511). -/

namespace Sys2Proof.Machine

/-- The number of the frame under way. -/
def frameNo (s : State) : Nat := fget s Fld.fsqFrame_FRAME

/-- Frames since frame `f`, modulo 2^32. -/
def framesSince (s : State) (f : Nat) : Nat := (frameNo s + 2 ^ 32 - f) % 2 ^ 32

/-! ### Instruction memory (R36, R459) -/

/-- The instruction memory of a physical facet loaded with the image that the active frame image gives a logical facet. -/
def loadImem (s : State) (lf pf : Nat) : State :=
  match s.seq.active with
  | none => s
  | some i => { s with imem := memWrite s.imem (ibase pf) (sliceOf i.control (i.imemOff + 65536 * lf) 65536) }

/-! ### Facets that fail or wear (R458 to R463) -/

/-- A physical facet is declared failed (R458 to R462): its tasks are aborted with HW_FAULT and its swap starts, after the other half's task where one goes on (R461); a spare that fails is retired, with the swap it was to serve. -/
def failFacet (s : State) (pf : Nat) (keepHalf : Option Nat) : State :=
  match logicalOf s pf with
  | none =>
    let lost := s.repair.swaps.filter (fun x => x.target = pf)
    let s := fset (retireFacet (stopShadow s (pf / 13)) pf) (Fld.cmpStatus_STRUCT pf) 0
    let s := modRepair s (fun r => { r with swaps := r.swaps.filter (fun x => x.target ≠ pf) })
    lost.foldl (fun s x => unmapFacet (retireFacet s x.source) x.lf) s
  | some lf =>
    if heldFacet s lf ∨ deferred s lf then s
    else
      match keepHalf with
      | some h =>
        if ctxBusy s ⟨lf, h⟩ then modRepair s (fun r => { r with deferredFacets := r.deferredFacets ++ [pf] }) else startSwap s lf
      | none => startSwap (abortFacet s lf 9) lf

/-- A worn facet is to be replaced in the next maintenance tail, where its quadrant has a spare; that none is left is recorded once (R458, R463, Table 17-1). -/
def wearFacet (s : State) (pf : Nat) : State :=
  match logicalOf s pf with
  | none => fset s (Fld.rpmFstate_WORN pf) 1
  | some lf =>
    if s.repair.pendingSwaps.any (fun x => x.source = pf) then s
    else
      let first := !fon s (Fld.rpmFstate_WORN pf)
      let s := fset s (Fld.rpmFstate_WORN pf) 1
      match spareFacet s (quadOf lf) with
      | some t => modRepair s (fun r => { r with pendingSwaps := r.pendingSwaps ++ [⟨lf, pf, t, s.now, false⟩] })
      | none => if first then setFlag (errorRec s 3 0 pf 9 0xFFFF 0) Fld.rpmErr_SPAREOUT else s

/-- An uncorrectable error in a facet's arrays is noted: a second within 1 000 frames declares the facet failed (R458). -/
def noteFacetUe (s : State) (pf : Nat) (keepHalf : Option Nat) : State :=
  let again := match mapFind s.repair.ueFacet pf with
    | none => false
    | some f => decide (framesSince s f < 1000)
  let s := modRepair s (fun r => { r with ueFacet := mapPut r.ueFacet pf (frameNo s) })
  if again then failFacet s pf keepHalf else s

/-- A corrected error in a facet is noted: 1 024 in one frame declare it worn (R458). -/
def noteFacetCe (s : State) (pf : Nat) : State :=
  let n := mapGet s.repair.ceFacet pf 0 + 1
  let s := modRepair s (fun r => { r with ceFacet := mapPut r.ceFacet pf n })
  if n = 1024 then wearFacet s pf else s

/-- The new map of a swap is written and its record made (R459, Table 17-5 step 4); the watchdogs of the running tasks are extended by the repair interval (R457). -/
def swapPassed (s : State) (x : FacetSwap) : State :=
  let len := s.now - x.startAt
  let s := modRepair s (fun r => { r with swaps := r.swaps.filter (fun y => y.lf ≠ x.lf) })
  let s := loadImem (setFacetMap (fset (retireFacet s x.source) (Fld.rpmFstate_STATE x.target) 0) x.lf x.target) x.lf x.target
  let s := extendWatchdogs s len
  event (errorRec s 2 0 x.source 2 0xFFFF (len * 65536 + x.target)) Fld.rpmErr_FACETSWAP Fld.rpmCntSwap_COUNT

/-- The spare failed its self-test: it is retired as well, and the logical facet has no physical facet (R462). -/
def swapFailed (s : State) (x : FacetSwap) : State :=
  let s := modRepair s (fun r => { r with swaps := r.swaps.filter (fun y => y.lf ≠ x.lf) })
  unmapFacet (retireFacet (retireFacet s x.source) x.target) x.lf

/-- A facet swap ends (R459, R462). -/
def execFacetSwapDone (q : Nat) (runs : List KatRun) (s : State) : Res :=
  match s.repair.swaps.find? (fun x => quadOf x.lf = q) with
  | none => .next s
  | some x => whenever (mainUp s) s (let s := katResult s x.target runs; if katPassed runs then swapPassed s x else swapFailed s x)

/-- A planned swap in the maintenance tail (R463): the spare tests itself, with an outcome that nothing commands; where it passes it takes the instruction memory and the map is due to change, where it fails it is retired. -/
def planSwap (s : State) (x : FacetSwap) : State :=
  match spareFacet s (quadOf x.lf) with
  | none => modRepair s (fun r => { r with pendingSwaps := r.pendingSwaps.filter (fun y => y.source ≠ x.source) })
  | some t =>
    let runs := Config.freeKat s.free
    let s := katResult (drawn (stopShadow s (quadOf x.lf))) t runs
    if katPassed runs then
      loadImem (modRepair s (fun r => { r with pendingSwaps := r.pendingSwaps.map (fun y => if y.source = x.source then { y with target := t, ready := true } else y) })) x.lf t
    else retireFacet (modRepair s (fun r => { r with pendingSwaps := r.pendingSwaps.filter (fun y => y.source ≠ x.source) })) t

/-- The planned swaps of the tail: one for each quadrant. -/
def planSwaps (s : State) : State :=
  let xs := s.repair.pendingSwaps.filter (fun x => !x.ready)
  ((List.range 4).filterMap (fun q => xs.find? (fun x => quadOf x.lf = q))).foldl planSwap s

/-- A planned swap's map changes in the prologue (R463). -/
def plannedMap (s : State) (x : FacetSwap) : State :=
  let s := setFacetMap (fset (retireFacet s x.source) (Fld.rpmFstate_STATE x.target) 0) x.lf x.target
  event (errorRec s 2 0 x.source 3 0xFFFF x.target) Fld.rpmErr_FACETSWAP Fld.rpmCntPlanned_COUNT

/-! ### State Store slices (R465, R466) -/

/-- The logical slice of a State Store address. -/
def sliceOfAddr (a : Nat) : Nat := a / 2 ^ 24

/-- The physical slice of a logical one. -/
def physSlice (s : State) (l : Nat) : Nat := fget s (Fld.rpmSmap_PSLICE l)

/-- A spare slice of a quadrant that no retirement uses. The spec does not say which of two spares a retirement brings in: the model takes the lowest-numbered. DESIGN CHOICE (log entry 36). -/
def spareSlice (s : State) (q : Nat) : Option Nat :=
  (List.range 50).map (50 * q + ·) |>.find? (fun p => decide (fget s (Fld.rpmSstate_STATE p) = 1) && s.repair.slices.all (fun x => x.target ≠ p))

/-- A failed or worn slice is retired to a spare of its quadrant, or stays in service with its record written once (R465, R466). -/
def retireSlice (s : State) (l : Nat) : State :=
  let p := physSlice s l
  if s.repair.slices.any (fun x => x.logical = l) then s
  else
    match spareSlice s (p / 50) with
    | some t =>
      setFlag (errorRec (modRepair s (fun r => { r with slices := r.slices ++ [⟨l, p, t, false, 0⟩] })) 2 1 p 4 0xFFFF t) Fld.rpmErr_SLICERETIRE
    | none =>
      if s.repair.outSlices.contains p then s
      else setFlag (errorRec (modRepair s (fun r => { r with outSlices := r.outSlices ++ [p] })) 3 1 p 9 0xFFFF 0) Fld.rpmErr_SPAREOUT

/-- An uncorrectable error in a slice is noted: a second within 1 000 frames declares it failed (R458). -/
def noteSliceUe (s : State) (l : Nat) : State :=
  let p := physSlice s l
  let again := match mapFind s.repair.ueSlice p with
    | none => false
    | some f => decide (framesSince s f < 1000)
  let s := modRepair s (fun r => { r with ueSlice := mapPut r.ueSlice p (frameNo s) })
  if again then retireSlice s l else s

/-- A corrected error in a slice is noted: 256 in one frame declare it worn (R458). -/
def noteSliceCe (s : State) (l : Nat) : State :=
  let p := physSlice s l
  let n := mapGet s.repair.ceSlice p 0 + 1
  let s := modRepair s (fun r => { r with ceSlice := mapPut r.ceSlice p n })
  if n = 256 then retireSlice (fset s (Fld.rpmSstate_WORN p) 1) l else s

/-- A slice's copy ends: its map is due to change at the next prologue. How many lines were copied as poisoned is left open (R465). -/
def execSliceCopyDone (s : State) : Res :=
  match s.repair.slices.find? (fun x => !x.copied) with
  | none => .next s
  | some c =>
    whenever (mainUp s) s
      (drawn (modRepair s (fun r => { r with slices := r.slices.map (fun x =>
        if x.logical = c.logical then { x with copied := true, poisoned := (freshWord s).toNat % 131073 } else x) })))

/-- A retirement's map changes in the prologue (R465). -/
def sliceMapped (s : State) (c : SliceCopy) : State :=
  let s := modRepair s (fun r => { r with slices := r.slices.filter (fun x => x.logical ≠ c.logical) })
  let s := bump (fset s (Fld.rpmSmap_PSLICE c.logical) c.target) Fld.rpmMapgen_GEN 1
  let s := fset (fset s (Fld.rpmSstate_STATE c.source) 4) (Fld.rpmSstate_STATE c.target) 0
  event (errorRec s 2 1 c.source 5 0xFFFF c.poisoned) Fld.rpmErr_SLICERETIRE Fld.rpmCntSlice_COUNT

/-- The map changes of a prologue (R463, R465), the records of logical facets that have no physical one (R462), and the flag for repairs that go on (R454). -/
def prologueMaps (s : State) : State :=
  let ready := s.repair.pendingSwaps.filter (fun x => x.ready)
  let s := ready.foldl plannedMap (modRepair s (fun r => { r with pendingSwaps := r.pendingSwaps.filter (fun x => !x.ready) }))
  let s := (s.repair.slices.filter (fun c => c.copied)).foldl sliceMapped s
  let s := ((List.range 48).filter (fun l => decide (physOf s l = 0x3F))).foldl unmappedRec s
  if !s.repair.swaps.isEmpty || !s.repair.slices.isEmpty || s.repair.retrain.isSome then modSeq s (fun q => { q with repairFlag := true }) else s

/-! ### Far retraining (R467 to R469) -/

/-- A retraining pauses its channel (R467). -/
def startRetrain (s : State) (ch : Nat) (urgent : Bool) : State :=
  let s := modRepair s (fun r => { r with retrain := some ⟨ch, urgent, s.now⟩, due := r.due.filter (fun d => d.1 ≠ ch) })
  modSeq (fset s (Fld.farChState_STATE ch) 2) (fun q => { q with repairFlag := true })

/-- A retraining of a channel falls due, with the frames left until it runs as urgent (R467, R468). -/
def dueRetrain (s : State) (ch left : Nat) : State :=
  match s.repair.retrain with
  | some r =>
    if r.channel = ch then s
    else modRepair s (fun r => { r with due := r.due.filter (fun d => d.1 ≠ ch) ++ [(ch, match r.due.find? (fun d => d.1 = ch) with | some d => min d.2 left | none => left)] })
  | none =>
    if left = 0 then startRetrain s ch true
    else modRepair s (fun r => { r with due := r.due.filter (fun d => d.1 ≠ ch) ++ [(ch, match r.due.find? (fun d => d.1 = ch) with | some d => min d.2 left | none => left)] })

/-- A routine retraining may start in a stretch of time of `n` cycles that covers it, for one of the channels in `mask` (R468). -/
def routineRetrain (s : State) (mask n : Nat) : State :=
  if s.repair.retrain.isSome ∨ n < 39000 then s
  else
    match s.repair.due.find? (fun d => bitSet mask d.1 && channelServes s d.1) with
    | none => s
    | some d => startRetrain s d.1 false

/-- A retraining that has waited 64 frames, or fell due as urgent while another ran, starts at once (R467, R468). -/
def execUrgentRetrain (ch : Nat) (s : State) : Res :=
  whenever (serving s && s.repair.retrain.isNone && s.repair.due.contains (ch, 0) && channelServes s ch) s (startRetrain s ch true)

/-- A retraining succeeded: the channel resumes (R467); the watchdogs of the running tasks are extended by an urgent one's interval (R457). -/
def retrainPassed (s : State) (r : Retrain) : State :=
  let len := s.now - r.startAt
  let s := fset (modRepair s (fun p => { p with failsInRow := mapDel p.failsInRow r.channel })) (Fld.farChState_STATE r.channel) 1
  bump (errorRec s 2 2 r.channel 6 0xFFFF (len * 65536 + (if r.urgent then 1 else 0))) Fld.calCntRetrain_COUNT 1

/-- A retraining failed: the channel resumes as it was and is trained again, or after the second failure in a row goes offline (R469). -/
def retrainFailed (s : State) (r : Retrain) : State :=
  let n := mapGet s.repair.failsInRow r.channel 0 + 1
  let s := setFlag (modRepair s (fun p => { p with failsInRow := mapPut p.failsInRow r.channel n })) Fld.calErr_RETRAINFAIL
  if 2 ≤ n then errorRec (fset s (Fld.farChState_STATE r.channel) 3) 3 2 r.channel 10 0xFFFF 0
  else modRepair (fset s (Fld.farChState_STATE r.channel) 1) (fun p => { p with due := p.due ++ [(r.channel, if r.urgent then 0 else 64)] })

/-- A retraining ends, within 39 000 cycles of its pause (R467). -/
def execRetrainDone (ok : Bool) (s : State) : Res :=
  match s.repair.retrain with
  | none => .next s
  | some r =>
    whenever (serving s) s
      (let len := s.now - r.startAt
       let s := modRepair s (fun p => { p with retrain := none })
       let s := if r.urgent then extendWatchdogs s len else s
       if ok then retrainPassed s r else retrainFailed s r)

/-! ### The Protractor (R472, R473) -/

/-- A far channel's tracking window ends: its smallest windows are shown, and a narrow one makes a retraining due (R458, Table 17-6). -/
def execFarStrobeTrack (ch readWindow writeWindow : Nat) (s : State) : Res :=
  whenever (serving s && decide (ch < 16) && channelServes s ch) s
    (let s := fset (fset s (Fld.calFar_READ ch) readWindow) (Fld.calFar_WRITE ch) writeWindow
     let n := min readWindow writeWindow
     if n < 38 then dueRetrain s ch 0 else if n < 64 then dueRetrain s ch 64 else s)

/-! ### Shadow checks (R474 to R481) -/

/-- A task is a shadow candidate of its quadrant (R474). -/
def shadowCandidate (s : State) (t : TaskEntry) : Bool :=
  decide (t.kind ≠ 1) && (windows s).any (fun w => decide (w.kind = 2) && decide (w.quad = quadOf t.lf) && decide (w.t0 + 1024 ≤ t.release) && decide (t.release + t.wcl ≤ w.t1))

/-- The tasks of the active image with their places. -/
def placedTasks (s : State) : List (Nat × TaskEntry) :=
  match s.seq.active with
  | none => []
  | some i => (List.range i.tasks.length).zip i.tasks

/-- The task that a quadrant's spare checks in this frame: after a mismatch the same one, else the next candidate after the last one checked, in order of logical facet and task table, wrapping round (R474, R479). -/
def shadowPick (s : State) (q : Nat) : Option (Nat × TaskEntry) :=
  let cs := (placedTasks s).filter (fun p => decide (quadOf p.2.lf = q) && shadowCandidate s p.2)
  let x := shadowOf s q
  match x.repeatTask.bind (fun id => cs.find? (fun p => p.2.id = id)) with
  | some p => some p
  | none =>
    match cs.find? (fun p => x.last ≤ p.1) with
    | some p => some p
    | none => cs.head?

/-- At a candidate's release the quadrant's spare starts its check, once in a frame (R474, R475). -/
def shadowStart (s : State) (t : TaskEntry) : State :=
  let q := quadOf t.lf
  let x := shadowOf s q
  match spareFacet s q, shadowPick s q with
  | some pf, some p =>
    if x.running.isNone ∧ !x.doneFrame ∧ p.2.id = t.id then
      loadImem (modShadow s q (fun y => { y with running := some (t.lf, t.id), last := p.1 + 1, doneFrame := true })) t.lf pf
    else s
  | _, _ => s

/-- A difference was found (R479, R480): recorded and flagged; a second of the same facet in consecutive checks puts it under suspicion. -/
def shadowMismatch (s : State) (q lf id : Nat) : State :=
  let live := physOf s lf
  let x := shadowOf s q
  let n := if x.misses ≠ 0 ∧ x.missFacet = live then x.misses + 1 else 1
  let s := event (errorRec s 1 0 live 12 id ((spareFacet s q).getD 0)) Fld.calErr_SHADOWMM Fld.calCntShadowmm_COUNT
  modShadow s q (fun y => { y with repeatTask := some id, misses := n, missFacet := live, suspect := if 2 ≤ n then some live else y.suspect })

/-- The outputs of a task are compared by value in the floating-point types (R477). -/
def comparesByValue (s : State) (id : Nat) : Bool := ((placedTasks s).find? (fun p => p.2.id = id)).any (fun p => bitSet p.2.flags 0)

/-- A shadow check ends, compared or abandoned (R476, R477). -/
def execShadowCheckEnd (q : Nat) (outs : ShadowOuts) (abandoned : Bool) (s : State) : Res :=
  match (shadowOf s q).running with
  | none => .next s
  | some (lf, id) =>
    whenever (serving s) s
      (if abandoned then stopShadow s q
       else
         let matched := outsMatch (comparesByValue s id) (cfgForce s 5) outs.live outs.spare
         let s := bump (modShadow s q (fun y => { y with running := none })) Fld.calCntShadow_COUNT 1
         let s := fset (fset (fset s Fld.calShadowLast_TASKID id) Fld.calShadowLast_LFACET lf) Fld.calShadowLast_MATCH (if matched then 1 else 0)
         if matched then modShadow s q (fun y => { y with repeatTask := none, misses := 0 }) else shadowMismatch s q lf id)

/-- In the tail of the frame, the spare of a suspect's quadrant tests itself: where it passes, the live facet is failed and a planned swap is ready; where it fails, the spare is retired and the suspicion is over (R480). -/
def suspectTest (s : State) (q : Nat) : State :=
  match (shadowOf s q).suspect, spareFacet s q with
  | some pf, some t =>
    let runs := Config.freeKat s.free
    let s := katResult (drawn (modShadow (stopShadow s q) q (fun y => { y with suspect := none, misses := 0, repeatTask := none }))) t runs
    match katPassed runs, logicalOf s pf with
    | true, some lf =>
      loadImem (modRepair s (fun r => { r with pendingSwaps := r.pendingSwaps.filter (fun y => quadOf y.lf ≠ q) ++ [⟨lf, pf, t, s.now, true⟩] })) lf t
    | true, none => s
    | false, _ => retireFacet s t
  | some _, none => modShadow s q (fun y => { y with suspect := none, misses := 0 })
  | none, _ => s

/-! ### The maintenance tail (R464) -/

/-- Each facet's replica-path slack as measured in the frame, a value that nothing commands: below 20 ps in 8 consecutive frames the facet is worn (R458, Table 17-6). -/
def measureSlack (s : State) (pf : Nat) : State :=
  let v := (freshWord s).toNat % 256
  let n := if v < 20 then mapGet s.repair.slackLow pf 0 + 1 else 0
  let s := drawn (fset (modRepair s (fun r => { r with slackLow := mapPut r.slackLow pf n })) (Fld.calCore_SLACK pf) v)
  if 8 ≤ n then wearFacet s pf else s

/-- What RPM and the Protractor do when the maintenance tail begins (R463, R464, R468, R480). -/
def maintenanceTail (s : State) : State :=
  let s := (List.range 4).foldl suspectTest s
  let s := (List.range 52).foldl measureSlack s
  let s := planSwaps s
  routineRetrain s 0xFFFF (period s - (budget s + 52000))

/-! ### Throttling (R482 to R485, R510, R511) -/

/-- The throttle level of a quadrant: the highest of its skew, thermal and power levels and the spine's thermal level (R485, R511). -/
def levelOf (s : State) (q : Nat) : Nat :=
  let t := throttleOf s q
  max (max t.skew t.thermal) (max t.power s.repair.spineThermal)

/-- The throttle registers follow the levels, and a throttle that runs sets its flag. -/
def showThrottle (s : State) : State :=
  let s := fset (fset s Fld.rpmThrottle_Q0 (levelOf s 0)) Fld.rpmThrottle_Q1 (levelOf s 1)
  let s := fset (fset s Fld.rpmThrottle_Q2 (levelOf s 2)) Fld.rpmThrottle_Q3 (levelOf s 3)
  if (List.range 4).any (fun q => decide (levelOf s q ≠ 0)) then setFlag s Fld.rpmErr_THROTTLE else s

/-- The quadrants that a pair's excursion throttles, with the quantity: the lower voltage, the hotter, the more stretched (Table 17-8, R483). -/
def skewHits (xs : List QuadSample) : List (Nat × Nat) :=
  let at_ (i : Nat) : QuadSample := xs.getD i ⟨0, 0, 0⟩
  (List.range 4).flatMap (fun a => (List.range 4).flatMap (fun b =>
    (if (at_ a).mv + 60 < (at_ b).mv then [(a, 0)] else []) ++ (if (at_ b).temp + 160 < (at_ a).temp then [(a, 1)] else [])
      ++ (if (at_ b).stretch + 64 < (at_ a).stretch then [(a, 2)] else [])))

/-- A quadrant's skew level at a sample (R483, R484). -/
def skewStep (s : State) (hits : List (Nat × Nat)) (q : Nat) : State :=
  match hits.find? (fun h => h.1 = q) with
  | some h =>
    let new := (throttleOf s q).since.isNone
    let s := modThrottle s q (fun t => { t with skew := min 3 (t.skew + 1), skewOk := 0, since := some (t.since.getD s.now), quantity := if new then h.2 else t.quantity })
    if new then bump s Fld.rpmCntSkew_COUNT 1 else s
  | none =>
    modThrottle s q (fun t =>
      if t.skewOk + 1 = 8 then { t with since := none, skewOk := 0, skew := t.skew - 1, held := false } else { t with since := none, skewOk := t.skewOk + 1 })

/-- A thermal level and its count of cool samples after a reading in eighths of a degree (R511). -/
def thermalStep (level ok : Nat) (temp : Int) : Nat × Nat :=
  if 800 ≤ temp then (min 3 (level + 1), 0)
  else if temp ≤ 776 then (if ok + 1 = 8 then (level - 1, 0) else (level, ok + 1))
  else (level, 0)

/-- A sample of one quadrant shown in its registers, and its thermal level. -/
def sampleQuad (s : State) (xs : List QuadSample) (q : Nat) : State :=
  let x := xs.getD q ⟨0, 0, 0⟩
  let s := fset (fset (fset s (Fld.rpmQv_MV q) x.mv) (Fld.rpmQt_TEMP q) (wrapOf 16 x.temp)) (Fld.rpmQstr_STRETCH q) x.stretch
  modThrottle s q (fun t =>
    let r := thermalStep t.thermal t.thermalOk x.temp
    { t with thermal := r.1, thermalOk := r.2 })

/-- The issue cycles of every 16 that a throttle level withholds (R483). -/
def withheldOf (level : Nat) : Nat := [0, 1, 2, 4].getD level 4

/-- A quadrant's throttle withholds Lattice injection and vector issue in this cycle. Which of 16 cycles these are is not stated: the model takes the first ones. DESIGN CHOICE (log entry 56). -/
def withheld (s : State) (q : Nat) : Bool := decide (s.now % 16 < withheldOf (levelOf s q))

/-- A cycle in which a quadrant is under throttle is counted, for the registers and for the frame's records (R483, R485). -/
def countThrottle (s : State) (q : Nat) : State :=
  let skew := decide (0 < max (max (throttleOf s q).skew (throttleOf s q).thermal) s.repair.spineThermal)
  if levelOf s q = 0 then s else bump (modThrottle s q (fun t => { t with ran := if skew then t.ran + 1 else t.ran })) Fld.rpmCntThrot_COUNT 1

/-- RPM samples the quadrants (R482, R483, R511). -/
def execSkewSample (samples : List QuadSample) (spineTemp : Int) (s : State) : Res :=
  whenever (serving s) s
    (let s := (List.range 4).foldl (fun s q => sampleQuad s samples q) s
     let s := (List.range 4).foldl (fun s q => skewStep s (skewHits samples) q) s
     let r := thermalStep s.repair.spineThermal s.repair.spineOk spineTemp
     showThrottle (modRepair s (fun p => { p with spineThermal := r.1, spineOk := r.2 })))

/-- The contexts of a quadrant that run a task. -/
def quadTasks (s : State) (q : Nat) : List Who :=
  ((List.range 12).flatMap (fun i => [(⟨12 * q + i, 0⟩ : Who), ⟨12 * q + i, 1⟩])).filter (ctxBusy s)

/-- An excursion has lasted 26 000 cycles: the quadrant's tasks are aborted with OVERRUN, and none is released there until the limits have held for 8 samples (R484). -/
def execSkewOverrun (q : Nat) (s : State) : Res :=
  match (throttleOf s q).since with
  | none => .next s
  | some t =>
    whenever (serving s && decide (q < 4) && decide (t + 26000 ≤ s.now) && !(throttleOf s q).held) s
      (let ws := quadTasks s q
       let id := match ws with | [w] => taskId s w | _ => 0xFFFF
       let s := ws.foldl (fun s w => abortTask s w 7) (modThrottle s q (fun x => { x with held := true }))
       setFlag (errorRec (bump s Fld.rpmCntOverrun_COUNT ws.length) 4 11 q 14 id (throttleOf s q).quantity) Fld.rpmErr_SKEWOVERRUN)

/-- The power limit in force: 780 W, or the cap where that is lower (R427, R510). -/
def powerLimit (s : State) : Nat := if fon s Fld.mgtCap_WATTS then min 780 (fget s Fld.mgtCap_WATTS) else 780

/-- Package power compared with the limit (R485). -/
def execPowerCapSample (watts : Nat) (s : State) : Res :=
  whenever (serving s) s
    (let step (l : Nat) : Nat := if powerLimit s < watts then min 3 (l + 1) else if 20 * watts ≤ 19 * powerLimit s then l - 1 else l
     showThrottle ((List.range 4).foldl (fun s q => modThrottle s q (fun t => { t with power := step t.power })) s))

/-- The throttle records of a frame: cycles throttled in each quadrant, and by the power cap (R453, R483, R485). -/
def throttleRecs (s : State) : State :=
  let s := (List.range 4).foldl (fun s q => if (throttleOf s q).ran = 0 then s else errorRec s 4 11 q 13 0xFFFF (throttleOf s q).ran) s
  if s.repair.capRan = 0 then s else errorRec s 4 12 0 15 0xFFFF s.repair.capRan

/-- What the repair side resets at a tick: counts per frame, one frame less until a retraining runs as urgent. -/
def repairTick (s : State) : State :=
  modRepair s (fun r => { r with
    ceFacet := [], ceSlice := [], capRan := 0
    throttle := r.throttle.map (fun t => (t.1, { t.2 with ran := 0 }))
    shadow := r.shadow.map (fun x => (x.1, { x.2 with doneFrame := false }))
    due := r.due.map (fun d => (d.1, d.2 - 1)) })

/-! ### Corrected errors (R452) -/

/-- A corrected error counted in its unit's counters (R452, Table 17-1). -/
def countCorrected (s : State) (e : ErrorSite) : State :=
  match e with
  | .facet f => if f < 52 then noteFacetCe (event s (Fld.fctErr_CE f) (Fld.fctCntCe_COUNT f)) f else s
  | .fmem f => if f < 52 then noteFacetCe (event s (Fld.fmemErr_CE f) (Fld.fmemCntCe_COUNT f)) f else s
  | .slice a => if a < 0xC0000000 then noteSliceCe (event s Fld.stsErr_CE Fld.stsCntCe_COUNT) (sliceOfAddr a) else s
  | .far f =>
    let n := mapGet s.paging.frameCe f 0 + 1
    let s := bump (event s Fld.farErr_CE Fld.farCntCe_COUNT) (Fld.farChCe_COUNT (f % 16)) 1
    let s := modPaging s (fun p => { p with frameCe := mapPut p.frameCe f n })
    if fon s Fld.farRetireThr_THR ∧ fget s Fld.farRetireThr_THR ≤ n then dueRetire s f 2 else s
  | .table => event s Fld.cptErr_CE Fld.cptCntCe_COUNT
  | .merge => event s Fld.mrgErr_CE Fld.mrgCntCe_COUNT
  | .predictor => event s Fld.prdErr_CE Fld.prdCntCe_COUNT
  | .prism q => if q < 4 then setFlagBit (bump s Fld.prsCntCe_COUNT 1) Fld.prsErr_CE q else s
  | .facetStream f => if f < 52 then event s (Fld.strErr_CE f) (Fld.strCntCe_COUNT f) else s
  | .quadStream q => if q < 4 then setFlagBit s Fld.strQerr_CE q else s
  | .update q => if q < 4 then setFlagBit (bump s Fld.updCntCe_COUNT 1) Fld.updErr_CE q else s
  | .fec p n => if p < 8 then bump s (Fld.chdPCntFec_COUNT p) n else s

/-- A corrected error. -/
def execCorrectedError (site : ErrorSite) (s : State) : Res := whenever (serving s) s (countCorrected s site)

/-! ### Uncorrectable errors -/

/-- The flag of a facet array (Table 02-9). -/
def arrayFlag (f : Nat) : FacetArray → Field
  | .vector => Fld.fctErr_VECUE f
  | .cell => Fld.fctErr_CELLPAR f
  | .wab => Fld.fctErr_WABUE f
  | .staging => Fld.fctErr_STGUE f
  | .acc => Fld.fctErr_ACCUE f
  | .scalar => Fld.fctErr_SCALARUE f

/-- An array private to each half in split mode (Table 04-4). The vector unit stands neither in that table nor among the shared resources of R71: the model takes it, and the scalar core's arrays, for shared. DESIGN CHOICE (log entry 37). -/
def privateArray : FacetArray → Bool
  | .cell => true
  | .wab => true
  | .staging => true
  | .acc => true
  | _ => false

/-- An uncorrectable error in a facet array: the owning half's task aborts alone in split mode, else every task of the facet; SCALAR_UE and CELL_PAR declare the facet failed (R71, R458). -/
def execFacetUe (f : Nat) (array : FacetArray) (half : Nat) (s : State) : Res :=
  whenever (serving s && decide (f < 52) && decide (half < 2)) s
    (let lf := logicalOf s f
     let split := (lf.map (fun l => (facetOf s l).split)).getD false
     let one := split && privateArray array
     let s := bump (setFlag s (arrayFlag f array)) (Fld.fctCntUe_COUNT f) 1
     let s := fset (fset s (Fld.fctErrhalf_A f) (if !split ∨ half = 0 then 1 else 0)) (Fld.fctErrhalf_B f) (if !split ∨ half = 1 then 1 else 0)
     let id := match lf with
       | none => 0xFFFF
       | some l => if one then taskId s ⟨l, half⟩ else min (taskId s ⟨l, 0⟩) (taskId s ⟨l, 1⟩)
     let s := errorRec s 1 0 f 1 id 0
     let s := match lf with
       | none => s
       | some l => if one then abortTask s ⟨l, half⟩ 9 else abortFacet s l 9
     let keep := if one then some (1 - half) else none
     if array = .scalar ∨ array = .cell then failFacet s f keep else noteFacetUe s f keep)

/-- The task of a context aborted with HW_FAULT, if any. -/
def abortFinder (s : State) (w : Option Who) : State :=
  match w with
  | none => s
  | some w => abortTask s w 9

/-- The TASK_ID that an error record names. -/
def finderId (s : State) (w : Option Who) : Nat :=
  match w with
  | none => 0xFFFF
  | some w => taskId s w

/-- FCT_ERRHALF after an uncorrectable error that belongs to no one half: both bits, as in full-width mode after any (R71, Table 02-9). -/
def bothHalves (s : State) (f : Nat) : State := fset (fset s (Fld.fctErrhalf_A f) 1) (Fld.fctErrhalf_B f) 1

/-- An uncorrectable facet memory error (R71, R164). -/
def execFmemUe (f addr : Nat) (finder : Option Who) (s : State) : Res :=
  whenever (serving s && decide (f < 52) && decide (addr < 524288)) s
    (let s := fmemUeSeen s f addr
     let s := abortFinder (errorRec s 1 0 f 1 (finderId s finder) (addr / 4 * 4)) finder
     let s := bothHalves s f
     let s := match logicalOf s f with
       | none => s
       | some l => if (facetOf s l).split then abortFacet s l 9 else s
     noteFacetUe s f none)

/-- An uncorrectable State Store error (R186, R458). -/
def execStsUe (addr : Nat) (finder : Option Who) (s : State) : Res :=
  whenever (serving s && decide (addr < 0xC0000000)) s
    (let s := stsUeSeen s addr
     let s := abortFinder (errorRec s 1 1 (physSlice s (sliceOfAddr addr)) 1 (finderId s finder) addr) finder
     noteSliceUe s (sliceOfAddr addr))

/-- An uncorrectable far memory error: which 1 KiB block of the frame it lies in is left open (R193, R218). -/
def execFarUe (frame : Nat) (finder : Option Who) (s : State) : Res :=
  whenever (serving s && decide (frame < 2 ^ 24)) s
    (let s := fset (bump (bump (setFlag s Fld.farErr_UE) Fld.farCntUe_COUNT 1) (Fld.farChUe_COUNT (frame % 16)) 1) Fld.farUeFrame_FRAME frame
     let b := 16 * frame + (freshWord s).toNat % 16
     let s := drawn (modPaging s (fun p => { p with badBlocks := if p.badBlocks.contains b then p.badBlocks else p.badBlocks ++ [b] }))
     let s := abortFinder (errorRec s 1 2 (frame % 16) 1 (finderId s finder) frame) finder
     dueRetire s frame 1)

/-- Every context. -/
def allWho : List Who := (List.range 48).flatMap (fun l => [⟨l, 0⟩, ⟨l, 1⟩])

/-- The tasks of some contexts aborted with HW_FAULT, recorded once with the first. -/
def abortUsers (s : State) (unit index : Nat) (ws : List Who) : State :=
  let ws := ws.filter (ctxBusy s)
  let s := errorRec s 1 unit index 1 (finderId s ws.head?) 0
  ws.foldl (fun s w => abortTask s w 9) s

/-- A task of a context has a Merge job open, or a push outstanding: an MGPUSH that has started, or a stream's records on their way to a leaf (R146). -/
def mergeUser (s : State) (w : Who) : Bool :=
  s.jobs.any (fun j => decide (j.2.lf = w.lf) && decide (j.2.ctx = w.ctx) && decide ((ctxOf s w).task = some j.2.task) && !j.2.orphan && !j.2.closing)
    || (ctxOf s w).cmds.any (fun c => c.started.isSome && !c.ready && (match c.op with
      | .mgpush _ _ _ _ => true
      | _ => false))
    || (enginesOf w.lf).any (fun e => (engineOf s e).transfers.any (fun t => t.of w && t.merge.isSome && !t.recs.isEmpty))

/-- An uncorrectable Merge tree error (R146). -/
def execMergeUe (s : State) : Res :=
  whenever (serving s) s
    (let s := abortUsers (setFlag s Fld.mrgErr_UE) 7 0 (allWho.filter (mergeUser s))
     { s.jobs.foldl (fun s j => freeJob s j.1) s with portMerge := [], leafItems := [], earlyEnds := [] })

/-- An uncorrectable weight buffer error: the running query's task aborts, and both halves are invalid (R155). -/
def execPredictorUe (s : State) : Res :=
  whenever (serving s) s
    (let ws := match s.predictor.running, s.predictor.queue with
       | some .query, q :: _ => [(⟨q.lf, q.ctx⟩ : Who)]
       | _, _ => []
     let s := abortUsers (setFlag s Fld.prdErr_UE) 8 0 ws
     { s with predictor := { s.predictor with half0 := .empty, half1 := .empty } })

/-- An uncorrectable Prism error (R255). -/
def execPrismUe (q : Nat) (s : State) : Res :=
  whenever (serving s && decide (q < 4)) s
    (abortUsers (setFlagBit s Fld.prsErr_UE q) 4 q
      (allWho.filter (fun w => s.engines.any (fun e => e.2.transfers.any (fun t => t.of w && decide (t.quad = some q))))))

/-- An uncorrectable error in a facet's stream engine: every task with a stream open there aborts, and in split mode both halves' tasks do (R71, R256). -/
def facetStreamUe (s : State) (lf : Nat) (ws : List Who) : State :=
  let pf := physOf s lf
  let s := if pf < 52 then bothHalves (setFlag s (Fld.strErr_UE pf)) pf else s
  abortUsers s 0 pf (if (facetOf s lf).split then [⟨lf, 0⟩, ⟨lf, 1⟩] else ws)

/-- An uncorrectable stream engine error (R256): engines 0 to 47 are those of logical facets, 48 to 51 the quadrants'. -/
def execStreamEngineUe (e : Nat) (s : State) : Res :=
  whenever (serving s && decide (e < 52)) s
    (let ws := allWho.filter (fun w => (engineOf s e).streams.any (fun x => x.2.of w && decide (x.2.state = 1)))
     if e < 48 then facetStreamUe s e ws else abortUsers (setFlagBit s Fld.strQerr_UE (e - 48)) 5 (e - 48) ws)

/-- An uncorrectable Update unit error: the running command's task aborts, with a prefix written (R354). -/
def execUpdateUe (q : Nat) (s : State) : Res :=
  whenever (serving s && decide (q < 4)) s
    (abortUsers (setFlagBit s Fld.updErr_UE q) 6 q (((updateQueue s q).take 1).map (fun r => ⟨r.lf, r.ctx⟩)))

/-- An uncorrectable error in the page table or its cache (Table 07-7). -/
def execTableUe (w : Who) (s : State) : Res :=
  whenever (serving s) s (abortTask (errorRec (setFlag s Fld.cptErr_TABLEUE) 1 9 0 1 (taskId s w) 0) w 9)

end Sys2Proof.Machine
end

