-- ==== Sys2Proof/Machine/Reset.lean ====
section
/-! DEFINITION. The resets of the main domain (R497 to R500, Tables 18-4 and 18-5), what leaves and enters them (R430, R493 to R496), and fatal errors (R455). -/

namespace Sys2Proof.Machine

/-! ### What a reset keeps (Table 18-5) -/

/-- The four kinds of reset of the main domain, from the deepest on. A function reset is a Function Level Reset, or one that takes the link down (R497). -/
inductive ResetKind where
  | powerOn | main | function | flr
  deriving DecidableEq, Repr

/-- Address ranges, first and last. -/
def inRanges (rs : List (Nat × Nat)) (a : Nat) : Bool := rs.any (fun r => decide (r.1 ≤ a) && decide (a ≤ r.2))

/-- Registers of the standby domain: the blocks SEC and MGT but for the image key and the active image's digest, and configuration record fields 6 and 7 staged and committed (R448, R497). -/
def standbyReg (a : Nat) : Bool :=
  inRanges [(0xF0000, 0xF0003), (0xF0008, 0xF003F), (0xF00A0, 0xF0FFF), (0xEC058, 0xEC05F), (0xEC098, 0xEC09F)] a

/-- Registers that show what the flash holds: unit maps and the record of retired units, the Chord lanes in use, the retired far frames (R219, R470, Table 18-5). -/
def flashReg (a lo : Nat) : Bool :=
  inRanges [(0xE0100, 0xE091F), (0xB0024, 0xB0027)] a
    || (decide (0xC0100 ≤ a ∧ a < 0xC0300) && decide (a % 64 = 0) && decide (lo = 24))
    || (decide (0xB0100 ≤ a ∧ a < 0xB0500) && (decide (a % 64 = 12) || (decide (a % 64 = 0) && decide (lo = 8))))

/-- Registers that a main or function reset keeps beside those: the configuration record and what follows from it, the image key, valid permutations and owner tables, that the memories are zeroed, the state of the far channels. -/
def warmReg (a : Nat) : Bool :=
  isCounter a || inRanges [(0xF0004, 0xF0007), (0xF0040, 0xF007F), (0xEC040, 0xEC057), (0xEC080, 0xEC097), (0xEC0C0, 0xEC0DF), (0xC0014, 0xC0017),
      (0x50010, 0x5002F), (0xC0020, 0xC0027), (0xA0000, 0xA0003), (0xB0000, 0xB0003)] a
    || [Fld.fsqPeriod_PERIODUS.addr, Fld.fsqBudget_B.addr].contains a || (decide (0xB0100 ≤ a ∧ a < 0xB0500) && decide (a % 64 = 0))

/-- Registers that a function reset keeps beside those: coefficients of the Chord lanes, the host link and the far channels. -/
def functionReg (a : Nat) : Bool := inRanges [(0xD0100, 0xD03FF)] a

/-- Whether a reset keeps a register field. -/
def keepsReg (k : ResetKind) (key : Nat) : Bool :=
  let a := key / 32
  let cold := (standbyReg a && (decide (k ≠ .powerOn) || (!isCounter a && decide (key ≠ Fld.secStatus_UNOWNED.key)))) || flashReg a (key % 32)
  match k with
  | .powerOn => cold
  | .main => cold || warmReg a || decide (key = Fld.rpmCfgCmd_WAITING.key)
  | .function => cold || warmReg a || functionReg a || decide (key = Fld.rpmCfgCmd_WAITING.key)
  | .flr => cold || warmReg a || functionReg a || decide (key = Fld.rpmCfgCmd_WAITING.key) || decide (a = Fld.hifLink_SPEED.addr)

/-! ### The reset itself -/

/-- A migration that has not committed is abandoned: its page is no longer MIGRATING, the near frame it was to fill is released (R499). -/
def abandonMigrations (s : State) : State :=
  let es := (s.paging.migrations.flatMap (·.entries)).filter (·.running)
  let s := es.foldl (fun s e =>
    let p := pteOf s e.vpn
    let s := setPte s e.vpn (mkPte (pteState p) false (ptePinned p) (pteFormat p) (pteFrame p))
    if namesNear e.op then freeNear s e.near else s) s
  modPaging s (fun g => { g with migrations := [] })

/-- Every task stops at once, with no abort record; of the State Store writes under way a prefix is performed (R499). -/
def stopAllTasks (s : State) : State := allWho.foldl (fun s w => if ctxBusy s w then leavePartial s w else s) s

/-- Swaps that waited for a split half start now (R461). -/
def startDeferred (s : State) : State :=
  let pfs := s.repair.deferredFacets
  (pfs.filterMap (logicalOf s)).foldl startSwap (modRepair s (fun r => { r with deferredFacets := [] }))

/-- Repairs go on over a reset: facet swaps, slice copies from their first line, and over a function reset a retraining (R499). -/
def repairOver (k : ResetKind) (r : Repair) : Repair :=
  let warm := decide (k = .function ∨ k = .flr)
  { Repair.reset with
    swaps := r.swaps, pendingSwaps := r.pendingSwaps, slices := r.slices.map (fun x => { x with copied := false, poisoned := 0 })
    retrain := if warm then r.retrain else none, due := if warm then r.due else [], failsInRow := if warm then r.failsInRow else []
    outSlices := r.outSlices, slackLow := if warm then r.slackLow else [], eyeLow := if warm then r.eyeLow else [] }

/-- Context paging over a reset: the near-frame table is kept but over a power-on reset; what is retired stays retired (R198, R219). -/
def pagingOver (k : ResetKind) (p : Paging) : Paging :=
  if k = .powerOn then { Paging.reset with retired := p.retired, retireDue := p.retireDue, poolUsed := p.poolUsed }
  else { Paging.reset with near := p.near, retired := p.retired, retireDue := p.retireDue, poolUsed := p.poolUsed, badBlocks := p.badBlocks, badWords := p.badWords }

/-- The main domain's own state at a reset: everything lost but what the kind of reset keeps (Table 18-5). -/
def mainCleared (k : ResetKind) (s : State) : State :=
  let por := decide (k = .powerOn)
  let recs := if por then [] else s.seq.clampRecs
  { s with
    regs := s.regs.filter (fun e => keepsReg k e.1), fmem := [], imem := [], sts := if por then [] else s.sts, far := if por then [] else s.far
    seq := { Sequencer.reset with clampRecs := recs }, facets := [], engines := [], sems := [], links := [], semMsgs := [], grants := [], chans := [], jobs := []
    portMerge := [], leafItems := [], earlyEnds := [], predictor := .reset, updates := [], paging := pagingOver k s.paging, perms := if por then [] else s.perms, permLoad := none
    owners := if por then [] else s.owners, ownerLoad := none, ports := s.ports.map (fun p => (p.1, { Port.down with txLanes := p.2.txLanes }))
    reads := [], hif := .reset, clamps := if por then s.clamps.filter (fun c => decide (6 ≤ c.field)) else s.clamps, memOps := [], gates := [], wakes := []
    masks := [], repair := repairOver k s.repair }

/-- The main domain's state after a reset of a kind (Table 18-5). The fatal state ends with a Function Level Reset, or with the holds of `holdMain` (R455). -/
def resetMain (k : ResetKind) (s : State) : State :=
  let por := decide (k = .powerOn)
  let s := if por then s else abandonMigrations (stopAllTasks s)
  let s := startDeferred s
  let s := mainCleared k s
  let s := modPower s (fun p => { p with fatal := p.fatal && decide (k = .main ∨ k = .function) })
  let s := if por then s else (List.range 52).foldl (fun t f => fset t (Fld.cmpStatus_STRUCT f) (if s.repair.swaps.any (fun x => x.target = f) then 1 else 0)) s
  let s := if k = .main then (List.range 16).foldl (fun s d => if fget s (Fld.farChState_STATE d) = 2 then fset s (Fld.farChState_STATE d) 1 else s) s else s
  applyHostFields s

/-! ### Causes and holds (R426, R496, R500, R501) -/

/-- The host interface is held in reset, its link down, while a rail is down or PWR_GOOD4 has been high for less than 1 ms, PERST_N is low, or SET_OFFLINE holds the main domain (R426, R501). -/
def hifHold (s : State) : State :=
  let held := decide (s.power.good ≠ 15) || decide (s.now < s.power.hifAt) || !s.power.perstHigh || s.power.offlineReset || decide (s.power.phase = .off)
  let s := modPower s (fun p => { p with hifReset := held })
  if held then fset (fset s Fld.hifLink_SPEED 0) Fld.hifLink_WIDTH 0 else s

/-- The main domain's rails are up and its power-on reset has ended, though it may be in a main reset. -/
def pastPowerOn (s : State) : Bool :=
  match s.power.phase with
  | .off => false
  | .powerOn => false
  | .held first => !first
  | _ => true

/-- A main reset begins, or goes on under a further cause; a power-on reset that has not ended is only held (R496, R500). -/
def enterMainReset (s : State) : State :=
  match s.power.phase with
  | .off => hifHold s
  | .powerOn => hifHold s
  | .held true => hifHold s
  | .held false => hifHold (modPower s (fun p => { p with phase := .mainReset }))
  | .mainReset => hifHold s
  | _ => hifHold (modPower (resetMain .main s) (fun p => { p with phase := .mainReset, funcReset := none }))

/-- The highest bit set of four. -/
def highest (m : Nat) : Option Nat := [3, 2, 1, 0].find? (bitSet m)

/-- The groups that stay enabled when the highest one falls. -/
def withoutHighest (enabled : Nat) : Nat :=
  match highest enabled with
  | none => 0
  | some g => clearBit enabled g

/-- The main rails start to go down: the main domain is off, and the enable of the highest group falls (R494). -/
def startDown (s : State) : State :=
  let s := resetMain .powerOn s
  hifHold (modPower s (fun p => { p with
    phase := .off, funcReset := none, goingDown := decide (p.enabled ≠ 0), riseAt := none, dropStep := none, stepAt := s.now
    enabled := withoutHighest p.enabled }))

/-- The main domain is off, and only some groups are left enabled; where `step` is given the manager takes those down too, one after each such time. -/
def takenDown (s : State) (enabled : Nat) (step : Option Nat) : State :=
  hifHold (modPower (resetMain .powerOn s) (fun p => { p with
    phase := .off, funcReset := none, goingDown := false, riseAt := none, dropStep := if enabled = 0 then none else step, stepAt := s.now, enabled := enabled
    good := Nat.land p.good enabled, offlineReset := false }))

/-- Every main rail goes at once (R495, R512). -/
def dropRails (s : State) : State := takenDown s 0 none

/-- The manager takes every enabled group down by itself, highest first, `step` cycles apart (R493, R495). -/
def sequenceOff (s : State) (step : Nat) : State := takenDown s (withoutHighest s.power.enabled) (some step)

/-- The offline mode (Table 15-4). -/
def offlineMode (s : State) : Nat := fget s Fld.mgtStatus_OFFLINE

/-- The manager drives PWR_EN1 high while the offline mode is NONE and the rails are down (R493). -/
def startUp (s : State) : State :=
  if decide (offlineMode s = 0) && decide (s.power.enabled = 0) && !s.power.goingDown && s.power.mgmtUp then
    modPower s (fun p => { p with enabled := 1, stepAt := s.now })
  else s

/-- Modes RESET and POWER_OFF once no frame runs: the main domain is held in reset; in POWER_OFF its rails go down, after the step of a power-up that is under way (R426, R494, R496). -/
def holdMain (s : State) : State :=
  let s := modPower s (fun p => { p with stopReq := none, offlineReset := decide (p.phase ≠ .off) || decide (offlineMode s = 2) })
  let s := modPower (enterMainReset s) (fun p => { p with fatal := false })
  if offlineMode s = 3 ∧ s.power.phase ≠ .off then startDown s else s

/-- The frames have stopped: an offline mode that waited for that goes on. -/
def afterStop (s : State) : State := if s.power.stopReq.isSome then holdMain s else s

/-- A function reset begins (R397, R497); one that falls in another reset is ignored (R500). An offline mode that waited for frames to stop goes on. -/
def enterFunctionReset (k : ResetKind) (s : State) : State :=
  if serving s then afterStop (modPower (resetMain k s) (fun p => { p with funcReset := some s.now })) else s

/-! ### Fatal errors (R455, R505) -/

/-- A fatal error: every running task is aborted, none is released, RUN is cleared, the cause is recorded. -/
def declareFatal (s : State) (cause : Nat) : State :=
  let s := abortAll (modPower s (fun p => { p with fatal := true })) 9
  let s := fset (setFlag s Fld.rpmErr_FATAL) Fld.rpmFatal_CAUSE cause
  afterStop (modSeq (fset (errorRec s 5 (if cause = 4 then 10 else 13) 0 16 0xFFFF cause) Fld.fsqCtl_RUN 0) (fun q => { q with stopReq := false }))

/-- A fatal error is detected (R455). -/
def execFatalError (cause : Nat) (s : State) : Res := whenever (serving s && decide (1 ≤ cause) && decide (cause ≤ 5)) s (declareFatal s cause)

end Sys2Proof.Machine
end

