-- ==== Sys2Proof/Machine/Frame.lean ====
section
/-! DEFINITION. The Frame Sequencer (file 01): ticks (R18 to R26, R52), swaps (R33 to R36), session manifests (R39 to R41, R408), express windows (R42, R43, R409, R410), release (R287), the watchdog and the hard limit (R44, R45), the frame report and its ring (R47, R48, R53), reserved windows (R29). -/

namespace Sys2Proof.Machine

/-! ### Session manifests (R39 to R41, R408) -/

/-- A manifest entry passes R41 against its slot's entry in the slot table. -/
def manifestOk (i : Image) (e : List Byte) : Bool :=
  match i.slots.find? (fun x => x.slot = fieldOf e 0 2) with
  | none => false
  | some x =>
    decide (fieldOf e 4 4 ≤ x.maxIn) && decide (fieldOf e 0x18 4 ≤ x.maxOut) && decide (fieldOf e 8 8 % 64 = 0)
      && decide (fieldOf e 0x10 8 % 64 = 0) && decide (fieldOf e 2 1 < 4) && (sliceOf e 0x34 12).all (· == 0#8)

/-- FLAGS[0] of a manifest entry. -/
def entryActive (e : List Byte) : Bool := decide (fieldOf e 2 1 % 2 = 1)

/-- A manifest put in line: manifests stand in the order in which their commands arrived (R41, R403). -/
def addManifest (s : State) (m : Manifest) : State :=
  modSeq s (fun q => { q with
    manifests := q.manifests.filter (fun x => decide (x.cmd.arrival ≤ m.cmd.arrival)) ++ m :: q.manifests.filter (fun x => decide (m.cmd.arrival < x.cmd.arrival)) })

/-- The entries that the timely manifests of a frame give a slot, in order of arrival. -/
def slotEntries (s : State) (f n : Nat) : List (List Byte) :=
  ((s.seq.manifests.filter (fun m => m.frame = f)).flatMap (·.entries)).filter (fun e => decide (fieldOf e 0 2 = n))

/-- What the Frame Sequencer latches for a slot: the latest timely entry decides; a late command leaves an active entry alone and else reports the slot SKIPPED; entries lost in fetching make a slot without an accepted entry SKIPPED (R39, R41, R408). -/
def latchSlot (s : State) (i : Image) (f n : Nat) : SlotInfo :=
  let skipped := s.seq.skips.contains (f, n)
  let lost := s.seq.manifests.any (fun m => decide (m.frame = f) && m.short)
  match (slotEntries s f n).getLast? with
  | some e =>
    if skipped && !entryActive e then ⟨2, []⟩
    else if !manifestOk i e then ⟨3, e⟩
    else if entryActive e then ⟨0, e⟩ else ⟨1, e⟩
  | none => if skipped || lost then ⟨2, []⟩ else ⟨1, []⟩

/-- The slots latched for a frame. -/
def latch (s : State) (f : Nat) : State :=
  match s.seq.active with
  | none => modSeq s (fun q => { q with slots := [] })
  | some i => modSeq s (fun q => { q with slots := mapPuts [] (i.slots.map (fun x => (x.slot, latchSlot s i f x.slot))) })

/-- The entries of a MANIFEST command in host memory. -/
def manifestEntries (s : State) (c : HostCmd) : List (List Byte) := (List.range c.len).map (fun k => memReadN s.host (c.addr + 64 * k) 64)

/-- The slots of a late MANIFEST, each to keep an active entry or be SKIPPED (R39). -/
def skipSlots (s : State) (c : HostCmd) : State :=
  let es := manifestEntries s c
  modSeq (bump s Fld.fsqCntLate_COUNT 1) (fun q => { q with skips := q.skips ++ es.map (fun e => (c.frame, fieldOf e 0 2)) })

/-- A late MANIFEST completes with LATE (R39). -/
def lateManifest (s : State) (c : HostCmd) : State := complete (skipSlots s c) c 3 c.len c.frame

/-- A late MANIFEST that is carried out only after the tick of its frame: the slots that it names are latched afresh (R39). -/
def lateAfterTick (s : State) (c : HostCmd) : State := complete (latch (skipSlots s c) c.frame) c 3 c.len c.frame

/-- A MANIFEST that came in time, but of which no entry was fetched by the tick of its frame: its entries are lost (R408). -/
def lostManifest (s : State) (c : HostCmd) : State :=
  let s := addManifest (bump s Fld.fsqCntLate_COUNT 1) ⟨c, c.frame, c.len, [], true, true⟩
  complete (latch s c.frame) c 3 0 c.frame

/-- A MANIFEST by its target frame and its arrival (R39, R40). -/
def takeManifest (s : State) (c : HostCmd) : State :=
  if framesAhead s c.frame ≤ 1 then
    (if framesAhead s c.frame = 0 && afterCutoff s c.arrival then lateManifest s c
     else addManifest s ⟨c, c.frame, c.len, manifestEntries s c, false, false⟩)
  else if s.seq.inFrame ∧ c.frame = frameNo s ∧ c.arrival ≤ s.seq.lastTick ∧ s.seq.ran then
    (if pastCutoff s.seq.cutoff c.arrival then lateAfterTick s c else lostManifest s c)
  else complete s c 4 0 c.frame

/-- MANIFEST stands first in its queue pair. -/
def execManifestCmd (qp : Nat) (s : State) : Res :=
  match headCmd s qp 2 with
  | none => .next s
  | some c => whenever (serving s && s.hif.bme) s (takeManifest (popCmd s qp) c)

/-- One manifest changed. -/
def modManifest (s : State) (m : Manifest) (f : Manifest → Manifest) : State :=
  modSeq s (fun q => { q with manifests := q.manifests.map (fun x => if x.cmd = m.cmd then f x else x) })

/-- The fetch of the first manifest in line ends: with every entry, or at the tick of its frame with those fetched by then, the rest lost (R408). -/
def endFetch (s : State) (m : Manifest) (fetched : Nat) : State :=
  if fetched = m.count then complete (modManifest s m (fun x => { x with done := true, short := false })) m.cmd 0 m.count m.frame
  else
    let s := modManifest (bump s Fld.fsqCntLate_COUNT 1) m (fun x => { x with done := true, short := true, entries := x.entries.take fetched })
    complete (latch s m.frame) m.cmd 3 fetched m.frame

/-- A manifest's fetch ends. Before the tick of its frame that needs every entry. -/
def execManifestFetchEnd (fetched : Nat) (s : State) : Res :=
  match s.seq.manifests.find? (fun m => !m.done) with
  | none => .next s
  | some m =>
    let begun := s.seq.inFrame && decide (m.frame = frameNo s)
    whenever (serving s && s.hif.bme && decide (fetched ≤ m.count) && (begun || decide (fetched = m.count))) s (endFetch s m fetched)

/-- Only manifests of frames to come, and of the frame that begins, are kept. -/
def keepManifests (s : State) (f : Nat) : State :=
  modSeq s (fun q => { q with
    manifests := q.manifests.filter (fun m => decide ((m.frame + 2 ^ 32 - f) % 2 ^ 32 ≤ 2))
    skips := q.skips.filter (fun k => decide ((k.1 + 2 ^ 32 - f) % 2 ^ 32 ≤ 2)) })

/-! ### The frame report (R47, R48, R53, R454) -/

/-- The buffers of the report ring. -/
def ringBufs (s : State) : Nat := fget s Fld.fsqRptCfg_BUFS

/-- Whether a task of the frame serves a slot. -/
def TaskRec.serves (t : TaskRec) (n : Nat) : Bool :=
  decide (t.entry.kind ≠ 1) && decide (t.entry.slotFirst ≤ n) && decide (n < t.entry.slotFirst + t.entry.slotCount)

/-- A slot's status in the report and its USER word (R47, Table 01-8). -/
def slotStatus (s : State) (n : Nat) : Nat × Nat :=
  let x := mapGet s.seq.slots n ⟨1, []⟩
  let run := mapFind s.seq.expRuns n
  let user := match run with | some e => fieldOf e 0x30 4 | none => fieldOf x.entry 0x30 4
  if s.seq.tasks.any (fun t => t.serves n && decide (t.status = 1)) || s.seq.expAborted.contains n then (4, user)
  else if run.isSome then (0, user) else (x.status, user)

/-- A task record (Table 01-8). -/
def taskRecord (t : TaskRec) : List Byte :=
  leBytes 2 t.entry.id ++ leBytes 1 t.entry.lf ++ leBytes 1 t.status ++ leBytes 2 t.reason ++ leBytes 2 0 ++ leBytes 4 t.start ++ leBytes 4 t.stop

/-- A slot record (Table 01-8). -/
def slotRecord (s : State) (x : SlotEntry) : List Byte :=
  let r := slotStatus s x.slot
  leBytes 2 x.slot ++ leBytes 1 r.1 ++ leBytes 1 0 ++ leBytes 4 r.2

/-- A clamp record (R449). -/
def clampRecord (c : Clamp) : List Byte :=
  leBytes 1 c.field ++ leBytes 1 c.kind ++ leBytes 2 0 ++ leBytes 4 c.requested ++ leBytes 4 c.applied ++ leBytes 4 0

/-- The records of a report by group, in order. -/
def reportRecords (s : State) : List (Nat × List Byte) :=
  let slots := match s.seq.active with | none => [] | some i => i.slots
  s.seq.tasks.map (fun t => (0, taskRecord t)) ++ slots.map (fun x => (1, slotRecord s x))
    ++ s.seq.clampRecs.map (fun c => (2, clampRecord c)) ++ s.seq.errRecs.map (fun r => (3, r))

/-- The records that fit into `room` bytes, none after the first that does not. -/
def fitRecords (room : Nat) : List (Nat × List Byte) → List (Nat × List Byte)
  | [] => []
  | r :: rs => if r.2.length ≤ room then r :: fitRecords (room - r.2.length) rs else []

/-- The cycle at which the last task ended. -/
def lastEnd (s : State) : Nat := (s.seq.tasks.filter (fun t => t.status ≠ 2)).foldl (fun n t => max n t.stop) 0

/-- The report of the frame (Tables 01-7 and 01-8), cut after the last whole record that fits its buffer. -/
def reportBytes (s : State) : List Byte :=
  let all := reportRecords s
  let kept := fitRecords (1024 * fget s Fld.fsqRptCfg_BUFKIB - 64) all
  let n (g : Nat) : Nat := (kept.filter (fun r => r.1 = g)).length
  let body := kept.flatMap (·.2)
  let flags := ofBits [s.seq.synth, s.seq.swapped, decide (budget s < lastEnd s), s.seq.repairFlag, decide (kept.length < all.length)]
  leBytes 4 (frameNo s) ++ leBytes 4 (fget s Fld.fsqActiveId_ID) ++ leBytes 8 s.seq.tickTime ++ leBytes 4 (n 0) ++ leBytes 4 (n 1)
    ++ leBytes 2 (n 2) ++ leBytes 2 (n 3) ++ leBytes 4 flags ++ leBytes 4 (lastEnd s) ++ leBytes 4 s.seq.pmIn ++ leBytes 4 s.seq.pmOut
    ++ leBytes 4 s.seq.pmFail ++ leBytes 4 s.seq.pmCycles ++ leBytes 4 (64 + body.length) ++ leBytes 8 0 ++ body

/-- The host address of the buffer that the device fills next. -/
def ringAddr (s : State) : Nat :=
  fget s Fld.fsqRptBaseHi_BASE * 2 ^ 32 + fget s Fld.fsqRptBaseLo_BASE * 2 ^ 12 + fget s Fld.fsqRptHead_HEAD * 1024 * fget s Fld.fsqRptCfg_BUFKIB

/-- The report written into the next free buffer, or dropped and counted when none is free; fewer than two buffers disable reports (R48, R53). -/
def postReport (s : State) : State :=
  let n := ringBufs s
  if n < 2 then s
  else
    let h := (fget s Fld.fsqRptHead_HEAD + 1) % n
    if h = fget s Fld.fsqRptTail_TAIL then event s Fld.fsqEvents_RPTDROP Fld.fsqCntRptdrop_COUNT
    else sendVec (fset (hostWrite s (ringAddr s) (reportBytes s)) Fld.fsqRptHead_HEAD h) 0

/-- Frames end: RUN reads 0, no window is open, and no cycle counts from a tick any more (R52); an offline mode that waited for it goes on (R426). -/
def stopFrames (s : State) : State := afterStop (modSeq (fset s Fld.fsqCtl_RUN 0) (fun q => { q with stopReq := false, inFrame := false, winOpen := [] }))

/-- The frame's report, the records that belong in it, and the end of the run where a stop waits for it (R48, R52, R213, R483). -/
def writeReport (s : State) : State :=
  let s := postReport (throttleRecs (writeBackAll s))
  let s := modSeq s (fun q => { q with reported := true, clampRecs := [] })
  if s.seq.stopReq || !runOn s then stopFrames s else s

/-- No task of the frame can run any more: every task has ended, and each express window that waits has closed. -/
def tasksOver (s : State) : Bool :=
  s.seq.hardDone || s.seq.tasks.all (fun t => decide (t.phase = .ended) || (decide (t.phase = .waiting) && decide (t.entry.kind = 1) && decide (t.entry.release + t.entry.wcl ≤ tcyc s)))

/-- The frame report (R48). -/
def execFrameReport (s : State) : Res :=
  whenever (serving s && s.seq.inFrame && !s.seq.reported && tasksOver s && (s.seq.hardDone || !s.paging.migrations.any (migNow s))) s (writeReport s)

/-- A write to FSQ_RPT_TAIL: the buffers before it are free again; ignored out of the range from TAIL to HEAD (R53). -/
def execFsqRptTailWrite (tail : Nat) (s : State) : Res :=
  let n := ringBufs s
  let t := fget s Fld.fsqRptTail_TAIL
  let h := fget s Fld.fsqRptHead_HEAD
  let v := tail % 4096
  whenever (hostUp s && decide (v < n) && decide ((v + n - t) % n ≤ (h + n - t) % n)) s (fset s Fld.fsqRptTail_TAIL v)

/-- A write to a register of the ring sets it and empties the ring (R53). -/
def execFsqRptRingConfig (reg : RingReg) (value : Word) (s : State) : Res :=
  whenever (hostUp s) s
    (let v := value.toNat
     let s := match reg with
       | .baseLo => fset s Fld.fsqRptBaseLo_BASE (v / 2 ^ 12)
       | .baseHi => fset s Fld.fsqRptBaseHi_BASE v
       | .cfg => fset (fset s Fld.fsqRptCfg_BUFKIB (min 1024 (max 4 (v / 2 ^ 16)))) Fld.fsqRptCfg_BUFS (v % 4096)
     fset (fset s Fld.fsqRptHead_HEAD 0) Fld.fsqRptTail_TAIL 0)

/-! ### The hard limit (R45) -/

/-- Every task that runs is aborted with OVERRUN. -/
def limitRunning (s : State) : State := (s.seq.tasks.filter (fun t => t.phase = .running)).foldl (fun s t => abortOne s t.entry.id 7) s

/-- A task that was not released is not run: UPSTREAM where a task aborted in the frame produces for it, else OVERRUN; an express window without a request stays IDLE. -/
def limitWaiting (s : State) : State :=
  let gone := (s.seq.tasks.filter (fun t => decide (t.status = 1) && decide (t.phase = .ended))).map (·.entry.id)
  let down := gone.flatMap (downstream s)
  (s.seq.tasks.filter (fun t => t.phase = .waiting)).foldl (fun s t => abortOne s t.entry.id (if down.contains t.entry.id then 8 else 7)) s

/-- Cycle B + 52 000 of the frame: no task runs from here on, and the maintenance tail begins (R45, R464). -/
def atHardLimit (s : State) : State :=
  let lim := budget s + 52000
  let open_ := (s.seq.tasks.filter (fun t => t.phase ≠ .ended)).map (fun t => (t.entry.id, decide (t.phase = .waiting)))
  let s := limitWaiting (limitRunning s)
  let s := modSeq s (fun q => { q with hardDone := true, tasks := q.tasks.map (fun t =>
    match open_.find? (fun o => o.1 = t.entry.id) with
    | some o => if t.status = 1 then { t with stop := lim, start := if o.2 then lim else t.start } else t
    | none => t) })
  let s := if s.seq.tasks.any (fun t => decide (t.status = 1) && decide (t.reason = 7) && open_.any (fun o => o.1 = t.entry.id)) then setFlag s Fld.fsqEvents_OVERRUN else s
  maintenanceTail s

/-- The hard limit (R45). -/
def execHardLimit (s : State) : Res :=
  whenever (serving s && s.seq.inFrame && !s.seq.hardDone && decide (budget s + 52000 ≤ tcyc s)) s (atHardLimit s)

/-! ### Swaps (R33 to R36) -/

/-- The words of SEC_AIMG: the digest of the active image's control part. -/
def showImage (s : State) (i : Image) : State :=
  let d := sha256 i.control
  (List.range 8).foldl (fun s k => fset s (Fld.secAimg_DIGEST k) (ofBe (sliceOf d (4 * k) 4))) s

/-- A queued express request whose task the new image does not have as an express task completes with BAD_TASK (R410). -/
def dropExpress (s : State) (i : Image) : State :=
  let keep (r : ExpressReq) : Bool := i.tasks.any (fun t => decide (t.id = r.task) && decide (t.kind = 1))
  let gone := s.seq.express.filter (fun r => !keep r)
  gone.foldl (fun s r => complete s r.cmd 7 0 (frameNo s)) (modSeq s (fun q => { q with express := q.express.filter keep }))

/-- The pending image becomes active, and every facet's instruction memory is loaded from it (R33, R36). -/
def swapTo (s : State) (i : Image) : State :=
  let s := modSeq s (fun q => { q with active := some i, pendingImg := none, swapped := true })
  let s := fset (fset (fset s Fld.fsqStatus_PENDING 0) Fld.fsqStatus_ACTIVEVALID 1) Fld.fsqActiveId_ID i.id
  let s := fset (fset s Fld.fsqPendingId_ID 0) Fld.fsqSwap_REQ 0
  let s := (List.range 48).foldl (fun s l => if physOf s l < 52 then loadImem s l (physOf s l) else s) s
  applyAtSwap (dropExpress (showImage s i) i)

/-- The swap of a tick: requested in an earlier cycle, and admitted (R33). -/
def swapAtTick (s : State) : State :=
  match s.seq.pendingImg with
  | some i => if fon s Fld.fsqSwap_REQ && decide (pendingState s = 3) && decide (s.seq.swapAt < s.now) then swapTo s i else s
  | none => s

/-- A write of 1 to FSQ_SWAP.REQ (R33). -/
def execFsqSwapReq (s : State) : Res :=
  whenever (hostUp s && !fon s Fld.fsqSwap_REQ) s (modSeq (fset s Fld.fsqSwap_REQ 1) (fun q => { q with swapAt := s.now }))

/-- A write of 1 to FSQ_SWAP.CANCEL, with or without REQ (R33). -/
def execFsqSwapCancel (s : State) : Res := whenever (hostUp s) s (fset s Fld.fsqSwap_REQ 0)

/-! ### Ticks (R18 to R26) -/

/-- The initial state that a tick gives semaphores, channels, arrival counters, handles, Merge jobs and the Predictor (R26, R145, R148, R176, R233, R264). -/
def freshFrame (s : State) : State :=
  let i := s.seq.active
  let sems := match i with
    | none => []
    | some i => i.sems.map (fun p => (p.1, ({ count := p.2, waiters := [] } : Sem))) ++
        i.chans.flatMap (fun e => [(e.fullSem, Sem.zero), (e.emptySem, { count := 2 * e.slots, waiters := [] })])
  let s := bump s Fld.mrgCntDiscard_COUNT (treeRecords s)
  { s with
    sems := mapPuts [] sems, semMsgs := [], grants := []
    chans := mapPuts [] ((match i with | none => [] | some i => i.chans).map (fun (e : ChanEntry) => (e.key, Chan.fresh)))
    jobs := [], leafItems := [], earlyEnds := [], predictor := .reset, updates := [], engines := [], reads := []
    regs := s.regs.filter (fun e => !(List.range 52).any (fun f => decide ((Fld.fmemArr_COUNT f 0).key ≤ e.1) && decide (e.1 < (Fld.fmemArr_COUNT f 0).key + 64 * 128)))
    facets := s.facets.map (fun f => (f.1, { f.2 with tds := [] })) }

/-- The task records of a frame before any task is released; an express task is IDLE until a request runs (R43). -/
def frameTasks (s : State) : List TaskRec :=
  match s.seq.active with
  | none => []
  | some i => i.tasks.map (fun t => ⟨t, .waiting, if t.kind = 1 then 2 else 0, 0, 0, 0⟩)

/-- TICK fields sent on every ACTIVE port that FORWARD names, `ns` before the tick they announce (R387). -/
def sendTicks (s : State) (ns : Nat) : State :=
  ((List.range 8).filter (fun p => bitSet (fget s Fld.chdTickctl_FORWARD) p && decide (fget s (Fld.chdPState_STATE p) = 5))).foldl
    (fun s p => emit s (.control p 1 (ns % 2 ^ 32))) s

/-- What a frame that ends at this tick still owes: its hard limit and its report (R45, R48, R213). -/
def closeFrame (s : State) : State :=
  if s.seq.inFrame && !s.seq.reported then writeReport (if s.seq.hardDone then s else atHardLimit s) else s

/-- The tick at cycle `t` starts the next frame: the prologue (R26, R29, R33, R36, R39, R41, R445, R463, R465, R506). -/
def startFrame (s : State) (t : Nat) : State :=
  let f := nextFrame s
  let s := modSeq s (fun q => { q with
    cutoff := cutoffOf s, inFrame := true, lastTick := t, firstTick := false, tasks := [], winOpen := [], pmIn := 0, pmOut := 0, pmFail := 0, pmCycles := 0
    errRecs := [], hardDone := false, reported := false, swapped := false, repairFlag := false, synth := false, ran := true
    srcChanged := decide (srcOf (fget s Fld.fsqTickctl_SRC) ≠ q.src), src := srcOf (fget s Fld.fsqTickctl_SRC), expRuns := [], expAborted := [] })
  let s := modPaging (fset s Fld.fsqFrame_FRAME f) (fun p => { p with retiredNow := 0, frameCe := [], pausedAt := [] })
  let s := applyAtTick (swapAtTick (prologueMaps (repairTick s)))
  let s := latch (keepManifests (freshFrame s) f) f
  let s := modSeq s (fun q => { q with tasks := frameTasks s, tickTime := tickNs s t })
  let s := emit s .tickOut
  if fon s Fld.chdTickctl_FOLLOW then s else sendTicks s (1000 * fget s Fld.fsqPeriod_PERIODUS)

/-- A tick ends the frame before it, and starts the next unless a stop waited for that end (R52). -/
def beginFrame (s : State) (t : Nat) : State :=
  let s := closeFrame s
  if runOn s then startFrame s t else s

/-- The internal timer, or while PTM time is unavailable the PTM-aligned timer, reaches the end of a period (R18, R20, R22). -/
def execInternalTimerTick (s : State) : Res :=
  let lost := decide (s.seq.src = 2) && !fon s Fld.hifPtmstat_VALID
  let due := if s.seq.firstTick then (if s.seq.src = 2 then s.seq.runAt + period s else s.now) else s.seq.lastTick + period s
  whenever (ticking s && (decide (s.seq.src = 0) || lost) && decide (due ≤ s.now) && decide (s.seq.runAt < s.now)) s (beginFrame s due)

/-- The fourth made tick in a row falls back to the internal timer (R21). -/
def tickLost (s : State) : State :=
  if s.seq.madeTicks < 4 then s
  else setFlag (modSeq (fset s Fld.fsqTickctl_SRC 0) (fun q => { q with src := 0, srcChanged := true, madeTicks := 0 })) Fld.fsqEvents_TICKLOST

/-- The Frame Sequencer makes the tick itself at the latest cycle (R21, R52). -/
def makeTick (s : State) : State :=
  let n := s.seq.madeTicks + 1
  let s := beginFrame (event s Fld.fsqEvents_TICKMISSED Fld.fsqCntMissed_COUNT) (latestTick s)
  if runOn s then tickLost (modSeq s (fun q => { q with synth := true, madeTicks := n })) else s

/-- An edge in a frame whose latest cycle has not passed: a tick, or early (R21). -/
def takeEdge (s : State) : State :=
  if s.now < earliestTick s then event s Fld.fsqEvents_TICKEARLY Fld.fsqCntEarly_COUNT
  else beginFrame (modSeq s (fun q => { q with madeTicks := 0 })) s.now

/-- An edge of TICK_IN: the ticks that the Frame Sequencer had to make before it came stand first, at most the four that end the use of TICK_IN (R21). -/
def edgeArrives (s : State) : Nat → State
  | 0 => s
  | n + 1 => if !ticking s || decide (s.seq.src ≠ 1) then s else if latestTick s < s.now then edgeArrives (makeTick s) n else takeEdge s

/-- A rising edge of TICK_IN, or of the place that a TICK field gave it (R18, R21, R52, R387). -/
def execTickInEdge (s : State) : Res :=
  let placed := match s.seq.edgeAt with | some t => decide (t ≤ s.now) | none => false
  whenever (ticking s && decide (s.seq.src = 1) && (!fon s Fld.chdTickctl_FOLLOW || placed)) s
    (edgeArrives (if fon s Fld.chdTickctl_FOLLOW then modSeq s (fun q => { q with edgeAt := none }) else s) 5)

/-- The PTM-aligned timer's tick for the grid point it aims at, in PTM nanoseconds, and the error that remains to that point (R18, R22). -/
def execPtmGridTick (point : Int) (s : State) : Res :=
  whenever (decide (point = gridTarget s) && ticking s && decide (s.seq.src = 2) && fon s Fld.hifPtmstat_VALID && decide (ptmDue s ≤ s.now)) s
    (beginFrame (modSeq (fset s Fld.fsqPtmerr_ERRNS (ptmError s (ptmDue s))) (fun q => { q with madeTicks := 0 })) (ptmDue s))

/-- No edge has come by the latest time: the Frame Sequencer makes the tick (R21, R52). -/
def execTickSynth (s : State) : Res := whenever (ticking s && decide (s.seq.src = 1) && decide (latestTick s ≤ s.now)) s (makeTick s)

/-- A write to FSQ_TICKCTL.SRC: in force after the next tick, or with the next start while no frames run (R23). -/
def execFsqTickctlWrite (src : Nat) (s : State) : Res := whenever (hostUp s) s (fset s Fld.fsqTickctl_SRC src)

/-- Writes of 1 to RUN are ignored: the manager holds the main side offline, or a fatal error stopped it (R426, R455). -/
def runIgnored (s : State) : Bool := decide (fget s Fld.mgtStatus_OFFLINE ≠ 0) || s.power.fatal

/-- RUN becomes 1 (R52). -/
def startRun (s : State) : State :=
  modSeq (fset s Fld.fsqCtl_RUN 1) (fun q => { q with
    runAt := s.now, firstTick := true, stopReq := false, madeTicks := 0, src := srcOf (fget s Fld.fsqTickctl_SRC), srcChanged := false, edgeAt := none })

/-- A write of 1 to RUN: frames start, or a stop is cancelled (R52). -/
def execRunStart (s : State) : Res :=
  whenever (hostUp s && !runIgnored s) s (if runOn s then modSeq s (fun q => { q with stopReq := false }) else startRun s)

/-- RUN is asked to become 0: with the last report written, or no frame begun, it does at once; else with the report of the frame under way (R52). -/
def stopRun (s : State) : State :=
  if !runOn s then s
  else if s.seq.inFrame && !s.seq.reported then modSeq s (fun q => { q with stopReq := true })
  else stopFrames s

/-- A write of 0 to RUN (R52). -/
def execRunStop (s : State) : Res := whenever (hostUp s) s (stopRun s)

/-! ### Release (R54, R55, R287, R460) -/

/-- The watchdog limit of a task (R44). -/
def wdogOf (s : State) (t : TaskEntry) : Nat :=
  if t.wdog ≠ 0 then t.wdog else lengthOf t + lengthOf t * cfgForce s 3 / 8

/-- The buffers of a facet hold unspecified values from here on; those of a half whose task still runs are left to it (R55). -/
def clearBuffers (s : State) (t : TaskEntry) : State :=
  renewBuffers s t.lf (decide (t.who.ctx = 0) || !ctxBusy s ⟨t.lf, 0⟩) (decide (t.who.ctx = 1) || !ctxBusy s ⟨t.lf, 1⟩)

/-- A task starts on its context at ENTRY, every register 0 (R287). -/
def startTask (s : State) (t : TaskEntry) (x : Option ExpressReq) : State :=
  let s := clearBuffers s t
  let s := modCtx s t.who (fun _ => { Ctx.idle with
    task := some t.id, pc := t.entry, free := s.now, start := tcyc s, startNow := s.now, wdog := wdogOf s t, storeAt := 0, express := x })
  modTask s t.id (fun r => { r with phase := .running, status := 0, start := tcyc s })

/-- A task's context is free for it: no task runs there, and a release that is late waits for the cycle after the earlier task's end (R287). -/
def ctxFreeFor (s : State) (t : TaskEntry) : Bool :=
  !ctxBusy s t.who && (decide (tcyc s ≤ t.release) ||
    s.seq.tasks.all (fun r => decide (r.phase ≠ .ended) || decide (r.entry.who ≠ t.who) || decide (r.status = 2) || decide (r.stop < tcyc s)))

/-- Releases are made on a facet: it is neither isolated for a swap nor about to be (R459 to R461). -/
def facetOpen (s : State) (lf : Nat) : Bool := !heldFacet s lf && !deferred s lf

/-- Tasks may be released in the frame. -/
def releasing (s : State) : Bool := serving s && s.seq.inFrame && !s.seq.hardDone && !s.power.fatal

/-- No task of the same context waits that is due earlier. -/
def nextInLine (s : State) (t : TaskEntry) : Bool :=
  s.seq.tasks.all (fun r => decide (r.phase ≠ .waiting) || decide (r.entry.kind = 1) || decide (r.entry.who ≠ t.who) || decide (t.release ≤ r.entry.release))

/-- What the release of a task does: it starts; on a logical facet without a physical one it is aborted (R462), on a quadrant held outside the skew limits likewise (R484); a shadow check may start with it (R475). -/
def release (s : State) (t : TaskEntry) : State :=
  if physOf s t.lf = 0x3F then abortId s t.id 9
  else if (throttleOf s (quadOf t.lf)).held then abortId s t.id 7
  else shadowStart (startTask s t none) t

/-- A task is released (R287). -/
def execTaskRelease (task : Nat) (s : State) : Res :=
  match taskRec s task with
  | none => .next s
  | some r =>
    whenever (releasing s && decide (r.phase = .waiting) && decide (r.entry.kind ≠ 1) && decide (r.entry.release ≤ tcyc s) && decide (2048 ≤ tcyc s)
      && nextInLine s r.entry && ctxFreeFor s r.entry && facetOpen s r.entry.lf) s (release s r.entry)

/-- A task's watchdog limit expires (R44, R457). -/
def execStallWatchdog (w : Who) (s : State) : Res :=
  let c := ctxOf s w
  whenever (ctxBusy s w && decide (c.startNow + c.wdog + repairTime s ≤ s.now)) s (abortTask s w 5)

/-! ### Express windows (R42, R43, R409 to R411) -/

/-- The express task of the active image with a TASK_ID. -/
def expressTask (s : State) (id : Nat) : Option TaskEntry :=
  match s.seq.active with
  | none => none
  | some i => i.tasks.find? (fun t => decide (t.id = id) && decide (t.kind = 1))

/-- The slot's entry in the slot table carries the express flag. -/
def expressSlot (s : State) (n : Nat) : Bool :=
  match s.seq.active with
  | none => false
  | some i => i.slots.any (fun x => decide (x.slot = n) && decide (x.flags % 2 = 1))

/-- A request header breaks R409. -/
def expressBad (r : List Byte) : Bool :=
  decide (fieldOf r 0 1 ≠ 3) || decide (fieldOf r 1 1 ≠ 0) || !(sliceOf r 8 56).all (· == 0#8) || decide (fieldOf r 6 2 ≠ fieldOf r 64 2)

/-- The status with which a request is refused, 0 when it is queued (R410). -/
def expressCheck (s : State) (r : List Byte) : Nat :=
  let id := fieldOf r 4 2
  let ok := match s.seq.active with | none => false | some i => manifestOk i (r.drop 64)
  if expressBad r then 9
  else if (expressTask s id).isNone || !expressSlot s (fieldOf r 6 2) then 7
  else if !ok then 8
  else if 8 ≤ (s.seq.express.filter (fun x => x.task = id)).length then 5
  else 0

/-- A request arrives with its place in the completion queue reserved (R410, R411). It stands in no submission ring, and so it keeps no entry. -/
def takeExpress (s : State) (q : Nat) (r : List Byte) : State :=
  let c : HostCmd := ⟨q, (qpOf s q).gen, fieldOf r 2 2, 0, [], s.now⟩
  let s := modQp (bump s Fld.hifCntCmd_COUNT 1) q (fun p => { p with reserved := p.reserved + 1, live := p.live + 1 })
  let st := expressCheck s r
  if st = 0 then modSeq s (fun x => { x with express := x.express ++ [⟨c, fieldOf r 4 2, fieldOf r 6 2, r.drop 64⟩] })
  else complete s c st 0 (frameNo s)

/-- A request arrives: discarded where its pair is not READY or has no free place (R411). -/
def arriveExpress (s : State) (q : Nat) (r : List Byte) : State :=
  if qpState s q ≠ 1 ∨ cqFree s q = false then event s Fld.hifErr_XDROP Fld.hifCntXdrop_COUNT else takeExpress s q r

/-- The requests whose cycle of arrival this is arrive, by queue pair (R403). -/
def expressCycle (s : State) : State :=
  let due := sortBy (·.2.1) (s.hif.expressIn.filter (fun x => decide (x.1 ≤ s.now)))
  if due.isEmpty then s
  else due.foldl (fun s x => if hostUp s then arriveExpress s x.2.1 x.2.2 else s) (modHif s (fun h => { h with expressIn := h.expressIn.filter (fun x => decide (s.now < x.1)) }))

/-- A write to an express window: a request that arrives 26 cycles later (R400, R403, R409). -/
def execExpressRequest (qp : Nat) (request : List Byte) (s : State) : Res :=
  whenever (hostUp s && decide (qp < 64)) s
    (if request.length ≠ 128 then hostErr s 1 true (qp * 0x1000 + 0x100) request.length 7
     else modHif s (fun h => { h with expressIn := h.expressIn ++ [(s.now + 26, qp, request)] }))

/-- An express task starts for the first request in its queue, where the window still holds its XWCL (R42). -/
def execExpressDispatch (task : Nat) (s : State) : Res :=
  match taskRec s task, s.seq.express.find? (fun x => x.task = task) with
  | some r, some x =>
    let t := r.entry
    whenever (releasing s && decide (r.phase = .waiting) && decide (t.kind = 1) && decide (expressStart s t x ≤ tcyc s)
        && decide (tcyc s + t.xwcl ≤ t.release + t.wcl) && ctxFreeFor s t && facetOpen s t.lf) s
      (let s := modSeq s (fun q => { q with express := dropFirst (fun y => decide (y.task = task)) q.express, expRuns := mapPut q.expRuns x.slot x.entry })
       if physOf s t.lf = 0x3F ∨ (throttleOf s (quadOf t.lf)).held then
         abortId (startTask s t (some x)) t.id (if physOf s t.lf = 0x3F then 9 else 7)
       else startTask s t (some x))
  | _, _ => .next s

/-! ### Reserved windows (R29) -/

/-- A reserved window opens: a Protractor window may carry a routine retraining of a channel it claims (R29, R468). -/
def execReservedWindowOpen (i : Nat) (s : State) : Res :=
  match (windows s)[i]? with
  | none => .next s
  | some w =>
    whenever (serving s && s.seq.inFrame && !s.seq.winOpen.contains i && decide (w.t0 ≤ tcyc s) && decide (tcyc s < w.t1)) s
      (let s := modSeq s (fun q => { q with winOpen := q.winOpen ++ [i] })
       if w.kind = 1 then routineRetrain s w.channels (w.t1 - tcyc s) else s)

/-- A reserved window closes (R29). -/
def execReservedWindowClose (i : Nat) (s : State) : Res :=
  match (windows s)[i]? with
  | none => .next s
  | some w => whenever (s.seq.winOpen.contains i && decide (w.t1 ≤ tcyc s)) s 
    (modSeq (if w.kind = 0 then closeMover s w else s) (fun q => { q with winOpen := q.winOpen.filter (· ≠ i) }))

end Sys2Proof.Machine
end

