-- ==== Sys2Proof/Machine/Chord.lean ====
section
/-! DEFINITION. Chord ports (file 13): bring-up (R358, R359), control fields (R361, R387, R388), flits and replay (R362 to R365), credits (R367), packets received, forwarded and sent (R369 to R378, R382 to R386), owner tables (R379). -/

namespace Sys2Proof.Machine

/-! ### Port states -/

/-- STATE of a port (Table 13-2). -/
def portState (s : State) (p : Nat) : Nat := fget s (Fld.chdPState_STATE p)

/-- The part serves and the port exists. -/
def portThere (s : State) (p : Nat) : Bool := serving s && decide (p < 8)

/-- A port in a state of Table 13-2. -/
def portIn (s : State) (p st : Nat) : Bool := portThere s p && decide (portState s p = st)

/-- A port enters a state. -/
def enterPort (s : State) (p st : Nat) : State := modPort (fset s (Fld.chdPState_STATE p) st) p (fun x => { x with since := s.now })

/-- The time limit of a bring-up state, in cycles (Table 13-2). -/
def portLimit (st : Nat) : Nat := if st = 2 then cyclesOf 50000 else if st = 4 then cyclesOf 10 else cyclesOf 1000

/-- A port is in a bring-up state and its time has not run out. -/
def portWithin (s : State) (p st : Nat) : Bool := portIn s p st && decide (s.now ≤ (portOf s p).since + portLimit st)

/-- The tasks that lose something with a port: those of its queued packets and of the READs that are to be answered on it (R377). -/
def portTasks (s : State) (p : Nat) : List Who :=
  ((portOf s p).txq.filter (fun t => decide (t.task ≠ 0xFFFF) && decide ((ctxOf s ⟨t.lf, t.ctx⟩).task = some t.task))).map (fun t => ⟨t.lf, t.ctx⟩)
    ++ (s.reads.filter (fun r => decide (r.2.port = p) && decide ((ctxOf s ⟨r.2.lf, r.2.ctx⟩).task = some r.2.task))).map (fun r => ⟨r.2.lf, r.2.ctx⟩)

/-- A port ends in a state in which no flit flows. Leaving ACTIVE discards its queued packets, fails its READs and aborts the tasks that lose something; the credits of packets that it should have forwarded are owed (R377). Received packets stay, lanes stay as they are. -/
def leavePort (s : State) (p st : Nat) : State :=
  let was := portState s p
  let x := portOf s p
  let tasks := portTasks s p
  let s := enterPort s p st
  let s := modPort s p (fun _ => { Port.down with since := s.now, rxPackets := x.rxPackets, txLanes := x.txLanes })
  if was ≠ 5 then s
  else
    let s := { s with reads := s.reads.filter (fun r => r.2.port ≠ p) }
    let s := (x.txq.filter (fun t => t.forwarded && decide (t.transfer ≠ p))).foldl (fun s t => oweCredits s t.transfer t.bytes) s
    tasks.foldl (fun s w => abortTask s w 9) (setFlag s Fld.chdErr_PORTDOWN)

/-- A bring-up step fails: DOWN, with its reason, to start again after 1 ms (R358). -/
def failPort (s : State) (p reason : Nat) : State :=
  modPort (fset (leavePort s p 0) (Fld.chdPState_REASON p) reason) p (fun x => { x with failedAt := some s.now })

/-- A control field sent on a port (Table 13-3). -/
def sendControl (s : State) (p kind arg : Nat) : State := emit s (.control p kind (arg % 2 ^ 32))

/-- Initial credits of a virtual channel (Table 13-5). -/
def initialCredits (vc : Nat) : Nat := if vc = 0 then 256 else 6144

/-- A write of 1 to ENABLE (R358). -/
def execPortEnable (p : Nat) (s : State) : Res :=
  whenever (hostUp s && decide (p < 8) && !fon s (Fld.chdPCtl_ENABLE p)) s (enterPort (fset s (Fld.chdPCtl_ENABLE p) 1) p 1)

/-- A write of 0 to ENABLE (R358, R377). -/
def execPortDisable (p : Nat) (s : State) : Res :=
  whenever (hostUp s && decide (p < 8) && fon s (Fld.chdPCtl_ENABLE p)) s (leavePort (fset s (Fld.chdPCtl_ENABLE p) 0) p 0)

/-- Every lane has its partner's signal (Table 13-2). -/
def execSignalDetected (p : Nat) (s : State) : Res := whenever (portWithin s p 1) s (enterPort s p 2)

/-- The equalisers are adapted (Table 13-2). -/
def execTrainDone (p : Nat) (s : State) : Res := whenever (portWithin s p 2) s (enterPort s p 3)

/-- Lane order, skew and pair boundaries are found: the port sends its version, identifier and credits (R359, Table 13-3). -/
def execAlignDone (p : Nat) (s : State) : Res :=
  whenever (portWithin s p 3) s
    ([0, 1, 2].foldl (fun s vc => sendControl s p 6 (1 + 2 ^ 8 * chipId s + 2 ^ 16 * (vc * 2 ^ 14 + initialCredits vc))) (enterPort s p 4))

/-- A bring-up state runs out its time; EXCHANGE has no REASON of its own for that (R358, Table 13-2). -/
def execBringupTimeout (p : Nat) (s : State) : Res :=
  let st := portState s p
  whenever (portThere s p && decide (1 ≤ st ∧ st ≤ 4) && decide ((portOf s p).since + portLimit st ≤ s.now)) s
    (if st = 4 then drawn (failPort s p (freshWord s).toNat) else failPort s p st)

/-- 1 ms after a failure an enabled port starts again (R358). -/
def execBringupRetry (p : Nat) (s : State) : Res :=
  match (portOf s p).failedAt with
  | none => .next s
  | some t => whenever (portIn s p 0 && fon s (Fld.chdPCtl_ENABLE p) && decide (t + cyclesOf 1000 ≤ s.now)) s
      (enterPort (modPort s p (fun x => { x with failedAt := none })) p 1)

/-- An EXCHANGE field is checked; with the credits of all three channels the delay is probed (R359). -/
def execExchange (p version chip vc credits : Nat) (s : State) : Res :=
  whenever (portWithin s p 4) s
    (if version ≠ 1 then failPort s p 4
     else if chip % 64 = chipId s then failPort s p 5
     else
       let s := modPort (fset s (Fld.chdPState_PARTNER p) chip) p (fun x =>
         { x with credits := updAt x.credits vc (fun _ => credits), exchanged := if vc < 3 ∧ !x.exchanged.contains vc then x.exchanged ++ [vc] else x.exchanged })
       if (portOf s p).exchanged.length = 3 ∧ (portOf s p).probe = none then
         sendControl (modPort s p (fun x => { x with probe := some s.now })) p 4 (s.now % 2 ^ 16)
       else s)

/-- A DELAY_PROBE is echoed (R359, Table 13-3). -/
def execDelayProbe (p stamp : Nat) (s : State) : Res :=
  whenever (portIn s p 4 || portIn s p 5) s (sendControl s p 5 (stamp % 2 ^ 16))

/-- The echo of the port's probe: the delay is half the time it took, in units of 0.1 ns, and the port is ACTIVE (R359). -/
def execDelayEcho (p stamp : Nat) (s : State) : Res :=
  match (portOf s p).probe with
  | none => .next s
  | some t => whenever (portWithin s p 4 && decide (stamp % 2 ^ 16 = t % 2 ^ 16)) s
      (modPort (enterPort (fset s (Fld.chdPDelay_DELAY p) (min 65535 ((s.now - t) * 10000 / 1300 / 2))) p 5) p (fun x => { x with probe := none }))

/-- A TICK field on the port followed places the next TICK_IN edge, and goes on to the ports that FORWARD names (R387). -/
def execTickField (p arg : Nat) (s : State) : Res :=
  let ns := arg % 2 ^ 32
  whenever (portIn s p 5 && fon s Fld.chdTickctl_FOLLOW && decide (fget s Fld.chdTickctl_PORT = p)) s
    (let at_ := s.now + (10 * ns * 1300 - 1300 * fget s (Fld.chdPDelay_DELAY p)) / 10000
     let s := modSeq s (fun q => { q with edgeAt := some at_ })
     ((List.range 8).filter (fun o => bitSet (fget s Fld.chdTickctl_FORWARD) o && portActive s o)).foldl
       (fun s o => sendControl s o 1 (nsOf (at_ - s.now))) s)

/-! ### Flits (Table 13-4) -/

/-- A flit without its CRC is closed by it. -/
def sealFlit (body : List Byte) : List Byte := body ++ leBytes 4 (crc32c body)

/-- The ACK field that a port sends: NAK, ACK_VALID, and the last sequence number accepted (R363). -/
def ackField (x : Port) : Nat := (if x.nak then 2 ^ 15 else 0) + (if x.rxAny then 2 ^ 14 else 0) + x.rxLast % 4096

/-- A flit: its KIND, sequence number, ACK field, the credits it returns, FIRST and payload. -/
def flitOf (kind seq ack vc units first : Nat) (payload : List Byte) : List Byte :=
  sealFlit (leBytes 2 (kind * 4096 + seq % 4096) ++ leBytes 2 ack ++ leBytes 4 (vc * 2 ^ 30 + units % 2 ^ 16) ++ leBytes 1 first ++ leBytes 3 0
    ++ sliceOf payload 0 240)

/-- The credits that the next flit returns: of the next virtual channel in turn that is owed some (R367). -/
def takeOwed (x : Port) : Port × Nat × Nat :=
  match ([0, 1, 2].map (fun i => (x.owedTurn + i) % 3)).find? (fun v => x.owed.getD v 0 ≠ 0) with
  | none => (x, 0, 0)
  | some v =>
    let n := min 65535 (x.owed.getD v 0)
    ({ x with owed := updAt x.owed v (· - n), owedTurn := (v + 1) % 3 }, v, n)

/-- A DATA flit sent with the next sequence number, kept for replay (R363). -/
def sendData (s : State) (p first : Nat) (payload : List Byte) : State :=
  let (x, vc, n) := takeOwed (portOf s p)
  let f := flitOf 1 x.txSeq (ackField x) vc n first payload
  let s := modPort s p (fun _ => { x with
    replay := x.replay ++ [⟨x.txSeq, f, 1⟩], txSeq := (x.txSeq + 1) % 4096, ackAt := if x.replay.isEmpty then s.now else x.ackAt })
  emit (bump s (Fld.chdPCntTx_COUNT p) 1) (.flit p f)

/-- An IDLE flit sent, with an ACK and credits and no sequence number (R363, R367). -/
def sendIdle (s : State) (p : Nat) : State :=
  let (x, vc, n) := takeOwed (portOf s p)
  let s := modPort s p (fun _ => { x with idle := if n = 0 then x.idle else x.idle ++ [((x.txSeq + 4095) % 4096, vc, n)] })
  emit s (.flit p (flitOf 0 0 (ackField x) vc n 15 []))

/-- IDLE flits that carry every credit owed (R367). -/
def sendCredits (s : State) (p : Nat) : State :=
  if !portActive s p then s
  else (List.range 3).foldl (fun s _ => if (portOf s p).owed.any (· ≠ 0) then sendIdle s p else s) s

/-- What a flit acknowledges at once, by an IDLE flit. -/
def sendAck (s : State) (p : Nat) : State := sendCredits (sendIdle s p) p

/-- Sequence number `b` comes no later than `a`, within a replay buffer's length (R363). -/
def upTo (a b : Nat) : Bool := decide ((a + 4096 - b) % 4096 < 2048)

/-- An acknowledgement up to `a`: the flits up to it are released, and the credits that IDLE flits before it carried have arrived (R363). -/
def ackUpTo (s : State) (p a : Nat) : State :=
  modPort s p (fun x =>
    let left := x.replay.filter (fun f => !upTo a f.seq)
    { x with replay := left, ackAt := if left.length < x.replay.length then s.now else x.ackAt
             idle := x.idle.filter (fun c => decide (c.1 = a) || !upTo a c.1) })

/-- A flit with its ACK field brought up to date. -/
def refresh (x : Port) (f : List Byte) : List Byte := sealFlit (sliceOf f 0 2 ++ leBytes 2 (ackField x) ++ sliceOf f 4 248)

/-- Every unacknowledged flit sent again in order; a port with a flit sent nine times already leaves ACTIVE for TRAIN (R363, R364). -/
def resend (s : State) (p : Nat) : State :=
  let x := portOf s p
  if x.replay.any (fun f => decide (9 ≤ f.sends)) then leavePort s p 2
  else
    let s := modPort s p (fun x => { x with replay := x.replay.map (fun f => { f with sends := f.sends + 1 }), ackAt := s.now })
    x.replay.foldl (fun s f => emit s (.flit p (refresh x f.bytes))) (bump s (Fld.chdPCntReplay_COUNT p) x.replay.length)

/-- Credits of refused IDLE flits are owed again (R367). Those sent after the last flit accepted are; of those sent right after it, the spec does not say how many arrived. -/
def idleLost (s : State) (p a : Nat) : State :=
  let x := portOf s p
  let close := x.idle.filter (fun c => c.1 = a)
  let lost := close.drop ((freshWord s).toNat % (close.length + 1)) ++ x.idle.filter (fun c => c.1 ≠ a)
  let s := if close.isEmpty then s else drawn s
  modPort s p (fun x => { x with idle := [], owed := lost.foldl (fun o c => updAt o c.2.1 (· + c.2.2)) x.owed })

/-- The ACK and CREDIT fields of an accepted flit (R363, R365, R367). -/
def takeFields (s : State) (p : Nat) (f : List Byte) : State :=
  let ack := fieldOf f 2 2
  let credit := fieldOf f 4 4
  let s := modPort s p (fun x => { x with credits := updAt x.credits (credit / 2 ^ 30) (· + credit % 2 ^ 16) })
  let s := if bitSet ack 14 then ackUpTo s p (ack % 4096) else s
  if bitSet ack 15 then resend (idleLost s p (if bitSet ack 14 then ack % 4096 else 4095)) p else s

/-- A flit refused: counted, and a NAK sent unless one is outstanding (R363). -/
def refuseFlit (s : State) (p : Nat) : State :=
  let s := bump s (Fld.chdPCntCrc_COUNT p) 1
  if (portOf s p).nak then s else sendIdle (modPort s p (fun x => { x with nak := true })) p

/-- A flit's CRC checks (R362). -/
def flitOk (f : List Byte) : Bool := decide (f.length = 256) && decide (fieldOf f 252 4 = crc32c (f.take 252))

/-! ### Received packets -/

/-- LEN is in range for its OP (Table 13-6). -/
def lenOk (op len : Nat) : Bool :=
  decide (len % 16 = 0) && (match op with
    | 1 => decide (16 ≤ len ∧ len ≤ 512)
    | 3 => decide (16 ≤ len ∧ len ≤ 512)
    | 5 => decide (32 ≤ len ∧ len ≤ 528)
    | _ => decide (len = 0))

/-- A packet has a defined OP, the VC of its OP and a LEN in range (R369). -/
def packetOk (b : List Byte) : Bool :=
  let op := fieldOf b 0 1
  decide (1 ≤ op ∧ op ≤ 6) && decide (fieldOf b 3 1 % 4 = vcOf op) && lenOk op (fieldOf b 4 2)

/-- A packet for another chip goes on to the port of its route with HOPS lowered, or is dropped (R372). -/
def forwardPacket (s : State) (p : Nat) (b : List Byte) : State :=
  let route := fieldOf b 3 1
  match routePort s (fieldOf b 1 1 % 64) with
  | none => oweCredits (chordDrop s) p b
  | some o =>
    if route / 32 = 0 then oweCredits (chordDrop s) p b
    else queueOn s o (sliceOf b 0 3 ++ leBytes 1 (route - 32) ++ b.drop 4) (vcOf (fieldOf b 0 1)) true none ⟨64, p, 0xFFFF, 64, 0⟩

/-- A whole packet has arrived on a port: kept for its performance, forwarded, or discarded (R369, R370, R372). -/
def packetArrived (s : State) (p : Nat) (b : List Byte) : State :=
  if !packetOk b then oweCredits (chordDrop s) p b
  else if fieldOf b 1 1 % 64 = chipId s then modPort s p (fun x => { x with rxPackets := x.rxPackets ++ [b] })
  else forwardPacket s p b

/-- The packets that a byte stream holds whole, and what is left of it. A unit of zeros where a packet would start holds none. -/
def cutPackets : Nat → List Byte → List (List Byte) × List Byte
  | 0, bs => ([], bs)
  | n + 1, bs =>
    if bs.length < 16 then ([], bs)
    else if (bs.take 16).all (· == 0#8) then cutPackets n (bs.drop 16)
    else
      let len := 16 + 16 * ceilDiv (fieldOf bs 4 2) 16
      if bs.length < len then ([], bs)
      else
        let (ps, rest) := cutPackets n (bs.drop len)
        (bs.take len :: ps, rest)

/-- The payload of an accepted flit joins the port's byte stream (R362, R370). -/
def takePayload (s : State) (p : Nat) (f : List Byte) : State :=
  let first := fieldOf f 8 1 % 16
  let x := portOf s p
  let pay := sliceOf f 12 240
  let bs := if !x.rxUnits.isEmpty then x.rxUnits ++ pay else if first = 15 then [] else pay.drop (16 * first)
  let (ps, rest) := cutPackets (bs.length / 16 + 1) bs
  ps.foldl (fun s b => packetArrived s p b) (modPort s p (fun x => { x with rxUnits := rest }))

/-- A DATA flit: accepted in sequence order with a good CRC, else refused; an accepted one is acknowledged (R363, R365). -/
def execDataFlit (p : Nat) (flit : List Byte) (s : State) : Res :=
  whenever (portIn s p 5) s
    (let x := portOf s p
     let seq := fieldOf flit 0 2
     if !flitOk flit || decide (seq / 4096 ≠ 1) || decide (seq % 4096 ≠ (x.rxLast + 1) % 4096) then refuseFlit s p
     else
       let s := modPort s p (fun x => { x with rxLast := seq % 4096, rxAny := true, nak := false })
       let s := takePayload (bump s (Fld.chdPCntRx_COUNT p) 1) p flit
       let s := takeFields s p flit
       if portActive s p then sendAck s p else s)

/-- An IDLE flit: its ACK and credits are taken, if its CRC checks (R363, R365). -/
def execIdleFlit (p : Nat) (flit : List Byte) (s : State) : Res :=
  whenever (portIn s p 5) s
    (if !flitOk flit || decide (fieldOf flit 0 2 / 4096 ≠ 0) then refuseFlit s p else takeFields s p flit)

/-- A codeword pair is lost with its five flits and its control field: a NAK is sent (R357, R363). -/
def execFecFailure (p : Nat) (s : State) : Res :=
  whenever (portIn s p 5 && !(portOf s p).nak) s (sendIdle (modPort s p (fun x => { x with nak := true })) p)

/-- No acknowledgement advances for 4 µs: the port resends from its oldest flit (R364). -/
def execAckTimeout (p : Nat) (s : State) : Res :=
  whenever (portIn s p 5 && !(portOf s p).replay.isEmpty && decide ((portOf s p).ackAt + cyclesOf 4 ≤ s.now)) s (resend s p)

/-! ### Sending packets (R367, R374, R382) -/

/-- The next packet of a port on a virtual channel: one that it forwards goes first (R374). -/
def nextPacket (s : State) (p vc : Nat) : Option TxPacket :=
  let q := (portOf s p).txq.filter (fun t => t.vc = vc)
  match q.find? (·.forwarded) with
  | some t => some t
  | none => q.head?

/-- The copies of a packet that leave together, with their ports (R382). -/
def copiesOf (s : State) (p : Nat) (t : TxPacket) : List (Nat × TxPacket) :=
  match t.mcast with
  | none => [(p, t)]
  | some k => (List.range 8).flatMap (fun o => ((portOf s o).txq.filter (fun y => decide (y.mcast = some k))).map (fun y => (o, y)))

/-- No packet of its virtual channel goes before a copy: none that is forwarded, and none queued earlier for the same chip (R371, R374). -/
def copyFirst (s : State) (c : Nat × TxPacket) : Bool :=
  let q := (portOf s c.1).txq.filter (fun t => t.vc = c.2.vc)
  c.2.forwarded || (!q.any (·.forwarded) && decide ((q.find? (fun t => fieldOf t.bytes 1 1 = fieldOf c.2.bytes 1 1)) = some c.2))

/-- DATA flits that a packet takes. -/
def flitsOf (t : TxPacket) : Nat := ceilDiv (packetUnits t.bytes) 15

/-- Each port has credits and places in its replay buffer for all of the copies (R363, R367, R382). -/
def copiesFit (s : State) (cs : List (Nat × TxPacket)) : Bool :=
  (List.range 8).all (fun o =>
    let mine := cs.filter (fun c => c.1 = o)
    mine.isEmpty || (portActive s o
      && decide ((mine.map (fun c => packetUnits c.2.bytes)).foldl (· + ·) 0 ≤ (portOf s o).credits.getD ((mine.map (·.2.vc)).headD 0) 0)
      && decide ((mine.map (fun c => flitsOf c.2)).foldl (· + ·) 0 + (portOf s o).replay.length ≤ 2048)))

/-- What follows when a packet has left: forwarded credits are owed, a READ counts as sent, a transfer has one packet fewer to send. -/
def packetLeft (s : State) (t : TxPacket) : State :=
  if t.forwarded then sendCredits (oweCredits s t.transfer t.bytes) t.transfer
  else if fieldOf t.bytes 0 1 = 2 then
    { s with reads := s.reads.map (fun r => if r.1 = t.transfer then (r.1, { r.2 with sent := true, sentAt := s.now, tag := fieldOf t.bytes 6 2 % 4096 }) else r) }
  else if t.engine < 52 then
    modEngine s t.engine (fun g => { g with transfers := g.transfers.map (fun x => if x.id = t.transfer then { x with packets := x.packets - 1 } else x) })
  else s

/-- A packet as it is sent: a READ of this chip takes the lowest free tag. -/
def tagged (s : State) (t : TxPacket) : TxPacket :=
  if t.forwarded ∨ fieldOf t.bytes 0 1 ≠ 2 then t
  else { t with bytes := t.bytes.take 6 ++ leBytes 2 ((freeTag s).getD 0) ++ t.bytes.drop 8 }

/-- A READ of this chip has a tag and receive space for its answer (R368). -/
def readMayGo (s : State) (p : Nat) (t : TxPacket) : Bool :=
  t.forwarded || decide (fieldOf t.bytes 0 1 ≠ 2) || ((freeTag s).isSome && answerSpace s p (fieldOf t.bytes 12 4))

/-- One copy leaves its port in flits of its own: its credits are taken (R362, R367). -/
def sendPacket (s : State) (c : Nat × TxPacket) : State :=
  let s := modPort s c.1 (fun x => { x with
    txq := dropFirst (fun y => decide (y = c.2)) x.txq, credits := updAt x.credits c.2.vc (· - packetUnits c.2.bytes) })
  let t := tagged s c.2
  let s := ((chunkList 240 t.bytes t.bytes.length).zipIdx).foldl (fun s x => sendData s c.1 (if x.2 = 0 then 0 else 15) x.1) s
  packetLeft s t

/-- The next packet of a port and virtual channel leaves once it holds credits for its whole length, and a READ once space is reserved for its answer; the copies of a multicast packet leave together (R367, R368, R374, R382). -/
def execPacketTransmit (p vc : Nat) (s : State) : Res :=
  match nextPacket s p vc with
  | none => .next s
  | some t =>
    let cs := copiesOf s p t
    whenever (portIn s p 5 && cs.all (copyFirst s) && copiesFit s cs && readMayGo s p t) s (cs.foldl sendPacket s)

/-- A multicast packet that has waited for credits too long aborts its task (R383). -/
def execMcastStall (p vc : Nat) (s : State) : Res :=
  match nextPacket s p vc with
  | none => .next s
  | some t =>
    whenever (portIn s p 5 && t.mcast.isSome && !copiesFit s (copiesOf s p t) && decide (t.since + cyclesOf (fget s Fld.chdMcstall_LIMITUS) < s.now)) s
      (if (ctxOf s ⟨t.lf, t.ctx⟩).task = some t.task then abortTask s ⟨t.lf, t.ctx⟩ 6 else s)

/-! ### Performing packets (R370, R371, R376 to R378, R384 to R386) -/

/-- The first received packet of a kind that may be performed: on virtual channel 1 no earlier one from its source stands before it (R371). -/
def readyPacket (s : State) (p op : Nat) : Option Nat :=
  let q := (portOf s p).rxPackets
  (List.range q.length).find? (fun i =>
    let b := q.getD i []
    decide (fieldOf b 0 1 = op) && (decide (vcOf op ≠ 1)
      || ((q.take i).all (fun y => decide (vcOf (fieldOf y 0 1) ≠ 1) || decide (fieldOf y 2 1 ≠ fieldOf b 2 1))
        && (decide (5 ≤ op) || (mapGet s.portMerge p []).all (fun y => fieldOf y 2 1 ≠ fieldOf b 2 1)))))

/-- A received packet is taken and performed; its credits are returned (R367, R370). -/
def performPacket (p op : Nat) (act : State → List Byte → State) (s : State) : Res :=
  match readyPacket s p op with
  | none => .next s
  | some i =>
    let b := (portOf s p).rxPackets.getD i []
    whenever (portThere s p) s
      (let s := modPort s p (fun x => { x with rxPackets := dropAt x.rxPackets i })
       sendCredits (oweCredits (act s b) p b) p)

/-- A received WRITE (R376). -/
def execWritePkt (p : Nat) (s : State) : Res :=
  performPacket p 1 (fun s b =>
    if inData s (fieldOf b 8 4) (b.length - 16) then stsWrite s (some (p / 2)) (fieldOf b 8 4) (b.drop 16) else remoteReject s) s

/-- An answer to a READ: sent back to its source, or dropped where there is no route (R372). -/
def sendResp (s : State) (b : List Byte) (tag : Nat) (data : List Byte) : State :=
  let chip := fieldOf b 2 1 % 64
  match routePort s chip with
  | none => chordDrop s
  | some o => queueOn s o (packetHead 3 chip (chipId s) 7 data.length tag 0 0 ++ data) 2 false none .none

/-- A received READ: answered, or refused with ERROR and 16 zero bytes (R376). -/
def execReadPkt (p : Nat) (s : State) : Res :=
  performPacket p 2 (fun s b =>
    let a := fieldOf b 8 4
    let n := fieldOf b 12 4
    let tag := fieldOf b 6 2 % 4096
    if decide (16 ≤ n ∧ n ≤ 512 ∧ n % 16 = 0) && inData s a n then sendResp (countRange s (some (p / 2)) false a n) b tag (memReadN s.sts a n)
    else sendResp (remoteReject s) b (tag + 2 ^ 15) (List.replicate 16 0#8)) s

/-- The bytes of an answer put into a transfer's data; with its last answer its bytes are complete, or a TILE asks for its values (R93, R237). -/
def answerRead (s : State) (id : Nat) (r : RemoteRead) (data : List Byte) : State :=
  match (engineOf s r.engine).transfers.find? (fun t => t.id = r.transfer) with
  | none => s
  | some t =>
    let bytes := (data ++ (List.range (r.len - data.length)).map (fun i => Config.freeByte s.free i)).take r.len
    let s := if data.length < r.len then drawn s else s
    let t := { t with data := t.data.take r.index ++ bytes ++ t.data.drop (r.index + r.len), tags := t.tags.filter (· ≠ id) }
    let put (s : State) (t : Transfer) : State := modEngine s r.engine (fun g => { g with transfers := g.transfers.map (fun x => if x.id = t.id then t else x) })
    if t.tags.isEmpty then
      (match bytesReady s r.engine t with
        | .ok (s, t) => put s t
        | .error 8 => abortTask (put s t) ⟨t.lf, t.ctx⟩ 9
        | .error 9 => abortTask (chordDrop (put s t)) ⟨t.lf, t.ctx⟩ 9
        | .error _ => abortTask (remoteReject (put s t)) ⟨t.lf, t.ctx⟩ 9)
    else put s t

/-- A received RESP: delivered, or its task aborted on ERROR, or dropped for a tag that waits for nothing (R376, R377). -/
def execRespPkt (p : Nat) (s : State) : Res :=
  performPacket p 3 (fun s b =>
    let tag := fieldOf b 6 2
    match readOf s (tag % 4096) with
    | none => chordDrop s
    | some (id, r) =>
      let s := { s with reads := mapDel s.reads id }
      if bitSet tag 15 then (if (ctxOf s ⟨r.lf, r.ctx⟩).task = some r.task then abortTask s ⟨r.lf, r.ctx⟩ 9 else s)
      else answerRead s id r (b.drop 16)) s

/-- A received POST, applied as an SPOST would be (R378). -/
def execPostPkt (p : Nat) (s : State) : Res :=
  performPacket p 4 (fun s b => localPost s (12 * (p / 2)) (fieldOf b 8 4 % 4096) (fieldOf b 8 4 / 2 ^ 16)) s

/-- A received MERGE or MERGE_END waits on its port, which holds its credits, until its job takes it (R384 to R386). -/
def mergePacket (p op : Nat) (s : State) : Res :=
  match readyPacket s p op with
  | none => .next s
  | some i =>
    let b := (portOf s p).rxPackets.getD i []
    whenever (portThere s p) s
      (let s := modPort s p (fun x => { x with rxPackets := dropAt x.rxPackets i })
       { s with portMerge := mapPut s.portMerge p (mapGet s.portMerge p [] ++ [b]) })

/-- A received MERGE record (R384, R386). -/
def execMergePkt (p : Nat) (s : State) : Res := mergePacket p 5 s

/-- A received MERGE_END (R385, R386). -/
def execMergeEndPkt (p : Nat) (s : State) : Res := mergePacket p 6 s

/-- A READ without an answer 40 µs after it was sent (R377). -/
def execReadTimeout (tag : Nat) (s : State) : Res :=
  match readOf s tag with
  | none => .next s
  | some (id, r) =>
    whenever (serving s && decide (r.sentAt + cyclesOf 40 ≤ s.now)) s
      (let s := event { s with reads := mapDel s.reads id } Fld.chdErr_TIMEOUT Fld.chdCntTimeout_COUNT
       if (ctxOf s ⟨r.lf, r.ctx⟩).task = some r.task then abortTask s ⟨r.lf, r.ctx⟩ 9 else s)

/-! ### Lane swaps (R388, R389) -/

/-- Data lanes after lane `l` gives its place to the spare. -/
def swapLanes (lanes l : Nat) : Nat := setBit (clearBit lanes l) 4

/-- A lane swap has run in one direction of a port: counted, flagged and recorded (R388, Table 17-3). -/
def laneSwapped (s : State) (p l dir : Nat) : State :=
  event (errorRec s 2 3 p 7 0xFFFF (l + 2 ^ 8 * dir)) Fld.chdErr_LANESWAP (Fld.chdPCntSwap_COUNT p)

/-- A port's receive direction has no spare lane left: it carries data already, or is about to (R470). -/
def spareLaneGone (s : State) (p : Nat) : Bool := decide (fget s (Fld.chdPState_LANES p) ≠ 15) || (portOf s p).swap.isSome

/-- That a port needs a spare lane and has none is recorded (Table 17-1). -/
def laneExhausted (s : State) (p : Nat) : State := setFlag (errorRec s 3 3 p 9 0xFFFF 0) Fld.rpmErr_SPAREOUT

/-- A receive lane is lost, or worn with a spare left: a swap starts, or with no spare left the port leaves ACTIVE (R388, R389). -/
def loseLane (s : State) (p l : Nat) : State :=
  if spareLaneGone s p then modPort (leavePort (laneExhausted s p) p 0) p (fun x => { x with failedAt := some s.now })
  else sendControl (modSeq (modPort s p (fun x => { x with swap := some (l, s.now) })) (fun q => { q with repairFlag := true })) p 2 (l + 2 ^ 8 * 64)

/-- A data lane of an ACTIVE port is lost. -/
def execLaneLost (p lane : Nat) (s : State) : Res :=
  whenever (portIn s p 5 && bitSet (fget s (Fld.chdPState_LANES p)) lane && decide (lane < 5)
    && ((portOf s p).swap.map (fun y => decide (y.1 ≠ lane))).getD true) s (loseLane s p lane)

/-- A SWAP_REQ: the lane's symbols go onto the spare, and the request is answered (Table 13-8 step 2). -/
def execSwapReq (p lane count : Nat) (s : State) : Res :=
  whenever (portIn s p 5 && decide ((portOf s p).txLanes = 15) && decide (lane < 4)) s
    (sendControl (laneSwapped (modPort s p (fun x => { x with txLanes := swapLanes x.txLanes lane })) p lane 1) p 3 (lane + 2 ^ 8 * (count % 256)))

/-- A SWAP_ACK: the spare carries the lane from the counted pair on, and the flits lost are asked for again (Table 13-8 steps 3 to 5). -/
def execSwapAck (p lane count : Nat) (s : State) : Res :=
  match (portOf s p).swap with
  | none => .next s
  | some x => whenever (portIn s p 5 && decide (lane = x.1) && decide (count < 256)) s
      (let s := fset s (Fld.chdPState_LANES p) (swapLanes (fget s (Fld.chdPState_LANES p)) lane)
       let s := extendWatchdogs (modPort s p (fun y => { y with swap := none, nak := true })) (s.now - x.2)
       sendIdle (laneSwapped s p lane 0) p)

/-! ### Identifier and owner tables -/

/-- A write to CHD_CHIPID is ignored while a port is not DOWN (R360). -/
def execChipidWrite (chip : Nat) (s : State) : Res :=
  whenever (hostUp s && (List.range 8).all (fun p => portState s p = 0)) s (fset s Fld.chdChipid_CHIP chip)

/-- An owner table image keeps the limits of R379. -/
def ownerOk (img : List Byte) : Bool :=
  let n := fieldOf img 0 2
  let sh := fieldOf img 2 1
  decide (12 ≤ sh ∧ sh ≤ 30) && decide (1 ≤ n ∧ n ≤ 256) && decide (n * 2 ^ sh ≤ 2 ^ 32) && (sliceOf img 3 13).all (· == 0#8)
    && (List.range n).all (fun b =>
      let w0 := fieldOf img (16 + 8 * b) 4
      let w1 := fieldOf img (20 + 8 * b) 4
      decide (Nat.land w0 0x7000FF00 = 0) && (!bitSet w0 7 || decide (Nat.land w1 0x0000FFF0 = 0)))

/-- The VALID bit of an owner table. -/
def setOwnerValid (s : State) (t : Nat) (on : Bool) : State :=
  let f := if t < 32 then Fld.chdOtvalidLo_VALID else Fld.chdOtvalidHi_VALID
  fset s f (if on then setBit (fget s f) (t % 32) else clearBit (fget s f) (t % 32))

/-- The bytes of the image at OTADDR: its header and as many entries as that gives. -/
def ownerBytes (s : State) : List Byte :=
  let a := 16 * fget s Fld.chdOtaddr_ADDR
  memReadN s.sts a (16 + 8 * min 256 (memLe s.sts a 2))

/-- A write of GO with a table number: a bad image is refused and leaves the table invalid; a good one is loading (R379, R390). -/
def execOwnerTableLoad (table : Nat) (s : State) : Res :=
  whenever (hostUp s && decide (table < 64) && s.ownerLoad.isNone) s
    (let img := ownerBytes s
     let s := countRange s none false (16 * fget s Fld.chdOtaddr_ADDR) img.length
     let s := setOwnerValid { fset s Fld.chdOtcmd_TABLE table with owners := mapDel s.owners table } table false
     if ownerOk img then fset { s with ownerLoad := some (table, img) } Fld.chdOtcmd_BUSY 1 else fset s Fld.chdOtcmd_RESULT 1)

/-- A valid load ends (R379). -/
def execOwnerTableLoaded (s : State) : Res :=
  match s.ownerLoad with
  | none => .next s
  | some (t, img) => whenever (serving s) s
      (fset (fset (setOwnerValid { s with owners := mapPut s.owners t img, ownerLoad := none } t true) Fld.chdOtcmd_BUSY 0) Fld.chdOtcmd_RESULT 0)

end Sys2Proof.Machine
end

