-- ==== Sys2Proof/Machine/Merge.lean ====
section
/-! DEFINITION. The Merge tree: job descriptors (R129), records, leaves and nodes (R130 to R135, R140), the combiner (R135 to R137), what the tree does in a cycle (R139), results (R138), the end of a job (R142) and the MRG queue's commands (R334, R335). -/

namespace Sys2Proof.Machine

/-! ### Job descriptors (Table 05-1) -/

def Job.op (j : Job) : Nat := fieldOf j.desc 1 1
def Job.elem (j : Job) : Nat := fieldOf j.desc 2 1
def Job.normalise (j : Job) : Bool := bitSet (fieldOf j.desc 3 1) 0
def Job.indexed (j : Job) : Bool := bitSet (fieldOf j.desc 3 1) 1
def Job.extent (j : Job) : Nat := if fieldOf j.desc 0x10 4 = 0 then 2 ^ 32 else fieldOf j.desc 0x10 4
def Job.outStride (j : Job) : Nat := fieldOf j.desc 0x18 4

/-- A job descriptor breaks R129, apart from its job number being in use. -/
def jobBad (desc : List Byte) (td : Option Td) : Bool :=
  let f := fieldOf desc
  let extent := if f 0x10 4 = 0 then 2 ^ 32 else f 0x10 4
  let d := td.getD []
  decide (15 < f 0 1 ∨ 2 < f 1 1 ∨ 2 < f 2 1 ∨ (f 1 1 = 2 ∧ f 2 1 ≠ 1)) || decide (4 ≤ f 3 1)
    || decide (f 4 2 % 16 ≠ 0 ∨ f 4 2 < 16 ∨ 512 < f 4 2) || decide (f 8 8 = 0 ∨ 2 ^ 60 ≤ f 8 8)
    || decide (f 6 2 ≠ 0 ∨ f 0x15 3 ≠ 0 ∨ f 0x1C 36 ≠ 0)
    || td.isNone || decide (d.kind = 1) || !d.isWrite
    || (bitSet (f 3 1) 1 && decide (f 0x18 4 < f 4 2 ∨ d.rangeLen < extent * f 0x18 4))

/-- A job as MGDRAIN OPEN opens it. -/
def newJob (w : Who) (task : Nat) (desc : List Byte) (td : Td) : Job :=
  { lf := w.lf, ctx := w.ctx, task := task, desc := desc, td := td, closing := false, complete := false, orphan := false, aborted := false
    leaves := [], nodes := [], running := none, foldAt := 0, out := [], fed := [], written := 0, dropped := 0, offset := 0 }

/-! ### Records -/

/-- A record enters a leaf in cycle `now`: its key reduced, and raised to the previous one of the leaf where it is lower (R133, R134). -/
def Job.enter (j : Job) (now l : Nat) (r : List Byte) : Job :=
  let k := fieldOf r 0 4 % j.extent
  let k := match (j.leaf l).lastKey with
    | none => k
    | some p => max p k
  j.setLeaf l (fun x => { x with lastKey := some k, recs := x.recs ++ [⟨k, now, leBytes 4 k ++ r.drop 4⟩] })

/-- A leaf takes a record for its job: its two places are not both taken (R140), or the record is only discarded (R144, R385). -/
def Job.takes (j : Job) (l : Nat) : Bool := decide ((j.leaf l).recs.length < 2) || j.closing || (j.leaf l).ended

/-- A record entered, or discarded while the job is closing (R144) or its leaf has ended (R385). -/
def enterRecord (s : State) (n l : Nat) (r : List Byte) : State :=
  match mapFind s.jobs n with
  | none => s
  | some j =>
    if j.closing || (j.leaf l).ended then bump s Fld.mrgCntDiscard_COUNT 1
    else bump { s with jobs := mapPut s.jobs n (j.enter s.now l r) } Fld.mrgCntRec_COUNT 1

/-! ### The combiner (R135 to R137) -/

/-- The payload of a record as the combiner holds it: BF16 widened to FP32 (R136). -/
def widen (elem : Nat) (p : List Byte) : List Word :=
  if elem = 2 then (elemsOf2 p).map (fun x => BitVec.ofNat 32 (fp32.encode (bf16.decode x)))
  else (chunkList 4 p p.length).map (fun b => BitVec.ofNat 32 (ofLe b))
where
  /-- 16-bit patterns of some bytes. -/
  elemsOf2 (p : List Byte) : List Nat := (chunkList 2 p p.length).map ofLe

/-- An FP32 word is NaN. -/
def nanWord (x : Word) : Bool := (fp32.decode x.toNat).isNan

/-- An FP32 word is a zero. -/
def zeroWord (x : Word) : Bool := decide (x.toNat % 2 ^ 31 = 0)

/-- A running result that is NaN throughout (R137). -/
def Running.nan (r : Running) : Running := { r with m := 0x7FC00000#32, l := 0x7FC00000#32, xs := r.xs.map (fun _ => 0x7FC00000#32) }

/-- The LSE fold (R137); `n` is the draw of its exponentials. -/
def foldLse (n : Nat) (x y : Running) : Running :=
  let bad (r : Running) : Bool := nanWord r.m || nanWord r.l || r.xs.any nanWord
  if bad x || bad y then x.nan
  else if zeroWord y.l then x
  else if zeroWord x.l then { y with key := x.key, count := x.count }
  else
    let m := kMax x.m y.m
    let a1 := fExp (2 * n) (kAdd x.m (m ^^^ 0x80000000#32))
    let a2 := fExp (2 * n + 1) (kAdd y.m (m ^^^ 0x80000000#32))
    let mix (p q : Word) : Word := kAdd (kMul a1 p) (kMul a2 q)
    { x with m := m, l := mix x.l y.l, xs := (x.xs.zip y.xs).map (fun p => mix p.1 p.2) }

/-- A record folded into a running result of its key (Table 05-4). -/
def foldRecord (n op elem : Nat) (x y : Running) : Running :=
  let x' : Running :=
    match op with
    | 0 => { x with xs := (x.xs.zip y.xs).map (fun p => if elem = 0 then p.1 + p.2 else kAdd p.1 p.2) }
    | 1 => { x with xs := (x.xs.zip y.xs).map (fun p => if elem = 0 then (if p.1.slt p.2 then p.2 else p.1) else kMax p.1 p.2) }
    | _ => foldLse n x y
  { x' with count := x.count + 1 }

/-- A record as the first of its key. -/
def recordOf (elem : Nat) (r : List Byte) : Running :=
  ⟨fieldOf r 0 4, 1, BitVec.ofNat 32 (fieldOf r 8 4), BitVec.ofNat 32 (fieldOf r 12 4), widen elem (r.drop 16)⟩

/-- The payload that a result writes: normalised where the job asks for it, rounded once to its element type (R136, R137). -/
def resultPayload (j : Job) (r : Running) : List Byte :=
  let xs := if j.op = 2 ∧ j.normalise then
      r.xs.map (fun o => if (Fp.num false 0 0).lt (fp32.decode r.l.toNat) ∨ nanWord r.l then kDiv o r.l else 0#32)
    else r.xs
  xs.flatMap (fun x =>
    if j.elem = 0 then leBytes 4 x.toNat
    else if j.elem = 2 then leBytes 2 (convert fp32 bf16 x.toNat)
    else leBytes 4 (convert fp32 fp32 x.toNat))

/-- The header of a result record (Table 05-3). -/
def resultHead (j : Job) (r : Running) : List Byte :=
  let aux (x : Word) : Nat := if j.op = 2 then convert fp32 fp32 x.toNat else 0
  leBytes 4 r.key ++ leBytes 2 (min r.count 65535) ++ leBytes 2 0 ++ leBytes 4 (aux r.m) ++ leBytes 4 (aux r.l)

/-! ### The nodes of the tree (R135, R139, R140) -/

/-- The records in the place of node `i`, oldest first. -/
def Job.place (j : Job) (i : Nat) : List MergeRec := if 64 ≤ i then (j.leaf (i - 64)).recs else mapGet j.nodes i []

/-- A place without its oldest record. -/
def Job.dropHead (j : Job) (i : Nat) : Job :=
  if 64 ≤ i then j.setLeaf (i - 64) (fun x => { x with recs := x.recs.drop 1 }) else { j with nodes := mapPut j.nodes i ((mapGet j.nodes i []).drop 1) }

/-- Node `k` is node `i` or below it. -/
def below (i k : Nat) : Bool := decide (i ≤ k) && decide (k / 2 ^ (Nat.log2 k - Nat.log2 i) = i)

/-- No further record comes from node `i`: its producers have ended, and nothing stands at it or below it (R140). -/
def Job.sideOver (j : Job) (i : Nat) : Bool :=
  (List.range 128).all (fun k => !below i k || ((j.place k).isEmpty && (decide (k < 64) || !bitSet j.producers (k - 64) || (j.leaf (k - 64)).ended)))

/-- The oldest record of a place, once it has reached it. -/
def Job.headAt (j : Job) (now i : Nat) : Option MergeRec := (j.place i).head?.filter (fun r => decide (r.at_ ≤ now))

/-- The input from which node `i` takes its next record: that of the lower key, of equal keys the one that came first, of those the lower-numbered input; an empty input holds the other back until its producers have ended (R135, R140). -/
def Job.nodeInput (j : Job) (now i : Nat) : Option (Nat × MergeRec) :=
  match j.headAt now (2 * i), j.headAt now (2 * i + 1) with
  | some x, some y => if x.key < y.key ∨ (x.key = y.key ∧ x.at_ ≤ y.at_) then some (2 * i, x) else some (2 * i + 1, y)
  | some x, none => if j.sideOver (2 * i + 1) then some (2 * i, x) else none
  | none, some y => if j.sideOver (2 * i) then some (2 * i + 1, y) else none
  | none, none => none

/-- Node `i` emits a record, which reaches the next level after 4 cycles (Table 01-10). The spec gives the buffer places of a node no number: the model gives one for each of those cycles. DESIGN CHOICE (log entry 38). -/
def Job.nodeStep (j : Job) (now i : Nat) : Option Job :=
  if 4 ≤ (j.place i).length then none
  else (j.nodeInput now i).map (fun x =>
    let j' := j.dropHead x.1
    { j' with nodes := mapPut j'.nodes i (mapGet j'.nodes i [] ++ [{ x.2 with at_ := now + 4 }]) })

/-- The cycles of one fold (R139). -/
def Job.foldTime (j : Job) : Nat := if j.op = 2 then 12 else 4

/-- The combiner accepts the record at the root, as the first of its key or folded into its key's running result; a larger key closes the result before it (R135, R136, R139). -/
def Job.accept (j : Job) (draw now : Nat) (r : MergeRec) : Job :=
  let y := recordOf j.elem r.bytes
  let j := { j.dropHead 1 with foldAt := now + j.foldTime, out := match j.running with
    | some x => if x.key = r.key then j.out else j.out ++ [(j.foldAt + 1, x)]
    | none => j.out }
  { j with running := match j.running with
    | some x => if x.key = r.key then some (foldRecord draw j.op j.elem x y) else some y
    | none => some y }

/-- The last key's result is over once every producer has ended and nothing is left in the tree (R142). -/
def Job.lastKeyOver (j : Job) : Job :=
  match j.running with
  | some x => if !j.closing && j.allEnded && decide (j.records = 0) then { j with running := none, out := j.out ++ [(j.foldAt + 1, x)] } else j
  | none => j

/-- The first that answers. -/
def firstSome {α β : Type} (f : α → Option β) : List α → Option β
  | [] => none
  | x :: r => match f x with
    | some y => some y
    | none => firstSome f r

/-- A job of the tree, by number. -/
def withJob {α : Type} (s : State) (n : Nat) (f : Job → Option α) : Option α :=
  match mapFind s.jobs n with
  | none => none
  | some j => f j

/-- The combiner accepts one record in a cycle, of the first of some jobs that has one at the root (R139). -/
def combinerCycle (s : State) (order : List Nat) : State :=
  (firstSome (fun n => withJob s n (fun j => (j.headAt s.now 1).map (fun r =>
    drawn (bump { s with jobs := mapPut s.jobs n (j.accept s.free s.now r) } Fld.mrgCntBusy_COUNT 1)))) order).getD s

/-- A node emits one record in a cycle, of the first of some jobs that can go on (R140). -/
def nodeCycle (order : List Nat) (s : State) (i : Nat) : State :=
  (firstSome (fun n => withJob s n (fun j => (j.nodeStep s.now i).map (fun j' => { s with jobs := mapPut s.jobs n j' }))) order).getD s

/-! ### What waits to enter a leaf -/

/-- The job that a command pushes to. -/
def ECmd.pushJob (c : ECmd) : Option Nat :=
  match c.op with
  | .mgpush _ _ _ n => some n
  | _ => none

/-- The MGPUSH of a context that has taken its records and not pushed them all. -/
def pushing (s : State) (w : Who) : Option (ECmd × Nat) :=
  (ctxOf s w).cmds.findSome? (fun c => if c.started.isSome && !c.ready && !c.image.isEmpty then c.pushJob.map (fun n => (c, n)) else none)

/-- An MGPUSH has pushed its last record; PUSH_END then ends its leaf's part (R131). -/
def pushDone (s : State) (w : Who) (c : ECmd) (n : Nat) : State :=
  let s := modCmd s w c.seq (fun x => { x with ready := true, doneAt := s.now + 1 })
  match c.op with
  | .mgpush true _ _ _ => endLeaf s n w.lf false
  | _ => s

/-- The facet has read the next record of an MGPUSH, at 512 bytes a cycle from `doneAt` on (R334). -/
def recordRead (s : State) (c : ECmd) (size : Nat) : Bool :=
  match c.op with
  | .mgpush _ _ count _ => decide (c.doneAt + (count.toNat - c.todo.length) * size / 512 ≤ s.now)
  | _ => false

/-- A facet's MGPUSH moves one record into its leaf, or ends when it has none left (R334). -/
def feedPush (s : State) (w : Who) : Option State :=
  match pushing s w with
  | none => none
  | some (c, n) =>
    withJob s n (fun j =>
      match c.todo with
      | [] => some (pushDone s w c n)
      | r :: rest =>
        if j.takes w.lf && recordRead s c r.length then
          let t := enterRecord (modCmd s w c.seq (fun x => { x with todo := rest })) n w.lf r
          some (if rest.isEmpty then pushDone t w c n else t)
        else none)

/-- The job that a MERGE or MERGE_END packet names. -/
def packetJob (p : List Byte) : Nat := fieldOf p 8 4 % 16

/-- A packet for a job that does not take records from its port is discarded (R386). -/
def mergeStray (s : State) : State := chordDrop (bump s Fld.mrgCntDiscard_COUNT 1)

/-- A waiting packet of a port performed for its open job, if its leaf takes it; its credits return (R367, R384 to R386). -/
def portPacket (s : State) (p i : Nat) : Option State :=
  let ws := mapGet s.portMerge p []
  let x := ws.getD i []
  let n := packetJob x
  if (ws.take i).any (fun y => fieldOf y 2 1 = fieldOf x 2 1) then none
  else
    withJob s n (fun j =>
      let out := oweCredits { s with portMerge := mapPut s.portMerge p (dropAt ws i) } p x
      if !bitSet j.producers (48 + p) then some (mergeStray out)
      else if fieldOf x 0 1 = 6 then some (endLeaf out n (48 + p) (bitSet (fieldOf x 8 4) 31))
      else if j.takes (48 + p) then some (enterRecord out n (48 + p) (x.drop 16))
      else none)

/-- The first packet waiting on a port that may be performed, behind no other from its source chip (R371). -/
def feedPort (s : State) (p : Nat) : Option State :=
  (firstSome (portPacket s p) (List.range (mapGet s.portMerge p []).length)).map (fun t => sendCredits t p)

/-- A transfer of an engine moves one record into the engine's leaf of a job on this chip (R384). -/
def transferRecord (s : State) (e : Nat) (t : Transfer) : Option State :=
  match t.merge, t.recs with
  | some n, r :: rest =>
    withJob s n (fun j =>
      let l := engineLeaf e
      let out := modEngine s e (fun g => { g with transfers := g.transfers.map (fun x => if x.id = t.id then { x with recs := rest } else x) })
      if !bitSet j.producers l then some (mergeStray out) else if j.takes l then some (enterRecord out n l r) else none)
  | _, _ => none

/-- A record of a result, or the end of its leaf, enters in its turn (R384 to R386). -/
def feedItem (s : State) (i : Nat) : Option State :=
  match s.leafItems[i]? with
  | none => none
  | some x =>
    if (s.leafItems.take i).any (fun y => decide (y.leaf = x.leaf) && decide (y.job = x.job)) then none
    else
      withJob s x.job (fun j =>
        let out := { s with leafItems := dropAt s.leafItems i }
        if !bitSet j.producers x.leaf then some (mergeStray out)
        else
          match x.record with
          | none => some (endLeaf out x.job x.leaf x.aborted)
          | some r => if j.takes x.leaf then some (enterRecord out x.job x.leaf r) else none)

/-- What enters a leaf in a cycle, one record at most: from its facet's MGPUSH commands, context 0 first, from its port, from its stream engine (Table 05-2, R334). Which of several sources comes first the spec does not say. DESIGN CHOICE (log entry 39). -/
def feedLeaf (s : State) (l : Nat) : State :=
  let items := (List.range s.leafItems.length).filter (fun i => (s.leafItems[i]?).any (fun x => decide (x.leaf = l)))
  let e := if l < 48 then l else 48 + (l - 56)
  let fromEngine := firstSome (transferRecord s e) (engineOf s e).transfers
  ((if l < 48 then firstSome (feedPush s) [⟨l, 0⟩, ⟨l, 1⟩] else if l < 56 then feedPort s (l - 48) else none).orElse (fun _ =>
    ((if l < 48 ∨ 56 ≤ l then fromEngine else none).orElse (fun _ => firstSome (feedItem s) items)))).getD s

/-! ### The start of an MGPUSH (R130, R131, R334) -/

/-- An MGPUSH whose job is open is faulting. -/
def pushBad (s : State) (w : Who) (addr count : Word) (j : Job) : Bool :=
  !bitSet j.producers w.lf || (j.leaf w.lf).ended || !inUsed s w.lf addr.toNat (count.toNat * (16 + j.payload))

/-- An MGPUSH whose job is open takes its records once their banks are awake, or is faulting (R130, R131, R181, R334). -/
def pushLoad (s : State) (w : Who) (c : ECmd) (addr count : Word) (n : Nat) (j : Job) : State :=
  let size := 16 + j.payload
  let place := span addr.toNat (count.toNat * size)
  if pushBad s w addr count j then abortTask s w 1
  else if !awake s w.lf place then s
  else
    let bytes := facetRead s w.lf addr.toNat (count.toNat * size)
    let s := fmemTouch s (physOf s w.lf) place
    let s := modCtx s w (fun x => { x with mergeJobs := if x.mergeJobs.contains n then x.mergeJobs else x.mergeJobs ++ [n] })
    modCmd s w c.seq (fun x => { x with image := j.desc, todo := chunkList size bytes count.toNat, doneAt := s.now })

/-- The MGPUSH of a context that waits for its job or for a bank takes its records where it can. -/
def pushWaiting (s : State) (w : Who) : State :=
  match (ctxOf s w).cmds.find? (fun c => c.started.isSome && !c.ready && c.image.isEmpty && c.pushJob.isSome) with
  | none => s
  | some c =>
    match c.op with
    | .mgpush _ a b n => (withJob s n (fun j => some (pushLoad s w c a b n j))).getD s
    | _ => s

/-! ### A cycle of the tree -/

/-- The tasks that produce for a job on a facet: those that the image declares as producers for its opener, or, where it declares none, all of the facet. -/
def leafTasks (s : State) (j : Job) (l : Nat) : List TaskRec :=
  let here := s.seq.tasks.filter (fun t => t.entry.lf = l)
  let mine := here.filter (fun t => s.seq.active.any (fun i => i.consumes.contains (t.entry.id, j.task)))
  if mine.isEmpty then here else mine

/-- A producer of a closing job has ended its leaf, or its task has ended or been aborted (R144). -/
def leafOver (s : State) (j : Job) (l : Nat) : Bool :=
  !bitSet j.producers l || (j.leaf l).ended || (decide (l < 48) && (leafTasks s j l).all (fun t => decide (t.phase = .ended)))

/-- Closing jobs whose producers are all over are free (R144). -/
def freeClosed (s : State) : State :=
  (s.jobs.filter (fun j => j.2.closing && (List.range 64).all (leafOver s j.2))).foldl (fun s j => freeJob s j.1) s

/-- The order in which a cycle looks at the open jobs, which the spec leaves open between different jobs. -/
def jobOrder (s : State) : List Nat := if s.jobs.length ≤ 1 then s.jobs.map (·.1) else freeShuffle s.free (s.jobs.map (·.1))

/-- A cycle of the Merge tree: waiting pushes take their records, leaves take one record each, the combiner accepts one, each node emits one (R135, R139, R140, R334). -/
def mergeCycle (s : State) : State :=
  if s.jobs.isEmpty then s
  else
    let s := (s.facets.flatMap (fun f => [(⟨f.1, 0⟩ : Who), ⟨f.1, 1⟩])).foldl pushWaiting s
    let s := (List.range 60).foldl feedLeaf s
    let order := jobOrder s
    let s := combinerCycle (if s.jobs.length ≤ 1 then s else drawn s) order
    let s := ((List.range 63).map (· + 1)).foldl (nodeCycle order) s
    freeClosed { s with jobs := s.jobs.map (fun j => (j.1, j.2.lastKeyOver)) }

/-! ### Results -/

/-- A result written to a distributed tensor: to the State Store here, to other chips, into a leaf of a job here (R138, R380, R384). -/
def distPut (s : State) (w : Who) (n task : Nat) (img : List Byte) (x : Nat) (data : List Byte) : State :=
  match writePiece s ⟨w.lf, 2 ^ 20, task, w.lf, w.ctx⟩ img x data with
  | none => abortId (if groupTooLarge s img x then s else chordDrop s) task 9
  | some (s, r) =>
    let fed := r.fed ++ (match r.merge with
      | none => []
      | some m => [(chipId s, m.1)])
    let s := stsPut s (some (quadOf w.lf)) r.writes
    let s := { s with
      jobs := match mapFind s.jobs n with
        | none => s.jobs
        | some j => mapPut s.jobs n { j with fed := (j.fed ++ fed).eraseDups }
      leafItems := s.leafItems ++ (match r.merge with
        | none => []
        | some m => m.2.map (fun b => ⟨w.lf, m.1, some b, false⟩)) }
    match r.notify with
    | none => s
    | some sem => localPost s w.lf sem 1

/-- Bytes of a result of job `n` written at a byte address of a descriptor's space by the stream engine of a facet, for a task; the descriptor's arrival counter counts them, and the operand buffers take them as any delivery (R138, R174, R175, R523). -/
def tdPut (s : State) (w : Who) (n task : Nat) (d : Td) (a : Nat) (bs : List Byte) : State :=
  if d.kind = 2 then
    match ownerImage s d.facet with
    | none => abortId s task 9
    | some img =>
      (piecesOf 1 (ownerShift img) ((span a bs.length).map some)).foldl (fun s p =>
        match p.x with
        | none => s
        | some x => distPut s w n task img x (sliceOf bs p.first p.len)) s
  else
    match d.space with
    | 1 => stsWrite s (some (quadOf w.lf)) a bs
    | 3 => wabDeliver s w 16 (laidAt a bs)
    | 4 => stageDeliver s w 16 (laidAt a bs)
    | sp =>
      let lf := if sp = 2 then d.facet else w.lf
      let kept := (keptWrites s (physOf s lf) (laidAt a bs)).length
      let s := match arrEnabled d.arrByte with
        | none => s
        | some i => arrAdd s lf i kept
      taskWriteOrAbort s task lf (laidAt a bs)

/-- The place of a result takes its bytes: banks are awake, the facet is not isolated, the ring has room (R181, R459, R523). -/
def tdTakes (s : State) (w : Who) (d : Td) (a n : Nat) : Bool :=
  if d.kind = 2 then true
  else
    match d.space with
    | 1 => true
    | 3 => wabRoom s w (laidAt a (List.replicate n 0#8))
    | 4 => true
    | sp => awake s (if sp = 2 then d.facet else w.lf) (span a n)

/-- The bytes of a result and where they go in the range (R138). -/
def resultBytes (j : Job) (r : Running) : List Byte × Nat :=
  if j.indexed then (resultPayload j r, r.key * j.outStride) else (resultHead j r ++ resultPayload j r, j.offset)

/-- The next result of a job, once its last fold has completed in an earlier cycle (R139). -/
def resultDue (s : State) (j : Job) : Option Running := (j.out.head?.filter (fun x => decide (x.1 ≤ s.now) && !j.closing)).map (·.2)

/-- The result of a key is written through the output descriptor, or discarded for lack of range (R138). -/
def execMergeResultWrite (n : Nat) (s : State) : Res :=
  match mapFind s.jobs n with
  | none => .next s
  | some j =>
    match resultDue s j with
    | none => .next s
    | some r =>
      let (bs, off) := resultBytes j r
      let j' : Job := { j with out := j.out.drop 1 }
      let w : Who := ⟨j.lf, j.ctx⟩
      if Td.rangeLen j.td < off + bs.length then
        .next (bump { s with jobs := mapPut s.jobs n { j' with dropped := j.dropped + 1 } } Fld.mrgCntOutdrop_COUNT 1)
      else
        whenever (tdTakes s w j.td (Td.rangeBase j.td + off) bs.length) s
          (let s := { s with jobs := mapPut s.jobs n { j' with written := j.written + 1, offset := if j.indexed then j.offset else off + bs.length } }
           tdPut (bump s Fld.mrgCntOut_COUNT 1) w n j.task j.td (Td.rangeBase j.td + off) bs)

/-- A job completes when every producer leaf has ended and its last result is out; the jobs that its results fed see their end; a job whose opener has ended is then free (R142, R335, R385). -/
def execMergeJobComplete (n : Nat) (s : State) : Res :=
  match mapFind s.jobs n with
  | none => .next s
  | some j =>
    whenever (j.allEnded && decide (j.records = 0) && j.running.isNone && j.out.isEmpty && !j.closing && !j.complete) s
      (let s := resultEnds s j false
       if j.orphan then freeJob s n else { s with jobs := mapPut s.jobs n { j with complete := true, fed := [] } })

/-! ### The commands of the MRG queue -/

/-- MGPUSH starts: it waits while its job is not open (R131). -/
def startPush (s : State) (w : Who) (c : ECmd) (addr count : Word) (n : Nat) : Option State :=
  if addr.toNat % 16 ≠ 0 then none else some ((withJob s n (fun j => some (pushLoad s w c addr count n j))).getD s)

/-- An OPEN of a job number is under way. -/
def opening (s : State) (n : Nat) : Bool :=
  (List.range 96).any (fun i => (ctxOf s ⟨i / 2, i % 2⟩).cmds.any (fun c => c.started.isSome && (match c.op with
    | .mgopen _ => decide (fieldOf c.image 0 1 = n) && !c.image.isEmpty
    | _ => false)))

/-- MGDRAIN OPEN starts: its descriptor, none where it is faulting (R129, R335). -/
def startOpen (s : State) (w : Who) (addr : Word) : Option (State × List Byte) :=
  let a := addr.toNat
  let desc := facetRead s w.lf a 64
  let n := fieldOf desc 0 1
  if a % 64 ≠ 0 ∨ !inUsed s w.lf a 64 then none
  else if jobBad desc (tdOf s w.lf (fieldOf desc 0x14 1)) || (mapFind s.jobs n).isSome || opening s n then none
  else some (fmemTouch s (physOf s w.lf) (span a 64), desc)

/-- MGDRAIN OPEN completes: the job is open for what waits for it, and the parts of producers that were aborted meanwhile end (R129, R131, R143, R384). -/
def finishOpen (s : State) (w : Who) (desc : List Byte) : State :=
  let n := fieldOf desc 0 1
  match tdOf s w.lf (fieldOf desc 0x14 1) with
  | none => abortTask s w 1
  | some d =>
    let early := s.earlyEnds.filter (fun x => x.1 = n)
    let s := { s with jobs := mapPut s.jobs n (newJob w (taskId s w) desc d), earlyEnds := s.earlyEnds.filter (fun x => x.1 ≠ n) }
    early.foldl (fun s x => match mapFind s.jobs n with
      | none => s
      | some j => if bitSet j.producers x.2 then endLeaf s n x.2 true else s) s

/-- MGDRAIN WAIT on a job that the task did not open is faulting (R335). -/
def ownsJob (s : State) (w : Who) (n : Nat) : Bool :=
  match mapFind s.jobs n with
  | none => false
  | some j => decide (j.lf = w.lf) && decide (j.ctx = w.ctx) && decide (j.task = taskId s w) && !j.orphan && !j.closing

/-- What MGDRAIN WAIT returns once its job is complete (R335). -/
def waitResult (s : State) (n : Nat) : Option (Word × Word) :=
  match mapFind s.jobs n with
  | none => none
  | some j => if j.complete then some (BitVec.ofNat 32 (j.written % 2 ^ 31 + (if j.aborted then 2 ^ 31 else 0)), BitVec.ofNat 32 j.dropped) else none

end Sys2Proof.Machine
end

