-- ==== Sys2Proof/Machine/HostRegs.lean ====
section
/-! DEFINITION. What registers read as, those that show other state among them (R10, R13, R414), writes to fields without a command of their own (R11 to R16), and host access errors (R12, R418). -/

namespace Sys2Proof.Machine

/-! ### What registers show -/

/-- 1 for true. -/
def bitNat (b : Bool) : Nat := if b then 1 else 0

/-- The bits of a register, lowest first, from a test of each of `n` units. -/
def maskOf (n : Nat) (p : Nat → Bool) : Nat := ofBits ((List.range n).map p)

/-- The kind, index and progress of the repair in progress (Table 17-10). How far a slice copy has come is left open. -/
def repairShown (s : State) : Nat × Nat × Nat :=
  match s.repair.swaps, s.repair.pendingSwaps, s.repair.slices, s.repair.retrain with
  | x :: _, _, _, _ => (1, x.lf, 0)
  | [], x :: _, _, _ => (2, x.lf, 0)
  | [], [], c :: _, _ => (3, c.logical, if c.copied then 32768 else (freshWord s).toNat % 32768)
  | [], [], [], some r => (4, r.channel, 0)
  | [], [], [], none => (0, 0, 0)

/-- State Store addresses that the Predictor's halves hold. -/
def halfAddr (h : PredHalf) : Nat := if h.valid then h.addr else 0

/-- Fields outside the facet pages that show other state of the part. While an image is fetched and checked, whether PENDING shows loading or checking is left open. -/
def spineViews (s : State) : List (Field × Nat) :=
  let sum := maskOf 52 (facetFlag s)
  let str := maskOf 52 (fun f => decide (wordOf s (Fld.strErr_UE f).addr ≠ 0))
  let rep := repairShown s
  let entry := (s.paging.retired[fget s Fld.farRetidx_IDX]?).getD (0, 0)
  let spares (q : Nat) : Nat := ((List.range 50).filter (fun i => decide (fget s (Fld.rpmSstate_STATE (50 * q + i)) = 1) && s.repair.slices.all (fun c => c.target ≠ 50 * q + i))).length
  [(Fld.glbStatus_OFFLINE, bitNat (fon s Fld.mgtStatus_OFFLINE)), (Fld.glbStatus_FARREADY, fget s Fld.farStatus_INITDONE), (Fld.glbStatus_STSREADY, fget s Fld.stsStatus_INITDONE),
   (Fld.glbIntsum_BLOCK, ofBits (intBits s)), (Fld.glbFsumLo_FACET, sum % 2 ^ 32), (Fld.glbFsumHi_FACET, sum / 2 ^ 32), (Fld.fsqTcyc_TCYC, tcyc s),
   (Fld.fsqStatus_PENDING, if s.seq.loading.isSome then 1 + (freshWord s).toNat % 2 else fget s Fld.fsqStatus_PENDING),
   (Fld.mrgStatus_OPEN, maskOf 16 (fun j => (mapFind s.jobs j).isSome)), (Fld.mrgStatus_BUSY, bitNat (decide (treeRecords s ≠ 0)))] ++
  [(Fld.prdStatus_QDEPTH, s.predictor.queue.length), (Fld.prdStatus_RESIDENT, bitNat s.predictor.half0.valid + 2 * bitNat s.predictor.half1.valid),
   (Fld.prdStatus_BUSY, bitNat s.predictor.running.isSome), (Fld.prdRes0_ADDR, halfAddr s.predictor.half0), (Fld.prdRes1_ADDR, halfAddr s.predictor.half1),
   (Fld.updStatus_BUSY, maskOf 4 (fun q => !(updateQueue s q).isEmpty)), (Fld.updQdepth_Q0, (updateQueue s 0).length), (Fld.updQdepth_Q1, (updateQueue s 1).length),
   (Fld.updQdepth_Q2, (updateQueue s 2).length), (Fld.updQdepth_Q3, (updateQueue s 3).length)] ++
  [(Fld.cptStatus_WINDOW, bitNat ((openWindows s).any (fun w => w.kind = 0))), (Fld.cptStatus_BUSY, bitNat (!(migRunning s).isEmpty)), (Fld.cptNearFree_COUNT, nearFree s),
   (Fld.farStatus_CHUP, maskOf 16 (fun d => decide (fget s (Fld.farChState_STATE d) = 1))), (Fld.farRetlog_CAUSE, entry.2), (Fld.farRetlog_FRAME, entry.1),
   (Fld.strFsumLo_FACET, str % 2 ^ 32), (Fld.strFsumHi_FACET, str / 2 ^ 32), (Fld.prsStatus_PBUSY, bitNat s.permLoad.isSome),
   (Fld.prsStatus_BUSY, maskOf 4 (fun q => (List.range 52).any (fun e => (engineOf s e).transfers.any (fun t => decide (t.quad = some q))))),
   (Fld.chdStatus_UP, maskOf 8 (portActive s)), (Fld.mgtStatus_CAPACTIVE, bitNat (decide (s.repair.capRan ≠ 0)))] ++
  [(Fld.calStatus_FARPAUSE, bitNat s.repair.retrain.isSome), (Fld.calStatus_FARCH, (s.repair.retrain.map (·.channel)).getD 0),
   (Fld.calStatus_SHADOW, maskOf 4 (fun q => (shadowOf s q).running.isSome)), (Fld.rpmRepair_KIND, rep.1), (Fld.rpmRepair_INDEX, rep.2.1), (Fld.rpmRepair_PROGRESS, rep.2.2),
   (Fld.rpmStatus_SPAREF, maskOf 4 (fun q => (spareFacet s q).isSome)), (Fld.rpmStatus_SPARES, spares 0 + 4 * spares 1 + 16 * spares 2 + 64 * spares 3)] ++
  (List.range 4).flatMap (fun q =>
    [(Fld.strQstatus_OUTSTANDING q, min 6 (inFlight s (48 + q))), (Fld.strQstatus_OPEN q, maskOf 16 (fun h => ((streamOf s (48 + q) h).map (fun x => decide (x.state = 1))).getD false))])

/-- What physical facet `f` does (Table 02-9). -/
def facetShown (s : State) (f : Nat) (lf : Option Nat) : Nat :=
  if !mainUp s then 0
  else if fget s (Fld.rpmFstate_STATE f) = 4 ∨ s.repair.swaps.any (fun x => x.source = f) then 5
  else if fon s (Fld.cmpStatus_STRUCT f) || s.repair.swaps.any (fun x => x.target = f) then 1
  else
    match lf with
    | some l => if ctxBusy s ⟨l, 0⟩ || ctxBusy s ⟨l, 1⟩ then 3 else 2
    | none => if (shadowOf s (f / 13)).running.isSome && decide (fget s (Fld.rpmFstate_STATE f) = 1) then 4 else 2

/-- A run is in progress: a Lattice command has started and not completed (R61, Table 02-10). -/
def latRuns (c : Ctx) : Bool := c.cmds.any (fun x => decide (x.queue = .lat) && x.started.isSome)

/-- A span is in progress: its LLOAD has started, and no LPASS has ended it yet (Table 04-5). -/
def Lat.busySpan (l : Lat) : Bool := (l.span.map (·.fresh)).getD false

/-- Fields of the page of physical facet `f` that show other state of the part; `lf` is its logical number. -/
def facetViews (s : State) (f : Nat) (lf : Option Nat) : List (Field × Nat) :=
  let x := (lf.map (facetOf s)).getD .idle
  let l := lf.getD 64
  [(Fld.fctMap_SPARE f, bitNat lf.isNone), (Fld.fctMap_LFACET f, lf.getD 0xFF), (Fld.fctState_STATE f, facetShown s f lf), (Fld.fctTask_TASKA f, x.ctxA.task.getD 0xFFFF),
   (Fld.fctTask_TASKB f, x.ctxB.task.getD 0xFFFF), (Fld.latStatus_BUSY f, bitNat (latRuns x.ctxA || latRuns x.ctxB)), (Fld.latStatus_MODE f, bitNat x.split),
   (Fld.cmpStatus_BUSY f, bitNat (x.latA.busySpan || x.latB.busySpan)), (Fld.cmpMode_GMAXA f, Nat.log2 x.ctxA.gmax), (Fld.cmpMode_GMAXB f, Nat.log2 x.ctxB.gmax),
   (Fld.strStatus_OUTSTANDING f, min 6 (inFlight s l)), (Fld.strStatus_OPEN f, maskOf 16 (fun h => ((streamOf s l h).map (fun x => decide (x.state = 1))).getD false))] ++
  (List.range 16).flatMap (fun h => match streamOf s l h with
    | none => []
    | some x => [(Fld.strSt_STATE f h, x.state), (Fld.strSt_LISTWAIT f h, bitNat x.listWait), (Fld.strSt_DONE f h, x.done)])

/-- The value that a field reads as, before its access code. -/
def fieldValue (s : State) (f : Field) : Nat :=
  let shown := if f.addr < 0x1000000 then spineViews s else (let pf := (f.addr - 0x1000000) / 0x100000; facetViews s pf (logicalOf s pf))
  match shown.find? (fun v => v.1.key = f.key) with
  | some v => v.2 % 2 ^ f.width
  | none =>
    if 0xE0500 ≤ f.addr ∧ f.addr < 0xE0500 + 4 * 52 ∧ f.lo = 0 then
      let pf := (f.addr - 0xE0500) / 4
      if fget s f = 1 ∧ s.repair.swaps.any (fun x => x.target = pf) then 3
      else if fget s f = 1 ∧ (shadowOf s (pf / 13)).running.isSome then 2 else fget s f
    else if 0xE0600 ≤ f.addr ∧ f.addr < 0xE0600 + 4 * 200 ∧ f.lo = 0 then
      let p := (f.addr - 0xE0600) / 4
      if s.repair.slices.any (fun c => c.source = p) then 2 else if s.repair.slices.any (fun c => c.target = p) then 3 else fget s f
    else fget s f

/-- A register read: write-only fields read as 0, reserved bits too (Table 00-5, R14). -/
def regView (s : State) (a : Nat) : Nat :=
  (fieldsAt a).foldl (fun w f => w + (match f.acc with
    | .wo => 0
    | _ => fieldValue s f) * 2 ^ f.lo) 0

/-! ### Writes (R13, R16) -/

/-- A field as a write of `v` in its place leaves it, by its access code (Table 00-5); a W1C flag that the hardware has set in the same cycle stays set (R16). -/
def writeField (s : State) (f : Field) (v : Nat) : State :=
  match f.acc with
  | .rw => fset s f v
  | .w1c => fset s f (Nat.land (fget s f) (Nat.lor (Nat.xor (v % 2 ^ f.width) (2 ^ f.width - 1)) (bitsIn (thisCycle s).flags f.key)))
  | .w1s => fset s f (Nat.lor (fget s f) v)
  | .ro => s
  | .wo => s

/-- Writes to a field that are ignored while something runs: the group table while frames run (R355), ring bases and sizes while a queue pair is enabled, and all of HIF_Q_CFG while it drains (R401, R412). -/
def writeIgnored (s : State) (f : Field) : Bool :=
  if f.addr = Fld.updGtabBase_BASE.addr ∨ f.addr = Fld.updGtabCount_COUNT.addr then runOn s
  else if 0x20100 ≤ f.addr ∧ f.addr < 0x20900 then
    let q := (f.addr - 0x20100) / 32
    if f.addr % 32 = 0x10 then decide (qpState s q = 2) || (fon s (Fld.hifQCfg_ENABLE q) && decide (f.lo ≠ 30)) else fon s (Fld.hifQCfg_ENABLE q)
  else false

/-- The bits of a shared register field that a write of `v` in its place reaches: those written 1 in a W1C field, all of a staged field; 0 for a field that is not shared (Table 15-3). -/
def reachedBits (f : Field) (v : Nat) : Nat :=
  match f.acc with
  | .w1c => v % 2 ^ f.width
  | _ => if stagedAddr f.addr then 2 ^ f.width - 1 else 0

/-- The register of a start bit that a command of its own takes with its operand: GO of PRS_PCMD and CHD_OTCMD, SEND of MGT_H2M, START of FMEM_OPCTL. -/
def startRegister (a : Nat) : Bool :=
  [Fld.prsPcmd_GO.addr, Fld.chdOtcmd_GO.addr, Fld.mgtH2m_SEND.addr].contains a || (decide (0x1000000 ≤ a) && decide (a < 0x4400000) && decide (a % 0x100000 = 0xF3030))

/-- START written to an FMEM_OPCTL with an operation that is neither a fill nor a copy: it is refused (R169, R190). Fills and copies have commands of their own. -/
def refusedStart (s : State) (a v : Nat) : State :=
  if startRegister a = true ∧ 0x1000000 ≤ a ∧ bitSet v 31 = true ∧ v % 8 ≠ 4 ∧ v % 8 ≠ 5 then startHostOp s ((a - 0x1000000) / 0x100000) (v % 8) else s

/-- A word that a master writes to a register: each field without a command of its own, those apart that `skip` names; a written start bit takes its operand with it into its own command. What a staged field held before the cycle's first write is kept (R447). -/
def writeWord (s : State) (a v : Nat) (skip : Field → Bool) : State :=
  let started := startRegister a && bitSet v 31
  settle s (refusedStart ((fieldsAt a).foldl (fun t f => if f.own || started || writeIgnored s f || skip f then t else writeField (keepStaged t f) f (bitsOf v f.lo f.width)) s) a v)

/-- What a word reaches of the shared fields of a register, as (field, bits) pairs. -/
def sharedBits (a v : Nat) : List (Nat × Nat) := ((fieldsAt a).map (fun f => (f.key, reachedBits f (bitsOf v f.lo f.width)))).filter (fun x => x.2 ≠ 0)

/-- Whether some (field, bits) pairs meet others. -/
def meets (xs ys : List (Nat × Nat)) : Bool := xs.any (fun x => decide (Nat.land x.2 (bitsIn ys x.1) ≠ 0))

/-- The host's word: where it meets the manager's write of the same cycle it is discarded, and counted (R424). -/
def hostWordWrite (s : State) (a v : Nat) : State :=
  let mgr := (thisCycle s).manager
  let mine := sharedBits a v
  let s := if meets mine mgr then bump s Fld.mgtCntLost_COUNT 1 else s
  let s := writeWord s a v (fun f => decide (Nat.land (reachedBits f (bitsOf v f.lo f.width)) (bitsIn mgr f.key) ≠ 0))
  modCycle s (fun c => { c with host := c.host ++ mine.filter (fun x => !meets [x] mgr) })

/-- The manager's word: a write of the host's that it meets in the same cycle is lost, and counted (R424). -/
def managerWordWrite (s : State) (a v : Nat) : State :=
  let mine := sharedBits a v
  let s := if meets mine (thisCycle s).host then bump s Fld.mgtCntLost_COUNT 1 else s
  modCycle (writeWord s a v (fun _ => false)) (fun c => { c with manager := c.manager ++ mine, host := c.host.filter (fun x => !meets [x] mine) })

/-- A word written to the MSI-X table or PBA: unmasking a vector whose message is pending sends it; the PBA is read-only (R413). -/
def msixWrite (s : State) (k v : Nat) : State :=
  if 0x1000 ≤ k then s
  else
    let s := modHif s (fun h => { h with msix := mapPut h.msix k v })
    let vec := k / 16
    let p := 0x1000 + vec / 32 * 4
    if k % 16 = 12 ∧ v % 2 = 0 ∧ bitSet (msixWord s p) (vec % 32) = true ∧ s.hif.bme = true then
      emit (modHif s (fun h => { h with msix := mapPut h.msix p (clearBit (msixWord s p) (vec % 32)) })) (.msix vec)
    else s

/-- An MSI-X table or PBA address. -/
def inMsix (a : Nat) : Bool := decide (0x30000 ≤ a ∧ a < 0x31020)

/-- An address in a register block of BAR0 or in a facet control page; what no table lists there is reserved (R14, R80, Table 14-4). -/
def inBlock (a : Nat) : Bool := decide (a < 0x100000) || (decide (0x1000000 ≤ a) && decide (a < 0x4400000) && decide (0xF0000 ≤ a % 0x100000))

/-- A host word write to a register. -/
def hostWord (s : State) (a v : Nat) : State :=
  if inMsix a then msixWrite s (a - 0x30000) v else if inBlock a then hostWordWrite s a v else s

/-- A BAR0 address of the facet memory or instruction memory of a facet window (R167). -/
def inFacetMem (a : Nat) : Bool := decide (0x1000000 ≤ a) && decide (a < 0x4400000) && decide (a % 0x100000 < 0x90000)

/-- A host write of 32 or 64 bits outside the memories of the facet windows, low word first (R11); an access to an address that no block defines is logged, once (R12). -/
def execHostRegisterWrite (addr size value : Nat) (s : State) : Res :=
  whenever (hostUp s && !inFacetMem addr) s
    (if !sizeOk addr size then hostErr s 0 true addr size 1
     else
       let t := hostWord s addr (value % 2 ^ 32)
       let t := if size = 8 then hostWord t (addr + 4) (value / 2 ^ 32 % 2 ^ 32) else t
       if inBlock addr && (decide (size ≠ 8) || inBlock (addr + 4)) then t else hostErr t 0 true addr size 2)

/-- An offset in the doorbell page of a queue pair, one of its two doorbells. -/
def inDoorbell (a : Nat) : Bool := decide (a < 0x40000) && decide (a % 0x1000 < 8)

/-- A BAR2 address in an express window. -/
def inExpress (a : Nat) : Bool := decide (a < 0x40000) && decide (a % 0x1000 / 0x80 = 2)

/-- What a host read of `size` bytes of a doorbell page returns: the doorbells read as 0; elsewhere every byte is 0xFF (R12, R400). -/
def doorbellRead (addr size : Nat) : List Byte := List.replicate size (if inDoorbell addr && sizeOk addr size && (decide (size ≠ 8) || inDoorbell (addr + 4)) then 0#8 else 0xFF#8)

/-- The cause that `GLB_HERR_INFO` shows of an access error (Table 14-11): a malformed express write, a size or alignment, an unassigned address. -/
def accessCause (bar : Nat) (isWrite : Bool) (addr size : Nat) : Nat :=
  if bar = 1 ∧ isWrite = true ∧ inExpress addr = true then 7 else if sizeOk addr size then 2 else 1

/-- An access to BAR0 or BAR2 that R11, R12 or R400 does not accept: a write is discarded, a read answers with bytes of 0xFF; both are logged. -/
def execBar0AccessError (bar : Nat) (isWrite : Bool) (addr size : Nat) (s : State) : Res :=
  let known (a : Nat) : Bool := if bar = 0 then inBlock a || inFacetMem a else inDoorbell a
  let whole := known addr && (decide (size ≠ 8) || known (addr + 4))
  whenever (hostUp s && decide (bar < 2) && !(whole && sizeOk addr size)) s
    (let s := hostErr s bar isWrite addr size (accessCause bar isWrite addr size)
     if isWrite then s else emit s (.readData (List.replicate size 0xFF#8)))

end Sys2Proof.Machine
end

