-- ==== Sys2Proof/Machine/Mgmt.lean ====
section
/-! DEFINITION. The management controller and the root of trust (file 15): Limmund messages (R423 to R427, R431 to R433, R439), firmware images and their update (R428 to R430, R436, R437), attestation (R434, R435), MCTP endpoints (R421, R422), sensors (R513). -/

namespace Sys2Proof.Machine

/-! ### Who is served (R422, R423, R429, R437) -/

/-- `MGT_STATUS.STATE`: 0 booting, 1 ready, 2 switching, 3 updating, 4 recovery. -/
def mgmtState (s : State) : Nat := fget s Fld.mgtStatus_STATE

/-- The host link is up: what the PCI Express binding needs (R422). -/
def linkUp (s : State) : Bool := fon s Fld.hifLink_SPEED && !s.power.hifReset

/-- A binding exists. -/
def bound (s : State) : Binding → Bool
  | .sideband => s.power.stbyOk
  | .pcie => s.power.stbyOk && linkUp s

/-- The management firmware answers on a binding. -/
def mgmtServes (s : State) (b : Binding) : Bool := bound s b && (decide (mgmtState s = 1) || decide (mgmtState s = 3))

/-- MCTP control and firmware update are answered, by the firmware or by the ROM in RECOVERY (R429). -/
def mctpServes (s : State) (b : Binding) : Bool := mgmtServes s b || (bound s b && decide (mgmtState s = 4))

/-- A Limmund response. -/
def reply (s : State) (b : Binding) (status : Nat) (body : List Byte) : State := emit s (.limmund b status body)

/-- A Limmund command: not answered while nothing serves; NOT_OWNER when it belongs to the side-band alone (R423). -/
def limmund (b : Binding) (sideOnly : Bool) (s : State) (act : State → State) : Res :=
  whenever (mgmtServes s b) s (if sideOnly && decide (b = .pcie) then reply s b 2 [] else act s)

/-- A Limmund command that needs the main side: MAIN_DOWN while it is not ready (R423). -/
def limmundMain (b : Binding) (sideOnly : Bool) (s : State) (bad : Bool) (act : State → State) : Res :=
  limmund b sideOnly s (fun s => if bad then reply s b 1 [] else if !(mainReady s && serving s) then reply s b 3 [] else act s)

/-! ### Status, cap, log -/

/-- GET_STATUS: the device status as `MGT_STATUS` and `GLB_STATUS` show it. -/
def execGetStatus (b : Binding) (s : State) : Res :=
  limmund b false s (fun s => reply s b 0 (leBytes 4 (regView s Fld.mgtStatus_STATE.addr) ++ leBytes 4 (regView s Fld.glbStatus_MAINREADY.addr)))

/-- SET_POWER_CAP (R427). -/
def execSetPowerCap (b : Binding) (watts : Nat) (s : State) : Res :=
  limmund b true s (fun s => if watts = 0 ∨ (300 ≤ watts ∧ watts ≤ 780) then reply (fset s Fld.mgtCap_WATTS watts) b 0 [] else reply s b 1 [])

/-- READ_LOG: up to seven entries from one on, the oldest that is held being entry 0 (R423). -/
def execReadLog (b : Binding) (first count : Nat) (s : State) : Res :=
  limmund b false s (fun s => if 7 < count then reply s b 1 [] else reply s b 0 (((s.mgmt.log.drop first).take count).flatten))

/-! ### Registers (R424, R425) -/

/-- A BAR0 offset that the manager reaches: register blocks and facet control pages. -/
def managerReaches (a : Nat) : Bool :=
  decide (a % 4 = 0) && (decide (a < 0x100000) || (decide (0x1000000 ≤ a ∧ a < 0x4400000) && decide (0xF0000 ≤ a % 0x100000)))

/-- REG_READ. -/
def execRegRead (b : Binding) (addr words : Nat) (s : State) : Res :=
  let as := (List.range words).map (fun i => addr + 4 * i)
  limmundMain b false s (decide (words < 1 ∨ 16 < words) || !as.all managerReaches) (fun s =>
    as.foldl (fun s _ => drawn s) (reply s b 0 (as.flatMap (fun a => leBytes 4 (regView s a)))))

/-- A field that the manager may write: FMEM_GATE, W1C flags, staged configuration fields and their commit (Table 15-3, R447, R451). -/
def managerWrites (f : Field) : Bool :=
  decide (f.acc = .w1c) || inRanges [(0xEC000, 0xEC003), (0xEC040, 0xEC05F)] f.addr || (decide (0x1000000 ≤ f.addr) && decide (f.addr % 0x100000 = 0xF3000))

/-- The manager's write of a word to fields that it may write. -/
def managerWord (s : State) (a v : Nat) : State :=
  if a = Fld.rpmCfgCmd_COMMIT.addr then
    (if bitSet v 31 then (match execConfigCommit s with
      | .next t => t
      | .fault _ => s
      | .refused _ => s) else s)
  else if 0x1000000 ≤ a ∧ a % 0x100000 = 0xF3000 then
    managerGate s ((a - 0x1000000) / 0x100000) v
  else if 0xEC058 ≤ a ∧ a < 0xEC060 then
    let f := Fld.rpmCfgStageM_VALUE ((a - 0xEC058) / 4)
    fset (keepStaged s f) f v
  else managerWordWrite s a v

/-- REG_WRITE: NOT_OWNER where the register has a writable field of the host's (R425, Table 15-3). -/
def execRegWrite (b : Binding) (addr : Nat) (value : Word) (s : State) : Res :=
  let fs := (fieldsAt addr).filter (fun f => decide (f.acc ≠ .ro) || managerWrites f)
  limmundMain b true s (!managerReaches addr) (fun s =>
    if fs.any (fun f => !managerWrites f) then reply s b 2 [] else reply (if fs.isEmpty then s else managerWord s addr value.toNat) b 0 [])

/-! ### Mailbox (R439) -/

/-- A write of LEN and SEND: the message is latched unless the last one has not been taken. -/
def execHostMailboxSend (len : Nat) (s : State) : Res :=
  whenever (hostUp s) s
    (let s := fset s Fld.mgtH2m_LEN len
     if fon s Fld.mgtH2m_BUSY ∨ len < 1 ∨ 256 < len then s else modMgmt (fset s Fld.mgtH2m_BUSY 1) (fun m => { m with h2mLen := len }))

/-- The bytes of the host's message. -/
def hostMessage (s : State) : List Byte := ((List.range 64).flatMap (fun i => leBytes 4 (fget s (Fld.mgtH2mBuf_DATA i)))).take s.mgmt.h2mLen

/-- MBX_FETCH: part of the message; with its last byte the message is taken, BUSY falls and vector 2 is sent. -/
def execMbxFetch (b : Binding) (offset : Nat) (s : State) : Res :=
  limmundMain b false s false (fun s =>
    let m := hostMessage s
    if !fon s Fld.mgtH2m_BUSY || decide (m.length ≤ offset) then reply s b 1 []
    else
      let t := reply s b 0 (leBytes 2 m.length ++ (m.drop offset).take 238)
      if m.length ≤ offset + 238 then sendVec (fset t Fld.mgtH2m_BUSY 0) 2 else t)

/-- MBX_SEND: the message for the host, READY and vector 2; BUSY while READY is 1. -/
def execMbxSend (b : Binding) (message : List Byte) (s : State) : Res :=
  limmundMain b false s (decide (message.length < 1 ∨ 240 < message.length)) (fun s =>
    if fon s Fld.mgtM2h_READY then reply s b 5 []
    else
      let n := (message.length + 3) / 4
      let s := (List.range n).foldl (fun s i => fset s (Fld.mgtM2hBuf_DATA i) (fieldOf (message ++ [0#8, 0#8, 0#8]) (4 * i) 4)) s
      reply (sendVec (setFlag (fset s Fld.mgtM2h_LEN message.length) Fld.mgtM2h_READY) 2) b 0 [])

/-! ### Keys and counters (R431 to R433) -/

/-- Owner slot `i` is fused, and not revoked. -/
def ownerLive (s : State) (i : Nat) : Bool := bitSet (fget s Fld.secStatus_OWNERFUSED) i && !bitSet (fget s Fld.secStatus_OWNERREVOKED) i

/-- The owner slot that a key's hash matches among the fused, unrevoked ones. -/
def ownerSlot (s : State) (key : List Byte) : Option Nat :=
  (List.range 4).find? (fun i => ownerLive s i && decide (mapFind s.mgmt.ownerHash i = some (sha256 key)))

/-- The vendor slot that a key's hash matches among the fused, unrevoked ones (R428, R431). -/
def vendorSlot (s : State) (key : List Byte) : Option Nat :=
  (List.range 4).find? (fun i => Config.vendorFused i && !bitSet s.mgmt.vendorRevoked i && decide (beBytes 32 (Config.vendorKeyHash i) = sha256 key))

/-- The owner image key put into its registers, valid and locked (R432). -/
def installKey (s : State) (key : List Byte) : State :=
  let s := (List.range 16).foldl (fun s i => fset s (Fld.secOik_KEY i) (ofBe (sliceOf key (4 * i) 4))) s
  let s := fset (fset s Fld.secOikCtl_VALID 1) Fld.secOikCtl_LOCK 1
  let s := fset s Fld.secOikCtl_SLOT ((ownerSlot s key).getD 0)
  fset s Fld.secStatus_UNOWNED (bitNat s.mgmt.storedUnowned)

/-- SET_IMAGE_KEY (R432). -/
def execSetImageKey (b : Binding) (key : List Byte) (s : State) : Res :=
  limmund b true s (fun s =>
    if key.length ≠ 64 then reply s b 1 []
    else if fget s Fld.secStatus_OWNERFUSED ≠ 0 ∧ ownerSlot s key = none then reply s b 4 []
    else if fon s Fld.secOikCtl_LOCK && decide (installedKey s = key) then reply s b 0 []
    else
      let s := modMgmt s (fun m => { m with storedKey := some key, storedUnowned := decide (fget s Fld.secStatus_OWNERFUSED = 0) })
      if mainReady s && !fon s Fld.secOikCtl_LOCK then reply (installKey s key) b 0 [] else reply s b 6 [])

/-- FUSE_OWNER: an unfused slot takes a hash; the first without a signature, offline only, later ones signed by an owner (R431). -/
def execFuseOwner (b : Binding) (slot : Nat) (hash signature publicKey : List Byte) (s : State) : Res :=
  limmund b true s (fun s =>
    let fused := fget s Fld.secStatus_OWNERFUSED
    let offline := decide (2 ≤ fget s Fld.mgtStatus_OFFLINE)
    let signed := (ownerSlot s publicKey).isSome && ecdsaVerify publicKey (sha256 (leBytes 1 0x0A ++ leBytes 1 slot ++ hash)) signature
    if 4 ≤ slot ∨ hash.length ≠ 32 ∨ signature.length ≠ 64 then reply s b 1 []
    else if bitSet fused slot || !(if fused = 0 then offline else signed) then reply s b 4 []
    else reply (modMgmt (fset s Fld.secStatus_OWNERFUSED (setBit fused slot)) (fun m => { m with ownerHash := mapPut m.ownerHash slot hash })) b 0 [])

/-- REVOKE, signed by another fused, unrevoked key of the same class (R431). -/
def execRevoke (b : Binding) (cls slot : Nat) (signature publicKey : List Byte) (s : State) : Res :=
  limmund b true s (fun s =>
    let signer := if cls = 0 then vendorSlot s publicKey else ownerSlot s publicKey
    let ok := ecdsaVerify publicKey (sha256 (leBytes 1 0x0B ++ leBytes 1 cls ++ leBytes 1 slot)) signature
    if 1 < cls ∨ 4 ≤ slot ∨ signature.length ≠ 64 then reply s b 1 []
    else if signer.isNone || decide (signer = some slot) || !ok then reply s b 4 []
    else if cls = 0 then reply (modMgmt s (fun m => { m with vendorRevoked := setBit m.vendorRevoked slot })) b 0 []
    else reply (fset s Fld.secStatus_OWNERREVOKED (setBit (fget s Fld.secStatus_OWNERREVOKED) slot)) b 0 [])

/-! ### Firmware images (R428, Tables 15-5 and 15-6) -/

/-- The flash offset and size of a slot (0 A, 1 B) of a component (Table 15-5). -/
def slotPlace (comp slot : Nat) : Nat × Nat :=
  match comp with
  | 1 => (0x100000 + slot * 0x200000, 0x200000)
  | 2 => (0x500000 + slot * 0x800000, 0x800000)
  | _ => (0x1500000 + slot * 0x200000, 0x200000)

/-- The anti-rollback counter of a component (R433). -/
def svnField (comp : Nat) : Field := if comp = 1 then Fld.secSvn_MGT else if comp = 2 then Fld.secSvn_MAIN else Fld.secSvn_PROT

/-- The header of the image in a slot. -/
def fwHeader (s : State) (comp slot : Nat) : List Byte := memReadN s.flash (slotPlace comp slot).1 128

/-- The image in a slot is accepted (R428). -/
def fwAccepted (s : State) (comp slot : Nat) : Bool :=
  let p := slotPlace comp slot
  let h := fwHeader s comp slot
  let len := fieldOf h 0xC 4
  let key := memReadN s.flash (p.1 + 128 + len) 64
  let ks := fieldOf h 0x10 1
  decide (sliceOf h 0 4 = [0x4C#8, 0x4D#8, 0x46#8, 0x57#8]) && decide (fieldOf h 4 2 = comp) && decide (len ≤ p.2 - 128)
    && (sliceOf h 0x11 15).all (· == 0#8) && decide (fieldOf h 6 1 = Config.level)
    && decide (ks < 4) && Config.vendorFused ks && !bitSet s.mgmt.vendorRevoked ks && decide (beBytes 32 (Config.vendorKeyHash ks) = sha256 key)
    && ecdsaVerify key (sha256 (h.take 64)) (sliceOf h 0x40 64)
    && decide (fieldOf h 7 1 ≤ 64) && decide (fget s (svnField comp) ≤ fieldOf h 7 1)
    && decide (sliceOf h 0x20 32 = sha256 (memReadN s.flash (p.1 + 128) len))

/-- A refused image is counted and flagged (R428). -/
def fwRefused (s : State) : State := event s Fld.secErr_FWFAIL Fld.secCntFwfail_COUNT

/-- The slot that the boot record names active (R429). -/
def activeSlot (s : State) (comp : Nat) : Nat := if comp = 1 then s.mgmt.active1 else if comp = 2 then s.mgmt.active2 else s.mgmt.active3

/-- The boot record with a slot made active (R436, R437). -/
def setActive (s : State) (comp slot : Nat) : State :=
  modMgmt s (fun m => if comp = 1 then { m with active1 := slot } else if comp = 2 then { m with active2 := slot } else { m with active3 := slot })

/-- The slot that an image is loaded from: the active one, or the other where that is refused; refusals are counted (R430). -/
def loadSlot (s : State) (comp : Nat) : State × Option Nat :=
  let a := activeSlot s comp
  if fwAccepted s comp a then (s, some a)
  else
    let s := fwRefused s
    if fwAccepted s comp (1 - a) then (s, some (1 - a)) else (fwRefused s, none)

/-- An image runs: its slot and version are shown, its digest is kept for attestation (R430, R434, R435). -/
def fwLoaded (s : State) (comp slot : Nat) : State :=
  let h := fwHeader s comp slot
  let d := sliceOf h 0x20 32
  let s := fset s (if comp = 1 then Fld.secBoot_MGTSLOT else if comp = 2 then Fld.secBoot_MAINSLOT else Fld.secBoot_PROTSLOT) slot
  let s := fset s (Fld.mgtVer_VERSION (comp - 1)) (fieldOf h 8 4)
  modMgmt s (fun m => if comp = 1 then { m with mgtDigest := d } else if comp = 2 then { m with mainDigest := d } else { m with protDigest := d })

/-- The ROM runs the management firmware from a slot, which then has 2 s to report ready (R429); a refused image leaves the next attempt, or RECOVERY. -/
def romTry (s : State) (slot attempt : Nat) : State :=
  if fwAccepted s 1 slot then modMgmt (fwLoaded s 1 slot) (fun m => { m with bootAt := s.now, bootTried := attempt })
  else
    let s := fwRefused s
    if attempt < 2 then
      (if fwAccepted s 1 (1 - slot) then modMgmt (fwLoaded s 1 (1 - slot)) (fun m => { m with bootAt := s.now, bootTried := 2 })
       else fset (fwRefused s) Fld.mgtStatus_STATE 4)
    else fset s Fld.mgtStatus_STATE 4

/-- COMMIT_SVN: the counter rises to the SVN of the active image, which must have been loaded (R433). -/
def execCommitSvn (b : Binding) (component : Nat) (s : State) : Res :=
  limmund b true s (fun s =>
    let a := activeSlot s component
    let running := if component = 1 then fget s Fld.secBoot_MGTSLOT else if component = 2 then fget s Fld.secBoot_MAINSLOT else fget s Fld.secBoot_PROTSLOT
    let svn := fieldOf (fwHeader s component a) 7 1
    if component < 1 ∨ 3 < component then reply s b 1 []
    else if running ≠ a ∨ (component ≠ 1 ∧ s.power.bootedMain = false) then reply s b 5 []
    else reply (fset s (svnField component) (max (fget s (svnField component)) svn)) b 0 [])

/-! ### Firmware update (R436, R437) -/

/-- RequestUpdate: one agent at a time. -/
def execRequestUpdate (b : Binding) (s : State) : Res :=
  whenever (mctpServes s b) s
    (match s.mgmt.update with
     | some _ => emit s (.mctp b [0x8E#8])
     | none =>
       let s := modMgmt s (fun m => { m with update := some ⟨b, []⟩ })
       emit (if mgmtState s = 1 then fset s Fld.mgtStatus_STATE 3 else s) (.mctp b [0#8]))

/-- Part of a component written to its inactive slot. -/
def execComponentWrite (component offset : Nat) (data : List Byte) (s : State) : Res :=
  match s.mgmt.update with
  | none => .next s
  | some u =>
    let p := slotPlace component (1 - activeSlot s component)
    whenever (mctpServes s u.agent && decide (1 ≤ component ∧ component ≤ 3) && decide (offset + data.length ≤ p.2)) s
      (modMgmt { s with flash := memWrite s.flash (p.1 + offset) data } (fun m => { m with update := some { u with verified := u.verified.filter (· ≠ component) } }))

/-- VerifyComplete: the image in the inactive slot is checked by R428. -/
def execVerifyComplete (component : Nat) (s : State) : Res :=
  match s.mgmt.update with
  | none => .next s
  | some u =>
    whenever (mctpServes s u.agent && decide (1 ≤ component ∧ component ≤ 3)) s
      (if fwAccepted s component (1 - activeSlot s component) then
         modMgmt s (fun m => { m with update := some { u with verified := if u.verified.contains component then u.verified else u.verified ++ [component] } })
       else fwRefused s)

/-- ActivateFirmware: acknowledged, and verified slots become active; component 0x0001 switches over, its controller reset 5 ms later (R436, R437, Table 15-9). -/
def execActivateFirmware (s : State) : Res :=
  match s.mgmt.update with
  | none => .next s
  | some u =>
    whenever (mctpServes s u.agent) s
      (let old := s.mgmt.active1
       let s := u.verified.foldl (fun s c => setActive s c (1 - activeSlot s c)) (modMgmt (emit s (.mctp u.agent [0#8])) (fun m => { m with update := none }))
       let s := if mgmtState s = 3 then fset s Fld.mgtStatus_STATE 1 else s
       if u.verified.contains 1 then modMgmt s (fun m => { m with switchFrom := some old, switchAt := some (s.now + cyclesOf 5000) }) else s)

/-- The management controller is reset into its new firmware; where that is refused the old slot runs again, and is active again (R437). -/
def switchOver (s : State) : State :=
  let new := s.mgmt.active1
  let t := romTry (fset (modMgmt s (fun m => { m with switchAt := none })) Fld.mgtStatus_STATE 2) new 1
  if mgmtState t = 2 ∧ fget t Fld.secBoot_MGTSLOT = new then t else modMgmt (setActive t 1 (1 - new)) (fun m => { m with switchFrom := none })

/-- A switch-over begins at its time (Table 15-9). -/
def mgmtCycle (s : State) : State :=
  match s.mgmt.switchAt with
  | none => s
  | some t => if s.power.stbyOk && decide (t ≤ s.now) then switchOver s else s

/-- New management firmware has not reported ready within 2 s: at boot the ROM tries the other slot once, at a switch-over it returns to the old slot and makes it active again (R429, R437). -/
def execFirmwareReadyTimeout (s : State) : Res :=
  whenever (s.power.stbyOk && (decide (mgmtState s = 0) || decide (mgmtState s = 2)) && decide (s.mgmt.bootAt + cyclesOf 2000000 ≤ s.now)) s
    (match s.mgmt.switchFrom with
     | some old => romTry (setActive (modMgmt s (fun m => { m with switchFrom := none })) 1 old) old 2
     | none => if s.mgmt.bootTried < 2 then romTry s (1 - fget s Fld.secBoot_MGTSLOT) 2 else fset s Fld.mgtStatus_STATE 4)

/-! ### Endpoints, attestation, sensors -/

/-- Set Endpoint ID on one binding's endpoint (R422). -/
def execSetEndpointId (b : Binding) (eid : Nat) (s : State) : Res :=
  whenever (mctpServes s b) s
    (emit (modMgmt s (fun m => match b with
      | .sideband => { m with eidSide := eid % 256 }
      | .pcie => { m with eidPcie := eid % 256 })) (.mctp b [0#8, 0#8, byteAt eid 0]))

/-- A dynamic address in I3C mode (R421). -/
def execDynamicAddressAssignment (addr : Nat) (s : State) : Res :=
  whenever (s.power.stbyOk && s.mgmt.i3c) s (modMgmt s (fun m => { m with dynAddr := some (addr % 128) }))

/-- The management firmware's digest as SEC uses it. -/
def fwDigest (s : State) : Nat := ofBe s.mgmt.mgtDigest

/-- The certificate chain of slot 0 (R434). -/
def certChain (s : State) : List Byte := Config.certificateChain ++ Config.aliasCertificate (fwDigest s)

/-- The SPDM responder answers, over any binding (R415, R422). -/
def spdmServes (s : State) : Bool := s.power.stbyOk && (decide (mgmtState s = 1) || decide (mgmtState s = 3))

/-- GET_CERTIFICATE: a part of the chain and what remains after it. -/
def execGetCertificate (offset len : Nat) (s : State) : Res :=
  whenever (spdmServes s) s
    (let c := certChain s
     let part := (c.drop offset).take len
     emit s (.spdm (leBytes 2 part.length ++ leBytes 2 (c.length - offset - part.length) ++ part)))

/-- A signature with the alias key over a transcript (R434). -/
def signed (s : State) (body : List Byte) (nonce : List Byte) : State :=
  emit (modMgmt s (fun m => { m with nonce := m.nonce + 1 })) (.spdm (body ++ Config.aliasSign (fwDigest s) (nonce ++ body) s.mgmt.nonce))

/-- CHALLENGE: the hash of the chain, signed with the nonce. -/
def execChallenge (nonce : List Byte) (s : State) : Res := whenever (spdmServes s) s (signed s (sha256 (certChain s)) nonce)

/-- A measurement block (Table 15-8). Blocks 3, 4 and 6 are zero while the main side is down. -/
def measurement (s : State) (i : Nat) : List Byte :=
  let down (d : List Byte) : List Byte := if mainUp s then sliceOf d 0 32 else List.replicate 32 0#8
  match i with
  | 1 => beBytes 32 Config.bootRomMeasurement
  | 2 => s.mgmt.mgtDigest
  | 3 => down s.mgmt.mainDigest
  | 4 => down s.mgmt.protDigest
  | 5 => leBytes 4 (fget s Fld.secStatus_DEBUGLOCKED + 2 ^ 4 * fget s Fld.secStatus_OWNERFUSED + 2 ^ 8 * fget s Fld.secStatus_OWNERREVOKED + 2 ^ 12 * fget s Fld.secStatus_UNOWNED)
      ++ leBytes 4 (wordOf s Fld.secSvn_MGT.addr)
  | 6 => down ((List.range 8).flatMap (fun k => beBytes 4 (fget s (Fld.secAimg_DIGEST k))))
  | 7 => sha256 ((List.range 8).flatMap (fun k => leBytes 4 (cfgForce s k)))
  | _ => []

/-- GET_MEASUREMENTS: how many blocks there are, one of them, or all, signed (R435). -/
def execGetMeasurements (index : Nat) (nonce : List Byte) (s : State) : Res :=
  let blocks := if index = 0 then [] else if index = 0xFF then [1, 2, 3, 4, 5, 6, 7] else [index]
  whenever (spdmServes s) s
    (signed s (if index = 0 then [7#8] else blocks.flatMap (fun i => leBytes 1 i ++ leBytes 2 (measurement s i).length ++ measurement s i)) nonce)

/-- A DOE request: discovery lists the two protocols, SPDM requests go to the responder (R415). -/
def execDoeRequest (object : List Byte) (s : State) : Res :=
  let kind := fieldOf object 2 1
  whenever (hostUp s && decide (object.length ≤ 4096) && decide (8 ≤ object.length)) s
    (if fieldOf object 0 2 ≠ 1 ∨ 1 < kind then s
     else if kind = 0 then
       let i := fieldOf object 8 1
       emit s (.spdm (leBytes 2 1 ++ leBytes 1 i ++ leBytes 1 (if i = 0 then 1 else 0)))
     else if spdmServes s then drawn (emit s (.spdm ((List.range 8).map (Config.freeByte s.free)))) else s)

/-- The source of a sensor lies in the main domain (R513, Table 18-10). -/
def mainSensor (id : Nat) : Bool := decide (id ≤ 22) || decide (51 ≤ id ∧ id ≤ 54)

/-- A sensor's reading: temperatures, throttle levels and core currents are those the part shows; the others come from outside. -/
def sensorValue (s : State) (id : Nat) (reading : Int) : Int :=
  if 2 ≤ id ∧ id ≤ 5 then signedOf 16 (fget s (Fld.rpmQt_TEMP (id - 2))) / 8
  else if 51 ≤ id ∧ id ≤ 54 then ((levelOf s (id - 51) : Nat) : Int)
  else if 30 ≤ id ∧ id ≤ 36 ∧ id % 2 = 0 then ((mapGet s.power.currents ((id - 30) / 2) 0 : Nat) : Int)
  else reading

/-- A numeric sensor is read (R513). -/
def execSensorRead (b : Binding) (id : Nat) (reading : Int) (s : State) : Res :=
  whenever (mgmtServes s b) s
    (if id < 1 ∨ 55 < id then emit s (.mctp b [0x80#8])
     else if mainSensor id && !mainUp s then emit s (.unavailable b id)
     else emit s (.sensor b id (sensorValue s id reading)))

/-- The manager reads a core regulator's current (R491). -/
def execAvsCurrentRead (q amps : Nat) (s : State) : Res :=
  whenever (s.power.mgmtUp && decide (q < 4) && bitSet s.power.good 2) s (modPower s (fun p => { p with currents := mapPut p.currents q amps }))

/-- A Limmund message with an undefined command or a malformed body (R423). -/
def execLimmundBadRequest (b : Binding) (command : Nat) (body : List Byte) (s : State) : Res :=
  let sideOnly := [2, 3, 6, 9, 10, 11, 12].contains command
  limmund b sideOnly s (fun s => if 1 ≤ command ∧ command ≤ 12 ∧ body.length ≤ 240 ∧ bodyFits command body.length = true then s else reply s b 1 [])
where
  /-- Whether a body has the length that its command asks for (Table 15-2). -/
  bodyFits (command n : Nat) : Bool :=
    match command with
    | 1 => decide (n = 0)
    | 2 => decide (n = 1)
    | 3 => decide (n = 2)
    | 4 => decide (n = 3)
    | 5 => decide (n = 5)
    | 6 => decide (n = 8)
    | 7 => decide (1 ≤ n ∧ n ≤ 240)
    | 8 => decide (n = 2)
    | 9 => decide (n = 64)
    | 10 => decide (n = 97)
    | 11 => decide (n = 66)
    | _ => decide (n = 2)

end Sys2Proof.Machine
end

