-- ==== Sys2Proof/Machine/Power.lean ====
section
/-! DEFINITION. Power sequencing (R492 to R496, R512), the causes and ends of resets (R397, R398, R429, R430, R497 to R501, R505), SET_OFFLINE (R426), and the Protractor's windows on links (R473). -/

namespace Sys2Proof.Machine

/-! ### D3hot and function resets (R397, R398, R497) -/

/-- Every queue pair is disabled at once, and every command outstanding is discarded with no completion (R397). -/
def discardCommands (s : State) : State :=
  let s := abandonMigrations s
  let s := (List.range 64).foldl (fun s q =>
    let s := fset (fset (setQpState s q 0) (Fld.hifQCfg_ENABLE q) 0) (Fld.hifQState_ERRCODE q) 0
    modQp s q (fun p => { Qp.off with gen := p.gen + 1 })) s
  let s := modHif s (fun h => { h with heldCpl := [], expressIn := [] })
  modSeq s (fun q => { q with loading := none, fetchedImg := [], manifests := [], express := [] })

/-- Entry to D3hot (R398). -/
def execD3hotEntry (s : State) : Res := whenever (hostUp s) s (modHif (discardCommands (stopRun s)) (fun h => { h with d3hot := true }))

/-- Return to D0 (R398). -/
def execD0Return (s : State) : Res := whenever (hostLink s && s.hif.d3hot) s (modHif s (fun h => { h with d3hot := false }))

/-- A Function Level Reset (R397): the link stays up. -/
def execFunctionLevelReset (s : State) : Res := whenever (hostLink s) s (enterFunctionReset .flr s)

/-- The link goes down with a function reset; one that falls in a main reset is ignored (R497, R500). -/
def linkDrop (s : State) : State := enterFunctionReset .function (modPower s (fun p => { p with funcReset := none }))

/-- A Hot Reset received on the link (R497). -/
def execHotReset (s : State) : Res := whenever (mainUp s && linkUp s) s (linkDrop s)

/-- The link goes down, DL_Down (R497). -/
def execDlDown (s : State) : Res := whenever (mainUp s && linkUp s) s (linkDrop s)

/-- PCIE_REFCLK is lost, which is handled as DL_Down, or a core clock is, which is fatal (R505). -/
def execClockLoss (pcie : Bool) (s : State) : Res :=
  if pcie then whenever (mainUp s && linkUp s) s (linkDrop s) else whenever (serving s) s (declareFatal s 5)

/-- No repair still owes its map change (R499). -/
def repairsDone (s : State) : Bool := s.repair.swaps.isEmpty && s.repair.slices.all (fun c => c.copied)

/-- The map changes that repairs have prepared (R463, R465, R499). -/
def finishRepairs (s : State) : State :=
  let ready := s.repair.pendingSwaps.filter (fun x => x.ready)
  let s := ready.foldl plannedMap (modRepair s (fun r => { r with pendingSwaps := r.pendingSwaps.filter (fun x => !x.ready) }))
  (s.repair.slices.filter (fun c => c.copied)).foldl sliceMapped s

/-- A function reset ends, once repairs that owe a map change have made it (R397, R499). -/
def execFunctionResetEnd (s : State) : Res :=
  whenever (mainUp s && s.power.funcReset.isSome && repairsDone s) s
    (let s := modPower (finishRepairs s) (fun p => { p with funcReset := none })
     if s.power.phase = .running then fset s Fld.glbStatus_MAINREADY 1 else s)

/-! ### The standby domain (R420, R429, R492, R495) -/

/-- STBY_PWROK rises: the straps are read and the boot ROM runs the active management firmware. Strap bit 2 is SB_SEL, bits 1 and 0 are SB_ADDR1 and SB_ADDR0. -/
def execStbyPwrokRise (straps : Nat) (s : State) : Res :=
  whenever (!s.power.stbyOk) s
    (let s := modPower s (fun p => { p with stbyOk := true })
     let s := modMgmt s (fun m => { m with i3c := bitSet straps 2, addr := 0x3C + straps % 4 })
     romTry s s.mgmt.active1 1)

/-- Fields that hold fuses (R431, R433). -/
def fuseField (key : Nat) : Bool :=
  [Fld.secStatus_OWNERFUSED, Fld.secStatus_OWNERREVOKED, Fld.secSvn_MGT, Fld.secSvn_MAIN, Fld.secSvn_PROT].any (fun f => f.key = key)

/-- STBY_PWROK falls: the standby domain is in reset and releases the enables; what fuses and flash hold stays (R492, R495). -/
def execStbyPwrokFall (s : State) : Res :=
  whenever s.power.stbyOk s
    (let s := dropRails s
     let s := { s with regs := s.regs.filter (fun e => flashReg (e.1 / 32) (e.1 % 32) || fuseField e.1), clamps := [] }
     let s := modMgmt s (fun m => { Mgmt.reset with
       ownerHash := m.ownerHash, vendorRevoked := m.vendorRevoked, storedKey := m.storedKey, storedUnowned := m.storedUnowned
       active1 := m.active1, active2 := m.active2, active3 := m.active3, flashLog := m.flashLog, nonce := m.nonce })
     modPower s (fun p => { Power.reset with perstHigh := p.perstHigh, zeroAt := p.zeroAt }))

/-- The management firmware reports ready within 2 s of its start, at boot or after a switch-over; at boot it then brings up the main rails (R429, R437, R493). -/
def execManagementFirmwareReady (s : State) : Res :=
  whenever (s.power.stbyOk && (decide (mgmtState s = 0) || decide (mgmtState s = 2)) && decide (1 ≤ s.mgmt.bootTried)
      && decide (s.now ≤ s.mgmt.bootAt + cyclesOf 2000000)) s
    (startUp (modPower (modMgmt (fset s Fld.mgtStatus_STATE 1) (fun m => { m with switchFrom := none })) (fun p => { p with mgmtUp := true })))

/-! ### Main rails (R493 to R496, R512) -/

/-- An entry of the event log that the manager writes about the rails; its detail is not stated. -/
def logPower (s : State) (kind : Nat) : State := drawn (logEvent s (Config.powerEventCode kind) ((List.range 24).map (Config.freeByte s.free)))

/-- Sequence group `n` (1 to 4) is enabled and its PWR_GOOD is low. -/
def rising (s : State) (n : Nat) : Bool :=
  decide (1 ≤ n ∧ n ≤ 4) && bitSet s.power.enabled (n - 1) && !bitSet s.power.good (n - 1) && !s.power.goingDown && s.power.dropStep.isNone

/-- The group above `n` is enabled 1 ms later; after group 4 the main power-on reset begins, and 1 ms later the host interface may leave reset. Offline mode POWER_OFF stops the sequence here (R493, R496, R501). -/
def afterGood (s : State) (n : Nat) : State :=
  if offlineMode s = 3 then startDown s
  else if n < 4 then modPower s (fun p => { p with riseAt := some (s.now + cyclesOf 1000) })
  else hifHold (modPower (resetMain .powerOn s) (fun p => { p with phase := .powerOn, hifAt := s.now + cyclesOf 1000 }))

/-- PWR_GOODn rises within 20 ms of its enable (R493). -/
def execPwrGoodRise (n : Nat) (s : State) : Res :=
  whenever (rising s n && decide (s.now ≤ s.power.stepAt + cyclesOf 20000)) s
    (afterGood (modPower s (fun p => { p with good := setBit p.good (n - 1) })) n)

/-- The manager logs what has taken the rails down, and the offline mode reads POWER_OFF (R493, R495, R512). -/
def railsLost (s : State) (kind : Nat) : State := fset (logPower s kind) Fld.mgtStatus_OFFLINE 3

/-- PWR_GOODn has not risen within 20 ms: every enabled group goes, 1 ms apart (R493). -/
def execPwrGoodTimeout (n : Nat) (s : State) : Res :=
  whenever (rising s n && decide (s.power.stepAt + cyclesOf 20000 ≤ s.now)) s (railsLost (sequenceOff s (cyclesOf 1000)) 0)

/-- PWR_GOODn falls though its PWR_EN is high: every group goes, 100 µs apart (R495). -/
def execPwrGoodLoss (n : Nat) (s : State) : Res :=
  whenever (decide (1 ≤ n ∧ n ≤ 4) && bitSet s.power.enabled (n - 1) && bitSet s.power.good (n - 1) && !s.power.goingDown && s.power.dropStep.isNone) s
    (railsLost (sequenceOff (modPower s (fun p => { p with good := clearBit p.good (n - 1) })) (cyclesOf 100)) 1)

/-- The next group is enabled once PWR_GOOD has been high for 1 ms, unless offline mode POWER_OFF has come (R493, R496). -/
def enableNext (s : State) : State :=
  match s.power.riseAt, highest s.power.enabled with
  | some t, some g =>
    if s.now < t then s
    else if offlineMode s = 3 then startDown s
    else modPower s (fun p => { p with enabled := setBit p.enabled (g + 1), riseAt := none, stepAt := s.now })
  | _, _ => s

/-- The next group that the manager takes down by itself falls; with the last, the rails come up again if the offline mode has been left meanwhile (R493, R495). -/
def dropNext (s : State) : State :=
  match s.power.dropStep with
  | none => s
  | some d =>
    if s.now < s.power.stepAt + d then s
    else
      let on := withoutHighest s.power.enabled
      startUp (modPower s (fun p => { p with enabled := on, good := Nat.land p.good on, stepAt := s.now, dropStep := if on = 0 then none else some d }))

/-- The set point of a quadrant's core rail in mV: 0.75 V from its start (R491). -/
def corePoint (p : Power) (q : Nat) : Nat := mapGet p.corePoints q 750

/-- The manager may move a core rail's set point by steps of 5 mV in a cycle: it stays in 650 to 850 mV and within 20 mV of the others (R491). -/
def moveCore (now : Nat) (p : Power) (q : Nat) : Power :=
  let v := (corePoint p q : Int) + 5 * Config.avsSteps now q
  if 650 ≤ v ∧ v ≤ 850 ∧ (List.range 4).all (fun r => decide (r = q) || decide ((v - corePoint p r).natAbs ≤ 20)) = true then
    { p with corePoints := mapPut p.corePoints q v.toNat }
  else p

/-- The set points of the core rails in a cycle: moved as the manager likes while the rails are good, else none is in force (R491). -/
def coreCycle (s : State) : State :=
  modPower s (fun p => if p.mgmtUp && bitSet p.good 2 then (List.range 4).foldl (moveCore s.now) p else { p with corePoints := [] })

/-- What the manager does with the rails as time passes, and the release of the host interface (R491, R493, R495, R501). -/
def powerCycle (s : State) : State :=
  let t := coreCycle (dropNext (enableNext s))
  if t.power.hifReset && decide (t.power.hifAt = t.now) then hifHold t else t

/-- In a power-down the PWR_GOOD of the group disabled last is low, or 5 ms have passed: the next lower group is disabled, or the rails are down, and come up again if the offline mode has been left (R493, R494). -/
def execPowerDownStep (s : State) : Res :=
  whenever s.power.goingDown s
    (let s := modPower s (fun p => { p with good := Nat.land p.good p.enabled })
     match highest s.power.enabled with
     | some g => modPower s (fun p => { p with enabled := clearBit p.enabled g, stepAt := s.now })
     | none => startUp (modPower s (fun p => { p with goingDown := false })))

/-- A sensor reaches 115 °C (R512). -/
def execThermtrip (s : State) : Res :=
  whenever (s.power.stbyOk && decide (s.power.enabled ≠ 0)) s (railsLost (dropRails (modPower s (fun p => { p with thermtrip := true }))) 2)

/-! ### SET_OFFLINE (R426, R496) -/

/-- A deeper offline mode than the one in force begins; one that is not deeper changes nothing. RESET and POWER_OFF wait until no frame runs. -/
def goOffline (s : State) (mode : Nat) : State :=
  if mode ≤ offlineMode s then s
  else
    let s := fset s Fld.mgtStatus_OFFLINE mode
    if mode = 1 then stopRun s
    else if runOn s then stopRun (modPower s (fun p => { p with stopReq := some mode }))
    else holdMain s

/-- The offline mode is left: from RESET or POWER_OFF the main side boots; THERMTRIP_N is released (R426, R493, R512). -/
def goOnline (s : State) : State :=
  let deep := decide (2 ≤ offlineMode s)
  let s := modPower (fset s Fld.mgtStatus_OFFLINE 0) (fun p => { p with
    thermtrip := false, offlineReset := false, stopReq := none
    phase := match p.phase with
      | .held first => if deep then (if first then .powerOn else .mainReset) else .held first
      | x => x })
  startUp (hifHold s)

/-- SET_OFFLINE NONE. -/
def execSetOfflineNone (b : Binding) (s : State) : Res := limmund b true s (fun s => reply (goOnline s) b 0 [])

/-- SET_OFFLINE QUIESCE. -/
def execSetOfflineQuiesce (b : Binding) (s : State) : Res := limmund b true s (fun s => reply (goOffline s 1) b 0 [])

/-- SET_OFFLINE RESET. -/
def execSetOfflineReset (b : Binding) (s : State) : Res := limmund b true s (fun s => reply (goOffline s 2) b 0 [])

/-- SET_OFFLINE POWER_OFF. -/
def execSetOfflinePowerOff (b : Binding) (s : State) : Res := limmund b true s (fun s => reply (goOffline s 3) b 0 [])

/-! ### Boot of the main side (R127, R430, R497 to R501) -/

/-- PERST_N falls: a main reset if the main power-on reset has ended, else only the host interface is held (R497, R500). -/
def execPerstNFall (s : State) : Res :=
  whenever s.power.perstHigh s
    (let s := modPower s (fun p => { p with perstHigh := false })
     if pastPowerOn s then enterMainReset (modPower s (fun p => { p with perstReset := true })) else hifHold s)

/-- PERST_N rises (R500, R501). -/
def execPerstNRise (s : State) : Res :=
  whenever (!s.power.perstHigh) s (hifHold (modPower s (fun p => { p with perstHigh := true, perstReset := false })))

/-- The main domain waits for its firmware, with no cause of a reset left. -/
def awaitsFirmware (s : State) : Bool :=
  (decide (s.power.phase = .powerOn) || decide (s.power.phase = .mainReset)) && !s.power.offlineReset && !s.power.perstReset

/-- Components 0x0002 and 0x0003 have been read: they are checked and loaded and the main domain leaves reset for its self-test; where both slots of one are refused it stays in reset (R430). After a power-on reset the manager installs its image key, and device time starts (R416, R432). -/
def execMainFirmwareLoaded (s : State) : Res :=
  whenever (mgmtServes s .sideband && awaitsFirmware s) s
    (let first := decide (s.power.phase = .powerOn)
     let r2 := loadSlot s 2
     let r3 := loadSlot r2.1 3
     match r2.2, r3.2 with
     | some a, some b =>
       let s := modPower (fwLoaded (fwLoaded r3.1 2 a) 3 b) (fun p => { p with phase := .selfTest, bootedMain := true, zeroAt := if first then s.now else p.zeroAt })
       match s.mgmt.storedKey with
       | some key => if first then installKey s key else s
       | none => s
     | _, _ => modPower r3.1 (fun p => { p with phase := .held first }))

/-- A facet that has failed the start-up self-test is retired; a logical facet that it served goes to the quadrant's spare, or to none (R127, R462, R470). -/
def failedAtStart (s : State) (pf : Nat) : State :=
  match logicalOf s pf with
  | none => retireFacet s pf
  | some lf =>
    match spareFacet s (quadOf lf) with
    | some t => bump (fset (fset (retireFacet s pf) (Fld.rpmFstate_STATE t) 0) (Fld.rpmFmap_PFACET lf) t) Fld.rpmMapgen_GEN 1
    | none => unmapFacet (retireFacet s pf) lf

/-- The start-up self-test ends: spares that failed are retired before facets in service are replaced; repairs that owe a map change have made it; the main side is ready (R125, R127, R499, R501). -/
def execStartUpSelfTestEnd (runs : List (Nat × KatRun)) (s : State) : Res :=
  let of (f : Nat) : List KatRun := (runs.filter (fun r => r.1 = f)).map (·.2)
  let bad := (List.range 52).filter (fun f => !katPassed (of f))
  whenever (decide (s.power.phase = .selfTest) && repairsDone s) s
    (let s := (List.range 52).foldl (fun s f => katResult s f (of f)) s
     let s := (bad.filter (fun f => (logicalOf s f).isNone)).foldl failedAtStart s
     let s := (bad.filter (fun f => (logicalOf s f).isSome)).foldl failedAtStart s
     let s := modPower (finishRepairs s) (fun p => { p with phase := .running })
     if s.power.funcReset.isNone then fset s Fld.glbStatus_MAINREADY 1 else s)

/-! ### The Protractor on links (R458, R472, R473) -/

/-- A coefficient moved toward the fit's solution, by at most one eighth of its range in a window. -/
def nudge (old new : Nat) : Nat := if old ≤ new then min new (old + Config.ctleRange / 8) else max new (old - Config.ctleRange / 8)

/-- A lane below the wear figures: an eye of less than 8 mV, or 31/256 UI (Table 17-4). -/
def eyeWorn (width height : Nat) : Bool := decide (height < 8) || decide (width < 31)

/-- A window of a host lane is fitted. -/
def fitHost (s : State) (l ctle width height : Nat) : State :=
  let s := fset (fset (fset s (Fld.calHlane_CTLE l) (nudge (fget s (Fld.calHlane_CTLE l)) ctle)) (Fld.calHlane_WIDTH l) width) (Fld.calHlane_HEIGHT l) height
  if eyeWorn width height then setFlag s Fld.calErr_MARGINLOW else s

/-- A window of a Chord lane is fitted: after 16 worn windows in a row its lane is replaced, where a spare is left, and else left in service worn, which is recorded once. -/
def fitChord (s : State) (i ctle width height : Nat) : State :=
  let s := fset (fset (fset s (Fld.calLane_CTLE i) (nudge (fget s (Fld.calLane_CTLE i)) ctle)) (Fld.calLane_WIDTH i) width) (Fld.calLane_HEIGHT i) height
  let n := if eyeWorn width height then mapGet s.repair.eyeLow i 0 + 1 else 0
  let s := modRepair s (fun r => { r with eyeLow := mapPut r.eyeLow i n })
  if n ≠ 16 ∨ !bitSet (fget s (Fld.chdPState_LANES (i / 5))) (i % 5) then s
  else if spareLaneGone s (i / 5) then laneExhausted s (i / 5)
  else loseLane s (i / 5) (i % 5)

/-- A window of 65 536 symbols ends on a lane: with too few transitions, or a singular system, the coefficients stay; else the fit is applied (R473). -/
def execProtractorWindow (host : Bool) (lane transitions : Nat) (singular : Bool) (ctle width height : Nat) (s : State) : Res :=
  let live := if host then linkUp s && decide (lane < fget s Fld.hifLink_WIDTH) else decide (lane < 40) && portIn s (lane / 5) 5
  whenever (serving s && live) s
    (if transitions < 4096 || singular then bump s Fld.calCntSingular_COUNT 1
     else
       let s := bump s Fld.calCntUpdate_COUNT 1
       if host then fitHost s lane ctle width height else fitChord s lane ctle width height)

end Sys2Proof.Machine
end

