-- ==== Sys2Proof/Machine/Clock.lean ====
section
/-! DEFINITION. What a cycle of the main clock does whatever is commanded: the row inputs of each Lattice take a stationary load or a streamed row, Merge nodes combine, the Predictor loads and serves, and cycle counters count (R58, R61, R62, R81). -/

namespace Sys2Proof.Machine

/-! ### The Lattice (R61, R62, R72, R523) -/

/-- What the row inputs of a Lattice, or of one half, do in a cycle: nothing, a stationary load, a row from a ring offset, or a wait, with whether data is what they wait for. -/
inductive LatAct where
  | rest | load | enter (r : LRun) (start : Nat) | wait (dry : Bool)
  deriving DecidableEq, Repr

/-- The accesses of earlier passes to an accumulator row are over before a row that enters now reaches it, 127 cycles from its first cell (R57, R72). -/
def rowClear (s : State) (w : Who) (row : Nat) : Bool := decide (mapGet (latOf s w).rowAt row 0 ≤ s.now + 127)

/-- What the row inputs do in the cycle `now`. -/
def latAct (s : State) (w : Who) : LatAct :=
  let l := latOf s w
  if s.now < l.loadUntil then .load
  else if s.now < l.busyUntil then .rest
  else
    match l.run with
    | some r =>
      if !passLoaded l r then .wait (loadDue s w).isNone
      else
        match rowStart (ringSize s w) l r with
        | none => .wait true
        | some start => if !rowClear s w (r.base + r.row) then .wait false else if withheld s (quadOf w.lf) then .rest else .enter r start
    | none => if (latCurrent s w).isSome then .wait (loadDue s w).isNone else .rest

/-- A cycle of one Lattice: a row enters, a load ends with its last cycle, passes complete when their last value is written (Table 02-10). -/
def latCycle (s : State) (w : Who) (a : LatAct) : State :=
  let pf := physOf s w.lf
  let l := latOf s w
  let s := match a with
    | .enter r start => injectRow s w r start
    | _ => s
  let s := if l.loadUntil = s.now + 1 then bump s (Fld.latCntLoad_COUNT pf) 1 else s
  let done := (l.ends.filter (fun t => decide (t ≤ s.now))).length
  if done = 0 then s
  else bump (modLat s w (fun l => { l with ends := l.ends.filter (fun t => decide (s.now < t)) })) (Fld.latCntPass_COUNT pf) done

/-- A cycle counter counts where something happened in the cycle. -/
def countIf (s : State) (p : Bool) (f : Field) : State := if p then bump s f 1 else s

/-- A cycle of a facet's Lattice; a cycle in which both halves do the same counts once (R81, Tables 02-10 and 08-10). -/
def latticeCycle (s : State) (lf : Nat) : State :=
  let pf := physOf s lf
  let a := latAct s ⟨lf, 0⟩
  let b := latAct s ⟨lf, 1⟩
  let any (p : LatAct → Bool) : Bool := p a || p b
  let s := latCycle (latCycle s ⟨lf, 0⟩ a) ⟨lf, 1⟩ b
  let s := countIf s (any (fun x => decide (x = .load))) (Fld.latCntStall_COUNT pf)
  let s := countIf s (any (fun x => match x with
    | .enter _ _ => true
    | _ => false)) (Fld.latCntInject_COUNT pf)
  let s := countIf s (any (fun x => match x with
    | .wait _ => true
    | _ => false)) (Fld.latCntWait_COUNT pf)
  countIf s (any (fun x => decide (x = .wait true))) (Fld.strCntDry_COUNT pf)

/-- A facet has something in its Lattice. -/
def latticeWorks (f : Facet) : Bool :=
  let works (c : Ctx) (l : Lat) : Bool := c.cmds.any (fun x => decide (x.queue = .lat) && x.started.isSome) || !l.ends.isEmpty
  works f.ctxA f.latA || works f.ctxB f.latB

/-- A cycle of every Lattice. -/
def latticesCycle (s : State) : State := (s.facets.filter (fun f => latticeWorks f.2)).foldl (fun s f => latticeCycle s f.1) s

/-! ### A cycle -/

/-! ### Throttling (R483, R485) -/

/-- A withheld cycle puts off the end of a vector command that runs. -/
def Ctx.holdVectors (c : Ctx) (now : Nat) : Ctx :=
  { c with cmds := c.cmds.map (fun x => if x.queue = .vec ∧ x.started.isSome = true ∧ x.ready = true ∧ now < x.doneAt then { x with doneAt := x.doneAt + 1 } else x) }

/-- The vector commands of a quadrant are withheld for a cycle. -/
def holdQuad (s : State) (q : Nat) : State :=
  if withheld s q then { s with facets := s.facets.map (fun f =>
      if quadOf f.1 = q then (f.1, { f.2 with ctxA := f.2.ctxA.holdVectors s.now, ctxB := f.2.ctxB.holdVectors s.now }) else f) }
  else s

/-- A cycle of the throttles: counted, with what it withholds; the power cap's is counted once for all quadrants. -/
def throttleCycle (s : State) : State :=
  let s := (List.range 4).foldl (fun s q => if levelOf s q = 0 then s else holdQuad (countThrottle s q) q) s
  if (throttleOf s 0).power = 0 then s else modRepair s (fun r => { r with capRan := r.capRan + 1 })

/-! ### Waiting (R161, R181, R214, R383) -/

/-- Wide accesses to a facet's memory may be under way: of a fill, a copy or host work, a drain or a vector command, or a transfer of a stream. -/
def wideWork (s : State) (lf : Nat) : Bool :=
  let f := facetOf s lf
  let cmds (c : Ctx) : Bool := c.cmds.any (fun x => decide (x.queue = .drn ∨ x.queue = .vec) && x.started.isSome)
  guaranteedWork s lf || cmds f.ctxA || cmds f.ctxB
    || s.engines.any (fun e => e.2.transfers.any (fun t => decide (t.dest = .fmem lf) || (decide (t.lf = lf) && decide (t.ent.srcTd.kind = 0 ∧ t.ent.srcTd.space ≠ 1))))

/-- The cycles in which a wide access waits at a bank are counted. Which they are depends on the order of the accesses of a cycle, which the spec does not give for every access: while wide accesses are under way, whether one waited is free (R161, R190). -/
def conflictCycle (s : State) : State :=
  ((List.range 48).filter (wideWork s)).foldl (fun s lf =>
    drawn (countIf s (decide ((freshWord s).toNat % 2 = 1)) (Fld.fmemCntConflict_COUNT (physOf s lf)))) s

/-- A cycle in which writes wait on pages that migrate is counted (R214). -/
def migratingCycle (s : State) : State :=
  let waits (t : Transfer) : Bool := decide (t.dest = .pages) && decide (t.doneAt ≤ s.now) && t.pagesOf.any (fun v => pteMigrating (pteOf s v))
  countIf s (s.engines.any (fun e => e.2.transfers.any waits)) Fld.cptCntWwait_COUNT

/-- A cycle in which a packet of a port waits for credits of that port, for all of its copies there, is counted (R382, R383, Table 13-9). -/
def creditCycle (s : State) : State :=
  (List.range 8).foldl (fun s p =>
    let waits (vc : Nat) : Bool := match nextPacket s p vc with
      | none => false
      | some t => decide ((portOf s p).credits.getD vc 0 < (((copiesOf s p t).filter (fun c => c.1 = p)).map (fun c => packetUnits c.2.bytes)).sum)
    countIf s (portActive s p && (List.range 4).any waits) (Fld.chdPCntWait_COUNT p)) s

/-- A cycle that an Update unit spends on a command is counted (Table 12-7). -/
def updatesCycle (s : State) : State := (List.range 4).foldl (fun s q => countIf s (!(updateQueue s q).isEmpty) (Fld.updCntBusy_COUNT q)) s

/-- A cycle of the main clock passes; then what the next one brings happens: a switch-over or a step of the rails that is due, and the express requests that arrive. -/
def clockCycle (s : State) : State :=
  let t := creditCycle (migratingCycle (conflictCycle (wakeCopies (throttleCycle (updatesCycle (predictorCycle (mergeCycle (latticesCycle s))))))))
  expressCycle (powerCycle (mgmtCycle { t with now := s.now + 1 }))

end Sys2Proof.Machine
end

