-- ==== Sys2Proof/Machine/Channel.lean ====
section
/-! DEFINITION. Channels: CHPUSH, CHCOMMIT, CHPOP, CHFLUSH, visibility, delayed posts and the channel record (R263 to R276, R306, R524). -/

namespace Sys2Proof.Machine

/-- A channel that a context may use in a role: declared, and the context's task is the one the declaration names. -/
def chanRole (s : State) (w : Who) (ch : ChanName) (role : ChanEntry → Nat) : Bool :=
  match chanDecl s (chanKey ch) with
  | none => false
  | some e => decide (role e = taskId s w) && ch.wf

/-- The declaration of a channel that is known to be declared. -/
def declOf (s : State) (k : Nat) : ChanEntry := (chanDecl s k).getD ⟨0, 0, 1, 64, 0, 0, 0, 0, 0, 0, 0⟩

/-- CHPUSH: one credit asked of EMPTY (R266, R306). -/
def execChpush (w : Who) (d : Reg) (ch : ChanName) (s : State) : Res :=
  issueWhen s w [] [d] (chanRole s w ch (·.prodTask)) (semRoom s w (declOf s (chanKey ch)).emptySem) (fun s =>
    sendSem (waitFor s w (.push d (chanKey ch))) (semMsg s w (taskId s w) (declOf s (chanKey ch)).emptySem 1 .push))

/-- A credit has come back: CHPUSH reserves the next slot and returns its address (R266). -/
def execChpushGrant (w : Who) (s : State) : Res :=
  match (ctxOf s w).wait, grantFor s w [.push] with
  | .push d k, some g =>
    .next (rput (chanEvent (endWait (dropGrant s g) w) k .reserve) w d (BitVec.ofNat 32 (slotAddr (declOf s k) (chanOf s k).next)) 1)
  | _, _ => .next s

/-- A commit or rewind sent to its channel (R268). -/
def sendCommit (s : State) (w : Who) (k : Nat) (rewind : Bool) (len : Nat) : State :=
  modChan s k (fun c => { c with commits := c.commits ++ [⟨rewind, len, s.now + travel (quadOf w.lf) (quadOf (declOf s k).consumer)⟩] })

/-- A commit finds room in the crossing queue to its channel, if it has to cross (R268, R277). -/
def commitRoom (s : State) (w : Who) (ch : ChanName) : Bool := crossRoom s (quadOf w.lf) (quadOf (declOf s (chanKey ch)).consumer)

/-- A packet length that a channel takes (R268). -/
def commitLenOk (e : ChanEntry) (n : Nat) : Bool := decide (n % 4 = 0) && decide (4 ≤ n) && decide (n ≤ e.slotBytes)

/-- CHCOMMIT L (R268, R306). -/
def execChcommit (w : Who) (a : Reg) (ch : ChanName) (s : State) : Res :=
  issueWhen s w [a] [] (chanRole s w ch (·.prodTask) && commitLenOk (declOf s (chanKey ch)) (rget s w a).toNat) (commitRoom s w ch) (fun s =>
    sendCommit (advance s w 1) w (chanKey ch) false (rget s w a).toNat)

/-- CHCOMMIT REWIND (R269, R306). -/
def execChcommitRewind (w : Who) (ch : ChanName) (s : State) : Res :=
  issueWhen s w [] [] (chanRole s w ch (·.prodTask)) (commitRoom s w ch) (fun s => sendCommit (advance s w 1) w (chanKey ch) true 0)

/-- A commit or rewind reaches its channel after its travel time, in the order they were issued (R268, R269). -/
def execCommitArrival (ch : ChanName) (s : State) : Res :=
  let k := chanKey ch
  match chanDecl s k, (chanOf s k).commits with
  | some e, m :: r =>
    whenever (decide (m.arrive ≤ s.now)) s
      (let c := chanOf s k
       chanEvent (modChan s k (fun c => { c with commits := r })) k
         (if m.rewind then .rewind (producerFlight s c e (slotsOf e (c.res.map (·.n)))) else .commit m.len))
  | _, _ => .next s

/-- What the ended producer had in flight is over, or the producer has not ended (R276). -/
def holdOver (s : State) (c : Chan) : Bool := !c.prodEnded || (c.commits.isEmpty && (c.prodHold.map (flightDone s)).getD true)

/-- The oldest reservation was committed and filled in an earlier cycle than `now` (R268). -/
def headFilled (c : Chan) (now : Nat) : Bool :=
  match c.res with
  | [] => false
  | r :: _ =>
    match r.len with
    | none => false
    | some l => decide (l ≤ r.fill) && decide (r.lastAt < now)

/-- A packet becomes visible in order of reservation, and posts 1 on FULL from the consumer's facet (R268). -/
def execPacketVisible (ch : ChanName) (s : State) : Res :=
  let k := chanKey ch
  match chanDecl s k with
  | none => .next s
  | some e => whenever (headFilled (chanOf s k) s.now && holdOver s (chanOf s k)) s (chanPost (chanEvent s k .visible) e.consumer e.fullSem 1)

/-- CHPOP ACQUIRE: waits as an SWAIT of 1 on FULL would; faulting in a sink (R270, R276, R306). -/
def execChpopAcquire (w : Who) (d b : Reg) (ch : ChanName) (s : State) : Res :=
  issue s w [] [d, b] (chanRole s w ch (·.consTask) && decide (b ≠ d) && decide (b ≠ 0#5) && decide (d ≠ 0#5) && !(chanOf s (chanKey ch)).sink)
    (fun s => sendSem (waitFor s w (.acquire d b (chanKey ch))) (semMsg s w (taskId s w) (declOf s (chanKey ch)).fullSem 1 .acquire))

/-- A packet is granted: its address and length are returned (R270). Where a flush has voided it since the grant was sent, the spec names no address, and both are free values. -/
def execPacketAcquired (w : Who) (s : State) : Res :=
  match (ctxOf s w).wait, grantFor s w [.acquire] with
  | .acquire d b k, some g =>
    let t := endWait (dropGrant s g) w
    match (chanOf s k).visible with
    | [] => .next (rput (rput (drawn (drawn t)) w d (Config.freeWord s.free) 1) w b (Config.freeWord (s.free + 1)) 1)
    | p :: _ =>
      .next (rput (rput (chanEvent t k .acquire) w d (BitVec.ofNat 32 (slotAddr (declOf s k) p.1)) 1) w b (BitVec.ofNat 32 p.2) 1)
  | _, _ => .next s

/-- CHPOP RELEASE: the oldest acquired packet given back, its credit owed once the consumer's reads from its slot are over (R271). -/
def execChpopRelease (w : Who) (ch : ChanName) (s : State) : Res :=
  issue s w [] [] (chanRole s w ch (·.consTask)) (fun s =>
    let e := declOf s (chanKey ch)
    let f := flightAt s w false e.consumer (slotsOf e (((chanOf s (chanKey ch)).acquired.take 1).map (·.1)))
    chanEvent (advance s w 1) (chanKey ch) (.release f))

/-- CHFLUSH, by the producer task or the consumer task, at once (R272, R306). -/
def execChflush (w : Who) (ch : ChanName) (s : State) : Res :=
  issue s w [] [] (chanRole s w ch (·.prodTask) || chanRole s w ch (·.consTask)) (fun s =>
    let e := declOf s (chanKey ch)
    chanFlush (advance s w 1) e (chanKey ch) (bankFlight s e))

/-- A channel has a delayed post whose accesses are over. -/
def deferredDue (s : State) (c : Chan) : Option Nat := firstIdx (fun d => flightDone s d.flight) c.deferred

/-- The oldest reservation has not been filled. -/
def headUnfilled (c : Chan) : Bool :=
  match c.res with
  | [] => false
  | r :: _ => decide (r.fill < r.len.getD (r.fill + 1))

/-- The committed reservations of an ended producer that its writes have left unfilled are voided, and their credits return (R276). -/
def unfilledGone (s : State) (c : Chan) : Bool := c.prodEnded && holdOver s c && headUnfilled c

/-- A delayed post on EMPTY, or its restoring, is made once the accesses it waits for are over (R524); so are the credits of the reservations that R276 voids. -/
def execDeferredEmptyPost (ch : ChanName) (s : State) : Res :=
  let k := chanKey ch
  let c := chanOf s k
  match chanDecl s k with
  | none => .next s
  | some e =>
    match deferredDue s c with
    | some i =>
      let n := match c.deferred[i]? with
        | some d => if d.restore then 2 * e.slots else d.n
        | none => 0
      .next (chanPost (modChan s k (fun c => { c with deferred := dropAt c.deferred i })) e.consumer e.emptySem n)
    | none =>
      whenever (unfilledGone s c) s
        (let t := chanEvent s k .voidRest
         if c.sink then t else chanPost t e.consumer e.emptySem c.res.length)

/-- The channel record (Table 09-4). -/
def recordBytes (s : State) (e : ChanEntry) (c : Chan) : List Byte :=
  leBytes 4 c.pushed ++ leBytes 4 c.committed ++ leBytes 4 c.nacquired ++ leBytes 4 c.released
    ++ leBytes 2 (semOf s e.emptySem).count ++ leBytes 2 (semOf s e.fullSem).count ++ leBytes 2 c.flushes ++ leBytes 2 c.rewinds
    ++ leBytes 2 c.void ++ leBytes 1 (if c.sink then 1 else 0) ++ leBytes 1 0 ++ leBytes 4 c.lastLen ++ List.replicate 32 0#8

/-- The record rewritten, as one line write, after a change to it (R275). -/
def execChannelRecordRewrite (ch : ChanName) (s : State) : Res :=
  let k := chanKey ch
  match chanDecl s k with
  | none => .next s
  | some e =>
    let c := chanOf s k
    whenever c.dirty s
      (fmemPut { s with chans := mapPut s.chans k { c with dirty := false } } (physOf s e.consumer) (laidAt e.record (recordBytes s e c)))

end Sys2Proof.Machine
end

