-- ==== Sys2Proof/Machine/Engine.lean ====
section
/-! DEFINITION. The engine instructions at issue (Table 11-2) and the start and completion of their commands (R316 to R319, Table 11-7). -/

namespace Sys2Proof.Machine

/-! ### Engine instructions at issue -/

/-- TDMK (R320). -/
def execTdmk (w : Who) (d a : Reg) (handle off : Nat) (fromSts : Bool) (after : Nat) (s : State) : Res :=
  engine w .str (fun t => .tdmk fromSts (tdmkAddr (rget t w a) off) handle) after [a] d 0#5 (Instr.tdmk w d a handle off fromSts after).wf s

/-- TDRL (R321). -/
def execTdrl (w : Who) (handle after : Nat) (s : State) : Res :=
  engine w .str (fun _ => .tdrl handle) after [] 0#5 0#5 (Instr.tdrl w handle after).wf s

/-- STRM (R323). -/
def execStrm (w : Who) (o : StrmArgs) (after : Nat) (s : State) : Res :=
  engine w .str (fun t => .strm o (rget t w o.a) (rget t w o.b) (rget t w o.d)) after [o.a, o.b, o.d] 0#5 0#5 (Instr.strm w o after).wf s

/-- STQ (R324). -/
def execStq (w : Who) (d : Reg) (handle : Nat) (wait qeng walk : Bool) (after : Nat) (s : State) : Res :=
  engine w .str (fun _ => .stq handle wait qeng walk) after [] d 0#5 (Instr.stq w d handle wait qeng walk after).wf s

/-- LLOAD (R326, R327). -/
def execLload (w : Who) (n kp fmt : Nat) (hi : Bool) (after : Nat) (s : State) : Res :=
  engine w .lat (fun _ => .lload n kp fmt hi) after [] 0#5 0#5 (Instr.lload w n kp fmt hi after).wf s

/-- LPASS (R328). -/
def execLpass (w : Who) (a b : Reg) (accum : Bool) (afmt np after : Nat) (s : State) : Res :=
  engine w .lat (fun t => .lpass (rget t w a) (rget t w b) accum afmt np) after [a, b] 0#5 0#5 (Instr.lpass w a b accum afmt np after).wf s

/-- LSPLIT (R329). -/
def execLsplit (w : Who) (after : Nat) (s : State) : Res :=
  engine w .lat (fun _ => .lsplit) after [] 0#5 0#5 (Instr.lsplit w after).wf s

/-- LDRAIN, DRAIN form (R330). -/
def execLdrainDrain (w : Who) (d a b : Reg) (rows conv after : Nat) (s : State) : Res :=
  engine w .drn (fun t => .drain (rget t w a) (rget t w b) (rget t w d) rows conv) after [a, b, d] 0#5 0#5
    (Instr.ldrainDrain w d a b rows conv after).wf s

/-- LDRAIN, FILL form (R330). -/
def execLdrainFill (w : Who) (a b : Reg) (rows conv after : Nat) (s : State) : Res :=
  engine w .drn (fun t => .fill (rget t w a) (rget t w b) rows conv) after [a, b] 0#5 0#5 (Instr.ldrainFill w a b rows conv after).wf s

/-- CMODE (R325). -/
def execCmode (w : Who) (gmax after : Nat) (s : State) : Res :=
  engine w .lat (fun _ => .cmode gmax) after [] 0#5 0#5 (Instr.cmode w gmax after).wf s

/-- A vector instruction: its three registers are read, none is written (R331). -/
def vectorOp (w : Who) (op : VOp) (v : VecArgs) (legal : Bool) (s : State) : Res :=
  engine w .vec (fun t => .vec op v (rget t w v.d) (rget t w v.a) (rget t w v.b)) v.after [v.d, v.a, v.b] 0#5 0#5 legal s

/-- VADD (R332). -/
def execVadd (w : Who) (v : VecArgs) (s : State) : Res := vectorOp w .add v (Instr.vadd w v).wf s

/-- VMAX (R332). -/
def execVmax (w : Who) (v : VecArgs) (s : State) : Res := vectorOp w .max v (Instr.vmax w v).wf s

/-- VFMA (R332). -/
def execVfma (w : Who) (v : VecArgs) (s : State) : Res := vectorOp w .fma v (Instr.vfma w v).wf s

/-- VEXP (R332). -/
def execVexp (w : Who) (v : VecArgs) (s : State) : Res := vectorOp w .exp v (Instr.vexp w v).wf s

/-- VRSQ (R332). -/
def execVrsq (w : Who) (v : VecArgs) (s : State) : Res := vectorOp w .rsq v (Instr.vrsq w v).wf s

/-- VSIG (R332). -/
def execVsig (w : Who) (v : VecArgs) (s : State) : Res := vectorOp w .sig v (Instr.vsig w v).wf s

/-- VRED (R332). -/
def execVred (w : Who) (v : VecArgs) (s : State) : Res := vectorOp w .red v (Instr.vred w v).wf s

/-- VCVT (R332). -/
def execVcvt (w : Who) (v : VecArgs) (s : State) : Res := vectorOp w .cvt v (Instr.vcvt w v).wf s

/-- MGPUSH, PUSH form (R334). -/
def execMgpush (w : Who) (a b : Reg) (job after : Nat) (s : State) : Res :=
  engine w .mrg (fun t => .mgpush false (rget t w a) (rget t w b) job) after [a, b] 0#5 0#5 (Instr.mgpush w a b job after).wf s

/-- MGPUSH, PUSH_END form (R334). -/
def execMgpushEnd (w : Who) (a b : Reg) (job after : Nat) (s : State) : Res :=
  engine w .mrg (fun t => .mgpush true (rget t w a) (rget t w b) job) after [a, b] 0#5 0#5 (Instr.mgpushEnd w a b job after).wf s

/-- MGDRAIN, OPEN form (R335). -/
def execMgdrainOpen (w : Who) (a : Reg) (after : Nat) (s : State) : Res :=
  engine w .mrg (fun t => .mgopen (rget t w a)) after [a] 0#5 0#5 (Instr.mgdrainOpen w a after).wf s

/-- MGDRAIN, WAIT form (R335). -/
def execMgdrainWait (w : Who) (d b : Reg) (job after : Nat) (s : State) : Res :=
  engine w .mrg (fun _ => .mgwait job) after [] d b (Instr.mgdrainWait w d b job after).wf s

/-- PDQ, QUERY form (R336). -/
def execPdqQuery (w : Who) (d a : Reg) (after : Nat) (s : State) : Res :=
  engine w .prd (fun t => .query (rget t w a)) after [a] d 0#5 (Instr.pdqQuery w d a after).wf s

/-- PDQ, PREFETCH form (R336). -/
def execPdqPrefetch (w : Who) (a : Reg) (after : Nat) (s : State) : Res :=
  engine w .prd (fun t => .prefetch (rget t w a)) after [a] 0#5 0#5 (Instr.pdqPrefetch w a after).wf s

/-- UPSIGN (R339). -/
def execUpsign (w : Who) (a : Reg) (after : Nat) (s : State) : Res :=
  engine w .upd (fun t => .upsign (rget t w a)) after [a] 0#5 0#5 (Instr.upsign w a after).wf s

/-- UPVOTE (R340). -/
def execUpvote (w : Who) (a : Reg) (after : Nat) (s : State) : Res :=
  engine w .upd (fun t => .upvote (rget t w a)) after [a] 0#5 0#5 (Instr.upvote w a after).wf s

/-! ### The start of a command -/

/-- The next command of a queue that has not started. -/
def nextCmd (s : State) (w : Who) (q : EQueue) : Option ECmd := (ctxOf s w).cmds.find? (fun c => decide (c.queue = q) && c.started.isNone)

/-- The queue takes its next command: after the previous one has completed, or as a run in the LAT queue (Table 11-1, R61). -/
def queueTurn (s : State) (w : Who) (q : EQueue) : Bool :=
  if q = .lat then (latCurrent s w).isNone && decide ((latOf s w).busyUntil ≤ s.now)
  else (ctxOf s w).cmds.all (fun c => decide (c.queue ≠ q) || c.started.isNone)

/-- Every earlier command in the queue that AFTER names has completed (R317). -/
def afterDone (s : State) (w : Who) (c : ECmd) : Bool :=
  match queueOfAfter c.after with
  | none => true
  | some r => (ctxOf s w).cmds.all (fun x => decide (x.queue ≠ r) || decide (c.seq ≤ x.seq))

/-- The facet addresses that a command reads or writes, as (address, length) pairs. -/
def ECmd.reach (s : State) (w : Who) (c : ECmd) : List (Nat × Nat) :=
  match c.op with
  | .tdmk false a h => [(a.toNat, 64), (64 * h, 64)]
  | .tdmk true _ h => [(64 * h, 64)]
  | .tdrl h => [(64 * h, 64)]
  | .drain a _ sc rows conv => (a.toNat, rows * colCount s w * convSize conv) :: (if conv = 1 then [(sc.toNat, 4 * colCount s w)] else [])
  | .fill a _ rows _ => [(a.toNat, 4 * rows * colCount s w)]
  | .vec op v dv av bv => (if v.dacc then [] else [(dv.toNat, v.count * vecOutBytes op v.sel)])
      ++ (if v.aacc then [] else [(av.toNat, v.count * vecInBytes op v.sel)])
      ++ (if v.bacc || !usesB op then [] else [(bv.toNat, if v.bbc then 512 else 512 * v.count)])
  | .mgopen a => [(a.toNat, 64)]
  | .query a => [(a.toNat, 32)]
  | .upsign a => [(a.toNat, 32)]
  | .upvote a => [(a.toNat, 32)]
  | _ => []

/-- No bank that a command reaches is waking (R181). -/
def banksAwake (s : State) (w : Who) (c : ECmd) : Bool :=
  s.wakes.isEmpty || (c.reach s w).all (fun r => awake s w.lf (span r.1 (min r.2 524288)))

/-- The unit that serves a command has a place for it (R148, R337). -/
def unitRoom (s : State) (w : Who) (c : ECmd) : Bool :=
  match c.op with
  | .query _ => predRoom s
  | .upsign _ => updateRoom s w
  | .upvote _ => updateRoom s w
  | _ => true

/-- What both contexts share of a facet or quadrant: when both issued to it in one cycle, context 0 goes first (R313). -/
def sharedQueue (q : EQueue) : Bool := decide (q = .str) || decide (q = .mrg) || decide (q = .prd) || decide (q = .upd)

/-- A command may start, but for the order of the two contexts (R72, R280, R316, R317). -/
def startReady (s : State) (w : Who) (q : EQueue) : Option ECmd :=
  match nextCmd s w q with
  | none => none
  | some c =>
    if ctxBusy s w && decide (c.issued + 2 ≤ s.now) && queueTurn s w q && afterDone s w c && rowsFree s w c && decide (c.storesAt ≤ s.now)
      && banksAwake s w c && unitRoom s w c then some c else none

/-- The command of a queue that starts: of two issued to a shared engine in one cycle, that of context 0 (R313). -/
def startDue (s : State) (w : Who) (q : EQueue) : Option ECmd :=
  match startReady s w q with
  | none => none
  | some c =>
    if sharedQueue q && decide (w.ctx = 1) && (startReady s ⟨w.lf, 0⟩ q).any (fun x => decide (x.issued = c.issued)) then none else some c

/-- A started command that is ready to complete at a cycle. -/
def readyAt (s : State) (w : Who) (seq at_ : Nat) : State := modCmd s w seq (fun c => { c with ready := true, doneAt := at_ })

/-- A started command with what it read or will write. -/
def readyWith (at_ seq : Nat) (w : Who) (r : State × List Byte) : State :=
  modCmd r.1 w seq (fun c => { c with ready := true, doneAt := at_, image := r.2 })

/-- MGDRAIN WAIT starts. -/
def startWait (s : State) (w : Who) (c : ECmd) (job : Nat) : Option State := if ownsJob s w job then some (readyAt s w c.seq s.now) else none

/-- PDQ PREFETCH starts: the set's limits are checked, and the Predictor accepts it (R336). -/
def startPrefetch (s : State) (w : Who) (c : ECmd) (addr : Word) : Option State :=
  if setOk s addr.toNat then some (readyAt (acceptPrefetch s addr.toNat) w c.seq (s.now + 1)) else none

/-- What a command does at its start: none where it is faulting (R319). -/
def startOp (s : State) (w : Who) (c : ECmd) : Option State :=
  match c.op with
  | .tdmk fromSts a _ => (startTdmk s w fromSts a).map (readyWith (s.now + 16 + (if fromSts then stsLatency w.lf a.toNat else 0)) c.seq w)
  | .tdrl h => if inUsed s w.lf (64 * h) 64 then some (readyAt s w c.seq (s.now + 4)) else none
  | .strm o a r _ => if strmBad s w c.seq o a r then none else some (readyAt s w c.seq (s.now + 4))
  | .stq _ _ _ _ => some (readyAt s w c.seq s.now)
  | .lload n kp fmt hi => startLload s w c.seq n kp fmt hi
  | .lpass m base accum afmt np => startLpass s w c.seq m.toNat base.toNat accum afmt np
  | .lsplit => startLsplit s w c.seq
  | .cmode g => startCmode s w c.seq g
  | .drain a row sc rows conv => (startDrain s w a row sc rows conv).map (readyWith (s.now + (if rows = 0 then 1 else rows + 10)) c.seq w)
  | .fill a row rows conv => (startFill s w a row rows conv).map (readyWith (s.now + (if rows = 0 then 1 else rows + 10)) c.seq w)
  | .vec op v dv av bv => (startVec s w op v dv av bv).map (readyWith (s.now + vecCycles op v) c.seq w)
  | .mgpush _ a n job => startPush s w c a n job
  | .mgopen a => (startOpen s w a).map (readyWith (s.now + 4) c.seq w)
  | .mgwait job => startWait s w c job
  | .query a => (startQuery s w a).map (fun r => joinPredictor r.1 w c.seq r.2)
  | .prefetch a => startPrefetch s w c a
  | .upsign a => (startUpdate s w false a).map (fun r => joinUpdate r.1 w c.seq r.2)
  | .upvote a => (startUpdate s w true a).map (fun r => joinUpdate r.1 w c.seq r.2)
  | .badForm => none

/-- A command of an Update unit whose task ended leaves its place: the unit of the context's quadrant goes on. -/
def unitsGoOn (s : State) (w : Who) : State := updateNext s (quadOf w.lf)

/-- An engine takes the next command of a queue once its start conditions hold; a faulting one aborts its task imprecisely (R310, R316 to R319). -/
def execEngineCommandStart (w : Who) (q : EQueue) (s : State) : Res :=
  match startDue (unitsGoOn s w) w q with
  | none => .next s
  | some c =>
    let s := unitsGoOn s w
    let t := modCmd s w c.seq (fun x => { x with started := some s.now })
    match startOp t w c with
    | none => .next (unitsGoOn (abortTask s w 1) w)
    | some t => .next t

/-! ### The completion of a command -/

/-- Whether a command may complete now. -/
def completeDue (s : State) (w : Who) (c : ECmd) : Bool :=
  c.ready && decide (c.doneAt ≤ s.now) && (match c.op, c.started with
    | .stq h wait qeng _, some t => stqDue s w t h wait qeng
    | .mgwait job, _ => (waitResult s job).isSome
    | .mgpush _ _ _ _, _ => c.todo.isEmpty
    | .upsign _, _ => decide (((updateQueue s (quadOf w.lf)).head?).map (fun r => (r.lf, r.ctx, r.seq)) = some (w.lf, w.ctx, c.seq))
    | .upvote _, _ => decide (((updateQueue s (quadOf w.lf)).head?).map (fun r => (r.lf, r.ctx, r.seq)) = some (w.lf, w.ctx, c.seq))
    | _, _ => true)

/-- The first command of a queue that may complete. -/
def doneCmd (s : State) (w : Who) (q : EQueue) : Option ECmd :=
  (ctxOf s w).cmds.find? (fun c => decide (c.queue = q) && c.started.isSome && completeDue s w c)

/-- The rows that a drain or fill has moved are counted (Table 02-10). -/
def countRows (s : State) (w : Who) (rows : Nat) : State := bump s (Fld.latCntDrain_COUNT (physOf s w.lf)) rows

/-- What a command does at its completion, with its two results. -/
def finishOp (s : State) (w : Who) (c : ECmd) : State × Word × Word :=
  match c.op with
  | .tdmk _ _ h => let r := finishTdmk s w h c.image; (r.1, BitVec.ofNat 32 r.2, 0#32)
  | .tdrl h => (finishTdrl s w h, 0#32, 0#32)
  | .strm o a r t => (finishStrm s w o a r t, 0#32, 0#32)
  | .stq h _ qeng walk => (s, BitVec.ofNat 32 (stqResult s w h qeng walk), 0#32)
  | .drain a _ _ rows _ => (taskWriteOrAbort (countRows s w rows) (taskId s w) w.lf (laidAt a.toNat c.image), 0#32, 0#32)
  | .fill _ row rows _ => (accPut (countRows s w rows) w.lf (rowWords row.toNat (colCount s w) (colBase s w) c.image), 0#32, 0#32)
  | .vec _ v dv _ _ =>
    (if v.dacc then accPut s w.lf (rowWords dv.toNat 128 0 c.image) else taskWriteOrAbort s (taskId s w) w.lf (laidAt dv.toNat c.image), 0#32, 0#32)
  | .mgopen _ => (finishOpen s w c.image, 0#32, 0#32)
  | .mgwait job =>
    let r := (waitResult s job).getD (0#32, 0#32)
    (freeJob s job, r.1, r.2)
  | .query _ => (s, c.result, 0#32)
  | .upsign _ => (finishUpdate s w c, 0#32, 0#32)
  | .upvote _ => (finishUpdate s w c, 0#32, 0#32)
  | _ => (s, 0#32, 0#32)

/-- The two results of a command written; where WAIT names one register for both, the spec does not say which stays, and the choice is left free. -/
def putResults (s : State) (w : Who) (c : ECmd) (x y : Word) : State :=
  if c.b = 0#5 then rput s w c.d x 0
  else if c.d = c.b ∧ Config.freeUlp s.free 0#32 % 2 = 0 then rput (rput (drawn s) w c.b y 0) w c.d x 0
  else rput (rput (drawn s) w c.d x 0) w c.b y 0

/-- A started command whose effects are due has them all performed, leaves its queue and writes its results (R315, R318). -/
def execEngineCommandComplete (w : Who) (q : EQueue) (s0 : State) : Res :=
  let s := unitsGoOn s0 w
  match doneCmd s w q with
  | none => .next s0
  | some c =>
    let t := modCtx s w (fun x => { x with cmds := x.cmds.filter (fun y => y.seq ≠ c.seq) })
    let r := finishOp t w c
    .next (settleFlights (if ctxBusy r.1 w then putResults r.1 w c r.2.1 r.2.2 else r.1))

end Sys2Proof.Machine
end

