-- ==== Sys2Proof/Machine/Scalar.lean ====
section
/-! DEFINITION. The integer and FP32 instructions (R294, R295, Tables 10-3 and 10-5), one meaning each. -/

namespace Sys2Proof.Machine

/-- Signed division rounded towards zero; division by zero gives all ones (R294). -/
def divS (a b : Word) : Word := if b = 0#32 then 0xFFFFFFFF#32 else a.sdiv b

/-- Unsigned division; division by zero gives all ones (R294). -/
def divU (a b : Word) : Word := if b = 0#32 then 0xFFFFFFFF#32 else a / b

/-- Signed remainder with the sign of `a`; division by zero gives `a` (R294). -/
def remS (a b : Word) : Word := if b = 0#32 then a else a.srem b

/-- Unsigned remainder; division by zero gives `a` (R294). -/
def remU (a b : Word) : Word := if b = 0#32 then a else a % b

/-- Leading zeros, 0 to 32. -/
def clzOf (a : Word) : Nat := ((List.range 32).find? (fun i => a.getLsbD (31 - i))).getD 32

/-- Trailing zeros, 0 to 32. -/
def ctzOf (a : Word) : Nat := ((List.range 32).find? (fun i => a.getLsbD i)).getD 32

/-- Set bits. -/
def popOf (a : Word) : Nat := ((List.range 32).filter (fun i => a.getLsbD i)).length

/-- ADD: a + b modulo 2^32 (R294). -/
def execAdd (w : Who) (o : AluArgs) (s : State) : Res := alu w o false false 1 1 (fun _ a b => a + b) s
/-- SUB: a − b modulo 2^32 (R294). -/
def execSub (w : Who) (o : AluArgs) (s : State) : Res := alu w o false false 1 1 (fun _ a b => a - b) s
/-- AND (Table 10-3). -/
def execAndI (w : Who) (o : AluArgs) (s : State) : Res := alu w o false false 1 1 (fun _ a b => a &&& b) s
/-- OR (Table 10-3). -/
def execOrI (w : Who) (o : AluArgs) (s : State) : Res := alu w o false false 1 1 (fun _ a b => a ||| b) s
/-- XOR (Table 10-3). -/
def execXorI (w : Who) (o : AluArgs) (s : State) : Res := alu w o false false 1 1 (fun _ a b => a ^^^ b) s
/-- SLL: by b[4:0] (Table 10-3). -/
def execSll (w : Who) (o : AluArgs) (s : State) : Res := alu w o false false 1 1 (fun _ a b => a <<< (b.toNat % 32)) s
/-- SRL: logical, by b[4:0] (Table 10-3). -/
def execSrl (w : Who) (o : AluArgs) (s : State) : Res := alu w o false false 1 1 (fun _ a b => a >>> (b.toNat % 32)) s
/-- SRA: arithmetic, by b[4:0] (Table 10-3). -/
def execSra (w : Who) (o : AluArgs) (s : State) : Res := alu w o false false 1 1 (fun _ a b => a.sshiftRight (b.toNat % 32)) s
/-- SLT: 1 when a is below b as signed numbers (Table 10-3). -/
def execSlt (w : Who) (o : AluArgs) (s : State) : Res := alu w o false false 1 1 (fun _ a b => boolWord (a.slt b)) s
/-- SLTU: 1 when a is below b as unsigned numbers (Table 10-3). -/
def execSltu (w : Who) (o : AluArgs) (s : State) : Res := alu w o false false 1 1 (fun _ a b => boolWord (a.ult b)) s
/-- MIN, signed (Table 10-3). -/
def execMinS (w : Who) (o : AluArgs) (s : State) : Res := alu w o false false 1 1 (fun _ a b => if a.slt b then a else b) s
/-- MAX, signed (Table 10-3). -/
def execMaxS (w : Who) (o : AluArgs) (s : State) : Res := alu w o false false 1 1 (fun _ a b => if a.slt b then b else a) s
/-- MINU (Table 10-3). -/
def execMinu (w : Who) (o : AluArgs) (s : State) : Res := alu w o false false 1 1 (fun _ a b => if a.ult b then a else b) s
/-- MAXU (Table 10-3). -/
def execMaxu (w : Who) (o : AluArgs) (s : State) : Res := alu w o false false 1 1 (fun _ a b => if a.ult b then b else a) s
/-- MUL: the low 32 bits of the product (Table 10-3). -/
def execMul (w : Who) (o : AluArgs) (s : State) : Res := alu w o false false 1 3 (fun _ a b => a * b) s
/-- MULH: the high 32 bits of the signed product (Table 10-3). -/
def execMulh (w : Who) (o : AluArgs) (s : State) : Res :=
  alu w o false false 1 3 (fun _ a b => BitVec.ofInt 32 (a.toInt * b.toInt / (2 ^ 32 : Int))) s
/-- MULHU: the high 32 bits of the unsigned product (Table 10-3). -/
def execMulhu (w : Who) (o : AluArgs) (s : State) : Res := alu w o false false 1 3 (fun _ a b => BitVec.ofNat 32 (a.toNat * b.toNat / 2 ^ 32)) s
/-- DIV (R294). -/
def execDiv (w : Who) (o : AluArgs) (s : State) : Res := alu w o false false 18 18 (fun _ a b => divS a b) s
/-- DIVU (R294). -/
def execDivu (w : Who) (o : AluArgs) (s : State) : Res := alu w o false false 18 18 (fun _ a b => divU a b) s
/-- REM (R294). -/
def execRem (w : Who) (o : AluArgs) (s : State) : Res := alu w o false false 18 18 (fun _ a b => remS a b) s
/-- REMU (R294). -/
def execRemu (w : Who) (o : AluArgs) (s : State) : Res := alu w o false false 18 18 (fun _ a b => remU a b) s
/-- CLZ, unary (Table 10-3). -/
def execClz (w : Who) (o : AluArgs) (s : State) : Res := alu w o false true 1 1 (fun _ a _ => BitVec.ofNat 32 (clzOf a)) s
/-- CTZ, unary (Table 10-3). -/
def execCtz (w : Who) (o : AluArgs) (s : State) : Res := alu w o false true 1 1 (fun _ a _ => BitVec.ofNat 32 (ctzOf a)) s
/-- POPC, unary (Table 10-3). -/
def execPopc (w : Who) (o : AluArgs) (s : State) : Res := alu w o false true 1 1 (fun _ a _ => BitVec.ofNat 32 (popOf a)) s

/-- FADD (R295). -/
def execFadd (w : Who) (o : AluArgs) (s : State) : Res := alu w o false false 1 4 (fun _ a b => fAdd a b) s
/-- FSUB (R295). -/
def execFsub (w : Who) (o : AluArgs) (s : State) : Res := alu w o false false 1 4 (fun _ a b => fSub a b) s
/-- FMUL (R295). -/
def execFmul (w : Who) (o : AluArgs) (s : State) : Res := alu w o false false 1 4 (fun _ a b => fMul a b) s
/-- FMA: d + a × b with one rounding; either form reads s[d] (Table 10-3). -/
def execFma (w : Who) (o : AluArgs) (s : State) : Res := alu w o true false 1 4 (fun d a b => fFma d a b) s
/-- FDIV, correctly rounded (R295). -/
def execFdiv (w : Who) (o : AluArgs) (s : State) : Res := alu w o false false 14 14 (fun _ a b => fDiv a b) s
/-- FSQRT, correctly rounded, unary (R295). -/
def execFsqrt (w : Who) (o : AluArgs) (s : State) : Res := alu w o false true 14 14 (fun _ a _ => fSqrt a) s
/-- FMIN (R295). -/
def execFmin (w : Who) (o : AluArgs) (s : State) : Res := alu w o false false 1 4 (fun _ a b => fMin a b) s
/-- FMAX (R295). -/
def execFmax (w : Who) (o : AluArgs) (s : State) : Res := alu w o false false 1 4 (fun _ a b => fMax a b) s
/-- FEQ (R295). -/
def execFeq (w : Who) (o : AluArgs) (s : State) : Res := alu w o false false 1 2 (fun _ a b => fEq a b) s
/-- FLT (R295). -/
def execFlt (w : Who) (o : AluArgs) (s : State) : Res := alu w o false false 1 2 (fun _ a b => fLt a b) s
/-- FLE (R295). -/
def execFle (w : Who) (o : AluArgs) (s : State) : Res := alu w o false false 1 2 (fun _ a b => fLe a b) s
/-- FCVT.S.W, unary (R295). -/
def execFcvtSW (w : Who) (o : AluArgs) (s : State) : Res := alu w o false true 1 2 (fun _ a _ => fOfInt a) s
/-- FCVT.W.S, unary (R295). -/
def execFcvtWS (w : Who) (o : AluArgs) (s : State) : Res := alu w o false true 1 2 (fun _ a _ => fToInt a) s
/-- FABS, unary (R295). -/
def execFabs (w : Who) (o : AluArgs) (s : State) : Res := alu w o false true 1 4 (fun _ a _ => fAbs a) s
/-- FNEG, unary (R295). -/
def execFneg (w : Who) (o : AluArgs) (s : State) : Res := alu w o false true 1 4 (fun _ a _ => fNeg a) s

end Sys2Proof.Machine
end

