-- ==== Sys2Proof/Machine/Dispatch.lean ====
section
/-! DEFINITION. One arm per command: the meaning it calls, or its rejection by name. -/

namespace Sys2Proof.Machine

/-- The effect of a command on everything but the queue. -/
def exec (i : Instr) (s : State) : Host.Outcome State Fault Refusal :=
  match i with
  | .internalTimerTick => Sys2Proof.Machine.execInternalTimerTick s
  | .tickInEdge => Sys2Proof.Machine.execTickInEdge s
  | .ptmGridTick point => Sys2Proof.Machine.execPtmGridTick point s
  | .tickSynth => Sys2Proof.Machine.execTickSynth s
  | .fsqTickctlWrite src => Sys2Proof.Machine.execFsqTickctlWrite src s
  | .runStart => Sys2Proof.Machine.execRunStart s
  | .runStop => Sys2Proof.Machine.execRunStop s
  | .fsqSwapReq => Sys2Proof.Machine.execFsqSwapReq s
  | .fsqSwapCancel => Sys2Proof.Machine.execFsqSwapCancel s
  | .loadImage qp => Sys2Proof.Machine.execLoadImage qp s
  | .admissionEnd => Sys2Proof.Machine.execAdmissionEnd s
  | .manifestCmd qp => Sys2Proof.Machine.execManifestCmd qp s
  | .manifestFetchEnd fetched => Sys2Proof.Machine.execManifestFetchEnd fetched s
  | .expressRequest qp request => Sys2Proof.Machine.execExpressRequest qp request s
  | .expressDispatch task => Sys2Proof.Machine.execExpressDispatch task s
  | .taskRelease task => Sys2Proof.Machine.execTaskRelease task s
  | .stallWatchdog w => Sys2Proof.Machine.execStallWatchdog w s
  | .hardLimit => Sys2Proof.Machine.execHardLimit s
  | .frameReport => Sys2Proof.Machine.execFrameReport s
  | .fsqRptTailWrite tail => Sys2Proof.Machine.execFsqRptTailWrite tail s
  | .fsqRptRingConfig reg value => Sys2Proof.Machine.execFsqRptRingConfig reg value s
  | .hostRegisterWrite addr size value => Sys2Proof.Machine.execHostRegisterWrite addr size value s
  | .bar0AccessError bar isWrite addr size => Sys2Proof.Machine.execBar0AccessError bar isWrite addr size s
  | .illegalInstruction w word => Sys2Proof.Machine.execIllegalInstruction w word s
  | .add w o => Sys2Proof.Machine.execAdd w o s
  | .sub w o => Sys2Proof.Machine.execSub w o s
  | .andI w o => Sys2Proof.Machine.execAndI w o s
  | .orI w o => Sys2Proof.Machine.execOrI w o s
  | .xorI w o => Sys2Proof.Machine.execXorI w o s
  | .sll w o => Sys2Proof.Machine.execSll w o s
  | .srl w o => Sys2Proof.Machine.execSrl w o s
  | .sra w o => Sys2Proof.Machine.execSra w o s
  | .slt w o => Sys2Proof.Machine.execSlt w o s
  | .sltu w o => Sys2Proof.Machine.execSltu w o s
  | .minS w o => Sys2Proof.Machine.execMinS w o s
  | .maxS w o => Sys2Proof.Machine.execMaxS w o s
  | .minu w o => Sys2Proof.Machine.execMinu w o s
  | .maxu w o => Sys2Proof.Machine.execMaxu w o s
  | .mul w o => Sys2Proof.Machine.execMul w o s
  | .mulh w o => Sys2Proof.Machine.execMulh w o s
  | .mulhu w o => Sys2Proof.Machine.execMulhu w o s
  | .div w o => Sys2Proof.Machine.execDiv w o s
  | .divu w o => Sys2Proof.Machine.execDivu w o s
  | .rem w o => Sys2Proof.Machine.execRem w o s
  | .remu w o => Sys2Proof.Machine.execRemu w o s
  | .clz w o => Sys2Proof.Machine.execClz w o s
  | .ctz w o => Sys2Proof.Machine.execCtz w o s
  | .popc w o => Sys2Proof.Machine.execPopc w o s
  | .fadd w o => Sys2Proof.Machine.execFadd w o s
  | .fsub w o => Sys2Proof.Machine.execFsub w o s
  | .fmul w o => Sys2Proof.Machine.execFmul w o s
  | .fma w o => Sys2Proof.Machine.execFma w o s
  | .fdiv w o => Sys2Proof.Machine.execFdiv w o s
  | .fsqrt w o => Sys2Proof.Machine.execFsqrt w o s
  | .fmin w o => Sys2Proof.Machine.execFmin w o s
  | .fmax w o => Sys2Proof.Machine.execFmax w o s
  | .feq w o => Sys2Proof.Machine.execFeq w o s
  | .flt w o => Sys2Proof.Machine.execFlt w o s
  | .fle w o => Sys2Proof.Machine.execFle w o s
  | .fcvtSW w o => Sys2Proof.Machine.execFcvtSW w o s
  | .fcvtWS w o => Sys2Proof.Machine.execFcvtWS w o s
  | .fabs w o => Sys2Proof.Machine.execFabs w o s
  | .fneg w o => Sys2Proof.Machine.execFneg w o s
  | .jal w d imm => Sys2Proof.Machine.execJal w d imm s
  | .jalr w d a imm => Sys2Proof.Machine.execJalr w d a imm s
  | .br w cond a b imm => Sys2Proof.Machine.execBr w cond a b imm s
  | .dbnz w d imm => Sys2Proof.Machine.execDbnz w d imm s
  | .waitt w a imm => Sys2Proof.Machine.execWaitt w a imm s
  | .waittTargetReached w => Sys2Proof.Machine.execWaittTargetReached w s
  | .mfsr w d n => Sys2Proof.Machine.execMfsr w d n s
  | .mtsr w a n => Sys2Proof.Machine.execMtsr w a n s
  | .ldW w d a imm => Sys2Proof.Machine.execLdW w d a imm s
  | .stW w a b imm => Sys2Proof.Machine.execStW w a b imm s
  | .mfill w a b imm => Sys2Proof.Machine.execMfill w a b imm s
  | .mcopy w a b imm => Sys2Proof.Machine.execMcopy w a b imm s
  | .fillCopyComplete w => Sys2Proof.Machine.execFillCopyComplete w s
  | .swait w d a b imm => Sys2Proof.Machine.execSwait w d a b imm s
  | .swaitTry w d a b imm => Sys2Proof.Machine.execSwaitTry w d a b imm s
  | .spost w a b imm nofence => Sys2Proof.Machine.execSpost w a b imm nofence s
  | .semMessageApply sem => Sys2Proof.Machine.execSemMessageApply sem s
  | .swaitGrant w => Sys2Proof.Machine.execSwaitGrant w s
  | .cwait w d a b ctr => Sys2Proof.Machine.execCwait w d a b ctr s
  | .cwaitTry w d a b ctr => Sys2Proof.Machine.execCwaitTry w d a b ctr s
  | .creset w ctr => Sys2Proof.Machine.execCreset w ctr s
  | .cwaitSatisfied w => Sys2Proof.Machine.execCwaitSatisfied w s
  | .chpush w d ch => Sys2Proof.Machine.execChpush w d ch s
  | .chpushGrant w => Sys2Proof.Machine.execChpushGrant w s
  | .chcommit w a ch => Sys2Proof.Machine.execChcommit w a ch s
  | .chcommitRewind w ch => Sys2Proof.Machine.execChcommitRewind w ch s
  | .commitArrival ch => Sys2Proof.Machine.execCommitArrival ch s
  | .packetVisible ch => Sys2Proof.Machine.execPacketVisible ch s
  | .chpopAcquire w d b ch => Sys2Proof.Machine.execChpopAcquire w d b ch s
  | .packetAcquired w => Sys2Proof.Machine.execPacketAcquired w s
  | .chpopRelease w ch => Sys2Proof.Machine.execChpopRelease w ch s
  | .chflush w ch => Sys2Proof.Machine.execChflush w ch s
  | .deferredEmptyPost ch => Sys2Proof.Machine.execDeferredEmptyPost ch s
  | .channelRecordRewrite ch => Sys2Proof.Machine.execChannelRecordRewrite ch s
  | .fence w => Sys2Proof.Machine.execFence w s
  | .fenceComplete w => Sys2Proof.Machine.execFenceComplete w s
  | .tend w => Sys2Proof.Machine.execTend w s
  | .tendComplete w => Sys2Proof.Machine.execTendComplete w s
  | .tdmk w d a handle off fromSts after => Sys2Proof.Machine.execTdmk w d a handle off fromSts after s
  | .tdrl w handle after => Sys2Proof.Machine.execTdrl w handle after s
  | .strm w o after => Sys2Proof.Machine.execStrm w o after s
  | .stq w d handle wait qeng walk after => Sys2Proof.Machine.execStq w d handle wait qeng walk after s
  | .lload w n kp fmt hi after => Sys2Proof.Machine.execLload w n kp fmt hi after s
  | .lpass w a b accum afmt np after => Sys2Proof.Machine.execLpass w a b accum afmt np after s
  | .lsplit w after => Sys2Proof.Machine.execLsplit w after s
  | .ldrainDrain w d a b rows conv after => Sys2Proof.Machine.execLdrainDrain w d a b rows conv after s
  | .ldrainFill w a b rows conv after => Sys2Proof.Machine.execLdrainFill w a b rows conv after s
  | .cmode w gmax after => Sys2Proof.Machine.execCmode w gmax after s
  | .vadd w v => Sys2Proof.Machine.execVadd w v s
  | .vmax w v => Sys2Proof.Machine.execVmax w v s
  | .vfma w v => Sys2Proof.Machine.execVfma w v s
  | .vexp w v => Sys2Proof.Machine.execVexp w v s
  | .vrsq w v => Sys2Proof.Machine.execVrsq w v s
  | .vsig w v => Sys2Proof.Machine.execVsig w v s
  | .vred w v => Sys2Proof.Machine.execVred w v s
  | .vcvt w v => Sys2Proof.Machine.execVcvt w v s
  | .mgpush w a b job after => Sys2Proof.Machine.execMgpush w a b job after s
  | .mgpushEnd w a b job after => Sys2Proof.Machine.execMgpushEnd w a b job after s
  | .mgdrainOpen w a after => Sys2Proof.Machine.execMgdrainOpen w a after s
  | .mgdrainWait w d b job after => Sys2Proof.Machine.execMgdrainWait w d b job after s
  | .pdqQuery w d a after => Sys2Proof.Machine.execPdqQuery w d a after s
  | .pdqPrefetch w a after => Sys2Proof.Machine.execPdqPrefetch w a after s
  | .upsign w a after => Sys2Proof.Machine.execUpsign w a after s
  | .upvote w a after => Sys2Proof.Machine.execUpvote w a after s
  | .engineCommandStart w q => Sys2Proof.Machine.execEngineCommandStart w q s
  | .engineCommandComplete w q => Sys2Proof.Machine.execEngineCommandComplete w q s
  | .gatherFactorChoice w => Sys2Proof.Machine.execGatherFactorChoice w s
  | .stationaryLoad w => Sys2Proof.Machine.execStationaryLoad w s
  | .blockListFetch e h => Sys2Proof.Machine.execBlockListFetch e h s
  | .transferStart e h => Sys2Proof.Machine.execTransferStart e h s
  | .transferComplete e t => Sys2Proof.Machine.execTransferComplete e t s
  | .neuronListReady e h => Sys2Proof.Machine.execNeuronListReady e h s
  | .mergeResultWrite job => Sys2Proof.Machine.execMergeResultWrite job s
  | .mergeJobComplete job => Sys2Proof.Machine.execMergeJobComplete job s
  | .weightSetLoad => Sys2Proof.Machine.execWeightSetLoad s
  | .predictorQueryService => Sys2Proof.Machine.execPredictorQueryService s
  | .facetWindowWrite addr data => Sys2Proof.Machine.execFacetWindowWrite addr data s
  | .fmemHostFill f => Sys2Proof.Machine.execFmemHostFill f s
  | .fmemHostCopy f => Sys2Proof.Machine.execFmemHostCopy f s
  | .fmemHostOpDone f => Sys2Proof.Machine.execFmemHostOpDone f s
  | .fmemGateRequest f bank => Sys2Proof.Machine.execFmemGateRequest f bank s
  | .fmemGateCancel f bank => Sys2Proof.Machine.execFmemGateCancel f bank s
  | .fmemWake f bank => Sys2Proof.Machine.execFmemWake f bank s
  | .bankGated f bank => Sys2Proof.Machine.execBankGated f bank s
  | .gateForced f bank => Sys2Proof.Machine.execGateForced f bank s
  | .bankWakeDone f bank => Sys2Proof.Machine.execBankWakeDone f bank s
  | .bar4Access isWrite addr len data => Sys2Proof.Machine.execBar4Access isWrite addr len data s
  | .stsInitDone => Sys2Proof.Machine.execStsInitDone s
  | .farInitDone => Sys2Proof.Machine.execFarInitDone s
  | .migrateCmd qp => Sys2Proof.Machine.execMigrateCmd qp s
  | .fetchPage m i1 => Sys2Proof.Machine.execFetchPage m i1 s
  | .fetchMove m i1 => Sys2Proof.Machine.execFetchMove m i1 s
  | .evictPage m i1 => Sys2Proof.Machine.execEvictPage m i1 s
  | .cleanPage m i1 => Sys2Proof.Machine.execCleanPage m i1 s
  | .dropFar m i1 => Sys2Proof.Machine.execDropFar m i1 s
  | .zeroNear m i1 => Sys2Proof.Machine.execZeroNear m i1 s
  | .freePage m i1 => Sys2Proof.Machine.execFreePage m i1 s
  | .retagPage m i1 => Sys2Proof.Machine.execRetagPage m i1 s
  | .migrationCommit m i1 => Sys2Proof.Machine.execMigrationCommit m i1 s
  | .migrateStatusWriteback => Sys2Proof.Machine.execMigrateStatusWriteback s
  | .reservedWindowOpen i1 => Sys2Proof.Machine.execReservedWindowOpen i1 s
  | .reservedWindowClose i1 => Sys2Proof.Machine.execReservedWindowClose i1 s
  | .farFrameRetire => Sys2Proof.Machine.execFarFrameRetire s
  | .cptPteWrite => Sys2Proof.Machine.execCptPteWrite s
  | .permutationLoad quad index => Sys2Proof.Machine.execPermutationLoad quad index s
  | .permutationStored => Sys2Proof.Machine.execPermutationStored s
  | .portEnable p => Sys2Proof.Machine.execPortEnable p s
  | .portDisable p => Sys2Proof.Machine.execPortDisable p s
  | .signalDetected p => Sys2Proof.Machine.execSignalDetected p s
  | .trainDone p => Sys2Proof.Machine.execTrainDone p s
  | .alignDone p => Sys2Proof.Machine.execAlignDone p s
  | .bringupTimeout p => Sys2Proof.Machine.execBringupTimeout p s
  | .bringupRetry p => Sys2Proof.Machine.execBringupRetry p s
  | .exchange p version chip vc credits => Sys2Proof.Machine.execExchange p version chip vc credits s
  | .delayProbe p stamp => Sys2Proof.Machine.execDelayProbe p stamp s
  | .delayEcho p stamp => Sys2Proof.Machine.execDelayEcho p stamp s
  | .tickField p arg => Sys2Proof.Machine.execTickField p arg s
  | .laneLost p lane => Sys2Proof.Machine.execLaneLost p lane s
  | .swapReq p lane count => Sys2Proof.Machine.execSwapReq p lane count s
  | .swapAck p lane count => Sys2Proof.Machine.execSwapAck p lane count s
  | .fecFailure p => Sys2Proof.Machine.execFecFailure p s
  | .dataFlit p flit => Sys2Proof.Machine.execDataFlit p flit s
  | .idleFlit p flit => Sys2Proof.Machine.execIdleFlit p flit s
  | .ackTimeout p => Sys2Proof.Machine.execAckTimeout p s
  | .packetTransmit p vc => Sys2Proof.Machine.execPacketTransmit p vc s
  | .writePkt p => Sys2Proof.Machine.execWritePkt p s
  | .readPkt p => Sys2Proof.Machine.execReadPkt p s
  | .respPkt p => Sys2Proof.Machine.execRespPkt p s
  | .postPkt p => Sys2Proof.Machine.execPostPkt p s
  | .mergePkt p => Sys2Proof.Machine.execMergePkt p s
  | .mergeEndPkt p => Sys2Proof.Machine.execMergeEndPkt p s
  | .readTimeout tag => Sys2Proof.Machine.execReadTimeout tag s
  | .mcastStall p vc => Sys2Proof.Machine.execMcastStall p vc s
  | .chipidWrite chip => Sys2Proof.Machine.execChipidWrite chip s
  | .ownerTableLoad table => Sys2Proof.Machine.execOwnerTableLoad table s
  | .ownerTableLoaded => Sys2Proof.Machine.execOwnerTableLoaded s
  | .linkTraining speed width => Sys2Proof.Machine.execLinkTraining speed width s
  | .qpEnable q => Sys2Proof.Machine.execQpEnable q s
  | .qpDisable q => Sys2Proof.Machine.execQpDisable q s
  | .qpDrained q => Sys2Proof.Machine.execQpDrained q s
  | .sqTail q value => Sys2Proof.Machine.execSqTail q value s
  | .cqHead q value => Sys2Proof.Machine.execCqHead q value s
  | .sqFetch q => Sys2Proof.Machine.execSqFetch q s
  | .nopCmd qp => Sys2Proof.Machine.execNopCmd qp s
  | .badCommand qp => Sys2Proof.Machine.execBadCommand qp s
  | .deviceReadError src => Sys2Proof.Machine.execDeviceReadError src s
  | .busMasterDisable => Sys2Proof.Machine.execBusMasterDisable s
  | .d3hotEntry => Sys2Proof.Machine.execD3hotEntry s
  | .d0Return => Sys2Proof.Machine.execD0Return s
  | .functionLevelReset => Sys2Proof.Machine.execFunctionLevelReset s
  | .hotReset => Sys2Proof.Machine.execHotReset s
  | .dlDown => Sys2Proof.Machine.execDlDown s
  | .ptmExchange ok timeNs => Sys2Proof.Machine.execPtmExchange ok timeNs s
  | .doeRequest object => Sys2Proof.Machine.execDoeRequest object s
  | .laneMargining lane voltage step errors => Sys2Proof.Machine.execLaneMargining lane voltage step errors s
  | .setEndpointId binding eid => Sys2Proof.Machine.execSetEndpointId binding eid s
  | .getStatus binding => Sys2Proof.Machine.execGetStatus binding s
  | .setOfflineNone binding => Sys2Proof.Machine.execSetOfflineNone binding s
  | .setOfflineQuiesce binding => Sys2Proof.Machine.execSetOfflineQuiesce binding s
  | .setOfflineReset binding => Sys2Proof.Machine.execSetOfflineReset binding s
  | .setOfflinePowerOff binding => Sys2Proof.Machine.execSetOfflinePowerOff binding s
  | .setPowerCap binding watts => Sys2Proof.Machine.execSetPowerCap binding watts s
  | .readLog binding first count => Sys2Proof.Machine.execReadLog binding first count s
  | .regRead binding addr words => Sys2Proof.Machine.execRegRead binding addr words s
  | .regWrite binding addr value => Sys2Proof.Machine.execRegWrite binding addr value s
  | .mbxSend binding message => Sys2Proof.Machine.execMbxSend binding message s
  | .mbxFetch binding offset => Sys2Proof.Machine.execMbxFetch binding offset s
  | .hostMailboxSend len => Sys2Proof.Machine.execHostMailboxSend len s
  | .setImageKey binding key => Sys2Proof.Machine.execSetImageKey binding key s
  | .fuseOwner binding slot hash signature publicKey => Sys2Proof.Machine.execFuseOwner binding slot hash signature publicKey s
  | .revoke binding cls slot signature publicKey => Sys2Proof.Machine.execRevoke binding cls slot signature publicKey s
  | .commitSvn binding component => Sys2Proof.Machine.execCommitSvn binding component s
  | .limmundBadRequest binding command body => Sys2Proof.Machine.execLimmundBadRequest binding command body s
  | .requestUpdate binding => Sys2Proof.Machine.execRequestUpdate binding s
  | .verifyComplete component => Sys2Proof.Machine.execVerifyComplete component s
  | .activateFirmware => Sys2Proof.Machine.execActivateFirmware s
  | .firmwareReadyTimeout => Sys2Proof.Machine.execFirmwareReadyTimeout s
  | .getCertificate offset len => Sys2Proof.Machine.execGetCertificate offset len s
  | .challenge nonce => Sys2Proof.Machine.execChallenge nonce s
  | .getMeasurements index nonce => Sys2Proof.Machine.execGetMeasurements index nonce s
  | .sensorRead binding id reading => Sys2Proof.Machine.execSensorRead binding id reading s
  | .configCommit => Sys2Proof.Machine.execConfigCommit s
  | .correctedError site => Sys2Proof.Machine.execCorrectedError site s
  | .facetUe f array half => Sys2Proof.Machine.execFacetUe f array half s
  | .fmemUe f addr finder => Sys2Proof.Machine.execFmemUe f addr finder s
  | .stsUe addr finder => Sys2Proof.Machine.execStsUe addr finder s
  | .farUe frame finder => Sys2Proof.Machine.execFarUe frame finder s
  | .mergeUe => Sys2Proof.Machine.execMergeUe s
  | .predictorUe => Sys2Proof.Machine.execPredictorUe s
  | .prismUe q => Sys2Proof.Machine.execPrismUe q s
  | .streamEngineUe e => Sys2Proof.Machine.execStreamEngineUe e s
  | .updateUe q => Sys2Proof.Machine.execUpdateUe q s
  | .tableUe w => Sys2Proof.Machine.execTableUe w s
  | .fatalError cause => Sys2Proof.Machine.execFatalError cause s
  | .sliceCopyDone => Sys2Proof.Machine.execSliceCopyDone s
  | .urgentRetrain ch => Sys2Proof.Machine.execUrgentRetrain ch s
  | .retrainDone ok => Sys2Proof.Machine.execRetrainDone ok s
  | .shadowCheckEnd q outs abandoned => Sys2Proof.Machine.execShadowCheckEnd q outs abandoned s
  | .protractorWindow host lane transitions singular ctle width height => Sys2Proof.Machine.execProtractorWindow host lane transitions singular ctle width height s
  | .farStrobeTrack ch readWindow writeWindow => Sys2Proof.Machine.execFarStrobeTrack ch readWindow writeWindow s
  | .skewSample samples spineTemp => Sys2Proof.Machine.execSkewSample samples spineTemp s
  | .skewOverrun q => Sys2Proof.Machine.execSkewOverrun q s
  | .powerCapSample watts => Sys2Proof.Machine.execPowerCapSample watts s
  | .thermtrip => Sys2Proof.Machine.execThermtrip s
  | .clockLoss pcie => Sys2Proof.Machine.execClockLoss pcie s
  | .stbyPwrokRise straps => Sys2Proof.Machine.execStbyPwrokRise straps s
  | .stbyPwrokFall => Sys2Proof.Machine.execStbyPwrokFall s
  | .pwrGoodRise n => Sys2Proof.Machine.execPwrGoodRise n s
  | .pwrGoodTimeout n => Sys2Proof.Machine.execPwrGoodTimeout n s
  | .pwrGoodLoss n => Sys2Proof.Machine.execPwrGoodLoss n s
  | .powerDownStep => Sys2Proof.Machine.execPowerDownStep s
  | .mainFirmwareLoaded => Sys2Proof.Machine.execMainFirmwareLoaded s
  | .perstNFall => Sys2Proof.Machine.execPerstNFall s
  | .perstNRise => Sys2Proof.Machine.execPerstNRise s
  | .avsCurrentRead q amps => Sys2Proof.Machine.execAvsCurrentRead q amps s
  | .facetSwapDone q runs => Sys2Proof.Machine.execFacetSwapDone q runs s
  | .managementFirmwareReady => Sys2Proof.Machine.execManagementFirmwareReady s
  | .startUpSelfTestEnd runs => Sys2Proof.Machine.execStartUpSelfTestEnd runs s
  | .busMasterEnable => Sys2Proof.Machine.execBusMasterEnable s
  | .functionResetEnd => Sys2Proof.Machine.execFunctionResetEnd s
  | .dynamicAddressAssignment addr => Sys2Proof.Machine.execDynamicAddressAssignment addr s
  | .componentWrite component offset data => Sys2Proof.Machine.execComponentWrite component offset data s

end Sys2Proof.Machine
end

