-- ==== Sys2Proof/Machine/Step.lean ====
section
/-! DEFINITION. The step: the command at the front of the queue runs; on an empty queue a nominal core cycle passes. -/

namespace Sys2Proof.Machine

/-- The state one cycle later, with nothing commanded: `now` counts nominal core cycles, and what the part does in every cycle is done; every event that a cycle can bring is a command of its own. DESIGN CHOICE (log entry 1). -/
def idle (s : State) : State := clockCycle s

/-- One step: the command at the front of the queue runs on the state with the queue's rest; with an empty queue a cycle passes. -/
def step (s : State) : Host.Outcome State Fault Refusal :=
  match s.pending with
  | [] => .next (idle s)
  | c :: rest => exec c { s with pending := rest }

/-- The state with the command that a word spells at the front of its queue; the opcode table gives no row any bits, so no word spells one. -/
def State.withFetchWord (s : State) (nbits w : Nat) : State :=
  match decodeTableWord nbits w with
  | none => s
  | some c => { s with pending := c :: s.pending }

end Sys2Proof.Machine
end

