-- ==== Sys2Proof/Safety.lean ====
section
/-! DEFINITION. What counts as a safe state and a safe step, in the terms that claims use. -/

namespace Sys2Proof.Machine

/-- Every memory is in its canonical form: addresses strictly rising, no byte listed that reads as an unlisted one does. -/
def Canonical (s : State) : Bool :=
  Memory.wf s.fmem && Memory.wf s.imem && Memory.wf s.sts && Memory.wf s.far && Memory.wf s.host && Memory.wf s.flash

/-- A command leads from one state to another: it is not refused and it does not fault. -/
def LeadsTo (c : Instr) (s t : State) : Prop := exec c s = .next t

/-- The memories are the same in two states. -/
def SameMemories (s t : State) : Prop :=
  t.fmem = s.fmem ∧ t.imem = s.imem ∧ t.sts = s.sts ∧ t.far = s.far ∧ t.host = s.host ∧ t.flash = s.flash

/-- A step is safe: it answers a next state whose memories are canonical. -/
def SafeStep (s : State) : Prop := ∃ t, step s = .next t ∧ Canonical t = true

/-- Everything but one facet's tasks is as it was: no register, memory, semaphore, channel or engine has changed, and no other facet. -/
def OnlyFacet (lf : Nat) (s t : State) : Prop :=
  t = { s with facets := t.facets } ∧ ∀ l, l ≠ lf → facetOf t l = facetOf s l

/-- Everything but one context is as it was. -/
def OnlyCtx (w : Who) (s t : State) : Prop :=
  OnlyFacet w.lf s t ∧ facetOf t w.lf = (facetOf s w.lf).setCtx w.ctx (ctxOf t w)

/-- Everything but register fields is as it was, and of those the ones named may have changed. -/
def OnlyFields (fs : List Field) (s t : State) : Prop :=
  t = { s with regs := t.regs } ∧ ∀ f : Field, f.key ∉ fs.map Field.key → fget t f = fget s f

/-- The context goes on at an address, `k` cycles later as it counts them: it has one cycle in two when both contexts run (R54, R308). -/
def GoesTo (w : Who) (pc k : Nat) (s t : State) : Prop :=
  (ctxOf t w).pc = pc ∧ (ctxOf t w).free = s.now + (if bothRun s w then 2 * k - 1 else k)

/-- The context goes on with the next instruction, 8 bytes on. -/
def GoesOn (w : Who) (k : Nat) (s t : State) : Prop := GoesTo w (((ctxOf s w).pc + 8) % 2 ^ 32) k s t

/-- An instruction has written `v` to register `d` of its context and nothing to another (R288), its value ready `lat` cycles later (R290). -/
def WroteReg (w : Who) (s t : State) (d : Reg) (v : Word) (lat : Nat) : Prop :=
  (∀ r, rget t w r = if r = d ∧ d ≠ 0#5 then v else rget s w r)
    ∧ (d ≠ 0#5 → mapGet (ctxOf t w).ready d.toNat 0 = max (mapGet (ctxOf s w).ready d.toNat 0) (s.now + lat))
    ∧ ∀ r : Reg, r ≠ d → mapGet (ctxOf t w).ready r.toNat 0 = mapGet (ctxOf s w).ready r.toNat 0

/-- Of its context, an instruction has changed the pc, the occupancy and the scalar registers alone. -/
def KeepsCtx (w : Who) (s t : State) : Prop :=
  ctxOf t w = { ctxOf s w with pc := (ctxOf t w).pc, free := (ctxOf t w).free, regs := (ctxOf t w).regs, ready := (ctxOf t w).ready }

/-- An instruction that computes: its result in register `d`, ready `lat` cycles later, `k` cycles of its context, nothing else changed. -/
def Computes (w : Who) (s t : State) (d : Reg) (v : Word) (k lat : Nat) : Prop :=
  OnlyCtx w s t ∧ KeepsCtx w s t ∧ GoesOn w k s t ∧ WroteReg w s t d v lat

/-- A jump: the context goes on at `pc` after three cycles, with `v` in register `d`. -/
def Jumps (w : Who) (s t : State) (pc : Nat) (d : Reg) (v : Word) : Prop :=
  OnlyCtx w s t ∧ KeepsCtx w s t ∧ GoesTo w pc 3 s t ∧ WroteReg w s t d v 1

/-- An instruction has begun a wait: its context stands behind it and waits, nothing else of it changed. -/
def Waits (w : Who) (s t : State) (x : Wait) : Prop :=
  ctxOf t w = { ctxOf s w with pc := ((ctxOf s w).pc + 8) % 2 ^ 32, free := (ctxOf t w).free, wait := x } ∧ GoesOn w 1 s t

/-- A wait has ended: the context may issue in the following cycle. -/
def Resumes (w : Who) (s t : State) : Prop := (ctxOf t w).wait = .none ∧ (ctxOf t w).free = s.now + 1 ∧ (ctxOf t w).pc = (ctxOf s w).pc

/-- A semaphore message leaves a context's facet: nothing but the context and the messages on their way changes. -/
def SendsSem (w : Who) (s t : State) (sem n : Nat) (op : SemOp) : Prop :=
  OnlyCtx w s { t with semMsgs := s.semMsgs }
    ∧ t.semMsgs = s.semMsgs ++ [⟨sem, op, n, w.lf, w.ctx, taskId s w, s.now + (if w.lf / 12 = sem / 1024 then 4 else 24)⟩]

end Sys2Proof.Machine
end

