-- ==== Sys2Proof/Certificates/Slice0/Obligations.lean ====
section
/-! DEFINITION. The statements about the model. -/

open Sys2Proof Sys2Proof.Machine

/-- A step takes the command at the front of the queue and runs it on the state with the queue's rest. The queue is the model's own form (log entry 1). -/
def Obligations.StepRunsTheFrontCommand : Prop :=
  ∀ (c : Instr) (r : List Instr) (s : State), step { s with pending := c :: r } = exec c { s with pending := r }

/-- With nothing commanded, a step is a cycle of the main clock. The model's choice (log entry 1). -/
def Obligations.IdleStepPassesOneCycle : Prop :=
  (∀ s : State, s.pending = [] → ∃ t, step s = .next t ∧ t = clockCycle s ∧ t.now = s.now + 1 ∧ t.pending = [])
    ∧ step State.reset = .next { State.reset with now := 1 }

/-- No command ends the run: each answers a next state, whatever the state. -/
def Obligations.EveryCommandAnswers : Prop := ∀ (c : Instr) (s : State), ∃ t, exec c s = .next t

/-- A command's effect reaches neither the queue nor the cycle count. That a command takes no time is the model's choice (log entry 1). -/
def Obligations.CommandsKeepTheQueueAndTheClock : Prop :=
  ∀ (c : Instr) (s t : State), exec c s = .next t → t.pending = s.pending ∧ t.now = s.now

/-- The reset state's memories list nothing, and so are canonical. -/
def Obligations.ResetMemoriesAreCanonical : Prop := Canonical State.reset = true

/-- The memories stay canonical through every step, from every canonical state. -/
def Obligations.EveryStepKeepsMemoriesCanonical : Prop :=
  ∀ s t : State, Canonical s = true → step s = .next t → Canonical t = true

/-- `n` zeros stand before the first set bit of `a`, seen from bit `31 - i` or from bit `i`. -/
def ZerosFrom (a : Word) (place : Nat → Nat) (n : Nat) : Prop :=
  n ≤ 32 ∧ (∀ i, i < n → a.getLsbD (place i) = false) ∧ (n < 32 → a.getLsbD (place n) = true)

/-- Table 10-3 and R294 for every integer instruction, with the occupancy and latency of Table 10-5. -/
def Obligations.IntegerInstructionsCompute : Prop :=
  ∀ (s : State) (w : Who) (o : AluArgs),
    let a := rget s w o.a
    let b := operandB s w o
    (o.wf = true → issues s w (aluSrcs o false false) [o.d] = true →
      ∀ p ∈ [(Instr.add w o, BitVec.ofInt 32 (a.toInt + b.toInt), 1, 1), (.sub w o, BitVec.ofInt 32 (a.toInt - b.toInt), 1, 1),
        (.andI w o, a &&& b, 1, 1), (.orI w o, a ||| b, 1, 1), (.xorI w o, a ^^^ b, 1, 1),
        (.sll w o, a <<< (b.toNat % 32), 1, 1), (.srl w o, a >>> (b.toNat % 32), 1, 1), (.sra w o, a.sshiftRight (b.toNat % 32), 1, 1),
        (.slt w o, if a.toInt < b.toInt then 1#32 else 0#32, 1, 1), (.sltu w o, if a.toNat < b.toNat then 1#32 else 0#32, 1, 1),
        (.minS w o, if a.toInt < b.toInt then a else b, 1, 1), (.maxS w o, if a.toInt < b.toInt then b else a, 1, 1),
        (.minu w o, if a.toNat < b.toNat then a else b, 1, 1), (.maxu w o, if a.toNat < b.toNat then b else a, 1, 1),
        (.mul w o, BitVec.ofInt 32 (a.toInt * b.toInt), 1, 3), (.mulh w o, BitVec.ofInt 32 (a.toInt * b.toInt / 2 ^ 32), 1, 3),
        (.mulhu w o, BitVec.ofNat 32 (a.toNat * b.toNat / 2 ^ 32), 1, 3),
        (.div w o, if b = 0#32 then 0xFFFFFFFF#32 else BitVec.ofInt 32 (a.toInt.tdiv b.toInt), 18, 18),
        (.divu w o, if b = 0#32 then 0xFFFFFFFF#32 else BitVec.ofNat 32 (a.toNat / b.toNat), 18, 18),
        (.rem w o, if b = 0#32 then a else BitVec.ofInt 32 (a.toInt.tmod b.toInt), 18, 18),
        (.remu w o, if b = 0#32 then a else BitVec.ofNat 32 (a.toNat % b.toNat), 18, 18)],
      ∃ t, exec p.1 s = .next t ∧ Computes w s t o.d p.2.1 p.2.2.1 p.2.2.2)
    ∧ (o.wfUnary = true → issues s w (aluSrcs o false true) [o.d] = true →
      (∀ n, ZerosFrom a (31 - ·) n → ∃ t, exec (.clz w o) s = .next t ∧ Computes w s t o.d (BitVec.ofNat 32 n) 1 1)
      ∧ (∀ n, ZerosFrom a id n → ∃ t, exec (.ctz w o) s = .next t ∧ Computes w s t o.d (BitVec.ofNat 32 n) 1 1)
      ∧ ∃ t, exec (.popc w o) s = .next t ∧ Computes w s t o.d (BitVec.ofNat 32 ((List.range 32).countP a.getLsbD)) 1 1)

/-- Table 10-3 and Table 10-5 for every FP32 instruction; the arithmetic is that of `FpSpecialValues`. -/
def Obligations.FpInstructionsCompute : Prop :=
  ∀ (s : State) (w : Who) (o : AluArgs),
    let d := rget s w o.d
    let a := rget s w o.a
    let b := operandB s w o
    (o.wf = true → issues s w (aluSrcs o false false) [o.d] = true →
      ∀ p ∈ [(Instr.fadd w o, fAdd a b, 1, 4), (.fsub w o, fSub a b, 1, 4), (.fmul w o, fMul a b, 1, 4), (.fdiv w o, fDiv a b, 14, 14),
        (.fmin w o, fMin a b, 1, 4), (.fmax w o, fMax a b, 1, 4), (.feq w o, fEq a b, 1, 2), (.flt w o, fLt a b, 1, 2), (.fle w o, fLe a b, 1, 2)],
      ∃ t, exec p.1 s = .next t ∧ Computes w s t o.d p.2.1 p.2.2.1 p.2.2.2)
    ∧ (o.wf = true → issues s w (aluSrcs o true false) [o.d] = true → ∃ t, exec (.fma w o) s = .next t ∧ Computes w s t o.d (fFma d a b) 1 4)
    ∧ (o.wfUnary = true → issues s w (aluSrcs o false true) [o.d] = true →
      ∀ p ∈ [(Instr.fsqrt w o, fSqrt a, 14, 14), (.fcvtSW w o, fOfInt a, 1, 2), (.fcvtWS w o, fToInt a, 1, 2),
        (.fabs w o, fAbs a, 1, 4), (.fneg w o, fNeg a, 1, 4)],
      ∃ t, exec p.1 s = .next t ∧ Computes w s t o.d p.2.1 p.2.2.1 p.2.2.2)

/-- The effects of R296, for targets that are multiples of 8. -/
def Obligations.JumpsAndBranches : Prop :=
  ∀ (s : State) (w : Who) (d a b : Reg) (imm : Word),
    let pc := (ctxOf s w).pc
    let rel := (pc + imm.toNat) % 2 ^ 32
    let link := BitVec.ofNat 32 (pc + 8)
    (issues s w [] [d] = true → rel % 8 = 0 → ∃ t, exec (.jal w d imm) s = .next t ∧ Jumps w s t rel d link)
    ∧ (issues s w [a] [d] = true → (rget s w a + imm).toNat % 8 = 0 →
        ∃ t, exec (.jalr w d a imm) s = .next t ∧ Jumps w s t (rget s w a + imm).toNat d link)
    ∧ (issues s w [a, b] [] = true →
        let x := rget s w a
        let y := rget s w b
        ∀ p ∈ [(Cond.eq, x = y), (.ne, x ≠ y), (.lt, x.toInt < y.toInt), (.ge, y.toInt ≤ x.toInt), (.ltu, x.toNat < y.toNat), (.geu, y.toNat ≤ x.toNat)],
          (p.2 → rel % 8 = 0 → ∃ t, exec (.br w p.1 a b imm) s = .next t ∧ Jumps w s t rel 0#5 0#32)
          ∧ (¬p.2 → ∃ t, exec (.br w p.1 a b imm) s = .next t ∧ OnlyCtx w s t ∧ KeepsCtx w s t ∧ GoesOn w 1 s t ∧ ∀ r, rget t w r = rget s w r))
    ∧ (issues s w [d] [d] = true → d ≠ 0#5 →
        (rget s w d ≠ 1#32 → rel % 8 = 0 → ∃ t, exec (.dbnz w d imm) s = .next t ∧ Jumps w s t rel d (rget s w d - 1#32))
        ∧ (rget s w d = 1#32 → ∃ t, exec (.dbnz w d imm) s = .next t ∧ Computes w s t d 0#32 1 1))

/-- R297. Reason 1 is ILLEGAL_INSN (Table 01-9); that posts waiting for earlier stores alone leave first is deduced from R310 (log entry 49). -/
def Obligations.BadTargetsAndFetchesAbort : Prop :=
  ∀ (s : State) (w : Who),
    let aborted := Host.Outcome.next (abortTask (sendStorePosts s w) w 1)
    (∀ (d a b : Reg) (imm : Word) (c : Cond),
      let rel := ((ctxOf s w).pc + imm.toNat) % 2 ^ 32
      (issues s w [] [d] = true → rel % 8 ≠ 0 → exec (.jal w d imm) s = aborted)
      ∧ (issues s w [a] [d] = true → (rget s w a + imm).toNat % 8 ≠ 0 → exec (.jalr w d a imm) s = aborted)
      ∧ (issues s w [a, b] [] = true → condHolds c (rget s w a) (rget s w b) = true → rel % 8 ≠ 0 → exec (.br w c a b imm) s = aborted)
      ∧ (issues s w [a, b] [] = true → condHolds c (rget s w a) (rget s w b) = false →
          ∃ t, exec (.br w c a b imm) s = .next t ∧ GoesOn w 1 s t)
      ∧ (issues s w [d] [d] = true → d ≠ 0#5 → rget s w d ≠ 1#32 → rel % 8 ≠ 0 → exec (.dbnz w d imm) s = aborted)
      ∧ (issues s w [d] [d] = true → d ≠ 0#5 → rget s w d = 1#32 → ∃ t, exec (.dbnz w d imm) s = .next t ∧ GoesOn w 1 s t))
    ∧ ∀ i : Instr, whoOf i = some w → canIssue s w = true → imemLimit s w.lf ≤ (ctxOf s w).pc → exec i s = aborted

/-- No instruction of a context that may not issue has any effect. -/
def Obligations.InstructionsWaitForTheirContext : Prop :=
  ∀ (i : Instr) (w : Who) (s : State), whoOf i = some w → canIssue s w = false → exec i s = .next s

/-- R292 and R289 for a task that no other consumes from. -/
def Obligations.IllegalInstructionsAbort : Prop :=
  ∀ (s : State) (w : Who) (x : BitVec 64), issues s w [] [] = true → decodeInsn w x = none → badForm x = none →
    let t := abortTask (sendStorePosts s w) w 1
    exec (.illegalInstruction w x) s = .next t
    ∧ ∀ (id : Nat) (r : TaskRec), (ctxOf s w).task = some id → (ctxOf s w).express = none → downstream s id = [] →
        taskRec s id = some r → r.phase = .running → r.entry.who = w →
        ctxOf t w = { Ctx.idle with gmax := (ctxOf s w).gmax }
        ∧ taskRec t id = some { r with phase := .ended, status := 1, reason := 1, stop := tcyc s }

/-- R296, R298 and R308 for WAITT. -/
def Obligations.WaittAndItsTarget : Prop :=
  ∀ (s : State) (w : Who),
    (∀ (a : Reg) (imm : Word), issues s w [a] [] = true →
      ((rget s w a + imm).toNat ≤ tcyc s →
        ∃ t, exec (.waitt w a imm) s = .next t ∧ OnlyCtx w s t ∧ KeepsCtx w s t ∧ GoesOn w 1 s t ∧ ∀ r, rget t w r = rget s w r)
      ∧ (tcyc s < (rget s w a + imm).toNat → ∃ t, exec (.waitt w a imm) s = .next t ∧ OnlyCtx w s t ∧ Waits w s t (.tcyc (rget s w a + imm))))
    ∧ ∀ v : Word, (ctxOf s w).wait = .tcyc v → v.toNat ≤ tcyc s →
        ∃ t, exec (.waittTargetReached w) s = .next t ∧ OnlyCtx w s t ∧ Resumes w s t ∧ ∀ r, rget t w r = rget s w r

/-- R299, R300 and Table 10-4, for a context whose task has entry `e`. -/
def Obligations.SpecialRegistersReadAndWrite : Prop :=
  ∀ (s : State) (w : Who) (d a : Reg) (e : TaskEntry), entryOf s w = some e →
    (issues s w [] [d] = true →
      (∀ p ∈ [(0, fget s Fld.fsqFrame_FRAME), (1, tcyc s), (2, w.lf), (3, fget s (Fld.rpmFmap_PFACET w.lf)), (4, w.lf / 12), (5, w.ctx), (6, e.id),
          (7, e.kind), (8, match (ctxOf s w).express with | some r => r.slot | none => e.slotFirst), (9, if e.kind = 1 then 1 else e.slotCount),
          (10, (ctxOf s w).start), (11, (ctxOf s w).start + (if e.kind = 1 then e.xwcl else e.wcl)), (13, fget s Fld.fsqBudget_B),
          (14, fmemUsed s w.lf), (15, Config.level), (16, fget s Fld.fsqActiveId_ID), (0x20, (ctxOf s w).slotSel)],
        ∃ t, exec (.mfsr w d p.1) s = .next t ∧ Computes w s t d (BitVec.ofNat 32 p.2) 1 2)
      ∧ (slotCnt e ≤ (ctxOf s w).slotSel → ∀ n, 0x21 ≤ n → n ≤ 0x2F →
          ∃ t, exec (.mfsr w d n) s = .next t ∧ Computes w s t d (if n = 0x21 then 0xFFFFFFFF#32 else 0#32) 1 2)
      ∧ (∀ n, (0x11 ≤ n ∧ n < 0x20) ∨ 0x30 ≤ n → exec (.mfsr w d n) s = .next (abortTask (sendStorePosts s w) w 1)))
    ∧ (issues s w [a] [] = true →
      (∃ t, exec (.mtsr w a 0x20) s = .next t ∧ OnlyCtx w s t ∧ GoesOn w 1 s t
          ∧ ctxOf t w = { ctxOf s w with pc := (ctxOf t w).pc, free := (ctxOf t w).free, slotSel := (rget s w a).toNat % 4096 })
      ∧ ∀ n, n ≠ 0x20 → exec (.mtsr w a n) s = .next (abortTask (sendStorePosts s w) w 1))

/-- The four bytes of a narrow access can be reached: aligned, below FMEM_USED, in a bank that is on and awake. -/
def NarrowReachable (s : State) (w : Who) (x : Nat) : Prop :=
  x % 4 = 0 ∧ x + 4 ≤ fmemUsed s w.lf ∧ heldFacet s w.lf = false ∧ ∀ i < 4, gatedAt s (physOf s w.lf) (x + i) = false ∧ wakingAt s (physOf s w.lf) (x + i) = false

/-- R301 to R303 for LD.W and ST.W, with the same-cycle rule of R162. -/
def Obligations.NarrowAccesses : Prop :=
  ∀ (s : State) (w : Who) (d a b : Reg) (imm : Word),
    let x := (rget s w a + imm).toNat
    let base := fbase (physOf s w.lf) + x
    (issues s w [a] [d] = true → NarrowReachable s w x →
      ∃ t lat, exec (.ldW w d a imm) s = .next t ∧ (lat = 3 ∨ (lat = 4 ∧ guaranteedWork s w.lf = true))
        ∧ OnlyCtx w s { t with free := s.free } ∧ GoesOn w 1 s t ∧ WroteReg w s t d (BitVec.ofNat 32 (ofLe (facetRead s w.lf x 4))) lat)
    ∧ (issues s w [a, b] [] = true → NarrowReachable s w x →
      ∃ t, exec (.stW w a b imm) s = .next t
        ∧ (∀ i < 4, base + i ∉ (thisCycle s).wide → facetRead t w.lf (x + i) 1 = [byteAt (rget s w b).toNat i])
        ∧ (∀ y, (∀ i < 4, y = base + i → y ∈ (thisCycle s).wide) → memRead t.fmem y = memRead s.fmem y)
        ∧ t = { s with fmem := t.fmem, facets := t.facets, chans := t.chans } ∧ GoesOn w 1 s t ∧ ∀ r, rget t w r = rget s w r)
    ∧ (x % 4 ≠ 0 ∨ fmemUsed s w.lf < x + 4 → awake s w.lf [x] = true →
      (issues s w [a] [d] = true → exec (.ldW w d a imm) s = .next (abortTask (sendStorePosts s w) w 1))
      ∧ (issues s w [a, b] [] = true → exec (.stW w a b imm) s = .next (abortTask (sendStorePosts s w) w 1)))

/-- R172, R173 and R303, for ranges in banks that are on and awake. -/
def Obligations.FillsAndCopies : Prop :=
  ∀ (s : State) (w : Who),
    (∀ (a b : Reg) (imm : Word), issues s w [a, b] [] = true → heldFacet s w.lf = false → (∀ y, wakingAt s (physOf s w.lf) y = false) →
      let x := (rget s w a).toNat
      let n := (rget s w b).toNat
      (x % 4 = 0 → n % 4 = 0 → x + n ≤ fmemUsed s w.lf →
        ∃ t, exec (.mfill w a b imm) s = .next t ∧ OnlyCtx w s t
          ∧ (if n = 0 then GoesOn w 1 s t ∧ (ctxOf t w).wait = (ctxOf s w).wait
             else Waits w s t (.memOp ⟨s.now + (n + 255) / 256, x, none, n, patternBytes imm n, []⟩)))
      ∧ (x % 4 = 0 → n % 4 = 0 → imm.toNat % 4 = 0 → x + imm.toNat ≤ fmemUsed s w.lf → n + imm.toNat ≤ fmemUsed s w.lf →
          fget s (Fld.fmemGated_STATE (physOf s w.lf)) = 0 →
        ∃ t, exec (.mcopy w a b imm) s = .next t ∧ OnlyCtx w s t
          ∧ (if imm = 0#32 then GoesOn w 1 s t ∧ (ctxOf t w).wait = (ctxOf s w).wait
             else Waits w s t (.memOp ⟨s.now + (imm.toNat + 127) / 128, x, some n, imm.toNat, facetRead s w.lf n imm.toNat, []⟩))))
    ∧ ∀ m : MemOp, (ctxOf s w).wait = .memOp m → m.src = none → m.doneAt ≤ s.now → fget s (Fld.fmemGated_STATE (physOf s w.lf)) = 0 →
        ∃ t, exec (.fillCopyComplete w) s = .next t ∧ Resumes w s t ∧ facetRead t w.lf m.dst m.bytes.length = m.bytes
          ∧ (∀ y, y < fbase (physOf s w.lf) + m.dst ∨ fbase (physOf s w.lf) + m.dst + m.bytes.length ≤ y → memRead t.fmem y = memRead s.fmem y)
          ∧ t = { s with fmem := t.fmem, facets := t.facets, cyc := t.cyc, free := t.free }

/-- R304 for the three semaphore instructions, and R262 for the grant. -/
def Obligations.SemaphoreInstructions : Prop :=
  ∀ (s : State) (w : Who),
    (∀ (d a b : Reg) (imm : Word), issues s w [a, b] [d] = true →
      let sem := ((rget s w a).toNat + imm.toNat % 2 ^ 16) % 2 ^ 32
      let n := ((rget s w b).toNat + imm.toNat / 2 ^ 16) % 2 ^ 32
      sem < 4096 → semDeclared s sem = true → semOfChan s sem = false → n ≤ 65535 → semRoom s w sem = true →
        (1 ≤ n → ∃ t, exec (.swait w d a b imm) s = .next t ∧ SendsSem w s t sem n .wait ∧ Waits w s t (.sem d))
        ∧ ∃ t, exec (.swaitTry w d a b imm) s = .next t ∧ SendsSem w s t sem n .tryTake ∧ Waits w s t (.sem d))
    ∧ (∀ (a b : Reg) (imm : Word) (nofence : Bool), issues s w [a, b] [] = true →
      let sem := ((rget s w a).toNat + imm.toNat % 2 ^ 16) % 2 ^ 32
      let n := ((rget s w b).toNat + imm.toNat / 2 ^ 16) % 2 ^ 32
      sem < 4096 → semDeclared s sem = true → semOfChan s sem = false → 1 ≤ n → n ≤ 65535 → (nofence || fenceNow s w → semRoom s w sem = true) →
        ∃ t, exec (.spost w a b imm nofence) s = .next t ∧ GoesOn w 1 s t
          ∧ (if nofence || fenceNow s w then SendsSem w s t sem n .post
             else OnlyCtx w s t ∧ (ctxOf t w).posts = (ctxOf s w).posts ++ [⟨sem, n, (facetOf s w.lf).seq, (ctxOf s w).storeAt⟩]))
    ∧ ∀ (d : Reg) (g : Grant), (ctxOf s w).wait = .sem d → grantFor s w [.wait, .tryTake] = some g →
        ∃ t, exec (.swaitGrant w) s = .next t ∧ Resumes w s t
          ∧ WroteReg w s t d (BitVec.ofNat 32 (g.left % 2 ^ 16 + (if g.took then 2 ^ 31 else 0))) 1
          ∧ t.grants = dropFirst (fun x => x = g) s.grants ∧ OnlyCtx w s { t with grants := s.grants }

/-- What the handling of a message at semaphore `n` leaves alone: only that semaphore, the messages of its cycle, grants and channel records change. -/
def AtSemaphore (s t : State) (n arrive : Nat) : Prop :=
  t = { s with semMsgs := t.semMsgs, sems := t.sems, grants := t.grants, chans := t.chans }
    ∧ t.semMsgs = s.semMsgs.filter (fun x => !(decide (x.sem = n) && decide (x.arrive = arrive))) ∧ ∀ k, k ≠ n → semOf t k = semOf s k

/-- R258 to R260, for one message at a semaphore in which nothing waits; no CHPUSH at a sink. -/
def Obligations.SemaphoreAppliesMessages : Prop :=
  ∀ (s : State) (n : Nat) (m : SemMsg), semReady s n = [m] → (semOf s n).waiters = [] → sinkPush s m = false →
    (m.op ≠ .post → (ctxOf s ⟨m.lf, m.ctx⟩).task = some m.task) →
    let c := (semOf s n).count
    let grantOf (left : Nat) (took : Bool) : Grant := ⟨m.lf, m.ctx, m.task, m.op, n, left, took, s.now + (if m.lf / 12 = n / 1024 then 4 else 24)⟩
    (m.op = .post → c + m.n ≤ 65535 →
      ∃ t, exec (.semMessageApply n) s = .next t ∧ AtSemaphore s t n m.arrive ∧ semOf t n = ⟨c + m.n, []⟩ ∧ t.grants = s.grants)
    ∧ (m.op ≠ .post → m.n ≤ c →
      ∃ t, exec (.semMessageApply n) s = .next t ∧ AtSemaphore s t n m.arrive ∧ semOf t n = ⟨c - m.n, []⟩
        ∧ t.grants = s.grants ++ [grantOf (c - m.n) (decide (1 ≤ m.n))])
    ∧ (m.op = .tryTake → c < m.n →
      ∃ t, exec (.semMessageApply n) s = .next t ∧ AtSemaphore s t n m.arrive ∧ semOf t n = ⟨c, []⟩ ∧ t.grants = s.grants ++ [grantOf c false])
    ∧ (m.op ≠ .post → m.op ≠ .tryTake → c < m.n →
      ∃ t, exec (.semMessageApply n) s = .next t ∧ AtSemaphore s t n m.arrive ∧ semOf t n = ⟨c, [m]⟩ ∧ t.grants = s.grants)

/-- R176, R177 and R305. -/
def Obligations.ArrivalCounterInstructions : Prop :=
  ∀ (s : State) (w : Who) (ctr : Nat), ctr < 64 →
    let v := BitVec.ofNat 32 (fget s (Fld.fmemArr_COUNT (physOf s w.lf) ctr))
    (∀ d a b : Reg, issues s w [a, b] [d] = true →
      let target := rget s w a + rget s w b
      (0 ≤ (v - target).toInt → ∃ t, exec (.cwait w d a b ctr) s = .next t ∧ Computes w s t d v 1 1)
      ∧ ((v - target).toInt < 0 → ∃ t, exec (.cwait w d a b ctr) s = .next t ∧ OnlyCtx w s t ∧ Waits w s t (.counter d ctr target))
      ∧ ∃ t, exec (.cwaitTry w d a b ctr) s = .next t ∧ Computes w s t d v 1 1)
    ∧ (issues s w [] [] = true → ∃ t, exec (.creset w ctr) s = .next t ∧ GoesOn w 1 s t
        ∧ OnlyFields [Fld.fmemArr_COUNT (physOf s w.lf) ctr] s { t with facets := s.facets } ∧ fget t (Fld.fmemArr_COUNT (physOf s w.lf) ctr) = arrived s (Fld.fmemArr_COUNT (physOf s w.lf) ctr) % 2 ^ 32)
    ∧ ∀ (d : Reg) (target : Word), (ctxOf s w).wait = .counter d ctr target → 0 ≤ (v - target).toInt →
        ∃ t, exec (.cwaitSatisfied w) s = .next t ∧ OnlyCtx w s t ∧ Resumes w s t ∧ WroteReg w s t d v 1

/-- A channel instruction changes its context and its channel alone. -/
def AtChannel (w : Who) (s t : State) (k : Nat) : Prop :=
  OnlyCtx w s { t with chans := s.chans, cyc := s.cyc } ∧ GoesOn w 1 s t ∧ ∀ j, j ≠ k → chanOf t j = chanOf s j

/-- R266 to R272 and R306, for a declared channel with entry `e`. -/
def Obligations.ChannelInstructions : Prop :=
  ∀ (s : State) (w : Who) (ch : ChanName) (e : ChanEntry), chanDecl s (chanKey ch) = some e → ch.wf = true →
    let k := chanKey ch
    let c := chanOf s k
    let far := s.now + (if w.lf / 12 = e.consumer / 12 then 4 else 24)
    (e.prodTask = taskId s w →
      (∀ d, issues s w [] [d] = true → semRoom s w e.emptySem = true → ∃ t, exec (.chpush w d ch) s = .next t ∧ SendsSem w s t e.emptySem 1 .push ∧ Waits w s t (.push d k))
      ∧ (∀ a, issues s w [a] [] = true →
          let n := (rget s w a).toNat
          n % 4 = 0 → 4 ≤ n → n ≤ e.slotBytes → commitRoom s w ch = true →
          ∃ t, exec (.chcommit w a ch) s = .next t ∧ AtChannel w s t k ∧ chanOf t k = { c with commits := c.commits ++ [⟨false, n, far⟩], dirty := true })
      ∧ (issues s w [] [] = true → commitRoom s w ch = true →
          ∃ t, exec (.chcommitRewind w ch) s = .next t ∧ AtChannel w s t k ∧ chanOf t k = { c with commits := c.commits ++ [⟨true, 0, far⟩], dirty := true }))
    ∧ (e.consTask = taskId s w →
      (∀ d b, issues s w [] [d, b] = true → b ≠ d → b ≠ 0#5 → d ≠ 0#5 → c.sink = false →
          ∃ t, exec (.chpopAcquire w d b ch) s = .next t ∧ SendsSem w s t e.fullSem 1 .acquire ∧ Waits w s t (.acquire d b k))
      ∧ (issues s w [] [] = true →
          ∃ t, exec (.chpopRelease w ch) s = .next t ∧ AtChannel w s t k
            ∧ chanOf t k = (match c.acquired with
              | [] => { c with void := c.void + 1, dirty := true }
              | _ :: r => { c with acquired := r, released := c.released + 1, deferred := c.deferred ++ [⟨1, false, flightAt s w false e.consumer (slotsOf e ((c.acquired.take 1).map (·.1)))⟩], dirty := true })))
    ∧ (e.prodTask = taskId s w ∨ e.consTask = taskId s w → issues s w [] [] = true → (∀ y ∈ (thisCycle s).chans, y.1 ≠ k) →
        ∃ t, exec (.chflush w ch) s = .next t ∧ GoesOn w 1 s t
          ∧ chanOf t k = { c with res := [], visible := [], acquired := [], committed := c.pushed, nacquired := c.pushed, released := c.pushed
                                  flushes := c.flushes + 1, deferred := [⟨0, true, bankFlight s e⟩], dirty := true }
          ∧ (semOf t e.fullSem).count = 0 ∧ (semOf t e.emptySem).count = 0
          ∧ (∀ m ∈ t.semMsgs, m ∈ s.semMsgs ∧ ¬(m.op = .post ∧ (m.sem = e.fullSem ∨ m.sem = e.emptySem)))
          ∧ t = { s with facets := t.facets, chans := t.chans, sems := t.sems, semMsgs := t.semMsgs })
    ∧ (e.prodTask ≠ taskId s w → ∀ d, issues s w [] [d] = true → exec (.chpush w d ch) s = .next (abortTask (sendStorePosts s w) w 1))
    ∧ (e.consTask ≠ taskId s w → issues s w [] [] = true → exec (.chpopRelease w ch) s = .next (abortTask (sendStorePosts s w) w 1))

/-- R265 to R275 and R524, for a channel with entry `e`; the slot of reservation `n` lies in bank A or B by its parity. -/
def Obligations.ChannelEvents : Prop :=
  ∀ (s : State) (ch : ChanName) (e : ChanEntry), chanDecl s (chanKey ch) = some e →
    let k := chanKey ch
    let c := chanOf s k
    let slot (n : Nat) := (if n % 2 = 0 then e.bankA else e.bankB) + e.slotBytes * (n / 2 % e.slots)
    let post (sem n : Nat) : SemMsg := ⟨sem, .post, n, e.consumer, 2, 0xFFFF, s.now + (if e.consumer / 12 = sem / 1024 then 4 else 24)⟩
    (∀ (w : Who) (d : Reg) (g : Grant), (ctxOf s w).wait = .push d k → grantFor s w [.push] = some g →
      ∃ t, exec (.chpushGrant w) s = .next t ∧ Resumes w s t ∧ WroteReg w s t d (BitVec.ofNat 32 (slot c.next)) 1
        ∧ chanOf t k = { c with res := c.res ++ [⟨c.next, 0, none, s.now⟩], next := c.next + 1, pushed := c.pushed + 1, dirty := true })
    ∧ (∀ (w : Who) (d b : Reg) (g : Grant) (p : Nat × Nat) (r : List (Nat × Nat)), (ctxOf s w).wait = .acquire d b k → grantFor s w [.acquire] = some g →
        c.visible = p :: r → d ≠ b → d ≠ 0#5 → b ≠ 0#5 →
      ∃ t, exec (.packetAcquired w) s = .next t ∧ Resumes w s t ∧ rget t w d = BitVec.ofNat 32 (slot p.1) ∧ rget t w b = BitVec.ofNat 32 p.2
        ∧ (∀ x, x ≠ d → x ≠ b → rget t w x = rget s w x)
        ∧ chanOf t k = { c with visible := r, acquired := c.acquired ++ [p], nacquired := c.nacquired + 1, dirty := true })
    ∧ (∀ (m : CommitMsg) (r : List CommitMsg) (x : Reservation) (xs : List Reservation), c.commits = m :: r → m.rewind = false → m.arrive ≤ s.now →
        c.res = x :: xs → x.len = none → c.sink = false → c.prodEnded = false →
      ∃ t, exec (.commitArrival ch) s = .next t
        ∧ chanOf t k = { c with commits := r, res := { x with len := some m.len, lastAt := s.now } :: xs, dirty := true } ∧ t = { s with chans := t.chans, cyc := t.cyc })
    ∧ (∀ (x : Reservation) (xs : List Reservation) (l : Nat), c.res = x :: xs → x.len = some l → l ≤ x.fill → x.lastAt < s.now → c.prodEnded = false →
      ∃ t, exec (.packetVisible ch) s = .next t ∧ t.semMsgs = s.semMsgs ++ [post e.fullSem 1]
        ∧ chanOf t k = { c with res := xs, visible := c.visible ++ [(x.n, l)], committed := c.committed + 1, lastLen := l, dirty := true }
        ∧ t = { s with chans := t.chans, cyc := t.cyc, semMsgs := t.semMsgs })
    ∧ (∀ (x : Deferred) (xs : List Deferred), c.deferred = x :: xs → x.restore = false → flightDone s x.flight = true →
      ∃ t, exec (.deferredEmptyPost ch) s = .next t ∧ t.semMsgs = s.semMsgs ++ [post e.emptySem x.n]
        ∧ chanOf t k = { c with deferred := xs, dirty := true } ∧ t = { s with chans := t.chans, semMsgs := t.semMsgs })
    ∧ (c.dirty = true → fget s (Fld.fmemGated_STATE (physOf s e.consumer)) = 0 →
      ∃ t, exec (.channelRecordRewrite ch) s = .next t ∧ chanOf t k = { c with dirty := false }
        ∧ facetRead t e.consumer e.record 64 = recordBytes s e c
        ∧ (∀ y, y < fbase (physOf s e.consumer) + e.record ∨ fbase (physOf s e.consumer) + e.record + 64 ≤ y → memRead t.fmem y = memRead s.fmem y)
        ∧ t = { s with chans := t.chans, cyc := t.cyc, fmem := t.fmem })

/-- R282, R289 and R307. -/
def Obligations.FenceAndTend : Prop :=
  ∀ (s : State) (w : Who),
    (issues s w [] [] = true →
      (fenceNow s w = true → ∃ t, exec (.fence w) s = .next t ∧ OnlyCtx w s t ∧ KeepsCtx w s t ∧ GoesOn w 1 s t ∧ ∀ r, rget t w r = rget s w r)
      ∧ (fenceNow s w = false → ∃ t, exec (.fence w) s = .next t ∧ OnlyCtx w s t ∧ Waits w s t .fence)
      ∧ ∃ t, exec (.tend w) s = .next t ∧ OnlyCtx w s t ∧ Waits w s t .tend)
    ∧ ((ctxOf s w).wait = .fence → (ctxOf s w).storeAt ≤ s.now → (∀ c ∈ (ctxOf s w).cmds, c.queue = .str) → (ctxOf s w).posts = [] →
        ∃ t, exec (.fenceComplete w) s = .next t ∧ OnlyCtx w s t ∧ Resumes w s t)
    ∧ ∀ (id : Nat) (r : TaskRec), tendDue s w = true → (ctxOf s w).task = some id → taskRec s id = some r → (ctxOf s w).mergeJobs = [] →
        (ctxOf s w).express = none → deferred s w.lf = false → (∀ e ∈ enginesOf w.lf, (engineOf s e).streams = [] ∧ (engineOf s e).transfers = []) →
        (∀ e ∈ chanDecls s, e.prodTask ≠ id ∧ e.consTask ≠ id) →
        ∃ t, exec (.tendComplete w) s = .next t ∧ ctxOf t w = { Ctx.idle with gmax := (ctxOf s w).gmax }
          ∧ taskRec t id = some { r with phase := .ended, status := 0, reason := 0, stop := tcyc s } ∧ SameMemories s t

/-- The engine instructions (R314, Table 11-2): the instruction, its queue, its command with the values of its registers, its AFTER field, the registers it reads and its two result registers. -/
def engineRows (s : State) (w : Who) (d a b : Reg) (h n kp fmt gmax rows conv job off : Nat) (p q r : Bool) (o : StrmArgs) (v : VecArgs) (after : Nat) :
    List (Instr × EQueue × EOp × Nat × List Reg × Reg × Reg) :=
  let x := rget s w
  let vec (op : VOp) : EOp := .vec op v (x v.d) (x v.a) (x v.b)
  let vs := [v.d, v.a, v.b]
  [(.tdmk w d a h off p after, .str, .tdmk p (x a + BitVec.ofNat 32 (64 * off)) h, after, [a], d, 0#5), (.tdrl w h after, .str, .tdrl h, after, [], 0#5, 0#5),
   (.strm w o after, .str, .strm o (x o.a) (x o.b) (x o.d), after, [o.a, o.b, o.d], 0#5, 0#5),
   (.stq w d h p q r after, .str, .stq h p q r, after, [], d, 0#5), (.lload w n kp fmt p after, .lat, .lload n kp fmt p, after, [], 0#5, 0#5),
   (.lpass w a b p fmt n after, .lat, .lpass (x a) (x b) p fmt n, after, [a, b], 0#5, 0#5), (.lsplit w after, .lat, .lsplit, after, [], 0#5, 0#5),
   (.ldrainDrain w d a b rows conv after, .drn, .drain (x a) (x b) (x d) rows conv, after, [a, b, d], 0#5, 0#5),
   (.ldrainFill w a b rows conv after, .drn, .fill (x a) (x b) rows conv, after, [a, b], 0#5, 0#5), (.cmode w gmax after, .lat, .cmode gmax, after, [], 0#5, 0#5),
   (.vadd w v, .vec, vec .add, v.after, vs, 0#5, 0#5), (.vmax w v, .vec, vec .max, v.after, vs, 0#5, 0#5), (.vfma w v, .vec, vec .fma, v.after, vs, 0#5, 0#5),
   (.vexp w v, .vec, vec .exp, v.after, vs, 0#5, 0#5), (.vrsq w v, .vec, vec .rsq, v.after, vs, 0#5, 0#5), (.vsig w v, .vec, vec .sig, v.after, vs, 0#5, 0#5),
   (.vred w v, .vec, vec .red, v.after, vs, 0#5, 0#5), (.vcvt w v, .vec, vec .cvt, v.after, vs, 0#5, 0#5),
   (.mgpush w a b job after, .mrg, .mgpush false (x a) (x b) job, after, [a, b], 0#5, 0#5),
   (.mgpushEnd w a b job after, .mrg, .mgpush true (x a) (x b) job, after, [a, b], 0#5, 0#5),
   (.mgdrainOpen w a after, .mrg, .mgopen (x a), after, [a], 0#5, 0#5), (.mgdrainWait w d b job after, .mrg, .mgwait job, after, [], d, b),
   (.pdqQuery w d a after, .prd, .query (x a), after, [a], d, 0#5), (.pdqPrefetch w a after, .prd, .prefetch (x a), after, [a], 0#5, 0#5),
   (.upsign w a after, .upd, .upsign (x a), after, [a], 0#5, 0#5), (.upvote w a after, .upd, .upvote (x a), after, [a], 0#5, 0#5)]

/-- R293 and R314 for every engine instruction. -/
def Obligations.EngineInstructionsQueueTheirCommand : Prop :=
  ∀ (s : State) (w : Who) (d a b : Reg) (h n kp fmt gmax rows conv job off : Nat) (p q r : Bool) (o : StrmArgs) (v : VecArgs) (after : Nat),
    ∀ i ∈ engineRows s w d a b h n kp fmt gmax rows conv job off p q r o v after,
      i.1.wf = true → issues s w i.2.2.2.2.1 [i.2.2.2.2.2.1, i.2.2.2.2.2.2] = true →
      let waiting := ((ctxOf s w).cmds.filter (fun c => decide (c.queue = i.2.1) && c.started.isNone)).length
      (waiting < 16 → ∃ t, exec i.1 s = .next t ∧ OnlyFacet w.lf s t ∧ GoesOn w 1 s t ∧ (facetOf t w.lf).seq = (facetOf s w.lf).seq + 1
        ∧ ctxOf t w = { ctxOf s w with
            pc := (ctxOf t w).pc, free := (ctxOf t w).free
            cmds := (ctxOf s w).cmds ++ [newCmd (facetOf s w.lf).seq i.2.1 i.2.2.1 i.2.2.2.1 i.2.2.2.2.2.1 i.2.2.2.2.2.2 s.now (ctxOf s w).storeAt] })
      ∧ (16 ≤ waiting → exec i.1 s = .next s)

/-- R316 and R325 for the start of a CMODE, R315 and R318 for the completion of commands without an effect of their own at the end. -/
def Obligations.CommandsStartAndComplete : Prop :=
  ∀ (s : State) (w : Who), updateQueue s (quadOf w.lf) = [] →
    (∀ (c : ECmd) (g : Nat), startDue s w .lat = some c → c.op = .cmode g →
      (g ∈ [1, 2, 4, 8] → ∃ t, exec (.engineCommandStart w .lat) s = .next t ∧ OnlyCtx w s t ∧ (ctxOf t w).gmax = g
        ∧ ∀ x ∈ (ctxOf t w).cmds, x.seq = c.seq → x.started = some s.now ∧ x.ready = true ∧ x.doneAt = s.now + 1)
      ∧ (g ∉ [1, 2, 4, 8] → exec (.engineCommandStart w .lat) s = .next (unitsGoOn (abortTask s w 1) w)))
    ∧ ∀ (q : EQueue) (c : ECmd), doneCmd s w q = some c → ctxBusy s w = true → c.b = 0#5 →
        (∀ a, c.op = .query a → ∃ t, exec (.engineCommandComplete w q) s = .next t
          ∧ (ctxOf t w).cmds = (ctxOf s w).cmds.filter (fun y => y.seq ≠ c.seq) ∧ WroteReg w s t c.d c.result 0 ∧ SameMemories s t)
        ∧ (∀ g, c.op = .cmode g → ∃ t, exec (.engineCommandComplete w q) s = .next t
          ∧ (ctxOf t w).cmds = (ctxOf s w).cmds.filter (fun y => y.seq ≠ c.seq) ∧ SameMemories s t)
        ∧ ∀ h wait qeng walk, c.op = .stq h wait qeng walk → ∃ t, exec (.engineCommandComplete w q) s = .next t
          ∧ (ctxOf t w).cmds = (ctxOf s w).cmds.filter (fun y => y.seq ≠ c.seq) ∧ SameMemories s t ∧ t.engines = s.engines

/-- R113 and R114 for the choice of a gather factor. -/
def Obligations.ChosenFactorHasFewestPasses : Prop :=
  ∀ (tiles : List TileBytes) (n gmax : Nat),
    let g := chooseG tiles n gmax
    (g = 1 ∨ ((g = 2 ∨ g = 4 ∨ g = 8) ∧ g ≤ n ∧ g ≤ gmax ∧ ∀ x ∈ groupsOf tiles g, (x.map fitLength).sum ≤ 32768))
    ∧ ∀ k ∈ candidates n gmax, fits tiles k = true → passesAt tiles g ≤ passesAt tiles k ∧ (passesAt tiles k = passesAt tiles g → g ≤ k)

/-- R113, R115, R118 and R126 for the choice; R58, R105 and R119 for a load that an LLOAD waits for. -/
def Obligations.CompactorChoosesAndLoads : Prop :=
  ∀ (s : State) (w : Who) (sp : Span),
    let pf := physOf s w.lf
    let l := latOf s w
    (choiceDue s w = some sp →
      let tiles := l.tilesIn.take sp.n
      let groups := chosenGroups (fon s (Fld.cmpStatus_STRUCT pf)) (tiles.map (fun t => t.head.toArray)) (if halves s w then min (ctxOf s w).gmax 4 else (ctxOf s w).gmax)
      let x := { sp with tiles := tiles, groups := groups, todo := passList groups, passes := (passList groups).length, chosen := true }
      ∃ t, exec (.gatherFactorChoice w) s = .next t ∧ (latOf t w).tilesIn = l.tilesIn.drop sp.n
        ∧ (l.span.map (·.seq) = some sp.seq → (latOf t w).span = some x ∧ (latOf t w).ahead = l.ahead
            ∧ (passList groups = [] → (∀ y ∈ (ctxOf t w).cmds, y.seq = sp.seq → y.ready = true ∧ y.doneAt = s.now)
                ∧ fget t (Fld.cmpCntSpan_COUNT pf) = (fget s (Fld.cmpCntSpan_COUNT pf) + 1) % 2 ^ 32))
        ∧ (l.span.map (·.seq) ≠ some sp.seq → (latOf t w).span = l.span ∧ (latOf t w).ahead = l.ahead ++ [x]))
    ∧ ∀ q p bank (c : ECmd), loadDue s w = some (sp, q, p, bank) → l.run = none → latCurrent s w = some c →
      let n := if halves s w then 64 else 128
      let g := sp.groups.getD q ⟨0, 1, 0⟩
      ∃ t, exec (.stationaryLoad w) s = .next t ∧ (latOf t w).busyUntil = s.now + n ∧ (latOf t w).cellFmt = sp.fmt
        ∧ (latOf t w).cells = passCells sp.fmt g.g p sp.kp (sp.n - 1) g.first n (if sp.hi then 64 else 0) (bankTiles (facetOf s w.lf) (sp.groupTiles q) bank)
        ∧ (latOf t w).span = some { sp with todo := sp.todo.drop 1, cur := (q, p), seen := q + 1 }
        ∧ (∀ y ∈ (ctxOf t w).cmds, y.seq = c.seq → y.ready = true ∧ y.doneAt = s.now + n)
        ∧ fget t (Fld.cmpCntSpan_COUNT pf) = (fget s (Fld.cmpCntSpan_COUNT pf) + 1) % 2 ^ 32

/-- R233 and R234 for END; R239 for a neuron list. -/
def Obligations.StreamsFetchAndReadLists : Prop :=
  ∀ (s : State) (e h : Nat) (x : Stream), streamOf s e h = some x → x.state = 1 →
    (x.ended = false → x.entries = [] → x.fed = [] → x.burstAt + stsLatency x.lf x.next ≤ s.now → (engineOf s e).transfers = [] →
        x.list = none → inAnyAlloc s x.next 64 = true → memRead s.sts x.next = 0#8 → memRead s.sts (x.next + 1) = 0#8 → x.next % 64 = 0 →
      ∃ t y, exec (.blockListFetch e h) s = .next t ∧ streamOf t e h = some y ∧ y.state = 2 ∧ y.ended = true ∧ y.entries = [] ∧ y.endedAt = s.now ∧ SameMemories s t)
    ∧ ∀ l : ListRef, x.list = some l → 0 ≤ (BitVec.ofNat 32 (fget s (Fld.fmemArr_COUNT (physOf s x.lf) l.ctr)) - l.target).toInt →
      awake s x.lf (listAddrs s x.lf l.addr) = true →
      ∃ t, exec (.neuronListReady e h) s = .next t ∧ streamOf t e h = some { x with list := none, groups := some (listGroups s x.lf l.addr) }
        ∧ SameMemories s t ∧ ∀ k, k ≠ e → engineOf t k = engineOf s k

/-- R235 to R237 for a COPY between memories, and its completion in the State Store. -/
def Obligations.CopiesReadAndDeliver : Prop :=
  ∀ (s : State) (e h : Nat) (x : Stream), streamOf s e h = some x →
    (∀ (b : BEntry) (r : List BEntry), wantedTile s e h = none → x.entries = b :: r → mayStart s e h x = true → placeFor s e h x = true → winsRequest s e h x = true → x.rate ≠ 0 →
      (entryBad e x.lf x.compress b = true → exec (.transferStart e h) s = .next (abortTask s ⟨x.lf, x.ctx⟩ 1))
      ∧ (entryBad e x.lf x.compress b = false → b.op = 1 → b.xform = 0 → b.srcTd.kind = 0 → b.dstTd.kind = 0 →
        let n := min (min (min b.count (b.srcTd.count - b.srcFirst)) (b.dstTd.count - b.dstFirst)) (65536 / b.srcTd.esize)
        ∃ t tr, exec (.transferStart e h) s = .next t ∧ (engineOf t e).transfers = (engineOf s e).transfers ++ [tr]
          ∧ tr.data = viewRead s x.lf b.srcTd b.srcFirst n ∧ tr.pieces = 1 ∧ tr.writes = (blockWrites b 0 tr.data).1 ∧ tr.handle = h ∧ SameMemories s t))
    ∧ ∀ (id : Nat) (tr : Transfer), (engineOf s e).transfers.find? (fun t => t.id = id) = some tr → performable s e tr = true → tr.dest = .sts → tr.handle = h → x.fed = [] →
        ∃ t y, exec (.transferComplete e id) s = .next t ∧ t.sts = memPuts s.sts tr.writes ∧ t.fmem = s.fmem ∧ t.far = s.far ∧ t.host = s.host ∧ t.imem = s.imem
          ∧ t.flash = s.flash ∧ (engineOf t e).transfers = (engineOf s e).transfers.filter (fun y => y.id ≠ id) ∧ streamOf t e h = some y ∧ y.done = x.done + tr.pieces

/-- R138 for a result in packed or indexed mode; R142 and R335 for the end of a job that feeds no other. -/
def Obligations.MergeResultsAndEnd : Prop :=
  ∀ (s : State) (n : Nat) (j : Job), mapFind s.jobs n = some j →
    (∀ r : Running, resultDue s j = some r → Td.kind j.td = 0 → Td.space j.td = 1 →
      let bs := if j.indexed then resultPayload j r else resultHead j r ++ resultPayload j r
      let off := if j.indexed then r.key * j.outStride else j.offset
      (off + bs.length ≤ Td.rangeLen j.td → ∃ t, exec (.mergeResultWrite n) s = .next t ∧ t.sts = memWrite s.sts (Td.rangeBase j.td + off) bs
        ∧ mapFind t.jobs n = some { j with out := j.out.drop 1, written := j.written + 1, offset := if j.indexed then j.offset else off + bs.length }
        ∧ t = { s with sts := t.sts, jobs := t.jobs, regs := t.regs, paging := t.paging }
        ∧ fget t Fld.mrgCntOut_COUNT = (fget s Fld.mrgCntOut_COUNT + 1) % 2 ^ 32)
      ∧ (Td.rangeLen j.td < off + bs.length → ∃ t, exec (.mergeResultWrite n) s = .next t ∧ SameMemories s t
        ∧ mapFind t.jobs n = some { j with out := j.out.drop 1, dropped := j.dropped + 1 }
        ∧ fget t Fld.mrgCntOutdrop_COUNT = (fget s Fld.mrgCntOutdrop_COUNT + 1) % 2 ^ 32))
    ∧ (j.allEnded = true → j.records = 0 → j.running = none → j.out = [] → j.closing = false → j.complete = false → j.fed = [] →
      ∃ t, exec (.mergeJobComplete n) s = .next t ∧ t = { s with jobs := t.jobs, facets := t.facets }
        ∧ mapFind t.jobs n = (if j.orphan then none else some { j with complete := true }))

/-- R148 for a load; R150, R154 and R336 for the query that stands first. -/
def Obligations.PredictorLoadsAndServes : Prop :=
  ∀ s : State,
    (∀ a since, s.predictor.running = some (.load a since) → since + loadTime s a ≤ s.now → residentHalf s.predictor a = none →
      ∃ t h, exec .weightSetLoad s = .next t ∧ residentHalf t.predictor a = some h ∧ h.data = setBytes s a
        ∧ t.predictor.queue = s.predictor.queue ∧ t.predictor.running = none ∧ t = { s with predictor := t.predictor, regs := t.regs }
        ∧ fget t Fld.prdCntLoad_COUNT = (fget s Fld.prdCntLoad_COUNT + 1) % 2 ^ 32)
    ∧ ∀ (q : PredQuery) (r : List PredQuery), s.predictor.queue = q :: r → fget s (Fld.fmemGated_STATE (physOf s q.lf)) = 0 → s.wakes = [] → heldFacet s q.lf = false →
      (∀ h : PredHalf, s.predictor.running = none → residentHalf s.predictor (qSet q.block) = some h →
        (predictorCycle s).predictor.running = some .query
          ∧ ∀ y ∈ (ctxOf (predictorCycle s) ⟨q.lf, q.ctx⟩).cmds, y.seq = q.seq →
              y.image = listHead q.block (setN h.data) (queryUnion s q.lf h.data q.block) ++ (queryUnion s q.lf h.data q.block).flatMap (leBytes 2))
      ∧ ∀ c : ECmd, s.predictor.running = some .query → (ctxOf s ⟨q.lf, q.ctx⟩).cmds.find? (fun c => c.seq = q.seq) = some c → 48 ≤ c.image.length →
        let dst := qDest q.block
        ∃ t, exec .predictorQueryService s = .next t ∧ t.predictor.queue = r ∧ t.predictor.running = none
          ∧ facetRead t q.lf dst c.image.length = c.image
          ∧ (∀ y, y < fbase (physOf s q.lf) + dst ∨ fbase (physOf s q.lf) + dst + c.image.length ≤ y → memRead t.fmem y = memRead s.fmem y)
          ∧ (∀ y ∈ (ctxOf t ⟨q.lf, q.ctx⟩).cmds, y.seq = q.seq → y.ready = true ∧ y.doneAt = s.now + 1 ∧ y.result = BitVec.ofNat 32 (fieldOf c.image 0 2))
          ∧ fget t Fld.prdCntQuery_COUNT = (fget s Fld.prdCntQuery_COUNT + 1) % 2 ^ 32

/-- R249 for the start and the end of a permutation load. -/
def Obligations.PermutationsLoadAndAreStored : Prop :=
  ∀ s : State,
    (∀ q i, hostUp s = true → s.permLoad = none → q < 4 → i < 64 →
      ∃ t, exec (.permutationLoad q i) s = .next t ∧ fget t Fld.prsPcmd_QUAD = q ∧ fget t Fld.prsPcmd_INDEX = i
        ∧ t = { s with regs := t.regs, permLoad := t.permLoad, perms := t.perms }
        ∧ (if (bufferLanes s).eraseDups.length = 128 then t.permLoad = some ⟨q, i, bufferLanes s, s.now⟩ ∧ t.perms = s.perms
           else t.permLoad = none ∧ fget t Fld.prsPcmd_RESULT = 1 ∧ storedPerm t q i = none))
    ∧ ∀ p : PermLoad, s.permLoad = some p → p.quad < 4 → p.index < 64 →
      ∃ t, exec .permutationStored s = .next t ∧ t.permLoad = none ∧ fget t Fld.prsPcmd_RESULT = 0 ∧ storedPerm t p.quad p.index = some p.lanes
        ∧ (∀ k, k ≠ 64 * p.quad + p.index → mapFind t.perms k = mapFind s.perms k)
        ∧ bitSet (fget t (if p.index < 32 then Fld.prsPvalidLo_VALID p.quad else Fld.prsPvalidHi_VALID p.quad)) (p.index % 32) = true
        ∧ t = { s with regs := t.regs, permLoad := t.permLoad, perms := t.perms }

/-- R166 and R167 for one window write, the error registers of R418 for one that is discarded. -/
def Obligations.HostWritesThroughTheFacetWindow : Prop :=
  ∀ (s : State) (f off : Nat) (data : List Byte), hostUp s = true → f < 52 →
    (data.length = 4 ∧ off % 4 = 0 ∨ data.length = 8 ∧ off % 8 = 0) →
    let addr := 0x1000000 + f * 0x100000 + off
    (off < 0x80000 → (∀ i < data.length, gatedAt s f (off + i) = false ∧ wakingAt s f (off + i) = false) →
      ∃ t, exec (.facetWindowWrite addr data) s = .next t ∧ t = { s with fmem := t.fmem, cyc := t.cyc } ∧ fmemPeek t f (span off data.length) = data
        ∧ ∀ y, y < fbase f + off ∨ fbase f + off + data.length ≤ y → memRead t.fmem y = memRead s.fmem y)
    ∧ (0x80000 ≤ off → off < 0x90000 →
      ∃ t, exec (.facetWindowWrite addr data) s = .next t ∧ SameMemories s t ∧ fget t Fld.glbHerrInfo_CAUSE = 3 ∧ fget t Fld.glbHerrInfo_WRITE = 1
        ∧ fget t Fld.glbHerrInfo_BAR = 0 ∧ fget t Fld.glbHerrInfo_BYTES = data.length ∧ fget t Fld.glbHerrAddrLo_ADDR = addr
        ∧ fget t Fld.glbHerr_ACCESS = 1 ∧ fget t Fld.glbCntHerr_COUNT = (fget s Fld.glbCntHerr_COUNT + 1) % 2 ^ 32)

/-- R169, R172, R173 and R190, for physical facet `f` whose banks are on and awake. -/
def Obligations.HostFillsAndCopiesFacetMemory : Prop :=
  ∀ (s : State) (f : Nat), f < 52 → fget s (Fld.fmemGated_STATE f) = 0 → (∀ a, wakingAt s f a = false) →
    let dst := 4 * fget s (Fld.fmemOpdst_ADDR f)
    let src := 4 * fget s (Fld.fmemOpsrc_ADDR f)
    let n := 4 * fget s (Fld.fmemOplen_LEN f)
    let refused (t : State) : Prop := fget t (Fld.fmemOpstat_STATE f) = 3 ∧ fget t Fld.glbHerrInfo_CAUSE = 4 ∧ SameMemories s t ∧ t.memOps = s.memOps
    (hostUp s = true → fget s (Fld.fmemOpstat_STATE f) ≠ 1 →
      (∃ t, exec (.fmemHostFill f) s = .next t
        ∧ (if dst + n ≤ 0x80000 then fget t (Fld.fmemOpstat_STATE f) = 1 ∧ SameMemories s t
              ∧ mapFind t.memOps f = some ⟨s.now + (n + 255) / 256, dst, none, n, patternBytes (BitVec.ofNat 32 (fget s (Fld.fmemOpval_VALUE f))) n, []⟩
           else refused t))
      ∧ ∃ t, exec (.fmemHostCopy f) s = .next t
        ∧ (if dst + n ≤ 0x80000 ∧ src + n ≤ 0x80000 then fget t (Fld.fmemOpstat_STATE f) = 1 ∧ SameMemories s t
              ∧ mapFind t.memOps f = some ⟨s.now + (n + 127) / 128, dst, some src, n, fmemPeek s f (span src n), []⟩
           else refused t))
    ∧ ∀ m : MemOp, mapFind s.memOps f = some m → m.src = none → m.lost = [] → m.doneAt ≤ s.now →
      ∃ t, exec (.fmemHostOpDone f) s = .next t ∧ fget t (Fld.fmemOpstat_STATE f) = 2 ∧ mapFind t.memOps f = none ∧ fmemPeek t f (span m.dst m.bytes.length) = m.bytes
        ∧ (∀ y, y < fbase f + m.dst ∨ fbase f + m.dst + m.bytes.length ≤ y → memRead t.fmem y = memRead s.fmem y)
        ∧ OnlyFields [Fld.fmemOpstat_STATE f] s { t with fmem := s.fmem, memOps := s.memOps, free := s.free, cyc := s.cyc }

/-- R178 to R181 for one bank. -/
def Obligations.BanksGateAndWake : Prop :=
  ∀ (s : State) (f b : Nat), f < 52 → b < 32 →
    let req (t : State) : Bool := bitSet (fget t (Fld.fmemGate_REQ f)) b
    let gated (t : State) : Bool := bitSet (fget t (Fld.fmemGated_STATE f)) b
    let k := 32 * f + b
    (serving s = true → bitsIn (thisCycle s).manager (Fld.fmemGate_REQ f).key = 0 → mapFind s.wakes k = none →
      (req s = false → gated s = false →
        ∃ t, exec (.fmemGateRequest f b) s = .next t ∧ req t = true ∧ gated t = false ∧ mapFind t.gates k = some s.now ∧ SameMemories s t)
      ∧ (req s = true → gated s = false →
        ∃ t, exec (.fmemGateCancel f b) s = .next t ∧ req t = false ∧ gated t = false ∧ mapFind t.gates k = none ∧ SameMemories s t)
      ∧ (req s = true → gated s = true →
        ∃ t, exec (.fmemWake f b) s = .next t ∧ req t = false ∧ gated t = true ∧ mapFind t.wakes k = some (s.now + 256) ∧ SameMemories s t))
    ∧ (∀ at_, mapFind s.gates k = some at_ → mapFind s.wakes k = none → pendingTasks s f b = [] → hostPending s f b = false →
        ∃ t, exec (.bankGated f b) s = .next t ∧ gated t = true ∧ mapFind t.gates k = none ∧ SameMemories s t ∧ ∀ a, bankOf a = b → fmemPeek t f [a] = [0#8])
    ∧ (∀ at_, mapFind s.gates k = some at_ → at_ + 4096 ≤ s.now → pendingTasks s f b = [] → hostPending s f b = true →
        ∃ t, exec (.gateForced f b) s = .next t ∧ gated t = true ∧ mapFind t.gates k = none ∧ SameMemories s t
          ∧ fget t (Fld.fmemCntForced_COUNT f) = (fget s (Fld.fmemCntForced_COUNT f) + 1) % 2 ^ 32)
    ∧ ∀ at_, mapFind s.wakes k = some at_ → at_ ≤ s.now →
        ∃ t, exec (.bankWakeDone f b) s = .next t ∧ gated t = false ∧ mapFind t.wakes k = none ∧ (∀ a, a < 524288 → bankOf a = b → fmemPeek t f [a] = [0#8])
          ∧ (∀ y, ¬(fbase f ≤ y ∧ y < fbase (f + 1) ∧ bankOf (y - fbase f) = b) → memRead t.fmem y = memRead s.fmem y)
          ∧ t = { s with fmem := t.fmem, regs := t.regs, wakes := t.wakes }

/-- R186 to R189 and R220. -/
def Obligations.StateStoreAccesses : Prop :=
  ∀ s : State,
    (hostUp s = true → fget s Fld.stsStatus_INITDONE ≠ 0 → ∀ (addr : Nat) (data : List Byte), data ≠ [] →
      (addr + data.length ≤ 0xBC000000 → ∃ t, exec (.bar4Access true addr 0 ⟨data, []⟩) s = .next t ∧ memReadN t.sts addr data.length = data
        ∧ (∀ y, y < addr ∨ addr + data.length ≤ y → memRead t.sts y = memRead s.sts y) ∧ t = { s with sts := t.sts, paging := t.paging, regs := t.regs })
      ∧ (0xBC000000 ≤ addr → addr + data.length ≤ 0xC0000000 → ∃ t, exec (.bar4Access true addr 0 ⟨data, []⟩) s = .next t
        ∧ (∀ y, memRead t.sts y = memRead s.sts y) ∧ t.far = s.far ∧ t.fmem = s.fmem
        ∧ fget t Fld.stsErr_PTWRITE = 1 ∧ fget t Fld.stsCntPtwr_COUNT = (fget s Fld.stsCntPtwr_COUNT + 1) % 2 ^ 32)
      ∧ (addr + data.length ≤ 0xC0000000 → s.paging.badWords = [] → ∃ t, exec (.bar4Access false addr data.length ⟨[], []⟩) s = .next t
        ∧ t = { s with regs := t.regs, outs := s.outs ++ [⟨s.now, .readData (memReadN s.sts addr data.length)⟩] })
      ∧ ∀ k, addr / 8 ≤ k → k < (addr + data.length) / 8 → addr + data.length ≤ 0xC0000000 → s.paging.badWords = [] →
          ∃ t bs, exec (.bar4Access false addr data.length ⟨[], [k]⟩) s = .next t ∧ t.outs = s.outs ++ [⟨s.now, .readData bs⟩] ∧ SameMemories s t
            ∧ (∀ a, addr ≤ a → a < addr + data.length → bs[a - addr]? = some (if a / 8 = k then 0xFF#8 else memRead s.sts a))
            ∧ fget t Fld.stsErr_UE = 1 ∧ fget t Fld.stsUeAddr_ADDR = 8 * k ∧ fget t Fld.stsCntUe_COUNT = (fget s Fld.stsCntUe_COUNT + 1) % 2 ^ 32)
    ∧ (mainUp s = true → fget s Fld.stsStatus_INITDONE = 0 → s.power.zeroAt + 131072 ≤ s.now →
      ∃ t, exec .stsInitDone s = .next t ∧ fget t Fld.stsStatus_INITDONE = 1 ∧ OnlyFields [Fld.stsStatus_INITDONE] s t)
    ∧ (mainUp s = true → fget s Fld.farStatus_INITDONE = 0 →
      ∃ t, exec .farInitDone s = .next t ∧ fget t Fld.farStatus_INITDONE = 1 ∧ t = { s with regs := t.regs }
        ∧ ∀ d < 16, fget t (Fld.farChState_STATE d) = if fget s (Fld.farChState_STATE d) = 0 then 1 else fget s (Fld.farChState_STATE d))

/-- What R212 leaves in a page-table entry: its state, its format, its PINNED bit, MIGRATING 0. -/
def LeavesPte (s t : State) (e : MigEntry) (st fmt : Nat) : Prop :=
  let p := pteOf t e.vpn
  pteState p = st ∧ pteMigrating p = false ∧ pteFormat p = fmt
    ∧ ptePinned p = (if e.pin then true else if e.unpin then false else ptePinned (pteOf s e.vpn))

/-- R212 to R214 for the entry that stands at place `i` of command `m`. -/
def Obligations.MigrationEntriesRun : Prop :=
  ∀ (s : State) (m i : Nat) (e : MigEntry),
    let p := pteOf s e.vpn
    let others (t : State) : Prop := ∀ u, u < 2 ^ 24 → u ≠ e.vpn → pteOf t u = pteOf s u
    let rows := [(Instr.fetchPage m i, 1), (.fetchMove m i, 2), (.evictPage m i, 3), (.cleanPage m i, 4), (.dropFar m i, 5), (.zeroNear m i, 6), (.freePage m i, 7), (.retagPage m i, 8)]
    (∀ c ∈ rows, migDue s m i c.2 = some e → ∀ st, entryFails s e = some st →
      ∃ t, exec c.1 s = .next t ∧ migEntry t m i = some { e with status := some st, running := false } ∧ SameMemories s t
        ∧ fget t Fld.cptCntFail_COUNT = (if st = 0 then fget s Fld.cptCntFail_COUNT else (fget s Fld.cptCntFail_COUNT + 1) % 2 ^ 32))
    ∧ (∀ c ∈ rows, migDue s m i c.2 = some e → entryFails s e = none → transfers s e = true →
      ∃ t, exec c.1 s = .next t ∧ migEntry t m i = some { e with running := true, doneAt := max s.now (mapGet s.paging.chanFree (e.vpn % 16) 0) + 320 }
        ∧ pteOf t e.vpn = mkPte (pteState p) true (ptePinned p) (pteFormat p) (pteFrame p) ∧ others t ∧ t.far = s.far ∧ t.fmem = s.fmem)
    ∧ (∀ c ∈ rows, migDue s m i c.2 = some e → entryFails s e = none → transfers s e = false → c.2 ≠ 1 → c.2 ≠ 2 →
      ∃ t, exec c.1 s = .next t ∧ migEntry t m i = some { e with status := some 0, running := false } ∧ others t ∧ t.far = s.far ∧ t.fmem = s.fmem
        ∧ LeavesPte s t e (match c.2 with | 3 => 1 | 4 => 3 | 5 => 2 | 6 => 2 | 7 => 0 | _ => pteState p) (if c.2 = 7 then pteFormat p else e.format)
        ∧ (c.2 = 3 → pteFrame (pteOf t e.vpn) = ((homeOf s (pteFrame p)).getD 0) % 2 ^ 24 ∧ nearOf t (pteFrame p) = none)
        ∧ (c.2 = 6 → pteFrame (pteOf t e.vpn) = e.near ∧ ∀ x < 16384, memRead t.sts (e.near * 16384 + x) = 0#8)
        ∧ (c.2 ∈ [4, 5, 8] → pteFrame (pteOf t e.vpn) = pteFrame p))

/-- R211, R213 and R214. -/
def Obligations.MigrationCommandsAndCommit : Prop :=
  ∀ s : State,
    (∀ (qp : Nat) (c : HostCmd), headCmd s qp 4 = some c → serving s = true → s.hif.bme = true → framesAhead s c.frame = 1 → afterCutoff s c.arrival = false →
      ∃ t, exec (.migrateCmd qp) s = .next t ∧ t.paging = { s.paging with migrations := s.paging.migrations.filter (fun x => decide (x.cmd.arrival ≤ c.arrival))
            ++ ⟨c, c.frame, c.addr, fetchEntries s c⟩ :: s.paging.migrations.filter (fun x => decide (c.arrival < x.cmd.arrival)) }
        ∧ (qpOf t qp).fetched = (qpOf s qp).fetched.drop 1 ∧ t = { s with hif := t.hif, paging := t.paging })
    ∧ (∀ (m i : Nat) (e : MigEntry), migEntry s m i = some e → e.running = true → e.doneAt ≤ s.now →
      let p := pteOf s e.vpn
      let n := pteFrame p
      (e.op = 1 ∨ e.op = 2 → farBad s n = false → e.near < 192512 →
        ∃ t, exec (.migrationCommit m i) s = .next t ∧ pteState (pteOf t e.vpn) = (if e.op = 1 then 3 else 2) ∧ pteFrame (pteOf t e.vpn) = e.near
          ∧ memReadN t.sts (e.near * 16384) 16384 = memReadN s.far (n * 16384) 16384 ∧ migEntry t m i = some { e with status := some 0, running := false } ∧ t.far = s.far)
      ∧ (e.op = 3 ∨ e.op = 4 → pteState p = 2 → nearBad s n = false →
        ∃ t, exec (.migrationCommit m i) s = .next t ∧ pteState (pteOf t e.vpn) = (if e.op = 3 then 1 else 3) ∧ pteFrame (pteOf t e.vpn) = (if e.op = 3 then e.far else n)
          ∧ memReadN t.far (e.far * 16384) 16384 = memReadN s.sts (n * 16384) 16384 ∧ migEntry t m i = some { e with status := some 0, running := false }))
    ∧ ((∃ c ∈ s.paging.migrations, migNow s c = true) → migRunning s = [] → moverEnd s ≤ tcyc s →
      ∃ t, exec .migrateStatusWriteback s = .next t ∧ t.paging = { s.paging with migrations := s.paging.migrations.filter (fun c => !migNow s c) }
        ∧ t.sts = s.sts ∧ t.far = s.far ∧ t.fmem = s.fmem)

/-- R222 for CPT_PTE_CMD, R218 and R219 for a far frame without bad blocks. -/
def Obligations.PageTableWritesAndRetirement : Prop :=
  ∀ s : State,
    (serving s = true →
      let v := fget s Fld.cptPteVpn_VPN
      let x := fget s Fld.cptPteData_VALUE
      let why := if runOn s then 3 else if pteMigrating (pteOf s v) then 1 else if pteRefused s v x then 2 else 0
      v < 2 ^ 24 → ∃ t, exec .cptPteWrite s = .next t ∧ fget t Fld.cptPteCmd_RESULT = why ∧ (∀ u, u < 2 ^ 24 → u ≠ v → pteOf t u = pteOf s u) ∧ t.far = s.far
        ∧ (if why = 0 then pteState (pteOf t v) = pteState x ∧ pteMigrating (pteOf t v) = false ∧ ptePinned (pteOf t v) = ptePinned x
              ∧ pteFormat (pteOf t v) = pteFormat x ∧ pteFrame (pteOf t v) = pteFrame x
           else t.sts = s.sts ∧ t.paging = s.paging))
    ∧ ∀ f cause new, retireNext s = some (f, cause) → poolFrame s (f % 16) = some new → farBad s f = false →
      ∃ t, exec .farFrameRetire s = .next t ∧ t.paging.retired = s.paging.retired ++ [(f, cause)] ∧ t.paging.poolUsed = s.paging.poolUsed ++ [new]
        ∧ memReadN t.far (new * 16384) 16384 = memReadN s.far (f * 16384) 16384
        ∧ (∀ y, y < new * 16384 ∨ new * 16384 + 16384 ≤ y → memRead t.far y = memRead s.far y)

/-- A frame has begun at cycle `c`: its number, its task records, the state that a tick clears (R26, R52). -/
def BeginsFrame (s t : State) (c : Nat) : Prop :=
  fget t Fld.fsqFrame_FRAME = nextFrame s ∧ t.seq.inFrame = true ∧ t.seq.lastTick = c ∧ t.seq.firstTick = false ∧ t.seq.reported = false ∧ t.seq.hardDone = false
    ∧ t.seq.winOpen = [] ∧ t.seq.tasks = frameTasks t ∧ t.semMsgs = [] ∧ t.jobs = [] ∧ t.engines = [] ∧ t.updates = [] ∧ ⟨s.now, .tickOut⟩ ∈ t.outs

/-- R18 to R22, R26, R52. -/
def Obligations.TicksBeginFrames : Prop :=
  ∀ s : State, ticking s = true → (s.seq.inFrame = true → s.seq.reported = true) →
    (∀ due, (s.seq.src = 0 ∧ due = (if s.seq.firstTick then s.now else s.seq.lastTick + period s))
          ∨ (s.seq.src = 2 ∧ fget s Fld.hifPtmstat_VALID = 0 ∧ due = (if s.seq.firstTick then s.seq.runAt else s.seq.lastTick) + period s) →
        due ≤ s.now → s.seq.runAt < s.now → ∃ t, exec .internalTimerTick s = .next t ∧ BeginsFrame s t due)
    ∧ (s.seq.src = 1 → (fget s Fld.chdTickctl_FOLLOW = 0 ∨ ∃ c, s.seq.edgeAt = some c ∧ c ≤ s.now) → earliestTick s ≤ s.now → s.now ≤ latestTick s →
        ∃ t, exec .tickInEdge s = .next t ∧ BeginsFrame s t s.now ∧ t.seq.madeTicks = 0)
    ∧ (s.seq.src = 1 → fget s Fld.chdTickctl_FOLLOW = 0 → s.now < earliestTick s →
        ∃ t, exec .tickInEdge s = .next t ∧ t.seq = s.seq ∧ fget t Fld.fsqCntEarly_COUNT = (fget s Fld.fsqCntEarly_COUNT + 1) % 2 ^ 32
          ∧ fget t Fld.fsqEvents_TICKEARLY = 1 ∧ fget t Fld.fsqFrame_FRAME = fget s Fld.fsqFrame_FRAME)
    ∧ (s.seq.src = 2 → fget s Fld.hifPtmstat_VALID ≠ 0 → ptmDue s ≤ s.now →
        ∃ t, exec (.ptmGridTick (gridTarget s)) s = .next t ∧ BeginsFrame s t (ptmDue s) ∧ fget t Fld.fsqPtmerr_ERRNS = ptmError s (ptmDue s) ∧ t.seq.madeTicks = 0)
    ∧ (s.seq.src = 1 → latestTick s ≤ s.now →
        ∃ t, exec .tickSynth s = .next t ∧ BeginsFrame s t (latestTick s) ∧ t.seq.synth = true
          ∧ fget t Fld.fsqCntMissed_COUNT = (fget s Fld.fsqCntMissed_COUNT + 1) % 2 ^ 32
          ∧ (if s.seq.madeTicks < 3 then t.seq.madeTicks = s.seq.madeTicks + 1
             else t.seq.madeTicks = 0 ∧ t.seq.src = 0 ∧ fget t Fld.fsqTickctl_SRC = 0 ∧ fget t Fld.fsqEvents_TICKLOST = 1))

/-- R23, R33, R52, R53. -/
def Obligations.HostStartsStopsAndSwapsFrames : Prop :=
  ∀ s : State, hostUp s = true →
    let n := fget s Fld.fsqRptCfg_BUFS
    let emptied (t : State) : Prop := fget t Fld.fsqRptHead_HEAD = 0 ∧ fget t Fld.fsqRptTail_TAIL = 0
    (fget s Fld.mgtStatus_OFFLINE ≠ 0 ∨ s.power.fatal = true → exec .runStart s = .next s)
    ∧ (fget s Fld.mgtStatus_OFFLINE = 0 → s.power.fatal = false → fget s Fld.fsqCtl_RUN = 0 →
        ∃ t, exec .runStart s = .next t ∧ fget t Fld.fsqCtl_RUN = 1 ∧ t.seq.firstTick = true ∧ t.seq.runAt = s.now ∧ t.seq.stopReq = false
          ∧ t.seq.src = srcOf (fget s Fld.fsqTickctl_SRC) ∧ t.seq.madeTicks = 0 ∧ t.seq.tasks = s.seq.tasks ∧ t = { s with regs := t.regs, seq := t.seq })
    ∧ (fget s Fld.mgtStatus_OFFLINE = 0 → s.power.fatal = false → fget s Fld.fsqCtl_RUN ≠ 0 →
        exec .runStart s = .next { s with seq := { s.seq with stopReq := false } })
    ∧ (fget s Fld.fsqCtl_RUN = 0 → exec .runStop s = .next s)
    ∧ (fget s Fld.fsqCtl_RUN ≠ 0 → s.seq.inFrame = true → s.seq.reported = false → exec .runStop s = .next { s with seq := { s.seq with stopReq := true } })
    ∧ (fget s Fld.fsqCtl_RUN ≠ 0 → (s.seq.inFrame = true → s.seq.reported = true) → s.power.stopReq = none →
        ∃ t, exec .runStop s = .next t ∧ fget t Fld.fsqCtl_RUN = 0 ∧ t = { s with regs := t.regs, seq := { s.seq with stopReq := false, inFrame := false, winOpen := [] } })
    ∧ (∀ src, ∃ t, exec (.fsqTickctlWrite src) s = .next t ∧ fget t Fld.fsqTickctl_SRC = src % 4 ∧ OnlyFields [Fld.fsqTickctl_SRC] s t)
    ∧ (fget s Fld.fsqSwap_REQ = 0 → ∃ t, exec .fsqSwapReq s = .next t ∧ fget t Fld.fsqSwap_REQ = 1 ∧ t = { s with regs := t.regs, seq := { s.seq with swapAt := s.now } })
    ∧ (∃ t, exec .fsqSwapCancel s = .next t ∧ fget t Fld.fsqSwap_REQ = 0 ∧ OnlyFields [Fld.fsqSwap_REQ] s t)
    ∧ (∀ v, v < n → (v + n - fget s Fld.fsqRptTail_TAIL) % n ≤ (fget s Fld.fsqRptHead_HEAD + n - fget s Fld.fsqRptTail_TAIL) % n → v < 4096 →
        ∃ t, exec (.fsqRptTailWrite v) s = .next t ∧ fget t Fld.fsqRptTail_TAIL = v ∧ OnlyFields [Fld.fsqRptTail_TAIL] s t)
    ∧ (∀ v, v < 4096 → (n ≤ v ∨ (fget s Fld.fsqRptHead_HEAD + n - fget s Fld.fsqRptTail_TAIL) % n < (v + n - fget s Fld.fsqRptTail_TAIL) % n) → exec (.fsqRptTailWrite v) s = .next s)
    ∧ ∀ w : Word,
        (∃ t, exec (.fsqRptRingConfig .baseLo w) s = .next t ∧ fget t Fld.fsqRptBaseLo_BASE = w.toNat / 2 ^ 12 ∧ emptied t
          ∧ OnlyFields [Fld.fsqRptBaseLo_BASE, Fld.fsqRptHead_HEAD, Fld.fsqRptTail_TAIL] s t)
        ∧ (∃ t, exec (.fsqRptRingConfig .baseHi w) s = .next t ∧ fget t Fld.fsqRptBaseHi_BASE = w.toNat ∧ emptied t
          ∧ OnlyFields [Fld.fsqRptBaseHi_BASE, Fld.fsqRptHead_HEAD, Fld.fsqRptTail_TAIL] s t)
        ∧ ∃ t, exec (.fsqRptRingConfig .cfg w) s = .next t ∧ fget t Fld.fsqRptCfg_BUFKIB = min 1024 (max 4 (w.toNat / 2 ^ 16)) ∧ fget t Fld.fsqRptCfg_BUFS = w.toNat % 4096
          ∧ emptied t ∧ OnlyFields [Fld.fsqRptCfg_BUFKIB, Fld.fsqRptCfg_BUFS, Fld.fsqRptHead_HEAD, Fld.fsqRptTail_TAIL] s t

/-- A task has started on its context at ENTRY (R287). -/
def Starts (s t : State) (e : TaskEntry) (x : Option ExpressReq) : Prop :=
  (ctxOf t e.who).task = some e.id ∧ (ctxOf t e.who).pc = e.entry ∧ (ctxOf t e.who).wait = .none ∧ (ctxOf t e.who).express = x
    ∧ (ctxOf t e.who).start = tcyc s ∧ (∀ r, rget t e.who r = 0#32)

/-- R29, R42, R44, R45, R287. -/
def Obligations.TasksAreReleasedAndLimited : Prop :=
  ∀ s : State,
    (∀ (id : Nat) (r : TaskRec), taskRec s id = some r → releasing s = true → r.phase = .waiting → r.entry.kind ≠ 1 → r.entry.release ≤ tcyc s → 2048 ≤ tcyc s →
      nextInLine s r.entry = true → ctxFreeFor s r.entry = true → facetOpen s r.entry.lf = true → physOf s r.entry.lf ≠ 0x3F → (throttleOf s (quadOf r.entry.lf)).held = false →
      ∃ t, exec (.taskRelease id) s = .next t ∧ Starts s t r.entry none ∧ (taskRec t id).map (·.phase) = some .running ∧ SameMemories s { t with imem := s.imem })
    ∧ (∀ (id : Nat) (r : TaskRec) (x : ExpressReq), taskRec s id = some r → s.seq.express.find? (fun y => y.task = id) = some x → releasing s = true → r.phase = .waiting → r.entry.kind = 1 →
      expressStart s r.entry x ≤ tcyc s → tcyc s + r.entry.xwcl ≤ r.entry.release + r.entry.wcl → ctxFreeFor s r.entry = true → facetOpen s r.entry.lf = true →
      physOf s r.entry.lf ≠ 0x3F → (throttleOf s (quadOf r.entry.lf)).held = false →
      ∃ t, exec (.expressDispatch id) s = .next t ∧ Starts s t r.entry (some x) ∧ (taskRec t id).map (·.phase) = some .running
        ∧ t.seq.express.length + 1 = s.seq.express.length ∧ SameMemories s t)
    ∧ (∀ (w : Who) (id : Nat) (r : TaskRec), (ctxOf s w).task = some id → taskRec s id = some r → r.phase = .running → r.entry.who = w →
      (ctxOf s w).startNow + (ctxOf s w).wdog + repairTime s ≤ s.now →
      ∃ t, exec (.stallWatchdog w) s = .next t ∧ ctxBusy t w = false ∧ taskRec t id = some { r with phase := .ended, status := 1, reason := 5, stop := tcyc s })
    ∧ (serving s = true → s.seq.inFrame = true → s.seq.hardDone = false → budget s + 52000 ≤ tcyc s → (s.seq.tasks.map (·.entry.id)).Nodup →
      ∃ t, exec .hardLimit s = .next t ∧ t.seq.hardDone = true
        ∧ ∀ (k : Nat) (r : TaskRec), s.seq.tasks[k]? = some r → ∃ r', t.seq.tasks[k]? = some r' ∧ r'.entry = r.entry ∧ r'.phase = .ended
          ∧ (r.phase = .ended → r' = r) ∧ (r.phase = .running → r'.status = 1 ∧ r'.reason = 7 ∧ r'.stop = budget s + 52000)
          ∧ (r.phase = .waiting → r.entry.kind ≠ 1 → r'.status = 1 ∧ (r'.reason = 7 ∨ r'.reason = 8) ∧ r'.stop = budget s + 52000)
          ∧ (r.phase = .waiting → r.entry.kind = 1 → windowWanted s r.entry = false → r'.status = 2)
          ∧ (r.phase = .waiting → r.entry.kind = 1 → r'.status = 2 ∨ (r'.status = 1 ∧ r'.reason = 8 ∧ r'.stop = budget s + 52000)))
    ∧ (∀ (i : Nat) (w : WindowEntry), (windows s)[i]? = some w → w.kind ≠ 1 → serving s = true → s.seq.inFrame = true → i ∉ s.seq.winOpen → w.t0 ≤ tcyc s → tcyc s < w.t1 →
      exec (.reservedWindowOpen i) s = .next { s with seq := { s.seq with winOpen := s.seq.winOpen ++ [i] } })
    ∧ ∀ (i : Nat) (w : WindowEntry), (windows s)[i]? = some w → i ∈ s.seq.winOpen → w.t1 ≤ tcyc s →
      (w.kind ≠ 0 → exec (.reservedWindowClose i) s = .next { s with seq := { s.seq with winOpen := s.seq.winOpen.filter (· ≠ i) } })
      ∧ ∃ t, exec (.reservedWindowClose i) s = .next t ∧ i ∉ t.seq.winOpen ∧ (∀ j, j ≠ i → (j ∈ t.seq.winOpen ↔ j ∈ s.seq.winOpen))

/-- A command's completion entry stands in its ring as Table 14-6 gives it, and the ring's tail has moved on (R405). -/
def Completed (s t : State) (c : HostCmd) (head status result info : Nat) : Prop :=
  let tail := fget s (Fld.hifQCqtail_TAIL c.qp)
  memReadN t.host (cqBase s c.qp + 16 * tail) 16 = cplBytes c.cid head status (fget s (Fld.hifQCqtail_PHASE c.qp)) c.qp result info
    ∧ fget t (Fld.hifQCqtail_TAIL c.qp) = (if fget s (Fld.hifQCfg_CQSIZE c.qp) < tail + 1 then 0 else tail + 1) % 4096

/-- Only the host interface, its completions in host memory and what the Frame Sequencer keeps have changed. -/
def OnlySequencer (s t : State) : Prop := t = { s with regs := t.regs, seq := t.seq, hif := t.hif, host := t.host, outs := t.outs, cyc := t.cyc, free := t.free }

/-- R30 to R35, R39, R40, R48, R407 to R411. -/
def Obligations.FrameCommandsOfTheHost : Prop :=
  ∀ s : State, hostUp s = true → s.hif.bme = true →
    (∀ (qp : Nat) (c : HostCmd), headCmd s qp 1 = some c →
      let bs := memReadN s.host c.addr (min c.len (4 * 2 ^ 20 + 64))
      (fget s Fld.fsqSwap_REQ = 0 → pendingState s ≠ 1 → pendingState s ≠ 2 →
        ∃ t, exec (.loadImage qp) s = .next t ∧ pendingState t = 2 ∧ fget t Fld.fsqPendingId_ID = fieldOf bs 0xC 4 ∧ t.seq.loading = some c ∧ t.seq.fetchedImg = bs
          ∧ t.seq.pendingImg = none ∧ (qpOf t qp).fetched = (qpOf s qp).fetched.drop 1 ∧ t = { s with regs := t.regs, seq := t.seq, hif := t.hif })
      ∧ (fget s Fld.fsqSwap_REQ ≠ 0 ∨ pendingState s = 1 ∨ pendingState s = 2 → cplWanted s c = true →
        ∃ t, exec (.loadImage qp) s = .next t ∧ Completed s t c c.sqHead 2 0 (infoUnread s.free c) ∧ t.seq = s.seq ∧ OnlySequencer s t))
    ∧ (∀ c : HostCmd, s.seq.loading = some c → c.entry ≠ [] → cplWanted s c = true →
      let codes := admission s s.seq.fetchedImg c.len
      ∃ t, exec .admissionEnd s = .next t ∧ fget t Fld.fsqAdmit_PRIMARY = codes.headD 0 ∧ (∀ k, 1 ≤ k → k ≤ 12 → bitSet (fget t Fld.fsqAdmitMap_MAP) (k - 1) = codes.contains k)
        ∧ t.seq.loading = none ∧ Completed s t c c.sqHead (if codes = [] then 0 else 1) (codes.headD 0) (fieldOf s.seq.fetchedImg 0xC 4) ∧ OnlySequencer s t
        ∧ (codes = [] → pendingState t = 3 ∧ t.seq.pendingImg = some (imageOf (s.seq.fetchedImg.take (c.len - 64))))
        ∧ (codes ≠ [] → pendingState t = 0 ∧ fget t Fld.fsqPendingId_ID = 0 ∧ fget t Fld.fsqSwap_REQ = 0))
    ∧ (∀ (qp : Nat) (c : HostCmd), headCmd s qp 2 = some c → cplWanted s c = true →
      (framesAhead s c.frame ≤ 1 → (framesAhead s c.frame = 0 → afterCutoff s c.arrival = false) →
        ∃ t, exec (.manifestCmd qp) s = .next t ∧ t = { s with seq := t.seq, hif := t.hif }
          ∧ t.seq.manifests = s.seq.manifests.filter (fun x => decide (x.cmd.arrival ≤ c.arrival)) ++ ⟨c, c.frame, c.len, manifestEntries s c, false, false⟩
              :: s.seq.manifests.filter (fun x => decide (c.arrival < x.cmd.arrival)))
      ∧ (framesAhead s c.frame = 0 → afterCutoff s c.arrival = true →
        ∃ t, exec (.manifestCmd qp) s = .next t ∧ Completed s t c c.sqHead 3 c.len c.frame ∧ fget t Fld.fsqCntLate_COUNT = (fget s Fld.fsqCntLate_COUNT + 1) % 2 ^ 32
          ∧ t.seq.manifests = s.seq.manifests ∧ OnlySequencer s t)
      ∧ (1 < framesAhead s c.frame → s.seq.inFrame = true → c.frame = frameNo s → c.arrival ≤ s.seq.lastTick → s.seq.ran = true →
        (pastCutoff s.seq.cutoff c.arrival = true →
          ∃ t, exec (.manifestCmd qp) s = .next t ∧ Completed s t c c.sqHead 3 c.len c.frame ∧ t.seq = (latch (skipSlots s c) c.frame).seq ∧ OnlySequencer s t)
        ∧ (pastCutoff s.seq.cutoff c.arrival = false → ∃ t, exec (.manifestCmd qp) s = .next t ∧ Completed s t c c.sqHead 3 0 c.frame ∧ OnlySequencer s t))
      ∧ (1 < framesAhead s c.frame → (s.seq.inFrame = true → c.frame = frameNo s → c.arrival ≤ s.seq.lastTick → s.seq.ran = false) →
        ∃ t, exec (.manifestCmd qp) s = .next t ∧ Completed s t c c.sqHead 4 0 c.frame ∧ t.seq = s.seq ∧ OnlySequencer s t))
    ∧ (∀ m : Manifest, s.seq.manifests.find? (fun x => !x.done) = some m → m.cmd.entry ≠ [] → cplWanted s m.cmd = true →
      (∃ t, exec (.manifestFetchEnd m.count) s = .next t ∧ Completed s t m.cmd m.cmd.sqHead 0 m.count m.frame ∧ (∀ x ∈ t.seq.manifests, x.cmd = m.cmd → x.done = true) ∧ OnlySequencer s t)
      ∧ ∀ n, n < m.count → s.seq.inFrame = true → m.frame = frameNo s →
        ∃ t, exec (.manifestFetchEnd n) s = .next t ∧ Completed s t m.cmd m.cmd.sqHead 3 n m.frame ∧ fget t Fld.fsqCntLate_COUNT = (fget s Fld.fsqCntLate_COUNT + 1) % 2 ^ 32 ∧ OnlySequencer s t)
    ∧ (∀ (qp : Nat) (r : List Byte), qp < 64 →
      (r.length = 128 → exec (.expressRequest qp r) s = .next { s with hif := { s.hif with expressIn := s.hif.expressIn ++ [(s.now + 26, qp, r)] } })
      ∧ (r.length ≠ 128 → ∃ t, exec (.expressRequest qp r) s = .next t ∧ t.seq = s.seq ∧ fget t Fld.glbHerrInfo_CAUSE = 7 ∧ t.host = s.host ∧ t.hif.expressIn = s.hif.expressIn))
    ∧ (∀ (c0 qp : Nat) (r : List Byte), s.hif.expressIn = [(c0, qp, r)] → c0 ≤ s.now →
      let c : HostCmd := ⟨qp, (qpOf s qp).gen, fieldOf r 2 2, 0, [], s.now⟩
      let t := expressCycle s
      t.hif.expressIn = []
      ∧ (qpState s qp = 1 → cqFree s qp = true → expressCheck s r = 0 →
        t.seq = { s.seq with express := s.seq.express ++ [⟨c, fieldOf r 4 2, fieldOf r 6 2, r.drop 64⟩] } ∧ (qpOf t qp).reserved = (qpOf s qp).reserved + 1 ∧ OnlySequencer s t)
      ∧ (qpState s qp = 1 → cqFree s qp = true → expressCheck s r ≠ 0 →
        t.seq = s.seq ∧ Completed s t c (fget s (Fld.hifQSqhead_HEAD qp)) (expressCheck s r) 0 (frameNo s) ∧ OnlySequencer s t)
      ∧ (qpState s qp ≠ 1 ∨ cqFree s qp = false →
        t.seq = s.seq ∧ fget t Fld.hifCntXdrop_COUNT = (fget s Fld.hifCntXdrop_COUNT + 1) % 2 ^ 32 ∧ fget t Fld.hifErr_XDROP = 1 ∧ t.host = s.host))
    ∧ (s.seq.inFrame = true → s.seq.reported = false → tasksOver s = true → s.power.stopReq = none → (s.seq.hardDone = true ∨ ∀ m ∈ s.paging.migrations, migNow s m = false) →
      let n := fget s Fld.fsqRptCfg_BUFS
      let h := (fget s Fld.fsqRptHead_HEAD + 1) % n
      ∃ t, exec .frameReport s = .next t ∧ t.seq.reported = true ∧ (migRunning s = [] → t.sts = s.sts ∧ t.far = s.far) ∧ t.fmem = s.fmem
        ∧ (s.seq.stopReq = true → fget t Fld.fsqCtl_RUN = 0 ∧ t.seq.inFrame = false)
        ∧ (2 ≤ n → n < 4096 → h ≠ fget s Fld.fsqRptTail_TAIL → fget t Fld.fsqRptHead_HEAD = h ∧ memLe t.host (ringAddr s) 4 = frameNo s % 2 ^ 32)
        ∧ (2 ≤ n → h = fget s Fld.fsqRptTail_TAIL → fget t Fld.fsqCntRptdrop_COUNT = (fget s Fld.fsqCntRptdrop_COUNT + 1) % 2 ^ 32 ∧ fget t Fld.fsqEvents_RPTDROP = 1))

/-- What a write of `w` makes of a field's value by its access code; `set` are the bits that the hardware has set in this cycle (Table 00-5, R16). -/
def writtenField (f : Field) (old w set : Nat) : Nat :=
  match f.acc with
  | .rw => w % 2 ^ f.width
  | .w1c => Nat.land old (Nat.lor (Nat.xor (w % 2 ^ f.width) (2 ^ f.width - 1)) set) % 2 ^ f.width
  | .w1s => Nat.lor old w % 2 ^ f.width
  | .ro => old
  | .wo => old

/-- The last host access error, logged and counted (R12, R418). -/
def LogsAccess (s t : State) (bar : Nat) (isWrite : Bool) (cause : Nat) : Prop :=
  fget t Fld.glbHerr_ACCESS = 1 ∧ fget t Fld.glbCntHerr_COUNT = (fget s Fld.glbCntHerr_COUNT + 1) % 2 ^ 32 ∧ fget t Fld.glbHerrInfo_BAR = bar
    ∧ fget t Fld.glbHerrInfo_WRITE = (if isWrite then 1 else 0) ∧ fget t Fld.glbHerrInfo_CAUSE = cause ∧ SameMemories s t ∧ t.seq = s.seq ∧ t.ports = s.ports

/-- R11 to R16 for writes of the host, R360. -/
def Obligations.HostRegisterAccesses : Prop :=
  ∀ s : State, hostUp s = true →
    (∀ addr v, sizeOk addr 4 = true → inBlock addr = true → inFacetMem addr = false → inMsix addr = false → v < 2 ^ 32 → (thisCycle s).manager = [] →
      (startRegister addr = true → bitSet v 31 = false) →
      ∃ t, exec (.hostRegisterWrite addr 4 v) s = .next t ∧ t = { s with regs := t.regs, hif := t.hif, outs := t.outs, cyc := t.cyc }
        ∧ (∀ f : Field, f.key ∉ (fieldsAt addr).map Field.key → fget t f = fget s f)
        ∧ ∀ f : Field, (fieldsAt addr).filter (fun g => g.key = f.key) = [f] →
          fget t f = if f.own || writeIgnored s f then fget s f else writtenField f (fget s f) (bitsOf v f.lo f.width) (bitsIn (thisCycle s).flags f.key))
    ∧ (∀ addr v, startRegister addr = true → addr < 0x100000 → bitSet v 31 = true → v < 2 ^ 32 → (thisCycle s).manager = [] →
      ∃ t, exec (.hostRegisterWrite addr 4 v) s = .next t ∧ t.regs = s.regs ∧ SameMemories s t)
    ∧ (∀ f v, f < 52 → bitSet v 31 = true → v < 2 ^ 32 → v % 8 ≠ 4 → v % 8 ≠ 5 → fget s (Fld.fmemOpstat_STATE f) ≠ 1 →
      ∃ t, exec (.hostRegisterWrite (0x10F3030 + f * 0x100000) 4 v) s = .next t ∧ fget t (Fld.fmemOpstat_STATE f) = 3 ∧ fget t Fld.glbHerrInfo_CAUSE = 4
        ∧ SameMemories s t ∧ t.memOps = s.memOps)
    ∧ (∀ addr v u, sizeOk addr 8 = true → inBlock addr = true → inBlock (addr + 4) = true → inFacetMem addr = false → inFacetMem (addr + 4) = false →
      exec (.hostRegisterWrite addr 4 (v % 2 ^ 32)) s = .next u → hostUp u = true →
        exec (.hostRegisterWrite addr 8 v) s = exec (.hostRegisterWrite (addr + 4) 4 (v / 2 ^ 32 % 2 ^ 32)) u)
    ∧ (∀ addr size v, inFacetMem addr = false → (sizeOk addr size = false ∨ (size = 4 ∧ inBlock addr = false)) →
      ∃ t, exec (.hostRegisterWrite addr size v) s = .next t ∧ LogsAccess s t 0 true (if sizeOk addr size then 2 else 1))
    ∧ (∀ bar isWrite addr size, bar < 2 → (sizeOk addr size = false ∨ (bar = 0 ∧ inBlock addr = false ∧ inFacetMem addr = false) ∨ (bar = 1 ∧ inDoorbell addr = false)) →
      ∃ t, exec (.bar0AccessError bar isWrite addr size) s = .next t ∧ LogsAccess s t bar isWrite (accessCause bar isWrite addr size)
        ∧ (isWrite = false → ⟨s.now, .readData (List.replicate size 0xFF#8)⟩ ∈ t.outs))
    ∧ ∀ chip, ∃ t, exec (.chipidWrite chip) s = .next t ∧ OnlyFields [Fld.chdChipid_CHIP] s t
        ∧ fget t Fld.chdChipid_CHIP = if (∀ p < 8, fget s (Fld.chdPState_STATE p) = 0) then chip % 64 else fget s Fld.chdChipid_CHIP

/-- A port is in a state since now, and nothing but it and its registers has changed. -/
def PortEnters (s t : State) (p st : Nat) : Prop :=
  fget t (Fld.chdPState_STATE p) = st ∧ (portOf t p).since = s.now ∧ t = { s with regs := t.regs, ports := t.ports, outs := t.outs }

/-- R358, R359, R379, R387, R388, R390. -/
def Obligations.ChordPortsComeUp : Prop :=
  ∀ (s : State) (p : Nat), serving s = true → p < 8 →
    let x := portOf s p
    let st := fget s (Fld.chdPState_STATE p)
    let valid (u : State) (k : Nat) : Bool := if k < 32 then bitSet (fget u Fld.chdOtvalidLo_VALID) k else bitSet (fget u Fld.chdOtvalidHi_VALID) (k % 32)
    (hostUp s = true → fget s (Fld.chdPCtl_ENABLE p) = 0 → ∃ t, exec (.portEnable p) s = .next t ∧ PortEnters s t p 1 ∧ fget t (Fld.chdPCtl_ENABLE p) = 1 ∧ t.outs = s.outs)
    ∧ (hostUp s = true → fget s (Fld.chdPCtl_ENABLE p) ≠ 0 → st ≠ 5 → ∃ t, exec (.portDisable p) s = .next t ∧ PortEnters s t p 0 ∧ fget t (Fld.chdPCtl_ENABLE p) = 0)
    ∧ (hostUp s = true → fget s (Fld.chdPCtl_ENABLE p) ≠ 0 → st = 5 →
        ∃ t, exec (.portDisable p) s = .next t ∧ fget t (Fld.chdPState_STATE p) = 0 ∧ fget t Fld.chdErr_PORTDOWN = 1 ∧ (∀ r ∈ t.reads, r.2.port ≠ p))
    ∧ (st = 1 → s.now ≤ x.since + 1300000 → ∃ t, exec (.signalDetected p) s = .next t ∧ PortEnters s t p 2 ∧ t.outs = s.outs)
    ∧ (st = 2 → s.now ≤ x.since + 65000000 → ∃ t, exec (.trainDone p) s = .next t ∧ PortEnters s t p 3 ∧ t.outs = s.outs)
    ∧ (st = 3 → s.now ≤ x.since + 1300000 → ∃ t, exec (.alignDone p) s = .next t ∧ PortEnters s t p 4
        ∧ t.outs = s.outs ++ [0, 1, 2].map (fun vc => ⟨s.now, .control p 6 ((1 + 2 ^ 8 * chipId s + 2 ^ 16 * (vc * 2 ^ 14 + if vc = 0 then 256 else 6144)) % 2 ^ 32)⟩))
    ∧ (1 ≤ st → st ≤ 4 → x.since + (if st = 2 then 65000000 else if st = 4 then 13000 else 1300000) ≤ s.now →
        ∃ t, exec (.bringupTimeout p) s = .next t ∧ fget t (Fld.chdPState_STATE p) = 0 ∧ (portOf t p).failedAt = some s.now ∧ (st ≠ 4 → fget t (Fld.chdPState_REASON p) = st))
    ∧ (∀ t₀, x.failedAt = some t₀ → st = 0 → fget s (Fld.chdPCtl_ENABLE p) ≠ 0 → t₀ + 1300000 ≤ s.now →
        ∃ t, exec (.bringupRetry p) s = .next t ∧ PortEnters s t p 1 ∧ (portOf t p).failedAt = none ∧ t.outs = s.outs)
    ∧ (∀ version chip vc credits, st = 4 → s.now ≤ x.since + 13000 →
        (version ≠ 1 ∨ chip % 64 = chipId s → ∃ t, exec (.exchange p version chip vc credits) s = .next t ∧ PortEnters s t p 0 ∧ (portOf t p).failedAt = some s.now
          ∧ fget t (Fld.chdPState_REASON p) = if version = 1 then 5 else 4)
        ∧ (version = 1 → chip % 64 ≠ chipId s → ∃ t, exec (.exchange p version chip vc credits) s = .next t ∧ fget t (Fld.chdPState_STATE p) = 4
          ∧ fget t (Fld.chdPState_PARTNER p) = chip % 64 ∧ (portOf t p).credits = updAt x.credits vc (fun _ => credits) ∧ (vc < 3 → vc ∈ (portOf t p).exchanged)))
    ∧ (∀ stamp, st = 4 ∨ st = 5 → exec (.delayProbe p stamp) s = .next { s with outs := s.outs ++ [⟨s.now, .control p 5 (stamp % 2 ^ 16)⟩] })
    ∧ (∀ t₀ stamp, x.probe = some t₀ → st = 4 → s.now ≤ x.since + 13000 → stamp % 2 ^ 16 = t₀ % 2 ^ 16 →
        ∃ t, exec (.delayEcho p stamp) s = .next t ∧ PortEnters s t p 5 ∧ fget t (Fld.chdPDelay_DELAY p) = min 65535 ((s.now - t₀) * 10000 / 1300 / 2))
    ∧ (∀ ns, st = 5 → fget s Fld.chdTickctl_FOLLOW ≠ 0 → fget s Fld.chdTickctl_PORT = p → ns < 2 ^ 32 →
        ∃ t, exec (.tickField p ns) s = .next t ∧ t.seq.edgeAt = some (s.now + (10 * ns * 1300 - 1300 * fget s (Fld.chdPDelay_DELAY p)) / 10000) ∧ t = { s with seq := t.seq, outs := t.outs })
    ∧ (∀ lane, lane < 4 → st = 5 → bitSet (fget s (Fld.chdPState_LANES p)) lane = true → x.swap = none →
        (fget s (Fld.chdPState_LANES p) = 15 → ∃ t, exec (.laneLost p lane) s = .next t ∧ (portOf t p).swap = some (lane, s.now) ∧ fget t (Fld.chdPState_STATE p) = 5
          ∧ t.outs = s.outs ++ [⟨s.now, .control p 2 (lane + 2 ^ 8 * 64)⟩] ∧ SameMemories s t)
        ∧ (fget s (Fld.chdPState_LANES p) ≠ 15 → ∃ t, exec (.laneLost p lane) s = .next t ∧ fget t (Fld.chdPState_STATE p) = 0 ∧ fget t Fld.rpmErr_SPAREOUT = 1))
    ∧ (∀ lane count, lane < 4 → count < 256 → st = 5 → x.txLanes = 15 →
        ∃ t, exec (.swapReq p lane count) s = .next t ∧ (portOf t p).txLanes = setBit (clearBit 15 lane) 4 ∧ ⟨s.now, .control p 3 (lane + 2 ^ 8 * count)⟩ ∈ t.outs
          ∧ fget t (Fld.chdPCntSwap_COUNT p) = (fget s (Fld.chdPCntSwap_COUNT p) + 1) % 2 ^ 32 ∧ fget t Fld.chdErr_LANESWAP = 1 ∧ SameMemories s t)
    ∧ (∀ lane count t₀, x.swap = some (lane, t₀) → lane < 4 → count < 256 → st = 5 →
        ∃ t, exec (.swapAck p lane count) s = .next t ∧ (portOf t p).swap = none ∧ fget t (Fld.chdPState_LANES p) = setBit (clearBit (fget s (Fld.chdPState_LANES p)) lane) 4 % 32
          ∧ (portOf t p).nak = true ∧ fget t (Fld.chdPCntSwap_COUNT p) = (fget s (Fld.chdPCntSwap_COUNT p) + 1) % 2 ^ 32 ∧ SameMemories s t)
    ∧ (∀ table, table < 64 → hostUp s = true → s.ownerLoad = none →
        let img := ownerBytes s
        ∃ t, exec (.ownerTableLoad table) s = .next t ∧ valid t table = false ∧ mapFind t.owners table = none ∧ fget t Fld.chdOtcmd_TABLE = table
          ∧ t = { s with regs := t.regs, owners := t.owners, ownerLoad := t.ownerLoad }
          ∧ (ownerOk img = true → t.ownerLoad = some (table, img) ∧ fget t Fld.chdOtcmd_BUSY = 1) ∧ (ownerOk img = false → t.ownerLoad = none ∧ fget t Fld.chdOtcmd_RESULT = 1))
    ∧ ∀ k img, s.ownerLoad = some (k, img) → k < 64 →
        ∃ t, exec .ownerTableLoaded s = .next t ∧ valid t k = true ∧ mapFind t.owners k = some img ∧ t.ownerLoad = none ∧ fget t Fld.chdOtcmd_BUSY = 0 ∧ fget t Fld.chdOtcmd_RESULT = 0
          ∧ t = { s with regs := t.regs, owners := t.owners, ownerLoad := none }

/-- The byte stream of a port with a flit's payload joined to it (R362, R370). -/
def streamWith (x : Port) (f : List Byte) : List Byte :=
  let first := fieldOf f 8 1 % 16
  if x.rxUnits ≠ [] then x.rxUnits ++ sliceOf f 12 240 else if first = 15 then [] else (sliceOf f 12 240).drop (16 * first)

/-- R363 to R386. -/
def Obligations.ChordFlitsAndPackets : Prop :=
  ∀ (s : State) (p : Nat), serving s = true → p < 8 →
    let x := portOf s p
    let taken (op : Nat) (b : List Byte) (i : Nat) : Prop := readyPacket s p op = some i ∧ b = x.rxPackets.getD i []
    let left (t : State) (i : Nat) : Prop := (portOf t p).rxPackets = dropAt x.rxPackets i
    (fget s (Fld.chdPState_STATE p) = 5 →
      (∀ f, (flitOk f = false ∨ fieldOf f 0 2 / 4096 ≠ 1 ∨ fieldOf f 0 2 % 4096 ≠ (x.rxLast + 1) % 4096) →
        ∃ t, exec (.dataFlit p f) s = .next t ∧ (portOf t p).nak = true ∧ (portOf t p).rxLast = x.rxLast ∧ (portOf t p).rxPackets = x.rxPackets
          ∧ fget t (Fld.chdPCntCrc_COUNT p) = (fget s (Fld.chdPCntCrc_COUNT p) + 1) % 2 ^ 32 ∧ (x.nak = true → t.outs = s.outs) ∧ SameMemories s t)
      ∧ (∀ f, flitOk f = true → fieldOf f 0 2 / 4096 = 1 → fieldOf f 0 2 % 4096 = (x.rxLast + 1) % 4096 → bitSet (fieldOf f 2 2) 15 = false →
        let bs := streamWith x f
        ∃ t, exec (.dataFlit p f) s = .next t ∧ (portOf t p).nak = false ∧ (portOf t p).rxLast = (x.rxLast + 1) % 4096
          ∧ fget t (Fld.chdPCntRx_COUNT p) = (fget s (Fld.chdPCntRx_COUNT p) + 1) % 2 ^ 32 ∧ SameMemories s t
          ∧ (portOf t p).rxPackets = x.rxPackets ++ (cutPackets (bs.length / 16 + 1) bs).1.filter (fun b => packetOk b && decide (fieldOf b 1 1 % 64 = chipId s)))
      ∧ (∀ f, flitOk f = true → fieldOf f 0 2 / 4096 = 0 → bitSet (fieldOf f 2 2) 15 = false →
        ∃ t, exec (.idleFlit p f) s = .next t ∧ t = { s with ports := t.ports } ∧ (portOf t p).credits = updAt x.credits (fieldOf f 4 4 / 2 ^ 30) (· + fieldOf f 4 4 % 2 ^ 16)
          ∧ (portOf t p).replay = (if bitSet (fieldOf f 2 2) 14 then x.replay.filter (fun r => !upTo (fieldOf f 2 2 % 4096) r.seq) else x.replay))
      ∧ (x.nak = false → ∃ t, exec (.fecFailure p) s = .next t ∧ (portOf t p).nak = true ∧ t = { s with ports := t.ports, outs := t.outs } ∧ t.outs.length = s.outs.length + 1)
      ∧ (x.replay ≠ [] → x.ackAt + 5200 ≤ s.now → (∀ r ∈ x.replay, r.sends < 9) →
        ∃ t, exec (.ackTimeout p) s = .next t ∧ (portOf t p).replay = x.replay.map (fun r => { r with sends := r.sends + 1 }) ∧ t.outs.length = s.outs.length + x.replay.length
          ∧ fget t (Fld.chdPCntReplay_COUNT p) = (fget s (Fld.chdPCntReplay_COUNT p) + x.replay.length) % 2 ^ 32 ∧ t = { s with regs := t.regs, ports := t.ports, outs := t.outs })
      ∧ (x.replay ≠ [] → x.ackAt + 5200 ≤ s.now → (∃ r ∈ x.replay, 9 ≤ r.sends) → ∃ t, exec (.ackTimeout p) s = .next t ∧ fget t (Fld.chdPState_STATE p) = 2)
      ∧ (∀ vc k, nextPacket s p vc = some k → k.mcast = none → packetUnits k.bytes ≤ x.credits.getD vc 0 → flitsOf k + x.replay.length ≤ 2048 → readMayGo s p k = true →
        ∃ t, exec (.packetTransmit p vc) s = .next t ∧ (portOf t p).txq = dropFirst (fun y => decide (y = k)) x.txq ∧ SameMemories s t
          ∧ (portOf t p).credits = updAt x.credits vc (· - packetUnits k.bytes) ∧ (portOf t p).replay.length = x.replay.length + ceilDiv k.bytes.length 240
          ∧ (k.forwarded = false → fieldOf k.bytes 0 1 = 2 → 16 ≤ k.bytes.length → ∀ r n, mapFind s.reads k.transfer = some r → freeTag s = some n →
            mapFind t.reads k.transfer = some { r with sent := true, sentAt := s.now, tag := n }))
      ∧ ∀ vc k, nextPacket s p vc = some k → k.mcast.isSome = true → copiesFit s (copiesOf s p k) = false → k.since + 1300 * fget s Fld.chdMcstall_LIMITUS < s.now →
          (ctxOf s ⟨k.lf, k.ctx⟩).task = some k.task → ∀ r, taskRec s k.task = some r → r.phase = .running → r.entry.who = ⟨k.lf, k.ctx⟩ →
          ∃ t, exec (.mcastStall p vc) s = .next t ∧ ctxBusy t ⟨k.lf, k.ctx⟩ = false ∧ taskRec t k.task = some { r with phase := .ended, status := 1, reason := 6, stop := tcyc s })
    ∧ (∀ b i, taken 1 b i →
        let a := fieldOf b 8 4
        let n := b.length - 16
        (inData s a n = true → ∃ t, exec (.writePkt p) s = .next t ∧ left t i ∧ memReadN t.sts a n = b.drop 16 ∧ (∀ y, y < a ∨ a + n ≤ y → memRead t.sts y = memRead s.sts y))
        ∧ (inData s a n = false → ∃ t, exec (.writePkt p) s = .next t ∧ left t i ∧ t.sts = s.sts ∧ fget t Fld.chdCntReject_COUNT = (fget s Fld.chdCntReject_COUNT + 1) % 2 ^ 32))
    ∧ (∀ b i o, taken 2 b i → routePort s (fieldOf b 2 1 % 64) = some o →
        let a := fieldOf b 8 4
        let n := fieldOf b 12 4
        let head (len tag : Nat) : List Byte := packetHead 3 (fieldOf b 2 1 % 64) (chipId s) 7 len tag 0 0
        let tag := fieldOf b 6 2 % 4096
        (16 ≤ n → n ≤ 512 → n % 16 = 0 → inData s a n = true →
          ∃ t, exec (.readPkt p) s = .next t ∧ left t i ∧ t.sts = s.sts ∧ ∃ k ∈ (portOf t o).txq, k.bytes = head n tag ++ memReadN s.sts a n ∧ k.vc = 2)
        ∧ (¬(16 ≤ n ∧ n ≤ 512 ∧ n % 16 = 0) ∨ inData s a n = false →
          ∃ t, exec (.readPkt p) s = .next t ∧ left t i ∧ t.sts = s.sts ∧ fget t Fld.chdCntReject_COUNT = (fget s Fld.chdCntReject_COUNT + 1) % 2 ^ 32
            ∧ ∃ k ∈ (portOf t o).txq, k.bytes = head 16 (tag + 2 ^ 15) ++ List.replicate 16 0#8 ∧ k.vc = 2))
    ∧ (∀ b i, taken 3 b i →
        let tag := fieldOf b 6 2 % 4096
        (readOf s tag = none → ∃ t, exec (.respPkt p) s = .next t ∧ left t i ∧ fget t Fld.chdCntDrop_COUNT = (fget s Fld.chdCntDrop_COUNT + 1) % 2 ^ 32)
        ∧ ∀ r, readOf s tag = some r → (∀ y ∈ s.reads, y.2.sent = true → y.2.tag = tag → y = r) → ∃ t, exec (.respPkt p) s = .next t ∧ left t i ∧ readOf t tag = none)
    ∧ (∀ b i, taken 4 b i →
        let sem := fieldOf b 8 4 % 4096
        let ok := semDeclared s sem && !semOfChan s sem
        ∃ t, exec (.postPkt p) s = .next t ∧ left t i ∧ SameMemories s t
          ∧ (ok = true → t.semMsgs = s.semMsgs ++ [⟨sem, .post, fieldOf b 8 4 / 2 ^ 16, 12 * (p / 2), 3, 0xFFFF, s.now + (if p / 2 = sem / 1024 then 4 else 24)⟩])
          ∧ (ok = false → t.semMsgs = s.semMsgs ∧ fget t Fld.chdCntPostdrop_COUNT = (fget s Fld.chdCntPostdrop_COUNT + 1) % 2 ^ 32))
    ∧ (∀ b i, ∀ c ∈ [(Instr.mergePkt p, 5), (Instr.mergeEndPkt p, 6)], taken c.2 b i →
        ∃ t, exec c.1 s = .next t ∧ left t i ∧ t.jobs = s.jobs ∧ mapGet t.portMerge p [] = mapGet s.portMerge p [] ++ [b] ∧ SameMemories s t)
    ∧ ∀ tag id r, readOf s tag = some (id, r) → r.sentAt + 52000 ≤ s.now →
        ∃ t, exec (.readTimeout tag) s = .next t ∧ mapFind t.reads id = none ∧ fget t Fld.chdCntTimeout_COUNT = (fget s Fld.chdCntTimeout_COUNT + 1) % 2 ^ 32

/-- Writes performed in order. -/
def writesDone (m : Mem) (ws : List (Nat × List Byte)) : Mem := ws.foldl (fun m w => memWrite m w.1 w.2) m

/-- R394 to R405 and R412 for queue pair `q`. -/
def Obligations.QueuePairsRun : Prop :=
  ∀ (s : State) (q : Nat), q < 64 →
    let x := qpOf s q
    let st := fget s (Fld.hifQState_STATE q)
    let sq := fget s (Fld.hifQCfg_SQSIZE q)
    let cq := fget s (Fld.hifQCfg_CQSIZE q)
    let code (t : State) : Nat := fget t (Fld.hifQState_ERRCODE q)
    let only (t : State) : Prop := t = { s with regs := t.regs, hif := t.hif, outs := t.outs, cyc := t.cyc }
    (hostUp s = true →
      (st = 0 → sq ≠ 0 → cq ≠ 0 → ∃ t, exec (.qpEnable q) s = .next t ∧ fget t (Fld.hifQState_STATE q) = 1 ∧ code t = 0 ∧ fget t (Fld.hifQCfg_ENABLE q) = 1 ∧ fget t (Fld.hifQSqhead_HEAD q) = 0
        ∧ fget t (Fld.hifQCqtail_TAIL q) = 0 ∧ fget t (Fld.hifQCqtail_PHASE q) = 1 ∧ (qpOf t q).sqTail = 0 ∧ (qpOf t q).cqHead = 0 ∧ (qpOf t q).arrivals = [] ∧ only t)
      ∧ (st = 0 → sq = 0 ∨ cq = 0 → ∃ t, exec (.qpEnable q) s = .next t ∧ fget t (Fld.hifQState_STATE q) = 0 ∧ code t = 4 ∧ t.hif = s.hif ∧ only t)
      ∧ (st = 1 ∨ st = 3 → ∃ t, exec (.qpDisable q) s = .next t ∧ fget t (Fld.hifQState_STATE q) = 2 ∧ fget t (Fld.hifQCfg_ENABLE q) = 0 ∧ (qpOf t q).arrivals = [] ∧ (qpOf t q).live = x.live ∧ only t)
      ∧ (∀ v, v < 2 ^ 32 → st = 1 → v ≤ sq → ∃ t, exec (.sqTail q v) s = .next t ∧ (qpOf t q).sqTail = v
        ∧ (qpOf t q).arrivals.map (·.1) = ringFrom (sq + 1) (fget s (Fld.hifQSqhead_HEAD q)) v ∧ t = { s with hif := t.hif })
      ∧ (∀ v, v < 2 ^ 32 → st = 1 → sq < v → ∃ t, exec (.sqTail q v) s = .next t ∧ fget t (Fld.hifQState_STATE q) = 3 ∧ code t = 1 ∧ fget t Fld.hifErr_QERR = 1 ∧ only t)
      ∧ (∀ v, v < 2 ^ 32 → st = 1 → v ≤ cq → (v + (cq + 1) - x.cqHead % (cq + 1)) % (cq + 1) ≤ cqUsed s q → ∃ t, exec (.cqHead q v) s = .next t ∧ (qpOf t q).cqHead = v ∧ t = { s with hif := t.hif })
      ∧ (∀ v, v < 2 ^ 32 → st = 1 → cq < v → ∃ t, exec (.cqHead q v) s = .next t ∧ fget t (Fld.hifQState_STATE q) = 3 ∧ code t = 2 ∧ only t)
      ∧ (∀ v, v < 2 ^ 32 → st = 1 → v ≤ cq → cqUsed s q < (v + (cq + 1) - x.cqHead % (cq + 1)) % (cq + 1) → ∃ t, exec (.cqHead q v) s = .next t ∧ fget t (Fld.hifQState_STATE q) = 3 ∧ code t = 3 ∧ only t)
      ∧ (∀ v, st ≠ 1 → ∀ c ∈ [Instr.sqTail q v, .cqHead q v], ∃ t, exec c s = .next t ∧ fget t Fld.glbHerrInfo_CAUSE = 6 ∧ fget t Fld.glbHerr_ACCESS = 1 ∧ qpOf t q = x ∧ only t)
      ∧ (∀ i at_ r, s.hif.bme = true → st = 1 → x.arrivals = (i, at_) :: r → at_ ≤ s.now → cqFree s q = true →
        let h := fget s (Fld.hifQSqhead_HEAD q)
        let h' := if h + 1 < sq + 1 then h + 1 else 0
        let e := memReadN s.host (sqBase s q + 64 * h) 64
        ∃ t, exec (.sqFetch q) s = .next t ∧ (qpOf t q).fetched = x.fetched ++ [⟨q, x.gen, fieldOf e 2 2, h', e, at_⟩] ∧ (qpOf t q).arrivals = r
          ∧ (qpOf t q).reserved = x.reserved + 1 ∧ (qpOf t q).live = x.live + 1 ∧ fget t (Fld.hifQSqhead_HEAD q) = h' % 4096
          ∧ fget t Fld.hifCntCmd_COUNT = (fget s Fld.hifCntCmd_COUNT + 1) % 2 ^ 32 ∧ only t)
      ∧ (∃ t, exec .busMasterDisable s = .next t ∧ t = { s with hif := { s.hif with bme := false } })
      ∧ (s.hif.heldCpl = [] → exec .busMasterEnable s = .next { s with host := writesDone s.host s.hif.heldWrites, hif := { s.hif with bme := true, heldWrites := [] } }))
    ∧ (st = 2 → x.live = 0 → ∃ t, exec (.qpDrained q) s = .next t ∧ fget t (Fld.hifQState_STATE q) = 0 ∧ t = { s with regs := t.regs })
    ∧ (∀ c, s.hif.bme = true → c.entry ≠ [] → c.qp = q → cplWanted s c = true →
      (headCmd s q 0 = some c → ∃ t, exec (.nopCmd q) s = .next t ∧ Completed s t c c.sqHead 0 0 0 ∧ (qpOf t q).fetched = x.fetched.drop 1 ∧ t.seq = s.seq)
      ∧ (x.fetched.head? = some c → c.ok = false → ∃ t, exec (.badCommand q) s = .next t ∧ Completed s t c c.sqHead 9 0 (infoUnread s.free c) ∧ (qpOf t q).fetched = x.fetched.drop 1 ∧ t.seq = s.seq)
      ∧ (x.fetched.head? = some c → c.ok = true → c.opcode = 4 → hostUp s = true → (∀ m ∈ s.seq.manifests, m.cmd.qp = q → m.done = true) →
        ∃ t, exec (.deviceReadError (.command q)) s = .next t ∧ Completed s t c c.sqHead 10 0 c.frame ∧ (qpOf t q).fetched = x.fetched.drop 1
          ∧ fget t Fld.hifErr_CPLERR = 1 ∧ fget t Fld.hifCntCplerr_COUNT = (fget s Fld.hifCntCplerr_COUNT + 1) % 2 ^ 32))
    ∧ ∀ (w : Who) (id : Nat) (r : TaskRec), hostUp s = true → (ctxOf s w).task = some id → taskRec s id = some r → r.phase = .running → r.entry.who = w →
      ∃ t, exec (.deviceReadError (.task w)) s = .next t ∧ ctxBusy t w = false ∧ taskRec t id = some { r with phase := .ended, status := 1, reason := 9, stop := tcyc s }
        ∧ fget t Fld.hifErr_CPLERR = 1

/-- The main domain is in a function reset: nothing runs, and the memories that a reset empties are empty (R397, Table 18-5). -/
def InFunctionReset (s t : State) : Prop :=
  t.power.funcReset = some s.now ∧ t.seq.inFrame = false ∧ t.seq.active = none ∧ t.facets = [] ∧ t.engines = [] ∧ t.jobs = [] ∧ t.sems = [] ∧ t.fmem = [] ∧ t.imem = []
    ∧ fget t Fld.fsqCtl_RUN = 0 ∧ (∀ q < 64, fget t (Fld.hifQState_STATE q) = 0) ∧ t.hif.qps = [] ∧ t.far = s.far ∧ t.host = s.host
    ∧ fget t Fld.stsStatus_INITDONE = fget s Fld.stsStatus_INITDONE ∧ (∀ y, y < 0xBC000000 → (∀ w, ctxBusy s w = false) → memRead t.sts y = memRead s.sts y)

/-- R391, R397, R398, R415 to R417, R497. -/
def Obligations.HostLinkAndFunction : Prop :=
  ∀ s : State,
    (∀ speed width, s.power.hifReset = false → s.power.phase ≠ .off →
      ∃ t, exec (.linkTraining speed width) s = .next t ∧ OnlyFields [Fld.hifLink_SPEED, Fld.hifLink_WIDTH] s t
        ∧ (1 ≤ speed → speed ≤ 6 → width ∈ [4, 8, 16] → fget t Fld.hifLink_SPEED = speed ∧ fget t Fld.hifLink_WIDTH = width)
        ∧ (speed = 0 ∨ 6 < speed ∨ width ∉ [4, 8, 16] → fget t Fld.hifLink_SPEED = 0 ∧ fget t Fld.hifLink_WIDTH = 0))
    ∧ (hostUp s = true → s.power.stopReq = none →
      ∃ t, exec .d3hotEntry s = .next t ∧ t.hif.d3hot = true ∧ (∀ q < 64, fget t (Fld.hifQState_STATE q) = 0 ∧ fget t (Fld.hifQCfg_ENABLE q) = 0 ∧ (qpOf t q).fetched = [] ∧ (qpOf t q).arrivals = [])
        ∧ t.hif.heldCpl = [] ∧ t.seq.loading = none ∧ t.seq.manifests = [] ∧ t.seq.express = [] ∧ t.fmem = s.fmem)
    ∧ (hostLink s = true → s.hif.d3hot = true → exec .d0Return s = .next { s with hif := { s.hif with d3hot := false } })
    ∧ (hostLink s = true → s.power.stopReq = none →
      ∃ t, exec .functionLevelReset s = .next t ∧ InFunctionReset s t ∧ fget t Fld.hifLink_SPEED = fget s Fld.hifLink_SPEED ∧ t.power.fatal = false)
    ∧ (∀ c ∈ [Instr.hotReset, .dlDown], mainUp s = true → linkUp s = true → s.power.stopReq = none →
      ∃ t, exec c s = .next t ∧ InFunctionReset s t ∧ fget t Fld.hifLink_SPEED = 0 ∧ t.power.fatal = s.power.fatal)
    ∧ (s.power.phase = .running → s.power.funcReset.isSome = true → s.repair.swaps = [] → s.repair.slices = [] → (∀ x ∈ s.repair.pendingSwaps, x.ready = false) →
      ∃ t, exec .functionResetEnd s = .next t ∧ t.power.funcReset = none ∧ fget t Fld.glbStatus_MAINREADY = 1 ∧ SameMemories s t)
    ∧ (hostUp s = true → ∀ ns, ∃ t, exec (.ptmExchange true ns) s = .next t ∧ fget t Fld.hifPtmstat_VALID = 1 ∧ t.hif = { s.hif with ptmFails := 0, ptmBase := (ns : Int) - (deviceNs s s.now : Int) } ∧ OnlyFields [Fld.hifPtmstat_VALID] { s with hif := t.hif } t)
    ∧ (hostUp s = true → ∀ ns,
      (s.hif.ptmFails < 2 → exec (.ptmExchange false ns) s = .next { s with hif := { s.hif with ptmFails := s.hif.ptmFails + 1 } })
      ∧ (2 ≤ s.hif.ptmFails → ∃ t, exec (.ptmExchange false ns) s = .next t ∧ fget t Fld.hifPtmstat_VALID = 0 ∧ t.hif.ptmFails = s.hif.ptmFails + 1 ∧ SameMemories s t ∧ t.seq = s.seq
        ∧ (fget s Fld.hifPtmstat_VALID ≠ 0 → runOn s = true → s.seq.src = 2 → fget t Fld.fsqEvents_TICKMISSED = 1)))
    ∧ (hostUp s = true → ∀ o : List Byte, 8 ≤ o.length → o.length ≤ 4096 → fieldOf o 0 2 = 1 → fieldOf o 2 1 = 0 →
      exec (.doeRequest o) s = .next { s with outs := s.outs ++ [⟨s.now, .spdm (leBytes 2 1 ++ leBytes 1 (fieldOf o 8 1) ++ leBytes 1 (if fieldOf o 8 1 = 0 then 1 else 0))⟩] })
    ∧ (hostUp s = true → ∀ lane voltage step errors, lane < fget s Fld.hifLink_WIDTH → step ≤ (if voltage then 32 else 16) →
      exec (.laneMargining lane voltage step errors) s = .next { s with outs := s.outs ++ [⟨s.now, .margin lane errors⟩] })

/-- A Limmund answer, and nothing else but registers, the manager's own data and draws of free values. -/
def Answers (s t : State) (b : Binding) (status : Nat) (body : List Byte) : Prop :=
  t.outs = s.outs ++ [⟨s.now, .limmund b status body⟩]

/-- A Limmund answer alone. -/
def OnlyAnswers (s t : State) (b : Binding) (status : Nat) (body : List Byte) : Prop := t = { s with outs := s.outs ++ [⟨s.now, .limmund b status body⟩] }

/-- R421 to R427, R439, R491, R513. -/
def Obligations.ManagementAnswers : Prop :=
  ∀ (s : State) (b : Binding),
    (mgmtServes s .pcie = true → ∀ watts addr value,
      ∀ c ∈ [Instr.setOfflineNone .pcie, .setOfflineQuiesce .pcie, .setOfflineReset .pcie, .setOfflinePowerOff .pcie, .setPowerCap .pcie watts, .regWrite .pcie addr value],
        ∃ t, exec c s = .next t ∧ OnlyAnswers s t .pcie 2 [])
    ∧ (mgmtServes s b = true →
      (∃ t, exec (.getStatus b) s = .next t ∧ OnlyAnswers s t b 0 (leBytes 4 (regView s 0xF0800) ++ leBytes 4 (regView s Fld.glbStatus_MAINREADY.addr)))
      ∧ (∀ first count, count ≤ 7 → ∃ t, exec (.readLog b first count) s = .next t ∧ OnlyAnswers s t b 0 ((s.mgmt.log.drop first).take count).flatten)
      ∧ (∀ first count, 7 < count → ∃ t, exec (.readLog b first count) s = .next t ∧ OnlyAnswers s t b 1 [])
      ∧ (∀ command body, (b = .sideband ∨ command ∉ [2, 3, 6, 9, 10, 11, 12]) → (command = 0 ∨ 12 < command ∨ 240 < body.length) → ∃ t, exec (.limmundBadRequest b command body) s = .next t ∧ OnlyAnswers s t b 1 [])
      ∧ (mainReady s && serving s = true →
        (∀ addr words, 1 ≤ words → words ≤ 16 → (∀ i < words, managerReaches (addr + 4 * i) = true) →
          ∃ t, exec (.regRead b addr words) s = .next t ∧ Answers s t b 0 ((List.range words).flatMap (fun i => leBytes 4 (regView s (addr + 4 * i)))) ∧ t = { s with outs := t.outs, free := t.free })
        ∧ (∀ m : List Byte, 1 ≤ m.length → m.length ≤ 240 → fget s Fld.mgtM2h_READY = 0 →
          ∃ t, exec (.mbxSend b m) s = .next t ∧ fget t Fld.mgtM2h_READY = 1 ∧ fget t Fld.mgtM2h_LEN = m.length ∧ (∀ i, 4 * i + 4 ≤ m.length → fget t (Fld.mgtM2hBuf_DATA i) = fieldOf m (4 * i) 4)
            ∧ ⟨s.now, .limmund b 0 []⟩ ∈ t.outs ∧ t = { s with regs := t.regs, outs := t.outs, hif := t.hif, cyc := t.cyc })
        ∧ (∀ m : List Byte, 1 ≤ m.length → m.length ≤ 240 → fget s Fld.mgtM2h_READY ≠ 0 → ∃ t, exec (.mbxSend b m) s = .next t ∧ OnlyAnswers s t b 5 [])
        ∧ (∀ o, fget s Fld.mgtH2m_BUSY ≠ 0 → o < (hostMessage s).length →
          ∃ t, exec (.mbxFetch b o) s = .next t ∧ ⟨s.now, .limmund b 0 (leBytes 2 (hostMessage s).length ++ ((hostMessage s).drop o).take 238)⟩ ∈ t.outs
            ∧ fget t Fld.mgtH2m_BUSY = (if (hostMessage s).length ≤ o + 238 then 0 else fget s Fld.mgtH2m_BUSY) ∧ t = { s with regs := t.regs, outs := t.outs, hif := t.hif })
        ∧ (∀ o, fget s Fld.mgtH2m_BUSY = 0 ∨ (hostMessage s).length ≤ o → ∃ t, exec (.mbxFetch b o) s = .next t ∧ OnlyAnswers s t b 1 []))
      ∧ (∀ addr words, (words < 1 ∨ 16 < words ∨ ∃ i < words, managerReaches (addr + 4 * i) = false) → ∃ t, exec (.regRead b addr words) s = .next t ∧ OnlyAnswers s t b 1 [])
      ∧ (∀ m : List Byte, m.length < 1 ∨ 240 < m.length → ∃ t, exec (.mbxSend b m) s = .next t ∧ OnlyAnswers s t b 1 [])
      ∧ (mainReady s && serving s = false →
        (∀ addr words, 1 ≤ words → words ≤ 16 → (∀ i < words, managerReaches (addr + 4 * i) = true) → ∃ t, exec (.regRead b addr words) s = .next t ∧ OnlyAnswers s t b 3 [])
        ∧ (∀ addr (v : Word), b = .sideband → managerReaches addr = true → ∃ t, exec (.regWrite b addr v) s = .next t ∧ OnlyAnswers s t b 3 [])
        ∧ (∀ m : List Byte, 1 ≤ m.length → m.length ≤ 240 → ∃ t, exec (.mbxSend b m) s = .next t ∧ OnlyAnswers s t b 3 [])
        ∧ (∀ o, ∃ t, exec (.mbxFetch b o) s = .next t ∧ OnlyAnswers s t b 3 []))
      ∧ (∀ id reading, 1 ≤ id → id ≤ 55 → exec (.sensorRead b id reading) s = .next (emit s (if mainSensor id = true ∧ mainUp s = false then .unavailable b id else .sensor b id (sensorValue s id reading)))))
    ∧ (mctpServes s b = true → ∀ eid, ∃ t, exec (.setEndpointId b eid) s = .next t ∧ t.outs = s.outs ++ [⟨s.now, .mctp b [0#8, 0#8, byteAt eid 0]⟩] ∧ t = { s with mgmt := t.mgmt, outs := t.outs }
      ∧ (b = .sideband → t.mgmt.eidSide = eid % 256 ∧ t.mgmt.eidPcie = s.mgmt.eidPcie) ∧ (b = .pcie → t.mgmt.eidPcie = eid % 256 ∧ t.mgmt.eidSide = s.mgmt.eidSide))
    ∧ (mgmtServes s .sideband = true →
      (∀ w, w = 0 ∨ (300 ≤ w ∧ w ≤ 780) → ∃ t, exec (.setPowerCap .sideband w) s = .next t ∧ fget t Fld.mgtCap_WATTS = w ∧ Answers s t .sideband 0 [] ∧ t = { s with regs := t.regs, outs := t.outs })
      ∧ (∀ w, (0 < w ∧ w < 300) ∨ 780 < w → ∃ t, exec (.setPowerCap .sideband w) s = .next t ∧ OnlyAnswers s t .sideband 1 [])
      ∧ (∀ c ∈ [(Instr.setOfflineQuiesce .sideband, 1), (.setOfflineReset .sideband, 2), (.setOfflinePowerOff .sideband, 3)], s.power.stopReq = none →
        ∃ t, exec c.1 s = .next t ∧ fget t Fld.mgtStatus_OFFLINE = max (fget s Fld.mgtStatus_OFFLINE) c.2 ∧ ⟨s.now, .limmund .sideband 0 []⟩ ∈ t.outs
          ∧ (2 ≤ c.2 → fget s Fld.mgtStatus_OFFLINE < c.2 → fget s Fld.fsqCtl_RUN = 0 → s.power.phase = .running → t.power.phase = (if c.2 = 2 then .mainReset else .off) ∧ t.fmem = [] ∧ t.facets = [])
          ∧ (fget s Fld.mgtStatus_OFFLINE < c.2 → fget s Fld.fsqCtl_RUN ≠ 0 → s.seq.inFrame = true → s.seq.reported = false → t.seq.stopReq = true ∧ t.fmem = s.fmem))
      ∧ (∃ t, exec (.setOfflineNone .sideband) s = .next t ∧ fget t Fld.mgtStatus_OFFLINE = 0 ∧ t.power.thermtrip = false ∧ t.power.offlineReset = false ∧ Answers s t .sideband 0 [])
      ∧ (∀ addr (v : Word), managerReaches addr = false → ∃ t, exec (.regWrite .sideband addr v) s = .next t ∧ OnlyAnswers s t .sideband 1 [])
      ∧ (mainReady s && serving s = true → ∀ addr (v : Word), managerReaches addr = true →
        ((fieldsAt addr).all (fun f => decide (f.acc = .ro) && !managerWrites f) = true → ∃ t, exec (.regWrite .sideband addr v) s = .next t ∧ OnlyAnswers s t .sideband 0 [])
        ∧ ((fieldsAt addr).any (fun f => decide (f.acc ≠ .ro) && !managerWrites f) = true → ∃ t, exec (.regWrite .sideband addr v) s = .next t ∧ OnlyAnswers s t .sideband 2 [])
        ∧ (∀ i < 2, addr = 0xEC058 + 4 * i → ∃ t, exec (.regWrite .sideband addr v) s = .next t ∧ fget t (Fld.rpmCfgStageM_VALUE i) = v.toNat ∧ Answers s t .sideband 0 []
          ∧ t = { s with regs := t.regs, outs := t.outs, cyc := t.cyc })
        ∧ ((fieldsAt addr).all (fun f => decide (f.acc = .ro) || (decide (f.acc = .w1c) && !f.own && !writeIgnored s f)) = true → (fieldsAt addr).any (fun f => decide (f.acc = .w1c)) = true → (thisCycle s).host = [] →
          addr < 0xE0000 → ∃ t, exec (.regWrite .sideband addr v) s = .next t ∧ ⟨s.now, .limmund .sideband 0 []⟩ ∈ t.outs
            ∧ t = { s with regs := t.regs, hif := t.hif, outs := t.outs, cyc := t.cyc } ∧ (∀ f : Field, f.key ∉ (fieldsAt addr).map Field.key → fget t f = fget s f)
            ∧ ∀ f : Field, (fieldsAt addr).filter (fun g => g.key = f.key) = [f] →
              fget t f = writtenField f (fget s f) (bitsOf v.toNat f.lo f.width) (bitsIn (thisCycle s).flags f.key))))
    ∧ (s.power.stbyOk = true → s.mgmt.i3c = true → ∀ a, exec (.dynamicAddressAssignment a) s = .next { s with mgmt := { s.mgmt with dynAddr := some (a % 128) } })
    ∧ (∀ q amps, s.power.mgmtUp = true → q < 4 → bitSet s.power.good 2 = true → ∃ t, exec (.avsCurrentRead q amps) s = .next t ∧ mapGet t.power.currents q 0 = amps ∧ t = { s with power := t.power })
    ∧ (hostUp s = true → ∀ len, len < 512 → ∃ t, exec (.hostMailboxSend len) s = .next t ∧ fget t Fld.mgtH2m_LEN = len ∧ t = { s with regs := t.regs, mgmt := t.mgmt }
      ∧ (fget s Fld.mgtH2m_BUSY = 0 → 1 ≤ len → len ≤ 256 → fget t Fld.mgtH2m_BUSY = 1 ∧ t.mgmt = { s.mgmt with h2mLen := len })
      ∧ (fget s Fld.mgtH2m_BUSY ≠ 0 ∨ len < 1 ∨ 256 < len → fget t Fld.mgtH2m_BUSY = fget s Fld.mgtH2m_BUSY ∧ t.mgmt = s.mgmt))

/-- R428 to R437. The transcript and its signature are functions that the spec leaves open (log entry 20). -/
def Obligations.KeysFirmwareAndAttestation : Prop :=
  ∀ s : State,
    (mgmtServes s .sideband = true →
      (∀ key : List Byte, key.length = 64 → ownerSlot s key ≠ none ∨ fget s Fld.secStatus_OWNERFUSED = 0 → fget s Fld.secOikCtl_LOCK = 0 →
        ∃ t, exec (.setImageKey .sideband key) s = .next t ∧ t.mgmt.storedKey = some key ∧ t.outs = s.outs ++ [⟨s.now, .limmund .sideband (if mainReady s then 0 else 6) []⟩]
          ∧ t = { s with regs := t.regs, mgmt := t.mgmt, outs := t.outs }
          ∧ (mainReady s = true → fget t Fld.secOikCtl_VALID = 1 ∧ fget t Fld.secOikCtl_LOCK = 1 ∧ ∀ i < 16, fget t (Fld.secOik_KEY i) = ofBe (sliceOf key (4 * i) 4))
          ∧ (mainReady s = false → t.regs = s.regs))
      ∧ (∀ key : List Byte, key.length = 64 → fget s Fld.secStatus_OWNERFUSED ≠ 0 → ownerSlot s key = none → ∃ t, exec (.setImageKey .sideband key) s = .next t ∧ OnlyAnswers s t .sideband 4 [])
      ∧ (∀ slot (hash sig pub : List Byte), slot < 4 → hash.length = 32 → sig.length = 64 → fget s Fld.secStatus_OWNERFUSED = 0 → 2 ≤ fget s Fld.mgtStatus_OFFLINE →
        ∃ t, exec (.fuseOwner .sideband slot hash sig pub) s = .next t ∧ fget t Fld.secStatus_OWNERFUSED = 2 ^ slot ∧ mapFind t.mgmt.ownerHash slot = some hash ∧ Answers s t .sideband 0 []
          ∧ t = { s with regs := t.regs, mgmt := t.mgmt, outs := t.outs })
      ∧ (∀ slot (hash sig pub : List Byte), slot < 4 → hash.length = 32 → sig.length = 64 → bitSet (fget s Fld.secStatus_OWNERFUSED) slot = true →
        ∃ t, exec (.fuseOwner .sideband slot hash sig pub) s = .next t ∧ OnlyAnswers s t .sideband 4 [])
      ∧ (∀ slot k (sig pub : List Byte), slot < 4 → sig.length = 64 → ownerSlot s pub = some k → k ≠ slot → ecdsaVerify pub (sha256 (leBytes 1 0x0B ++ leBytes 1 1 ++ leBytes 1 slot)) sig = true →
        ∃ t, exec (.revoke .sideband 1 slot sig pub) s = .next t ∧ bitSet (fget t Fld.secStatus_OWNERREVOKED) slot = true ∧ Answers s t .sideband 0 [])
      ∧ (∀ slot k (sig pub : List Byte), slot < 4 → sig.length = 64 → vendorSlot s pub = some k → k ≠ slot → ecdsaVerify pub (sha256 (leBytes 1 0x0B ++ leBytes 1 0 ++ leBytes 1 slot)) sig = true →
        ∃ t, exec (.revoke .sideband 0 slot sig pub) s = .next t ∧ bitSet t.mgmt.vendorRevoked slot = true ∧ Answers s t .sideband 0 [])
      ∧ (∀ cls slot (sig pub : List Byte), cls ≤ 1 → slot < 4 → sig.length = 64 → ecdsaVerify pub (sha256 (leBytes 1 0x0B ++ leBytes 1 cls ++ leBytes 1 slot)) sig = false →
        ∃ t, exec (.revoke .sideband cls slot sig pub) s = .next t ∧ OnlyAnswers s t .sideband 4 [])
      ∧ (fget s Fld.secBoot_MGTSLOT = s.mgmt.active1 →
        ∃ t, exec (.commitSvn .sideband 1) s = .next t ∧ fget t Fld.secSvn_MGT = max (fget s Fld.secSvn_MGT) (fieldOf (fwHeader s 1 s.mgmt.active1) 7 1) % 256 ∧ Answers s t .sideband 0 []))
    ∧ (∀ b, mctpServes s b = true →
      (s.mgmt.update = none → ∃ t, exec (.requestUpdate b) s = .next t ∧ t.mgmt.update = some ⟨b, []⟩ ∧ t.outs = s.outs ++ [⟨s.now, .mctp b [0#8]⟩] ∧ (mgmtState s = 1 → mgmtState t = 3))
      ∧ ∀ u, s.mgmt.update = some u → ∃ t, exec (.requestUpdate b) s = .next t ∧ t = { s with outs := s.outs ++ [⟨s.now, .mctp b [0x8E#8]⟩] })
    ∧ (∀ u comp, s.mgmt.update = some u → mctpServes s u.agent = true → 1 ≤ comp → comp ≤ 3 →
      let p := slotPlace comp (1 - activeSlot s comp)
      (∀ o (data : List Byte), o + data.length ≤ p.2 → ∃ t, exec (.componentWrite comp o data) s = .next t ∧ memReadN t.flash (p.1 + o) data.length = data
        ∧ (∀ y, y < p.1 + o ∨ p.1 + o + data.length ≤ y → memRead t.flash y = memRead s.flash y) ∧ t.mgmt.update = some { u with verified := u.verified.filter (· ≠ comp) } ∧ t.regs = s.regs)
      ∧ (fwAccepted s comp (1 - activeSlot s comp) = true → ∃ t, exec (.verifyComplete comp) s = .next t ∧ (∃ v, t.mgmt.update = some v ∧ v.agent = u.agent ∧ comp ∈ v.verified) ∧ t = { s with mgmt := t.mgmt })
      ∧ (fwAccepted s comp (1 - activeSlot s comp) = false → ∃ t, exec (.verifyComplete comp) s = .next t ∧ t.mgmt = s.mgmt ∧ fget t Fld.secErr_FWFAIL = 1
        ∧ fget t Fld.secCntFwfail_COUNT = (fget s Fld.secCntFwfail_COUNT + 1) % 2 ^ 32))
    ∧ (∀ u, s.mgmt.update = some u → mctpServes s u.agent = true → u.verified.Nodup → (∀ c ∈ u.verified, c = 1 ∨ c = 2 ∨ c = 3) →
      ∃ t, exec .activateFirmware s = .next t ∧ t.mgmt.update = none ∧ t.outs = s.outs ++ [⟨s.now, .mctp u.agent [0#8]⟩] ∧ t = { s with regs := t.regs, mgmt := t.mgmt, outs := t.outs }
        ∧ (∀ c ∈ [1, 2, 3], activeSlot t c = if c ∈ u.verified then 1 - activeSlot s c else activeSlot s c) ∧ mgmtState t = (if mgmtState s = 3 then 1 else mgmtState s)
        ∧ (1 ∈ u.verified → t.mgmt.switchFrom = some s.mgmt.active1 ∧ t.mgmt.switchAt = some (s.now + 6500000))
        ∧ (1 ∉ u.verified → t.mgmt.switchFrom = s.mgmt.switchFrom ∧ t.mgmt.switchAt = s.mgmt.switchAt))
    ∧ (s.power.stbyOk = true → mgmtState s = 0 → s.mgmt.bootAt + 2600000000 ≤ s.now → s.mgmt.switchFrom = none → 2 ≤ s.mgmt.bootTried →
      ∃ t, exec .firmwareReadyTimeout s = .next t ∧ mgmtState t = 4 ∧ OnlyFields [Fld.mgtStatus_STATE] s t)
    ∧ (s.power.stbyOk = true → mgmtState s = 0 → s.mgmt.bootAt + 2600000000 ≤ s.now → s.mgmt.switchFrom = none → s.mgmt.bootTried < 2 →
      fwAccepted s 1 (1 - fget s Fld.secBoot_MGTSLOT) = true →
      ∃ t, exec .firmwareReadyTimeout s = .next t ∧ mgmtState t = 0 ∧ fget t Fld.secBoot_MGTSLOT = 1 - fget s Fld.secBoot_MGTSLOT ∧ t.mgmt.bootTried = 2 ∧ t.mgmt.bootAt = s.now
        ∧ t.mgmt.active1 = s.mgmt.active1)
    ∧ (∀ old, s.power.stbyOk = true → mgmtState s = 2 → s.mgmt.bootAt + 2600000000 ≤ s.now → s.mgmt.switchFrom = some old → old < 2 → fwAccepted s 1 old = true →
      ∃ t, exec .firmwareReadyTimeout s = .next t ∧ t.mgmt.active1 = old ∧ fget t Fld.secBoot_MGTSLOT = old ∧ t.mgmt.switchFrom = none ∧ t.mgmt.bootAt = s.now)
    ∧ (spdmServes s = true → ∀ (o n : Nat) (nonce : List Byte),
      (∃ t, exec (.getCertificate o n) s = .next t ∧ t = { s with outs := s.outs ++ [⟨s.now, .spdm (let part := ((certChain s).drop o).take n
          leBytes 2 part.length ++ leBytes 2 ((certChain s).length - o - part.length) ++ part)⟩] })
      ∧ (∃ t sig, exec (.challenge nonce) s = .next t ∧ t.outs = s.outs ++ [⟨s.now, .spdm (sha256 (certChain s) ++ sig)⟩] ∧ t = { s with mgmt := { s.mgmt with nonce := s.mgmt.nonce + 1 }, outs := t.outs })
      ∧ ∀ i, 1 ≤ i → i ≤ 7 → ∃ t sig, exec (.getMeasurements i nonce) s = .next t
        ∧ t.outs = s.outs ++ [⟨s.now, .spdm (leBytes 1 i ++ leBytes 2 (measurement s i).length ++ measurement s i ++ sig)⟩] ∧ t = { s with mgmt := { s.mgmt with nonce := s.mgmt.nonce + 1 }, outs := t.outs })

/-- A context's task, if it runs one and no other running task has its place there, has been aborted for a reason; or it fed on another that was, and ends as UPSTREAM (R46). -/
def Aborted (s t : State) (w : Who) (reason : Nat) : Prop :=
  ∀ (id : Nat) (r : TaskRec), (ctxOf s w).task = some id → taskRec s id = some r → r.phase = .running → r.entry.who = w →
    (∀ x ∈ s.seq.tasks, x.phase = .running → x.entry.who = w → x.entry.id = id) →
    ctxBusy t w = false ∧ ∃ r', taskRec t id = some r' ∧ r'.entry = r.entry ∧ r'.phase = .ended ∧ r'.status = 1 ∧ (r'.reason = reason ∨ r'.reason = 8)

/-- A counter has counted one more. -/
def Counts (s t : State) (f : Field) : Prop := fget t f = (fget s f + 1) % 2 ^ 32

/-- R452, R455 and the uncorrectable errors of each unit. -/
def Obligations.ErrorsAreCountedAndContained : Prop :=
  ∀ s : State, serving s = true →
    (∀ f q a n : Nat, f < 52 → q < 4 → a < 0xC0000000 →
      ∀ x ∈ [(ErrorSite.facet f, Fld.fctCntCe_COUNT f), (.fmem f, Fld.fmemCntCe_COUNT f), (.slice a, Fld.stsCntCe_COUNT), (.far n, Fld.farCntCe_COUNT), (.table, Fld.cptCntCe_COUNT), (.merge, Fld.mrgCntCe_COUNT),
          (.predictor, Fld.prdCntCe_COUNT), (.prism q, Fld.prsCntCe_COUNT), (.facetStream f, Fld.strCntCe_COUNT f), (.update q, Fld.updCntCe_COUNT)],
        ∃ t, exec (.correctedError x.1) s = .next t ∧ Counts s t x.2 ∧ SameMemories s t)
    ∧ (∀ p n, p < 8 → ∃ t, exec (.correctedError (.fec p n)) s = .next t ∧ fget t (Fld.chdPCntFec_COUNT p) = (fget s (Fld.chdPCntFec_COUNT p) + n) % 2 ^ 32 ∧ OnlyFields [Fld.chdPCntFec_COUNT p] s t)
    ∧ (∀ q, q < 4 → ∃ t, exec (.correctedError (.quadStream q)) s = .next t ∧ bitSet (fget t Fld.strQerr_CE) q = true ∧ SameMemories s t)
    ∧ (∀ f array half lf, f < 52 → half < 2 → logicalOf s f = some lf → (facetOf s lf).split = false ∨ privateArray array = false →
      ∃ t, exec (.facetUe f array half) s = .next t ∧ fget t (arrayFlag f array) = 1 ∧ Counts s t (Fld.fctCntUe_COUNT f) ∧ Aborted s t ⟨lf, 0⟩ 9 ∧ Aborted s t ⟨lf, 1⟩ 9)
    ∧ (∀ f array half lf, f < 52 → half < 2 → logicalOf s f = some lf → (facetOf s lf).split = true → privateArray array = true →
      ∃ t, exec (.facetUe f array half) s = .next t ∧ fget t (arrayFlag f array) = 1 ∧ Counts s t (Fld.fctCntUe_COUNT f) ∧ Aborted s t ⟨lf, half⟩ 9 ∧ fget t (Fld.fctErrhalf_A f) = 1 - half ∧ fget t (Fld.fctErrhalf_B f) = half)
    ∧ (∀ f a (w : Who), f < 52 → a < 524288 →
      ∃ t, exec (.fmemUe f a (some w)) s = .next t ∧ fget t (Fld.fmemErr_UE f) = 1 ∧ Counts s t (Fld.fmemCntUe_COUNT f) ∧ fget t (Fld.fmemUeAddr_ADDR f) = a / 4 ∧ Aborted s t w 9)
    ∧ (∀ a (w : Who), a < 0xC0000000 → ∃ t, exec (.stsUe a (some w)) s = .next t ∧ fget t Fld.stsErr_UE = 1 ∧ Counts s t Fld.stsCntUe_COUNT ∧ fget t Fld.stsUeAddr_ADDR = a ∧ Aborted s t w 9)
    ∧ (∀ n (w : Who), n < 2 ^ 24 → ∃ t, exec (.farUe n (some w)) s = .next t ∧ fget t Fld.farErr_UE = 1 ∧ Counts s t Fld.farCntUe_COUNT ∧ fget t Fld.farUeFrame_FRAME = n ∧ Aborted s t w 9
        ∧ (∃ k < 16, 16 * n + k ∈ t.paging.badBlocks) ∧ (farRetired s n = true ∨ ∃ c, (n, c) ∈ t.paging.retireDue))
    ∧ (∃ t, exec .mergeUe s = .next t ∧ fget t Fld.mrgErr_UE = 1 ∧ t.jobs = [] ∧ t.portMerge = [] ∧ ∀ w : Who, w.lf < 48 → w.ctx < 2 → mergeUser s w = true → Aborted s t w 9)
    ∧ (∃ t, exec .predictorUe s = .next t ∧ fget t Fld.prdErr_UE = 1 ∧ t.predictor.half0 = .empty ∧ t.predictor.half1 = .empty ∧ (s.predictor.running = some .query → ∀ x ∈ s.predictor.queue.head?, Aborted s t ⟨x.lf, x.ctx⟩ 9))
    ∧ (∀ q, q < 4 → ∃ t, exec (.prismUe q) s = .next t ∧ bitSet (fget t Fld.prsErr_UE) q = true
        ∧ ∀ w : Who, w.lf < 48 → w.ctx < 2 → (∃ e ∈ s.engines, ∃ x ∈ e.2.transfers, x.of w = true ∧ x.quad = some q) → Aborted s t w 9)
    ∧ (∀ e, e < 48 → physOf s e < 52 → ∃ t, exec (.streamEngineUe e) s = .next t ∧ fget t (Fld.strErr_UE (physOf s e)) = 1
        ∧ fget t (Fld.fctErrhalf_A (physOf s e)) = 1 ∧ fget t (Fld.fctErrhalf_B (physOf s e)) = 1
        ∧ ∀ w : Who, w.lf = e → w.ctx < 2 → (facetOf s e).split = true ∨ (∃ x ∈ (engineOf s e).streams, x.2.of w = true ∧ x.2.state = 1) → Aborted s t w 9)
    ∧ (∀ e, 48 ≤ e → e < 52 → ∃ t, exec (.streamEngineUe e) s = .next t ∧ bitSet (fget t Fld.strQerr_UE) (e - 48) = true
        ∧ ∀ w : Who, w.lf < 48 → w.ctx < 2 → (∃ x ∈ (engineOf s e).streams, x.2.of w = true ∧ x.2.state = 1) → Aborted s t w 9)
    ∧ (∀ q, q < 4 → ∃ t, exec (.updateUe q) s = .next t ∧ bitSet (fget t Fld.updErr_UE) q = true ∧ ∀ r ∈ (updateQueue s q).head?, Aborted s t ⟨r.lf, r.ctx⟩ 9)
    ∧ (∀ w : Who, ∃ t, exec (.tableUe w) s = .next t ∧ fget t Fld.cptErr_TABLEUE = 1 ∧ Aborted s t w 9)
    ∧ ∀ cause, 1 ≤ cause → cause ≤ 5 → s.power.stopReq = none →
        ∃ t, exec (.fatalError cause) s = .next t ∧ fget t Fld.rpmErr_FATAL = 1 ∧ fget t Fld.rpmFatal_CAUSE = cause ∧ fget t Fld.fsqCtl_RUN = 0 ∧ t.power.fatal = true
          ∧ ∀ w : Who, w.lf < 48 → w.ctx < 2 → Aborted s t w 9

/-- R459 to R485. -/
def Obligations.RepairsRun : Prop :=
  ∀ s : State, serving s = true →
    (∀ (q : Nat) (x : FacetSwap), q < 4 → s.repair.swaps.find? (fun y => quadOf y.lf = q) = some x → x.source < 52 → x.target < 52 → x.source ≠ x.target →
      ∀ runs : List KatRun,
      (katPassed runs = true → ∃ t, exec (.facetSwapDone q runs) s = .next t ∧ physOf t x.lf = x.target ∧ fget t (Fld.rpmFstate_STATE x.source) = 4 ∧ fget t (Fld.rpmFstate_STATE x.target) = 0
        ∧ fget t (Fld.cmpKat_RESULTFAIL x.target) = 0 ∧ fget t (Fld.cmpKat_TIMEFAIL x.target) = 0 ∧ fget t (Fld.cmpStatus_STRUCT x.target) = 0
        ∧ Counts s t Fld.rpmMapgen_GEN ∧ Counts s t Fld.rpmCntSwap_COUNT ∧ fget t Fld.rpmErr_FACETSWAP = 1 ∧ SameMemories s { t with imem := s.imem })
      ∧ (katPassed runs = false → ∃ t, exec (.facetSwapDone q runs) s = .next t ∧ physOf t x.lf = 0x3F ∧ fget t (Fld.rpmFstate_STATE x.source) = 4 ∧ fget t (Fld.rpmFstate_STATE x.target) = 4
        ∧ fget t (Fld.cmpKat_RESULTFAIL x.target) = (if runs.all katResultOk then 0 else 1) ∧ fget t (Fld.cmpKat_TIMEFAIL x.target) = (if runs.all katTimeOk then 0 else 1)
        ∧ Counts s t Fld.rpmMapgen_GEN ∧ fget t Fld.rpmErr_SPAREOUT = 1 ∧ SameMemories s t))
    ∧ (∀ c : SliceCopy, s.repair.slices.find? (fun x => !x.copied) = some c →
      ∃ t, exec .sliceCopyDone s = .next t ∧ (∀ x ∈ t.repair.slices, x.logical = c.logical → x.copied = true ∧ x.poisoned ≤ 131072) ∧ t.repair.slices.length = s.repair.slices.length ∧ t = { s with repair := t.repair, free := t.free })
    ∧ (∀ ch, s.repair.retrain = none → (ch, 0) ∈ s.repair.due → channelServes s ch = true →
      ∃ t, exec (.urgentRetrain ch) s = .next t ∧ t.repair.retrain = some ⟨ch, true, s.now⟩ ∧ fget t (Fld.farChState_STATE ch) = 2 ∧ (∀ d ∈ t.repair.due, d.1 ≠ ch) ∧ SameMemories s t)
    ∧ (∀ r : Retrain, s.repair.retrain = some r →
      let fails := mapGet s.repair.failsInRow r.channel 0
      (∃ t, exec (.retrainDone true) s = .next t ∧ t.repair.retrain = none ∧ fget t (Fld.farChState_STATE r.channel) = 1 ∧ Counts s t Fld.calCntRetrain_COUNT ∧ SameMemories s t)
      ∧ (fails = 0 → ∃ t, exec (.retrainDone false) s = .next t ∧ t.repair.retrain = none ∧ fget t (Fld.farChState_STATE r.channel) = 1 ∧ fget t Fld.calErr_RETRAINFAIL = 1
        ∧ (r.channel, if r.urgent then 0 else 64) ∈ t.repair.due ∧ SameMemories s t)
      ∧ (1 ≤ fails → ∃ t, exec (.retrainDone false) s = .next t ∧ t.repair.retrain = none ∧ fget t (Fld.farChState_STATE r.channel) = 3 ∧ fget t Fld.calErr_RETRAINFAIL = 1 ∧ SameMemories s t))
    ∧ (∀ q lf id, q < 4 → (shadowOf s q).running = some (lf, id) →
      ∀ live shadow : List TaskOut,
      (outsMatch (comparesByValue s id) (cfgForce s 5) live shadow = true → ∃ t, exec (.shadowCheckEnd q ⟨live, shadow⟩ false) s = .next t ∧ (shadowOf t q).running = none ∧ (shadowOf t q).repeatTask = none
        ∧ Counts s t Fld.calCntShadow_COUNT ∧ fget t Fld.calShadowLast_TASKID = id % 2 ^ 16 ∧ fget t Fld.calShadowLast_LFACET = lf % 64 ∧ fget t Fld.calShadowLast_MATCH = 1
        ∧ t.facets = s.facets ∧ SameMemories s t)
      ∧ (outsMatch (comparesByValue s id) (cfgForce s 5) live shadow = false → ∃ t, exec (.shadowCheckEnd q ⟨live, shadow⟩ false) s = .next t ∧ (shadowOf t q).running = none
        ∧ (shadowOf t q).repeatTask = some id ∧ Counts s t Fld.calCntShadow_COUNT ∧ Counts s t Fld.calCntShadowmm_COUNT ∧ fget t Fld.calErr_SHADOWMM = 1 ∧ fget t Fld.calShadowLast_MATCH = 0
        ∧ t.facets = s.facets ∧ SameMemories s t)
      ∧ ∃ t, exec (.shadowCheckEnd q ⟨live, shadow⟩ true) s = .next t ∧ (shadowOf t q).running = none ∧ Counts s t Fld.calCntAbandon_COUNT ∧ fget t Fld.calCntShadow_COUNT = fget s Fld.calCntShadow_COUNT
        ∧ t.facets = s.facets ∧ SameMemories s t)
    ∧ (∀ ch r w, ch < 16 → channelServes s ch = true → s.repair.retrain = none → r < 256 → w < 256 →
      ∃ t, exec (.farStrobeTrack ch r w) s = .next t ∧ fget t (Fld.calFar_READ ch) = r ∧ fget t (Fld.calFar_WRITE ch) = w ∧ SameMemories s t
        ∧ (min r w < 38 → t.repair.retrain = some ⟨ch, true, s.now⟩ ∧ fget t (Fld.farChState_STATE ch) = 2)
        ∧ (38 ≤ min r w → min r w < 64 → t.repair.retrain = none ∧ ∃ k ≤ 64, (ch, k) ∈ t.repair.due) ∧ (64 ≤ min r w → t.repair = s.repair))
    ∧ (∀ host lane n sing ctle width height, (if host then linkUp s = true ∧ lane < fget s Fld.hifLink_WIDTH else lane < 40 ∧ fget s (Fld.chdPState_STATE (lane / 5)) = 5) →
      (n < 4096 ∨ sing = true → ∃ t, exec (.protractorWindow host lane n sing ctle width height) s = .next t ∧ Counts s t Fld.calCntSingular_COUNT ∧ OnlyFields [Fld.calCntSingular_COUNT] s t)
      ∧ (4096 ≤ n → sing = false → width < 256 → height < 256 →
        ∃ t, exec (.protractorWindow host lane n sing ctle width height) s = .next t ∧ Counts s t Fld.calCntUpdate_COUNT
          ∧ (host = true → lane < 16 → fget t (Fld.calHlane_WIDTH lane) = width ∧ fget t (Fld.calHlane_HEIGHT lane) = height ∧ (height < 8 ∨ width < 31 → fget t Fld.calErr_MARGINLOW = 1))
          ∧ (host = false → fget t (Fld.calLane_WIDTH lane) = width ∧ fget t (Fld.calLane_HEIGHT lane) = height)))
    ∧ (∀ (xs : List QuadSample) (spine : Int),
      let x (q : Nat) : QuadSample := xs.getD q ⟨0, 0, 0⟩
      ∃ t, exec (.skewSample xs spine) s = .next t ∧ SameMemories s t ∧ ∀ q < 4,
        fget t (Fld.rpmQv_MV q) = (x q).mv % 2 ^ 16 ∧ fget t (Fld.rpmQt_TEMP q) = wrapOf 16 (x q).temp ∧ fget t (Fld.rpmQstr_STRETCH q) = (x q).stretch % 2 ^ 11
          ∧ (800 ≤ (x q).temp → (throttleOf t q).thermal = min 3 ((throttleOf s q).thermal + 1)) ∧ (776 < (x q).temp → (x q).temp < 800 → (throttleOf t q).thermal = (throttleOf s q).thermal)
          ∧ ((∃ b < 4, (x q).mv + 60 < (x b).mv ∨ (x b).temp + 160 < (x q).temp ∨ (x b).stretch + 64 < (x q).stretch) →
              (throttleOf t q).skew = min 3 ((throttleOf s q).skew + 1) ∧ (throttleOf t q).since.isSome = true)
          ∧ fget t ([Fld.rpmThrottle_Q0, Fld.rpmThrottle_Q1, Fld.rpmThrottle_Q2, Fld.rpmThrottle_Q3].getD q Fld.rpmThrottle_Q0) = levelOf t q % 4)
    ∧ (∀ q t₀, q < 4 → (throttleOf s q).since = some t₀ → t₀ + 26000 ≤ s.now → (throttleOf s q).held = false →
      ∃ t, exec (.skewOverrun q) s = .next t ∧ (throttleOf t q).held = true ∧ fget t Fld.rpmErr_SKEWOVERRUN = 1 ∧ fget t Fld.rpmCntOverrun_COUNT = (fget s Fld.rpmCntOverrun_COUNT + (quadTasks s q).length) % 2 ^ 32
        ∧ ∀ w : Who, w.lf / 12 = q → w.ctx < 2 → Aborted s t w 7)
    ∧ ∀ watts, ∃ t, exec (.powerCapSample watts) s = .next t ∧ SameMemories s t ∧ ∀ q < 4,
        (throttleOf t q).power = (if powerLimit s < watts then min 3 ((throttleOf s q).power + 1) else if 20 * watts ≤ 19 * powerLimit s then (throttleOf s q).power - 1 else (throttleOf s q).power)

/-- The main domain is off: its memories are lost and the host interface is held in reset (R493, R495). -/
def MainOff (t : State) : Prop := t.power.phase = .off ∧ t.power.hifReset = true ∧ t.fmem = [] ∧ t.imem = [] ∧ t.sts = [] ∧ t.far = [] ∧ t.facets = []

/-- The manager takes the rails down by itself, the highest group at once and the next one `step` cycles later; it logs that, and the offline mode reads POWER_OFF (R493, R495). -/
def TakesDown (s t : State) (step : Nat) : Prop :=
  MainOff t ∧ t.power.enabled = withoutHighest s.power.enabled ∧ t.power.dropStep = (if withoutHighest s.power.enabled = 0 then none else some step) ∧ t.power.stepAt = s.now
    ∧ fget t Fld.mgtStatus_OFFLINE = 3 ∧ t.mgmt.logCount = s.mgmt.logCount + 1

/-- R429, R430, R492 to R501, R505, R512. -/
def Obligations.PowerAndResetsRun : Prop :=
  ∀ s : State,
    (∀ straps, s.power.stbyOk = false →
      ∃ t, exec (.stbyPwrokRise straps) s = .next t ∧ t.power.stbyOk = true ∧ t.mgmt.addr = 0x3C + straps % 4 ∧ t.mgmt.i3c = bitSet straps 2 ∧ t.flash = s.flash
        ∧ (fwAccepted s 1 s.mgmt.active1 = true → fget t Fld.secBoot_MGTSLOT = s.mgmt.active1 % 2 ∧ t.mgmt.bootTried = 1 ∧ t.mgmt.bootAt = s.now ∧ mgmtState t = mgmtState s)
        ∧ (fwAccepted s 1 s.mgmt.active1 = false → fwAccepted s 1 (1 - s.mgmt.active1) = false → mgmtState t = 4 ∧ fget t Fld.secCntFwfail_COUNT = (fget s Fld.secCntFwfail_COUNT + 2) % 2 ^ 32))
    ∧ (s.power.stbyOk = true →
      ∃ t, exec .stbyPwrokFall s = .next t ∧ t.power.stbyOk = false ∧ t.power.phase = .off ∧ t.power.enabled = 0 ∧ t.flash = s.flash ∧ t.mgmt.ownerHash = s.mgmt.ownerHash
        ∧ fget t Fld.secStatus_OWNERFUSED = fget s Fld.secStatus_OWNERFUSED ∧ t.fmem = [] ∧ t.sts = [] ∧ t.far = [] ∧ mgmtState t = 0)
    ∧ (s.power.stbyOk = true → mgmtState s = 0 ∨ mgmtState s = 2 → 1 ≤ s.mgmt.bootTried → s.now ≤ s.mgmt.bootAt + 2600000000 →
      ∃ t, exec .managementFirmwareReady s = .next t ∧ mgmtState t = 1 ∧ t.power.mgmtUp = true ∧ SameMemories s t
        ∧ t.power.enabled = if fget s Fld.mgtStatus_OFFLINE = 0 ∧ s.power.enabled = 0 ∧ s.power.goingDown = false then 1 else s.power.enabled)
    ∧ (∀ n, 1 ≤ n → n ≤ 4 → bitSet s.power.enabled (n - 1) = true → bitSet s.power.good (n - 1) = false → s.power.goingDown = false → s.power.dropStep = none →
      (s.now ≤ s.power.stepAt + 26000000 → fget s Fld.mgtStatus_OFFLINE ≠ 3 →
        ∃ t, exec (.pwrGoodRise n) s = .next t ∧ bitSet t.power.good (n - 1) = true
          ∧ (n < 4 → t = { s with power := { s.power with good := setBit s.power.good (n - 1), riseAt := some (s.now + 1300000) } })
          ∧ (n = 4 → t.power.phase = .powerOn ∧ t.power.hifReset = true ∧ t.power.hifAt = s.now + 1300000))
      ∧ (s.power.stepAt + 26000000 ≤ s.now → ∃ t, exec (.pwrGoodTimeout n) s = .next t ∧ TakesDown s t 1300000))
    ∧ (∀ t₀ g, s.power.riseAt = some t₀ → highest s.power.enabled = some g → t₀ ≤ s.now → s.power.dropStep = none → fget s Fld.mgtStatus_OFFLINE ≠ 3 →
      (powerCycle s).power.enabled = setBit s.power.enabled (g + 1) ∧ (powerCycle s).power.stepAt = s.now ∧ (powerCycle s).power.riseAt = none)
    ∧ (∀ d, s.power.riseAt = none → s.power.dropStep = some d → s.power.stepAt + d ≤ s.now → fget s Fld.mgtStatus_OFFLINE ≠ 0 →
      (powerCycle s).power.enabled = withoutHighest s.power.enabled ∧ (powerCycle s).power.stepAt = s.now)
    ∧ (∀ n, 1 ≤ n → n ≤ 4 → bitSet s.power.enabled (n - 1) = true → bitSet s.power.good (n - 1) = true → s.power.goingDown = false → s.power.dropStep = none →
      ∃ t, exec (.pwrGoodLoss n) s = .next t ∧ TakesDown s t 130000)
    ∧ (s.power.stbyOk = true → s.power.enabled ≠ 0 →
      ∃ t, exec .thermtrip s = .next t ∧ MainOff t ∧ t.power.enabled = 0 ∧ t.power.good = 0 ∧ t.power.dropStep = none ∧ fget t Fld.mgtStatus_OFFLINE = 3 ∧ t.power.thermtrip = true ∧ t.mgmt.logCount = s.mgmt.logCount + 1)
    ∧ (s.power.goingDown = true →
      (∀ g, highest s.power.enabled = some g → ∃ t, exec .powerDownStep s = .next t ∧ t.power.enabled = clearBit s.power.enabled g ∧ t.power.stepAt = s.now ∧ t = { s with power := t.power })
      ∧ (highest s.power.enabled = none → fget s Fld.mgtStatus_OFFLINE ≠ 0 → ∃ t, exec .powerDownStep s = .next t ∧ t.power.goingDown = false ∧ t.power.enabled = s.power.enabled ∧ t = { s with power := t.power }))
    ∧ (mgmtServes s .sideband = true → awaitsFirmware s = true →
      (fwAccepted s 2 s.mgmt.active2 = true → fwAccepted s 3 s.mgmt.active3 = true →
        ∃ t, exec .mainFirmwareLoaded s = .next t ∧ t.power.phase = .selfTest ∧ t.power.bootedMain = true ∧ fget t Fld.secBoot_MAINSLOT = s.mgmt.active2 % 2 ∧ fget t Fld.secBoot_PROTSLOT = s.mgmt.active3 % 2)
      ∧ ((∀ k < 2, fwAccepted s 2 k = false) → s.mgmt.active2 < 2 →
        ∃ t, exec .mainFirmwareLoaded s = .next t ∧ t.power.phase = .held (decide (s.power.phase = .powerOn)) ∧ fget t Fld.secErr_FWFAIL = 1 ∧ SameMemories s t))
    ∧ (s.power.phase = .selfTest → s.power.funcReset = none → s.repair.swaps = [] → s.repair.slices = [] → (∀ x ∈ s.repair.pendingSwaps, x.ready = false) →
      ∀ runs : List (Nat × KatRun),
      let of (f : Nat) : List KatRun := (runs.filter (fun r => r.1 = f)).map (·.2)
      ((∀ f < 52, katPassed (of f) = true) → ∃ t, exec (.startUpSelfTestEnd runs) s = .next t ∧ t.power.phase = .running ∧ fget t Fld.glbStatus_MAINREADY = 1
        ∧ (∀ f < 52, fget t (Fld.cmpKat_RESULTFAIL f) = 0 ∧ fget t (Fld.cmpKat_TIMEFAIL f) = 0 ∧ fget t (Fld.cmpStatus_STRUCT f) = 0) ∧ SameMemories s t)
      ∧ ∀ f, f < 52 → logicalOf s f = none → katPassed (of f) = false →
        ∃ t, exec (.startUpSelfTestEnd runs) s = .next t ∧ t.power.phase = .running ∧ fget t (Fld.rpmFstate_STATE f) = 4 ∧ SameMemories s t)
    ∧ (s.power.perstHigh = true →
      (s.power.phase = .running → ∃ t, exec .perstNFall s = .next t ∧ t.power.phase = .mainReset ∧ t.power.perstHigh = false ∧ t.power.hifReset = true ∧ fget t Fld.hifLink_SPEED = 0
        ∧ t.fmem = [] ∧ t.imem = [] ∧ t.facets = [] ∧ t.seq.active = none ∧ t.far = s.far)
      ∧ (s.power.phase = .off → ∃ t, exec .perstNFall s = .next t ∧ t.power = { s.power with perstHigh := false, hifReset := true } ∧ SameMemories s t))
    ∧ (s.power.perstHigh = false → ∃ t, exec .perstNRise s = .next t ∧ t.power.perstHigh = true ∧ t.power.perstReset = false ∧ t.power.phase = s.power.phase ∧ SameMemories s t
        ∧ (s.power.good = 15 → s.power.hifAt ≤ s.now → s.power.offlineReset = false → s.power.phase ≠ .off → t.power.hifReset = false))
    ∧ (serving s = true → s.power.stopReq = none →
      (∃ t, exec (.clockLoss false) s = .next t ∧ fget t Fld.rpmErr_FATAL = 1 ∧ fget t Fld.rpmFatal_CAUSE = 5 ∧ fget t Fld.fsqCtl_RUN = 0 ∧ t.power.fatal = true)
      ∧ (linkUp s = true → ∃ t, exec (.clockLoss true) s = .next t ∧ InFunctionReset s t ∧ fget t Fld.hifLink_SPEED = 0))

/-- R25, R442 to R445, R447. -/
def Obligations.ConfigRecordCommits : Prop :=
  ∀ s : State, serving s = true → (thisCycle s).commit = none → (thisCycle s).staged = [] →
    let value i := min (max (cfgStaged s i) (Config.cfgLow i)) (Config.cfgHigh i)
    let changes := value 0 ≠ cfgCommitted s 0 ∨ value 1 ≠ cfgCommitted s 1
    (pendingState s ≠ 0 → changes →
      ∃ t, exec .configCommit s = .next t ∧ fget t Fld.rpmCfgCmd_RESULT = 1 ∧ OnlyFields [Fld.rpmCfgCmd_RESULT] s { t with cyc := s.cyc })
    ∧ (pendingState s = 0 ∨ ¬changes →
      ∃ t, exec .configCommit s = .next t ∧ fget t Fld.rpmCfgCmd_RESULT = 0
        ∧ (∀ i, i < 8 → cfgCommitted t i = value i % 2 ^ 32 ∧ cfgStaged t i = cfgStaged s i ∧ (bitSet (fget t Fld.rpmCfgClampmap_FIELD) i = true ↔ value i ≠ cfgStaged s i))
        ∧ t = { s with regs := t.regs, seq := { s.seq with clampRecs := t.seq.clampRecs }, clamps := t.clamps, cyc := t.cyc }
        ∧ (fget s Fld.fsqCtl_RUN ≠ 0 → (∀ i, i < 8 → cfgForce t i = cfgForce s i) ∧ t.seq = s.seq
            ∧ fget t Fld.rpmCfgCmd_WAITING = (if value 0 ≠ cfgForce s 0 ∨ value 1 ≠ cfgForce s 1 then 1 else 0))
        ∧ (fget s Fld.fsqCtl_RUN = 0 → (∀ i, 2 ≤ i → i < 6 → cfgForce t i = value i) ∧ (∀ i, 6 ≤ i → i < 8 → cfgForce t i = cfgForce s i))
        ∧ (fget s Fld.fsqCtl_RUN = 0 → fget s Fld.fsqStatus_ACTIVEVALID ≠ 0 → cfgForce t 0 = cfgForce s 0 ∧ cfgForce t 1 = cfgForce s 1 ∧ fget t Fld.fsqBudget_B = fget s Fld.fsqBudget_B)
        ∧ (fget s Fld.fsqCtl_RUN = 0 → fget s Fld.fsqStatus_ACTIVEVALID = 0 →
            cfgForce t 0 = value 0 ∧ cfgForce t 1 = value 1 ∧ fget t Fld.fsqPeriod_PERIODUS = value 0 ∧ fget t Fld.rpmCfgCmd_WAITING = 0
              ∧ fget t Fld.fsqBudget_B = value 0 * 1300 * 15 / 16 - 52000 - max (value 0 * 1300 * value 1 / 1000000) ((value 0 * 1300 + 9999) / 10000)))

/-- A word's pattern is a NaN (R519). -/
def NanWord (x : Word) : Prop := x.extractLsb' 23 8 = 255#8 ∧ x.extractLsb' 0 23 ≠ 0#23

/-- A word's pattern is a subnormal number. -/
def SubnormalWord (x : Word) : Prop := x.extractLsb' 23 8 = 0#8 ∧ x.extractLsb' 0 23 ≠ 0#23

/-- The zero of a word's sign. -/
def zeroOf (x : Word) : Word := x &&& 0x80000000#32

/-- R295, R519, R520. -/
def Obligations.FpSpecialValues : Prop :=
  let qnan := 0x7FC00000#32
  (∀ a b d : Word,
    (NanWord a ∨ NanWord b → ∀ f ∈ [fAdd, fSub, fMul, fDiv, fMin, fMax, fFma d], f a b = qnan)
    ∧ (NanWord d → fFma d a b = qnan)
    ∧ (NanWord a → fSqrt a = qnan ∧ fAbs a = qnan ∧ fNeg a = qnan ∧ fToInt a = 0#32)
    ∧ (NanWord a ∨ NanWord b → fEq a b = 0#32 ∧ fLt a b = 0#32 ∧ fLe a b = 0#32)
    ∧ (∀ x ∈ [fAdd a b, fSub a b, fMul a b, fDiv a b, fMin a b, fMax a b, fFma d a b, fSqrt a, fAbs a, fNeg a, fOfInt a], ¬SubnormalWord x ∧ (NanWord x → x = qnan))
    ∧ (SubnormalWord a → (∀ f ∈ [fAdd, fSub, fMul, fDiv, fMin, fMax, fEq, fLt, fLe, fFma d], f a b = f (zeroOf a) b ∧ f b a = f b (zeroOf a))
        ∧ fFma a b d = fFma (zeroOf a) b d ∧ fSqrt a = zeroOf a ∧ fAbs a = 0#32 ∧ fNeg a = ~~~(zeroOf a) &&& 0x80000000#32 ∧ fToInt a = 0#32))
  ∧ fMax 0#32 0x80000000#32 = 0#32 ∧ fMax 0x80000000#32 0#32 = 0#32 ∧ fMin 0#32 0x80000000#32 = 0x80000000#32 ∧ fMin 0x80000000#32 0#32 = 0x80000000#32
  ∧ (∀ x : Word, ¬NanWord x → 158#8 ≤ x.extractLsb' 23 8 → fToInt x = if x.msb then 0x80000000#32 else 0x7FFFFFFF#32)
  ∧ ∀ x : Word, -16777216 < x.toInt → x.toInt < 16777216 → fToInt (fOfInt x) = x

/-- Reset: the values of the register tables, and R37. -/
def Obligations.ResetValues : Prop :=
  let s := State.reset
  fget s Fld.fsqCtl_RUN = 0 ∧ fget s Fld.fsqTickctl_SRC = 0 ∧ fget s Fld.fsqPeriod_PERIODUS = 10000 ∧ fget s Fld.fsqBudget_B = 12070500 ∧ fget s Fld.fsqFrame_FRAME = 0
    ∧ fget s Fld.fsqStatus_ACTIVEVALID = 0 ∧ fget s Fld.fsqStatus_PENDING = 0 ∧ fget s Fld.fsqSwap_REQ = 0 ∧ fget s Fld.fsqRptCfg_BUFKIB = 256 ∧ fget s Fld.fsqRptCfg_BUFS = 0
    ∧ fget s Fld.glbId_DEVICE = 0x4E48 ∧ fget s Fld.glbId_VENDOR = 0x1F5C ∧ fget s Fld.glbRev_LEVEL = 1 ∧ fget s Fld.glbRev_GRADE = 0x53 ∧ fget s Fld.glbStatus_MAINREADY = 0
    ∧ (∀ q, q < 64 → fget s (Fld.hifQState_STATE q) = 0 ∧ fget s (Fld.hifQCqtail_PHASE q) = 1 ∧ fget s (Fld.hifQCqtail_TAIL q) = 0 ∧ fget s (Fld.hifQSqhead_HEAD q) = 0)
    ∧ (∀ x ∈ [(0, 10000), (1, 5000), (2, 20), (3, 1), (4, 20), (5, 10), (6, 0x1F5C), (7, 1)], cfgStaged s x.1 = x.2 ∧ cfgCommitted s x.1 = x.2 ∧ cfgForce s x.1 = x.2)
    ∧ (∀ f, f < 52 → fget s (Fld.fctTask_TASKA f) = 0xFFFF ∧ fget s (Fld.fctTask_TASKB f) = 0xFFFF ∧ fget s (Fld.cmpMode_GMAXA f) = 3 ∧ fget s (Fld.cmpMode_GMAXB f) = 3)
    ∧ s.seq.active = none ∧ s.seq.pendingImg = none ∧ s.seq.inFrame = false ∧ s.seq.tasks = [] ∧ s.seq.manifests = [] ∧ s.seq.express = []
    ∧ s.facets = [] ∧ s.engines = [] ∧ s.sems = [] ∧ s.semMsgs = [] ∧ s.chans = [] ∧ s.jobs = [] ∧ s.updates = [] ∧ s.ports = [] ∧ s.outs = [] ∧ s.pending = []

/-- Encode, then decode: every well-formed scalar-core instruction comes back (Tables 10-2, 10-3, 11-2). -/
def Obligations.DecodeUndoesEncode : Prop :=
  ∀ (i : Instr) (w : Who), whoOf i = some w → i.wf = true → ∃ x, encode i = some x ∧ decodeInsn w x = some i

/-- Decode, then encode: the same word, so no bit of a word is ignored (R292, R293). -/
def Obligations.EncodeUndoesDecode : Prop :=
  ∀ (w : Who) (x : BitVec 64) (i : Instr), decodeInsn w x = some i → whoOf i = some w ∧ (w.wf = true → i.wf = true) ∧ encode i = some x

/-- Words of Tables 10-2, 10-3 and 11-2, as MAJOR ++ D ++ A ++ B ++ FUNC ++ IMM. -/
def Obligations.DecodedWords : Prop :=
  ∀ w : Who,
    decodeInsn w 0#64 = some (.add w ⟨false, 0#5, 0#5, 0#5, 0#32⟩)
    ∧ decodeInsn w (0b000000#6 ++ (1#5 ++ (2#5 ++ (3#5 ++ (1#11 ++ 0#32))))) = some (.sub w ⟨false, 1#5, 2#5, 3#5, 0#32⟩)
    ∧ decodeInsn w (0b000001#6 ++ (1#5 ++ (2#5 ++ (0#5 ++ (20#11 ++ 7#32))))) = some (.div w ⟨true, 1#5, 2#5, 0#5, 7#32⟩)
    ∧ decodeInsn w (0b000010#6 ++ (4#5 ++ (5#5 ++ (6#5 ++ (3#11 ++ 0#32))))) = some (.fma w ⟨false, 4#5, 5#5, 6#5, 0#32⟩)
    ∧ decodeInsn w (0b010010#6 ++ (0#5 ++ (7#5 ++ (8#5 ++ (4#11 ++ 0xFFFFFFF8#32))))) = some (.br w .ltu 7#5 8#5 0xFFFFFFF8#32)
    ∧ decodeInsn w (0b011001#6 ++ (0#5 ++ (1#5 ++ (2#5 ++ (0#11 ++ 64#32))))) = some (.stW w 1#5 2#5 64#32)
    ∧ decodeInsn w (0b100101#6 ++ (3#5 ++ (0#5 ++ (4#5 ++ (0#11 ++ 0x0102#32))))) = some (.chpopAcquire w 3#5 4#5 ⟨2, 1⟩)
    ∧ decodeInsn w (0b110001#6 ++ (0#5 ++ (1#5 ++ (2#5 ++ (0x105#11 ++ 12#32))))) = some (.lpass w 1#5 2#5 true 2 12 2)
    ∧ decodeInsn w (0b111000#6 ++ (1#5 ++ (2#5 ++ (3#5 ++ (0b00000001110#11 ++ 0x9004#32))))) = some (.vfma w ⟨1#5, 2#5, 3#5, 4, true, false, false, true, true, true, false, 0, 0⟩)
    ∧ decodeInsn w (0b000000#6 ++ (1#5 ++ (2#5 ++ (3#5 ++ (0#11 ++ 1#32))))) = none
    ∧ decodeInsn w (0b111111#6 ++ (0#5 ++ (0#5 ++ (0#5 ++ (0#11 ++ 0#32))))) = none

/-- R35. -/
def Obligations.LoadWhileSwapIsRequested : Prop :=
  ∀ (s : State) (qp : Nat) (c : HostCmd), hostUp s = true → s.hif.bme = true → fget s Fld.fsqSwap_REQ ≠ 0 → headCmd s qp 1 = some c → cplWanted s c = true →
    ∃ t, exec (.loadImage qp) s = .next t ∧ Completed s t c c.sqHead 2 0 (infoUnread s.free c)
      ∧ pendingState t = pendingState s ∧ t.seq.pendingImg = s.seq.pendingImg ∧ fget t Fld.fsqPendingId_ID = fget s Fld.fsqPendingId_ID
      ∧ t.seq.loading = s.seq.loading ∧ t.seq.fetchedImg = s.seq.fetchedImg ∧ fget t Fld.fsqSwap_REQ = fget s Fld.fsqSwap_REQ

/-- R34. -/
def Obligations.RefusedImageClearsTheRequest : Prop :=
  ∀ (s : State) (c : HostCmd), serving s = true → s.seq.loading = some c → admission s s.seq.fetchedImg c.len ≠ [] →
    ∃ t, exec .admissionEnd s = .next t ∧ fget t Fld.fsqSwap_REQ = 0 ∧ pendingState t = 0
      ∧ t.seq.active = s.seq.active ∧ fget t Fld.fsqActiveId_ID = fget s Fld.fsqActiveId_ID ∧ t.seq.inFrame = s.seq.inFrame ∧ t.seq.tasks = s.seq.tasks ∧ t.seq.swapped = s.seq.swapped
end

