-- ==== Sys2Proof/Laws/Maps.lean ====
section
/-! SUPPORT. Laws of the finite maps and of the byte memories: a read after a write, what a write leaves alone, and that every memory operation keeps the canonical form. -/

namespace Sys2Proof.Machine

variable {α : Type}

/-! ### Maps -/

@[simp] theorem mapFind_mapPut_same (m : SMap α) (k : Nat) (v : α) : mapFind (mapPut m k v) k = some v := by
  induction m with
  | nil => simp [mapPut, mapFind]
  | cons e r ih =>
    obtain ⟨k', v'⟩ := e
    unfold mapPut
    by_cases h1 : k < k'
    · simp [h1, mapFind]
    · by_cases h2 : k = k'
      · simp [h2, mapFind]
      · simp [h1, h2, mapFind, ih]

theorem mapFind_mapPut_other (m : SMap α) {k j : Nat} (v : α) (h : j ≠ k) : mapFind (mapPut m k v) j = mapFind m j := by
  induction m with
  | nil => simp [mapPut, mapFind, h]
  | cons e r ih =>
    obtain ⟨k', v'⟩ := e
    unfold mapPut
    by_cases h1 : k < k'
    · simp [h1, mapFind, h]
    · by_cases h2 : k = k'
      · subst h2; simp [mapFind, h]
      · simp only [h1, h2, if_false, mapFind, ih]

@[simp] theorem mapGet_mapPut_same (m : SMap α) (k : Nat) (v d : α) : mapGet (mapPut m k v) k d = v := by
  simp [mapGet]

theorem mapGet_mapPut_other (m : SMap α) {k j : Nat} (v d : α) (h : j ≠ k) : mapGet (mapPut m k v) j d = mapGet m j d := by
  simp [mapGet, mapFind_mapPut_other m v h]

@[simp] theorem mapGet_nil (k : Nat) (d : α) : mapGet ([] : SMap α) k d = d := rfl

/-! ### Memories: reads -/

theorem memRead_append (m n : Mem) (a : Nat) :
    memRead (m ++ n) a = if m.any (fun c => decide (c.1 = a)) then memRead m a else memRead n a := by
  induction m with
  | nil => simp
  | cons c r ih =>
    obtain ⟨k, b⟩ := c
    by_cases h : a = k
    · subst h; simp [memRead]
    · have h' : ¬ k = a := fun e => h e.symm
      simp only [List.cons_append, memRead, if_neg h, ih, List.any_cons, h', decide_false, Bool.false_or]

theorem memRead_absent {m : Mem} {a : Nat} (h : ∀ c ∈ m, c.1 ≠ a) : memRead m a = 0#8 := by
  induction m with
  | nil => rfl
  | cons c r ih =>
    obtain ⟨k, b⟩ := c
    have hk : ¬ a = k := fun e => h (k, b) List.mem_cons_self e.symm
    simp only [memRead, if_neg hk]
    exact ih fun c hc => h c (List.mem_cons_of_mem _ hc)

theorem memRead_filter_keep {p : Nat → Bool} (m : Mem) {a : Nat} (h : p a = true) :
    memRead (m.filter (fun c => p c.1)) a = memRead m a := by
  induction m with
  | nil => rfl
  | cons c r ih =>
    obtain ⟨k, b⟩ := c
    by_cases hk : a = k
    · subst hk; simp [h, memRead]
    · by_cases hp : p k = true
      · simp [hp, memRead, hk, ih]
      · simp [hp, memRead, hk, ih]

theorem memRead_filter_drop {p : Nat → Bool} (m : Mem) {a : Nat} (h : p a = false) :
    memRead (m.filter (fun c => p c.1)) a = 0#8 := by
  apply memRead_absent
  intro c hc e
  have := (List.mem_filter.mp hc).2
  simp_all

theorem memCells_bounds (bs : List Byte) : ∀ (a : Nat), ∀ c ∈ memCells a bs, a ≤ c.1 ∧ c.1 < a + bs.length ∧ c.2 ≠ 0#8 := by
  induction bs with
  | nil => intro a c hc; simp [memCells] at hc
  | cons b r ih =>
    intro a c hc
    unfold memCells at hc
    split at hc
    · obtain ⟨h1, h2, h3⟩ := ih (a + 1) c hc
      exact ⟨by omega, by simp only [List.length_cons]; omega, h3⟩
    · rcases List.mem_cons.mp hc with h | h
      · subst h; simp_all
      · obtain ⟨h1, h2, h3⟩ := ih (a + 1) c h
        exact ⟨by omega, by simp only [List.length_cons]; omega, h3⟩

theorem memRead_memCells (bs : List Byte) : ∀ (a i : Nat), i < bs.length → memRead (memCells a bs) (a + i) = bs.getD i 0#8 := by
  induction bs with
  | nil => intro a i h; simp at h
  | cons b r ih =>
    intro a i h
    unfold memCells
    cases i with
    | zero =>
      split
      · next hb =>
        rw [memRead_absent]
        · simp [hb]
        · intro c hc; have := memCells_bounds r (a + 1) c hc; omega
      · simp [memRead]
    | succ j =>
      have hj : j < r.length := by simpa using h
      have e : a + (j + 1) = (a + 1) + j := by omega
      split
      · rw [e, ih (a + 1) j hj]; simp
      · simp only [memRead]
        rw [if_neg (by omega), e, ih (a + 1) j hj]; simp

/-- A byte inside the bytes just written reads as written. -/
theorem memRead_memWrite_in (m : Mem) (a : Nat) (bs : List Byte) {i : Nat} (h : i < bs.length) :
    memRead (memWrite m a bs) (a + i) = bs.getD i 0#8 := by
  unfold memWrite
  rw [List.append_assoc, memRead_append, if_neg, memRead_append]
  · by_cases hz : (memCells a bs).any (fun c => decide (c.1 = a + i)) = true
    · rw [if_pos hz]; exact memRead_memCells bs a i h
    · rw [if_neg hz, memRead_absent]
      · rw [← memRead_memCells bs a i h, memRead_absent]
        intro c hc e
        exact hz (List.any_eq_true.mpr ⟨c, hc, by simp [e]⟩)
      · intro c hc e
        have := (List.mem_filter.mp hc).2
        simp at this; omega
  · intro hany
    obtain ⟨c, hc, he⟩ := List.any_eq_true.mp hany
    have := (List.mem_filter.mp hc).2
    simp at this he; omega

/-- A byte outside the bytes written reads as before. -/
theorem memRead_memWrite_out (m : Mem) (a : Nat) (bs : List Byte) {x : Nat} (h : x < a ∨ a + bs.length ≤ x) :
    memRead (memWrite m a bs) x = memRead m x := by
  unfold memWrite
  have hcells : ∀ c ∈ memCells a bs, c.1 ≠ x := fun c hc => by have := memCells_bounds bs a c hc; omega
  have hno : (memCells a bs).any (fun c => decide (c.1 = x)) = false := by
    rw [List.any_eq_false]; intro c hc; simp [hcells c hc]
  rw [List.append_assoc, memRead_append]
  rcases h with h | h
  · split
    · exact memRead_filter_keep (p := fun k => decide (k < a)) m (by simp [h])
    · next hn =>
      rw [memRead_append, hno]
      simp only [Bool.false_eq_true, if_false]
      rw [memRead_filter_drop (p := fun k => decide (a + bs.length ≤ k)) m (by simp; omega)]
      rw [← memRead_filter_keep (p := fun k => decide (k < a)) m (a := x) (by simp [h]), memRead_absent]
      intro c hc e
      exact hn (List.any_eq_true.mpr ⟨c, hc, by simp [e]⟩)
  · rw [if_neg, memRead_append, hno]
    · simp only [Bool.false_eq_true, if_false]
      exact memRead_filter_keep (p := fun k => decide (a + bs.length ≤ k)) m (by simp [h])
    · intro hany
      obtain ⟨c, hc, he⟩ := List.any_eq_true.mp hany
      have := (List.mem_filter.mp hc).2
      simp at this he; omega

/-- A list of byte writes leaves every address alone that none of them names. -/
theorem memRead_memPuts_out (ws : List (Nat × Byte)) : ∀ (m : Mem) {x : Nat}, (∀ w ∈ ws, w.1 ≠ x) → memRead (memPuts m ws) x = memRead m x := by
  induction ws with
  | nil => intro m x _; rfl
  | cons w r ih =>
    intro m x h
    show memRead (memPuts (memWrite m w.1 [w.2]) r) x = _
    rw [ih _ fun v hv => h v (List.mem_cons_of_mem _ hv)]
    have := h w List.mem_cons_self
    exact memRead_memWrite_out m w.1 [w.2] (by simp only [List.length_cons, List.length_nil]; omega)

/-! ### Memories: the canonical form -/

theorem memSorted_iff (m : Mem) : memSorted m = true ↔ m.Pairwise (fun c d => c.1 < d.1) := by
  induction m with
  | nil => simp [memSorted]
  | cons c r ih =>
    cases r with
    | nil => simp [memSorted]
    | cons d r =>
      simp only [memSorted, Bool.and_eq_true, decide_eq_true_eq, ih]
      constructor
      · rintro ⟨h, hp⟩
        refine List.pairwise_cons.mpr ⟨?_, hp⟩
        intro x hx
        rcases List.mem_cons.mp hx with rfl | hx
        · exact h
        · have := (List.pairwise_cons.mp hp).1 x hx; omega
      · intro hp
        have h := List.pairwise_cons.mp hp
        exact ⟨h.1 d List.mem_cons_self, h.2⟩

theorem wf_iff (m : Mem) : Memory.wf m = true ↔ m.Pairwise (fun c d => c.1 < d.1) ∧ ∀ c ∈ m, c.2 ≠ 0#8 := by
  simp [Memory.wf, memSorted_iff]

@[simp] theorem wf_nil : Memory.wf [] = true := rfl

theorem wf_filter {m : Mem} (p : Nat × Byte → Bool) (h : Memory.wf m = true) : Memory.wf (m.filter p) = true := by
  rw [wf_iff] at *
  exact ⟨h.1.filter p, fun c hc => h.2 c (List.mem_filter.mp hc).1⟩

theorem memCells_pairwise (bs : List Byte) : ∀ a, (memCells a bs).Pairwise (fun c d => c.1 < d.1) := by
  induction bs with
  | nil => intro a; simp [memCells]
  | cons b r ih =>
    intro a
    unfold memCells
    split
    · exact ih (a + 1)
    · exact List.pairwise_cons.mpr ⟨fun c hc => by have := memCells_bounds r (a + 1) c hc; dsimp only; omega, ih (a + 1)⟩

/-- A write keeps the canonical form. -/
theorem wf_memWrite {m : Mem} (a : Nat) (bs : List Byte) (h : Memory.wf m = true) : Memory.wf (memWrite m a bs) = true := by
  rw [wf_iff] at *
  obtain ⟨hp, hz⟩ := h
  constructor
  · unfold memWrite
    refine List.pairwise_append.mpr ⟨List.pairwise_append.mpr ⟨hp.filter _, memCells_pairwise bs a, ?_⟩, hp.filter _, ?_⟩
    · intro c hc d hd
      have h1 := (List.mem_filter.mp hc).2
      have h2 := memCells_bounds bs a d hd
      simp at h1; omega
    · intro c hc d hd
      have h2 := (List.mem_filter.mp hd).2
      simp at h2
      rcases List.mem_append.mp hc with hc | hc
      · have h1 := (List.mem_filter.mp hc).2
        simp at h1; omega
      · have h1 := memCells_bounds bs a c hc
        omega
  · intro c hc
    unfold memWrite at hc
    rcases List.mem_append.mp hc with hc | hc
    · rcases List.mem_append.mp hc with hc | hc
      · exact hz c (List.mem_filter.mp hc).1
      · exact (memCells_bounds bs a c hc).2.2
    · exact hz c (List.mem_filter.mp hc).1

/-- Zeroing a range keeps the canonical form. -/
theorem wf_memZero {m : Mem} (a n : Nat) (h : Memory.wf m = true) : Memory.wf (memZero m a n) = true := by
  rw [wf_iff] at *
  obtain ⟨hp, hz⟩ := h
  constructor
  · unfold memZero
    refine List.pairwise_append.mpr ⟨hp.filter _, hp.filter _, ?_⟩
    intro c hc d hd
    have h1 := (List.mem_filter.mp hc).2
    have h2 := (List.mem_filter.mp hd).2
    simp at h1 h2; omega
  · intro c hc
    rcases List.mem_append.mp hc with hc | hc
    · exact hz c (List.mem_filter.mp hc).1
    · exact hz c (List.mem_filter.mp hc).1

/-- Byte writes in order keep the canonical form. -/
theorem wf_memPuts (ws : List (Nat × Byte)) : ∀ {m : Mem}, Memory.wf m = true → Memory.wf (memPuts m ws) = true := by
  induction ws with
  | nil => intro m h; exact h
  | cons w r ih => intro m h; exact ih (wf_memWrite w.1 [w.2] h)

end Sys2Proof.Machine
end

