-- ==== Sys2Proof/Laws/State.lean ====
section
/-! SUPPORT. What each update of the state leaves in each field: one lemma for each field and update. -/

namespace Sys2Proof.Machine

variable (s : State)

/-! ### modSeq -/

@[simp] theorem modSeq_pending (f : Sequencer → Sequencer) : (modSeq s f).pending = s.pending := rfl
@[simp] theorem modSeq_now (f : Sequencer → Sequencer) : (modSeq s f).now = s.now := rfl
@[simp] theorem modSeq_free (f : Sequencer → Sequencer) : (modSeq s f).free = s.free := rfl
@[simp] theorem modSeq_regs (f : Sequencer → Sequencer) : (modSeq s f).regs = s.regs := rfl
@[simp] theorem modSeq_fmem (f : Sequencer → Sequencer) : (modSeq s f).fmem = s.fmem := rfl
@[simp] theorem modSeq_imem (f : Sequencer → Sequencer) : (modSeq s f).imem = s.imem := rfl
@[simp] theorem modSeq_sts (f : Sequencer → Sequencer) : (modSeq s f).sts = s.sts := rfl
@[simp] theorem modSeq_far (f : Sequencer → Sequencer) : (modSeq s f).far = s.far := rfl
@[simp] theorem modSeq_host (f : Sequencer → Sequencer) : (modSeq s f).host = s.host := rfl
@[simp] theorem modSeq_flash (f : Sequencer → Sequencer) : (modSeq s f).flash = s.flash := rfl
@[simp] theorem modSeq_seq (f : Sequencer → Sequencer) : (modSeq s f).seq = f s.seq := rfl
@[simp] theorem modSeq_facets (f : Sequencer → Sequencer) : (modSeq s f).facets = s.facets := rfl
@[simp] theorem modSeq_engines (f : Sequencer → Sequencer) : (modSeq s f).engines = s.engines := rfl
@[simp] theorem modSeq_sems (f : Sequencer → Sequencer) : (modSeq s f).sems = s.sems := rfl
@[simp] theorem modSeq_links (f : Sequencer → Sequencer) : (modSeq s f).links = s.links := rfl
@[simp] theorem modSeq_semMsgs (f : Sequencer → Sequencer) : (modSeq s f).semMsgs = s.semMsgs := rfl
@[simp] theorem modSeq_grants (f : Sequencer → Sequencer) : (modSeq s f).grants = s.grants := rfl
@[simp] theorem modSeq_chans (f : Sequencer → Sequencer) : (modSeq s f).chans = s.chans := rfl
@[simp] theorem modSeq_jobs (f : Sequencer → Sequencer) : (modSeq s f).jobs = s.jobs := rfl
@[simp] theorem modSeq_portMerge (f : Sequencer → Sequencer) : (modSeq s f).portMerge = s.portMerge := rfl
@[simp] theorem modSeq_leafItems (f : Sequencer → Sequencer) : (modSeq s f).leafItems = s.leafItems := rfl
@[simp] theorem modSeq_earlyEnds (f : Sequencer → Sequencer) : (modSeq s f).earlyEnds = s.earlyEnds := rfl
@[simp] theorem modSeq_predictor (f : Sequencer → Sequencer) : (modSeq s f).predictor = s.predictor := rfl
@[simp] theorem modSeq_updates (f : Sequencer → Sequencer) : (modSeq s f).updates = s.updates := rfl
@[simp] theorem modSeq_paging (f : Sequencer → Sequencer) : (modSeq s f).paging = s.paging := rfl
@[simp] theorem modSeq_perms (f : Sequencer → Sequencer) : (modSeq s f).perms = s.perms := rfl
@[simp] theorem modSeq_permLoad (f : Sequencer → Sequencer) : (modSeq s f).permLoad = s.permLoad := rfl
@[simp] theorem modSeq_owners (f : Sequencer → Sequencer) : (modSeq s f).owners = s.owners := rfl
@[simp] theorem modSeq_ownerLoad (f : Sequencer → Sequencer) : (modSeq s f).ownerLoad = s.ownerLoad := rfl
@[simp] theorem modSeq_ports (f : Sequencer → Sequencer) : (modSeq s f).ports = s.ports := rfl
@[simp] theorem modSeq_reads (f : Sequencer → Sequencer) : (modSeq s f).reads = s.reads := rfl
@[simp] theorem modSeq_hif (f : Sequencer → Sequencer) : (modSeq s f).hif = s.hif := rfl
@[simp] theorem modSeq_mgmt (f : Sequencer → Sequencer) : (modSeq s f).mgmt = s.mgmt := rfl
@[simp] theorem modSeq_clamps (f : Sequencer → Sequencer) : (modSeq s f).clamps = s.clamps := rfl
@[simp] theorem modSeq_cyc (f : Sequencer → Sequencer) : (modSeq s f).cyc = s.cyc := rfl
@[simp] theorem modSeq_memOps (f : Sequencer → Sequencer) : (modSeq s f).memOps = s.memOps := rfl
@[simp] theorem modSeq_gates (f : Sequencer → Sequencer) : (modSeq s f).gates = s.gates := rfl
@[simp] theorem modSeq_wakes (f : Sequencer → Sequencer) : (modSeq s f).wakes = s.wakes := rfl
@[simp] theorem modSeq_masks (f : Sequencer → Sequencer) : (modSeq s f).masks = s.masks := rfl
@[simp] theorem modSeq_repair (f : Sequencer → Sequencer) : (modSeq s f).repair = s.repair := rfl
@[simp] theorem modSeq_power (f : Sequencer → Sequencer) : (modSeq s f).power = s.power := rfl
@[simp] theorem modSeq_outs (f : Sequencer → Sequencer) : (modSeq s f).outs = s.outs := rfl

/-! ### modHif -/

@[simp] theorem modHif_pending (f : HostIf → HostIf) : (modHif s f).pending = s.pending := rfl
@[simp] theorem modHif_now (f : HostIf → HostIf) : (modHif s f).now = s.now := rfl
@[simp] theorem modHif_free (f : HostIf → HostIf) : (modHif s f).free = s.free := rfl
@[simp] theorem modHif_regs (f : HostIf → HostIf) : (modHif s f).regs = s.regs := rfl
@[simp] theorem modHif_fmem (f : HostIf → HostIf) : (modHif s f).fmem = s.fmem := rfl
@[simp] theorem modHif_imem (f : HostIf → HostIf) : (modHif s f).imem = s.imem := rfl
@[simp] theorem modHif_sts (f : HostIf → HostIf) : (modHif s f).sts = s.sts := rfl
@[simp] theorem modHif_far (f : HostIf → HostIf) : (modHif s f).far = s.far := rfl
@[simp] theorem modHif_host (f : HostIf → HostIf) : (modHif s f).host = s.host := rfl
@[simp] theorem modHif_flash (f : HostIf → HostIf) : (modHif s f).flash = s.flash := rfl
@[simp] theorem modHif_seq (f : HostIf → HostIf) : (modHif s f).seq = s.seq := rfl
@[simp] theorem modHif_facets (f : HostIf → HostIf) : (modHif s f).facets = s.facets := rfl
@[simp] theorem modHif_engines (f : HostIf → HostIf) : (modHif s f).engines = s.engines := rfl
@[simp] theorem modHif_sems (f : HostIf → HostIf) : (modHif s f).sems = s.sems := rfl
@[simp] theorem modHif_links (f : HostIf → HostIf) : (modHif s f).links = s.links := rfl
@[simp] theorem modHif_semMsgs (f : HostIf → HostIf) : (modHif s f).semMsgs = s.semMsgs := rfl
@[simp] theorem modHif_grants (f : HostIf → HostIf) : (modHif s f).grants = s.grants := rfl
@[simp] theorem modHif_chans (f : HostIf → HostIf) : (modHif s f).chans = s.chans := rfl
@[simp] theorem modHif_jobs (f : HostIf → HostIf) : (modHif s f).jobs = s.jobs := rfl
@[simp] theorem modHif_portMerge (f : HostIf → HostIf) : (modHif s f).portMerge = s.portMerge := rfl
@[simp] theorem modHif_leafItems (f : HostIf → HostIf) : (modHif s f).leafItems = s.leafItems := rfl
@[simp] theorem modHif_earlyEnds (f : HostIf → HostIf) : (modHif s f).earlyEnds = s.earlyEnds := rfl
@[simp] theorem modHif_predictor (f : HostIf → HostIf) : (modHif s f).predictor = s.predictor := rfl
@[simp] theorem modHif_updates (f : HostIf → HostIf) : (modHif s f).updates = s.updates := rfl
@[simp] theorem modHif_paging (f : HostIf → HostIf) : (modHif s f).paging = s.paging := rfl
@[simp] theorem modHif_perms (f : HostIf → HostIf) : (modHif s f).perms = s.perms := rfl
@[simp] theorem modHif_permLoad (f : HostIf → HostIf) : (modHif s f).permLoad = s.permLoad := rfl
@[simp] theorem modHif_owners (f : HostIf → HostIf) : (modHif s f).owners = s.owners := rfl
@[simp] theorem modHif_ownerLoad (f : HostIf → HostIf) : (modHif s f).ownerLoad = s.ownerLoad := rfl
@[simp] theorem modHif_ports (f : HostIf → HostIf) : (modHif s f).ports = s.ports := rfl
@[simp] theorem modHif_reads (f : HostIf → HostIf) : (modHif s f).reads = s.reads := rfl
@[simp] theorem modHif_hif (f : HostIf → HostIf) : (modHif s f).hif = f s.hif := rfl
@[simp] theorem modHif_mgmt (f : HostIf → HostIf) : (modHif s f).mgmt = s.mgmt := rfl
@[simp] theorem modHif_clamps (f : HostIf → HostIf) : (modHif s f).clamps = s.clamps := rfl
@[simp] theorem modHif_cyc (f : HostIf → HostIf) : (modHif s f).cyc = s.cyc := rfl
@[simp] theorem modHif_memOps (f : HostIf → HostIf) : (modHif s f).memOps = s.memOps := rfl
@[simp] theorem modHif_gates (f : HostIf → HostIf) : (modHif s f).gates = s.gates := rfl
@[simp] theorem modHif_wakes (f : HostIf → HostIf) : (modHif s f).wakes = s.wakes := rfl
@[simp] theorem modHif_masks (f : HostIf → HostIf) : (modHif s f).masks = s.masks := rfl
@[simp] theorem modHif_repair (f : HostIf → HostIf) : (modHif s f).repair = s.repair := rfl
@[simp] theorem modHif_power (f : HostIf → HostIf) : (modHif s f).power = s.power := rfl
@[simp] theorem modHif_outs (f : HostIf → HostIf) : (modHif s f).outs = s.outs := rfl

/-! ### modMgmt -/

@[simp] theorem modMgmt_pending (f : Mgmt → Mgmt) : (modMgmt s f).pending = s.pending := rfl
@[simp] theorem modMgmt_now (f : Mgmt → Mgmt) : (modMgmt s f).now = s.now := rfl
@[simp] theorem modMgmt_free (f : Mgmt → Mgmt) : (modMgmt s f).free = s.free := rfl
@[simp] theorem modMgmt_regs (f : Mgmt → Mgmt) : (modMgmt s f).regs = s.regs := rfl
@[simp] theorem modMgmt_fmem (f : Mgmt → Mgmt) : (modMgmt s f).fmem = s.fmem := rfl
@[simp] theorem modMgmt_imem (f : Mgmt → Mgmt) : (modMgmt s f).imem = s.imem := rfl
@[simp] theorem modMgmt_sts (f : Mgmt → Mgmt) : (modMgmt s f).sts = s.sts := rfl
@[simp] theorem modMgmt_far (f : Mgmt → Mgmt) : (modMgmt s f).far = s.far := rfl
@[simp] theorem modMgmt_host (f : Mgmt → Mgmt) : (modMgmt s f).host = s.host := rfl
@[simp] theorem modMgmt_flash (f : Mgmt → Mgmt) : (modMgmt s f).flash = s.flash := rfl
@[simp] theorem modMgmt_seq (f : Mgmt → Mgmt) : (modMgmt s f).seq = s.seq := rfl
@[simp] theorem modMgmt_facets (f : Mgmt → Mgmt) : (modMgmt s f).facets = s.facets := rfl
@[simp] theorem modMgmt_engines (f : Mgmt → Mgmt) : (modMgmt s f).engines = s.engines := rfl
@[simp] theorem modMgmt_sems (f : Mgmt → Mgmt) : (modMgmt s f).sems = s.sems := rfl
@[simp] theorem modMgmt_links (f : Mgmt → Mgmt) : (modMgmt s f).links = s.links := rfl
@[simp] theorem modMgmt_semMsgs (f : Mgmt → Mgmt) : (modMgmt s f).semMsgs = s.semMsgs := rfl
@[simp] theorem modMgmt_grants (f : Mgmt → Mgmt) : (modMgmt s f).grants = s.grants := rfl
@[simp] theorem modMgmt_chans (f : Mgmt → Mgmt) : (modMgmt s f).chans = s.chans := rfl
@[simp] theorem modMgmt_jobs (f : Mgmt → Mgmt) : (modMgmt s f).jobs = s.jobs := rfl
@[simp] theorem modMgmt_portMerge (f : Mgmt → Mgmt) : (modMgmt s f).portMerge = s.portMerge := rfl
@[simp] theorem modMgmt_leafItems (f : Mgmt → Mgmt) : (modMgmt s f).leafItems = s.leafItems := rfl
@[simp] theorem modMgmt_earlyEnds (f : Mgmt → Mgmt) : (modMgmt s f).earlyEnds = s.earlyEnds := rfl
@[simp] theorem modMgmt_predictor (f : Mgmt → Mgmt) : (modMgmt s f).predictor = s.predictor := rfl
@[simp] theorem modMgmt_updates (f : Mgmt → Mgmt) : (modMgmt s f).updates = s.updates := rfl
@[simp] theorem modMgmt_paging (f : Mgmt → Mgmt) : (modMgmt s f).paging = s.paging := rfl
@[simp] theorem modMgmt_perms (f : Mgmt → Mgmt) : (modMgmt s f).perms = s.perms := rfl
@[simp] theorem modMgmt_permLoad (f : Mgmt → Mgmt) : (modMgmt s f).permLoad = s.permLoad := rfl
@[simp] theorem modMgmt_owners (f : Mgmt → Mgmt) : (modMgmt s f).owners = s.owners := rfl
@[simp] theorem modMgmt_ownerLoad (f : Mgmt → Mgmt) : (modMgmt s f).ownerLoad = s.ownerLoad := rfl
@[simp] theorem modMgmt_ports (f : Mgmt → Mgmt) : (modMgmt s f).ports = s.ports := rfl
@[simp] theorem modMgmt_reads (f : Mgmt → Mgmt) : (modMgmt s f).reads = s.reads := rfl
@[simp] theorem modMgmt_hif (f : Mgmt → Mgmt) : (modMgmt s f).hif = s.hif := rfl
@[simp] theorem modMgmt_mgmt (f : Mgmt → Mgmt) : (modMgmt s f).mgmt = f s.mgmt := rfl
@[simp] theorem modMgmt_clamps (f : Mgmt → Mgmt) : (modMgmt s f).clamps = s.clamps := rfl
@[simp] theorem modMgmt_cyc (f : Mgmt → Mgmt) : (modMgmt s f).cyc = s.cyc := rfl
@[simp] theorem modMgmt_memOps (f : Mgmt → Mgmt) : (modMgmt s f).memOps = s.memOps := rfl
@[simp] theorem modMgmt_gates (f : Mgmt → Mgmt) : (modMgmt s f).gates = s.gates := rfl
@[simp] theorem modMgmt_wakes (f : Mgmt → Mgmt) : (modMgmt s f).wakes = s.wakes := rfl
@[simp] theorem modMgmt_masks (f : Mgmt → Mgmt) : (modMgmt s f).masks = s.masks := rfl
@[simp] theorem modMgmt_repair (f : Mgmt → Mgmt) : (modMgmt s f).repair = s.repair := rfl
@[simp] theorem modMgmt_power (f : Mgmt → Mgmt) : (modMgmt s f).power = s.power := rfl
@[simp] theorem modMgmt_outs (f : Mgmt → Mgmt) : (modMgmt s f).outs = s.outs := rfl

/-! ### modRepair -/

@[simp] theorem modRepair_pending (f : Repair → Repair) : (modRepair s f).pending = s.pending := rfl
@[simp] theorem modRepair_now (f : Repair → Repair) : (modRepair s f).now = s.now := rfl
@[simp] theorem modRepair_free (f : Repair → Repair) : (modRepair s f).free = s.free := rfl
@[simp] theorem modRepair_regs (f : Repair → Repair) : (modRepair s f).regs = s.regs := rfl
@[simp] theorem modRepair_fmem (f : Repair → Repair) : (modRepair s f).fmem = s.fmem := rfl
@[simp] theorem modRepair_imem (f : Repair → Repair) : (modRepair s f).imem = s.imem := rfl
@[simp] theorem modRepair_sts (f : Repair → Repair) : (modRepair s f).sts = s.sts := rfl
@[simp] theorem modRepair_far (f : Repair → Repair) : (modRepair s f).far = s.far := rfl
@[simp] theorem modRepair_host (f : Repair → Repair) : (modRepair s f).host = s.host := rfl
@[simp] theorem modRepair_flash (f : Repair → Repair) : (modRepair s f).flash = s.flash := rfl
@[simp] theorem modRepair_seq (f : Repair → Repair) : (modRepair s f).seq = s.seq := rfl
@[simp] theorem modRepair_facets (f : Repair → Repair) : (modRepair s f).facets = s.facets := rfl
@[simp] theorem modRepair_engines (f : Repair → Repair) : (modRepair s f).engines = s.engines := rfl
@[simp] theorem modRepair_sems (f : Repair → Repair) : (modRepair s f).sems = s.sems := rfl
@[simp] theorem modRepair_links (f : Repair → Repair) : (modRepair s f).links = s.links := rfl
@[simp] theorem modRepair_semMsgs (f : Repair → Repair) : (modRepair s f).semMsgs = s.semMsgs := rfl
@[simp] theorem modRepair_grants (f : Repair → Repair) : (modRepair s f).grants = s.grants := rfl
@[simp] theorem modRepair_chans (f : Repair → Repair) : (modRepair s f).chans = s.chans := rfl
@[simp] theorem modRepair_jobs (f : Repair → Repair) : (modRepair s f).jobs = s.jobs := rfl
@[simp] theorem modRepair_portMerge (f : Repair → Repair) : (modRepair s f).portMerge = s.portMerge := rfl
@[simp] theorem modRepair_leafItems (f : Repair → Repair) : (modRepair s f).leafItems = s.leafItems := rfl
@[simp] theorem modRepair_earlyEnds (f : Repair → Repair) : (modRepair s f).earlyEnds = s.earlyEnds := rfl
@[simp] theorem modRepair_predictor (f : Repair → Repair) : (modRepair s f).predictor = s.predictor := rfl
@[simp] theorem modRepair_updates (f : Repair → Repair) : (modRepair s f).updates = s.updates := rfl
@[simp] theorem modRepair_paging (f : Repair → Repair) : (modRepair s f).paging = s.paging := rfl
@[simp] theorem modRepair_perms (f : Repair → Repair) : (modRepair s f).perms = s.perms := rfl
@[simp] theorem modRepair_permLoad (f : Repair → Repair) : (modRepair s f).permLoad = s.permLoad := rfl
@[simp] theorem modRepair_owners (f : Repair → Repair) : (modRepair s f).owners = s.owners := rfl
@[simp] theorem modRepair_ownerLoad (f : Repair → Repair) : (modRepair s f).ownerLoad = s.ownerLoad := rfl
@[simp] theorem modRepair_ports (f : Repair → Repair) : (modRepair s f).ports = s.ports := rfl
@[simp] theorem modRepair_reads (f : Repair → Repair) : (modRepair s f).reads = s.reads := rfl
@[simp] theorem modRepair_hif (f : Repair → Repair) : (modRepair s f).hif = s.hif := rfl
@[simp] theorem modRepair_mgmt (f : Repair → Repair) : (modRepair s f).mgmt = s.mgmt := rfl
@[simp] theorem modRepair_clamps (f : Repair → Repair) : (modRepair s f).clamps = s.clamps := rfl
@[simp] theorem modRepair_cyc (f : Repair → Repair) : (modRepair s f).cyc = s.cyc := rfl
@[simp] theorem modRepair_memOps (f : Repair → Repair) : (modRepair s f).memOps = s.memOps := rfl
@[simp] theorem modRepair_gates (f : Repair → Repair) : (modRepair s f).gates = s.gates := rfl
@[simp] theorem modRepair_wakes (f : Repair → Repair) : (modRepair s f).wakes = s.wakes := rfl
@[simp] theorem modRepair_masks (f : Repair → Repair) : (modRepair s f).masks = s.masks := rfl
@[simp] theorem modRepair_repair (f : Repair → Repair) : (modRepair s f).repair = f s.repair := rfl
@[simp] theorem modRepair_power (f : Repair → Repair) : (modRepair s f).power = s.power := rfl
@[simp] theorem modRepair_outs (f : Repair → Repair) : (modRepair s f).outs = s.outs := rfl

/-! ### modPower -/

@[simp] theorem modPower_pending (f : Power → Power) : (modPower s f).pending = s.pending := rfl
@[simp] theorem modPower_now (f : Power → Power) : (modPower s f).now = s.now := rfl
@[simp] theorem modPower_free (f : Power → Power) : (modPower s f).free = s.free := rfl
@[simp] theorem modPower_regs (f : Power → Power) : (modPower s f).regs = s.regs := rfl
@[simp] theorem modPower_fmem (f : Power → Power) : (modPower s f).fmem = s.fmem := rfl
@[simp] theorem modPower_imem (f : Power → Power) : (modPower s f).imem = s.imem := rfl
@[simp] theorem modPower_sts (f : Power → Power) : (modPower s f).sts = s.sts := rfl
@[simp] theorem modPower_far (f : Power → Power) : (modPower s f).far = s.far := rfl
@[simp] theorem modPower_host (f : Power → Power) : (modPower s f).host = s.host := rfl
@[simp] theorem modPower_flash (f : Power → Power) : (modPower s f).flash = s.flash := rfl
@[simp] theorem modPower_seq (f : Power → Power) : (modPower s f).seq = s.seq := rfl
@[simp] theorem modPower_facets (f : Power → Power) : (modPower s f).facets = s.facets := rfl
@[simp] theorem modPower_engines (f : Power → Power) : (modPower s f).engines = s.engines := rfl
@[simp] theorem modPower_sems (f : Power → Power) : (modPower s f).sems = s.sems := rfl
@[simp] theorem modPower_links (f : Power → Power) : (modPower s f).links = s.links := rfl
@[simp] theorem modPower_semMsgs (f : Power → Power) : (modPower s f).semMsgs = s.semMsgs := rfl
@[simp] theorem modPower_grants (f : Power → Power) : (modPower s f).grants = s.grants := rfl
@[simp] theorem modPower_chans (f : Power → Power) : (modPower s f).chans = s.chans := rfl
@[simp] theorem modPower_jobs (f : Power → Power) : (modPower s f).jobs = s.jobs := rfl
@[simp] theorem modPower_portMerge (f : Power → Power) : (modPower s f).portMerge = s.portMerge := rfl
@[simp] theorem modPower_leafItems (f : Power → Power) : (modPower s f).leafItems = s.leafItems := rfl
@[simp] theorem modPower_earlyEnds (f : Power → Power) : (modPower s f).earlyEnds = s.earlyEnds := rfl
@[simp] theorem modPower_predictor (f : Power → Power) : (modPower s f).predictor = s.predictor := rfl
@[simp] theorem modPower_updates (f : Power → Power) : (modPower s f).updates = s.updates := rfl
@[simp] theorem modPower_paging (f : Power → Power) : (modPower s f).paging = s.paging := rfl
@[simp] theorem modPower_perms (f : Power → Power) : (modPower s f).perms = s.perms := rfl
@[simp] theorem modPower_permLoad (f : Power → Power) : (modPower s f).permLoad = s.permLoad := rfl
@[simp] theorem modPower_owners (f : Power → Power) : (modPower s f).owners = s.owners := rfl
@[simp] theorem modPower_ownerLoad (f : Power → Power) : (modPower s f).ownerLoad = s.ownerLoad := rfl
@[simp] theorem modPower_ports (f : Power → Power) : (modPower s f).ports = s.ports := rfl
@[simp] theorem modPower_reads (f : Power → Power) : (modPower s f).reads = s.reads := rfl
@[simp] theorem modPower_hif (f : Power → Power) : (modPower s f).hif = s.hif := rfl
@[simp] theorem modPower_mgmt (f : Power → Power) : (modPower s f).mgmt = s.mgmt := rfl
@[simp] theorem modPower_clamps (f : Power → Power) : (modPower s f).clamps = s.clamps := rfl
@[simp] theorem modPower_cyc (f : Power → Power) : (modPower s f).cyc = s.cyc := rfl
@[simp] theorem modPower_memOps (f : Power → Power) : (modPower s f).memOps = s.memOps := rfl
@[simp] theorem modPower_gates (f : Power → Power) : (modPower s f).gates = s.gates := rfl
@[simp] theorem modPower_wakes (f : Power → Power) : (modPower s f).wakes = s.wakes := rfl
@[simp] theorem modPower_masks (f : Power → Power) : (modPower s f).masks = s.masks := rfl
@[simp] theorem modPower_repair (f : Power → Power) : (modPower s f).repair = s.repair := rfl
@[simp] theorem modPower_power (f : Power → Power) : (modPower s f).power = f s.power := rfl
@[simp] theorem modPower_outs (f : Power → Power) : (modPower s f).outs = s.outs := rfl

/-! ### modPaging -/

@[simp] theorem modPaging_pending (f : Paging → Paging) : (modPaging s f).pending = s.pending := rfl
@[simp] theorem modPaging_now (f : Paging → Paging) : (modPaging s f).now = s.now := rfl
@[simp] theorem modPaging_free (f : Paging → Paging) : (modPaging s f).free = s.free := rfl
@[simp] theorem modPaging_regs (f : Paging → Paging) : (modPaging s f).regs = s.regs := rfl
@[simp] theorem modPaging_fmem (f : Paging → Paging) : (modPaging s f).fmem = s.fmem := rfl
@[simp] theorem modPaging_imem (f : Paging → Paging) : (modPaging s f).imem = s.imem := rfl
@[simp] theorem modPaging_sts (f : Paging → Paging) : (modPaging s f).sts = s.sts := rfl
@[simp] theorem modPaging_far (f : Paging → Paging) : (modPaging s f).far = s.far := rfl
@[simp] theorem modPaging_host (f : Paging → Paging) : (modPaging s f).host = s.host := rfl
@[simp] theorem modPaging_flash (f : Paging → Paging) : (modPaging s f).flash = s.flash := rfl
@[simp] theorem modPaging_seq (f : Paging → Paging) : (modPaging s f).seq = s.seq := rfl
@[simp] theorem modPaging_facets (f : Paging → Paging) : (modPaging s f).facets = s.facets := rfl
@[simp] theorem modPaging_engines (f : Paging → Paging) : (modPaging s f).engines = s.engines := rfl
@[simp] theorem modPaging_sems (f : Paging → Paging) : (modPaging s f).sems = s.sems := rfl
@[simp] theorem modPaging_links (f : Paging → Paging) : (modPaging s f).links = s.links := rfl
@[simp] theorem modPaging_semMsgs (f : Paging → Paging) : (modPaging s f).semMsgs = s.semMsgs := rfl
@[simp] theorem modPaging_grants (f : Paging → Paging) : (modPaging s f).grants = s.grants := rfl
@[simp] theorem modPaging_chans (f : Paging → Paging) : (modPaging s f).chans = s.chans := rfl
@[simp] theorem modPaging_jobs (f : Paging → Paging) : (modPaging s f).jobs = s.jobs := rfl
@[simp] theorem modPaging_portMerge (f : Paging → Paging) : (modPaging s f).portMerge = s.portMerge := rfl
@[simp] theorem modPaging_leafItems (f : Paging → Paging) : (modPaging s f).leafItems = s.leafItems := rfl
@[simp] theorem modPaging_earlyEnds (f : Paging → Paging) : (modPaging s f).earlyEnds = s.earlyEnds := rfl
@[simp] theorem modPaging_predictor (f : Paging → Paging) : (modPaging s f).predictor = s.predictor := rfl
@[simp] theorem modPaging_updates (f : Paging → Paging) : (modPaging s f).updates = s.updates := rfl
@[simp] theorem modPaging_paging (f : Paging → Paging) : (modPaging s f).paging = f s.paging := rfl
@[simp] theorem modPaging_perms (f : Paging → Paging) : (modPaging s f).perms = s.perms := rfl
@[simp] theorem modPaging_permLoad (f : Paging → Paging) : (modPaging s f).permLoad = s.permLoad := rfl
@[simp] theorem modPaging_owners (f : Paging → Paging) : (modPaging s f).owners = s.owners := rfl
@[simp] theorem modPaging_ownerLoad (f : Paging → Paging) : (modPaging s f).ownerLoad = s.ownerLoad := rfl
@[simp] theorem modPaging_ports (f : Paging → Paging) : (modPaging s f).ports = s.ports := rfl
@[simp] theorem modPaging_reads (f : Paging → Paging) : (modPaging s f).reads = s.reads := rfl
@[simp] theorem modPaging_hif (f : Paging → Paging) : (modPaging s f).hif = s.hif := rfl
@[simp] theorem modPaging_mgmt (f : Paging → Paging) : (modPaging s f).mgmt = s.mgmt := rfl
@[simp] theorem modPaging_clamps (f : Paging → Paging) : (modPaging s f).clamps = s.clamps := rfl
@[simp] theorem modPaging_cyc (f : Paging → Paging) : (modPaging s f).cyc = s.cyc := rfl
@[simp] theorem modPaging_memOps (f : Paging → Paging) : (modPaging s f).memOps = s.memOps := rfl
@[simp] theorem modPaging_gates (f : Paging → Paging) : (modPaging s f).gates = s.gates := rfl
@[simp] theorem modPaging_wakes (f : Paging → Paging) : (modPaging s f).wakes = s.wakes := rfl
@[simp] theorem modPaging_masks (f : Paging → Paging) : (modPaging s f).masks = s.masks := rfl
@[simp] theorem modPaging_repair (f : Paging → Paging) : (modPaging s f).repair = s.repair := rfl
@[simp] theorem modPaging_power (f : Paging → Paging) : (modPaging s f).power = s.power := rfl
@[simp] theorem modPaging_outs (f : Paging → Paging) : (modPaging s f).outs = s.outs := rfl

/-! ### modFacet -/

@[simp] theorem modFacet_pending (lf : Nat) (f : Facet → Facet) : (modFacet s lf f).pending = s.pending := rfl
@[simp] theorem modFacet_now (lf : Nat) (f : Facet → Facet) : (modFacet s lf f).now = s.now := rfl
@[simp] theorem modFacet_free (lf : Nat) (f : Facet → Facet) : (modFacet s lf f).free = s.free := rfl
@[simp] theorem modFacet_regs (lf : Nat) (f : Facet → Facet) : (modFacet s lf f).regs = s.regs := rfl
@[simp] theorem modFacet_fmem (lf : Nat) (f : Facet → Facet) : (modFacet s lf f).fmem = s.fmem := rfl
@[simp] theorem modFacet_imem (lf : Nat) (f : Facet → Facet) : (modFacet s lf f).imem = s.imem := rfl
@[simp] theorem modFacet_sts (lf : Nat) (f : Facet → Facet) : (modFacet s lf f).sts = s.sts := rfl
@[simp] theorem modFacet_far (lf : Nat) (f : Facet → Facet) : (modFacet s lf f).far = s.far := rfl
@[simp] theorem modFacet_host (lf : Nat) (f : Facet → Facet) : (modFacet s lf f).host = s.host := rfl
@[simp] theorem modFacet_flash (lf : Nat) (f : Facet → Facet) : (modFacet s lf f).flash = s.flash := rfl
@[simp] theorem modFacet_seq (lf : Nat) (f : Facet → Facet) : (modFacet s lf f).seq = s.seq := rfl
@[simp] theorem modFacet_facets (lf : Nat) (f : Facet → Facet) : (modFacet s lf f).facets = mapPut s.facets lf (f (facetOf s lf)) := rfl
@[simp] theorem modFacet_engines (lf : Nat) (f : Facet → Facet) : (modFacet s lf f).engines = s.engines := rfl
@[simp] theorem modFacet_sems (lf : Nat) (f : Facet → Facet) : (modFacet s lf f).sems = s.sems := rfl
@[simp] theorem modFacet_links (lf : Nat) (f : Facet → Facet) : (modFacet s lf f).links = s.links := rfl
@[simp] theorem modFacet_semMsgs (lf : Nat) (f : Facet → Facet) : (modFacet s lf f).semMsgs = s.semMsgs := rfl
@[simp] theorem modFacet_grants (lf : Nat) (f : Facet → Facet) : (modFacet s lf f).grants = s.grants := rfl
@[simp] theorem modFacet_chans (lf : Nat) (f : Facet → Facet) : (modFacet s lf f).chans = s.chans := rfl
@[simp] theorem modFacet_jobs (lf : Nat) (f : Facet → Facet) : (modFacet s lf f).jobs = s.jobs := rfl
@[simp] theorem modFacet_portMerge (lf : Nat) (f : Facet → Facet) : (modFacet s lf f).portMerge = s.portMerge := rfl
@[simp] theorem modFacet_leafItems (lf : Nat) (f : Facet → Facet) : (modFacet s lf f).leafItems = s.leafItems := rfl
@[simp] theorem modFacet_earlyEnds (lf : Nat) (f : Facet → Facet) : (modFacet s lf f).earlyEnds = s.earlyEnds := rfl
@[simp] theorem modFacet_predictor (lf : Nat) (f : Facet → Facet) : (modFacet s lf f).predictor = s.predictor := rfl
@[simp] theorem modFacet_updates (lf : Nat) (f : Facet → Facet) : (modFacet s lf f).updates = s.updates := rfl
@[simp] theorem modFacet_paging (lf : Nat) (f : Facet → Facet) : (modFacet s lf f).paging = s.paging := rfl
@[simp] theorem modFacet_perms (lf : Nat) (f : Facet → Facet) : (modFacet s lf f).perms = s.perms := rfl
@[simp] theorem modFacet_permLoad (lf : Nat) (f : Facet → Facet) : (modFacet s lf f).permLoad = s.permLoad := rfl
@[simp] theorem modFacet_owners (lf : Nat) (f : Facet → Facet) : (modFacet s lf f).owners = s.owners := rfl
@[simp] theorem modFacet_ownerLoad (lf : Nat) (f : Facet → Facet) : (modFacet s lf f).ownerLoad = s.ownerLoad := rfl
@[simp] theorem modFacet_ports (lf : Nat) (f : Facet → Facet) : (modFacet s lf f).ports = s.ports := rfl
@[simp] theorem modFacet_reads (lf : Nat) (f : Facet → Facet) : (modFacet s lf f).reads = s.reads := rfl
@[simp] theorem modFacet_hif (lf : Nat) (f : Facet → Facet) : (modFacet s lf f).hif = s.hif := rfl
@[simp] theorem modFacet_mgmt (lf : Nat) (f : Facet → Facet) : (modFacet s lf f).mgmt = s.mgmt := rfl
@[simp] theorem modFacet_clamps (lf : Nat) (f : Facet → Facet) : (modFacet s lf f).clamps = s.clamps := rfl
@[simp] theorem modFacet_cyc (lf : Nat) (f : Facet → Facet) : (modFacet s lf f).cyc = s.cyc := rfl
@[simp] theorem modFacet_memOps (lf : Nat) (f : Facet → Facet) : (modFacet s lf f).memOps = s.memOps := rfl
@[simp] theorem modFacet_gates (lf : Nat) (f : Facet → Facet) : (modFacet s lf f).gates = s.gates := rfl
@[simp] theorem modFacet_wakes (lf : Nat) (f : Facet → Facet) : (modFacet s lf f).wakes = s.wakes := rfl
@[simp] theorem modFacet_masks (lf : Nat) (f : Facet → Facet) : (modFacet s lf f).masks = s.masks := rfl
@[simp] theorem modFacet_repair (lf : Nat) (f : Facet → Facet) : (modFacet s lf f).repair = s.repair := rfl
@[simp] theorem modFacet_power (lf : Nat) (f : Facet → Facet) : (modFacet s lf f).power = s.power := rfl
@[simp] theorem modFacet_outs (lf : Nat) (f : Facet → Facet) : (modFacet s lf f).outs = s.outs := rfl

/-! ### modCtx -/

@[simp] theorem modCtx_pending (w : Who) (f : Ctx → Ctx) : (modCtx s w f).pending = s.pending := rfl
@[simp] theorem modCtx_now (w : Who) (f : Ctx → Ctx) : (modCtx s w f).now = s.now := rfl
@[simp] theorem modCtx_free (w : Who) (f : Ctx → Ctx) : (modCtx s w f).free = s.free := rfl
@[simp] theorem modCtx_regs (w : Who) (f : Ctx → Ctx) : (modCtx s w f).regs = s.regs := rfl
@[simp] theorem modCtx_fmem (w : Who) (f : Ctx → Ctx) : (modCtx s w f).fmem = s.fmem := rfl
@[simp] theorem modCtx_imem (w : Who) (f : Ctx → Ctx) : (modCtx s w f).imem = s.imem := rfl
@[simp] theorem modCtx_sts (w : Who) (f : Ctx → Ctx) : (modCtx s w f).sts = s.sts := rfl
@[simp] theorem modCtx_far (w : Who) (f : Ctx → Ctx) : (modCtx s w f).far = s.far := rfl
@[simp] theorem modCtx_host (w : Who) (f : Ctx → Ctx) : (modCtx s w f).host = s.host := rfl
@[simp] theorem modCtx_flash (w : Who) (f : Ctx → Ctx) : (modCtx s w f).flash = s.flash := rfl
@[simp] theorem modCtx_seq (w : Who) (f : Ctx → Ctx) : (modCtx s w f).seq = s.seq := rfl
@[simp] theorem modCtx_facets (w : Who) (f : Ctx → Ctx) : (modCtx s w f).facets = mapPut s.facets w.lf ((facetOf s w.lf).setCtx w.ctx (f ((facetOf s w.lf).ctx w.ctx))) := rfl
@[simp] theorem modCtx_engines (w : Who) (f : Ctx → Ctx) : (modCtx s w f).engines = s.engines := rfl
@[simp] theorem modCtx_sems (w : Who) (f : Ctx → Ctx) : (modCtx s w f).sems = s.sems := rfl
@[simp] theorem modCtx_links (w : Who) (f : Ctx → Ctx) : (modCtx s w f).links = s.links := rfl
@[simp] theorem modCtx_semMsgs (w : Who) (f : Ctx → Ctx) : (modCtx s w f).semMsgs = s.semMsgs := rfl
@[simp] theorem modCtx_grants (w : Who) (f : Ctx → Ctx) : (modCtx s w f).grants = s.grants := rfl
@[simp] theorem modCtx_chans (w : Who) (f : Ctx → Ctx) : (modCtx s w f).chans = s.chans := rfl
@[simp] theorem modCtx_jobs (w : Who) (f : Ctx → Ctx) : (modCtx s w f).jobs = s.jobs := rfl
@[simp] theorem modCtx_portMerge (w : Who) (f : Ctx → Ctx) : (modCtx s w f).portMerge = s.portMerge := rfl
@[simp] theorem modCtx_leafItems (w : Who) (f : Ctx → Ctx) : (modCtx s w f).leafItems = s.leafItems := rfl
@[simp] theorem modCtx_earlyEnds (w : Who) (f : Ctx → Ctx) : (modCtx s w f).earlyEnds = s.earlyEnds := rfl
@[simp] theorem modCtx_predictor (w : Who) (f : Ctx → Ctx) : (modCtx s w f).predictor = s.predictor := rfl
@[simp] theorem modCtx_updates (w : Who) (f : Ctx → Ctx) : (modCtx s w f).updates = s.updates := rfl
@[simp] theorem modCtx_paging (w : Who) (f : Ctx → Ctx) : (modCtx s w f).paging = s.paging := rfl
@[simp] theorem modCtx_perms (w : Who) (f : Ctx → Ctx) : (modCtx s w f).perms = s.perms := rfl
@[simp] theorem modCtx_permLoad (w : Who) (f : Ctx → Ctx) : (modCtx s w f).permLoad = s.permLoad := rfl
@[simp] theorem modCtx_owners (w : Who) (f : Ctx → Ctx) : (modCtx s w f).owners = s.owners := rfl
@[simp] theorem modCtx_ownerLoad (w : Who) (f : Ctx → Ctx) : (modCtx s w f).ownerLoad = s.ownerLoad := rfl
@[simp] theorem modCtx_ports (w : Who) (f : Ctx → Ctx) : (modCtx s w f).ports = s.ports := rfl
@[simp] theorem modCtx_reads (w : Who) (f : Ctx → Ctx) : (modCtx s w f).reads = s.reads := rfl
@[simp] theorem modCtx_hif (w : Who) (f : Ctx → Ctx) : (modCtx s w f).hif = s.hif := rfl
@[simp] theorem modCtx_mgmt (w : Who) (f : Ctx → Ctx) : (modCtx s w f).mgmt = s.mgmt := rfl
@[simp] theorem modCtx_clamps (w : Who) (f : Ctx → Ctx) : (modCtx s w f).clamps = s.clamps := rfl
@[simp] theorem modCtx_cyc (w : Who) (f : Ctx → Ctx) : (modCtx s w f).cyc = s.cyc := rfl
@[simp] theorem modCtx_memOps (w : Who) (f : Ctx → Ctx) : (modCtx s w f).memOps = s.memOps := rfl
@[simp] theorem modCtx_gates (w : Who) (f : Ctx → Ctx) : (modCtx s w f).gates = s.gates := rfl
@[simp] theorem modCtx_wakes (w : Who) (f : Ctx → Ctx) : (modCtx s w f).wakes = s.wakes := rfl
@[simp] theorem modCtx_masks (w : Who) (f : Ctx → Ctx) : (modCtx s w f).masks = s.masks := rfl
@[simp] theorem modCtx_repair (w : Who) (f : Ctx → Ctx) : (modCtx s w f).repair = s.repair := rfl
@[simp] theorem modCtx_power (w : Who) (f : Ctx → Ctx) : (modCtx s w f).power = s.power := rfl
@[simp] theorem modCtx_outs (w : Who) (f : Ctx → Ctx) : (modCtx s w f).outs = s.outs := rfl

/-! ### modLat -/

@[simp] theorem modLat_pending (w : Who) (f : Lat → Lat) : (modLat s w f).pending = s.pending := rfl
@[simp] theorem modLat_now (w : Who) (f : Lat → Lat) : (modLat s w f).now = s.now := rfl
@[simp] theorem modLat_free (w : Who) (f : Lat → Lat) : (modLat s w f).free = s.free := rfl
@[simp] theorem modLat_regs (w : Who) (f : Lat → Lat) : (modLat s w f).regs = s.regs := rfl
@[simp] theorem modLat_fmem (w : Who) (f : Lat → Lat) : (modLat s w f).fmem = s.fmem := rfl
@[simp] theorem modLat_imem (w : Who) (f : Lat → Lat) : (modLat s w f).imem = s.imem := rfl
@[simp] theorem modLat_sts (w : Who) (f : Lat → Lat) : (modLat s w f).sts = s.sts := rfl
@[simp] theorem modLat_far (w : Who) (f : Lat → Lat) : (modLat s w f).far = s.far := rfl
@[simp] theorem modLat_host (w : Who) (f : Lat → Lat) : (modLat s w f).host = s.host := rfl
@[simp] theorem modLat_flash (w : Who) (f : Lat → Lat) : (modLat s w f).flash = s.flash := rfl
@[simp] theorem modLat_seq (w : Who) (f : Lat → Lat) : (modLat s w f).seq = s.seq := rfl
@[simp] theorem modLat_facets (w : Who) (f : Lat → Lat) : (modLat s w f).facets = mapPut s.facets w.lf ((facetOf s w.lf).setLat w.ctx (f ((facetOf s w.lf).lat w.ctx))) := rfl
@[simp] theorem modLat_engines (w : Who) (f : Lat → Lat) : (modLat s w f).engines = s.engines := rfl
@[simp] theorem modLat_sems (w : Who) (f : Lat → Lat) : (modLat s w f).sems = s.sems := rfl
@[simp] theorem modLat_links (w : Who) (f : Lat → Lat) : (modLat s w f).links = s.links := rfl
@[simp] theorem modLat_semMsgs (w : Who) (f : Lat → Lat) : (modLat s w f).semMsgs = s.semMsgs := rfl
@[simp] theorem modLat_grants (w : Who) (f : Lat → Lat) : (modLat s w f).grants = s.grants := rfl
@[simp] theorem modLat_chans (w : Who) (f : Lat → Lat) : (modLat s w f).chans = s.chans := rfl
@[simp] theorem modLat_jobs (w : Who) (f : Lat → Lat) : (modLat s w f).jobs = s.jobs := rfl
@[simp] theorem modLat_portMerge (w : Who) (f : Lat → Lat) : (modLat s w f).portMerge = s.portMerge := rfl
@[simp] theorem modLat_leafItems (w : Who) (f : Lat → Lat) : (modLat s w f).leafItems = s.leafItems := rfl
@[simp] theorem modLat_earlyEnds (w : Who) (f : Lat → Lat) : (modLat s w f).earlyEnds = s.earlyEnds := rfl
@[simp] theorem modLat_predictor (w : Who) (f : Lat → Lat) : (modLat s w f).predictor = s.predictor := rfl
@[simp] theorem modLat_updates (w : Who) (f : Lat → Lat) : (modLat s w f).updates = s.updates := rfl
@[simp] theorem modLat_paging (w : Who) (f : Lat → Lat) : (modLat s w f).paging = s.paging := rfl
@[simp] theorem modLat_perms (w : Who) (f : Lat → Lat) : (modLat s w f).perms = s.perms := rfl
@[simp] theorem modLat_permLoad (w : Who) (f : Lat → Lat) : (modLat s w f).permLoad = s.permLoad := rfl
@[simp] theorem modLat_owners (w : Who) (f : Lat → Lat) : (modLat s w f).owners = s.owners := rfl
@[simp] theorem modLat_ownerLoad (w : Who) (f : Lat → Lat) : (modLat s w f).ownerLoad = s.ownerLoad := rfl
@[simp] theorem modLat_ports (w : Who) (f : Lat → Lat) : (modLat s w f).ports = s.ports := rfl
@[simp] theorem modLat_reads (w : Who) (f : Lat → Lat) : (modLat s w f).reads = s.reads := rfl
@[simp] theorem modLat_hif (w : Who) (f : Lat → Lat) : (modLat s w f).hif = s.hif := rfl
@[simp] theorem modLat_mgmt (w : Who) (f : Lat → Lat) : (modLat s w f).mgmt = s.mgmt := rfl
@[simp] theorem modLat_clamps (w : Who) (f : Lat → Lat) : (modLat s w f).clamps = s.clamps := rfl
@[simp] theorem modLat_cyc (w : Who) (f : Lat → Lat) : (modLat s w f).cyc = s.cyc := rfl
@[simp] theorem modLat_memOps (w : Who) (f : Lat → Lat) : (modLat s w f).memOps = s.memOps := rfl
@[simp] theorem modLat_gates (w : Who) (f : Lat → Lat) : (modLat s w f).gates = s.gates := rfl
@[simp] theorem modLat_wakes (w : Who) (f : Lat → Lat) : (modLat s w f).wakes = s.wakes := rfl
@[simp] theorem modLat_masks (w : Who) (f : Lat → Lat) : (modLat s w f).masks = s.masks := rfl
@[simp] theorem modLat_repair (w : Who) (f : Lat → Lat) : (modLat s w f).repair = s.repair := rfl
@[simp] theorem modLat_power (w : Who) (f : Lat → Lat) : (modLat s w f).power = s.power := rfl
@[simp] theorem modLat_outs (w : Who) (f : Lat → Lat) : (modLat s w f).outs = s.outs := rfl

/-! ### modEngine -/

@[simp] theorem modEngine_pending (e : Nat) (f : Engine → Engine) : (modEngine s e f).pending = s.pending := rfl
@[simp] theorem modEngine_now (e : Nat) (f : Engine → Engine) : (modEngine s e f).now = s.now := rfl
@[simp] theorem modEngine_free (e : Nat) (f : Engine → Engine) : (modEngine s e f).free = s.free := rfl
@[simp] theorem modEngine_regs (e : Nat) (f : Engine → Engine) : (modEngine s e f).regs = s.regs := rfl
@[simp] theorem modEngine_fmem (e : Nat) (f : Engine → Engine) : (modEngine s e f).fmem = s.fmem := rfl
@[simp] theorem modEngine_imem (e : Nat) (f : Engine → Engine) : (modEngine s e f).imem = s.imem := rfl
@[simp] theorem modEngine_sts (e : Nat) (f : Engine → Engine) : (modEngine s e f).sts = s.sts := rfl
@[simp] theorem modEngine_far (e : Nat) (f : Engine → Engine) : (modEngine s e f).far = s.far := rfl
@[simp] theorem modEngine_host (e : Nat) (f : Engine → Engine) : (modEngine s e f).host = s.host := rfl
@[simp] theorem modEngine_flash (e : Nat) (f : Engine → Engine) : (modEngine s e f).flash = s.flash := rfl
@[simp] theorem modEngine_seq (e : Nat) (f : Engine → Engine) : (modEngine s e f).seq = s.seq := rfl
@[simp] theorem modEngine_facets (e : Nat) (f : Engine → Engine) : (modEngine s e f).facets = s.facets := rfl
@[simp] theorem modEngine_engines (e : Nat) (f : Engine → Engine) : (modEngine s e f).engines = mapPut s.engines e (f (engineOf s e)) := rfl
@[simp] theorem modEngine_sems (e : Nat) (f : Engine → Engine) : (modEngine s e f).sems = s.sems := rfl
@[simp] theorem modEngine_links (e : Nat) (f : Engine → Engine) : (modEngine s e f).links = s.links := rfl
@[simp] theorem modEngine_semMsgs (e : Nat) (f : Engine → Engine) : (modEngine s e f).semMsgs = s.semMsgs := rfl
@[simp] theorem modEngine_grants (e : Nat) (f : Engine → Engine) : (modEngine s e f).grants = s.grants := rfl
@[simp] theorem modEngine_chans (e : Nat) (f : Engine → Engine) : (modEngine s e f).chans = s.chans := rfl
@[simp] theorem modEngine_jobs (e : Nat) (f : Engine → Engine) : (modEngine s e f).jobs = s.jobs := rfl
@[simp] theorem modEngine_portMerge (e : Nat) (f : Engine → Engine) : (modEngine s e f).portMerge = s.portMerge := rfl
@[simp] theorem modEngine_leafItems (e : Nat) (f : Engine → Engine) : (modEngine s e f).leafItems = s.leafItems := rfl
@[simp] theorem modEngine_earlyEnds (e : Nat) (f : Engine → Engine) : (modEngine s e f).earlyEnds = s.earlyEnds := rfl
@[simp] theorem modEngine_predictor (e : Nat) (f : Engine → Engine) : (modEngine s e f).predictor = s.predictor := rfl
@[simp] theorem modEngine_updates (e : Nat) (f : Engine → Engine) : (modEngine s e f).updates = s.updates := rfl
@[simp] theorem modEngine_paging (e : Nat) (f : Engine → Engine) : (modEngine s e f).paging = s.paging := rfl
@[simp] theorem modEngine_perms (e : Nat) (f : Engine → Engine) : (modEngine s e f).perms = s.perms := rfl
@[simp] theorem modEngine_permLoad (e : Nat) (f : Engine → Engine) : (modEngine s e f).permLoad = s.permLoad := rfl
@[simp] theorem modEngine_owners (e : Nat) (f : Engine → Engine) : (modEngine s e f).owners = s.owners := rfl
@[simp] theorem modEngine_ownerLoad (e : Nat) (f : Engine → Engine) : (modEngine s e f).ownerLoad = s.ownerLoad := rfl
@[simp] theorem modEngine_ports (e : Nat) (f : Engine → Engine) : (modEngine s e f).ports = s.ports := rfl
@[simp] theorem modEngine_reads (e : Nat) (f : Engine → Engine) : (modEngine s e f).reads = s.reads := rfl
@[simp] theorem modEngine_hif (e : Nat) (f : Engine → Engine) : (modEngine s e f).hif = s.hif := rfl
@[simp] theorem modEngine_mgmt (e : Nat) (f : Engine → Engine) : (modEngine s e f).mgmt = s.mgmt := rfl
@[simp] theorem modEngine_clamps (e : Nat) (f : Engine → Engine) : (modEngine s e f).clamps = s.clamps := rfl
@[simp] theorem modEngine_cyc (e : Nat) (f : Engine → Engine) : (modEngine s e f).cyc = s.cyc := rfl
@[simp] theorem modEngine_memOps (e : Nat) (f : Engine → Engine) : (modEngine s e f).memOps = s.memOps := rfl
@[simp] theorem modEngine_gates (e : Nat) (f : Engine → Engine) : (modEngine s e f).gates = s.gates := rfl
@[simp] theorem modEngine_wakes (e : Nat) (f : Engine → Engine) : (modEngine s e f).wakes = s.wakes := rfl
@[simp] theorem modEngine_masks (e : Nat) (f : Engine → Engine) : (modEngine s e f).masks = s.masks := rfl
@[simp] theorem modEngine_repair (e : Nat) (f : Engine → Engine) : (modEngine s e f).repair = s.repair := rfl
@[simp] theorem modEngine_power (e : Nat) (f : Engine → Engine) : (modEngine s e f).power = s.power := rfl
@[simp] theorem modEngine_outs (e : Nat) (f : Engine → Engine) : (modEngine s e f).outs = s.outs := rfl

/-! ### modSem -/

@[simp] theorem modSem_pending (n : Nat) (f : Sem → Sem) : (modSem s n f).pending = s.pending := rfl
@[simp] theorem modSem_now (n : Nat) (f : Sem → Sem) : (modSem s n f).now = s.now := rfl
@[simp] theorem modSem_free (n : Nat) (f : Sem → Sem) : (modSem s n f).free = s.free := rfl
@[simp] theorem modSem_regs (n : Nat) (f : Sem → Sem) : (modSem s n f).regs = s.regs := rfl
@[simp] theorem modSem_fmem (n : Nat) (f : Sem → Sem) : (modSem s n f).fmem = s.fmem := rfl
@[simp] theorem modSem_imem (n : Nat) (f : Sem → Sem) : (modSem s n f).imem = s.imem := rfl
@[simp] theorem modSem_sts (n : Nat) (f : Sem → Sem) : (modSem s n f).sts = s.sts := rfl
@[simp] theorem modSem_far (n : Nat) (f : Sem → Sem) : (modSem s n f).far = s.far := rfl
@[simp] theorem modSem_host (n : Nat) (f : Sem → Sem) : (modSem s n f).host = s.host := rfl
@[simp] theorem modSem_flash (n : Nat) (f : Sem → Sem) : (modSem s n f).flash = s.flash := rfl
@[simp] theorem modSem_seq (n : Nat) (f : Sem → Sem) : (modSem s n f).seq = s.seq := rfl
@[simp] theorem modSem_facets (n : Nat) (f : Sem → Sem) : (modSem s n f).facets = s.facets := rfl
@[simp] theorem modSem_engines (n : Nat) (f : Sem → Sem) : (modSem s n f).engines = s.engines := rfl
@[simp] theorem modSem_sems (n : Nat) (f : Sem → Sem) : (modSem s n f).sems = mapPut s.sems n (f (semOf s n)) := rfl
@[simp] theorem modSem_links (n : Nat) (f : Sem → Sem) : (modSem s n f).links = s.links := rfl
@[simp] theorem modSem_semMsgs (n : Nat) (f : Sem → Sem) : (modSem s n f).semMsgs = s.semMsgs := rfl
@[simp] theorem modSem_grants (n : Nat) (f : Sem → Sem) : (modSem s n f).grants = s.grants := rfl
@[simp] theorem modSem_chans (n : Nat) (f : Sem → Sem) : (modSem s n f).chans = s.chans := rfl
@[simp] theorem modSem_jobs (n : Nat) (f : Sem → Sem) : (modSem s n f).jobs = s.jobs := rfl
@[simp] theorem modSem_portMerge (n : Nat) (f : Sem → Sem) : (modSem s n f).portMerge = s.portMerge := rfl
@[simp] theorem modSem_leafItems (n : Nat) (f : Sem → Sem) : (modSem s n f).leafItems = s.leafItems := rfl
@[simp] theorem modSem_earlyEnds (n : Nat) (f : Sem → Sem) : (modSem s n f).earlyEnds = s.earlyEnds := rfl
@[simp] theorem modSem_predictor (n : Nat) (f : Sem → Sem) : (modSem s n f).predictor = s.predictor := rfl
@[simp] theorem modSem_updates (n : Nat) (f : Sem → Sem) : (modSem s n f).updates = s.updates := rfl
@[simp] theorem modSem_paging (n : Nat) (f : Sem → Sem) : (modSem s n f).paging = s.paging := rfl
@[simp] theorem modSem_perms (n : Nat) (f : Sem → Sem) : (modSem s n f).perms = s.perms := rfl
@[simp] theorem modSem_permLoad (n : Nat) (f : Sem → Sem) : (modSem s n f).permLoad = s.permLoad := rfl
@[simp] theorem modSem_owners (n : Nat) (f : Sem → Sem) : (modSem s n f).owners = s.owners := rfl
@[simp] theorem modSem_ownerLoad (n : Nat) (f : Sem → Sem) : (modSem s n f).ownerLoad = s.ownerLoad := rfl
@[simp] theorem modSem_ports (n : Nat) (f : Sem → Sem) : (modSem s n f).ports = s.ports := rfl
@[simp] theorem modSem_reads (n : Nat) (f : Sem → Sem) : (modSem s n f).reads = s.reads := rfl
@[simp] theorem modSem_hif (n : Nat) (f : Sem → Sem) : (modSem s n f).hif = s.hif := rfl
@[simp] theorem modSem_mgmt (n : Nat) (f : Sem → Sem) : (modSem s n f).mgmt = s.mgmt := rfl
@[simp] theorem modSem_clamps (n : Nat) (f : Sem → Sem) : (modSem s n f).clamps = s.clamps := rfl
@[simp] theorem modSem_cyc (n : Nat) (f : Sem → Sem) : (modSem s n f).cyc = s.cyc := rfl
@[simp] theorem modSem_memOps (n : Nat) (f : Sem → Sem) : (modSem s n f).memOps = s.memOps := rfl
@[simp] theorem modSem_gates (n : Nat) (f : Sem → Sem) : (modSem s n f).gates = s.gates := rfl
@[simp] theorem modSem_wakes (n : Nat) (f : Sem → Sem) : (modSem s n f).wakes = s.wakes := rfl
@[simp] theorem modSem_masks (n : Nat) (f : Sem → Sem) : (modSem s n f).masks = s.masks := rfl
@[simp] theorem modSem_repair (n : Nat) (f : Sem → Sem) : (modSem s n f).repair = s.repair := rfl
@[simp] theorem modSem_power (n : Nat) (f : Sem → Sem) : (modSem s n f).power = s.power := rfl
@[simp] theorem modSem_outs (n : Nat) (f : Sem → Sem) : (modSem s n f).outs = s.outs := rfl

/-! ### modChan -/

@[simp] theorem modChan_pending (k : Nat) (f : Chan → Chan) : (modChan s k f).pending = s.pending := rfl
@[simp] theorem modChan_now (k : Nat) (f : Chan → Chan) : (modChan s k f).now = s.now := rfl
@[simp] theorem modChan_free (k : Nat) (f : Chan → Chan) : (modChan s k f).free = s.free := rfl
@[simp] theorem modChan_regs (k : Nat) (f : Chan → Chan) : (modChan s k f).regs = s.regs := rfl
@[simp] theorem modChan_fmem (k : Nat) (f : Chan → Chan) : (modChan s k f).fmem = s.fmem := rfl
@[simp] theorem modChan_imem (k : Nat) (f : Chan → Chan) : (modChan s k f).imem = s.imem := rfl
@[simp] theorem modChan_sts (k : Nat) (f : Chan → Chan) : (modChan s k f).sts = s.sts := rfl
@[simp] theorem modChan_far (k : Nat) (f : Chan → Chan) : (modChan s k f).far = s.far := rfl
@[simp] theorem modChan_host (k : Nat) (f : Chan → Chan) : (modChan s k f).host = s.host := rfl
@[simp] theorem modChan_flash (k : Nat) (f : Chan → Chan) : (modChan s k f).flash = s.flash := rfl
@[simp] theorem modChan_seq (k : Nat) (f : Chan → Chan) : (modChan s k f).seq = s.seq := rfl
@[simp] theorem modChan_facets (k : Nat) (f : Chan → Chan) : (modChan s k f).facets = s.facets := rfl
@[simp] theorem modChan_engines (k : Nat) (f : Chan → Chan) : (modChan s k f).engines = s.engines := rfl
@[simp] theorem modChan_sems (k : Nat) (f : Chan → Chan) : (modChan s k f).sems = s.sems := rfl
@[simp] theorem modChan_links (k : Nat) (f : Chan → Chan) : (modChan s k f).links = s.links := rfl
@[simp] theorem modChan_semMsgs (k : Nat) (f : Chan → Chan) : (modChan s k f).semMsgs = s.semMsgs := rfl
@[simp] theorem modChan_grants (k : Nat) (f : Chan → Chan) : (modChan s k f).grants = s.grants := rfl
@[simp] theorem modChan_chans (k : Nat) (f : Chan → Chan) : (modChan s k f).chans = mapPut s.chans k { f (chanOf s k) with dirty := true } := rfl
@[simp] theorem modChan_jobs (k : Nat) (f : Chan → Chan) : (modChan s k f).jobs = s.jobs := rfl
@[simp] theorem modChan_portMerge (k : Nat) (f : Chan → Chan) : (modChan s k f).portMerge = s.portMerge := rfl
@[simp] theorem modChan_leafItems (k : Nat) (f : Chan → Chan) : (modChan s k f).leafItems = s.leafItems := rfl
@[simp] theorem modChan_earlyEnds (k : Nat) (f : Chan → Chan) : (modChan s k f).earlyEnds = s.earlyEnds := rfl
@[simp] theorem modChan_predictor (k : Nat) (f : Chan → Chan) : (modChan s k f).predictor = s.predictor := rfl
@[simp] theorem modChan_updates (k : Nat) (f : Chan → Chan) : (modChan s k f).updates = s.updates := rfl
@[simp] theorem modChan_paging (k : Nat) (f : Chan → Chan) : (modChan s k f).paging = s.paging := rfl
@[simp] theorem modChan_perms (k : Nat) (f : Chan → Chan) : (modChan s k f).perms = s.perms := rfl
@[simp] theorem modChan_permLoad (k : Nat) (f : Chan → Chan) : (modChan s k f).permLoad = s.permLoad := rfl
@[simp] theorem modChan_owners (k : Nat) (f : Chan → Chan) : (modChan s k f).owners = s.owners := rfl
@[simp] theorem modChan_ownerLoad (k : Nat) (f : Chan → Chan) : (modChan s k f).ownerLoad = s.ownerLoad := rfl
@[simp] theorem modChan_ports (k : Nat) (f : Chan → Chan) : (modChan s k f).ports = s.ports := rfl
@[simp] theorem modChan_reads (k : Nat) (f : Chan → Chan) : (modChan s k f).reads = s.reads := rfl
@[simp] theorem modChan_hif (k : Nat) (f : Chan → Chan) : (modChan s k f).hif = s.hif := rfl
@[simp] theorem modChan_mgmt (k : Nat) (f : Chan → Chan) : (modChan s k f).mgmt = s.mgmt := rfl
@[simp] theorem modChan_clamps (k : Nat) (f : Chan → Chan) : (modChan s k f).clamps = s.clamps := rfl
@[simp] theorem modChan_cyc (k : Nat) (f : Chan → Chan) : (modChan s k f).cyc = s.cyc := rfl
@[simp] theorem modChan_memOps (k : Nat) (f : Chan → Chan) : (modChan s k f).memOps = s.memOps := rfl
@[simp] theorem modChan_gates (k : Nat) (f : Chan → Chan) : (modChan s k f).gates = s.gates := rfl
@[simp] theorem modChan_wakes (k : Nat) (f : Chan → Chan) : (modChan s k f).wakes = s.wakes := rfl
@[simp] theorem modChan_masks (k : Nat) (f : Chan → Chan) : (modChan s k f).masks = s.masks := rfl
@[simp] theorem modChan_repair (k : Nat) (f : Chan → Chan) : (modChan s k f).repair = s.repair := rfl
@[simp] theorem modChan_power (k : Nat) (f : Chan → Chan) : (modChan s k f).power = s.power := rfl
@[simp] theorem modChan_outs (k : Nat) (f : Chan → Chan) : (modChan s k f).outs = s.outs := rfl

/-! ### modPort -/

@[simp] theorem modPort_pending (p : Nat) (f : Port → Port) : (modPort s p f).pending = s.pending := rfl
@[simp] theorem modPort_now (p : Nat) (f : Port → Port) : (modPort s p f).now = s.now := rfl
@[simp] theorem modPort_free (p : Nat) (f : Port → Port) : (modPort s p f).free = s.free := rfl
@[simp] theorem modPort_regs (p : Nat) (f : Port → Port) : (modPort s p f).regs = s.regs := rfl
@[simp] theorem modPort_fmem (p : Nat) (f : Port → Port) : (modPort s p f).fmem = s.fmem := rfl
@[simp] theorem modPort_imem (p : Nat) (f : Port → Port) : (modPort s p f).imem = s.imem := rfl
@[simp] theorem modPort_sts (p : Nat) (f : Port → Port) : (modPort s p f).sts = s.sts := rfl
@[simp] theorem modPort_far (p : Nat) (f : Port → Port) : (modPort s p f).far = s.far := rfl
@[simp] theorem modPort_host (p : Nat) (f : Port → Port) : (modPort s p f).host = s.host := rfl
@[simp] theorem modPort_flash (p : Nat) (f : Port → Port) : (modPort s p f).flash = s.flash := rfl
@[simp] theorem modPort_seq (p : Nat) (f : Port → Port) : (modPort s p f).seq = s.seq := rfl
@[simp] theorem modPort_facets (p : Nat) (f : Port → Port) : (modPort s p f).facets = s.facets := rfl
@[simp] theorem modPort_engines (p : Nat) (f : Port → Port) : (modPort s p f).engines = s.engines := rfl
@[simp] theorem modPort_sems (p : Nat) (f : Port → Port) : (modPort s p f).sems = s.sems := rfl
@[simp] theorem modPort_links (p : Nat) (f : Port → Port) : (modPort s p f).links = s.links := rfl
@[simp] theorem modPort_semMsgs (p : Nat) (f : Port → Port) : (modPort s p f).semMsgs = s.semMsgs := rfl
@[simp] theorem modPort_grants (p : Nat) (f : Port → Port) : (modPort s p f).grants = s.grants := rfl
@[simp] theorem modPort_chans (p : Nat) (f : Port → Port) : (modPort s p f).chans = s.chans := rfl
@[simp] theorem modPort_jobs (p : Nat) (f : Port → Port) : (modPort s p f).jobs = s.jobs := rfl
@[simp] theorem modPort_portMerge (p : Nat) (f : Port → Port) : (modPort s p f).portMerge = s.portMerge := rfl
@[simp] theorem modPort_leafItems (p : Nat) (f : Port → Port) : (modPort s p f).leafItems = s.leafItems := rfl
@[simp] theorem modPort_earlyEnds (p : Nat) (f : Port → Port) : (modPort s p f).earlyEnds = s.earlyEnds := rfl
@[simp] theorem modPort_predictor (p : Nat) (f : Port → Port) : (modPort s p f).predictor = s.predictor := rfl
@[simp] theorem modPort_updates (p : Nat) (f : Port → Port) : (modPort s p f).updates = s.updates := rfl
@[simp] theorem modPort_paging (p : Nat) (f : Port → Port) : (modPort s p f).paging = s.paging := rfl
@[simp] theorem modPort_perms (p : Nat) (f : Port → Port) : (modPort s p f).perms = s.perms := rfl
@[simp] theorem modPort_permLoad (p : Nat) (f : Port → Port) : (modPort s p f).permLoad = s.permLoad := rfl
@[simp] theorem modPort_owners (p : Nat) (f : Port → Port) : (modPort s p f).owners = s.owners := rfl
@[simp] theorem modPort_ownerLoad (p : Nat) (f : Port → Port) : (modPort s p f).ownerLoad = s.ownerLoad := rfl
@[simp] theorem modPort_ports (p : Nat) (f : Port → Port) : (modPort s p f).ports = mapPut s.ports p (f (portOf s p)) := rfl
@[simp] theorem modPort_reads (p : Nat) (f : Port → Port) : (modPort s p f).reads = s.reads := rfl
@[simp] theorem modPort_hif (p : Nat) (f : Port → Port) : (modPort s p f).hif = s.hif := rfl
@[simp] theorem modPort_mgmt (p : Nat) (f : Port → Port) : (modPort s p f).mgmt = s.mgmt := rfl
@[simp] theorem modPort_clamps (p : Nat) (f : Port → Port) : (modPort s p f).clamps = s.clamps := rfl
@[simp] theorem modPort_cyc (p : Nat) (f : Port → Port) : (modPort s p f).cyc = s.cyc := rfl
@[simp] theorem modPort_memOps (p : Nat) (f : Port → Port) : (modPort s p f).memOps = s.memOps := rfl
@[simp] theorem modPort_gates (p : Nat) (f : Port → Port) : (modPort s p f).gates = s.gates := rfl
@[simp] theorem modPort_wakes (p : Nat) (f : Port → Port) : (modPort s p f).wakes = s.wakes := rfl
@[simp] theorem modPort_masks (p : Nat) (f : Port → Port) : (modPort s p f).masks = s.masks := rfl
@[simp] theorem modPort_repair (p : Nat) (f : Port → Port) : (modPort s p f).repair = s.repair := rfl
@[simp] theorem modPort_power (p : Nat) (f : Port → Port) : (modPort s p f).power = s.power := rfl
@[simp] theorem modPort_outs (p : Nat) (f : Port → Port) : (modPort s p f).outs = s.outs := rfl

/-! ### modCycle -/

@[simp] theorem modCycle_pending (f : Cycle → Cycle) : (modCycle s f).pending = s.pending := rfl
@[simp] theorem modCycle_now (f : Cycle → Cycle) : (modCycle s f).now = s.now := rfl
@[simp] theorem modCycle_free (f : Cycle → Cycle) : (modCycle s f).free = s.free := rfl
@[simp] theorem modCycle_regs (f : Cycle → Cycle) : (modCycle s f).regs = s.regs := rfl
@[simp] theorem modCycle_fmem (f : Cycle → Cycle) : (modCycle s f).fmem = s.fmem := rfl
@[simp] theorem modCycle_imem (f : Cycle → Cycle) : (modCycle s f).imem = s.imem := rfl
@[simp] theorem modCycle_sts (f : Cycle → Cycle) : (modCycle s f).sts = s.sts := rfl
@[simp] theorem modCycle_far (f : Cycle → Cycle) : (modCycle s f).far = s.far := rfl
@[simp] theorem modCycle_host (f : Cycle → Cycle) : (modCycle s f).host = s.host := rfl
@[simp] theorem modCycle_flash (f : Cycle → Cycle) : (modCycle s f).flash = s.flash := rfl
@[simp] theorem modCycle_seq (f : Cycle → Cycle) : (modCycle s f).seq = s.seq := rfl
@[simp] theorem modCycle_facets (f : Cycle → Cycle) : (modCycle s f).facets = s.facets := rfl
@[simp] theorem modCycle_engines (f : Cycle → Cycle) : (modCycle s f).engines = s.engines := rfl
@[simp] theorem modCycle_sems (f : Cycle → Cycle) : (modCycle s f).sems = s.sems := rfl
@[simp] theorem modCycle_links (f : Cycle → Cycle) : (modCycle s f).links = s.links := rfl
@[simp] theorem modCycle_semMsgs (f : Cycle → Cycle) : (modCycle s f).semMsgs = s.semMsgs := rfl
@[simp] theorem modCycle_grants (f : Cycle → Cycle) : (modCycle s f).grants = s.grants := rfl
@[simp] theorem modCycle_chans (f : Cycle → Cycle) : (modCycle s f).chans = s.chans := rfl
@[simp] theorem modCycle_jobs (f : Cycle → Cycle) : (modCycle s f).jobs = s.jobs := rfl
@[simp] theorem modCycle_portMerge (f : Cycle → Cycle) : (modCycle s f).portMerge = s.portMerge := rfl
@[simp] theorem modCycle_leafItems (f : Cycle → Cycle) : (modCycle s f).leafItems = s.leafItems := rfl
@[simp] theorem modCycle_earlyEnds (f : Cycle → Cycle) : (modCycle s f).earlyEnds = s.earlyEnds := rfl
@[simp] theorem modCycle_predictor (f : Cycle → Cycle) : (modCycle s f).predictor = s.predictor := rfl
@[simp] theorem modCycle_updates (f : Cycle → Cycle) : (modCycle s f).updates = s.updates := rfl
@[simp] theorem modCycle_paging (f : Cycle → Cycle) : (modCycle s f).paging = s.paging := rfl
@[simp] theorem modCycle_perms (f : Cycle → Cycle) : (modCycle s f).perms = s.perms := rfl
@[simp] theorem modCycle_permLoad (f : Cycle → Cycle) : (modCycle s f).permLoad = s.permLoad := rfl
@[simp] theorem modCycle_owners (f : Cycle → Cycle) : (modCycle s f).owners = s.owners := rfl
@[simp] theorem modCycle_ownerLoad (f : Cycle → Cycle) : (modCycle s f).ownerLoad = s.ownerLoad := rfl
@[simp] theorem modCycle_ports (f : Cycle → Cycle) : (modCycle s f).ports = s.ports := rfl
@[simp] theorem modCycle_reads (f : Cycle → Cycle) : (modCycle s f).reads = s.reads := rfl
@[simp] theorem modCycle_hif (f : Cycle → Cycle) : (modCycle s f).hif = s.hif := rfl
@[simp] theorem modCycle_mgmt (f : Cycle → Cycle) : (modCycle s f).mgmt = s.mgmt := rfl
@[simp] theorem modCycle_clamps (f : Cycle → Cycle) : (modCycle s f).clamps = s.clamps := rfl
@[simp] theorem modCycle_cyc (f : Cycle → Cycle) : (modCycle s f).cyc = f (thisCycle s) := rfl
@[simp] theorem modCycle_memOps (f : Cycle → Cycle) : (modCycle s f).memOps = s.memOps := rfl
@[simp] theorem modCycle_gates (f : Cycle → Cycle) : (modCycle s f).gates = s.gates := rfl
@[simp] theorem modCycle_wakes (f : Cycle → Cycle) : (modCycle s f).wakes = s.wakes := rfl
@[simp] theorem modCycle_masks (f : Cycle → Cycle) : (modCycle s f).masks = s.masks := rfl
@[simp] theorem modCycle_repair (f : Cycle → Cycle) : (modCycle s f).repair = s.repair := rfl
@[simp] theorem modCycle_power (f : Cycle → Cycle) : (modCycle s f).power = s.power := rfl
@[simp] theorem modCycle_outs (f : Cycle → Cycle) : (modCycle s f).outs = s.outs := rfl

/-! ### fset -/

@[simp] theorem fset_pending (f : Field) (v : Nat) : (fset s f v).pending = s.pending := rfl
@[simp] theorem fset_now (f : Field) (v : Nat) : (fset s f v).now = s.now := rfl
@[simp] theorem fset_free (f : Field) (v : Nat) : (fset s f v).free = s.free := rfl
@[simp] theorem fset_regs (f : Field) (v : Nat) : (fset s f v).regs = mapPut s.regs f.key (v % 2 ^ f.width) := rfl
@[simp] theorem fset_fmem (f : Field) (v : Nat) : (fset s f v).fmem = s.fmem := rfl
@[simp] theorem fset_imem (f : Field) (v : Nat) : (fset s f v).imem = s.imem := rfl
@[simp] theorem fset_sts (f : Field) (v : Nat) : (fset s f v).sts = s.sts := rfl
@[simp] theorem fset_far (f : Field) (v : Nat) : (fset s f v).far = s.far := rfl
@[simp] theorem fset_host (f : Field) (v : Nat) : (fset s f v).host = s.host := rfl
@[simp] theorem fset_flash (f : Field) (v : Nat) : (fset s f v).flash = s.flash := rfl
@[simp] theorem fset_seq (f : Field) (v : Nat) : (fset s f v).seq = s.seq := rfl
@[simp] theorem fset_facets (f : Field) (v : Nat) : (fset s f v).facets = s.facets := rfl
@[simp] theorem fset_engines (f : Field) (v : Nat) : (fset s f v).engines = s.engines := rfl
@[simp] theorem fset_sems (f : Field) (v : Nat) : (fset s f v).sems = s.sems := rfl
@[simp] theorem fset_links (f : Field) (v : Nat) : (fset s f v).links = s.links := rfl
@[simp] theorem fset_semMsgs (f : Field) (v : Nat) : (fset s f v).semMsgs = s.semMsgs := rfl
@[simp] theorem fset_grants (f : Field) (v : Nat) : (fset s f v).grants = s.grants := rfl
@[simp] theorem fset_chans (f : Field) (v : Nat) : (fset s f v).chans = s.chans := rfl
@[simp] theorem fset_jobs (f : Field) (v : Nat) : (fset s f v).jobs = s.jobs := rfl
@[simp] theorem fset_portMerge (f : Field) (v : Nat) : (fset s f v).portMerge = s.portMerge := rfl
@[simp] theorem fset_leafItems (f : Field) (v : Nat) : (fset s f v).leafItems = s.leafItems := rfl
@[simp] theorem fset_earlyEnds (f : Field) (v : Nat) : (fset s f v).earlyEnds = s.earlyEnds := rfl
@[simp] theorem fset_predictor (f : Field) (v : Nat) : (fset s f v).predictor = s.predictor := rfl
@[simp] theorem fset_updates (f : Field) (v : Nat) : (fset s f v).updates = s.updates := rfl
@[simp] theorem fset_paging (f : Field) (v : Nat) : (fset s f v).paging = s.paging := rfl
@[simp] theorem fset_perms (f : Field) (v : Nat) : (fset s f v).perms = s.perms := rfl
@[simp] theorem fset_permLoad (f : Field) (v : Nat) : (fset s f v).permLoad = s.permLoad := rfl
@[simp] theorem fset_owners (f : Field) (v : Nat) : (fset s f v).owners = s.owners := rfl
@[simp] theorem fset_ownerLoad (f : Field) (v : Nat) : (fset s f v).ownerLoad = s.ownerLoad := rfl
@[simp] theorem fset_ports (f : Field) (v : Nat) : (fset s f v).ports = s.ports := rfl
@[simp] theorem fset_reads (f : Field) (v : Nat) : (fset s f v).reads = s.reads := rfl
@[simp] theorem fset_hif (f : Field) (v : Nat) : (fset s f v).hif = s.hif := rfl
@[simp] theorem fset_mgmt (f : Field) (v : Nat) : (fset s f v).mgmt = s.mgmt := rfl
@[simp] theorem fset_clamps (f : Field) (v : Nat) : (fset s f v).clamps = s.clamps := rfl
@[simp] theorem fset_cyc (f : Field) (v : Nat) : (fset s f v).cyc = s.cyc := rfl
@[simp] theorem fset_memOps (f : Field) (v : Nat) : (fset s f v).memOps = s.memOps := rfl
@[simp] theorem fset_gates (f : Field) (v : Nat) : (fset s f v).gates = s.gates := rfl
@[simp] theorem fset_wakes (f : Field) (v : Nat) : (fset s f v).wakes = s.wakes := rfl
@[simp] theorem fset_masks (f : Field) (v : Nat) : (fset s f v).masks = s.masks := rfl
@[simp] theorem fset_repair (f : Field) (v : Nat) : (fset s f v).repair = s.repair := rfl
@[simp] theorem fset_power (f : Field) (v : Nat) : (fset s f v).power = s.power := rfl
@[simp] theorem fset_outs (f : Field) (v : Nat) : (fset s f v).outs = s.outs := rfl

/-! ### drawn -/

@[simp] theorem drawn_pending : (drawn s).pending = s.pending := rfl
@[simp] theorem drawn_now : (drawn s).now = s.now := rfl
@[simp] theorem drawn_free : (drawn s).free = s.free + 1 := rfl
@[simp] theorem drawn_regs : (drawn s).regs = s.regs := rfl
@[simp] theorem drawn_fmem : (drawn s).fmem = s.fmem := rfl
@[simp] theorem drawn_imem : (drawn s).imem = s.imem := rfl
@[simp] theorem drawn_sts : (drawn s).sts = s.sts := rfl
@[simp] theorem drawn_far : (drawn s).far = s.far := rfl
@[simp] theorem drawn_host : (drawn s).host = s.host := rfl
@[simp] theorem drawn_flash : (drawn s).flash = s.flash := rfl
@[simp] theorem drawn_seq : (drawn s).seq = s.seq := rfl
@[simp] theorem drawn_facets : (drawn s).facets = s.facets := rfl
@[simp] theorem drawn_engines : (drawn s).engines = s.engines := rfl
@[simp] theorem drawn_sems : (drawn s).sems = s.sems := rfl
@[simp] theorem drawn_links : (drawn s).links = s.links := rfl
@[simp] theorem drawn_semMsgs : (drawn s).semMsgs = s.semMsgs := rfl
@[simp] theorem drawn_grants : (drawn s).grants = s.grants := rfl
@[simp] theorem drawn_chans : (drawn s).chans = s.chans := rfl
@[simp] theorem drawn_jobs : (drawn s).jobs = s.jobs := rfl
@[simp] theorem drawn_portMerge : (drawn s).portMerge = s.portMerge := rfl
@[simp] theorem drawn_leafItems : (drawn s).leafItems = s.leafItems := rfl
@[simp] theorem drawn_earlyEnds : (drawn s).earlyEnds = s.earlyEnds := rfl
@[simp] theorem drawn_predictor : (drawn s).predictor = s.predictor := rfl
@[simp] theorem drawn_updates : (drawn s).updates = s.updates := rfl
@[simp] theorem drawn_paging : (drawn s).paging = s.paging := rfl
@[simp] theorem drawn_perms : (drawn s).perms = s.perms := rfl
@[simp] theorem drawn_permLoad : (drawn s).permLoad = s.permLoad := rfl
@[simp] theorem drawn_owners : (drawn s).owners = s.owners := rfl
@[simp] theorem drawn_ownerLoad : (drawn s).ownerLoad = s.ownerLoad := rfl
@[simp] theorem drawn_ports : (drawn s).ports = s.ports := rfl
@[simp] theorem drawn_reads : (drawn s).reads = s.reads := rfl
@[simp] theorem drawn_hif : (drawn s).hif = s.hif := rfl
@[simp] theorem drawn_mgmt : (drawn s).mgmt = s.mgmt := rfl
@[simp] theorem drawn_clamps : (drawn s).clamps = s.clamps := rfl
@[simp] theorem drawn_cyc : (drawn s).cyc = s.cyc := rfl
@[simp] theorem drawn_memOps : (drawn s).memOps = s.memOps := rfl
@[simp] theorem drawn_gates : (drawn s).gates = s.gates := rfl
@[simp] theorem drawn_wakes : (drawn s).wakes = s.wakes := rfl
@[simp] theorem drawn_masks : (drawn s).masks = s.masks := rfl
@[simp] theorem drawn_repair : (drawn s).repair = s.repair := rfl
@[simp] theorem drawn_power : (drawn s).power = s.power := rfl
@[simp] theorem drawn_outs : (drawn s).outs = s.outs := rfl

/-! ### emit -/

@[simp] theorem emit_pending (m : Msg) : (emit s m).pending = s.pending := rfl
@[simp] theorem emit_now (m : Msg) : (emit s m).now = s.now := rfl
@[simp] theorem emit_free (m : Msg) : (emit s m).free = s.free := rfl
@[simp] theorem emit_regs (m : Msg) : (emit s m).regs = s.regs := rfl
@[simp] theorem emit_fmem (m : Msg) : (emit s m).fmem = s.fmem := rfl
@[simp] theorem emit_imem (m : Msg) : (emit s m).imem = s.imem := rfl
@[simp] theorem emit_sts (m : Msg) : (emit s m).sts = s.sts := rfl
@[simp] theorem emit_far (m : Msg) : (emit s m).far = s.far := rfl
@[simp] theorem emit_host (m : Msg) : (emit s m).host = s.host := rfl
@[simp] theorem emit_flash (m : Msg) : (emit s m).flash = s.flash := rfl
@[simp] theorem emit_seq (m : Msg) : (emit s m).seq = s.seq := rfl
@[simp] theorem emit_facets (m : Msg) : (emit s m).facets = s.facets := rfl
@[simp] theorem emit_engines (m : Msg) : (emit s m).engines = s.engines := rfl
@[simp] theorem emit_sems (m : Msg) : (emit s m).sems = s.sems := rfl
@[simp] theorem emit_links (m : Msg) : (emit s m).links = s.links := rfl
@[simp] theorem emit_semMsgs (m : Msg) : (emit s m).semMsgs = s.semMsgs := rfl
@[simp] theorem emit_grants (m : Msg) : (emit s m).grants = s.grants := rfl
@[simp] theorem emit_chans (m : Msg) : (emit s m).chans = s.chans := rfl
@[simp] theorem emit_jobs (m : Msg) : (emit s m).jobs = s.jobs := rfl
@[simp] theorem emit_portMerge (m : Msg) : (emit s m).portMerge = s.portMerge := rfl
@[simp] theorem emit_leafItems (m : Msg) : (emit s m).leafItems = s.leafItems := rfl
@[simp] theorem emit_earlyEnds (m : Msg) : (emit s m).earlyEnds = s.earlyEnds := rfl
@[simp] theorem emit_predictor (m : Msg) : (emit s m).predictor = s.predictor := rfl
@[simp] theorem emit_updates (m : Msg) : (emit s m).updates = s.updates := rfl
@[simp] theorem emit_paging (m : Msg) : (emit s m).paging = s.paging := rfl
@[simp] theorem emit_perms (m : Msg) : (emit s m).perms = s.perms := rfl
@[simp] theorem emit_permLoad (m : Msg) : (emit s m).permLoad = s.permLoad := rfl
@[simp] theorem emit_owners (m : Msg) : (emit s m).owners = s.owners := rfl
@[simp] theorem emit_ownerLoad (m : Msg) : (emit s m).ownerLoad = s.ownerLoad := rfl
@[simp] theorem emit_ports (m : Msg) : (emit s m).ports = s.ports := rfl
@[simp] theorem emit_reads (m : Msg) : (emit s m).reads = s.reads := rfl
@[simp] theorem emit_hif (m : Msg) : (emit s m).hif = s.hif := rfl
@[simp] theorem emit_mgmt (m : Msg) : (emit s m).mgmt = s.mgmt := rfl
@[simp] theorem emit_clamps (m : Msg) : (emit s m).clamps = s.clamps := rfl
@[simp] theorem emit_cyc (m : Msg) : (emit s m).cyc = s.cyc := rfl
@[simp] theorem emit_memOps (m : Msg) : (emit s m).memOps = s.memOps := rfl
@[simp] theorem emit_gates (m : Msg) : (emit s m).gates = s.gates := rfl
@[simp] theorem emit_wakes (m : Msg) : (emit s m).wakes = s.wakes := rfl
@[simp] theorem emit_masks (m : Msg) : (emit s m).masks = s.masks := rfl
@[simp] theorem emit_repair (m : Msg) : (emit s m).repair = s.repair := rfl
@[simp] theorem emit_power (m : Msg) : (emit s m).power = s.power := rfl
@[simp] theorem emit_outs (m : Msg) : (emit s m).outs = s.outs ++ [⟨s.now, m⟩] := rfl

end Sys2Proof.Machine
end

