-- ==== Sys2Proof/Laws/Held.lean ====
section
/-! SUPPORT. What every effect of the part holds to: the queue and the clock stay as they are, and memories in canonical form stay so. -/

namespace Sys2Proof.Machine

/-- The queue is `p`, the clock reads `n`, and, where `b` says so, every memory is canonical. -/
def Held (p : List Instr) (n : Nat) (b : Bool) (s : State) : Prop :=
  s.pending = p ∧ s.now = n ∧ (b = true → Canonical s = true)

/-- The same of a command's answer: of its next state, if it answers one. -/
def HeldR (p : List Instr) (n : Nat) (b : Bool) (r : Res) : Prop := ∀ t, r = .next t → Held p n b t

/-- The same of an effect that may not happen. -/
def HeldO (p : List Instr) (n : Nat) (b : Bool) (r : Option State) : Prop := ∀ t, r = some t → Held p n b t

/-- The same of an effect with a result that may not happen. -/
def HeldP {α : Type} (p : List Instr) (n : Nat) (b : Bool) (r : Option (State × α)) : Prop := ∀ t a, r = some (t, a) → Held p n b t

/-- The same of an effect that may end in a reason. -/
def HeldX (p : List Instr) (n : Nat) (b : Bool) (r : Except Nat State) : Prop := ∀ t, r = .ok t → Held p n b t

/-- The same of an effect with a result that may end in a reason. -/
def HeldE {α : Type} (p : List Instr) (n : Nat) (b : Bool) (r : Except Nat (State × α)) : Prop := ∀ t a, r = .ok (t, a) → Held p n b t

variable {p : List Instr} {n : Nat} {b : Bool} {s : State} {α : Type}

theorem held_self (s : State) : Held s.pending s.now (Canonical s) s := ⟨rfl, rfl, id⟩

theorem canonical_iff (s : State) : Canonical s = true ↔ Memory.wf s.fmem = true ∧ Memory.wf s.imem = true ∧ Memory.wf s.sts = true
    ∧ Memory.wf s.far = true ∧ Memory.wf s.host = true ∧ Memory.wf s.flash = true := by
  simp only [Canonical, Bool.and_eq_true, and_assoc]

/-- An effect on anything but the queue, the clock and the memories. -/
theorem held_mk (s : State) (a1 a2 a3 a4 a5 a6 a7 a8 a9 a10 a11 a12 a13 a14 a15 a16 a17 a18 a19 a20 a21 a22 a23 a24 a25 a26 a27 a28 a29 a30 a31 a32 a33 a34) :
    Held p n b (State.mk s.pending s.now a1 a2 s.fmem s.imem s.sts s.far s.host s.flash a3 a4 a5 a6 a7 a8 a9 a10 a11 a12 a13 a14 a15 a16 a17 a18 a19
      a20 a21 a22 a23 a24 a25 a26 a27 a28 a29 a30 a31 a32 a33 a34) = Held p n b s := rfl

/-- An effect on the memories that keeps their form. -/
theorem held_mem (s t : State) (h : Held p n b s) (hp : t.pending = s.pending) (hn : t.now = s.now)
    (h1 : Memory.wf s.fmem = true → Memory.wf t.fmem = true) (h2 : Memory.wf s.imem = true → Memory.wf t.imem = true)
    (h3 : Memory.wf s.sts = true → Memory.wf t.sts = true) (h4 : Memory.wf s.far = true → Memory.wf t.far = true)
    (h5 : Memory.wf s.host = true → Memory.wf t.host = true) (h6 : Memory.wf s.flash = true → Memory.wf t.flash = true) : Held p n b t := by
  refine ⟨hp.trans h.1, hn.trans h.2.1, fun hb => ?_⟩
  have hc := (canonical_iff s).mp (h.2.2 hb)
  exact (canonical_iff t).mpr ⟨h1 hc.1, h2 hc.2.1, h3 hc.2.2.1, h4 hc.2.2.2.1, h5 hc.2.2.2.2.1, h6 hc.2.2.2.2.2⟩

/-- One memory replaced. -/
def putFmem (s : State) (m : Mem) : State := { s with fmem := m }
def putImem (s : State) (m : Mem) : State := { s with imem := m }
def putSts (s : State) (m : Mem) : State := { s with sts := m }
def putFar (s : State) (m : Mem) : State := { s with far := m }
def putHost (s : State) (m : Mem) : State := { s with host := m }
def putFlash (s : State) (m : Mem) : State := { s with flash := m }

theorem held_mkFmem (s : State) (m : Mem) (a1 a2 a3 a4 a5 a6 a7 a8 a9 a10 a11 a12 a13 a14 a15 a16 a17 a18 a19 a20 a21 a22 a23 a24 a25 a26 a27 a28 a29 a30 a31 a32 a33 a34) :
    Held p n b (State.mk s.pending s.now a1 a2 m s.imem s.sts s.far s.host s.flash a3 a4 a5 a6 a7 a8 a9 a10 a11 a12 a13 a14 a15 a16 a17 a18 a19 a20 a21 a22 a23 a24 a25 a26 a27 a28 a29 a30 a31 a32 a33 a34) = Held p n b (putFmem s m) := rfl

theorem putFmem_held {m : Mem} (h : Held p n b s) (hm : Memory.wf s.fmem = true → Memory.wf m = true) : Held p n b (putFmem s m) :=
  held_mem s _ h rfl rfl hm id id id id id

theorem held_mkImem (s : State) (m : Mem) (a1 a2 a3 a4 a5 a6 a7 a8 a9 a10 a11 a12 a13 a14 a15 a16 a17 a18 a19 a20 a21 a22 a23 a24 a25 a26 a27 a28 a29 a30 a31 a32 a33 a34) :
    Held p n b (State.mk s.pending s.now a1 a2 s.fmem m s.sts s.far s.host s.flash a3 a4 a5 a6 a7 a8 a9 a10 a11 a12 a13 a14 a15 a16 a17 a18 a19 a20 a21 a22 a23 a24 a25 a26 a27 a28 a29 a30 a31 a32 a33 a34) = Held p n b (putImem s m) := rfl

theorem putImem_held {m : Mem} (h : Held p n b s) (hm : Memory.wf s.imem = true → Memory.wf m = true) : Held p n b (putImem s m) :=
  held_mem s _ h rfl rfl id hm id id id id

theorem held_mkSts (s : State) (m : Mem) (a1 a2 a3 a4 a5 a6 a7 a8 a9 a10 a11 a12 a13 a14 a15 a16 a17 a18 a19 a20 a21 a22 a23 a24 a25 a26 a27 a28 a29 a30 a31 a32 a33 a34) :
    Held p n b (State.mk s.pending s.now a1 a2 s.fmem s.imem m s.far s.host s.flash a3 a4 a5 a6 a7 a8 a9 a10 a11 a12 a13 a14 a15 a16 a17 a18 a19 a20 a21 a22 a23 a24 a25 a26 a27 a28 a29 a30 a31 a32 a33 a34) = Held p n b (putSts s m) := rfl

theorem putSts_held {m : Mem} (h : Held p n b s) (hm : Memory.wf s.sts = true → Memory.wf m = true) : Held p n b (putSts s m) :=
  held_mem s _ h rfl rfl id id hm id id id

theorem held_mkFar (s : State) (m : Mem) (a1 a2 a3 a4 a5 a6 a7 a8 a9 a10 a11 a12 a13 a14 a15 a16 a17 a18 a19 a20 a21 a22 a23 a24 a25 a26 a27 a28 a29 a30 a31 a32 a33 a34) :
    Held p n b (State.mk s.pending s.now a1 a2 s.fmem s.imem s.sts m s.host s.flash a3 a4 a5 a6 a7 a8 a9 a10 a11 a12 a13 a14 a15 a16 a17 a18 a19 a20 a21 a22 a23 a24 a25 a26 a27 a28 a29 a30 a31 a32 a33 a34) = Held p n b (putFar s m) := rfl

theorem putFar_held {m : Mem} (h : Held p n b s) (hm : Memory.wf s.far = true → Memory.wf m = true) : Held p n b (putFar s m) :=
  held_mem s _ h rfl rfl id id id hm id id

theorem held_mkHost (s : State) (m : Mem) (a1 a2 a3 a4 a5 a6 a7 a8 a9 a10 a11 a12 a13 a14 a15 a16 a17 a18 a19 a20 a21 a22 a23 a24 a25 a26 a27 a28 a29 a30 a31 a32 a33 a34) :
    Held p n b (State.mk s.pending s.now a1 a2 s.fmem s.imem s.sts s.far m s.flash a3 a4 a5 a6 a7 a8 a9 a10 a11 a12 a13 a14 a15 a16 a17 a18 a19 a20 a21 a22 a23 a24 a25 a26 a27 a28 a29 a30 a31 a32 a33 a34) = Held p n b (putHost s m) := rfl

theorem putHost_held {m : Mem} (h : Held p n b s) (hm : Memory.wf s.host = true → Memory.wf m = true) : Held p n b (putHost s m) :=
  held_mem s _ h rfl rfl id id id id hm id

theorem held_mkFlash (s : State) (m : Mem) (a1 a2 a3 a4 a5 a6 a7 a8 a9 a10 a11 a12 a13 a14 a15 a16 a17 a18 a19 a20 a21 a22 a23 a24 a25 a26 a27 a28 a29 a30 a31 a32 a33 a34) :
    Held p n b (State.mk s.pending s.now a1 a2 s.fmem s.imem s.sts s.far s.host m a3 a4 a5 a6 a7 a8 a9 a10 a11 a12 a13 a14 a15 a16 a17 a18 a19 a20 a21 a22 a23 a24 a25 a26 a27 a28 a29 a30 a31 a32 a33 a34) = Held p n b (putFlash s m) := rfl

theorem putFlash_held {m : Mem} (h : Held p n b s) (hm : Memory.wf s.flash = true → Memory.wf m = true) : Held p n b (putFlash s m) :=
  held_mem s _ h rfl rfl id id id id id hm

theorem heldR_next {t : State} (h : Held p n b t) : HeldR p n b (.next t) := fun _ e => by cases e; exact h

theorem heldR_whenever {c : Bool} {t : State} (hs : Held p n b s) (ht : Held p n b t) : HeldR p n b (whenever c s t) := by
  unfold whenever; split <;> exact heldR_next ‹_›

theorem heldO_none : HeldO p n b none := fun _ e => by cases e

theorem heldO_some {t : State} (h : Held p n b t) : HeldO p n b (some t) := fun _ e => by cases e; exact h

theorem heldP_none : HeldP (α := α) p n b none := fun _ _ e => by cases e

theorem heldP_some {t : State} {a : α} (h : Held p n b t) : HeldP p n b (some (t, a)) := fun _ _ e => by cases e; exact h

theorem heldP_some' {x : State × α} (h : Held p n b x.1) : HeldP p n b (some x) := fun _ _ e => by cases e; exact h

theorem heldX_ok {t : State} (h : Held p n b t) : HeldX p n b (.ok t) := fun _ e => by cases e; exact h

theorem heldX_error {r : Nat} : HeldX p n b (.error r) := fun _ e => by cases e

theorem heldE_ok {t : State} {a : α} (h : Held p n b t) : HeldE p n b (.ok (t, a)) := fun _ _ e => by cases e; exact h

theorem heldE_ok' {x : State × α} (h : Held p n b x.1) : HeldE p n b (.ok x) := fun _ _ e => by cases e; exact h

theorem heldE_error {r : Nat} : HeldE (α := α) p n b (.error r) := fun _ _ e => by cases e

theorem heldO_getD {o : Option State} {t : State} (h : HeldO p n b o) (ht : Held p n b t) : Held p n b (o.getD t) := by
  cases o with
  | none => exact ht
  | some x => exact h x rfl

theorem heldO_orElse {o : Option State} {f : Unit → Option State} (h : HeldO p n b o) (hf : HeldO p n b (f ())) : HeldO p n b (o.orElse f) := by
  cases o with
  | none => exact hf
  | some x => exact h

theorem heldX_elim {r : Except Nat State} {t : State} (e : r = .ok t) (h : HeldX p n b r) : Held p n b t := h t e

theorem heldE_elim {r : Except Nat (State × α)} {t : State} {a : α} (e : r = .ok (t, a)) (h : HeldE p n b r) : Held p n b t := h t a e

theorem heldE_map {β : Type} {r : Except Nat (State × α)} {f : State × α → State × β} (h : HeldE p n b r) (hf : ∀ x, Held p n b x.1 → Held p n b (f x).1) :
    HeldE p n b (r.map f) := by
  cases r with
  | error k => exact fun _ _ e => by cases e
  | ok x => exact heldE_ok' (hf x (h x.1 x.2 rfl))

theorem heldX_mapE {r : Except Nat (State × α)} {f : State × α → State} (h : HeldE p n b r) (hf : ∀ x, Held p n b x.1 → Held p n b (f x)) :
    HeldX p n b (r.map f) := by
  cases r with
  | error k => exact fun _ e => by cases e
  | ok x => exact heldX_ok (hf x (h x.1 x.2 rfl))

theorem heldX_mapX {r : Except Nat State} {f : State → State} (h : HeldX p n b r) (hf : ∀ x, Held p n b x → Held p n b (f x)) :
    HeldX p n b (r.map f) := by
  cases r with
  | error k => exact fun _ e => by cases e
  | ok x => exact heldX_ok (hf x (h x rfl))

theorem heldO_elim {o : Option State} {t : State} (e : o = some t) (h : HeldO p n b o) : Held p n b t := h t e

theorem heldP_elim {o : Option (State × α)} {t : State} {a : α} (e : o = some (t, a)) (h : HeldP p n b o) : Held p n b t := h t a e

theorem heldP_elim' {o : Option (State × α)} {x : State × α} (e : o = some x) (h : HeldP p n b o) : Held p n b x.1 := h x.1 x.2 e

theorem heldO_map {β : Type} {o : Option β} {f : β → State} (h : ∀ x, o = some x → Held p n b (f x)) : HeldO p n b (o.map f) := by
  cases o with
  | none => exact fun _ e => by cases e
  | some x => exact fun _ e => by cases e; exact h x rfl

theorem heldP_map {β : Type} {o : Option β} {f : β → State × α} (h : ∀ x, o = some x → Held p n b (f x).1) : HeldP p n b (o.map f) := by
  cases o with
  | none => exact fun _ _ e => by cases e
  | some x => exact heldP_some' (h x rfl)

theorem heldP_foldlM {β : Type} (f : State × α → β → Option (State × α)) (xs : List β) (x : State × α) (h : Held p n b x.1)
    (hf : ∀ x y, Held p n b x.1 → HeldP p n b (f x y)) : HeldP p n b (xs.foldlM f x) := by
  induction xs generalizing x with
  | nil => exact heldP_some' h
  | cons y r ih =>
    intro t a e
    simp only [List.foldlM_cons, Option.bind_eq_bind] at e
    cases hc : f x y with
    | none => simp [hc] at e
    | some z => exact ih z (heldP_elim' hc (hf x y h)) t a (by simpa [hc] using e)

theorem heldE_foldlM {β : Type} (f : State × α → β → Except Nat (State × α)) (xs : List β) (x : State × α) (h : Held p n b x.1)
    (hf : ∀ x y, Held p n b x.1 → HeldE p n b (f x y)) : HeldE p n b (xs.foldlM f x) := by
  induction xs generalizing x with
  | nil => exact heldE_ok' h
  | cons y r ih =>
    intro t a e
    simp only [List.foldlM_cons] at e
    cases hc : f x y with
    | error k => simp [hc, bind, Except.bind] at e
    | ok z =>
      obtain ⟨z1, z2⟩ := z
      exact ih (z1, z2) (hf x y h z1 z2 hc) t a (by simpa [hc, bind, Except.bind] using e)

theorem heldR_elim {r : Res} {t : State} (e : r = .next t) (h : HeldR p n b r) : Held p n b t := h t e

theorem held_pair {x : State × α} {t : State} {a : α} (e : x = (t, a)) (h : Held p n b x.1) : Held p n b t := by subst e; exact h

theorem held_foldl {β : Type} (f : State → β → State) (xs : List β) (h : Held p n b s) (hf : ∀ s x, Held p n b s → Held p n b (f s x)) :
    Held p n b (xs.foldl f s) := by
  induction xs generalizing s with
  | nil => exact h
  | cons x r ih => exact ih (hf s x h)

theorem held_foldl_fst {β γ : Type} (f : State × γ → β → State × γ) (xs : List β) (x : State × γ) (h : Held p n b x.1)
    (hf : ∀ x y, Held p n b x.1 → Held p n b (f x y).1) : Held p n b (xs.foldl f x).1 := by
  induction xs generalizing x with
  | nil => exact h
  | cons y r ih => exact ih _ (hf x y h)

end Sys2Proof.Machine
end

