-- ==== Sys2Proof/Laws/HeldOps.lean ====
section
/-! SUPPORT. What the operations of Machine/Ops.lean keep: the queue, the clock and canonical memories. -/

set_option linter.unreachableTactic false
set_option linter.unusedTactic false
set_option linter.unusedVariables false
set_option linter.unusedSimpArgs false

namespace Sys2Proof.Machine

variable {hp : List Instr} {hn : Nat} {hb : Bool}

theorem fset_held (s : State) (f : Field) (v : Nat) (h_s : Held hp hn hb s) : Held hp hn hb (fset s f v) := by
  unfold fset
  try dsimp only
  repeat' (first | (with_reducible assumption) | (simp only [held_mk]) | split | (intro _))

theorem bump_held (s : State) (f : Field) (n : Nat) (h_s : Held hp hn hb s) : Held hp hn hb (bump s f n) := by
  unfold bump
  try dsimp only
  repeat' (first | (with_reducible assumption) | (with_reducible apply fset_held) | split | (intro _))

theorem modSeq_held (s : State) (f : Sequencer → Sequencer) (h_s : Held hp hn hb s) : Held hp hn hb (modSeq s f) := by
  unfold modSeq
  try dsimp only
  repeat' (first | (with_reducible assumption) | (simp only [held_mk]) | split | (intro _))

theorem modHif_held (s : State) (f : HostIf → HostIf) (h_s : Held hp hn hb s) : Held hp hn hb (modHif s f) := by
  unfold modHif
  try dsimp only
  repeat' (first | (with_reducible assumption) | (simp only [held_mk]) | split | (intro _))

theorem modMgmt_held (s : State) (f : Mgmt → Mgmt) (h_s : Held hp hn hb s) : Held hp hn hb (modMgmt s f) := by
  unfold modMgmt
  try dsimp only
  repeat' (first | (with_reducible assumption) | (simp only [held_mk]) | split | (intro _))

theorem modRepair_held (s : State) (f : Repair → Repair) (h_s : Held hp hn hb s) : Held hp hn hb (modRepair s f) := by
  unfold modRepair
  try dsimp only
  repeat' (first | (with_reducible assumption) | (simp only [held_mk]) | split | (intro _))

theorem modPower_held (s : State) (f : Power → Power) (h_s : Held hp hn hb s) : Held hp hn hb (modPower s f) := by
  unfold modPower
  try dsimp only
  repeat' (first | (with_reducible assumption) | (simp only [held_mk]) | split | (intro _))

theorem modPaging_held (s : State) (f : Paging → Paging) (h_s : Held hp hn hb s) : Held hp hn hb (modPaging s f) := by
  unfold modPaging
  try dsimp only
  repeat' (first | (with_reducible assumption) | (simp only [held_mk]) | split | (intro _))

theorem modFacet_held (s : State) (lf : Nat) (f : Facet → Facet) (h_s : Held hp hn hb s) : Held hp hn hb (modFacet s lf f) := by
  unfold modFacet
  try dsimp only
  repeat' (first | (with_reducible assumption) | (simp only [held_mk]) | split | (intro _))

theorem modCtx_held (s : State) (w : Who) (f : Ctx → Ctx) (h_s : Held hp hn hb s) : Held hp hn hb (modCtx s w f) := by
  unfold modCtx
  try dsimp only
  repeat' (first | (with_reducible assumption) | (with_reducible apply modFacet_held) | split | (intro _))

theorem modLat_held (s : State) (w : Who) (f : Lat → Lat) (h_s : Held hp hn hb s) : Held hp hn hb (modLat s w f) := by
  unfold modLat
  try dsimp only
  repeat' (first | (with_reducible assumption) | (with_reducible apply modFacet_held) | split | (intro _))

theorem modEngine_held (s : State) (e : Nat) (f : Engine → Engine) (h_s : Held hp hn hb s) : Held hp hn hb (modEngine s e f) := by
  unfold modEngine
  try dsimp only
  repeat' (first | (with_reducible assumption) | (simp only [held_mk]) | split | (intro _))

theorem modStream_held (s : State) (e h : Nat) (f : Stream → Stream) (h_s : Held hp hn hb s) : Held hp hn hb (modStream s e h f) := by
  unfold modStream
  try dsimp only
  repeat' (first | (with_reducible assumption) | (with_reducible apply modEngine_held) | (simp only [held_mk]) | split | (intro _))

theorem modSem_held (s : State) (n : Nat) (f : Sem → Sem) (h_s : Held hp hn hb s) : Held hp hn hb (modSem s n f) := by
  unfold modSem
  try dsimp only
  repeat' (first | (with_reducible assumption) | (simp only [held_mk]) | split | (intro _))

theorem modChan_held (s : State) (k : Nat) (f : Chan → Chan) (h_s : Held hp hn hb s) : Held hp hn hb (modChan s k f) := by
  unfold modChan
  try dsimp only
  repeat' (first | (with_reducible assumption) | (simp only [held_mk]) | split | (intro _))

theorem modPort_held (s : State) (p : Nat) (f : Port → Port) (h_s : Held hp hn hb s) : Held hp hn hb (modPort s p f) := by
  unfold modPort
  try dsimp only
  repeat' (first | (with_reducible assumption) | (simp only [held_mk]) | split | (intro _))

theorem modQp_held (s : State) (q : Nat) (f : Qp → Qp) (h_s : Held hp hn hb s) : Held hp hn hb (modQp s q f) := by
  unfold modQp
  try dsimp only
  repeat' (first | (with_reducible assumption) | (with_reducible apply modHif_held) | (simp only [held_mk]) | split | (intro _))

theorem modShadow_held (s : State) (q : Nat) (f : Shadow → Shadow) (h_s : Held hp hn hb s) : Held hp hn hb (modShadow s q f) := by
  unfold modShadow
  try dsimp only
  repeat' (first | (with_reducible assumption) | (with_reducible apply modRepair_held) | (simp only [held_mk]) | split | (intro _))

theorem modThrottle_held (s : State) (q : Nat) (f : Throttle → Throttle) (h_s : Held hp hn hb s) : Held hp hn hb (modThrottle s q f) := by
  unfold modThrottle
  try dsimp only
  repeat' (first | (with_reducible assumption) | (with_reducible apply modRepair_held) | (simp only [held_mk]) | split | (intro _))

theorem drawn_held (s : State) (h_s : Held hp hn hb s) : Held hp hn hb (drawn s) := by
  unfold drawn
  try dsimp only
  repeat' (first | (with_reducible assumption) | (simp only [held_mk]) | split | (intro _))

theorem emit_held (s : State) (m : Msg) (h_s : Held hp hn hb s) : Held hp hn hb (emit s m) := by
  unfold emit
  try dsimp only
  repeat' (first | (with_reducible assumption) | (simp only [held_mk]) | split | (intro _))

theorem sendVec_held (s : State) (v : Nat) (h_s : Held hp hn hb s) : Held hp hn hb (sendVec s v) := by
  unfold sendVec
  try dsimp only
  repeat' (first | (with_reducible assumption) | (with_reducible apply modHif_held) | (with_reducible apply emit_held) | (simp only [held_mk]) | split | (intro _))

theorem settle_held (old s : State) (h_s : Held hp hn hb s) : Held hp hn hb (settle old s) := by
  unfold settle
  try dsimp only
  repeat' (first | (with_reducible assumption) | (with_reducible apply sendVec_held) | (with_reducible apply modHif_held) | (simp only [held_mk]) | split | (intro _))

theorem modCycle_held (s : State) (f : Cycle → Cycle) (h_s : Held hp hn hb s) : Held hp hn hb (modCycle s f) := by
  unfold modCycle
  try dsimp only
  repeat' (first | (with_reducible assumption) | (simp only [held_mk]) | split | (intro _))

theorem setBits_held (s : State) (f : Field) (bits : Nat) (h_s : Held hp hn hb s) : Held hp hn hb (setBits s f bits) := by
  unfold setBits
  try dsimp only
  repeat' (first | (with_reducible assumption) | (with_reducible apply modCycle_held) | (with_reducible apply settle_held) | (with_reducible apply fset_held) | (simp only [held_mk]) | split | (intro _))

theorem setFlag_held (s : State) (f : Field) (h_s : Held hp hn hb s) : Held hp hn hb (setFlag s f) := by
  unfold setFlag
  try dsimp only
  repeat' (first | (with_reducible assumption) | (with_reducible apply setBits_held) | split | (intro _))

theorem setFlagBit_held (s : State) (f : Field) (i : Nat) (h_s : Held hp hn hb s) : Held hp hn hb (setFlagBit s f i) := by
  unfold setFlagBit
  try dsimp only
  repeat' (first | (with_reducible assumption) | (with_reducible apply setBits_held) | split | (intro _))

theorem event_held (s : State) (f c : Field) (h_s : Held hp hn hb s) : Held hp hn hb (event s f c) := by
  unfold event
  try dsimp only
  repeat' (first | (with_reducible assumption) | (with_reducible apply setFlag_held) | (with_reducible apply bump_held) | split | (intro _))

theorem hostErr_held (s : State) (bar : Nat) (isWrite : Bool) (addr size cause : Nat) (h_s : Held hp hn hb s) : Held hp hn hb (hostErr s bar isWrite addr size cause) := by
  unfold hostErr
  try dsimp only
  repeat' (first | (with_reducible assumption) | (with_reducible apply fset_held) | (with_reducible apply event_held) | split | (intro _))

theorem logEvent_held (s : State) (code : Nat) (detail : List Byte) (h_s : Held hp hn hb s) : Held hp hn hb (logEvent s code detail) := by
  unfold logEvent
  try dsimp only
  repeat' (first | (with_reducible assumption) | (with_reducible apply modMgmt_held) | (simp only [held_mk]) | split | (intro _))

theorem errorRec_held (s : State) (cls unit index ev task detail : Nat) (h_s : Held hp hn hb s) : Held hp hn hb (errorRec s cls unit index ev task detail) := by
  unfold errorRec
  try dsimp only
  repeat' (first | (with_reducible assumption) | (with_reducible apply modSeq_held) | (with_reducible apply bump_held) | (with_reducible apply modMgmt_held) | (with_reducible apply logEvent_held) | (simp only [held_mk]) | split | (intro _))

theorem hostWrite_held (s : State) (a : Nat) (bs : List Byte) (h_s : Held hp hn hb s) : Held hp hn hb (hostWrite s a bs) := by
  unfold hostWrite
  try dsimp only
  repeat' (first | (with_reducible assumption) | (with_reducible apply modHif_held) | (with_reducible apply putHost_held) | (with_reducible apply wf_memWrite) | (simp only [held_mk]) | (simp only [held_mkHost]) | split | (intro _))

theorem writeCpl_held (s : State) (c : HostCmd) (status result info : Nat) (h_s : Held hp hn hb s) : Held hp hn hb (writeCpl s c status result info) := by
  unfold writeCpl
  try dsimp only
  repeat' (first | (with_reducible assumption) | (with_reducible apply fset_held) | (with_reducible apply bump_held) | (with_reducible apply sendVec_held) | (with_reducible apply putHost_held) | (with_reducible apply wf_memWrite) | (simp only [held_mk]) | (simp only [held_mkHost]) | split | (intro _))

theorem complete_held (s : State) (c : HostCmd) (status result info : Nat) (h_s : Held hp hn hb s) : Held hp hn hb (complete s c status result info) := by
  unfold complete
  try dsimp only
  repeat' (first | (with_reducible assumption) | (with_reducible apply modQp_held) | (with_reducible apply writeCpl_held) | (with_reducible apply modHif_held) | (simp only [held_mk]) | split | (intro _))

theorem fmemTouch_held (s : State) (pf : Nat) (as : List Nat) (h_s : Held hp hn hb s) : Held hp hn hb (fmemTouch s pf as) := by
  unfold fmemTouch
  try dsimp only
  repeat' (first | (with_reducible assumption) | (with_reducible apply setFlag_held) | (with_reducible apply bump_held) | split | (intro _))

theorem fmemStore_held (s : State) (pf : Nat) (ws : List (Nat × Byte)) (h_s : Held hp hn hb s) : Held hp hn hb (fmemStore s pf ws) := by
  unfold fmemStore
  try dsimp only
  repeat' (first | (with_reducible assumption) | (with_reducible apply putFmem_held) | (with_reducible apply wf_memPuts) | (simp only [held_mk]) | (simp only [held_mkFmem]) | split | (intro _))

theorem countDropped_held (s : State) (pf : Nat) (ws : List (Nat × Byte)) (h_s : Held hp hn hb s) : Held hp hn hb (countDropped s pf ws) := by
  unfold countDropped
  try dsimp only
  repeat' (first | (with_reducible assumption) | (with_reducible apply setFlag_held) | (with_reducible apply bump_held) | split | (intro _))

theorem fmemPut_held (s : State) (pf : Nat) (ws : List (Nat × Byte)) (h_s : Held hp hn hb s) : Held hp hn hb (fmemPut s pf ws) := by
  unfold fmemPut
  try dsimp only
  repeat' (first | (with_reducible assumption) | (with_reducible apply countDropped_held) | (with_reducible apply modCycle_held) | (with_reducible apply fmemStore_held) | (simp only [held_mk]) | split | (intro _))

theorem fmemPutNarrow_held (s : State) (pf : Nat) (ws : List (Nat × Byte)) (h_s : Held hp hn hb s) : Held hp hn hb (fmemPutNarrow s pf ws) := by
  unfold fmemPutNarrow
  try dsimp only
  repeat' (first | (with_reducible assumption) | (with_reducible apply countDropped_held) | (with_reducible apply fmemStore_held) | split | (intro _))

theorem serveLines_held (s : State) (unit : Option Nat) (isWrite : Bool) (lines : List Nat) (h_s : Held hp hn hb s) : Held hp hn hb (serveLines s unit isWrite lines) := by
  unfold serveLines
  try dsimp only
  repeat' (first | (with_reducible assumption) | (with_reducible apply bump_held) | (with_reducible apply held_foldl) | (with_reducible apply held_foldl_fst) | split | (intro _))

theorem countLines_held (s : State) (unit : Option Nat) (isWrite : Bool) (as : List Nat) (h_s : Held hp hn hb s) : Held hp hn hb (countLines s unit isWrite as) := by
  unfold countLines
  try dsimp only
  repeat' (first | (with_reducible assumption) | (with_reducible apply serveLines_held) | split | (intro _))

theorem countRange_held (s : State) (unit : Option Nat) (isWrite : Bool) (a n : Nat) (h_s : Held hp hn hb s) : Held hp hn hb (countRange s unit isWrite a n) := by
  unfold countRange
  try dsimp only
  repeat' (first | (with_reducible assumption) | (with_reducible apply serveLines_held) | split | (intro _))

theorem healWords_held (s : State) (whole : Nat → Bool) (h_s : Held hp hn hb s) : Held hp hn hb (healWords s whole) := by
  unfold healWords
  try dsimp only
  repeat' (first | (with_reducible assumption) | (with_reducible apply modPaging_held) | (simp only [held_mk]) | split | (intro _))

theorem stsPut_held (s : State) (unit : Option Nat) (ws : List (Nat × Byte)) (h_s : Held hp hn hb s) : Held hp hn hb (stsPut s unit ws) := by
  unfold stsPut
  try dsimp only
  repeat' (first | (with_reducible assumption) | (with_reducible apply countLines_held) | (with_reducible apply healWords_held) | (with_reducible apply putSts_held) | (with_reducible apply wf_memPuts) | (simp only [held_mk]) | (simp only [held_mkSts]) | split | (intro _))

theorem stsWrite_held (s : State) (unit : Option Nat) (a : Nat) (bs : List Byte) (h_s : Held hp hn hb s) : Held hp hn hb (stsWrite s unit a bs) := by
  unfold stsWrite
  try dsimp only
  repeat' (first | (with_reducible assumption) | (with_reducible apply countRange_held) | (with_reducible apply healWords_held) | (with_reducible apply putSts_held) | (with_reducible apply wf_memWrite) | (simp only [held_mk]) | (simp only [held_mkSts]) | split | (intro _))

theorem setPte_held (s : State) (vpn v : Nat) (h_s : Held hp hn hb s) : Held hp hn hb (setPte s vpn v) := by
  unfold setPte
  try dsimp only
  repeat' (first | (with_reducible assumption) | (with_reducible apply stsWrite_held) | split | (intro _))

theorem cacheLookup_held (s : State) (vpn : Nat) (h_s : Held hp hn hb s) : Held hp hn hb (cacheLookup s vpn) := by
  unfold cacheLookup
  try dsimp only
  repeat' (first | (with_reducible assumption) | (with_reducible apply modPaging_held) | (with_reducible apply bump_held) | (with_reducible apply countLines_held) | (simp only [held_mk]) | split | (intro _))

end Sys2Proof.Machine
end

