-- ==== Sys2Proof/Laws/HeldDescriptor.lean ====
section
/-! SUPPORT. What the operations of Machine/Descriptor.lean keep: the queue, the clock and canonical memories. -/

set_option linter.unreachableTactic false
set_option linter.unusedTactic false
set_option linter.unusedVariables false
set_option linter.unusedSimpArgs false

namespace Sys2Proof.Machine

variable {hp : List Instr} {hn : Nat} {hb : Bool}

theorem setTd_held (s : State) (lf h : Nat) (d : Option Td) (h_s : Held hp hn hb s) : Held hp hn hb (setTd s lf h d) := by
  unfold setTd
  try dsimp only
  repeat' (first | (with_reducible assumption) | (with_reducible apply modFacet_held) | (simp only [held_mk]) | split | (intro _))

end Sys2Proof.Machine
end

