-- ==== Sys2Proof/Laws/HeldPacket.lean ====
section
/-! SUPPORT. What the operations of Machine/Packet.lean keep: the queue, the clock and canonical memories. -/

set_option linter.unreachableTactic false
set_option linter.unusedTactic false
set_option linter.unusedVariables false
set_option linter.unusedSimpArgs false

namespace Sys2Proof.Machine

variable {hp : List Instr} {hn : Nat} {hb : Bool}

theorem queueOn_held (s : State) (p : Nat) (bytes : List Byte) (vc : Nat) (forwarded : Bool) (mcast : Option Nat) (o : Origin) (h_s : Held hp hn hb s) : Held hp hn hb (queueOn s p bytes vc forwarded mcast o) := by
  unfold queueOn
  try dsimp only
  repeat' (first | (with_reducible assumption) | (with_reducible apply modPort_held) | (simp only [held_mk]) | split | (intro _))

theorem chordDrop_held (s : State) (h_s : Held hp hn hb s) : Held hp hn hb (chordDrop s) := by
  unfold chordDrop
  try dsimp only
  repeat' (first | (with_reducible assumption) | (with_reducible apply event_held) | split | (intro _))

theorem leaveJob_held (s : State) (n : Nat) (which : Nat → Bool) (h_s : Held hp hn hb s) : Held hp hn hb (leaveJob s n which) := by
  unfold leaveJob
  try dsimp only
  repeat' (first | (with_reducible assumption) | (simp only [held_mk]) | split | (intro _))

theorem freeJob_held (s : State) (n : Nat) (h_s : Held hp hn hb s) : Held hp hn hb (freeJob s n) := by
  unfold freeJob
  try dsimp only
  repeat' (first | (with_reducible assumption) | (with_reducible apply leaveJob_held) | (simp only [held_mk]) | split | (intro _))

theorem setJob_held (s : State) (n : Nat) (j : Job) (h_s : Held hp hn hb s) : Held hp hn hb (setJob s n j) := by
  unfold setJob
  try dsimp only
  repeat' (first | (with_reducible assumption) | (with_reducible apply freeJob_held) | (simp only [held_mk]) | split | (intro _))

theorem endLeaf_held (s : State) (n l : Nat) (aborted : Bool) (h_s : Held hp hn hb s) : Held hp hn hb (endLeaf s n l aborted) := by
  unfold endLeaf
  try dsimp only
  repeat' (first | (with_reducible assumption) | (with_reducible apply leaveJob_held) | (with_reducible apply setJob_held) | (simp only [held_mk]) | split | (intro _))

theorem sendMergeEnd_held (s : State) (e chip job : Nat) (aborted : Bool) (h_s : Held hp hn hb s) : Held hp hn hb (sendMergeEnd s e chip job aborted) := by
  unfold sendMergeEnd
  try dsimp only
  repeat' (first | (with_reducible assumption) | (with_reducible apply endLeaf_held) | (with_reducible apply chordDrop_held) | (with_reducible apply queueOn_held) | split | (intro _))

theorem resultEnds_held (s : State) (j : Job) (aborted : Bool) (h_s : Held hp hn hb s) : Held hp hn hb (resultEnds s j aborted) := by
  unfold resultEnds
  try dsimp only
  repeat' (first | (with_reducible assumption) | (with_reducible apply sendMergeEnd_held) | (with_reducible apply held_foldl) | (with_reducible apply held_foldl_fst) | (simp only [held_mk]) | split | (intro _))

theorem oweCredits_held (s : State) (p : Nat) (bytes : List Byte) (h_s : Held hp hn hb s) : Held hp hn hb (oweCredits s p bytes) := by
  unfold oweCredits
  try dsimp only
  repeat' (first | (with_reducible assumption) | (with_reducible apply modPort_held) | (simp only [held_mk]) | split | (intro _))

theorem streamEnds_held (s : State) (e : Nat) (st : Stream) (aborted : Bool) (h_s : Held hp hn hb s) : Held hp hn hb (streamEnds s e st aborted) := by
  unfold streamEnds
  try dsimp only
  repeat' (first | (with_reducible assumption) | (with_reducible apply sendMergeEnd_held) | (with_reducible apply held_foldl) | (with_reducible apply held_foldl_fst) | split | (intro _))

end Sys2Proof.Machine
end

