-- ==== Sys2Proof/Laws/HeldFlight.lean ====
section
/-! SUPPORT. What the operations of Machine/Flight.lean keep: the queue, the clock and canonical memories. -/

set_option linter.unreachableTactic false
set_option linter.unusedTactic false
set_option linter.unusedVariables false
set_option linter.unusedSimpArgs false

namespace Sys2Proof.Machine

variable {hp : List Instr} {hn : Nat} {hb : Bool}

theorem settleFlights_held (s : State) (h_s : Held hp hn hb s) : Held hp hn hb (settleFlights s) := by
  unfold settleFlights
  try dsimp only
  repeat' (first | (with_reducible assumption) | (simp only [held_mk]) | split | (intro _))

end Sys2Proof.Machine
end

