-- ==== Sys2Proof/Laws/HeldChan.lean ====
section
/-! SUPPORT. What the operations of Machine/Chan.lean keep: the queue, the clock and canonical memories. -/

set_option linter.unreachableTactic false
set_option linter.unusedTactic false
set_option linter.unusedVariables false
set_option linter.unusedSimpArgs false

namespace Sys2Proof.Machine

variable {hp : List Instr} {hn : Nat} {hb : Bool}

theorem countFill_held (s : State) (task lf : Nat) (as : List Nat) (h_s : Held hp hn hb s) : Held hp hn hb (countFill s task lf as) := by
  unfold countFill
  try dsimp only
  repeat' (first | (with_reducible assumption) | (with_reducible apply held_foldl) | (with_reducible apply held_foldl_fst) | (simp only [held_mk]) | split | (intro _))

theorem chanEvent_held (s : State) (k : Nat) (ev : ChanEvent) (h_s : Held hp hn hb s) : Held hp hn hb (chanEvent s k ev) := by
  unfold chanEvent
  try dsimp only
  repeat' (first | (with_reducible assumption) | (with_reducible apply modCycle_held) | (with_reducible apply modChan_held) | (simp only [held_mk]) | split | (intro _))

theorem chanFlush_held (s : State) (e : ChanEntry) (k : Nat) (f : Flight) (h_s : Held hp hn hb s) : Held hp hn hb (chanFlush s e k f) := by
  unfold chanFlush
  try dsimp only
  repeat' (first | (with_reducible assumption) | (with_reducible apply modChan_held) | (with_reducible apply modSem_held) | (simp only [held_mk]) | split | (intro _))

end Sys2Proof.Machine
end

