-- ==== Sys2Proof/Laws/HeldAbort.lean ====
section
/-! SUPPORT. What the operations of Machine/Abort.lean keep: the queue, the clock and canonical memories. -/

set_option linter.unreachableTactic false
set_option linter.unusedTactic false
set_option linter.unusedVariables false
set_option linter.unusedSimpArgs false

namespace Sys2Proof.Machine

variable {hp : List Instr} {hn : Nat} {hb : Bool}

theorem modTask_held (s : State) (id : Nat) (f : TaskRec → TaskRec) (h_s : Held hp hn hb s) : Held hp hn hb (modTask s id f) := by
  unfold modTask
  try dsimp only
  repeat' (first | (with_reducible assumption) | (with_reducible apply modSeq_held) | (simp only [held_mk]) | split | (intro _) | (simp only [id_eq]))

theorem chanProducerEnd_held (s : State) (k : Nat) (f : Flight) (h_s : Held hp hn hb s) : Held hp hn hb (chanProducerEnd s k f) := by
  unfold chanProducerEnd
  try dsimp only
  repeat' (first | (with_reducible assumption) | (with_reducible apply modChan_held) | (simp only [held_mk]) | split | (intro _))

theorem chanConsumerEnd_held (s : State) (e : ChanEntry) (k : Nat) (f : Flight) (h_s : Held hp hn hb s) : Held hp hn hb (chanConsumerEnd s e k f) := by
  unfold chanConsumerEnd
  try dsimp only
  repeat' (first | (with_reducible assumption) | (with_reducible apply chanFlush_held) | (with_reducible apply modChan_held) | (with_reducible apply modSem_held) | (simp only [held_mk]) | split | (intro _))

theorem chansEnd_held (old s : State) (id : Nat) (h_s : Held hp hn hb s) : Held hp hn hb (chansEnd old s id) := by
  unfold chansEnd
  try dsimp only
  repeat' (first | (with_reducible assumption) | (with_reducible apply chanProducerEnd_held) | (with_reducible apply chanConsumerEnd_held) | (with_reducible apply held_foldl) | (with_reducible apply held_foldl_fst) | split | (intro _) | (simp only [id_eq]))

theorem semDirty_held (s : State) (sem : Nat) (h_s : Held hp hn hb s) : Held hp hn hb (semDirty s sem) := by
  unfold semDirty
  try dsimp only
  repeat' (first | (with_reducible assumption) | (with_reducible apply modChan_held) | (with_reducible apply held_foldl) | (with_reducible apply held_foldl_fst) | split | (intro _) | (simp only [id_eq]))

theorem grant_held (s : State) (m : SemMsg) (left : Nat) (took : Bool) (h_s : Held hp hn hb s) : Held hp hn hb (grant s m left took) := by
  unfold grant
  try dsimp only
  repeat' (first | (with_reducible assumption) | (simp only [held_mk]) | split | (intro _))

theorem serveWaiters_held (sem fuel : Nat) : ∀ (s : State), Held hp hn hb s → Held hp hn hb (serveWaiters s sem fuel) := by
  induction fuel with
  | zero => intro s h; exact h
  | succ k ih =>
    intro s h
    unfold serveWaiters
    dsimp only
    repeat' (first | (with_reducible assumption) | (with_reducible apply grant_held) | (with_reducible apply modSem_held) | (with_reducible apply ih) | split)

theorem serve_held (s : State) (sem : Nat) (h_s : Held hp hn hb s) : Held hp hn hb (serve s sem) := by
  unfold serve
  try dsimp only
  repeat' (first | (with_reducible assumption) | (with_reducible apply serveWaiters_held) | split | (intro _))

theorem withdrawWaits_held (s : State) (w : Who) (h_s : Held hp hn hb s) : Held hp hn hb (withdrawWaits s w) := by
  unfold withdrawWaits
  try dsimp only
  repeat' (first | (with_reducible assumption) | (with_reducible apply semDirty_held) | (with_reducible apply serve_held) | (with_reducible apply modSem_held) | (with_reducible apply held_foldl) | (with_reducible apply held_foldl_fst) | (simp only [held_mk]) | split | (intro _))

theorem sendEnds_held (s : State) (w : Who) (aborted : Bool) (e : Nat) (h_s : Held hp hn hb s) : Held hp hn hb (sendEnds s w aborted e) := by
  unfold sendEnds
  try dsimp only
  repeat' (first | (with_reducible assumption) | (with_reducible apply modEngine_held) | (with_reducible apply streamEnds_held) | (with_reducible apply held_foldl) | (with_reducible apply held_foldl_fst) | (simp only [held_mk]) | split | (intro _))

theorem closeStreams_held (s : State) (w : Who) (state : Nat) (e : Nat) (h_s : Held hp hn hb s) : Held hp hn hb (closeStreams s w state e) := by
  unfold closeStreams
  try dsimp only
  repeat' (first | (with_reducible assumption) | (with_reducible apply modEngine_held) | (simp only [held_mk]) | split | (intro _))

theorem dropTransfers_held (s : State) (w : Who) (h_s : Held hp hn hb s) : Held hp hn hb (dropTransfers s w) := by
  unfold dropTransfers
  try dsimp only
  repeat' (first | (with_reducible assumption) | (with_reducible apply modEngine_held) | (with_reducible apply held_foldl) | (with_reducible apply held_foldl_fst) | (simp only [held_mk]) | split | (intro _))

theorem abortPush_held (s : State) (lf n : Nat) (h_s : Held hp hn hb s) : Held hp hn hb (abortPush s lf n) := by
  unfold abortPush
  try dsimp only
  repeat' (first | (with_reducible assumption) | (with_reducible apply endLeaf_held) | (simp only [held_mk]) | split | (intro _))

theorem closeJob_held (s : State) (n : Nat) (j : Job) (h_s : Held hp hn hb s) : Held hp hn hb (closeJob s n j) := by
  unfold closeJob
  try dsimp only
  repeat' (first | (with_reducible assumption) | (with_reducible apply resultEnds_held) | (with_reducible apply setJob_held) | (with_reducible apply bump_held) | (simp only [held_mk]) | split | (intro _))

theorem abortMerge_held (s : State) (w : Who) (h_s : Held hp hn hb s) : Held hp hn hb (abortMerge s w) := by
  unfold abortMerge
  try dsimp only
  repeat' (first | (with_reducible assumption) | (with_reducible apply abortPush_held) | (with_reducible apply closeJob_held) | (with_reducible apply held_foldl) | (with_reducible apply held_foldl_fst) | split | (intro _))

theorem dropUnits_held (s : State) (w : Who) (h_s : Held hp hn hb s) : Held hp hn hb (dropUnits s w) := by
  unfold dropUnits
  try dsimp only
  repeat' (first | (with_reducible assumption) | (simp only [held_mk]) | split | (intro _))

theorem stopShadow_held (s : State) (q : Nat) (h_s : Held hp hn hb s) : Held hp hn hb (stopShadow s q) := by
  unfold stopShadow
  try dsimp only
  repeat' (first | (with_reducible assumption) | (with_reducible apply bump_held) | (with_reducible apply modShadow_held) | (simp only [held_mk]) | split | (intro _))

theorem abandonShadow_held (s : State) (lf id : Nat) (h_s : Held hp hn hb s) : Held hp hn hb (abandonShadow s lf id) := by
  unfold abandonShadow
  try dsimp only
  repeat' (first | (with_reducible assumption) | (with_reducible apply stopShadow_held) | split | (intro _) | (simp only [id_eq]))

theorem setFacetMap_held (s : State) (lf pf : Nat) (h_s : Held hp hn hb s) : Held hp hn hb (setFacetMap s lf pf) := by
  unfold setFacetMap
  try dsimp only
  repeat' (first | (with_reducible assumption) | (with_reducible apply bump_held) | (with_reducible apply fset_held) | (with_reducible apply drawn_held) | (with_reducible apply modSeq_held) | (simp only [held_mk]) | split | (intro _))

theorem retireFacet_held (s : State) (pf : Nat) (h_s : Held hp hn hb s) : Held hp hn hb (retireFacet s pf) := by
  unfold retireFacet
  try dsimp only
  repeat' (first | (with_reducible assumption) | (with_reducible apply fset_held) | split | (intro _))

theorem unmappedRec_held (s : State) (lf : Nat) (h_s : Held hp hn hb s) : Held hp hn hb (unmappedRec s lf) := by
  unfold unmappedRec
  try dsimp only
  repeat' (first | (with_reducible assumption) | (with_reducible apply setFlag_held) | (with_reducible apply errorRec_held) | split | (intro _))

theorem unmapFacet_held (s : State) (lf : Nat) (h_s : Held hp hn hb s) : Held hp hn hb (unmapFacet s lf) := by
  unfold unmapFacet
  try dsimp only
  repeat' (first | (with_reducible assumption) | (with_reducible apply unmappedRec_held) | (with_reducible apply setFacetMap_held) | split | (intro _))

theorem startSwap_held (s : State) (lf : Nat) (h_s : Held hp hn hb s) : Held hp hn hb (startSwap s lf) := by
  unfold startSwap
  try dsimp only
  repeat' (first | (with_reducible assumption) | (with_reducible apply unmapFacet_held) | (with_reducible apply retireFacet_held) | (with_reducible apply stopShadow_held) | (with_reducible apply fset_held) | (with_reducible apply modSeq_held) | (with_reducible apply modRepair_held) | (simp only [held_mk]) | split | (intro _))

theorem extendWatchdogs_held (s : State) (len : Nat) (h_s : Held hp hn hb s) : Held hp hn hb (extendWatchdogs s len) := by
  unfold extendWatchdogs
  try dsimp only
  repeat' (first | (with_reducible assumption) | (simp only [held_mk]) | split | (intro _))

theorem leaveSplit_held (s : State) (lf : Nat) (h_s : Held hp hn hb s) : Held hp hn hb (leaveSplit s lf) := by
  unfold leaveSplit
  try dsimp only
  repeat' (first | (with_reducible assumption) | (with_reducible apply modFacet_held) | (simp only [held_mk]) | split | (intro _))

theorem facetFreed_held (s : State) (lf : Nat) (h_s : Held hp hn hb s) : Held hp hn hb (facetFreed s lf) := by
  unfold facetFreed
  try dsimp only
  repeat' (first | (with_reducible assumption) | (with_reducible apply leaveSplit_held) | (with_reducible apply startSwap_held) | (with_reducible apply modRepair_held) | (simp only [held_mk]) | split | (intro _))

theorem stopUpdate_held (s : State) (w : Who) (c : ECmd) (h_s : Held hp hn hb s) : Held hp hn hb (stopUpdate s w c) := by
  unfold stopUpdate
  try dsimp only
  repeat' (first | (with_reducible assumption) | (with_reducible apply drawn_held) | (with_reducible apply stsPut_held) | (with_reducible apply bump_held) | split | (intro _))

theorem renewBuffers_held (s : State) (lf : Nat) (a b : Bool) (h_s : Held hp hn hb s) : Held hp hn hb (renewBuffers s lf a b) := by
  unfold renewBuffers
  try dsimp only
  repeat' (first | (with_reducible assumption) | (with_reducible apply drawn_held) | (with_reducible apply modFacet_held) | (simp only [held_mk]) | split | (intro _))

theorem freeRows_held (s : State) (w : Who) (h_s : Held hp hn hb s) : Held hp hn hb (freeRows s w) := by
  unfold freeRows
  try dsimp only
  repeat' (first | (with_reducible assumption) | (with_reducible apply drawn_held) | (with_reducible apply modFacet_held) | (simp only [held_mk]) | split | (intro _))

theorem stopLattice_held (s : State) (w : Who) (h_s : Held hp hn hb s) : Held hp hn hb (stopLattice s w) := by
  unfold stopLattice
  try dsimp only
  repeat' (first | (with_reducible assumption) | (with_reducible apply renewBuffers_held) | (with_reducible apply modLat_held) | (with_reducible apply freeRows_held) | split | (intro _))

theorem leavePartial_held (s : State) (w : Who) (h_s : Held hp hn hb s) : Held hp hn hb (leavePartial s w) := by
  unfold leavePartial
  try dsimp only
  repeat' (first | (with_reducible assumption) | (with_reducible apply drawn_held) | (with_reducible apply fmemPut_held) | (with_reducible apply countFill_held) | (with_reducible apply stopUpdate_held) | (with_reducible apply held_foldl) | (with_reducible apply held_foldl_fst) | split | (intro _))

theorem stopTask_held (s : State) (w : Who) (id reason : Nat) (h_s : Held hp hn hb s) : Held hp hn hb (stopTask s w id reason) := by
  unfold stopTask
  try dsimp only
  repeat' (first | (with_reducible assumption) | (with_reducible apply withdrawWaits_held) | (with_reducible apply stopLattice_held) | (with_reducible apply leavePartial_held) | (with_reducible apply dropTransfers_held) | (with_reducible apply sendEnds_held) | (with_reducible apply closeStreams_held) | (with_reducible apply abortMerge_held) | (with_reducible apply dropUnits_held) | (with_reducible apply settleFlights_held) | (with_reducible apply modCtx_held) | (with_reducible apply facetFreed_held) | (with_reducible apply chansEnd_held) | (with_reducible apply modTask_held) | (with_reducible apply abandonShadow_held) | (with_reducible apply complete_held) | (with_reducible apply modSeq_held) | (with_reducible apply held_foldl) | (with_reducible apply held_foldl_fst) | (simp only [held_mk]) | split | (intro _) | (simp only [id_eq]))

theorem skipTask_held (s : State) (id reason : Nat) (h_s : Held hp hn hb s) : Held hp hn hb (skipTask s id reason) := by
  unfold skipTask
  try dsimp only
  repeat' (first | (with_reducible assumption) | (with_reducible apply modTask_held) | (with_reducible apply chansEnd_held) | (simp only [held_mk]) | split | (intro _) | (simp only [id_eq]))

theorem abortOne_held (s : State) (id reason : Nat) (h_s : Held hp hn hb s) : Held hp hn hb (abortOne s id reason) := by
  unfold abortOne
  try dsimp only
  repeat' (first | (with_reducible assumption) | (with_reducible apply skipTask_held) | (with_reducible apply stopTask_held) | split | (intro _) | (simp only [id_eq]))

theorem abortId_held (s : State) (id reason : Nat) (h_s : Held hp hn hb s) : Held hp hn hb (abortId s id reason) := by
  unfold abortId
  try dsimp only
  repeat' (first | (with_reducible assumption) | (with_reducible apply abortOne_held) | (with_reducible apply setFlag_held) | (with_reducible apply held_foldl) | (with_reducible apply held_foldl_fst) | split | (intro _) | (simp only [id_eq]))

theorem abortTask_held (s : State) (w : Who) (reason : Nat) (h_s : Held hp hn hb s) : Held hp hn hb (abortTask s w reason) := by
  unfold abortTask
  try dsimp only
  repeat' (first | (with_reducible assumption) | (with_reducible apply abortId_held) | split | (intro _) | (simp only [id_eq]))

theorem abortFacet_held (s : State) (lf reason : Nat) (h_s : Held hp hn hb s) : Held hp hn hb (abortFacet s lf reason) := by
  unfold abortFacet
  try dsimp only
  repeat' (first | (with_reducible assumption) | (with_reducible apply abortTask_held) | split | (intro _))

theorem abortAll_held (s : State) (reason : Nat) (h_s : Held hp hn hb s) : Held hp hn hb (abortAll s reason) := by
  unfold abortAll
  try dsimp only
  repeat' (first | (with_reducible assumption) | (with_reducible apply abortFacet_held) | (with_reducible apply held_foldl) | (with_reducible apply held_foldl_fst) | split | (intro _))

theorem sendSem_held (s : State) (m : SemMsg) (h_s : Held hp hn hb s) : Held hp hn hb (sendSem s m) := by
  unfold sendSem
  try dsimp only
  repeat' (first | (with_reducible assumption) | (simp only [held_mk]) | split | (intro _))

theorem sendStorePosts_held (s : State) (w : Who) (h_s : Held hp hn hb s) : Held hp hn hb (sendStorePosts s w) := by
  unfold sendStorePosts
  try dsimp only
  repeat' (first | (with_reducible assumption) | (with_reducible apply sendSem_held) | (with_reducible apply held_foldl) | (with_reducible apply held_foldl_fst) | (simp only [held_mk]) | split | (intro _))

theorem faultTask_held (s : State) (w : Who) (h_s : Held hp hn hb s) : Held hp hn hb (faultTask s w) := by
  unfold faultTask
  try dsimp only
  repeat' (first | (with_reducible assumption) | (with_reducible apply abortTask_held) | (with_reducible apply sendStorePosts_held) | split | (intro _))

end Sys2Proof.Machine
end

