-- ==== Sys2Proof/Laws/HeldOperands.lean ====
section
/-! SUPPORT. What the operations of Machine/Operands.lean keep: the queue, the clock and canonical memories. -/

set_option linter.unreachableTactic false
set_option linter.unusedTactic false
set_option linter.unusedVariables false
set_option linter.unusedSimpArgs false

namespace Sys2Proof.Machine

variable {hp : List Instr} {hn : Nat} {hb : Bool}

theorem rput_held (s : State) (w : Who) (r : Reg) (v : Word) (lat : Nat) (h_s : Held hp hn hb s) : Held hp hn hb (rput s w r v lat) := by
  unfold rput
  try dsimp only
  repeat' (first | (with_reducible assumption) | (with_reducible apply modCtx_held) | (simp only [held_mk]) | split | (intro _))

theorem occupy_held (s : State) (w : Who) (k pc : Nat) (h_s : Held hp hn hb s) : Held hp hn hb (occupy s w k pc) := by
  unfold occupy
  try dsimp only
  repeat' (first | (with_reducible assumption) | (with_reducible apply modCtx_held) | (simp only [held_mk]) | split | (intro _))

theorem advance_held (s : State) (w : Who) (k : Nat) (h_s : Held hp hn hb s) : Held hp hn hb (advance s w k) := by
  unfold advance
  try dsimp only
  repeat' (first | (with_reducible assumption) | (with_reducible apply occupy_held) | split | (intro _))

theorem issue_held (s : State) (w : Who) (srcs dsts : List Reg) (legal : Bool) (k : State → State) (h_s : Held hp hn hb s) (hk_k : ∀ s, Held hp hn hb s → Held hp hn hb (k s)) : HeldR hp hn hb (issue s w srcs dsts legal k) := by
  unfold issue
  try dsimp only
  repeat' (first | (with_reducible assumption) | (with_reducible apply faultTask_held) | (with_reducible apply hk_k) | (with_reducible apply heldR_next) | (with_reducible apply heldR_whenever) | split | (intro _))

theorem issueWhen_held (s : State) (w : Who) (srcs dsts : List Reg) (legal room : Bool) (k : State → State) (h_s : Held hp hn hb s) (hk_k : ∀ s, Held hp hn hb s → Held hp hn hb (k s)) : HeldR hp hn hb (issueWhen s w srcs dsts legal room k) := by
  unfold issueWhen
  try dsimp only
  repeat' (first | (with_reducible assumption) | (with_reducible apply issue_held) | (with_reducible apply hk_k) | (with_reducible apply heldR_next) | (with_reducible apply heldR_whenever) | (refine heldR_elim (by assumption) ?_; with_reducible apply issue_held) | split | (intro _))

theorem aluEffect_held (w : Who) (o : AluArgs) (occ lat : Nat) (f : Word → Word → Word → Word) (s : State) (h_s : Held hp hn hb s) : Held hp hn hb (aluEffect w o occ lat f s) := by
  unfold aluEffect
  try dsimp only
  repeat' (first | (with_reducible assumption) | (with_reducible apply rput_held) | (with_reducible apply advance_held) | split | (intro _))

theorem alu_held (w : Who) (o : AluArgs) (readsD unary : Bool) (occ lat : Nat) (f : Word → Word → Word → Word) (s : State) (h_s : Held hp hn hb s) : HeldR hp hn hb (alu w o readsD unary occ lat f s) := by
  unfold alu
  try dsimp only
  repeat' (first | (with_reducible assumption) | (with_reducible apply issue_held) | (with_reducible apply aluEffect_held) | (with_reducible apply heldR_next) | (with_reducible apply heldR_whenever) | (refine heldR_elim (by assumption) ?_; with_reducible apply issue_held) | split | (intro _))

theorem enqueue_held (w : Who) (q : EQueue) (op : EOp) (after : Nat) (d b : Reg) (s : State) (h_s : Held hp hn hb s) : Held hp hn hb (enqueue w q op after d b s) := by
  unfold enqueue
  try dsimp only
  repeat' (first | (with_reducible assumption) | (with_reducible apply advance_held) | (with_reducible apply modFacet_held) | (with_reducible apply modCtx_held) | (simp only [held_mk]) | split | (intro _))

theorem engine_held (w : Who) (q : EQueue) (op : State → EOp) (after : Nat) (srcs : List Reg) (d b : Reg) (legal : Bool) (s : State) (h_s : Held hp hn hb s) : HeldR hp hn hb (engine w q op after srcs d b legal s) := by
  unfold engine
  try dsimp only
  repeat' (first | (with_reducible assumption) | (with_reducible apply issue_held) | (with_reducible apply enqueue_held) | (with_reducible apply heldR_next) | (with_reducible apply heldR_whenever) | (refine heldR_elim (by assumption) ?_; with_reducible apply issue_held) | split | (intro _))

theorem abortDropped_held (s t : State) (task lf : Nat) (ws : List (Nat × Byte)) (h_s : Held hp hn hb s) (h_t : Held hp hn hb t) : Held hp hn hb (abortDropped s t task lf ws) := by
  unfold abortDropped
  try dsimp only
  repeat' (first | (with_reducible assumption) | (with_reducible apply abortId_held) | split | (intro _))

theorem rawWriteOrAbort_held (s : State) (task lf : Nat) (ws : List (Nat × Byte)) (h_s : Held hp hn hb s) : Held hp hn hb (rawWriteOrAbort s task lf ws) := by
  unfold rawWriteOrAbort
  try dsimp only
  repeat' (first | (with_reducible assumption) | (with_reducible apply abortDropped_held) | (with_reducible apply fmemPut_held) | split | (intro _))

theorem taskWriteOrAbort_held (s : State) (task lf : Nat) (ws : List (Nat × Byte)) (h_s : Held hp hn hb s) : Held hp hn hb (taskWriteOrAbort s task lf ws) := by
  unfold taskWriteOrAbort
  try dsimp only
  repeat' (first | (with_reducible assumption) | (with_reducible apply abortDropped_held) | (with_reducible apply countFill_held) | (with_reducible apply fmemPut_held) | split | (intro _))

theorem narrowWriteOrAbort_held (s : State) (task lf : Nat) (ws : List (Nat × Byte)) (h_s : Held hp hn hb s) : Held hp hn hb (narrowWriteOrAbort s task lf ws) := by
  unfold narrowWriteOrAbort
  try dsimp only
  repeat' (first | (with_reducible assumption) | (with_reducible apply abortDropped_held) | (with_reducible apply countFill_held) | (with_reducible apply fmemPutNarrow_held) | split | (intro _))

theorem arrAdd_held (s : State) (lf i n : Nat) (h_s : Held hp hn hb s) : Held hp hn hb (arrAdd s lf i n) := by
  unfold arrAdd
  try dsimp only
  repeat' (first | (with_reducible assumption) | (with_reducible apply modCycle_held) | (with_reducible apply bump_held) | (simp only [held_mk]) | split | (intro _))

theorem arrReset_held (s : State) (lf i : Nat) (h_s : Held hp hn hb s) : Held hp hn hb (arrReset s lf i) := by
  unfold arrReset
  try dsimp only
  repeat' (first | (with_reducible assumption) | (with_reducible apply fset_held) | split | (intro _))

end Sys2Proof.Machine
end

