-- ==== Sys2Proof/Laws/HeldControl.lean ====
section
/-! SUPPORT. What the operations of Machine/Control.lean keep: the queue, the clock and canonical memories. -/

set_option linter.unreachableTactic false
set_option linter.unusedTactic false
set_option linter.unusedVariables false
set_option linter.unusedSimpArgs false

namespace Sys2Proof.Machine

variable {hp : List Instr} {hn : Nat} {hb : Bool}

theorem branchTo_held (s : State) (w : Who) (target : Nat) (k : State → State) (h_s : Held hp hn hb s) (hk_k : ∀ s, Held hp hn hb s → Held hp hn hb (k s)) : Held hp hn hb (branchTo s w target k) := by
  unfold branchTo
  try dsimp only
  repeat' (first | (with_reducible assumption) | (with_reducible apply faultTask_held) | (with_reducible apply occupy_held) | (with_reducible apply hk_k) | split | (intro _))

theorem execJal_held (w : Who) (d : Reg) (imm : Word) (s : State) (h_s : Held hp hn hb s) : HeldR hp hn hb (execJal w d imm s) := by
  unfold execJal
  try dsimp only
  repeat' (first | (with_reducible assumption) | (with_reducible apply issue_held) | (with_reducible apply branchTo_held) | (with_reducible apply rput_held) | (with_reducible apply heldR_next) | (with_reducible apply heldR_whenever) | (refine heldR_elim (by assumption) ?_; with_reducible apply issue_held) | split | (intro _))

theorem execJalr_held (w : Who) (d a : Reg) (imm : Word) (s : State) (h_s : Held hp hn hb s) : HeldR hp hn hb (execJalr w d a imm s) := by
  unfold execJalr
  try dsimp only
  repeat' (first | (with_reducible assumption) | (with_reducible apply issue_held) | (with_reducible apply branchTo_held) | (with_reducible apply rput_held) | (with_reducible apply heldR_next) | (with_reducible apply heldR_whenever) | (refine heldR_elim (by assumption) ?_; with_reducible apply issue_held) | split | (intro _))

theorem execBr_held (w : Who) (cond : Cond) (a b : Reg) (imm : Word) (s : State) (h_s : Held hp hn hb s) : HeldR hp hn hb (execBr w cond a b imm s) := by
  unfold execBr
  try dsimp only
  repeat' (first | (with_reducible assumption) | (with_reducible apply issue_held) | (with_reducible apply branchTo_held) | (with_reducible apply advance_held) | (with_reducible apply heldR_next) | (with_reducible apply heldR_whenever) | (refine heldR_elim (by assumption) ?_; with_reducible apply issue_held) | split | (intro _) | (simp only [id_eq]))

theorem execDbnz_held (w : Who) (d : Reg) (imm : Word) (s : State) (h_s : Held hp hn hb s) : HeldR hp hn hb (execDbnz w d imm s) := by
  unfold execDbnz
  try dsimp only
  repeat' (first | (with_reducible assumption) | (with_reducible apply issue_held) | (with_reducible apply branchTo_held) | (with_reducible apply rput_held) | (with_reducible apply advance_held) | (with_reducible apply heldR_next) | (with_reducible apply heldR_whenever) | (refine heldR_elim (by assumption) ?_; with_reducible apply issue_held) | split | (intro _))

theorem waitFor_held (s : State) (w : Who) (x : Wait) (h_s : Held hp hn hb s) : Held hp hn hb (waitFor s w x) := by
  unfold waitFor
  try dsimp only
  repeat' (first | (with_reducible assumption) | (with_reducible apply modCtx_held) | (with_reducible apply advance_held) | (simp only [held_mk]) | split | (intro _))

theorem endWait_held (s : State) (w : Who) (h_s : Held hp hn hb s) : Held hp hn hb (endWait s w) := by
  unfold endWait
  try dsimp only
  repeat' (first | (with_reducible assumption) | (with_reducible apply modCtx_held) | (simp only [held_mk]) | split | (intro _))

theorem execWaitt_held (w : Who) (a : Reg) (imm : Word) (s : State) (h_s : Held hp hn hb s) : HeldR hp hn hb (execWaitt w a imm s) := by
  unfold execWaitt
  try dsimp only
  repeat' (first | (with_reducible assumption) | (with_reducible apply issue_held) | (with_reducible apply advance_held) | (with_reducible apply waitFor_held) | (with_reducible apply heldR_next) | (with_reducible apply heldR_whenever) | (refine heldR_elim (by assumption) ?_; with_reducible apply issue_held) | split | (intro _))

theorem execWaittTargetReached_held (w : Who) (s : State) (h_s : Held hp hn hb s) : HeldR hp hn hb (execWaittTargetReached w s) := by
  unfold execWaittTargetReached
  try dsimp only
  repeat' (first | (with_reducible assumption) | (with_reducible apply endWait_held) | (with_reducible apply heldR_next) | (with_reducible apply heldR_whenever) | split | (intro _))

theorem execMfsr_held (w : Who) (d : Reg) (n : Nat) (s : State) (h_s : Held hp hn hb s) : HeldR hp hn hb (execMfsr w d n s) := by
  unfold execMfsr
  try dsimp only
  repeat' (first | (with_reducible assumption) | (with_reducible apply issue_held) | (with_reducible apply rput_held) | (with_reducible apply advance_held) | (with_reducible apply heldR_next) | (with_reducible apply heldR_whenever) | (refine heldR_elim (by assumption) ?_; with_reducible apply issue_held) | split | (intro _))

theorem execMtsr_held (w : Who) (a : Reg) (n : Nat) (s : State) (h_s : Held hp hn hb s) : HeldR hp hn hb (execMtsr w a n s) := by
  unfold execMtsr
  try dsimp only
  repeat' (first | (with_reducible assumption) | (with_reducible apply issue_held) | (with_reducible apply modCtx_held) | (with_reducible apply advance_held) | (with_reducible apply heldR_next) | (with_reducible apply heldR_whenever) | (simp only [held_mk]) | (refine heldR_elim (by assumption) ?_; with_reducible apply issue_held) | split | (intro _))

theorem execIllegalInstruction_held (w : Who) (word : BitVec 64) (s : State) (h_s : Held hp hn hb s) : HeldR hp hn hb (execIllegalInstruction w word s) := by
  unfold execIllegalInstruction
  try dsimp only
  repeat' (first | (with_reducible assumption) | (with_reducible apply engine_held) | (with_reducible apply issue_held) | (with_reducible apply heldR_next) | (with_reducible apply heldR_whenever) | (refine heldR_elim (by assumption) ?_; with_reducible apply engine_held) | (refine heldR_elim (by assumption) ?_; with_reducible apply issue_held) | split | (intro _) | (simp only [id_eq]))

theorem execLdW_held (w : Who) (d a : Reg) (imm : Word) (s : State) (h_s : Held hp hn hb s) : HeldR hp hn hb (execLdW w d a imm s) := by
  unfold execLdW
  try dsimp only
  repeat' (first | (with_reducible assumption) | (with_reducible apply issue_held) | (with_reducible apply drawn_held) | (with_reducible apply fmemTouch_held) | (with_reducible apply modCtx_held) | (with_reducible apply rput_held) | (with_reducible apply advance_held) | (with_reducible apply heldR_next) | (with_reducible apply heldR_whenever) | (simp only [held_mk]) | (refine heldR_elim (by assumption) ?_; with_reducible apply issue_held) | split | (intro _))

theorem execStW_held (w : Who) (a b : Reg) (imm : Word) (s : State) (h_s : Held hp hn hb s) : HeldR hp hn hb (execStW w a b imm s) := by
  unfold execStW
  try dsimp only
  repeat' (first | (with_reducible assumption) | (with_reducible apply issue_held) | (with_reducible apply modCtx_held) | (with_reducible apply advance_held) | (with_reducible apply narrowWriteOrAbort_held) | (with_reducible apply heldR_next) | (with_reducible apply heldR_whenever) | (simp only [held_mk]) | (refine heldR_elim (by assumption) ?_; with_reducible apply issue_held) | split | (intro _))

theorem startMemOp_held (s : State) (w : Who) (m : MemOp) (h_s : Held hp hn hb s) : Held hp hn hb (startMemOp s w m) := by
  unfold startMemOp
  try dsimp only
  repeat' (first | (with_reducible assumption) | (with_reducible apply waitFor_held) | split | (intro _))

theorem execMfill_held (w : Who) (a b : Reg) (imm : Word) (s : State) (h_s : Held hp hn hb s) : HeldR hp hn hb (execMfill w a b imm s) := by
  unfold execMfill
  try dsimp only
  repeat' (first | (with_reducible assumption) | (with_reducible apply issue_held) | (with_reducible apply advance_held) | (with_reducible apply startMemOp_held) | (with_reducible apply heldR_next) | (with_reducible apply heldR_whenever) | (refine heldR_elim (by assumption) ?_; with_reducible apply issue_held) | split | (intro _))

theorem execMcopy_held (w : Who) (a b : Reg) (imm : Word) (s : State) (h_s : Held hp hn hb s) : HeldR hp hn hb (execMcopy w a b imm s) := by
  unfold execMcopy
  try dsimp only
  repeat' (first | (with_reducible assumption) | (with_reducible apply issue_held) | (with_reducible apply advance_held) | (with_reducible apply startMemOp_held) | (with_reducible apply fmemTouch_held) | (with_reducible apply heldR_next) | (with_reducible apply heldR_whenever) | (refine heldR_elim (by assumption) ?_; with_reducible apply issue_held) | split | (intro _))

theorem execFillCopyComplete_held (w : Who) (s : State) (h_s : Held hp hn hb s) : HeldR hp hn hb (execFillCopyComplete w s) := by
  unfold execFillCopyComplete
  try dsimp only
  repeat' (first | (with_reducible assumption) | (with_reducible apply rawWriteOrAbort_held) | (with_reducible apply drawn_held) | (with_reducible apply endWait_held) | (with_reducible apply heldR_next) | (with_reducible apply heldR_whenever) | split | (intro _))

end Sys2Proof.Machine
end

