-- ==== Sys2Proof/Laws/HeldSync.lean ====
section
/-! SUPPORT. What the operations of Machine/Sync.lean keep: the queue, the clock and canonical memories. -/

set_option linter.unreachableTactic false
set_option linter.unusedTactic false
set_option linter.unusedVariables false
set_option linter.unusedSimpArgs false

namespace Sys2Proof.Machine

variable {hp : List Instr} {hn : Nat} {hb : Bool}

theorem execFence_held (w : Who) (s : State) (h_s : Held hp hn hb s) : HeldR hp hn hb (execFence w s) := by
  unfold execFence
  try dsimp only
  repeat' (first | (with_reducible assumption) | (with_reducible apply issue_held) | (with_reducible apply advance_held) | (with_reducible apply waitFor_held) | (with_reducible apply heldR_next) | (with_reducible apply heldR_whenever) | (refine heldR_elim (by assumption) ?_; with_reducible apply issue_held) | split | (intro _))

theorem chanPost_held (s : State) (lf sem n : Nat) (h_s : Held hp hn hb s) : Held hp hn hb (chanPost s lf sem n) := by
  unfold chanPost
  try dsimp only
  repeat' (first | (with_reducible assumption) | (with_reducible apply sendSem_held) | split | (intro _))

theorem sendPosts_held (w : Who) (fuel : Nat) : ∀ (s : State), Held hp hn hb s → Held hp hn hb (sendPosts s w fuel) := by
  induction fuel with
  | zero => intro s h; exact h
  | succ k ih =>
    intro s h
    unfold sendPosts
    try dsimp only
    repeat' (first | (with_reducible apply ih) | (with_reducible assumption) | (with_reducible apply modCtx_held) | (with_reducible apply sendSem_held) | (simp only [held_mk]) | split | (intro _))

theorem execFenceComplete_held (w : Who) (s : State) (h_s : Held hp hn hb s) : HeldR hp hn hb (execFenceComplete w s) := by
  unfold execFenceComplete
  try dsimp only
  repeat' (first | (with_reducible assumption) | (with_reducible apply sendPosts_held) | (with_reducible apply endWait_held) | (with_reducible apply heldR_next) | (with_reducible apply heldR_whenever) | split | (intro _))

theorem execSwait_held (w : Who) (d a b : Reg) (imm : Word) (s : State) (h_s : Held hp hn hb s) : HeldR hp hn hb (execSwait w d a b imm s) := by
  unfold execSwait
  try dsimp only
  repeat' (first | (with_reducible assumption) | (with_reducible apply issueWhen_held) | (with_reducible apply sendSem_held) | (with_reducible apply waitFor_held) | (with_reducible apply heldR_next) | (with_reducible apply heldR_whenever) | (refine heldR_elim (by assumption) ?_; with_reducible apply issueWhen_held) | split | (intro _))

theorem execSwaitTry_held (w : Who) (d a b : Reg) (imm : Word) (s : State) (h_s : Held hp hn hb s) : HeldR hp hn hb (execSwaitTry w d a b imm s) := by
  unfold execSwaitTry
  try dsimp only
  repeat' (first | (with_reducible assumption) | (with_reducible apply issueWhen_held) | (with_reducible apply sendSem_held) | (with_reducible apply waitFor_held) | (with_reducible apply heldR_next) | (with_reducible apply heldR_whenever) | (refine heldR_elim (by assumption) ?_; with_reducible apply issueWhen_held) | split | (intro _))

theorem execSpost_held (w : Who) (a b : Reg) (imm : Word) (nofence : Bool) (s : State) (h_s : Held hp hn hb s) : HeldR hp hn hb (execSpost w a b imm nofence s) := by
  unfold execSpost
  try dsimp only
  repeat' (first | (with_reducible assumption) | (with_reducible apply issueWhen_held) | (with_reducible apply sendSem_held) | (with_reducible apply advance_held) | (with_reducible apply modCtx_held) | (with_reducible apply heldR_next) | (with_reducible apply heldR_whenever) | (simp only [held_mk]) | (refine heldR_elim (by assumption) ?_; with_reducible apply issueWhen_held) | split | (intro _))

theorem applyPost_held (s : State) (m : SemMsg) (h_s : Held hp hn hb s) : Held hp hn hb (applyPost s m) := by
  unfold applyPost
  try dsimp only
  repeat' (first | (with_reducible assumption) | (with_reducible apply modSem_held) | (with_reducible apply event_held) | (with_reducible apply abortTask_held) | (simp only [held_mk]) | split | (intro _))

theorem applyWait_held (s : State) (m : SemMsg) (h_s : Held hp hn hb s) : Held hp hn hb (applyWait s m) := by
  unfold applyWait
  try dsimp only
  repeat' (first | (with_reducible assumption) | (with_reducible apply grant_held) | (with_reducible apply modSem_held) | (with_reducible apply serve_held) | (simp only [held_mk]) | split | (intro _))

theorem applyBatch_held (s : State) (sem : Nat) (ms : List SemMsg) (h_s : Held hp hn hb s) : Held hp hn hb (applyBatch s sem ms) := by
  unfold applyBatch
  try dsimp only
  repeat' (first | (with_reducible assumption) | (with_reducible apply applyPost_held) | (with_reducible apply serve_held) | (with_reducible apply applyWait_held) | (with_reducible apply held_foldl) | (with_reducible apply held_foldl_fst) | split | (intro _))

theorem execSemMessageApply_held (sem : Nat) (s : State) (h_s : Held hp hn hb s) : HeldR hp hn hb (execSemMessageApply sem s) := by
  unfold execSemMessageApply
  try dsimp only
  repeat' (first | (with_reducible assumption) | (with_reducible apply semDirty_held) | (with_reducible apply applyBatch_held) | (with_reducible apply heldR_next) | (with_reducible apply heldR_whenever) | (simp only [held_mk]) | split | (intro _))

theorem dropGrant_held (s : State) (g : Grant) (h_s : Held hp hn hb s) : Held hp hn hb (dropGrant s g) := by
  unfold dropGrant
  try dsimp only
  repeat' (first | (with_reducible assumption) | (simp only [held_mk]) | split | (intro _))

theorem execSwaitGrant_held (w : Who) (s : State) (h_s : Held hp hn hb s) : HeldR hp hn hb (execSwaitGrant w s) := by
  unfold execSwaitGrant
  try dsimp only
  repeat' (first | (with_reducible assumption) | (with_reducible apply rput_held) | (with_reducible apply endWait_held) | (with_reducible apply dropGrant_held) | (with_reducible apply heldR_next) | (with_reducible apply heldR_whenever) | split | (intro _))

theorem execCwait_held (w : Who) (d a b : Reg) (ctr : Nat) (s : State) (h_s : Held hp hn hb s) : HeldR hp hn hb (execCwait w d a b ctr s) := by
  unfold execCwait
  try dsimp only
  repeat' (first | (with_reducible assumption) | (with_reducible apply issue_held) | (with_reducible apply rput_held) | (with_reducible apply advance_held) | (with_reducible apply waitFor_held) | (with_reducible apply heldR_next) | (with_reducible apply heldR_whenever) | (refine heldR_elim (by assumption) ?_; with_reducible apply issue_held) | split | (intro _))

theorem execCwaitTry_held (w : Who) (d a b : Reg) (ctr : Nat) (s : State) (h_s : Held hp hn hb s) : HeldR hp hn hb (execCwaitTry w d a b ctr s) := by
  unfold execCwaitTry
  try dsimp only
  repeat' (first | (with_reducible assumption) | (with_reducible apply issue_held) | (with_reducible apply rput_held) | (with_reducible apply advance_held) | (with_reducible apply heldR_next) | (with_reducible apply heldR_whenever) | (refine heldR_elim (by assumption) ?_; with_reducible apply issue_held) | split | (intro _))

theorem execCreset_held (w : Who) (ctr : Nat) (s : State) (h_s : Held hp hn hb s) : HeldR hp hn hb (execCreset w ctr s) := by
  unfold execCreset
  try dsimp only
  repeat' (first | (with_reducible assumption) | (with_reducible apply issue_held) | (with_reducible apply arrReset_held) | (with_reducible apply advance_held) | (with_reducible apply heldR_next) | (with_reducible apply heldR_whenever) | (refine heldR_elim (by assumption) ?_; with_reducible apply issue_held) | split | (intro _))

theorem execCwaitSatisfied_held (w : Who) (s : State) (h_s : Held hp hn hb s) : HeldR hp hn hb (execCwaitSatisfied w s) := by
  unfold execCwaitSatisfied
  try dsimp only
  repeat' (first | (with_reducible assumption) | (with_reducible apply rput_held) | (with_reducible apply endWait_held) | (with_reducible apply heldR_next) | (with_reducible apply heldR_whenever) | split | (intro _))

theorem execTend_held (w : Who) (s : State) (h_s : Held hp hn hb s) : HeldR hp hn hb (execTend w s) := by
  unfold execTend
  try dsimp only
  repeat' (first | (with_reducible assumption) | (with_reducible apply issue_held) | (with_reducible apply waitFor_held) | (with_reducible apply heldR_next) | (with_reducible apply heldR_whenever) | (refine heldR_elim (by assumption) ?_; with_reducible apply issue_held) | split | (intro _))

theorem orphanJobs_held (s : State) (w : Who) (id : Nat) (h_s : Held hp hn hb s) : Held hp hn hb (orphanJobs s w id) := by
  unfold orphanJobs
  try dsimp only
  repeat' (first | (with_reducible assumption) | (with_reducible apply complete_held) | (with_reducible apply freeJob_held) | (with_reducible apply held_foldl) | (with_reducible apply held_foldl_fst) | (simp only [held_mk]) | split | (intro _) | (simp only [id_eq]))

theorem endTask_held (s : State) (w : Who) (h_s : Held hp hn hb s) : Held hp hn hb (endTask s w) := by
  unfold endTask
  try dsimp only
  repeat' (first | (with_reducible assumption) | (with_reducible apply sendEnds_held) | (with_reducible apply orphanJobs_held) | (with_reducible apply settleFlights_held) | (with_reducible apply modCtx_held) | (with_reducible apply facetFreed_held) | (with_reducible apply chansEnd_held) | (with_reducible apply modTask_held) | (with_reducible apply complete_held) | (with_reducible apply held_foldl) | (with_reducible apply held_foldl_fst) | (simp only [held_mk]) | split | (intro _) | (simp only [id_eq]))

theorem dropTiles_held (s : State) (w : Who) (e : Nat) (h_s : Held hp hn hb s) : Held hp hn hb (dropTiles s w e) := by
  unfold dropTiles
  try dsimp only
  repeat' (first | (with_reducible assumption) | (with_reducible apply modEngine_held) | (simp only [held_mk]) | split | (intro _))

theorem tendCloses_held (s : State) (w : Who) (h_s : Held hp hn hb s) : Held hp hn hb (tendCloses s w) := by
  unfold tendCloses
  try dsimp only
  repeat' (first | (with_reducible assumption) | (with_reducible apply endLeaf_held) | (with_reducible apply dropTiles_held) | (with_reducible apply closeStreams_held) | (with_reducible apply held_foldl) | (with_reducible apply held_foldl_fst) | split | (intro _))

theorem execTendComplete_held (w : Who) (s : State) (h_s : Held hp hn hb s) : HeldR hp hn hb (execTendComplete w s) := by
  unfold execTendComplete
  try dsimp only
  repeat' (first | (with_reducible assumption) | (with_reducible apply tendCloses_held) | (with_reducible apply endTask_held) | (with_reducible apply heldR_next) | (with_reducible apply heldR_whenever) | split | (intro _))

end Sys2Proof.Machine
end

