-- ==== Sys2Proof/Laws/HeldChannel.lean ====
section
/-! SUPPORT. What the operations of Machine/Channel.lean keep: the queue, the clock and canonical memories. -/

set_option linter.unreachableTactic false
set_option linter.unusedTactic false
set_option linter.unusedVariables false
set_option linter.unusedSimpArgs false

namespace Sys2Proof.Machine

variable {hp : List Instr} {hn : Nat} {hb : Bool}

theorem execChpush_held (w : Who) (d : Reg) (ch : ChanName) (s : State) (h_s : Held hp hn hb s) : HeldR hp hn hb (execChpush w d ch s) := by
  unfold execChpush
  try dsimp only
  repeat' (first | (with_reducible assumption) | (with_reducible apply issueWhen_held) | (with_reducible apply sendSem_held) | (with_reducible apply waitFor_held) | (with_reducible apply heldR_next) | (with_reducible apply heldR_whenever) | (refine heldR_elim (by assumption) ?_; with_reducible apply issueWhen_held) | split | (intro _))

theorem execChpushGrant_held (w : Who) (s : State) (h_s : Held hp hn hb s) : HeldR hp hn hb (execChpushGrant w s) := by
  unfold execChpushGrant
  try dsimp only
  repeat' (first | (with_reducible assumption) | (with_reducible apply rput_held) | (with_reducible apply chanEvent_held) | (with_reducible apply endWait_held) | (with_reducible apply dropGrant_held) | (with_reducible apply heldR_next) | (with_reducible apply heldR_whenever) | split | (intro _))

theorem sendCommit_held (s : State) (w : Who) (k : Nat) (rewind : Bool) (len : Nat) (h_s : Held hp hn hb s) : Held hp hn hb (sendCommit s w k rewind len) := by
  unfold sendCommit
  try dsimp only
  repeat' (first | (with_reducible assumption) | (with_reducible apply modChan_held) | (simp only [held_mk]) | split | (intro _))

theorem execChcommit_held (w : Who) (a : Reg) (ch : ChanName) (s : State) (h_s : Held hp hn hb s) : HeldR hp hn hb (execChcommit w a ch s) := by
  unfold execChcommit
  try dsimp only
  repeat' (first | (with_reducible assumption) | (with_reducible apply issueWhen_held) | (with_reducible apply sendCommit_held) | (with_reducible apply advance_held) | (with_reducible apply heldR_next) | (with_reducible apply heldR_whenever) | (refine heldR_elim (by assumption) ?_; with_reducible apply issueWhen_held) | split | (intro _))

theorem execChcommitRewind_held (w : Who) (ch : ChanName) (s : State) (h_s : Held hp hn hb s) : HeldR hp hn hb (execChcommitRewind w ch s) := by
  unfold execChcommitRewind
  try dsimp only
  repeat' (first | (with_reducible assumption) | (with_reducible apply issueWhen_held) | (with_reducible apply sendCommit_held) | (with_reducible apply advance_held) | (with_reducible apply heldR_next) | (with_reducible apply heldR_whenever) | (refine heldR_elim (by assumption) ?_; with_reducible apply issueWhen_held) | split | (intro _))

theorem execCommitArrival_held (ch : ChanName) (s : State) (h_s : Held hp hn hb s) : HeldR hp hn hb (execCommitArrival ch s) := by
  unfold execCommitArrival
  try dsimp only
  repeat' (first | (with_reducible assumption) | (with_reducible apply chanEvent_held) | (with_reducible apply modChan_held) | (with_reducible apply heldR_next) | (with_reducible apply heldR_whenever) | (simp only [held_mk]) | split | (intro _))

theorem execPacketVisible_held (ch : ChanName) (s : State) (h_s : Held hp hn hb s) : HeldR hp hn hb (execPacketVisible ch s) := by
  unfold execPacketVisible
  try dsimp only
  repeat' (first | (with_reducible assumption) | (with_reducible apply chanPost_held) | (with_reducible apply chanEvent_held) | (with_reducible apply heldR_next) | (with_reducible apply heldR_whenever) | split | (intro _))

theorem execChpopAcquire_held (w : Who) (d b : Reg) (ch : ChanName) (s : State) (h_s : Held hp hn hb s) : HeldR hp hn hb (execChpopAcquire w d b ch s) := by
  unfold execChpopAcquire
  try dsimp only
  repeat' (first | (with_reducible assumption) | (with_reducible apply issue_held) | (with_reducible apply sendSem_held) | (with_reducible apply waitFor_held) | (with_reducible apply heldR_next) | (with_reducible apply heldR_whenever) | (refine heldR_elim (by assumption) ?_; with_reducible apply issue_held) | split | (intro _))

theorem execPacketAcquired_held (w : Who) (s : State) (h_s : Held hp hn hb s) : HeldR hp hn hb (execPacketAcquired w s) := by
  unfold execPacketAcquired
  try dsimp only
  repeat' (first | (with_reducible assumption) | (with_reducible apply endWait_held) | (with_reducible apply dropGrant_held) | (with_reducible apply rput_held) | (with_reducible apply drawn_held) | (with_reducible apply chanEvent_held) | (with_reducible apply heldR_next) | (with_reducible apply heldR_whenever) | split | (intro _))

theorem execChpopRelease_held (w : Who) (ch : ChanName) (s : State) (h_s : Held hp hn hb s) : HeldR hp hn hb (execChpopRelease w ch s) := by
  unfold execChpopRelease
  try dsimp only
  repeat' (first | (with_reducible assumption) | (with_reducible apply issue_held) | (with_reducible apply chanEvent_held) | (with_reducible apply advance_held) | (with_reducible apply heldR_next) | (with_reducible apply heldR_whenever) | (refine heldR_elim (by assumption) ?_; with_reducible apply issue_held) | split | (intro _))

theorem execChflush_held (w : Who) (ch : ChanName) (s : State) (h_s : Held hp hn hb s) : HeldR hp hn hb (execChflush w ch s) := by
  unfold execChflush
  try dsimp only
  repeat' (first | (with_reducible assumption) | (with_reducible apply issue_held) | (with_reducible apply chanFlush_held) | (with_reducible apply advance_held) | (with_reducible apply heldR_next) | (with_reducible apply heldR_whenever) | (refine heldR_elim (by assumption) ?_; with_reducible apply issue_held) | split | (intro _))

theorem execDeferredEmptyPost_held (ch : ChanName) (s : State) (h_s : Held hp hn hb s) : HeldR hp hn hb (execDeferredEmptyPost ch s) := by
  unfold execDeferredEmptyPost
  try dsimp only
  repeat' (first | (with_reducible assumption) | (with_reducible apply chanPost_held) | (with_reducible apply modChan_held) | (with_reducible apply chanEvent_held) | (with_reducible apply heldR_next) | (with_reducible apply heldR_whenever) | (simp only [held_mk]) | split | (intro _))

theorem execChannelRecordRewrite_held (ch : ChanName) (s : State) (h_s : Held hp hn hb s) : HeldR hp hn hb (execChannelRecordRewrite ch s) := by
  unfold execChannelRecordRewrite
  try dsimp only
  repeat' (first | (with_reducible assumption) | (with_reducible apply fmemPut_held) | (with_reducible apply heldR_next) | (with_reducible apply heldR_whenever) | (simp only [held_mk]) | split | (intro _))

end Sys2Proof.Machine
end

