-- ==== Sys2Proof/Laws/HeldDistributed.lean ====
section
/-! SUPPORT. What the operations of Machine/Distributed.lean keep: the queue, the clock and canonical memories. -/

set_option linter.unreachableTactic false
set_option linter.unusedTactic false
set_option linter.unusedVariables false
set_option linter.unusedSimpArgs false

namespace Sys2Proof.Machine

variable {hp : List Instr} {hn : Nat} {hb : Bool}

theorem queueAll_held (s : State) (p op chip addr : Nat) (mc : Option Nat) (o : Origin) (step : Nat) (ds : List (List Byte)) (h_s : Held hp hn hb s) : Held hp hn hb (queueAll s p op chip addr mc o step ds) := by
  unfold queueAll
  try dsimp only
  repeat' (first | (with_reducible assumption) | (with_reducible apply queueOn_held) | (with_reducible apply held_foldl) | (with_reducible apply held_foldl_fst) | split | (intro _))

theorem queuePost_held (s : State) (p chip sem : Nat) (mc : Option Nat) (o : Origin) (h_s : Held hp hn hb s) : Held hp hn hb (queuePost s p chip sem mc o) := by
  unfold queuePost
  try dsimp only
  repeat' (first | (with_reducible assumption) | (with_reducible apply queueOn_held) | split | (intro _))

theorem remoteReject_held (s : State) (h_s : Held hp hn hb s) : Held hp hn hb (remoteReject s) := by
  unfold remoteReject
  try dsimp only
  repeat' (first | (with_reducible assumption) | (with_reducible apply event_held) | split | (intro _))

theorem mergeTo_held (s : State) (o : Origin) (w1 : Nat) (mc : Option Nat) (recs : List (List Byte)) (r : PieceOut) (chip : Nat) (h_s : Held hp hn hb s) : HeldP hp hn hb (mergeTo s o w1 mc recs r chip) := by
  unfold mergeTo
  try dsimp only
  repeat' (first | (with_reducible assumption) | (with_reducible apply queueAll_held) | (with_reducible apply heldP_some) | (with_reducible apply heldP_none) | (with_reducible apply heldP_some') | (with_reducible apply heldO_map) | (with_reducible apply heldP_map) | (simp only [held_mk]) | split | (intro _))

theorem dataTo_held (s : State) (o : Origin) (w0 addr : Nat) (mc : Option Nat) (data : List Byte) (r : PieceOut) (chip : Nat) (h_s : Held hp hn hb s) : HeldP hp hn hb (dataTo s o w0 addr mc data r chip) := by
  unfold dataTo
  try dsimp only
  repeat' (first | (with_reducible assumption) | (with_reducible apply remoteReject_held) | (with_reducible apply chordDrop_held) | (with_reducible apply queueAll_held) | (with_reducible apply queuePost_held) | (with_reducible apply heldP_some) | (with_reducible apply heldP_none) | (with_reducible apply heldP_some') | (with_reducible apply heldO_map) | (with_reducible apply heldP_map) | (simp only [held_mk]) | split | (intro _))

theorem writePiece_held (s : State) (o : Origin) (img : List Byte) (x : Nat) (data : List Byte) (h_s : Held hp hn hb s) : HeldP hp hn hb (writePiece s o img x data) := by
  unfold writePiece
  try dsimp only
  repeat' (first | (with_reducible assumption) | (with_reducible apply engine_held) | (with_reducible apply chordDrop_held) | (with_reducible apply mergeTo_held) | (with_reducible apply dataTo_held) | (with_reducible apply heldP_some) | (with_reducible apply heldP_none) | (with_reducible apply heldP_some') | (with_reducible apply heldP_foldlM) | (with_reducible apply heldE_foldlM) | (with_reducible apply held_foldl) | (with_reducible apply held_foldl_fst) | (refine heldR_elim (by assumption) ?_; with_reducible apply engine_held) | (refine heldP_elim (by assumption) ?_; with_reducible apply mergeTo_held) | (refine heldP_elim' (by assumption) ?_; with_reducible apply mergeTo_held) | (refine heldP_elim (by assumption) ?_; with_reducible apply dataTo_held) | (refine heldP_elim' (by assumption) ?_; with_reducible apply dataTo_held) | split | (intro _))

theorem sendReads_held (s : State) (o : Origin) (p chip addr len index : Nat) (h_s : Held hp hn hb s) : Held hp hn hb (sendReads s o p chip addr len index).1 := by
  unfold sendReads
  try dsimp only
  repeat' (first | (with_reducible assumption) | (with_reducible apply queueOn_held) | (with_reducible apply engine_held) | (with_reducible apply held_foldl) | (with_reducible apply held_foldl_fst) | (simp only [held_mk]) | (refine heldR_elim (by assumption) ?_; with_reducible apply engine_held) | split | (intro _))

theorem localPost_held (s : State) (lf sem n : Nat) (h_s : Held hp hn hb s) : Held hp hn hb (localPost s lf sem n) := by
  unfold localPost
  try dsimp only
  repeat' (first | (with_reducible assumption) | (with_reducible apply sendSem_held) | (with_reducible apply event_held) | split | (intro _))

end Sys2Proof.Machine
end

