-- ==== Sys2Proof/Laws/HeldLattice.lean ====
section
/-! SUPPORT. What the operations of Machine/Lattice.lean keep: the queue, the clock and canonical memories. -/

set_option linter.unreachableTactic false
set_option linter.unusedTactic false
set_option linter.unusedVariables false
set_option linter.unusedSimpArgs false

namespace Sys2Proof.Machine

variable {hp : List Instr} {hn : Nat} {hb : Bool}

theorem accPut_held (s : State) (lf : Nat) (ws : List (Nat × Word)) (h_s : Held hp hn hb s) : Held hp hn hb (accPut s lf ws) := by
  unfold accPut
  try dsimp only
  repeat' (first | (with_reducible assumption) | (with_reducible apply modFacet_held) | (simp only [held_mk]) | split | (intro _))

theorem modCmd_held (s : State) (w : Who) (seq : Nat) (g : ECmd → ECmd) (h_s : Held hp hn hb s) : Held hp hn hb (modCmd s w seq g) := by
  unfold modCmd
  try dsimp only
  repeat' (first | (with_reducible assumption) | (with_reducible apply modCtx_held) | (simp only [held_mk]) | split | (intro _))

theorem setPhase_held (s : State) (w : Who) (ids : List Nat) (p : Phase) (h_s : Held hp hn hb s) : Held hp hn hb (setPhase s w ids p) := by
  unfold setPhase
  try dsimp only
  repeat' (first | (with_reducible assumption) | (with_reducible apply modEngine_held) | (simp only [held_mk]) | split | (intro _) | (simp only [id_eq]))

theorem stageNext_held (s : State) (w : Who) (h_s : Held hp hn hb s) : Held hp hn hb (stageNext s w) := by
  unfold stageNext
  try dsimp only
  repeat' (first | (with_reducible assumption) | (with_reducible apply setPhase_held) | (with_reducible apply modLat_held) | (simp only [held_mk]) | split | (intro _) | (simp only [id_eq]))

theorem stageAll_held (s : State) (w : Who) (h_s : Held hp hn hb s) : Held hp hn hb (stageAll s w) := by
  unfold stageAll
  try dsimp only
  repeat' (first | (with_reducible assumption) | (with_reducible apply stageNext_held) | split | (intro _))

theorem stageTile_held (s : State) (w : Who) (handle id : Nat) (bytes : List Byte) (h_s : Held hp hn hb s) : Held hp hn hb (stageTile s w handle id bytes) := by
  unfold stageTile
  try dsimp only
  repeat' (first | (with_reducible assumption) | (with_reducible apply modFacet_held) | (with_reducible apply modLat_held) | (simp only [held_mk]) | split | (intro _) | (simp only [id_eq]))

theorem dropSpan_held (s : State) (w : Who) (sp : Span) (h_s : Held hp hn hb s) : Held hp hn hb (dropSpan s w sp) := by
  unfold dropSpan
  try dsimp only
  repeat' (first | (with_reducible assumption) | (with_reducible apply setPhase_held) | (with_reducible apply modLat_held) | (simp only [held_mk]) | split | (intro _) | (simp only [id_eq]))

theorem spanOver_held (s : State) (w : Who) (h_s : Held hp hn hb s) : Held hp hn hb (spanOver s w) := by
  unfold spanOver
  try dsimp only
  repeat' (first | (with_reducible assumption) | (with_reducible apply stageAll_held) | (with_reducible apply modLat_held) | (with_reducible apply dropSpan_held) | (simp only [held_mk]) | split | (intro _))

theorem showGroup_held (s : State) (w : Who) (g : TileGroup) (h_s : Held hp hn hb s) : Held hp hn hb (showGroup s w g) := by
  unfold showGroup
  try dsimp only
  repeat' (first | (with_reducible assumption) | (with_reducible apply fset_held) | split | (intro _))

theorem skipGroups_held (s : State) (w : Who) (sp : Span) (upto : Nat) (h_s : Held hp hn hb s) : Held hp hn hb (skipGroups s w sp upto) := by
  unfold skipGroups
  try dsimp only
  repeat' (first | (with_reducible assumption) | (with_reducible apply showGroup_held) | (with_reducible apply bump_held) | (with_reducible apply held_foldl) | (with_reducible apply held_foldl_fst) | split | (intro _))

theorem countGroup_held (s : State) (w : Who) (g : Nat) (h_s : Held hp hn hb s) : Held hp hn hb (countGroup s w g) := by
  unfold countGroup
  try dsimp only
  repeat' (first | (with_reducible assumption) | (with_reducible apply bump_held) | split | (intro _))

theorem countSpan_held (s : State) (w : Who) (sp : Span) (h_s : Held hp hn hb s) : Held hp hn hb (countSpan s w sp) := by
  unfold countSpan
  try dsimp only
  repeat' (first | (with_reducible assumption) | (with_reducible apply bump_held) | (with_reducible apply skipGroups_held) | split | (intro _))

theorem endRun_held (s : State) (w : Who) (r : LRun) (h_s : Held hp hn hb s) : Held hp hn hb (endRun s w r) := by
  unfold endRun
  try dsimp only
  repeat' (first | (with_reducible assumption) | (with_reducible apply countSpan_held) | (with_reducible apply modLat_held) | (with_reducible apply spanOver_held) | (with_reducible apply modCmd_held) | (simp only [held_mk]) | split | (intro _))

theorem injectRow_held (s : State) (w : Who) (r : LRun) (start : Nat) (h_s : Held hp hn hb s) : Held hp hn hb (injectRow s w r start) := by
  unfold injectRow
  try dsimp only
  repeat' (first | (with_reducible assumption) | (with_reducible apply countGroup_held) | (with_reducible apply accPut_held) | (with_reducible apply setFlag_held) | (with_reducible apply bump_held) | (with_reducible apply modLat_held) | (with_reducible apply drawn_held) | (with_reducible apply endRun_held) | (simp only [held_mk]) | split | (intro _))

theorem endLload_held (s : State) (w : Who) (seq at_ : Nat) (h_s : Held hp hn hb s) : Held hp hn hb (endLload s w seq at_) := by
  unfold endLload
  try dsimp only
  repeat' (first | (with_reducible assumption) | (with_reducible apply modCmd_held) | (with_reducible apply bump_held) | (simp only [held_mk]) | split | (intro _))

theorem execGatherFactorChoice_held (w : Who) (s : State) (h_s : Held hp hn hb s) : HeldR hp hn hb (execGatherFactorChoice w s) := by
  unfold execGatherFactorChoice
  try dsimp only
  repeat' (first | (with_reducible assumption) | (with_reducible apply modLat_held) | (with_reducible apply bump_held) | (with_reducible apply stageAll_held) | (with_reducible apply setPhase_held) | (with_reducible apply endLload_held) | (with_reducible apply heldR_next) | (with_reducible apply heldR_whenever) | (simp only [held_mk]) | split | (intro _) | (simp only [id_eq]))

theorem execStationaryLoad_held (w : Who) (s : State) (h_s : Held hp hn hb s) : HeldR hp hn hb (execStationaryLoad w s) := by
  unfold execStationaryLoad
  try dsimp only
  repeat' (first | (with_reducible assumption) | (with_reducible apply showGroup_held) | (with_reducible apply skipGroups_held) | (with_reducible apply modLat_held) | (with_reducible apply stageAll_held) | (with_reducible apply endLload_held) | (with_reducible apply heldR_next) | (with_reducible apply heldR_whenever) | (simp only [held_mk]) | split | (intro _))

theorem startLload_held (s : State) (w : Who) (seq n kp fmt : Nat) (hi : Bool) (h_s : Held hp hn hb s) : HeldO hp hn hb (startLload s w seq n kp fmt hi) := by
  unfold startLload
  try dsimp only
  repeat' (first | (with_reducible assumption) | (with_reducible apply dropSpan_held) | (with_reducible apply modLat_held) | (with_reducible apply stageAll_held) | (with_reducible apply modCtx_held) | (with_reducible apply modCmd_held) | (with_reducible apply endLload_held) | (with_reducible apply heldO_some) | (with_reducible apply heldO_none) | (simp only [held_mk]) | split | (intro _))

theorem emptyPass_held (s : State) (w : Who) (seq n m : Nat) (rows : List Nat) (h_s : Held hp hn hb s) : Held hp hn hb (emptyPass s w seq n m rows) := by
  unfold emptyPass
  try dsimp only
  repeat' (first | (with_reducible assumption) | (with_reducible apply modLat_held) | (with_reducible apply modCmd_held) | (with_reducible apply spanOver_held) | (with_reducible apply held_foldl) | (with_reducible apply held_foldl_fst) | (simp only [held_mk]) | split | (intro _))

theorem initRows_held (s : State) (w : Who) (base m np : Nat) (accum : Bool) (h_s : Held hp hn hb s) : Held hp hn hb (initRows s w base m np accum) := by
  unfold initRows
  try dsimp only
  repeat' (first | (with_reducible assumption) | (with_reducible apply accPut_held) | split | (intro _))

theorem startLpass_held (s : State) (w : Who) (seq m base : Nat) (accum : Bool) (afmt np : Nat) (h_s : Held hp hn hb s) : HeldO hp hn hb (startLpass s w seq m base accum afmt np) := by
  unfold startLpass
  try dsimp only
  repeat' (first | (with_reducible assumption) | (with_reducible apply emptyPass_held) | (with_reducible apply countSpan_held) | (with_reducible apply initRows_held) | (with_reducible apply modLat_held) | (with_reducible apply heldO_some) | (with_reducible apply heldO_none) | (with_reducible apply heldO_map) | (with_reducible apply heldP_map) | (simp only [held_mk]) | split | (intro _))

theorem startLsplit_held (s : State) (w : Who) (seq : Nat) (h_s : Held hp hn hb s) : HeldO hp hn hb (startLsplit s w seq) := by
  unfold startLsplit
  try dsimp only
  repeat' (first | (with_reducible assumption) | (with_reducible apply modFacet_held) | (with_reducible apply modCtx_held) | (with_reducible apply modCmd_held) | (with_reducible apply heldO_some) | (with_reducible apply heldO_none) | (simp only [held_mk]) | split | (intro _))

theorem startCmode_held (s : State) (w : Who) (seq gmax : Nat) (h_s : Held hp hn hb s) : HeldO hp hn hb (startCmode s w seq gmax) := by
  unfold startCmode
  try dsimp only
  repeat' (first | (with_reducible assumption) | (with_reducible apply modCmd_held) | (with_reducible apply modCtx_held) | (with_reducible apply heldO_some) | (with_reducible apply heldO_none) | (simp only [held_mk]) | split | (intro _))

end Sys2Proof.Machine
end

