-- ==== Sys2Proof/Laws/HeldPrism.lean ====
section
/-! SUPPORT. What the operations of Machine/Prism.lean keep: the queue, the clock and canonical memories. -/

set_option linter.unreachableTactic false
set_option linter.unusedTactic false
set_option linter.unusedVariables false
set_option linter.unusedSimpArgs false

namespace Sys2Proof.Machine

variable {hp : List Instr} {hn : Nat} {hb : Bool}

theorem prismRun_held (s : State) (q op arg : Nat) (bs : List Byte) (h_s : Held hp hn hb s) : Held hp hn hb (prismRun s q op arg bs).1 := by
  unfold prismRun
  try dsimp only
  repeat' (first | (with_reducible assumption) | (with_reducible apply bump_held) | split | (intro _))

theorem setPermValid_held (s : State) (q i : Nat) (v : Bool) (h_s : Held hp hn hb s) : Held hp hn hb (setPermValid s q i v) := by
  unfold setPermValid
  try dsimp only
  repeat' (first | (with_reducible assumption) | (with_reducible apply fset_held) | split | (intro _))

theorem execPermutationLoad_held (quad index : Nat) (s : State) (h_s : Held hp hn hb s) : HeldR hp hn hb (execPermutationLoad quad index s) := by
  unfold execPermutationLoad
  try dsimp only
  repeat' (first | (with_reducible assumption) | (with_reducible apply fset_held) | (with_reducible apply setPermValid_held) | (with_reducible apply heldR_next) | (with_reducible apply heldR_whenever) | (simp only [held_mk]) | split | (intro _))

theorem execPermutationStored_held (s : State) (h_s : Held hp hn hb s) : HeldR hp hn hb (execPermutationStored s) := by
  unfold execPermutationStored
  try dsimp only
  repeat' (first | (with_reducible assumption) | (with_reducible apply setPermValid_held) | (with_reducible apply fset_held) | (with_reducible apply heldR_next) | (with_reducible apply heldR_whenever) | (simp only [held_mk]) | split | (intro _))

end Sys2Proof.Machine
end

