-- ==== Sys2Proof/Laws/HeldWalk.lean ====
section
/-! SUPPORT. What the operations of Machine/Walk.lean keep: the queue, the clock and canonical memories. -/

set_option linter.unreachableTactic false
set_option linter.unusedTactic false
set_option linter.unusedVariables false
set_option linter.unusedSimpArgs false

namespace Sys2Proof.Machine

variable {hp : List Instr} {hn : Nat} {hb : Bool}

theorem translate_held (s : State) (vpn : Nat) (h_s : Held hp hn hb s) : Held hp hn hb (translate s vpn) := by
  unfold translate
  try dsimp only
  repeat' (first | (with_reducible assumption) | (with_reducible apply cacheLookup_held) | (with_reducible apply event_held) | split | (intro _))

theorem countFar_held (s : State) (vpn n : Nat) (h_s : Held hp hn hb s) : Held hp hn hb (countFar s vpn n) := by
  unfold countFar
  try dsimp only
  repeat' (first | (with_reducible assumption) | (with_reducible apply bump_held) | split | (intro _))

theorem readBlocks_held (s : State) (bs : List (Nat × Nat)) (h_s : Held hp hn hb s) : Held hp hn hb (readBlocks s bs) := by
  unfold readBlocks
  try dsimp only
  repeat' (first | (with_reducible assumption) | (with_reducible apply countFar_held) | (with_reducible apply held_foldl) | (with_reducible apply held_foldl_fst) | split | (intro _))

theorem writeBlocks_held (s : State) (vpn off n : Nat) (h_s : Held hp hn hb s) : Held hp hn hb (writeBlocks s vpn off n) := by
  unfold writeBlocks
  try dsimp only
  repeat' (first | (with_reducible assumption) | (with_reducible apply countFar_held) | split | (intro _))

theorem markDirty_held (s : State) (frame : Nat) (h_s : Held hp hn hb s) : Held hp hn hb (markDirty s frame) := by
  unfold markDirty
  try dsimp only
  repeat' (first | (with_reducible assumption) | (with_reducible apply modPaging_held) | (simp only [held_mk]) | split | (intro _))

theorem pageWrite_held (s : State) (unit : Option Nat) (vpn : Nat) (ws : List (Nat × Byte)) (h_s : Held hp hn hb s) : Held hp hn hb (pageWrite s unit vpn ws) := by
  unfold pageWrite
  try dsimp only
  repeat' (first | (with_reducible assumption) | (with_reducible apply markDirty_held) | (with_reducible apply stsPut_held) | (with_reducible apply writeBlocks_held) | (with_reducible apply putFar_held) | (with_reducible apply wf_memPuts) | (simp only [held_mk]) | (simp only [held_mkFar]) | split | (intro _))

end Sys2Proof.Machine
end

