-- ==== Sys2Proof/Laws/HeldStream.lean ====
section
/-! SUPPORT. What the operations of Machine/Stream.lean keep: the queue, the clock and canonical memories. -/

set_option linter.unreachableTactic false
set_option linter.unusedTactic false
set_option linter.unusedVariables false
set_option linter.unusedSimpArgs false

namespace Sys2Proof.Machine

variable {hp : List Instr} {hn : Nat} {hb : Bool}

theorem streamSettle_held (s : State) (e h : Nat) (h_s : Held hp hn hb s) : Held hp hn hb (streamSettle s e h) := by
  unfold streamSettle
  try dsimp only
  repeat' (first | (with_reducible assumption) | (with_reducible apply streamEnds_held) | (with_reducible apply modStream_held) | (simp only [held_mk]) | split | (intro _))

theorem execBlockListFetch_held (e h : Nat) (s : State) (h_s : Held hp hn hb s) : HeldR hp hn hb (execBlockListFetch e h s) := by
  unfold execBlockListFetch
  try dsimp only
  repeat' (first | (with_reducible assumption) | (with_reducible apply modStream_held) | (with_reducible apply countRange_held) | (with_reducible apply streamSettle_held) | (with_reducible apply bump_held) | (with_reducible apply heldR_next) | (with_reducible apply heldR_whenever) | (simp only [held_mk]) | split | (intro _))

theorem execNeuronListReady_held (e h : Nat) (s : State) (h_s : Held hp hn hb s) : HeldR hp hn hb (execNeuronListReady e h s) := by
  unfold execNeuronListReady
  try dsimp only
  repeat' (first | (with_reducible assumption) | (with_reducible apply drawn_held) | (with_reducible apply modStream_held) | (with_reducible apply fmemTouch_held) | (with_reducible apply heldR_next) | (with_reducible apply heldR_whenever) | (simp only [held_mk]) | split | (intro _))

theorem spaceTouch_held (s : State) (own : Nat) (d : Td) (as : List Nat) (h_s : Held hp hn hb s) : Held hp hn hb (spaceTouch s own d as) := by
  unfold spaceTouch
  try dsimp only
  repeat' (first | (with_reducible assumption) | (with_reducible apply countLines_held) | (with_reducible apply fmemTouch_held) | split | (intro _))

theorem throughPrism_held (s : State) (e own : Nat) (b : BEntry) (bs : List Byte) (h_s : Held hp hn hb s) : Held hp hn hb (throughPrism s e own b bs).1 := by
  unfold throughPrism
  try dsimp only
  repeat' (first | (with_reducible assumption) | (with_reducible apply prismRun_held) | (refine held_pair (by assumption) ?_; with_reducible apply prismRun_held) | split | (intro _))

theorem countClip_held (s : State) (e h : Nat) (x : Stream) (clip : Bool) (h_s : Held hp hn hb s) : Held hp hn hb (countClip s e h x clip) := by
  unfold countClip
  try dsimp only
  repeat' (first | (with_reducible assumption) | (with_reducible apply modStream_held) | (with_reducible apply bump_held) | (simp only [held_mk]) | split | (intro _))

theorem crossLinks_held (s : State) (cs : List (Nat × Nat × Nat)) (h_s : Held hp hn hb s) : Held hp hn hb (crossLinks s cs) := by
  unfold crossLinks
  try dsimp only
  repeat' (first | (with_reducible assumption) | (with_reducible apply held_foldl) | (with_reducible apply held_foldl_fst) | (simp only [held_mk]) | split | (intro _))

theorem launchAfter_held (s : State) (e h : Nat) (t : Transfer) (whole : Bool) (more : Nat) (h_s : Held hp hn hb s) : Held hp hn hb (launchAfter s e h t whole more) := by
  unfold launchAfter
  try dsimp only
  repeat' (first | (with_reducible assumption) | (with_reducible apply crossLinks_held) | (with_reducible apply modEngine_held) | (with_reducible apply modStream_held) | (with_reducible apply held_foldl) | (with_reducible apply held_foldl_fst) | (simp only [held_mk]) | split | (intro _))

theorem launch_held (s : State) (e h : Nat) (t : Transfer) (whole : Bool) (h_s : Held hp hn hb s) : Held hp hn hb (launch s e h t whole) := by
  unfold launch
  try dsimp only
  repeat' (first | (with_reducible assumption) | (with_reducible apply launchAfter_held) | split | (intro _))

theorem startCopy_held (s : State) (e h : Nat) (x : Stream) (b : BEntry) (h_s : Held hp hn hb s) : Held hp hn hb (startCopy s e h x b) := by
  unfold startCopy
  try dsimp only
  repeat' (first | (with_reducible assumption) | (with_reducible apply spaceTouch_held) | (with_reducible apply throughPrism_held) | (with_reducible apply countClip_held) | (with_reducible apply launch_held) | (simp only [held_mk]) | (refine held_pair (by assumption) ?_; with_reducible apply throughPrism_held) | split | (intro _))

theorem startTile_held (s : State) (e h : Nat) (x : Stream) (b : BEntry) (h_s : Held hp hn hb s) : Held hp hn hb (startTile s e h x b) := by
  unfold startTile
  try dsimp only
  repeat' (first | (with_reducible assumption) | (with_reducible apply spaceTouch_held) | (with_reducible apply countClip_held) | (with_reducible apply launch_held) | (simp only [held_mk]) | split | (intro _))

theorem startTileHead_held (s : State) (e h : Nat) (x : Stream) (b : BEntry) (h_s : Held hp hn hb s) : Held hp hn hb (startTileHead s e h x b) := by
  unfold startTileHead
  try dsimp only
  repeat' (first | (with_reducible assumption) | (with_reducible apply spaceTouch_held) | (with_reducible apply countClip_held) | (with_reducible apply launch_held) | (simp only [held_mk]) | split | (intro _))

theorem startCtile_held (s : State) (e h : Nat) (x : Stream) (b : BEntry) (h_s : Held hp hn hb s) : Held hp hn hb (startCtile s e h x b) := by
  unfold startCtile
  try dsimp only
  repeat' (first | (with_reducible assumption) | (with_reducible apply spaceTouch_held) | (with_reducible apply countClip_held) | (with_reducible apply launch_held) | (simp only [held_mk]) | split | (intro _))

theorem translateAll_held (s : State) (ps : List Nat) (h_s : Held hp hn hb s) : Held hp hn hb (translateAll s ps) := by
  unfold translateAll
  try dsimp only
  repeat' (first | (with_reducible assumption) | (with_reducible apply translate_held) | (with_reducible apply held_foldl) | (with_reducible apply held_foldl_fst) | split | (intro _))

theorem touchWalk_held (s : State) (lf : Nat) (d : Td) (dir : Option Directory) (first n : Nat) (ps : List Place) (reads : Bool) (h_s : Held hp hn hb s) : Held hp hn hb (touchWalk s lf d dir first n ps reads) := by
  unfold touchWalk
  try dsimp only
  repeat' (first | (with_reducible assumption) | (with_reducible apply readBlocks_held) | (with_reducible apply translateAll_held) | (with_reducible apply countLines_held) | split | (intro _))

theorem startWalkRead_held (s : State) (e h : Nat) (x : Stream) (b : BEntry) (root : Option Nat) (h_s : Held hp hn hb s) : Held hp hn hb (startWalkRead s e h x b root) := by
  unfold startWalkRead
  try dsimp only
  repeat' (first | (with_reducible assumption) | (with_reducible apply touchWalk_held) | (with_reducible apply throughPrism_held) | (with_reducible apply countClip_held) | (with_reducible apply launchAfter_held) | (simp only [held_mk]) | (refine held_pair (by assumption) ?_; with_reducible apply throughPrism_held) | split | (intro _))

theorem startWalkWrite_held (s : State) (e h : Nat) (x : Stream) (b : BEntry) (root : Option Nat) (h_s : Held hp hn hb s) : Held hp hn hb (startWalkWrite s e h x b root) := by
  unfold startWalkWrite
  try dsimp only
  repeat' (first | (with_reducible assumption) | (with_reducible apply spaceTouch_held) | (with_reducible apply touchWalk_held) | (with_reducible apply countClip_held) | (with_reducible apply launchAfter_held) | (simp only [held_mk]) | split | (intro _) | (simp only [id_eq]))

theorem absentWalk_held (s : State) (x : Stream) (b : BEntry) (h_s : Held hp hn hb s) : Held hp hn hb (absentWalk s x b) := by
  unfold absentWalk
  try dsimp only
  repeat' (first | (with_reducible assumption) | (with_reducible apply readBlocks_held) | (with_reducible apply translateAll_held) | split | (intro _))

theorem readPiece_held (o : Origin) (e : Nat) (img : List Byte) (d : Td) (acc : State × Transfer) (p : Piece) (at_ : Nat) (h : Held hp hn hb acc.1) :
    HeldE hp hn hb (readPiece o e img d acc p at_) := by
  obtain ⟨s, t⟩ := acc
  unfold readPiece
  dsimp only
  repeat' (first | (with_reducible assumption) | (with_reducible apply heldE_ok) | (with_reducible apply heldE_error) | (with_reducible apply sendReads_held) | (with_reducible apply countRange_held) | split)

theorem readPieces_held (o : Origin) (e : Nat) (img : List Byte) (d : Td) (acc : State × Transfer) (ps : List Piece) (h : Held hp hn hb acc.1) :
    HeldE hp hn hb (readPieces o e img d acc ps) :=
  heldE_foldlM _ _ _ h fun x y hx => readPiece_held o e img d x y _ hx

theorem askValues_held (s : State) (e : Nat) (t : Transfer) (h_s : Held hp hn hb s) : HeldE hp hn hb (askValues s e t) := by
  unfold askValues
  try dsimp only
  repeat' (first | (with_reducible assumption) | (with_reducible apply readPieces_held) | (with_reducible apply heldE_ok) | (with_reducible apply heldE_ok') | (with_reducible apply heldE_error) | (simp only [held_mk]) | (refine heldE_elim (by assumption) ?_; with_reducible apply readPieces_held) | split | (intro _) | (simp only [id_eq]))

theorem settleBytes_held (s : State) (e : Nat) (t : Transfer) (h_s : Held hp hn hb s) : Held hp hn hb (settleBytes s e t).1 := by
  unfold settleBytes
  try dsimp only
  repeat' (first | (with_reducible assumption) | (with_reducible apply throughPrism_held) | (simp only [held_mk]) | (refine held_pair (by assumption) ?_; with_reducible apply throughPrism_held) | split | (intro _))

theorem bytesReady_held (s : State) (e : Nat) (t : Transfer) (h_s : Held hp hn hb s) : HeldE hp hn hb (bytesReady s e t) := by
  unfold bytesReady
  try dsimp only
  repeat' (first | (with_reducible assumption) | (with_reducible apply askValues_held) | (with_reducible apply settleBytes_held) | (with_reducible apply heldE_map) | (with_reducible apply heldE_ok) | (with_reducible apply heldE_ok') | (with_reducible apply heldE_error) | (simp only [held_mk]) | (refine heldE_elim (by assumption) ?_; with_reducible apply askValues_held) | (refine held_pair (by assumption) ?_; with_reducible apply settleBytes_held) | split | (intro _))

theorem startDistRead_held (s : State) (e h : Nat) (x : Stream) (b : BEntry) (h_s : Held hp hn hb s) : HeldX hp hn hb (startDistRead s e h x b) := by
  unfold startDistRead
  try dsimp only
  repeat' (first | (with_reducible assumption) | (with_reducible apply countClip_held) | (with_reducible apply readPieces_held) | (with_reducible apply launch_held) | (with_reducible apply bytesReady_held) | (with_reducible apply heldX_mapE) | (with_reducible apply heldX_mapX) | (with_reducible apply heldX_ok) | (with_reducible apply heldX_error) | (simp only [held_mk]) | (refine heldE_elim (by assumption) ?_; with_reducible apply readPieces_held) | (refine heldE_elim (by assumption) ?_; with_reducible apply bytesReady_held) | split | (intro _) | (simp only [id_eq]))

theorem startDistWrite_held (s : State) (e h : Nat) (x : Stream) (b : BEntry) (bs : List Byte) (es : Nat) (offs : List (Option Nat)) (units : Nat)
    (sparse : Option Bool) (h_s : Held hp hn hb s) : HeldX hp hn hb (startDistWrite s e h x b bs es offs units sparse) := by
  unfold startDistWrite
  split
  · exact heldX_error
  · dsimp only
    split
    · exact heldX_error
    · next t u v e =>
      have ht : Held hp hn hb t := heldP_elim e (heldP_foldlM _ _ _ h_s fun a y ha => by
        split
        · exact heldP_some' ha
        · refine heldP_map fun r hr => ?_
          exact heldP_elim (t := r.1) (a := r.2) hr (writePiece_held _ _ _ _ _ ha))
      refine heldX_ok ?_
      repeat' (first | (with_reducible assumption) | (with_reducible apply mergeRun_held) | (with_reducible apply launch_held) | (with_reducible apply modStream_held) | split)

theorem startToDist_held (s : State) (e h : Nat) (x : Stream) (b : BEntry) (h_s : Held hp hn hb s) : HeldX hp hn hb (startToDist s e h x b) := by
  unfold startToDist
  try dsimp only
  repeat' (first | (with_reducible assumption) | (with_reducible apply spaceTouch_held) | (with_reducible apply countClip_held) | (with_reducible apply startDistWrite_held) | (with_reducible apply throughPrism_held) | (with_reducible apply heldX_mapE) | (with_reducible apply heldX_mapX) | (with_reducible apply heldX_ok) | (with_reducible apply heldX_error) | (refine heldX_elim (by assumption) ?_; with_reducible apply startDistWrite_held) | (refine held_pair (by assumption) ?_; with_reducible apply throughPrism_held) | split | (intro _))

theorem startWalk_held (s : State) (e h : Nat) (x : Stream) (b : BEntry) (h_s : Held hp hn hb s) : HeldX hp hn hb (startWalk s e h x b) := by
  unfold startWalk
  try dsimp only
  repeat' (first | (with_reducible assumption) | (with_reducible apply startWalkRead_held) | (with_reducible apply startWalkWrite_held) | (with_reducible apply heldX_mapE) | (with_reducible apply heldX_mapX) | (with_reducible apply heldX_ok) | (with_reducible apply heldX_error) | split | (intro _))

theorem startEntry_held (s : State) (e h : Nat) (x : Stream) (b : BEntry) (h_s : Held hp hn hb s) : HeldX hp hn hb (startEntry s e h x b) := by
  unfold startEntry
  try dsimp only
  repeat' (first | (with_reducible assumption) | (with_reducible apply startWalk_held) | (with_reducible apply startDistRead_held) | (with_reducible apply startToDist_held) | (with_reducible apply startTileHead_held) | (with_reducible apply startTile_held) | (with_reducible apply startCtile_held) | (with_reducible apply startCopy_held) | (with_reducible apply heldX_ok) | (with_reducible apply heldX_error) | (refine heldX_elim (by assumption) ?_; with_reducible apply startWalk_held) | (refine heldX_elim (by assumption) ?_; with_reducible apply startDistRead_held) | (refine heldX_elim (by assumption) ?_; with_reducible apply startToDist_held) | split | (intro _))

theorem relaunch_held (s : State) (e : Nat) (t : Transfer) (more : Nat) (h_s : Held hp hn hb s) : Held hp hn hb (relaunch s e t more) := by
  unfold relaunch
  try dsimp only
  repeat' (first | (with_reducible assumption) | (with_reducible apply modEngine_held) | (simp only [held_mk]) | split | (intro _) | (simp only [id_eq]))

theorem startValues_held (s : State) (e : Nat) (x : Stream) (t : Transfer) (h_s : Held hp hn hb s) : HeldX hp hn hb (startValues s e x t) := by
  unfold startValues
  try dsimp only
  repeat' (first | (with_reducible assumption) | (with_reducible apply askValues_held) | (with_reducible apply relaunch_held) | (with_reducible apply readBlocks_held) | (with_reducible apply translateAll_held) | (with_reducible apply spaceTouch_held) | (with_reducible apply heldX_mapE) | (with_reducible apply heldX_mapX) | (with_reducible apply heldX_ok) | (with_reducible apply heldX_error) | (simp only [held_mk]) | (refine heldE_elim (by assumption) ?_; with_reducible apply askValues_held) | split | (intro _))

theorem startNext_held (s : State) (e h : Nat) (x : Stream) (h_s : Held hp hn hb s) : HeldX hp hn hb (startNext s e h x) := by
  unfold startNext
  try dsimp only
  repeat' (first | (with_reducible assumption) | (with_reducible apply startValues_held) | (with_reducible apply startEntry_held) | (with_reducible apply heldX_ok) | (with_reducible apply heldX_error) | (refine heldX_elim (by assumption) ?_; with_reducible apply startValues_held) | (refine heldX_elim (by assumption) ?_; with_reducible apply startEntry_held) | split | (intro _))

theorem execTransferStart_held (e h : Nat) (s : State) (h_s : Held hp hn hb s) : HeldR hp hn hb (execTransferStart e h s) := by
  unfold execTransferStart
  try dsimp only
  repeat' (first | (with_reducible assumption) | (with_reducible apply modEngine_held) | (with_reducible apply startNext_held) | (with_reducible apply abortTask_held) | (with_reducible apply absentWalk_held) | (with_reducible apply chordDrop_held) | (with_reducible apply remoteReject_held) | (with_reducible apply heldR_next) | (with_reducible apply heldR_whenever) | (with_reducible apply heldO_getD) | (with_reducible apply heldO_map) | (simp only [held_mk]) | (refine heldX_elim (by assumption) ?_; with_reducible apply startNext_held) | split | (intro _))

theorem wabDeliver_held (s : State) (w : Who) (h : Nat) (ws : List (Nat × Byte)) (h_s : Held hp hn hb s) : Held hp hn hb (wabDeliver s w h ws) := by
  unfold wabDeliver
  try dsimp only
  repeat' (first | (with_reducible assumption) | (with_reducible apply modFacet_held) | (with_reducible apply modLat_held) | (simp only [held_mk]) | split | (intro _))

theorem stageDeliver_held (s : State) (w : Who) (h : Nat) (ws : List (Nat × Byte)) (h_s : Held hp hn hb s) : Held hp hn hb (stageDeliver s w h ws) := by
  unfold stageDeliver
  try dsimp only
  repeat' (first | (with_reducible assumption) | (with_reducible apply modFacet_held) | (with_reducible apply modLat_held) | (simp only [held_mk]) | split | (intro _))

theorem parkTile_held (s : State) (e : Nat) (t : Transfer) (h_s : Held hp hn hb s) : Held hp hn hb (parkTile s e t) := by
  unfold parkTile
  try dsimp only
  repeat' (first | (with_reducible assumption) | (with_reducible apply modEngine_held) | (with_reducible apply modLat_held) | (simp only [held_mk]) | split | (intro _) | (simp only [id_eq]))

theorem setFormats_held (s : State) (fs : List (Nat × Nat)) (h_s : Held hp hn hb s) : Held hp hn hb (setFormats s fs) := by
  unfold setFormats
  try dsimp only
  repeat' (first | (with_reducible assumption) | (with_reducible apply setPte_held) | (with_reducible apply held_foldl) | (with_reducible apply held_foldl_fst) | split | (intro _))

theorem perform_held (s : State) (t : Transfer) (h_s : Held hp hn hb s) : Held hp hn hb (perform s t) := by
  unfold perform
  try dsimp only
  repeat' (first | (with_reducible assumption) | (with_reducible apply arrAdd_held) | (with_reducible apply rawWriteOrAbort_held) | (with_reducible apply taskWriteOrAbort_held) | (with_reducible apply stsPut_held) | (with_reducible apply setFormats_held) | (with_reducible apply pageWrite_held) | (with_reducible apply wabDeliver_held) | (with_reducible apply stageDeliver_held) | (with_reducible apply stageTile_held) | (with_reducible apply localPost_held) | (with_reducible apply held_foldl) | (with_reducible apply held_foldl_fst) | split | (intro _) | (simp only [id_eq]))

theorem countTransfer_held (s : State) (e : Nat) (t : Transfer) (h_s : Held hp hn hb s) : Held hp hn hb (countTransfer s e t) := by
  unfold countTransfer
  try dsimp only
  repeat' (first | (with_reducible assumption) | (with_reducible apply bump_held) | split | (intro _))

theorem execTransferComplete_held (e id : Nat) (s : State) (h_s : Held hp hn hb s) : HeldR hp hn hb (execTransferComplete e id s) := by
  unfold execTransferComplete
  try dsimp only
  repeat' (first | (with_reducible assumption) | (with_reducible apply parkTile_held) | (with_reducible apply abortTask_held) | (with_reducible apply modEngine_held) | (with_reducible apply modStream_held) | (with_reducible apply countTransfer_held) | (with_reducible apply settleFlights_held) | (with_reducible apply streamSettle_held) | (with_reducible apply perform_held) | (with_reducible apply heldR_next) | (with_reducible apply heldR_whenever) | (with_reducible apply heldO_getD) | (with_reducible apply heldO_map) | (simp only [held_mk]) | split | (intro _) | (simp only [id_eq]))

theorem startTdmk_held (s : State) (w : Who) (fromSts : Bool) (addr : Word) (h_s : Held hp hn hb s) : HeldP hp hn hb (startTdmk s w fromSts addr) := by
  unfold startTdmk
  try dsimp only
  repeat' (first | (with_reducible assumption) | (with_reducible apply countRange_held) | (with_reducible apply fmemTouch_held) | (with_reducible apply heldP_some) | (with_reducible apply heldP_none) | (with_reducible apply heldP_some') | split | (intro _))

theorem finishTdmk_held (s : State) (w : Who) (h : Nat) (img : List Byte) (h_s : Held hp hn hb s) : Held hp hn hb (finishTdmk s w h img).1 := by
  unfold finishTdmk
  try dsimp only
  repeat' (first | (with_reducible assumption) | (with_reducible apply setTd_held) | (with_reducible apply bump_held) | (with_reducible apply taskWriteOrAbort_held) | split | (intro _))

theorem finishTdrl_held (s : State) (w : Who) (h : Nat) (h_s : Held hp hn hb s) : Held hp hn hb (finishTdrl s w h) := by
  unfold finishTdrl
  try dsimp only
  repeat' (first | (with_reducible assumption) | (with_reducible apply taskWriteOrAbort_held) | (with_reducible apply setTd_held) | split | (intro _))

theorem finishStrm_held (s : State) (w : Who) (o : StrmArgs) (addr rate target : Word) (h_s : Held hp hn hb s) : Held hp hn hb (finishStrm s w o addr rate target) := by
  unfold finishStrm
  try dsimp only
  repeat' (first | (with_reducible assumption) | (with_reducible apply modEngine_held) | (simp only [held_mk]) | split | (intro _))

end Sys2Proof.Machine
end

