-- ==== Sys2Proof/Laws/HeldChord.lean ====
section
/-! SUPPORT. What the operations of Machine/Chord.lean keep: the queue, the clock and canonical memories. -/

set_option linter.unreachableTactic false
set_option linter.unusedTactic false
set_option linter.unusedVariables false
set_option linter.unusedSimpArgs false

namespace Sys2Proof.Machine

variable {hp : List Instr} {hn : Nat} {hb : Bool}

theorem enterPort_held (s : State) (p st : Nat) (h_s : Held hp hn hb s) : Held hp hn hb (enterPort s p st) := by
  unfold enterPort
  try dsimp only
  repeat' (first | (with_reducible assumption) | (with_reducible apply modPort_held) | (with_reducible apply fset_held) | (simp only [held_mk]) | split | (intro _))

theorem leavePort_held (s : State) (p st : Nat) (h_s : Held hp hn hb s) : Held hp hn hb (leavePort s p st) := by
  unfold leavePort
  try dsimp only
  repeat' (first | (with_reducible assumption) | (with_reducible apply enterPort_held) | (with_reducible apply modPort_held) | (with_reducible apply oweCredits_held) | (with_reducible apply abortTask_held) | (with_reducible apply setFlag_held) | (with_reducible apply held_foldl) | (with_reducible apply held_foldl_fst) | (simp only [held_mk]) | split | (intro _))

theorem failPort_held (s : State) (p reason : Nat) (h_s : Held hp hn hb s) : Held hp hn hb (failPort s p reason) := by
  unfold failPort
  try dsimp only
  repeat' (first | (with_reducible assumption) | (with_reducible apply modPort_held) | (with_reducible apply fset_held) | (with_reducible apply leavePort_held) | (simp only [held_mk]) | split | (intro _))

theorem sendControl_held (s : State) (p kind arg : Nat) (h_s : Held hp hn hb s) : Held hp hn hb (sendControl s p kind arg) := by
  unfold sendControl
  try dsimp only
  repeat' (first | (with_reducible assumption) | (with_reducible apply emit_held) | split | (intro _))

theorem execPortEnable_held (p : Nat) (s : State) (h_s : Held hp hn hb s) : HeldR hp hn hb (execPortEnable p s) := by
  unfold execPortEnable
  try dsimp only
  repeat' (first | (with_reducible assumption) | (with_reducible apply enterPort_held) | (with_reducible apply fset_held) | (with_reducible apply heldR_next) | (with_reducible apply heldR_whenever) | split | (intro _))

theorem execPortDisable_held (p : Nat) (s : State) (h_s : Held hp hn hb s) : HeldR hp hn hb (execPortDisable p s) := by
  unfold execPortDisable
  try dsimp only
  repeat' (first | (with_reducible assumption) | (with_reducible apply leavePort_held) | (with_reducible apply fset_held) | (with_reducible apply heldR_next) | (with_reducible apply heldR_whenever) | split | (intro _))

theorem execSignalDetected_held (p : Nat) (s : State) (h_s : Held hp hn hb s) : HeldR hp hn hb (execSignalDetected p s) := by
  unfold execSignalDetected
  try dsimp only
  repeat' (first | (with_reducible assumption) | (with_reducible apply enterPort_held) | (with_reducible apply heldR_next) | (with_reducible apply heldR_whenever) | split | (intro _))

theorem execTrainDone_held (p : Nat) (s : State) (h_s : Held hp hn hb s) : HeldR hp hn hb (execTrainDone p s) := by
  unfold execTrainDone
  try dsimp only
  repeat' (first | (with_reducible assumption) | (with_reducible apply enterPort_held) | (with_reducible apply heldR_next) | (with_reducible apply heldR_whenever) | split | (intro _))

theorem execAlignDone_held (p : Nat) (s : State) (h_s : Held hp hn hb s) : HeldR hp hn hb (execAlignDone p s) := by
  unfold execAlignDone
  try dsimp only
  repeat' (first | (with_reducible assumption) | (with_reducible apply sendControl_held) | (with_reducible apply enterPort_held) | (with_reducible apply heldR_next) | (with_reducible apply heldR_whenever) | (with_reducible apply held_foldl) | (with_reducible apply held_foldl_fst) | split | (intro _))

theorem execBringupTimeout_held (p : Nat) (s : State) (h_s : Held hp hn hb s) : HeldR hp hn hb (execBringupTimeout p s) := by
  unfold execBringupTimeout
  try dsimp only
  repeat' (first | (with_reducible assumption) | (with_reducible apply drawn_held) | (with_reducible apply failPort_held) | (with_reducible apply heldR_next) | (with_reducible apply heldR_whenever) | split | (intro _))

theorem execBringupRetry_held (p : Nat) (s : State) (h_s : Held hp hn hb s) : HeldR hp hn hb (execBringupRetry p s) := by
  unfold execBringupRetry
  try dsimp only
  repeat' (first | (with_reducible assumption) | (with_reducible apply enterPort_held) | (with_reducible apply modPort_held) | (with_reducible apply heldR_next) | (with_reducible apply heldR_whenever) | (simp only [held_mk]) | split | (intro _))

theorem execExchange_held (p version chip vc credits : Nat) (s : State) (h_s : Held hp hn hb s) : HeldR hp hn hb (execExchange p version chip vc credits s) := by
  unfold execExchange
  try dsimp only
  repeat' (first | (with_reducible assumption) | (with_reducible apply failPort_held) | (with_reducible apply modPort_held) | (with_reducible apply fset_held) | (with_reducible apply sendControl_held) | (with_reducible apply heldR_next) | (with_reducible apply heldR_whenever) | (simp only [held_mk]) | split | (intro _))

theorem execDelayProbe_held (p stamp : Nat) (s : State) (h_s : Held hp hn hb s) : HeldR hp hn hb (execDelayProbe p stamp s) := by
  unfold execDelayProbe
  try dsimp only
  repeat' (first | (with_reducible assumption) | (with_reducible apply sendControl_held) | (with_reducible apply heldR_next) | (with_reducible apply heldR_whenever) | split | (intro _))

theorem execDelayEcho_held (p stamp : Nat) (s : State) (h_s : Held hp hn hb s) : HeldR hp hn hb (execDelayEcho p stamp s) := by
  unfold execDelayEcho
  try dsimp only
  repeat' (first | (with_reducible assumption) | (with_reducible apply modPort_held) | (with_reducible apply enterPort_held) | (with_reducible apply fset_held) | (with_reducible apply heldR_next) | (with_reducible apply heldR_whenever) | (simp only [held_mk]) | split | (intro _))

theorem execTickField_held (p arg : Nat) (s : State) (h_s : Held hp hn hb s) : HeldR hp hn hb (execTickField p arg s) := by
  unfold execTickField
  try dsimp only
  repeat' (first | (with_reducible assumption) | (with_reducible apply modSeq_held) | (with_reducible apply sendControl_held) | (with_reducible apply heldR_next) | (with_reducible apply heldR_whenever) | (with_reducible apply held_foldl) | (with_reducible apply held_foldl_fst) | (simp only [held_mk]) | split | (intro _))

theorem sendData_held (s : State) (p first : Nat) (payload : List Byte) (h_s : Held hp hn hb s) : Held hp hn hb (sendData s p first payload) := by
  unfold sendData
  try dsimp only
  repeat' (first | (with_reducible assumption) | (with_reducible apply modPort_held) | (with_reducible apply emit_held) | (with_reducible apply bump_held) | (simp only [held_mk]) | split | (intro _))

theorem sendIdle_held (s : State) (p : Nat) (h_s : Held hp hn hb s) : Held hp hn hb (sendIdle s p) := by
  unfold sendIdle
  try dsimp only
  repeat' (first | (with_reducible assumption) | (with_reducible apply modPort_held) | (with_reducible apply emit_held) | (simp only [held_mk]) | split | (intro _))

theorem sendCredits_held (s : State) (p : Nat) (h_s : Held hp hn hb s) : Held hp hn hb (sendCredits s p) := by
  unfold sendCredits
  try dsimp only
  repeat' (first | (with_reducible assumption) | (with_reducible apply sendIdle_held) | (with_reducible apply held_foldl) | (with_reducible apply held_foldl_fst) | split | (intro _))

theorem sendAck_held (s : State) (p : Nat) (h_s : Held hp hn hb s) : Held hp hn hb (sendAck s p) := by
  unfold sendAck
  try dsimp only
  repeat' (first | (with_reducible assumption) | (with_reducible apply sendCredits_held) | (with_reducible apply sendIdle_held) | split | (intro _))

theorem ackUpTo_held (s : State) (p a : Nat) (h_s : Held hp hn hb s) : Held hp hn hb (ackUpTo s p a) := by
  unfold ackUpTo
  try dsimp only
  repeat' (first | (with_reducible assumption) | (with_reducible apply modPort_held) | (simp only [held_mk]) | split | (intro _))

theorem resend_held (s : State) (p : Nat) (h_s : Held hp hn hb s) : Held hp hn hb (resend s p) := by
  unfold resend
  try dsimp only
  repeat' (first | (with_reducible assumption) | (with_reducible apply leavePort_held) | (with_reducible apply modPort_held) | (with_reducible apply emit_held) | (with_reducible apply bump_held) | (with_reducible apply held_foldl) | (with_reducible apply held_foldl_fst) | (simp only [held_mk]) | split | (intro _))

theorem idleLost_held (s : State) (p a : Nat) (h_s : Held hp hn hb s) : Held hp hn hb (idleLost s p a) := by
  unfold idleLost
  try dsimp only
  repeat' (first | (with_reducible assumption) | (with_reducible apply drawn_held) | (with_reducible apply modPort_held) | (with_reducible apply held_foldl) | (with_reducible apply held_foldl_fst) | (simp only [held_mk]) | split | (intro _))

theorem takeFields_held (s : State) (p : Nat) (f : List Byte) (h_s : Held hp hn hb s) : Held hp hn hb (takeFields s p f) := by
  unfold takeFields
  try dsimp only
  repeat' (first | (with_reducible assumption) | (with_reducible apply modPort_held) | (with_reducible apply ackUpTo_held) | (with_reducible apply resend_held) | (with_reducible apply idleLost_held) | (simp only [held_mk]) | split | (intro _))

theorem refuseFlit_held (s : State) (p : Nat) (h_s : Held hp hn hb s) : Held hp hn hb (refuseFlit s p) := by
  unfold refuseFlit
  try dsimp only
  repeat' (first | (with_reducible assumption) | (with_reducible apply bump_held) | (with_reducible apply sendIdle_held) | (with_reducible apply modPort_held) | (simp only [held_mk]) | split | (intro _))

theorem forwardPacket_held (s : State) (p : Nat) (b : List Byte) (h_s : Held hp hn hb s) : Held hp hn hb (forwardPacket s p b) := by
  unfold forwardPacket
  try dsimp only
  repeat' (first | (with_reducible assumption) | (with_reducible apply oweCredits_held) | (with_reducible apply chordDrop_held) | (with_reducible apply queueOn_held) | split | (intro _))

theorem packetArrived_held (s : State) (p : Nat) (b : List Byte) (h_s : Held hp hn hb s) : Held hp hn hb (packetArrived s p b) := by
  unfold packetArrived
  try dsimp only
  repeat' (first | (with_reducible assumption) | (with_reducible apply oweCredits_held) | (with_reducible apply chordDrop_held) | (with_reducible apply modPort_held) | (with_reducible apply forwardPacket_held) | (simp only [held_mk]) | split | (intro _))

theorem takePayload_held (s : State) (p : Nat) (f : List Byte) (h_s : Held hp hn hb s) : Held hp hn hb (takePayload s p f) := by
  unfold takePayload
  try dsimp only
  repeat' (first | (with_reducible assumption) | (with_reducible apply packetArrived_held) | (with_reducible apply modPort_held) | (with_reducible apply held_foldl) | (with_reducible apply held_foldl_fst) | (simp only [held_mk]) | split | (intro _))

theorem execDataFlit_held (p : Nat) (flit : List Byte) (s : State) (h_s : Held hp hn hb s) : HeldR hp hn hb (execDataFlit p flit s) := by
  unfold execDataFlit
  try dsimp only
  repeat' (first | (with_reducible assumption) | (with_reducible apply refuseFlit_held) | (with_reducible apply modPort_held) | (with_reducible apply takePayload_held) | (with_reducible apply bump_held) | (with_reducible apply takeFields_held) | (with_reducible apply sendAck_held) | (with_reducible apply heldR_next) | (with_reducible apply heldR_whenever) | (simp only [held_mk]) | split | (intro _))

theorem execIdleFlit_held (p : Nat) (flit : List Byte) (s : State) (h_s : Held hp hn hb s) : HeldR hp hn hb (execIdleFlit p flit s) := by
  unfold execIdleFlit
  try dsimp only
  repeat' (first | (with_reducible assumption) | (with_reducible apply refuseFlit_held) | (with_reducible apply takeFields_held) | (with_reducible apply heldR_next) | (with_reducible apply heldR_whenever) | split | (intro _))

theorem execFecFailure_held (p : Nat) (s : State) (h_s : Held hp hn hb s) : HeldR hp hn hb (execFecFailure p s) := by
  unfold execFecFailure
  try dsimp only
  repeat' (first | (with_reducible assumption) | (with_reducible apply sendIdle_held) | (with_reducible apply modPort_held) | (with_reducible apply heldR_next) | (with_reducible apply heldR_whenever) | (simp only [held_mk]) | split | (intro _))

theorem execAckTimeout_held (p : Nat) (s : State) (h_s : Held hp hn hb s) : HeldR hp hn hb (execAckTimeout p s) := by
  unfold execAckTimeout
  try dsimp only
  repeat' (first | (with_reducible assumption) | (with_reducible apply resend_held) | (with_reducible apply heldR_next) | (with_reducible apply heldR_whenever) | split | (intro _))

theorem packetLeft_held (s : State) (t : TxPacket) (h_s : Held hp hn hb s) : Held hp hn hb (packetLeft s t) := by
  unfold packetLeft
  try dsimp only
  repeat' (first | (with_reducible assumption) | (with_reducible apply sendCredits_held) | (with_reducible apply oweCredits_held) | (with_reducible apply engine_held) | (with_reducible apply modEngine_held) | (simp only [held_mk]) | (refine heldR_elim (by assumption) ?_; with_reducible apply engine_held) | split | (intro _) | (simp only [id_eq]))

theorem sendPacket_held (s : State) (c : Nat × TxPacket) (h_s : Held hp hn hb s) : Held hp hn hb (sendPacket s c) := by
  unfold sendPacket
  try dsimp only
  repeat' (first | (with_reducible assumption) | (with_reducible apply modPort_held) | (with_reducible apply sendData_held) | (with_reducible apply packetLeft_held) | (with_reducible apply held_foldl) | (with_reducible apply held_foldl_fst) | (simp only [held_mk]) | split | (intro _))

theorem execPacketTransmit_held (p vc : Nat) (s : State) (h_s : Held hp hn hb s) : HeldR hp hn hb (execPacketTransmit p vc s) := by
  unfold execPacketTransmit
  try dsimp only
  repeat' (first | (with_reducible assumption) | (with_reducible apply sendPacket_held) | (with_reducible apply heldR_next) | (with_reducible apply heldR_whenever) | (with_reducible apply held_foldl) | (with_reducible apply held_foldl_fst) | split | (intro _))

theorem execMcastStall_held (p vc : Nat) (s : State) (h_s : Held hp hn hb s) : HeldR hp hn hb (execMcastStall p vc s) := by
  unfold execMcastStall
  try dsimp only
  repeat' (first | (with_reducible assumption) | (with_reducible apply abortTask_held) | (with_reducible apply heldR_next) | (with_reducible apply heldR_whenever) | split | (intro _))

theorem performPacket_held (p op : Nat) (act : State → List Byte → State) (s : State) (h_s : Held hp hn hb s) (hk_act : ∀ s x, Held hp hn hb s → Held hp hn hb (act s x)) : HeldR hp hn hb (performPacket p op act s) := by
  unfold performPacket
  try dsimp only
  repeat' (first | (with_reducible assumption) | (with_reducible apply modPort_held) | (with_reducible apply sendCredits_held) | (with_reducible apply oweCredits_held) | (with_reducible apply hk_act) | (with_reducible apply heldR_next) | (with_reducible apply heldR_whenever) | (simp only [held_mk]) | split | (intro _))

theorem execWritePkt_held (p : Nat) (s : State) (h_s : Held hp hn hb s) : HeldR hp hn hb (execWritePkt p s) := by
  unfold execWritePkt
  try dsimp only
  repeat' (first | (with_reducible assumption) | (with_reducible apply performPacket_held) | (with_reducible apply stsWrite_held) | (with_reducible apply remoteReject_held) | (with_reducible apply heldR_next) | (with_reducible apply heldR_whenever) | (refine heldR_elim (by assumption) ?_; with_reducible apply performPacket_held) | split | (intro _))

theorem sendResp_held (s : State) (b : List Byte) (tag : Nat) (data : List Byte) (h_s : Held hp hn hb s) : Held hp hn hb (sendResp s b tag data) := by
  unfold sendResp
  try dsimp only
  repeat' (first | (with_reducible assumption) | (with_reducible apply chordDrop_held) | (with_reducible apply queueOn_held) | split | (intro _))

theorem execReadPkt_held (p : Nat) (s : State) (h_s : Held hp hn hb s) : HeldR hp hn hb (execReadPkt p s) := by
  unfold execReadPkt
  try dsimp only
  repeat' (first | (with_reducible assumption) | (with_reducible apply performPacket_held) | (with_reducible apply sendResp_held) | (with_reducible apply countRange_held) | (with_reducible apply remoteReject_held) | (with_reducible apply heldR_next) | (with_reducible apply heldR_whenever) | (refine heldR_elim (by assumption) ?_; with_reducible apply performPacket_held) | split | (intro _))

theorem answerRead_held (s : State) (id : Nat) (r : RemoteRead) (data : List Byte) (h_s : Held hp hn hb s) : Held hp hn hb (answerRead s id r data) := by
  unfold answerRead
  try dsimp only
  repeat' (first | (with_reducible assumption) | (with_reducible apply engine_held) | (with_reducible apply drawn_held) | (with_reducible apply modEngine_held) | (with_reducible apply bytesReady_held) | (with_reducible apply abortTask_held) | (with_reducible apply chordDrop_held) | (with_reducible apply remoteReject_held) | (simp only [held_mk]) | (refine heldR_elim (by assumption) ?_; with_reducible apply engine_held) | (refine heldE_elim (by assumption) ?_; with_reducible apply bytesReady_held) | split | (intro _) | (simp only [id_eq]))

theorem execRespPkt_held (p : Nat) (s : State) (h_s : Held hp hn hb s) : HeldR hp hn hb (execRespPkt p s) := by
  unfold execRespPkt
  try dsimp only
  repeat' (first | (with_reducible assumption) | (with_reducible apply performPacket_held) | (with_reducible apply chordDrop_held) | (with_reducible apply abortTask_held) | (with_reducible apply answerRead_held) | (with_reducible apply heldR_next) | (with_reducible apply heldR_whenever) | (simp only [held_mk]) | (refine heldR_elim (by assumption) ?_; with_reducible apply performPacket_held) | split | (intro _) | (simp only [id_eq]))

theorem execPostPkt_held (p : Nat) (s : State) (h_s : Held hp hn hb s) : HeldR hp hn hb (execPostPkt p s) := by
  unfold execPostPkt
  try dsimp only
  repeat' (first | (with_reducible assumption) | (with_reducible apply performPacket_held) | (with_reducible apply localPost_held) | (with_reducible apply heldR_next) | (with_reducible apply heldR_whenever) | (refine heldR_elim (by assumption) ?_; with_reducible apply performPacket_held) | split | (intro _))

theorem mergePacket_held (p op : Nat) (s : State) (h_s : Held hp hn hb s) : HeldR hp hn hb (mergePacket p op s) := by
  unfold mergePacket
  try dsimp only
  repeat' (first | (with_reducible assumption) | (with_reducible apply modPort_held) | (with_reducible apply heldR_next) | (with_reducible apply heldR_whenever) | (simp only [held_mk]) | split | (intro _))

theorem execMergePkt_held (p : Nat) (s : State) (h_s : Held hp hn hb s) : HeldR hp hn hb (execMergePkt p s) := by
  unfold execMergePkt
  try dsimp only
  repeat' (first | (with_reducible assumption) | (with_reducible apply mergePacket_held) | (with_reducible apply heldR_next) | (with_reducible apply heldR_whenever) | (refine heldR_elim (by assumption) ?_; with_reducible apply mergePacket_held) | split | (intro _))

theorem execMergeEndPkt_held (p : Nat) (s : State) (h_s : Held hp hn hb s) : HeldR hp hn hb (execMergeEndPkt p s) := by
  unfold execMergeEndPkt
  try dsimp only
  repeat' (first | (with_reducible assumption) | (with_reducible apply mergePacket_held) | (with_reducible apply heldR_next) | (with_reducible apply heldR_whenever) | (refine heldR_elim (by assumption) ?_; with_reducible apply mergePacket_held) | split | (intro _))

theorem execReadTimeout_held (tag : Nat) (s : State) (h_s : Held hp hn hb s) : HeldR hp hn hb (execReadTimeout tag s) := by
  unfold execReadTimeout
  try dsimp only
  repeat' (first | (with_reducible assumption) | (with_reducible apply event_held) | (with_reducible apply abortTask_held) | (with_reducible apply heldR_next) | (with_reducible apply heldR_whenever) | (simp only [held_mk]) | split | (intro _) | (simp only [id_eq]))

theorem laneSwapped_held (s : State) (p l dir : Nat) (h_s : Held hp hn hb s) : Held hp hn hb (laneSwapped s p l dir) := by
  unfold laneSwapped
  try dsimp only
  repeat' (first | (with_reducible assumption) | (with_reducible apply event_held) | (with_reducible apply errorRec_held) | split | (intro _))

theorem laneExhausted_held (s : State) (p : Nat) (h_s : Held hp hn hb s) : Held hp hn hb (laneExhausted s p) := by
  unfold laneExhausted
  try dsimp only
  repeat' (first | (with_reducible assumption) | (with_reducible apply setFlag_held) | (with_reducible apply errorRec_held) | split | (intro _))

theorem loseLane_held (s : State) (p l : Nat) (h_s : Held hp hn hb s) : Held hp hn hb (loseLane s p l) := by
  unfold loseLane
  try dsimp only
  repeat' (first | (with_reducible assumption) | (with_reducible apply modPort_held) | (with_reducible apply leavePort_held) | (with_reducible apply laneExhausted_held) | (with_reducible apply sendControl_held) | (with_reducible apply modSeq_held) | (simp only [held_mk]) | split | (intro _))

theorem execLaneLost_held (p lane : Nat) (s : State) (h_s : Held hp hn hb s) : HeldR hp hn hb (execLaneLost p lane s) := by
  unfold execLaneLost
  try dsimp only
  repeat' (first | (with_reducible assumption) | (with_reducible apply loseLane_held) | (with_reducible apply heldR_next) | (with_reducible apply heldR_whenever) | split | (intro _))

theorem execSwapReq_held (p lane count : Nat) (s : State) (h_s : Held hp hn hb s) : HeldR hp hn hb (execSwapReq p lane count s) := by
  unfold execSwapReq
  try dsimp only
  repeat' (first | (with_reducible assumption) | (with_reducible apply sendControl_held) | (with_reducible apply laneSwapped_held) | (with_reducible apply modPort_held) | (with_reducible apply heldR_next) | (with_reducible apply heldR_whenever) | (simp only [held_mk]) | split | (intro _))

theorem execSwapAck_held (p lane count : Nat) (s : State) (h_s : Held hp hn hb s) : HeldR hp hn hb (execSwapAck p lane count s) := by
  unfold execSwapAck
  try dsimp only
  repeat' (first | (with_reducible assumption) | (with_reducible apply fset_held) | (with_reducible apply extendWatchdogs_held) | (with_reducible apply modPort_held) | (with_reducible apply sendIdle_held) | (with_reducible apply laneSwapped_held) | (with_reducible apply heldR_next) | (with_reducible apply heldR_whenever) | (simp only [held_mk]) | split | (intro _))

theorem execChipidWrite_held (chip : Nat) (s : State) (h_s : Held hp hn hb s) : HeldR hp hn hb (execChipidWrite chip s) := by
  unfold execChipidWrite
  try dsimp only
  repeat' (first | (with_reducible assumption) | (with_reducible apply fset_held) | (with_reducible apply heldR_next) | (with_reducible apply heldR_whenever) | split | (intro _))

theorem setOwnerValid_held (s : State) (t : Nat) (on : Bool) (h_s : Held hp hn hb s) : Held hp hn hb (setOwnerValid s t on) := by
  unfold setOwnerValid
  try dsimp only
  repeat' (first | (with_reducible assumption) | (with_reducible apply fset_held) | split | (intro _))

theorem execOwnerTableLoad_held (table : Nat) (s : State) (h_s : Held hp hn hb s) : HeldR hp hn hb (execOwnerTableLoad table s) := by
  unfold execOwnerTableLoad
  try dsimp only
  repeat' (first | (with_reducible assumption) | (with_reducible apply countRange_held) | (with_reducible apply setOwnerValid_held) | (with_reducible apply fset_held) | (with_reducible apply heldR_next) | (with_reducible apply heldR_whenever) | (simp only [held_mk]) | split | (intro _))

theorem execOwnerTableLoaded_held (s : State) (h_s : Held hp hn hb s) : HeldR hp hn hb (execOwnerTableLoaded s) := by
  unfold execOwnerTableLoaded
  try dsimp only
  repeat' (first | (with_reducible assumption) | (with_reducible apply fset_held) | (with_reducible apply setOwnerValid_held) | (with_reducible apply heldR_next) | (with_reducible apply heldR_whenever) | (simp only [held_mk]) | split | (intro _))

end Sys2Proof.Machine
end

