-- ==== Sys2Proof/Laws/HeldConfigRec.lean ====
section
/-! SUPPORT. What the operations of Machine/ConfigRec.lean keep: the queue, the clock and canonical memories. -/

set_option linter.unreachableTactic false
set_option linter.unusedTactic false
set_option linter.unusedVariables false
set_option linter.unusedSimpArgs false

namespace Sys2Proof.Machine

variable {hp : List Instr} {hn : Nat} {hb : Bool}

theorem keepStaged_held (s : State) (f : Field) (h_s : Held hp hn hb s) : Held hp hn hb (keepStaged s f) := by
  unfold keepStaged
  try dsimp only
  repeat' (first | (with_reducible assumption) | (with_reducible apply modCycle_held) | (simp only [held_mk]) | split | (intro _))

theorem produceClamp_held (s : State) (c : Clamp) (h_s : Held hp hn hb s) : Held hp hn hb (produceClamp s c) := by
  unfold produceClamp
  try dsimp only
  repeat' (first | (with_reducible assumption) | (with_reducible apply modSeq_held) | (with_reducible apply bump_held) | (simp only [held_mk]) | split | (intro _))

theorem applyField_held (s : State) (i : Nat) (h_s : Held hp hn hb s) : Held hp hn hb (applyField s i) := by
  unfold applyField
  try dsimp only
  repeat' (first | (with_reducible assumption) | (with_reducible apply fset_held) | (with_reducible apply produceClamp_held) | (with_reducible apply held_foldl) | (with_reducible apply held_foldl_fst) | (simp only [held_mk]) | split | (intro _))

theorem cfgWaiting_held (s : State) (h_s : Held hp hn hb s) : Held hp hn hb (cfgWaiting s) := by
  unfold cfgWaiting
  try dsimp only
  repeat' (first | (with_reducible assumption) | (with_reducible apply fset_held) | split | (intro _))

theorem applySwapFields_held (s : State) (h_s : Held hp hn hb s) : Held hp hn hb (applySwapFields s) := by
  unfold applySwapFields
  try dsimp only
  repeat' (first | (with_reducible assumption) | (with_reducible apply applyField_held) | (with_reducible apply fset_held) | (with_reducible apply produceClamp_held) | (with_reducible apply cfgWaiting_held) | split | (intro _))

theorem applyTickFields_held (s : State) (h_s : Held hp hn hb s) : Held hp hn hb (applyTickFields s) := by
  unfold applyTickFields
  try dsimp only
  repeat' (first | (with_reducible assumption) | (with_reducible apply applyField_held) | (with_reducible apply held_foldl) | (with_reducible apply held_foldl_fst) | split | (intro _))

theorem applyHostFields_held (s : State) (h_s : Held hp hn hb s) : Held hp hn hb (applyHostFields s) := by
  unfold applyHostFields
  try dsimp only
  repeat' (first | (with_reducible assumption) | (with_reducible apply applyField_held) | (with_reducible apply held_foldl) | (with_reducible apply held_foldl_fst) | split | (intro _))

theorem applyAtSwap_held (s : State) (h_s : Held hp hn hb s) : Held hp hn hb (applyAtSwap s) := by
  unfold applyAtSwap
  try dsimp only
  repeat' (first | (with_reducible assumption) | (with_reducible apply applySwapFields_held) | split | (intro _))

theorem putCommitted_held (s : State) (vs : List Nat) (h_s : Held hp hn hb s) : Held hp hn hb (putCommitted s vs) := by
  unfold putCommitted
  try dsimp only
  repeat' (first | (with_reducible assumption) | (with_reducible apply fset_held) | (with_reducible apply held_foldl) | (with_reducible apply held_foldl_fst) | split | (intro _))

theorem applyAtTick_held (s : State) (h_s : Held hp hn hb s) : Held hp hn hb (applyAtTick s) := by
  unfold applyAtTick
  try dsimp only
  repeat' (first | (with_reducible assumption) | (with_reducible apply applyTickFields_held) | (with_reducible apply putCommitted_held) | (simp only [held_mk]) | split | (intro _))

theorem acceptCommit_held (s : State) (h_s : Held hp hn hb s) : Held hp hn hb (acceptCommit s) := by
  unfold acceptCommit
  try dsimp only
  repeat' (first | (with_reducible assumption) | (with_reducible apply putCommitted_held) | (with_reducible apply cfgWaiting_held) | (with_reducible apply fset_held) | (simp only [held_mk]) | split | (intro _))

theorem applyAtRest_held (s : State) (h_s : Held hp hn hb s) : Held hp hn hb (applyAtRest s) := by
  unfold applyAtRest
  try dsimp only
  repeat' (first | (with_reducible assumption) | (with_reducible apply applyTickFields_held) | (with_reducible apply applySwapFields_held) | split | (intro _))

theorem execConfigCommit_held (s : State) (h_s : Held hp hn hb s) : HeldR hp hn hb (execConfigCommit s) := by
  unfold execConfigCommit
  try dsimp only
  repeat' (first | (with_reducible assumption) | (with_reducible apply modCycle_held) | (with_reducible apply fset_held) | (with_reducible apply applyAtRest_held) | (with_reducible apply acceptCommit_held) | (with_reducible apply heldR_next) | (with_reducible apply heldR_whenever) | (simp only [held_mk]) | split | (intro _))

end Sys2Proof.Machine
end

