-- ==== Sys2Proof/Laws/HeldHostIf.lean ====
section
/-! SUPPORT. What the operations of Machine/HostIf.lean keep: the queue, the clock and canonical memories. -/

set_option linter.unreachableTactic false
set_option linter.unusedTactic false
set_option linter.unusedVariables false
set_option linter.unusedSimpArgs false

namespace Sys2Proof.Machine

variable {hp : List Instr} {hn : Nat} {hb : Bool}

theorem setQerr_held (s : State) (q : Nat) (v : Bool) (h_s : Held hp hn hb s) : Held hp hn hb (setQerr s q v) := by
  unfold setQerr
  try dsimp only
  repeat' (first | (with_reducible assumption) | (with_reducible apply fset_held) | split | (intro _))

theorem setQpState_held (s : State) (q st : Nat) (h_s : Held hp hn hb s) : Held hp hn hb (setQpState s q st) := by
  unfold setQpState
  try dsimp only
  repeat' (first | (with_reducible assumption) | (with_reducible apply setQerr_held) | (with_reducible apply fset_held) | split | (intro _))

theorem startQp_held (s : State) (q : Nat) (h_s : Held hp hn hb s) : Held hp hn hb (startQp s q) := by
  unfold startQp
  try dsimp only
  repeat' (first | (with_reducible assumption) | (with_reducible apply fset_held) | (with_reducible apply setQpState_held) | (with_reducible apply modQp_held) | (simp only [held_mk]) | split | (intro _))

theorem execQpEnable_held (q : Nat) (s : State) (h_s : Held hp hn hb s) : HeldR hp hn hb (execQpEnable q s) := by
  unfold execQpEnable
  try dsimp only
  repeat' (first | (with_reducible assumption) | (with_reducible apply startQp_held) | (with_reducible apply heldR_next) | (with_reducible apply heldR_whenever) | split | (intro _))

theorem stopQp_held (s : State) (q : Nat) (h_s : Held hp hn hb s) : Held hp hn hb (stopQp s q) := by
  unfold stopQp
  try dsimp only
  repeat' (first | (with_reducible assumption) | (with_reducible apply fset_held) | (with_reducible apply modQp_held) | (with_reducible apply setQpState_held) | (simp only [held_mk]) | split | (intro _))

theorem execQpDisable_held (q : Nat) (s : State) (h_s : Held hp hn hb s) : HeldR hp hn hb (execQpDisable q s) := by
  unfold execQpDisable
  try dsimp only
  repeat' (first | (with_reducible assumption) | (with_reducible apply stopQp_held) | (with_reducible apply heldR_next) | (with_reducible apply heldR_whenever) | split | (intro _))

theorem execQpDrained_held (q : Nat) (s : State) (h_s : Held hp hn hb s) : HeldR hp hn hb (execQpDrained q s) := by
  unfold execQpDrained
  try dsimp only
  repeat' (first | (with_reducible assumption) | (with_reducible apply setQpState_held) | (with_reducible apply heldR_next) | (with_reducible apply heldR_whenever) | split | (intro _))

theorem qpError_held (s : State) (q code : Nat) (h_s : Held hp hn hb s) : Held hp hn hb (qpError s q code) := by
  unfold qpError
  try dsimp only
  repeat' (first | (with_reducible assumption) | (with_reducible apply setFlag_held) | (with_reducible apply fset_held) | (with_reducible apply setQpState_held) | split | (intro _))

theorem badDoorbell_held (s : State) (addr : Nat) (h_s : Held hp hn hb s) : Held hp hn hb (badDoorbell s addr) := by
  unfold badDoorbell
  try dsimp only
  repeat' (first | (with_reducible assumption) | (with_reducible apply hostErr_held) | split | (intro _))

theorem submit_held (s : State) (q v : Nat) (h_s : Held hp hn hb s) : Held hp hn hb (submit s q v) := by
  unfold submit
  try dsimp only
  repeat' (first | (with_reducible assumption) | (with_reducible apply badDoorbell_held) | (with_reducible apply qpError_held) | (with_reducible apply modQp_held) | (simp only [held_mk]) | split | (intro _))

theorem execSqTail_held (q value : Nat) (s : State) (h_s : Held hp hn hb s) : HeldR hp hn hb (execSqTail q value s) := by
  unfold execSqTail
  try dsimp only
  repeat' (first | (with_reducible assumption) | (with_reducible apply submit_held) | (with_reducible apply heldR_next) | (with_reducible apply heldR_whenever) | split | (intro _))

theorem freeCq_held (s : State) (q v : Nat) (h_s : Held hp hn hb s) : Held hp hn hb (freeCq s q v) := by
  unfold freeCq
  try dsimp only
  repeat' (first | (with_reducible assumption) | (with_reducible apply badDoorbell_held) | (with_reducible apply qpError_held) | (with_reducible apply modQp_held) | (simp only [held_mk]) | split | (intro _))

theorem execCqHead_held (q value : Nat) (s : State) (h_s : Held hp hn hb s) : HeldR hp hn hb (execCqHead q value s) := by
  unfold execCqHead
  try dsimp only
  repeat' (first | (with_reducible assumption) | (with_reducible apply freeCq_held) | (with_reducible apply heldR_next) | (with_reducible apply heldR_whenever) | split | (intro _))

theorem takeSqEntry_held (s : State) (q arrival : Nat) (h_s : Held hp hn hb s) : Held hp hn hb (takeSqEntry s q arrival) := by
  unfold takeSqEntry
  try dsimp only
  repeat' (first | (with_reducible assumption) | (with_reducible apply bump_held) | (with_reducible apply fset_held) | (with_reducible apply modQp_held) | (simp only [held_mk]) | split | (intro _))

theorem execSqFetch_held (q : Nat) (s : State) (h_s : Held hp hn hb s) : HeldR hp hn hb (execSqFetch q s) := by
  unfold execSqFetch
  try dsimp only
  repeat' (first | (with_reducible assumption) | (with_reducible apply takeSqEntry_held) | (with_reducible apply heldR_next) | (with_reducible apply heldR_whenever) | split | (intro _))

theorem popCmd_held (s : State) (q : Nat) (h_s : Held hp hn hb s) : Held hp hn hb (popCmd s q) := by
  unfold popCmd
  try dsimp only
  repeat' (first | (with_reducible assumption) | (with_reducible apply modQp_held) | (simp only [held_mk]) | split | (intro _))

theorem execNopCmd_held (qp : Nat) (s : State) (h_s : Held hp hn hb s) : HeldR hp hn hb (execNopCmd qp s) := by
  unfold execNopCmd
  try dsimp only
  repeat' (first | (with_reducible assumption) | (with_reducible apply complete_held) | (with_reducible apply popCmd_held) | (with_reducible apply heldR_next) | (with_reducible apply heldR_whenever) | split | (intro _))

theorem execBadCommand_held (qp : Nat) (s : State) (h_s : Held hp hn hb s) : HeldR hp hn hb (execBadCommand qp s) := by
  unfold execBadCommand
  try dsimp only
  repeat' (first | (with_reducible assumption) | (with_reducible apply drawn_held) | (with_reducible apply complete_held) | (with_reducible apply popCmd_held) | (with_reducible apply heldR_next) | (with_reducible apply heldR_whenever) | split | (intro _))

theorem fetchingCmd_held (s : State) (q : Nat) (h_s : Held hp hn hb s) : HeldP hp hn hb (fetchingCmd s q) := by
  unfold fetchingCmd
  try dsimp only
  repeat' (first | (with_reducible assumption) | (with_reducible apply modSeq_held) | (with_reducible apply popCmd_held) | (with_reducible apply heldP_some) | (with_reducible apply heldP_none) | (with_reducible apply heldP_some') | (simp only [held_mk]) | split | (intro _))

theorem execDeviceReadError_held (src : ReadSource) (s : State) (h_s : Held hp hn hb s) : HeldR hp hn hb (execDeviceReadError src s) := by
  unfold execDeviceReadError
  try dsimp only
  repeat' (first | (with_reducible assumption) | (with_reducible apply event_held) | (with_reducible apply abortTask_held) | (with_reducible apply fetchingCmd_held) | (with_reducible apply drawn_held) | (with_reducible apply complete_held) | (with_reducible apply heldR_next) | (with_reducible apply heldR_whenever) | (refine heldP_elim (by assumption) ?_; with_reducible apply fetchingCmd_held) | (refine heldP_elim' (by assumption) ?_; with_reducible apply fetchingCmd_held) | split | (intro _))

theorem execBusMasterDisable_held (s : State) (h_s : Held hp hn hb s) : HeldR hp hn hb (execBusMasterDisable s) := by
  unfold execBusMasterDisable
  try dsimp only
  repeat' (first | (with_reducible assumption) | (with_reducible apply modHif_held) | (with_reducible apply heldR_next) | (with_reducible apply heldR_whenever) | (simp only [held_mk]) | split | (intro _))

theorem releaseHeld_held (s : State) (h_s : Held hp hn hb s) : Held hp hn hb (releaseHeld s) := by
  unfold releaseHeld
  try dsimp only
  repeat' (first | (with_reducible assumption) | (with_reducible apply modHif_held) | (with_reducible apply writeCpl_held) | (with_reducible apply held_foldl) | (with_reducible apply held_foldl_fst) | (with_reducible apply putHost_held) | (with_reducible apply wf_memWrite) | (simp only [held_mk]) | (simp only [held_mkHost]) | split | (intro _))

theorem execBusMasterEnable_held (s : State) (h_s : Held hp hn hb s) : HeldR hp hn hb (execBusMasterEnable s) := by
  unfold execBusMasterEnable
  try dsimp only
  repeat' (first | (with_reducible assumption) | (with_reducible apply releaseHeld_held) | (with_reducible apply modHif_held) | (with_reducible apply heldR_next) | (with_reducible apply heldR_whenever) | (simp only [held_mk]) | split | (intro _))

theorem execLinkTraining_held (speed width : Nat) (s : State) (h_s : Held hp hn hb s) : HeldR hp hn hb (execLinkTraining speed width s) := by
  unfold execLinkTraining
  try dsimp only
  repeat' (first | (with_reducible assumption) | (with_reducible apply fset_held) | (with_reducible apply heldR_next) | (with_reducible apply heldR_whenever) | split | (intro _))

theorem losePtm_held (s : State) (h_s : Held hp hn hb s) : Held hp hn hb (losePtm s) := by
  unfold losePtm
  try dsimp only
  repeat' (first | (with_reducible assumption) | (with_reducible apply fset_held) | (with_reducible apply setFlag_held) | split | (intro _))

theorem execPtmExchange_held (ok : Bool) (timeNs : Nat) (s : State) (h_s : Held hp hn hb s) : HeldR hp hn hb (execPtmExchange ok timeNs s) := by
  unfold execPtmExchange
  try dsimp only
  repeat' (first | (with_reducible assumption) | (with_reducible apply fset_held) | (with_reducible apply modHif_held) | (with_reducible apply losePtm_held) | (with_reducible apply heldR_next) | (with_reducible apply heldR_whenever) | (simp only [held_mk]) | split | (intro _))

theorem execLaneMargining_held (lane : Nat) (voltage : Bool) (step errors : Nat) (s : State) (h_s : Held hp hn hb s) : HeldR hp hn hb (execLaneMargining lane voltage step errors s) := by
  unfold execLaneMargining
  try dsimp only
  repeat' (first | (with_reducible assumption) | (with_reducible apply emit_held) | (with_reducible apply heldR_next) | (with_reducible apply heldR_whenever) | split | (intro _))

end Sys2Proof.Machine
end

