-- ==== Sys2Proof/Laws/HeldImage.lean ====
section
/-! SUPPORT. What the operations of Machine/Image.lean keep: the queue, the clock and canonical memories. -/

set_option linter.unreachableTactic false
set_option linter.unusedTactic false
set_option linter.unusedVariables false
set_option linter.unusedSimpArgs false

namespace Sys2Proof.Machine

variable {hp : List Instr} {hn : Nat} {hb : Bool}

theorem startLoad_held (s : State) (c : HostCmd) (h_s : Held hp hn hb s) : Held hp hn hb (startLoad s c) := by
  unfold startLoad
  try dsimp only
  repeat' (first | (with_reducible assumption) | (with_reducible apply drawn_held) | (with_reducible apply complete_held) | (with_reducible apply modSeq_held) | (with_reducible apply fset_held) | (simp only [held_mk]) | split | (intro _))

theorem execLoadImage_held (qp : Nat) (s : State) (h_s : Held hp hn hb s) : HeldR hp hn hb (execLoadImage qp s) := by
  unfold execLoadImage
  try dsimp only
  repeat' (first | (with_reducible assumption) | (with_reducible apply startLoad_held) | (with_reducible apply popCmd_held) | (with_reducible apply heldR_next) | (with_reducible apply heldR_whenever) | split | (intro _))

theorem endAdmission_held (s : State) (c : HostCmd) (codes : List Nat) (h_s : Held hp hn hb s) : Held hp hn hb (endAdmission s c codes) := by
  unfold endAdmission
  try dsimp only
  repeat' (first | (with_reducible assumption) | (with_reducible apply fset_held) | (with_reducible apply modSeq_held) | (with_reducible apply event_held) | (with_reducible apply complete_held) | (with_reducible apply sendVec_held) | (with_reducible apply held_foldl) | (with_reducible apply held_foldl_fst) | (simp only [held_mk]) | split | (intro _))

theorem execAdmissionEnd_held (s : State) (h_s : Held hp hn hb s) : HeldR hp hn hb (execAdmissionEnd s) := by
  unfold execAdmissionEnd
  try dsimp only
  repeat' (first | (with_reducible assumption) | (with_reducible apply endAdmission_held) | (with_reducible apply heldR_next) | (with_reducible apply heldR_whenever) | split | (intro _))

end Sys2Proof.Machine
end

