-- ==== Sys2Proof/Laws/HeldVector.lean ====
section
/-! SUPPORT. What the operations of Machine/Vector.lean keep: the queue, the clock and canonical memories. -/

set_option linter.unreachableTactic false
set_option linter.unusedTactic false
set_option linter.unusedVariables false
set_option linter.unusedSimpArgs false

namespace Sys2Proof.Machine

variable {hp : List Instr} {hn : Nat} {hb : Bool}

theorem startDrain_held (s : State) (w : Who) (addr row scale : Word) (rows conv : Nat) (h_s : Held hp hn hb s) : HeldP hp hn hb (startDrain s w addr row scale rows conv) := by
  unfold startDrain
  try dsimp only
  repeat' (first | (with_reducible assumption) | (with_reducible apply fmemTouch_held) | (with_reducible apply heldP_some) | (with_reducible apply heldP_none) | (with_reducible apply heldP_some') | split | (intro _))

theorem startFill_held (s : State) (w : Who) (addr row : Word) (rows conv : Nat) (h_s : Held hp hn hb s) : HeldP hp hn hb (startFill s w addr row rows conv) := by
  unfold startFill
  try dsimp only
  repeat' (first | (with_reducible assumption) | (with_reducible apply fmemTouch_held) | (with_reducible apply heldP_some) | (with_reducible apply heldP_none) | (with_reducible apply heldP_some') | split | (intro _))

theorem startVec_held (s : State) (w : Who) (op : VOp) (v : VecArgs) (dv av bv : Word) (h_s : Held hp hn hb s) : HeldP hp hn hb (startVec s w op v dv av bv) := by
  unfold startVec
  try dsimp only
  repeat' (first | (with_reducible assumption) | (with_reducible apply bump_held) | (with_reducible apply fmemTouch_held) | (with_reducible apply drawn_held) | (with_reducible apply heldP_some) | (with_reducible apply heldP_none) | (with_reducible apply heldP_some') | split | (intro _))

end Sys2Proof.Machine
end

