-- ==== Sys2Proof/Laws/HeldMemory.lean ====
section
/-! SUPPORT. What the operations of Machine/Memory.lean keep: the queue, the clock and canonical memories. -/

set_option linter.unreachableTactic false
set_option linter.unusedTactic false
set_option linter.unusedVariables false
set_option linter.unusedSimpArgs false

namespace Sys2Proof.Machine

variable {hp : List Instr} {hn : Nat} {hb : Bool}

theorem hostFacetWrite_held (s : State) (f off addr : Nat) (data : List Byte) (h_s : Held hp hn hb s) : Held hp hn hb (hostFacetWrite s f off addr data) := by
  unfold hostFacetWrite
  try dsimp only
  repeat' (first | (with_reducible assumption) | (with_reducible apply fmemPut_held) | (with_reducible apply hostErr_held) | split | (intro _))

theorem execFacetWindowWrite_held (addr : Nat) (data : List Byte) (s : State) (h_s : Held hp hn hb s) : HeldR hp hn hb (execFacetWindowWrite addr data s) := by
  unfold execFacetWindowWrite
  try dsimp only
  repeat' (first | (with_reducible assumption) | (with_reducible apply hostErr_held) | (with_reducible apply hostFacetWrite_held) | (with_reducible apply heldR_next) | (with_reducible apply heldR_whenever) | split | (intro _))

theorem fmemUeSeen_held (s : State) (f addr : Nat) (h_s : Held hp hn hb s) : Held hp hn hb (fmemUeSeen s f addr) := by
  unfold fmemUeSeen
  try dsimp only
  repeat' (first | (with_reducible assumption) | (with_reducible apply fset_held) | (with_reducible apply bump_held) | (with_reducible apply setFlag_held) | split | (intro _))

theorem stsUeSeen_held (s : State) (addr : Nat) (h_s : Held hp hn hb s) : Held hp hn hb (stsUeSeen s addr) := by
  unfold stsUeSeen
  try dsimp only
  repeat' (first | (with_reducible assumption) | (with_reducible apply modPaging_held) | (with_reducible apply fset_held) | (with_reducible apply bump_held) | (with_reducible apply setFlag_held) | (simp only [held_mk]) | split | (intro _))

theorem facetWindowReadDone_held (s : State) (f off n : Nat) (bad : List Nat) (h_s : Held hp hn hb s) : Held hp hn hb (facetWindowReadDone s f off n bad) := by
  unfold facetWindowReadDone
  try dsimp only
  repeat' (first | (with_reducible assumption) | (with_reducible apply fmemUeSeen_held) | (with_reducible apply fmemTouch_held) | (with_reducible apply emit_held) | (with_reducible apply held_foldl) | (with_reducible apply held_foldl_fst) | split | (intro _))

theorem gatherServe_held (s : State) (pf : Nat) (c : TrafficClass) (g : Gather) (h_s : Held hp hn hb s) : HeldP hp hn hb (gatherServe s pf c g) := by
  unfold gatherServe
  try dsimp only
  repeat' (first | (with_reducible assumption) | (with_reducible apply fmemTouch_held) | (with_reducible apply heldP_some) | (with_reducible apply heldP_none) | (with_reducible apply heldP_some') | split | (intro _))

theorem refuseTask_held (s : State) (w : Who) (h_s : Held hp hn hb s) : Held hp hn hb (refuseTask s w) := by
  unfold refuseTask
  try dsimp only
  repeat' (first | (with_reducible assumption) | (with_reducible apply abortTask_held) | split | (intro _))

theorem refuseOp_held (s : State) (f : Nat) (h_s : Held hp hn hb s) : Held hp hn hb (refuseOp s f) := by
  unfold refuseOp
  try dsimp only
  repeat' (first | (with_reducible assumption) | (with_reducible apply hostErr_held) | (with_reducible apply fset_held) | split | (intro _))

theorem beginOp_held (s : State) (f : Nat) (m : MemOp) (h_s : Held hp hn hb s) : Held hp hn hb (beginOp s f m) := by
  unfold beginOp
  try dsimp only
  repeat' (first | (with_reducible assumption) | (with_reducible apply fset_held) | (simp only [held_mk]) | split | (intro _))

theorem takeSource_held (s : State) (f : Nat) (m : MemOp) (src : Nat) (h_s : Held hp hn hb s) : Held hp hn hb (takeSource s f m src).1 := by
  unfold takeSource
  try dsimp only
  repeat' (first | (with_reducible assumption) | (with_reducible apply fmemTouch_held) | (simp only [held_mk]) | split | (intro _))

theorem beginCopy_held (s : State) (f dst src n : Nat) (h_s : Held hp hn hb s) : Held hp hn hb (beginCopy s f dst src n) := by
  unfold beginCopy
  try dsimp only
  repeat' (first | (with_reducible assumption) | (with_reducible apply beginOp_held) | (with_reducible apply takeSource_held) | (refine held_pair (by assumption) ?_; with_reducible apply takeSource_held) | split | (intro _))

theorem startHostOp_held (s : State) (f op : Nat) (h_s : Held hp hn hb s) : Held hp hn hb (startHostOp s f op) := by
  unfold startHostOp
  try dsimp only
  repeat' (first | (with_reducible assumption) | (with_reducible apply fset_held) | (with_reducible apply beginOp_held) | (with_reducible apply beginCopy_held) | (with_reducible apply refuseOp_held) | split | (intro _))

theorem execFmemHostFill_held (f : Nat) (s : State) (h_s : Held hp hn hb s) : HeldR hp hn hb (execFmemHostFill f s) := by
  unfold execFmemHostFill
  try dsimp only
  repeat' (first | (with_reducible assumption) | (with_reducible apply startHostOp_held) | (with_reducible apply heldR_next) | (with_reducible apply heldR_whenever) | split | (intro _))

theorem execFmemHostCopy_held (f : Nat) (s : State) (h_s : Held hp hn hb s) : HeldR hp hn hb (execFmemHostCopy f s) := by
  unfold execFmemHostCopy
  try dsimp only
  repeat' (first | (with_reducible assumption) | (with_reducible apply startHostOp_held) | (with_reducible apply heldR_next) | (with_reducible apply heldR_whenever) | split | (intro _))

theorem wakeCopies_held (s : State) (h_s : Held hp hn hb s) : Held hp hn hb (wakeCopies s) := by
  unfold wakeCopies
  try dsimp only
  repeat' (first | (with_reducible assumption) | (with_reducible apply takeSource_held) | (with_reducible apply held_foldl) | (with_reducible apply held_foldl_fst) | (simp only [held_mk]) | (refine held_pair (by assumption) ?_; with_reducible apply takeSource_held) | split | (intro _))

theorem hostPut_held (s : State) (f addr : Nat) (ws : List (Nat × Byte)) (h_s : Held hp hn hb s) : Held hp hn hb (hostPut s f addr ws) := by
  unfold hostPut
  try dsimp only
  repeat' (first | (with_reducible assumption) | (with_reducible apply fmemPut_held) | (with_reducible apply hostErr_held) | split | (intro _))

theorem execFmemHostOpDone_held (f : Nat) (s : State) (h_s : Held hp hn hb s) : HeldR hp hn hb (execFmemHostOpDone f s) := by
  unfold execFmemHostOpDone
  try dsimp only
  repeat' (first | (with_reducible assumption) | (with_reducible apply fset_held) | (with_reducible apply drawn_held) | (with_reducible apply hostPut_held) | (with_reducible apply heldR_next) | (with_reducible apply heldR_whenever) | (simp only [held_mk]) | split | (intro _))

theorem gateBank_held (s : State) (f b : Nat) (h_s : Held hp hn hb s) : Held hp hn hb (gateBank s f b) := by
  unfold gateBank
  try dsimp only
  repeat' (first | (with_reducible assumption) | (with_reducible apply fset_held) | (simp only [held_mk]) | split | (intro _))

theorem requestGate_held (s : State) (f b : Nat) (h_s : Held hp hn hb s) : Held hp hn hb (requestGate s f b) := by
  unfold requestGate
  try dsimp only
  repeat' (first | (with_reducible assumption) | (with_reducible apply fset_held) | (simp only [held_mk]) | split | (intro _))

theorem clearGate_held (s : State) (f b : Nat) (h_s : Held hp hn hb s) : Held hp hn hb (clearGate s f b) := by
  unfold clearGate
  try dsimp only
  repeat' (first | (with_reducible assumption) | (with_reducible apply fset_held) | (simp only [held_mk]) | split | (intro _))

theorem hostGate_held (s : State) (f b : Nat) (act : State → State) (h_s : Held hp hn hb s) (hk_act : ∀ s, Held hp hn hb s → Held hp hn hb (act s)) : Held hp hn hb (hostGate s f b act) := by
  unfold hostGate
  try dsimp only
  repeat' (first | (with_reducible assumption) | (with_reducible apply bump_held) | (with_reducible apply modCycle_held) | (with_reducible apply hk_act) | (simp only [held_mk]) | split | (intro _))

theorem undoGate_held (s : State) (f b : Nat) (h_s : Held hp hn hb s) : Held hp hn hb (undoGate s f b) := by
  unfold undoGate
  try dsimp only
  repeat' (first | (with_reducible assumption) | (with_reducible apply fset_held) | (with_reducible apply bump_held) | (with_reducible apply modCycle_held) | (simp only [held_mk]) | split | (intro _))

theorem managerGate_held (s : State) (f v : Nat) (h_s : Held hp hn hb s) : Held hp hn hb (managerGate s f v) := by
  unfold managerGate
  try dsimp only
  repeat' (first | (with_reducible assumption) | (with_reducible apply requestGate_held) | (with_reducible apply undoGate_held) | (with_reducible apply clearGate_held) | (with_reducible apply modCycle_held) | (with_reducible apply held_foldl) | (with_reducible apply held_foldl_fst) | (simp only [held_mk]) | split | (intro _))

theorem execFmemGateRequest_held (f bank : Nat) (s : State) (h_s : Held hp hn hb s) : HeldR hp hn hb (execFmemGateRequest f bank s) := by
  unfold execFmemGateRequest
  try dsimp only
  repeat' (first | (with_reducible assumption) | (with_reducible apply hostGate_held) | (with_reducible apply requestGate_held) | (with_reducible apply heldR_next) | (with_reducible apply heldR_whenever) | split | (intro _))

theorem execFmemGateCancel_held (f bank : Nat) (s : State) (h_s : Held hp hn hb s) : HeldR hp hn hb (execFmemGateCancel f bank s) := by
  unfold execFmemGateCancel
  try dsimp only
  repeat' (first | (with_reducible assumption) | (with_reducible apply hostGate_held) | (with_reducible apply clearGate_held) | (with_reducible apply heldR_next) | (with_reducible apply heldR_whenever) | split | (intro _))

theorem execFmemWake_held (f bank : Nat) (s : State) (h_s : Held hp hn hb s) : HeldR hp hn hb (execFmemWake f bank s) := by
  unfold execFmemWake
  try dsimp only
  repeat' (first | (with_reducible assumption) | (with_reducible apply hostGate_held) | (with_reducible apply clearGate_held) | (with_reducible apply heldR_next) | (with_reducible apply heldR_whenever) | split | (intro _))

theorem execBankGated_held (f bank : Nat) (s : State) (h_s : Held hp hn hb s) : HeldR hp hn hb (execBankGated f bank s) := by
  unfold execBankGated
  try dsimp only
  repeat' (first | (with_reducible assumption) | (with_reducible apply gateBank_held) | (with_reducible apply heldR_next) | (with_reducible apply heldR_whenever) | split | (intro _))

theorem dropPending_held (s : State) (ps : List (Nat × List Nat)) (f : Nat) (h_s : Held hp hn hb s) : Held hp hn hb (dropPending s ps f) := by
  unfold dropPending
  try dsimp only
  repeat' (first | (with_reducible assumption) | (with_reducible apply setFlag_held) | (with_reducible apply bump_held) | (with_reducible apply abortId_held) | (with_reducible apply held_foldl) | (with_reducible apply held_foldl_fst) | split | (intro _))

theorem dropHostPending_held (s : State) (f b : Nat) (h_s : Held hp hn hb s) : Held hp hn hb (dropHostPending s f b) := by
  unfold dropHostPending
  try dsimp only
  repeat' (first | (with_reducible assumption) | (with_reducible apply hostErr_held) | (with_reducible apply setFlag_held) | (with_reducible apply bump_held) | (simp only [held_mk]) | split | (intro _))

theorem execGateForced_held (f bank : Nat) (s : State) (h_s : Held hp hn hb s) : HeldR hp hn hb (execGateForced f bank s) := by
  unfold execGateForced
  try dsimp only
  repeat' (first | (with_reducible assumption) | (with_reducible apply dropPending_held) | (with_reducible apply dropHostPending_held) | (with_reducible apply bump_held) | (with_reducible apply gateBank_held) | (with_reducible apply heldR_next) | (with_reducible apply heldR_whenever) | split | (intro _))

theorem zeroFacetAt_held (s : State) (f : Nat) (p : Nat → Bool) (h_s : Held hp hn hb s) : Held hp hn hb (zeroFacetAt s f p) := by
  unfold zeroFacetAt
  try dsimp only
  repeat' (first | (with_reducible assumption) | (with_reducible apply putFmem_held) | (with_reducible apply wf_memPuts) | (with_reducible apply wf_filter) | (simp only [held_mk]) | (simp only [held_mkFmem]) | split | (intro _))

theorem execBankWakeDone_held (f bank : Nat) (s : State) (h_s : Held hp hn hb s) : HeldR hp hn hb (execBankWakeDone f bank s) := by
  unfold execBankWakeDone
  try dsimp only
  repeat' (first | (with_reducible assumption) | (with_reducible apply zeroFacetAt_held) | (with_reducible apply fset_held) | (with_reducible apply heldR_next) | (with_reducible apply heldR_whenever) | (simp only [held_mk]) | split | (intro _))

theorem dirtyFrames_held (s : State) (addr len : Nat) (h_s : Held hp hn hb s) : Held hp hn hb (dirtyFrames s addr len) := by
  unfold dirtyFrames
  try dsimp only
  repeat' (first | (with_reducible assumption) | (with_reducible apply markDirty_held) | (with_reducible apply held_foldl) | (with_reducible apply held_foldl_fst) | split | (intro _))

theorem bar4Events_held (s : State) (isWrite : Bool) (addr len : Nat) (h_s : Held hp hn hb s) : Held hp hn hb (bar4Events s isWrite addr len) := by
  unfold bar4Events
  try dsimp only
  repeat' (first | (with_reducible assumption) | (with_reducible apply event_held) | split | (intro _))

theorem bar4Reads_held (s : State) (addr len : Nat) (bad : List Nat) (h_s : Held hp hn hb s) : Held hp hn hb (bar4Reads s addr len bad) := by
  unfold bar4Reads
  try dsimp only
  repeat' (first | (with_reducible assumption) | (with_reducible apply stsUeSeen_held) | (with_reducible apply countRange_held) | (with_reducible apply emit_held) | (with_reducible apply held_foldl) | (with_reducible apply held_foldl_fst) | split | (intro _))

theorem bar4Write_held (s : State) (addr : Nat) (data : List Byte) (h_s : Held hp hn hb s) : Held hp hn hb (bar4Write s addr data) := by
  unfold bar4Write
  try dsimp only
  repeat' (first | (with_reducible assumption) | (with_reducible apply dirtyFrames_held) | (with_reducible apply stsWrite_held) | split | (intro _))

theorem execBar4Access_held (isWrite : Bool) (addr len : Nat) (data : Bar4Data) (s : State) (h_s : Held hp hn hb s) : HeldR hp hn hb (execBar4Access isWrite addr len data s) := by
  unfold execBar4Access
  try dsimp only
  repeat' (first | (with_reducible assumption) | (with_reducible apply bar4Events_held) | (with_reducible apply bar4Write_held) | (with_reducible apply bar4Reads_held) | (with_reducible apply heldR_next) | (with_reducible apply heldR_whenever) | split | (intro _))

theorem execStsInitDone_held (s : State) (h_s : Held hp hn hb s) : HeldR hp hn hb (execStsInitDone s) := by
  unfold execStsInitDone
  try dsimp only
  repeat' (first | (with_reducible assumption) | (with_reducible apply fset_held) | (with_reducible apply heldR_next) | (with_reducible apply heldR_whenever) | split | (intro _))

end Sys2Proof.Machine
end

