-- ==== Sys2Proof/Laws/HeldPaging.lean ====
section
/-! SUPPORT. What the operations of Machine/Paging.lean keep: the queue, the clock and canonical memories. -/

set_option linter.unreachableTactic false
set_option linter.unusedTactic false
set_option linter.unusedVariables false
set_option linter.unusedSimpArgs false

namespace Sys2Proof.Machine

variable {hp : List Instr} {hn : Nat} {hb : Bool}

theorem setNear_held (s : State) (n : Nat) (e : NearEntry) (h_s : Held hp hn hb s) : Held hp hn hb (setNear s n e) := by
  unfold setNear
  try dsimp only
  repeat' (first | (with_reducible assumption) | (with_reducible apply modPaging_held) | (simp only [held_mk]) | split | (intro _))

theorem freeNear_held (s : State) (n : Nat) (h_s : Held hp hn hb s) : Held hp hn hb (freeNear s n) := by
  unfold freeNear
  try dsimp only
  repeat' (first | (with_reducible assumption) | (with_reducible apply modPaging_held) | (simp only [held_mk]) | split | (intro _))

theorem freeFar_held (s : State) (f : Nat) (h_s : Held hp hn hb s) : Held hp hn hb (freeFar s f) := by
  unfold freeFar
  try dsimp only
  repeat' (first | (with_reducible assumption) | (with_reducible apply fset_held) | (with_reducible apply bump_held) | (with_reducible apply modPaging_held) | (simp only [held_mk]) | split | (intro _))

theorem takeMigrate_held (s : State) (c : HostCmd) (h_s : Held hp hn hb s) : Held hp hn hb (takeMigrate s c) := by
  unfold takeMigrate
  try dsimp only
  repeat' (first | (with_reducible assumption) | (with_reducible apply complete_held) | (with_reducible apply modPaging_held) | (simp only [held_mk]) | split | (intro _))

theorem execMigrateCmd_held (qp : Nat) (s : State) (h_s : Held hp hn hb s) : HeldR hp hn hb (execMigrateCmd qp s) := by
  unfold execMigrateCmd
  try dsimp only
  repeat' (first | (with_reducible assumption) | (with_reducible apply takeMigrate_held) | (with_reducible apply popCmd_held) | (with_reducible apply heldR_next) | (with_reducible apply heldR_whenever) | split | (intro _))

theorem modMig_held (s : State) (m i : Nat) (f : MigEntry → MigEntry) (h_s : Held hp hn hb s) : Held hp hn hb (modMig s m i f) := by
  unfold modMig
  try dsimp only
  repeat' (first | (with_reducible assumption) | (with_reducible apply modPaging_held) | (simp only [held_mk]) | split | (intro _))

theorem takeChannel_held (s : State) (ch n : Nat) (h_s : Held hp hn hb s) : Held hp hn hb (takeChannel s ch n) := by
  unfold takeChannel
  try dsimp only
  repeat' (first | (with_reducible assumption) | (with_reducible apply modPaging_held) | (simp only [held_mk]) | split | (intro _))

theorem endEntry_held (s : State) (m i st : Nat) (h_s : Held hp hn hb s) : Held hp hn hb (endEntry s m i st) := by
  unfold endEntry
  try dsimp only
  repeat' (first | (with_reducible assumption) | (with_reducible apply modMig_held) | (with_reducible apply modSeq_held) | (with_reducible apply bump_held) | (simp only [held_mk]) | split | (intro _))

theorem moveNothing_held (s : State) (e : MigEntry) (h_s : Held hp hn hb s) : Held hp hn hb (moveNothing s e) := by
  unfold moveNothing
  try dsimp only
  repeat' (first | (with_reducible assumption) | (with_reducible apply freeNear_held) | (with_reducible apply setPte_held) | (with_reducible apply freeFar_held) | (with_reducible apply setNear_held) | (with_reducible apply countRange_held) | (with_reducible apply healWords_held) | (with_reducible apply drawn_held) | (with_reducible apply putSts_held) | (with_reducible apply wf_memZero) | (simp only [held_mk]) | (simp only [held_mkSts]) | split | (intro _))

theorem beginMove_held (s : State) (m i : Nat) (e : MigEntry) (h_s : Held hp hn hb s) : Held hp hn hb (beginMove s m i e) := by
  unfold beginMove
  try dsimp only
  repeat' (first | (with_reducible assumption) | (with_reducible apply modMig_held) | (with_reducible apply takeChannel_held) | (with_reducible apply modPaging_held) | (with_reducible apply setPte_held) | (with_reducible apply setNear_held) | (simp only [held_mk]) | split | (intro _))

theorem runEntry_held (s : State) (m i op : Nat) (h_s : Held hp hn hb s) : HeldR hp hn hb (runEntry s m i op) := by
  unfold runEntry
  try dsimp only
  repeat' (first | (with_reducible assumption) | (with_reducible apply endEntry_held) | (with_reducible apply beginMove_held) | (with_reducible apply moveNothing_held) | (with_reducible apply modPaging_held) | (with_reducible apply heldR_next) | (with_reducible apply heldR_whenever) | (simp only [held_mk]) | split | (intro _))

theorem execFetchPage_held (m i : Nat) (s : State) (h_s : Held hp hn hb s) : HeldR hp hn hb (execFetchPage m i s) := by
  unfold execFetchPage
  try dsimp only
  repeat' (first | (with_reducible assumption) | (with_reducible apply runEntry_held) | (with_reducible apply heldR_next) | (with_reducible apply heldR_whenever) | (refine heldR_elim (by assumption) ?_; with_reducible apply runEntry_held) | split | (intro _))

theorem execFetchMove_held (m i : Nat) (s : State) (h_s : Held hp hn hb s) : HeldR hp hn hb (execFetchMove m i s) := by
  unfold execFetchMove
  try dsimp only
  repeat' (first | (with_reducible assumption) | (with_reducible apply runEntry_held) | (with_reducible apply heldR_next) | (with_reducible apply heldR_whenever) | (refine heldR_elim (by assumption) ?_; with_reducible apply runEntry_held) | split | (intro _))

theorem execEvictPage_held (m i : Nat) (s : State) (h_s : Held hp hn hb s) : HeldR hp hn hb (execEvictPage m i s) := by
  unfold execEvictPage
  try dsimp only
  repeat' (first | (with_reducible assumption) | (with_reducible apply runEntry_held) | (with_reducible apply heldR_next) | (with_reducible apply heldR_whenever) | (refine heldR_elim (by assumption) ?_; with_reducible apply runEntry_held) | split | (intro _))

theorem execCleanPage_held (m i : Nat) (s : State) (h_s : Held hp hn hb s) : HeldR hp hn hb (execCleanPage m i s) := by
  unfold execCleanPage
  try dsimp only
  repeat' (first | (with_reducible assumption) | (with_reducible apply runEntry_held) | (with_reducible apply heldR_next) | (with_reducible apply heldR_whenever) | (refine heldR_elim (by assumption) ?_; with_reducible apply runEntry_held) | split | (intro _))

theorem execDropFar_held (m i : Nat) (s : State) (h_s : Held hp hn hb s) : HeldR hp hn hb (execDropFar m i s) := by
  unfold execDropFar
  try dsimp only
  repeat' (first | (with_reducible assumption) | (with_reducible apply runEntry_held) | (with_reducible apply heldR_next) | (with_reducible apply heldR_whenever) | (refine heldR_elim (by assumption) ?_; with_reducible apply runEntry_held) | split | (intro _))

theorem execZeroNear_held (m i : Nat) (s : State) (h_s : Held hp hn hb s) : HeldR hp hn hb (execZeroNear m i s) := by
  unfold execZeroNear
  try dsimp only
  repeat' (first | (with_reducible assumption) | (with_reducible apply runEntry_held) | (with_reducible apply heldR_next) | (with_reducible apply heldR_whenever) | (refine heldR_elim (by assumption) ?_; with_reducible apply runEntry_held) | split | (intro _))

theorem execFreePage_held (m i : Nat) (s : State) (h_s : Held hp hn hb s) : HeldR hp hn hb (execFreePage m i s) := by
  unfold execFreePage
  try dsimp only
  repeat' (first | (with_reducible assumption) | (with_reducible apply runEntry_held) | (with_reducible apply heldR_next) | (with_reducible apply heldR_whenever) | (refine heldR_elim (by assumption) ?_; with_reducible apply runEntry_held) | split | (intro _))

theorem execRetagPage_held (m i : Nat) (s : State) (h_s : Held hp hn hb s) : HeldR hp hn hb (execRetagPage m i s) := by
  unfold execRetagPage
  try dsimp only
  repeat' (first | (with_reducible assumption) | (with_reducible apply runEntry_held) | (with_reducible apply heldR_next) | (with_reducible apply heldR_whenever) | (refine heldR_elim (by assumption) ?_; with_reducible apply runEntry_held) | split | (intro _))

theorem dueRetire_held (s : State) (f cause : Nat) (h_s : Held hp hn hb s) : Held hp hn hb (dueRetire s f cause) := by
  unfold dueRetire
  try dsimp only
  repeat' (first | (with_reducible assumption) | (with_reducible apply modPaging_held) | (simp only [held_mk]) | split | (intro _))

theorem countBlocks_held (s : State) (ch : Nat) (h_s : Held hp hn hb s) : Held hp hn hb (countBlocks s ch) := by
  unfold countBlocks
  try dsimp only
  repeat' (first | (with_reducible assumption) | (with_reducible apply bump_held) | split | (intro _))

theorem commitFetch_held (s : State) (e : MigEntry) (h_s : Held hp hn hb s) : Held hp hn hb (commitFetch s e).1 := by
  unfold commitFetch
  try dsimp only
  repeat' (first | (with_reducible assumption) | (with_reducible apply stsWrite_held) | (with_reducible apply setPte_held) | (with_reducible apply setNear_held) | (with_reducible apply freeFar_held) | (with_reducible apply dueRetire_held) | (with_reducible apply bump_held) | (with_reducible apply countBlocks_held) | (with_reducible apply modSeq_held) | (simp only [held_mk]) | split | (intro _))

theorem commitOut_held (s : State) (e : MigEntry) (h_s : Held hp hn hb s) : Held hp hn hb (commitOut s e).1 := by
  unfold commitOut
  try dsimp only
  repeat' (first | (with_reducible assumption) | (with_reducible apply countRange_held) | (with_reducible apply freeNear_held) | (with_reducible apply setPte_held) | (with_reducible apply setNear_held) | (with_reducible apply modSeq_held) | (with_reducible apply bump_held) | (with_reducible apply countBlocks_held) | (with_reducible apply putFar_held) | (with_reducible apply wf_memWrite) | (simp only [held_mk]) | (simp only [held_mkFar]) | split | (intro _))

theorem commitEntry_held (s : State) (m i : Nat) (e : MigEntry) (h_s : Held hp hn hb s) : Held hp hn hb (commitEntry s m i e) := by
  unfold commitEntry
  try dsimp only
  repeat' (first | (with_reducible assumption) | (with_reducible apply commitFetch_held) | (with_reducible apply commitOut_held) | (with_reducible apply endEntry_held) | (refine held_pair (by assumption) ?_; with_reducible apply commitFetch_held) | (refine held_pair (by assumption) ?_; with_reducible apply commitOut_held) | split | (intro _))

theorem execMigrationCommit_held (m i : Nat) (s : State) (h_s : Held hp hn hb s) : HeldR hp hn hb (execMigrationCommit m i s) := by
  unfold execMigrationCommit
  try dsimp only
  repeat' (first | (with_reducible assumption) | (with_reducible apply commitEntry_held) | (with_reducible apply heldR_next) | (with_reducible apply heldR_whenever) | split | (intro _))

theorem commitWhere_held (s : State) (p : MigEntry → Bool) (h_s : Held hp hn hb s) : Held hp hn hb (commitWhere s p) := by
  unfold commitWhere
  try dsimp only
  repeat' (first | (with_reducible assumption) | (with_reducible apply commitEntry_held) | (with_reducible apply held_foldl) | (with_reducible apply held_foldl_fst) | split | (intro _))

theorem closeMover_held (s : State) (w : WindowEntry) (h_s : Held hp hn hb s) : Held hp hn hb (closeMover s w) := by
  unfold closeMover
  try dsimp only
  repeat' (first | (with_reducible assumption) | (with_reducible apply commitWhere_held) | (with_reducible apply modPaging_held) | (simp only [held_mk]) | split | (intro _))

theorem writeBack_held (s : State) (c : MigCmd) (h_s : Held hp hn hb s) : Held hp hn hb (writeBack s c) := by
  unfold writeBack
  try dsimp only
  repeat' (first | (with_reducible assumption) | (with_reducible apply hostWrite_held) | (with_reducible apply modSeq_held) | (with_reducible apply bump_held) | (with_reducible apply complete_held) | (with_reducible apply held_foldl) | (with_reducible apply held_foldl_fst) | (simp only [held_mk]) | split | (intro _))

theorem writeBackAll_held (s : State) (h_s : Held hp hn hb s) : Held hp hn hb (writeBackAll s) := by
  unfold writeBackAll
  try dsimp only
  repeat' (first | (with_reducible assumption) | (with_reducible apply commitWhere_held) | (with_reducible apply writeBack_held) | (with_reducible apply modPaging_held) | (with_reducible apply held_foldl) | (with_reducible apply held_foldl_fst) | (simp only [held_mk]) | split | (intro _))

theorem execMigrateStatusWriteback_held (s : State) (h_s : Held hp hn hb s) : HeldR hp hn hb (execMigrateStatusWriteback s) := by
  unfold execMigrateStatusWriteback
  try dsimp only
  repeat' (first | (with_reducible assumption) | (with_reducible apply writeBackAll_held) | (with_reducible apply heldR_next) | (with_reducible apply heldR_whenever) | split | (intro _))

theorem moveHome_held (s : State) (f new : Nat) (h_s : Held hp hn hb s) : Held hp hn hb (moveHome s f new) := by
  unfold moveHome
  try dsimp only
  repeat' (first | (with_reducible assumption) | (with_reducible apply setPte_held) | (with_reducible apply setNear_held) | (with_reducible apply held_foldl) | (with_reducible apply held_foldl_fst) | (with_reducible apply putFar_held) | (with_reducible apply wf_memWrite) | (simp only [held_mk]) | (simp only [held_mkFar]) | split | (intro _))

theorem logRetired_held (s : State) (f cause : Nat) (h_s : Held hp hn hb s) : Held hp hn hb (logRetired s f cause) := by
  unfold logRetired
  try dsimp only
  repeat' (first | (with_reducible assumption) | (with_reducible apply modPaging_held) | (with_reducible apply errorRec_held) | (with_reducible apply fset_held) | (simp only [held_mk]) | split | (intro _))

theorem poolEmpty_held (s : State) (ch : Nat) (h_s : Held hp hn hb s) : Held hp hn hb (poolEmpty s ch) := by
  unfold poolEmpty
  try dsimp only
  repeat' (first | (with_reducible assumption) | (with_reducible apply setFlag_held) | (with_reducible apply errorRec_held) | (with_reducible apply fset_held) | split | (intro _))

theorem execFarFrameRetire_held (s : State) (h_s : Held hp hn hb s) : HeldR hp hn hb (execFarFrameRetire s) := by
  unfold execFarFrameRetire
  try dsimp only
  repeat' (first | (with_reducible assumption) | (with_reducible apply poolEmpty_held) | (with_reducible apply moveHome_held) | (with_reducible apply takeChannel_held) | (with_reducible apply modPaging_held) | (with_reducible apply fset_held) | (with_reducible apply setFlag_held) | (with_reducible apply modSeq_held) | (with_reducible apply countBlocks_held) | (with_reducible apply logRetired_held) | (with_reducible apply heldR_next) | (with_reducible apply heldR_whenever) | (simp only [held_mk]) | split | (intro _))

theorem acceptPte_held (s : State) (vpn x : Nat) (h_s : Held hp hn hb s) : Held hp hn hb (acceptPte s vpn x) := by
  unfold acceptPte
  try dsimp only
  repeat' (first | (with_reducible assumption) | (with_reducible apply freeNear_held) | (with_reducible apply setNear_held) | (with_reducible apply drawn_held) | (with_reducible apply setPte_held) | split | (intro _))

theorem execCptPteWrite_held (s : State) (h_s : Held hp hn hb s) : HeldR hp hn hb (execCptPteWrite s) := by
  unfold execCptPteWrite
  try dsimp only
  repeat' (first | (with_reducible assumption) | (with_reducible apply fset_held) | (with_reducible apply acceptPte_held) | (with_reducible apply heldR_next) | (with_reducible apply heldR_whenever) | split | (intro _))

theorem execFarInitDone_held (s : State) (h_s : Held hp hn hb s) : HeldR hp hn hb (execFarInitDone s) := by
  unfold execFarInitDone
  try dsimp only
  repeat' (first | (with_reducible assumption) | (with_reducible apply fset_held) | (with_reducible apply heldR_next) | (with_reducible apply heldR_whenever) | (with_reducible apply held_foldl) | (with_reducible apply held_foldl_fst) | split | (intro _))

end Sys2Proof.Machine
end

