-- ==== Sys2Proof/Laws/HeldPredictor.lean ====
section
/-! SUPPORT. What the operations of Machine/Predictor.lean keep: the queue, the clock and canonical memories. -/

set_option linter.unreachableTactic false
set_option linter.unusedTactic false
set_option linter.unusedVariables false
set_option linter.unusedSimpArgs false

namespace Sys2Proof.Machine

variable {hp : List Instr} {hn : Nat} {hb : Bool}

theorem startQuery_held (s : State) (w : Who) (addr : Word) (h_s : Held hp hn hb s) : HeldP hp hn hb (startQuery s w addr) := by
  unfold startQuery
  try dsimp only
  repeat' (first | (with_reducible assumption) | (with_reducible apply fmemTouch_held) | (with_reducible apply heldP_some) | (with_reducible apply heldP_none) | (with_reducible apply heldP_some') | split | (intro _))

theorem joinPredictor_held (s : State) (w : Who) (seq : Nat) (b : List Byte) (h_s : Held hp hn hb s) : Held hp hn hb (joinPredictor s w seq b) := by
  unfold joinPredictor
  try dsimp only
  repeat' (first | (with_reducible assumption) | (with_reducible apply modCmd_held) | (simp only [held_mk]) | split | (intro _))

theorem acceptPrefetch_held (s : State) (addr : Nat) (h_s : Held hp hn hb s) : Held hp hn hb (acceptPrefetch s addr) := by
  unfold acceptPrefetch
  try dsimp only
  repeat' (first | (with_reducible assumption) | (simp only [held_mk]) | split | (intro _))

theorem execWeightSetLoad_held (s : State) (h_s : Held hp hn hb s) : HeldR hp hn hb (execWeightSetLoad s) := by
  unfold execWeightSetLoad
  try dsimp only
  repeat' (first | (with_reducible assumption) | (with_reducible apply bump_held) | (with_reducible apply serveLines_held) | (with_reducible apply heldR_next) | (with_reducible apply heldR_whenever) | (simp only [held_mk]) | split | (intro _))

theorem beginQuery_held (s : State) (q : PredQuery) (h : PredHalf) (h_s : Held hp hn hb s) : Held hp hn hb (beginQuery s q h) := by
  unfold beginQuery
  try dsimp only
  repeat' (first | (with_reducible assumption) | (with_reducible apply fmemTouch_held) | (with_reducible apply modCmd_held) | (simp only [held_mk]) | split | (intro _))

theorem beginNext_held (s : State) (h_s : Held hp hn hb s) : Held hp hn hb (beginNext s) := by
  unfold beginNext
  try dsimp only
  repeat' (first | (with_reducible assumption) | (with_reducible apply beginQuery_held) | (simp only [held_mk]) | split | (intro _))

theorem predictorCycle_held (s : State) (h_s : Held hp hn hb s) : Held hp hn hb (predictorCycle s) := by
  unfold predictorCycle
  try dsimp only
  repeat' (first | (with_reducible assumption) | (with_reducible apply beginNext_held) | (with_reducible apply bump_held) | split | (intro _))

theorem serveQuery_held (s : State) (q : PredQuery) (c : ECmd) (h_s : Held hp hn hb s) : Held hp hn hb (serveQuery s q c) := by
  unfold serveQuery
  try dsimp only
  repeat' (first | (with_reducible assumption) | (with_reducible apply bump_held) | (with_reducible apply arrAdd_held) | (with_reducible apply modCmd_held) | (with_reducible apply taskWriteOrAbort_held) | (simp only [held_mk]) | split | (intro _))

theorem execPredictorQueryService_held (s : State) (h_s : Held hp hn hb s) : HeldR hp hn hb (execPredictorQueryService s) := by
  unfold execPredictorQueryService
  try dsimp only
  repeat' (first | (with_reducible assumption) | (with_reducible apply serveQuery_held) | (with_reducible apply heldR_next) | (with_reducible apply heldR_whenever) | (simp only [held_mk]) | split | (intro _))

end Sys2Proof.Machine
end

