-- ==== Sys2Proof/Laws/HeldSelfTest.lean ====
section
/-! SUPPORT. What the operations of Machine/SelfTest.lean keep: the queue, the clock and canonical memories. -/

set_option linter.unreachableTactic false
set_option linter.unusedTactic false
set_option linter.unusedVariables false
set_option linter.unusedSimpArgs false

namespace Sys2Proof.Machine

variable {hp : List Instr} {hn : Nat} {hb : Bool}

theorem katResult_held (s : State) (pf : Nat) (runs : List KatRun) (h_s : Held hp hn hb s) : Held hp hn hb (katResult s pf runs) := by
  unfold katResult
  try dsimp only
  repeat' (first | (with_reducible assumption) | (with_reducible apply fset_held) | split | (intro _))

end Sys2Proof.Machine
end

