-- ==== Sys2Proof/Laws/HeldUpdate.lean ====
section
/-! SUPPORT. What the operations of Machine/Update.lean keep: the queue, the clock and canonical memories. -/

set_option linter.unreachableTactic false
set_option linter.unusedTactic false
set_option linter.unusedVariables false
set_option linter.unusedSimpArgs false

namespace Sys2Proof.Machine

variable {hp : List Instr} {hn : Nat} {hb : Bool}

theorem startUpdate_held (s : State) (w : Who) (isVote : Bool) (addr : Word) (h_s : Held hp hn hb s) : HeldP hp hn hb (startUpdate s w isVote addr) := by
  unfold startUpdate
  try dsimp only
  repeat' (first | (with_reducible assumption) | (with_reducible apply fmemTouch_held) | (with_reducible apply heldP_some) | (with_reducible apply heldP_none) | (with_reducible apply heldP_some') | split | (intro _))

theorem stepMismatch_held (s : State) (w : Who) (group stamp expect : Nat) (h_s : Held hp hn hb s) : Held hp hn hb (stepMismatch s w group stamp expect) := by
  unfold stepMismatch
  try dsimp only
  repeat' (first | (with_reducible assumption) | (with_reducible apply fset_held) | (with_reducible apply abortTask_held) | (with_reducible apply bump_held) | split | (intro _))

theorem updateBegin_held (q fuel : Nat) : ∀ (s : State), Held hp hn hb s → Held hp hn hb (updateBegin s q fuel) := by
  induction fuel with
  | zero => intro s h; exact h
  | succ k ih =>
    intro s h
    unfold updateBegin
    dsimp only
    repeat' (first | (with_reducible assumption) | (with_reducible apply ih) | (with_reducible apply modCmd_held) | (with_reducible apply drawn_held) | (with_reducible apply countLines_held) | (with_reducible apply stepMismatch_held) | split)

theorem updateNext_held (s : State) (q : Nat) (h_s : Held hp hn hb s) : Held hp hn hb (updateNext s q) := by
  unfold updateNext
  try dsimp only
  repeat' (first | (with_reducible assumption) | (with_reducible apply updateBegin_held) | split | (intro _))

theorem joinUpdate_held (s : State) (w : Who) (seq : Nat) (b : List Byte) (h_s : Held hp hn hb s) : Held hp hn hb (joinUpdate s w seq b) := by
  unfold joinUpdate
  try dsimp only
  repeat' (first | (with_reducible assumption) | (with_reducible apply modCmd_held) | (with_reducible apply updateNext_held) | (simp only [held_mk]) | split | (intro _))

theorem finishUpdate_held (s : State) (w : Who) (c : ECmd) (h_s : Held hp hn hb s) : Held hp hn hb (finishUpdate s w c) := by
  unfold finishUpdate
  try dsimp only
  repeat' (first | (with_reducible assumption) | (with_reducible apply stsPut_held) | (with_reducible apply bump_held) | (with_reducible apply updateNext_held) | (simp only [held_mk]) | split | (intro _))

end Sys2Proof.Machine
end

