-- ==== Sys2Proof/Laws/HeldRepair.lean ====
section
/-! SUPPORT. What the operations of Machine/Repair.lean keep: the queue, the clock and canonical memories. -/

set_option linter.unreachableTactic false
set_option linter.unusedTactic false
set_option linter.unusedVariables false
set_option linter.unusedSimpArgs false

namespace Sys2Proof.Machine

variable {hp : List Instr} {hn : Nat} {hb : Bool}

theorem loadImem_held (s : State) (lf pf : Nat) (h_s : Held hp hn hb s) : Held hp hn hb (loadImem s lf pf) := by
  unfold loadImem
  try dsimp only
  repeat' (first | (with_reducible assumption) | (with_reducible apply putImem_held) | (with_reducible apply wf_memWrite) | (simp only [held_mk]) | (simp only [held_mkImem]) | split | (intro _))

theorem failFacet_held (s : State) (pf : Nat) (keepHalf : Option Nat) (h_s : Held hp hn hb s) : Held hp hn hb (failFacet s pf keepHalf) := by
  unfold failFacet
  try dsimp only
  repeat' (first | (with_reducible assumption) | (with_reducible apply fset_held) | (with_reducible apply retireFacet_held) | (with_reducible apply stopShadow_held) | (with_reducible apply modRepair_held) | (with_reducible apply unmapFacet_held) | (with_reducible apply startSwap_held) | (with_reducible apply abortFacet_held) | (with_reducible apply held_foldl) | (with_reducible apply held_foldl_fst) | (simp only [held_mk]) | split | (intro _))

theorem wearFacet_held (s : State) (pf : Nat) (h_s : Held hp hn hb s) : Held hp hn hb (wearFacet s pf) := by
  unfold wearFacet
  try dsimp only
  repeat' (first | (with_reducible assumption) | (with_reducible apply fset_held) | (with_reducible apply modRepair_held) | (with_reducible apply setFlag_held) | (with_reducible apply errorRec_held) | (simp only [held_mk]) | split | (intro _))

theorem noteFacetUe_held (s : State) (pf : Nat) (keepHalf : Option Nat) (h_s : Held hp hn hb s) : Held hp hn hb (noteFacetUe s pf keepHalf) := by
  unfold noteFacetUe
  try dsimp only
  repeat' (first | (with_reducible assumption) | (with_reducible apply modRepair_held) | (with_reducible apply failFacet_held) | (simp only [held_mk]) | split | (intro _))

theorem noteFacetCe_held (s : State) (pf : Nat) (h_s : Held hp hn hb s) : Held hp hn hb (noteFacetCe s pf) := by
  unfold noteFacetCe
  try dsimp only
  repeat' (first | (with_reducible assumption) | (with_reducible apply modRepair_held) | (with_reducible apply wearFacet_held) | (simp only [held_mk]) | split | (intro _))

theorem swapPassed_held (s : State) (x : FacetSwap) (h_s : Held hp hn hb s) : Held hp hn hb (swapPassed s x) := by
  unfold swapPassed
  try dsimp only
  repeat' (first | (with_reducible assumption) | (with_reducible apply modRepair_held) | (with_reducible apply loadImem_held) | (with_reducible apply setFacetMap_held) | (with_reducible apply fset_held) | (with_reducible apply retireFacet_held) | (with_reducible apply extendWatchdogs_held) | (with_reducible apply event_held) | (with_reducible apply errorRec_held) | (simp only [held_mk]) | split | (intro _))

theorem swapFailed_held (s : State) (x : FacetSwap) (h_s : Held hp hn hb s) : Held hp hn hb (swapFailed s x) := by
  unfold swapFailed
  try dsimp only
  repeat' (first | (with_reducible assumption) | (with_reducible apply modRepair_held) | (with_reducible apply unmapFacet_held) | (with_reducible apply retireFacet_held) | (simp only [held_mk]) | split | (intro _))

theorem execFacetSwapDone_held (q : Nat) (runs : List KatRun) (s : State) (h_s : Held hp hn hb s) : HeldR hp hn hb (execFacetSwapDone q runs s) := by
  unfold execFacetSwapDone
  try dsimp only
  repeat' (first | (with_reducible assumption) | (with_reducible apply katResult_held) | (with_reducible apply swapPassed_held) | (with_reducible apply swapFailed_held) | (with_reducible apply heldR_next) | (with_reducible apply heldR_whenever) | split | (intro _))

theorem planSwap_held (s : State) (x : FacetSwap) (h_s : Held hp hn hb s) : Held hp hn hb (planSwap s x) := by
  unfold planSwap
  try dsimp only
  repeat' (first | (with_reducible assumption) | (with_reducible apply modRepair_held) | (with_reducible apply katResult_held) | (with_reducible apply drawn_held) | (with_reducible apply stopShadow_held) | (with_reducible apply loadImem_held) | (with_reducible apply retireFacet_held) | (simp only [held_mk]) | split | (intro _))

theorem planSwaps_held (s : State) (h_s : Held hp hn hb s) : Held hp hn hb (planSwaps s) := by
  unfold planSwaps
  try dsimp only
  repeat' (first | (with_reducible assumption) | (with_reducible apply planSwap_held) | (with_reducible apply held_foldl) | (with_reducible apply held_foldl_fst) | split | (intro _))

theorem plannedMap_held (s : State) (x : FacetSwap) (h_s : Held hp hn hb s) : Held hp hn hb (plannedMap s x) := by
  unfold plannedMap
  try dsimp only
  repeat' (first | (with_reducible assumption) | (with_reducible apply setFacetMap_held) | (with_reducible apply fset_held) | (with_reducible apply retireFacet_held) | (with_reducible apply event_held) | (with_reducible apply errorRec_held) | split | (intro _))

theorem retireSlice_held (s : State) (l : Nat) (h_s : Held hp hn hb s) : Held hp hn hb (retireSlice s l) := by
  unfold retireSlice
  try dsimp only
  repeat' (first | (with_reducible assumption) | (with_reducible apply setFlag_held) | (with_reducible apply errorRec_held) | (with_reducible apply modRepair_held) | (simp only [held_mk]) | split | (intro _))

theorem noteSliceUe_held (s : State) (l : Nat) (h_s : Held hp hn hb s) : Held hp hn hb (noteSliceUe s l) := by
  unfold noteSliceUe
  try dsimp only
  repeat' (first | (with_reducible assumption) | (with_reducible apply modRepair_held) | (with_reducible apply retireSlice_held) | (simp only [held_mk]) | split | (intro _))

theorem noteSliceCe_held (s : State) (l : Nat) (h_s : Held hp hn hb s) : Held hp hn hb (noteSliceCe s l) := by
  unfold noteSliceCe
  try dsimp only
  repeat' (first | (with_reducible assumption) | (with_reducible apply modRepair_held) | (with_reducible apply retireSlice_held) | (with_reducible apply fset_held) | (simp only [held_mk]) | split | (intro _))

theorem execSliceCopyDone_held (s : State) (h_s : Held hp hn hb s) : HeldR hp hn hb (execSliceCopyDone s) := by
  unfold execSliceCopyDone
  try dsimp only
  repeat' (first | (with_reducible assumption) | (with_reducible apply drawn_held) | (with_reducible apply modRepair_held) | (with_reducible apply heldR_next) | (with_reducible apply heldR_whenever) | (simp only [held_mk]) | split | (intro _))

theorem sliceMapped_held (s : State) (c : SliceCopy) (h_s : Held hp hn hb s) : Held hp hn hb (sliceMapped s c) := by
  unfold sliceMapped
  try dsimp only
  repeat' (first | (with_reducible assumption) | (with_reducible apply modRepair_held) | (with_reducible apply bump_held) | (with_reducible apply fset_held) | (with_reducible apply event_held) | (with_reducible apply errorRec_held) | (simp only [held_mk]) | split | (intro _))

theorem prologueMaps_held (s : State) (h_s : Held hp hn hb s) : Held hp hn hb (prologueMaps s) := by
  unfold prologueMaps
  try dsimp only
  repeat' (first | (with_reducible assumption) | (with_reducible apply plannedMap_held) | (with_reducible apply modRepair_held) | (with_reducible apply sliceMapped_held) | (with_reducible apply unmappedRec_held) | (with_reducible apply modSeq_held) | (with_reducible apply held_foldl) | (with_reducible apply held_foldl_fst) | (simp only [held_mk]) | split | (intro _))

theorem startRetrain_held (s : State) (ch : Nat) (urgent : Bool) (h_s : Held hp hn hb s) : Held hp hn hb (startRetrain s ch urgent) := by
  unfold startRetrain
  try dsimp only
  repeat' (first | (with_reducible assumption) | (with_reducible apply modRepair_held) | (with_reducible apply modSeq_held) | (with_reducible apply fset_held) | (simp only [held_mk]) | split | (intro _))

theorem dueRetrain_held (s : State) (ch left : Nat) (h_s : Held hp hn hb s) : Held hp hn hb (dueRetrain s ch left) := by
  unfold dueRetrain
  try dsimp only
  repeat' (first | (with_reducible assumption) | (with_reducible apply modRepair_held) | (with_reducible apply startRetrain_held) | (simp only [held_mk]) | split | (intro _))

theorem routineRetrain_held (s : State) (mask n : Nat) (h_s : Held hp hn hb s) : Held hp hn hb (routineRetrain s mask n) := by
  unfold routineRetrain
  try dsimp only
  repeat' (first | (with_reducible assumption) | (with_reducible apply startRetrain_held) | split | (intro _))

theorem execUrgentRetrain_held (ch : Nat) (s : State) (h_s : Held hp hn hb s) : HeldR hp hn hb (execUrgentRetrain ch s) := by
  unfold execUrgentRetrain
  try dsimp only
  repeat' (first | (with_reducible assumption) | (with_reducible apply startRetrain_held) | (with_reducible apply heldR_next) | (with_reducible apply heldR_whenever) | split | (intro _))

theorem retrainPassed_held (s : State) (r : Retrain) (h_s : Held hp hn hb s) : Held hp hn hb (retrainPassed s r) := by
  unfold retrainPassed
  try dsimp only
  repeat' (first | (with_reducible assumption) | (with_reducible apply fset_held) | (with_reducible apply modRepair_held) | (with_reducible apply bump_held) | (with_reducible apply errorRec_held) | (simp only [held_mk]) | split | (intro _))

theorem retrainFailed_held (s : State) (r : Retrain) (h_s : Held hp hn hb s) : Held hp hn hb (retrainFailed s r) := by
  unfold retrainFailed
  try dsimp only
  repeat' (first | (with_reducible assumption) | (with_reducible apply setFlag_held) | (with_reducible apply modRepair_held) | (with_reducible apply errorRec_held) | (with_reducible apply fset_held) | (simp only [held_mk]) | split | (intro _))

theorem execRetrainDone_held (ok : Bool) (s : State) (h_s : Held hp hn hb s) : HeldR hp hn hb (execRetrainDone ok s) := by
  unfold execRetrainDone
  try dsimp only
  repeat' (first | (with_reducible assumption) | (with_reducible apply modRepair_held) | (with_reducible apply extendWatchdogs_held) | (with_reducible apply retrainPassed_held) | (with_reducible apply retrainFailed_held) | (with_reducible apply heldR_next) | (with_reducible apply heldR_whenever) | (simp only [held_mk]) | split | (intro _))

theorem execFarStrobeTrack_held (ch readWindow writeWindow : Nat) (s : State) (h_s : Held hp hn hb s) : HeldR hp hn hb (execFarStrobeTrack ch readWindow writeWindow s) := by
  unfold execFarStrobeTrack
  try dsimp only
  repeat' (first | (with_reducible assumption) | (with_reducible apply fset_held) | (with_reducible apply dueRetrain_held) | (with_reducible apply heldR_next) | (with_reducible apply heldR_whenever) | split | (intro _))

theorem shadowStart_held (s : State) (t : TaskEntry) (h_s : Held hp hn hb s) : Held hp hn hb (shadowStart s t) := by
  unfold shadowStart
  try dsimp only
  repeat' (first | (with_reducible assumption) | (with_reducible apply loadImem_held) | (with_reducible apply modShadow_held) | (simp only [held_mk]) | split | (intro _) | (simp only [id_eq]))

theorem shadowMismatch_held (s : State) (q lf id : Nat) (h_s : Held hp hn hb s) : Held hp hn hb (shadowMismatch s q lf id) := by
  unfold shadowMismatch
  try dsimp only
  repeat' (first | (with_reducible assumption) | (with_reducible apply event_held) | (with_reducible apply errorRec_held) | (with_reducible apply modShadow_held) | (simp only [held_mk]) | split | (intro _) | (simp only [id_eq]))

theorem execShadowCheckEnd_held (q : Nat) (outs : ShadowOuts) (abandoned : Bool) (s : State) (h_s : Held hp hn hb s) : HeldR hp hn hb (execShadowCheckEnd q outs abandoned s) := by
  unfold execShadowCheckEnd
  try dsimp only
  repeat' (first | (with_reducible assumption) | (with_reducible apply stopShadow_held) | (with_reducible apply bump_held) | (with_reducible apply modShadow_held) | (with_reducible apply fset_held) | (with_reducible apply shadowMismatch_held) | (with_reducible apply heldR_next) | (with_reducible apply heldR_whenever) | (simp only [held_mk]) | split | (intro _) | (simp only [id_eq]))

theorem suspectTest_held (s : State) (q : Nat) (h_s : Held hp hn hb s) : Held hp hn hb (suspectTest s q) := by
  unfold suspectTest
  try dsimp only
  repeat' (first | (with_reducible assumption) | (with_reducible apply katResult_held) | (with_reducible apply drawn_held) | (with_reducible apply modShadow_held) | (with_reducible apply stopShadow_held) | (with_reducible apply loadImem_held) | (with_reducible apply modRepair_held) | (with_reducible apply retireFacet_held) | (simp only [held_mk]) | split | (intro _))

theorem measureSlack_held (s : State) (pf : Nat) (h_s : Held hp hn hb s) : Held hp hn hb (measureSlack s pf) := by
  unfold measureSlack
  try dsimp only
  repeat' (first | (with_reducible assumption) | (with_reducible apply drawn_held) | (with_reducible apply fset_held) | (with_reducible apply modRepair_held) | (with_reducible apply wearFacet_held) | (simp only [held_mk]) | split | (intro _))

theorem maintenanceTail_held (s : State) (h_s : Held hp hn hb s) : Held hp hn hb (maintenanceTail s) := by
  unfold maintenanceTail
  try dsimp only
  repeat' (first | (with_reducible assumption) | (with_reducible apply suspectTest_held) | (with_reducible apply measureSlack_held) | (with_reducible apply planSwaps_held) | (with_reducible apply routineRetrain_held) | (with_reducible apply held_foldl) | (with_reducible apply held_foldl_fst) | split | (intro _))

theorem showThrottle_held (s : State) (h_s : Held hp hn hb s) : Held hp hn hb (showThrottle s) := by
  unfold showThrottle
  try dsimp only
  repeat' (first | (with_reducible assumption) | (with_reducible apply fset_held) | (with_reducible apply setFlag_held) | split | (intro _))

theorem skewStep_held (s : State) (hits : List (Nat × Nat)) (q : Nat) (h_s : Held hp hn hb s) : Held hp hn hb (skewStep s hits q) := by
  unfold skewStep
  try dsimp only
  repeat' (first | (with_reducible assumption) | (with_reducible apply modThrottle_held) | (with_reducible apply bump_held) | (with_reducible apply heldO_getD) | (with_reducible apply heldO_map) | (simp only [held_mk]) | split | (intro _))

theorem sampleQuad_held (s : State) (xs : List QuadSample) (q : Nat) (h_s : Held hp hn hb s) : Held hp hn hb (sampleQuad s xs q) := by
  unfold sampleQuad
  try dsimp only
  repeat' (first | (with_reducible assumption) | (with_reducible apply fset_held) | (with_reducible apply modThrottle_held) | (simp only [held_mk]) | split | (intro _))

theorem countThrottle_held (s : State) (q : Nat) (h_s : Held hp hn hb s) : Held hp hn hb (countThrottle s q) := by
  unfold countThrottle
  try dsimp only
  repeat' (first | (with_reducible assumption) | (with_reducible apply bump_held) | (with_reducible apply modThrottle_held) | (simp only [held_mk]) | split | (intro _))

theorem execSkewSample_held (samples : List QuadSample) (spineTemp : Int) (s : State) (h_s : Held hp hn hb s) : HeldR hp hn hb (execSkewSample samples spineTemp s) := by
  unfold execSkewSample
  try dsimp only
  repeat' (first | (with_reducible assumption) | (with_reducible apply sampleQuad_held) | (with_reducible apply skewStep_held) | (with_reducible apply showThrottle_held) | (with_reducible apply modRepair_held) | (with_reducible apply heldR_next) | (with_reducible apply heldR_whenever) | (with_reducible apply held_foldl) | (with_reducible apply held_foldl_fst) | (simp only [held_mk]) | split | (intro _))

theorem execSkewOverrun_held (q : Nat) (s : State) (h_s : Held hp hn hb s) : HeldR hp hn hb (execSkewOverrun q s) := by
  unfold execSkewOverrun
  try dsimp only
  repeat' (first | (with_reducible assumption) | (with_reducible apply abortTask_held) | (with_reducible apply modThrottle_held) | (with_reducible apply setFlag_held) | (with_reducible apply errorRec_held) | (with_reducible apply bump_held) | (with_reducible apply heldR_next) | (with_reducible apply heldR_whenever) | (with_reducible apply held_foldl) | (with_reducible apply held_foldl_fst) | (simp only [held_mk]) | split | (intro _) | (simp only [id_eq]))

theorem execPowerCapSample_held (watts : Nat) (s : State) (h_s : Held hp hn hb s) : HeldR hp hn hb (execPowerCapSample watts s) := by
  unfold execPowerCapSample
  try dsimp only
  repeat' (first | (with_reducible assumption) | (with_reducible apply showThrottle_held) | (with_reducible apply modThrottle_held) | (with_reducible apply heldR_next) | (with_reducible apply heldR_whenever) | (with_reducible apply held_foldl) | (with_reducible apply held_foldl_fst) | (simp only [held_mk]) | split | (intro _))

theorem throttleRecs_held (s : State) (h_s : Held hp hn hb s) : Held hp hn hb (throttleRecs s) := by
  unfold throttleRecs
  try dsimp only
  repeat' (first | (with_reducible assumption) | (with_reducible apply errorRec_held) | (with_reducible apply held_foldl) | (with_reducible apply held_foldl_fst) | split | (intro _))

theorem repairTick_held (s : State) (h_s : Held hp hn hb s) : Held hp hn hb (repairTick s) := by
  unfold repairTick
  try dsimp only
  repeat' (first | (with_reducible assumption) | (with_reducible apply modRepair_held) | (simp only [held_mk]) | split | (intro _))

theorem countCorrected_held (s : State) (e : ErrorSite) (h_s : Held hp hn hb s) : Held hp hn hb (countCorrected s e) := by
  unfold countCorrected
  try dsimp only
  repeat' (first | (with_reducible assumption) | (with_reducible apply noteFacetCe_held) | (with_reducible apply event_held) | (with_reducible apply noteSliceCe_held) | (with_reducible apply bump_held) | (with_reducible apply modPaging_held) | (with_reducible apply dueRetire_held) | (with_reducible apply setFlagBit_held) | (simp only [held_mk]) | split | (intro _))

theorem execCorrectedError_held (site : ErrorSite) (s : State) (h_s : Held hp hn hb s) : HeldR hp hn hb (execCorrectedError site s) := by
  unfold execCorrectedError
  try dsimp only
  repeat' (first | (with_reducible assumption) | (with_reducible apply countCorrected_held) | (with_reducible apply heldR_next) | (with_reducible apply heldR_whenever) | split | (intro _))

theorem execFacetUe_held (f : Nat) (array : FacetArray) (half : Nat) (s : State) (h_s : Held hp hn hb s) : HeldR hp hn hb (execFacetUe f array half s) := by
  unfold execFacetUe
  try dsimp only
  repeat' (first | (with_reducible assumption) | (with_reducible apply bump_held) | (with_reducible apply setFlag_held) | (with_reducible apply fset_held) | (with_reducible apply errorRec_held) | (with_reducible apply abortTask_held) | (with_reducible apply abortFacet_held) | (with_reducible apply failFacet_held) | (with_reducible apply noteFacetUe_held) | (with_reducible apply heldR_next) | (with_reducible apply heldR_whenever) | split | (intro _) | (simp only [id_eq]))

theorem abortFinder_held (s : State) (w : Option Who) (h_s : Held hp hn hb s) : Held hp hn hb (abortFinder s w) := by
  unfold abortFinder
  try dsimp only
  repeat' (first | (with_reducible assumption) | (with_reducible apply abortTask_held) | split | (intro _))

theorem bothHalves_held (s : State) (f : Nat) (h_s : Held hp hn hb s) : Held hp hn hb (bothHalves s f) := by
  unfold bothHalves
  try dsimp only
  repeat' (first | (with_reducible assumption) | (with_reducible apply fset_held) | split | (intro _))

theorem execFmemUe_held (f addr : Nat) (finder : Option Who) (s : State) (h_s : Held hp hn hb s) : HeldR hp hn hb (execFmemUe f addr finder s) := by
  unfold execFmemUe
  try dsimp only
  repeat' (first | (with_reducible assumption) | (with_reducible apply fmemUeSeen_held) | (with_reducible apply abortFinder_held) | (with_reducible apply errorRec_held) | (with_reducible apply bothHalves_held) | (with_reducible apply abortFacet_held) | (with_reducible apply noteFacetUe_held) | (with_reducible apply heldR_next) | (with_reducible apply heldR_whenever) | split | (intro _))

theorem execStsUe_held (addr : Nat) (finder : Option Who) (s : State) (h_s : Held hp hn hb s) : HeldR hp hn hb (execStsUe addr finder s) := by
  unfold execStsUe
  try dsimp only
  repeat' (first | (with_reducible assumption) | (with_reducible apply stsUeSeen_held) | (with_reducible apply abortFinder_held) | (with_reducible apply errorRec_held) | (with_reducible apply noteSliceUe_held) | (with_reducible apply heldR_next) | (with_reducible apply heldR_whenever) | split | (intro _))

theorem execFarUe_held (frame : Nat) (finder : Option Who) (s : State) (h_s : Held hp hn hb s) : HeldR hp hn hb (execFarUe frame finder s) := by
  unfold execFarUe
  try dsimp only
  repeat' (first | (with_reducible assumption) | (with_reducible apply fset_held) | (with_reducible apply bump_held) | (with_reducible apply setFlag_held) | (with_reducible apply drawn_held) | (with_reducible apply modPaging_held) | (with_reducible apply abortFinder_held) | (with_reducible apply errorRec_held) | (with_reducible apply dueRetire_held) | (with_reducible apply heldR_next) | (with_reducible apply heldR_whenever) | (simp only [held_mk]) | split | (intro _))

theorem abortUsers_held (s : State) (unit index : Nat) (ws : List Who) (h_s : Held hp hn hb s) : Held hp hn hb (abortUsers s unit index ws) := by
  unfold abortUsers
  try dsimp only
  repeat' (first | (with_reducible assumption) | (with_reducible apply errorRec_held) | (with_reducible apply abortTask_held) | (with_reducible apply held_foldl) | (with_reducible apply held_foldl_fst) | split | (intro _))

theorem execMergeUe_held (s : State) (h_s : Held hp hn hb s) : HeldR hp hn hb (execMergeUe s) := by
  unfold execMergeUe
  try dsimp only
  repeat' (first | (with_reducible assumption) | (with_reducible apply abortUsers_held) | (with_reducible apply setFlag_held) | (with_reducible apply freeJob_held) | (with_reducible apply heldR_next) | (with_reducible apply heldR_whenever) | (with_reducible apply held_foldl) | (with_reducible apply held_foldl_fst) | (simp only [held_mk]) | split | (intro _))

theorem execPredictorUe_held (s : State) (h_s : Held hp hn hb s) : HeldR hp hn hb (execPredictorUe s) := by
  unfold execPredictorUe
  try dsimp only
  repeat' (first | (with_reducible assumption) | (with_reducible apply abortUsers_held) | (with_reducible apply setFlag_held) | (with_reducible apply heldR_next) | (with_reducible apply heldR_whenever) | (simp only [held_mk]) | split | (intro _))

theorem execPrismUe_held (q : Nat) (s : State) (h_s : Held hp hn hb s) : HeldR hp hn hb (execPrismUe q s) := by
  unfold execPrismUe
  try dsimp only
  repeat' (first | (with_reducible assumption) | (with_reducible apply abortUsers_held) | (with_reducible apply setFlagBit_held) | (with_reducible apply heldR_next) | (with_reducible apply heldR_whenever) | split | (intro _))

theorem facetStreamUe_held (s : State) (lf : Nat) (ws : List Who) (h_s : Held hp hn hb s) : Held hp hn hb (facetStreamUe s lf ws) := by
  unfold facetStreamUe
  try dsimp only
  repeat' (first | (with_reducible assumption) | (with_reducible apply bothHalves_held) | (with_reducible apply setFlag_held) | (with_reducible apply abortUsers_held) | split | (intro _))

theorem execStreamEngineUe_held (e : Nat) (s : State) (h_s : Held hp hn hb s) : HeldR hp hn hb (execStreamEngineUe e s) := by
  unfold execStreamEngineUe
  try dsimp only
  repeat' (first | (with_reducible assumption) | (with_reducible apply facetStreamUe_held) | (with_reducible apply abortUsers_held) | (with_reducible apply setFlagBit_held) | (with_reducible apply heldR_next) | (with_reducible apply heldR_whenever) | split | (intro _))

theorem execUpdateUe_held (q : Nat) (s : State) (h_s : Held hp hn hb s) : HeldR hp hn hb (execUpdateUe q s) := by
  unfold execUpdateUe
  try dsimp only
  repeat' (first | (with_reducible assumption) | (with_reducible apply abortUsers_held) | (with_reducible apply setFlagBit_held) | (with_reducible apply heldR_next) | (with_reducible apply heldR_whenever) | split | (intro _))

theorem execTableUe_held (w : Who) (s : State) (h_s : Held hp hn hb s) : HeldR hp hn hb (execTableUe w s) := by
  unfold execTableUe
  try dsimp only
  repeat' (first | (with_reducible assumption) | (with_reducible apply abortTask_held) | (with_reducible apply errorRec_held) | (with_reducible apply setFlag_held) | (with_reducible apply heldR_next) | (with_reducible apply heldR_whenever) | split | (intro _))

end Sys2Proof.Machine
end

