-- ==== Sys2Proof/Laws/HeldReset.lean ====
section
/-! SUPPORT. What the operations of Machine/Reset.lean keep: the queue, the clock and canonical memories. -/

set_option linter.unreachableTactic false
set_option linter.unusedTactic false
set_option linter.unusedVariables false
set_option linter.unusedSimpArgs false

namespace Sys2Proof.Machine

variable {hp : List Instr} {hn : Nat} {hb : Bool}

theorem abandonMigrations_held (s : State) (h_s : Held hp hn hb s) : Held hp hn hb (abandonMigrations s) := by
  unfold abandonMigrations
  try dsimp only
  repeat' (first | (with_reducible assumption) | (with_reducible apply setPte_held) | (with_reducible apply freeNear_held) | (with_reducible apply modPaging_held) | (with_reducible apply held_foldl) | (with_reducible apply held_foldl_fst) | (simp only [held_mk]) | split | (intro _))

theorem stopAllTasks_held (s : State) (h_s : Held hp hn hb s) : Held hp hn hb (stopAllTasks s) := by
  unfold stopAllTasks
  try dsimp only
  repeat' (first | (with_reducible assumption) | (with_reducible apply leavePartial_held) | (with_reducible apply held_foldl) | (with_reducible apply held_foldl_fst) | split | (intro _))

theorem startDeferred_held (s : State) (h_s : Held hp hn hb s) : Held hp hn hb (startDeferred s) := by
  unfold startDeferred
  try dsimp only
  repeat' (first | (with_reducible assumption) | (with_reducible apply startSwap_held) | (with_reducible apply modRepair_held) | (with_reducible apply held_foldl) | (with_reducible apply held_foldl_fst) | (simp only [held_mk]) | split | (intro _))

theorem mainCleared_held (k : ResetKind) (s : State) (h : Held hp hn hb s) : Held hp hn hb (mainCleared k s) := by
  refine held_mem s _ h rfl rfl (fun _ => rfl) (fun _ => rfl) (fun e => ?_) (fun e => ?_) id id
  · show Memory.wf (if decide (k = .powerOn) then [] else s.sts) = true
    split
    · rfl
    · exact e
  · show Memory.wf (if decide (k = .powerOn) then [] else s.far) = true
    split
    · rfl
    · exact e

theorem resetMain_held (k : ResetKind) (s : State) (h_s : Held hp hn hb s) : Held hp hn hb (resetMain k s) := by
  unfold resetMain
  try dsimp only
  repeat' (first | (with_reducible assumption) | (with_reducible apply abandonMigrations_held) | (with_reducible apply stopAllTasks_held) | (with_reducible apply startDeferred_held) | (with_reducible apply mainCleared_held) | (with_reducible apply modPower_held) | (with_reducible apply fset_held) | (with_reducible apply applyHostFields_held) | (with_reducible apply held_foldl) | (with_reducible apply held_foldl_fst) | (simp only [held_mk]) | split | (intro _))

theorem hifHold_held (s : State) (h_s : Held hp hn hb s) : Held hp hn hb (hifHold s) := by
  unfold hifHold
  try dsimp only
  repeat' (first | (with_reducible assumption) | (with_reducible apply modPower_held) | (with_reducible apply fset_held) | (simp only [held_mk]) | split | (intro _))

theorem enterMainReset_held (s : State) (h_s : Held hp hn hb s) : Held hp hn hb (enterMainReset s) := by
  unfold enterMainReset
  try dsimp only
  repeat' (first | (with_reducible assumption) | (with_reducible apply hifHold_held) | (with_reducible apply modPower_held) | (with_reducible apply resetMain_held) | (simp only [held_mk]) | split | (intro _))

theorem startDown_held (s : State) (h_s : Held hp hn hb s) : Held hp hn hb (startDown s) := by
  unfold startDown
  try dsimp only
  repeat' (first | (with_reducible assumption) | (with_reducible apply resetMain_held) | (with_reducible apply hifHold_held) | (with_reducible apply modPower_held) | (simp only [held_mk]) | split | (intro _))

theorem takenDown_held (s : State) (enabled : Nat) (step : Option Nat) (h_s : Held hp hn hb s) : Held hp hn hb (takenDown s enabled step) := by
  unfold takenDown
  try dsimp only
  repeat' (first | (with_reducible assumption) | (with_reducible apply hifHold_held) | (with_reducible apply modPower_held) | (with_reducible apply resetMain_held) | (simp only [held_mk]) | split | (intro _))

theorem dropRails_held (s : State) (h_s : Held hp hn hb s) : Held hp hn hb (dropRails s) := by
  unfold dropRails
  try dsimp only
  repeat' (first | (with_reducible assumption) | (with_reducible apply takenDown_held) | split | (intro _))

theorem sequenceOff_held (s : State) (step : Nat) (h_s : Held hp hn hb s) : Held hp hn hb (sequenceOff s step) := by
  unfold sequenceOff
  try dsimp only
  repeat' (first | (with_reducible assumption) | (with_reducible apply takenDown_held) | split | (intro _))

theorem startUp_held (s : State) (h_s : Held hp hn hb s) : Held hp hn hb (startUp s) := by
  unfold startUp
  try dsimp only
  repeat' (first | (with_reducible assumption) | (with_reducible apply modPower_held) | (simp only [held_mk]) | split | (intro _))

theorem holdMain_held (s : State) (h_s : Held hp hn hb s) : Held hp hn hb (holdMain s) := by
  unfold holdMain
  try dsimp only
  repeat' (first | (with_reducible assumption) | (with_reducible apply modPower_held) | (with_reducible apply enterMainReset_held) | (with_reducible apply startDown_held) | (simp only [held_mk]) | split | (intro _))

theorem afterStop_held (s : State) (h_s : Held hp hn hb s) : Held hp hn hb (afterStop s) := by
  unfold afterStop
  try dsimp only
  repeat' (first | (with_reducible assumption) | (with_reducible apply holdMain_held) | split | (intro _))

theorem enterFunctionReset_held (k : ResetKind) (s : State) (h_s : Held hp hn hb s) : Held hp hn hb (enterFunctionReset k s) := by
  unfold enterFunctionReset
  try dsimp only
  repeat' (first | (with_reducible assumption) | (with_reducible apply afterStop_held) | (with_reducible apply modPower_held) | (with_reducible apply resetMain_held) | (simp only [held_mk]) | split | (intro _))

theorem declareFatal_held (s : State) (cause : Nat) (h_s : Held hp hn hb s) : Held hp hn hb (declareFatal s cause) := by
  unfold declareFatal
  try dsimp only
  repeat' (first | (with_reducible assumption) | (with_reducible apply abortAll_held) | (with_reducible apply modPower_held) | (with_reducible apply fset_held) | (with_reducible apply setFlag_held) | (with_reducible apply afterStop_held) | (with_reducible apply modSeq_held) | (with_reducible apply errorRec_held) | (simp only [held_mk]) | split | (intro _))

theorem execFatalError_held (cause : Nat) (s : State) (h_s : Held hp hn hb s) : HeldR hp hn hb (execFatalError cause s) := by
  unfold execFatalError
  try dsimp only
  repeat' (first | (with_reducible assumption) | (with_reducible apply declareFatal_held) | (with_reducible apply heldR_next) | (with_reducible apply heldR_whenever) | split | (intro _))

end Sys2Proof.Machine
end

