-- ==== Sys2Proof/Laws/HeldFrame.lean ====
section
/-! SUPPORT. What the operations of Machine/Frame.lean keep: the queue, the clock and canonical memories. -/

set_option linter.unreachableTactic false
set_option linter.unusedTactic false
set_option linter.unusedVariables false
set_option linter.unusedSimpArgs false

namespace Sys2Proof.Machine

variable {hp : List Instr} {hn : Nat} {hb : Bool}

theorem addManifest_held (s : State) (m : Manifest) (h_s : Held hp hn hb s) : Held hp hn hb (addManifest s m) := by
  unfold addManifest
  try dsimp only
  repeat' (first | (with_reducible assumption) | (with_reducible apply modSeq_held) | (simp only [held_mk]) | split | (intro _))

theorem latch_held (s : State) (f : Nat) (h_s : Held hp hn hb s) : Held hp hn hb (latch s f) := by
  unfold latch
  try dsimp only
  repeat' (first | (with_reducible assumption) | (with_reducible apply modSeq_held) | (simp only [held_mk]) | split | (intro _))

theorem skipSlots_held (s : State) (c : HostCmd) (h_s : Held hp hn hb s) : Held hp hn hb (skipSlots s c) := by
  unfold skipSlots
  try dsimp only
  repeat' (first | (with_reducible assumption) | (with_reducible apply modSeq_held) | (with_reducible apply bump_held) | (simp only [held_mk]) | split | (intro _))

theorem lateManifest_held (s : State) (c : HostCmd) (h_s : Held hp hn hb s) : Held hp hn hb (lateManifest s c) := by
  unfold lateManifest
  try dsimp only
  repeat' (first | (with_reducible assumption) | (with_reducible apply complete_held) | (with_reducible apply skipSlots_held) | split | (intro _))

theorem lateAfterTick_held (s : State) (c : HostCmd) (h_s : Held hp hn hb s) : Held hp hn hb (lateAfterTick s c) := by
  unfold lateAfterTick
  try dsimp only
  repeat' (first | (with_reducible assumption) | (with_reducible apply complete_held) | (with_reducible apply latch_held) | (with_reducible apply skipSlots_held) | split | (intro _))

theorem lostManifest_held (s : State) (c : HostCmd) (h_s : Held hp hn hb s) : Held hp hn hb (lostManifest s c) := by
  unfold lostManifest
  try dsimp only
  repeat' (first | (with_reducible assumption) | (with_reducible apply addManifest_held) | (with_reducible apply bump_held) | (with_reducible apply complete_held) | (with_reducible apply latch_held) | split | (intro _))

theorem takeManifest_held (s : State) (c : HostCmd) (h_s : Held hp hn hb s) : Held hp hn hb (takeManifest s c) := by
  unfold takeManifest
  try dsimp only
  repeat' (first | (with_reducible assumption) | (with_reducible apply lateManifest_held) | (with_reducible apply addManifest_held) | (with_reducible apply lateAfterTick_held) | (with_reducible apply lostManifest_held) | (with_reducible apply complete_held) | split | (intro _))

theorem execManifestCmd_held (qp : Nat) (s : State) (h_s : Held hp hn hb s) : HeldR hp hn hb (execManifestCmd qp s) := by
  unfold execManifestCmd
  try dsimp only
  repeat' (first | (with_reducible assumption) | (with_reducible apply takeManifest_held) | (with_reducible apply popCmd_held) | (with_reducible apply heldR_next) | (with_reducible apply heldR_whenever) | split | (intro _))

theorem modManifest_held (s : State) (m : Manifest) (f : Manifest → Manifest) (h_s : Held hp hn hb s) : Held hp hn hb (modManifest s m f) := by
  unfold modManifest
  try dsimp only
  repeat' (first | (with_reducible assumption) | (with_reducible apply modSeq_held) | (simp only [held_mk]) | split | (intro _))

theorem endFetch_held (s : State) (m : Manifest) (fetched : Nat) (h_s : Held hp hn hb s) : Held hp hn hb (endFetch s m fetched) := by
  unfold endFetch
  try dsimp only
  repeat' (first | (with_reducible assumption) | (with_reducible apply complete_held) | (with_reducible apply modManifest_held) | (with_reducible apply bump_held) | (with_reducible apply latch_held) | (simp only [held_mk]) | split | (intro _))

theorem execManifestFetchEnd_held (fetched : Nat) (s : State) (h_s : Held hp hn hb s) : HeldR hp hn hb (execManifestFetchEnd fetched s) := by
  unfold execManifestFetchEnd
  try dsimp only
  repeat' (first | (with_reducible assumption) | (with_reducible apply endFetch_held) | (with_reducible apply heldR_next) | (with_reducible apply heldR_whenever) | split | (intro _))

theorem keepManifests_held (s : State) (f : Nat) (h_s : Held hp hn hb s) : Held hp hn hb (keepManifests s f) := by
  unfold keepManifests
  try dsimp only
  repeat' (first | (with_reducible assumption) | (with_reducible apply modSeq_held) | (simp only [held_mk]) | split | (intro _))

theorem postReport_held (s : State) (h_s : Held hp hn hb s) : Held hp hn hb (postReport s) := by
  unfold postReport
  try dsimp only
  repeat' (first | (with_reducible assumption) | (with_reducible apply event_held) | (with_reducible apply sendVec_held) | (with_reducible apply fset_held) | (with_reducible apply hostWrite_held) | split | (intro _))

theorem stopFrames_held (s : State) (h_s : Held hp hn hb s) : Held hp hn hb (stopFrames s) := by
  unfold stopFrames
  try dsimp only
  repeat' (first | (with_reducible assumption) | (with_reducible apply afterStop_held) | (with_reducible apply modSeq_held) | (with_reducible apply fset_held) | (simp only [held_mk]) | split | (intro _))

theorem writeReport_held (s : State) (h_s : Held hp hn hb s) : Held hp hn hb (writeReport s) := by
  unfold writeReport
  try dsimp only
  repeat' (first | (with_reducible assumption) | (with_reducible apply postReport_held) | (with_reducible apply throttleRecs_held) | (with_reducible apply writeBackAll_held) | (with_reducible apply modSeq_held) | (with_reducible apply stopFrames_held) | (simp only [held_mk]) | split | (intro _))

theorem execFrameReport_held (s : State) (h_s : Held hp hn hb s) : HeldR hp hn hb (execFrameReport s) := by
  unfold execFrameReport
  try dsimp only
  repeat' (first | (with_reducible assumption) | (with_reducible apply writeReport_held) | (with_reducible apply heldR_next) | (with_reducible apply heldR_whenever) | split | (intro _))

theorem execFsqRptTailWrite_held (tail : Nat) (s : State) (h_s : Held hp hn hb s) : HeldR hp hn hb (execFsqRptTailWrite tail s) := by
  unfold execFsqRptTailWrite
  try dsimp only
  repeat' (first | (with_reducible assumption) | (with_reducible apply fset_held) | (with_reducible apply heldR_next) | (with_reducible apply heldR_whenever) | split | (intro _))

theorem execFsqRptRingConfig_held (reg : RingReg) (value : Word) (s : State) (h_s : Held hp hn hb s) : HeldR hp hn hb (execFsqRptRingConfig reg value s) := by
  unfold execFsqRptRingConfig
  try dsimp only
  repeat' (first | (with_reducible assumption) | (with_reducible apply fset_held) | (with_reducible apply heldR_next) | (with_reducible apply heldR_whenever) | split | (intro _))

theorem limitRunning_held (s : State) (h_s : Held hp hn hb s) : Held hp hn hb (limitRunning s) := by
  unfold limitRunning
  try dsimp only
  repeat' (first | (with_reducible assumption) | (with_reducible apply abortOne_held) | (with_reducible apply held_foldl) | (with_reducible apply held_foldl_fst) | split | (intro _) | (simp only [id_eq]))

theorem limitWaiting_held (s : State) (h_s : Held hp hn hb s) : Held hp hn hb (limitWaiting s) := by
  unfold limitWaiting
  try dsimp only
  repeat' (first | (with_reducible assumption) | (with_reducible apply abortOne_held) | (with_reducible apply held_foldl) | (with_reducible apply held_foldl_fst) | split | (intro _) | (simp only [id_eq]))

theorem atHardLimit_held (s : State) (h_s : Held hp hn hb s) : Held hp hn hb (atHardLimit s) := by
  unfold atHardLimit
  try dsimp only
  repeat' (first | (with_reducible assumption) | (with_reducible apply limitWaiting_held) | (with_reducible apply limitRunning_held) | (with_reducible apply modSeq_held) | (with_reducible apply setFlag_held) | (with_reducible apply maintenanceTail_held) | (simp only [held_mk]) | split | (intro _) | (simp only [id_eq]))

theorem execHardLimit_held (s : State) (h_s : Held hp hn hb s) : HeldR hp hn hb (execHardLimit s) := by
  unfold execHardLimit
  try dsimp only
  repeat' (first | (with_reducible assumption) | (with_reducible apply atHardLimit_held) | (with_reducible apply heldR_next) | (with_reducible apply heldR_whenever) | split | (intro _))

theorem showImage_held (s : State) (i : Image) (h_s : Held hp hn hb s) : Held hp hn hb (showImage s i) := by
  unfold showImage
  try dsimp only
  repeat' (first | (with_reducible assumption) | (with_reducible apply fset_held) | (with_reducible apply held_foldl) | (with_reducible apply held_foldl_fst) | split | (intro _))

theorem dropExpress_held (s : State) (i : Image) (h_s : Held hp hn hb s) : Held hp hn hb (dropExpress s i) := by
  unfold dropExpress
  try dsimp only
  repeat' (first | (with_reducible assumption) | (with_reducible apply complete_held) | (with_reducible apply modSeq_held) | (with_reducible apply held_foldl) | (with_reducible apply held_foldl_fst) | (simp only [held_mk]) | split | (intro _) | (simp only [id_eq]))

theorem swapTo_held (s : State) (i : Image) (h_s : Held hp hn hb s) : Held hp hn hb (swapTo s i) := by
  unfold swapTo
  try dsimp only
  repeat' (first | (with_reducible assumption) | (with_reducible apply modSeq_held) | (with_reducible apply fset_held) | (with_reducible apply loadImem_held) | (with_reducible apply applyAtSwap_held) | (with_reducible apply dropExpress_held) | (with_reducible apply showImage_held) | (with_reducible apply held_foldl) | (with_reducible apply held_foldl_fst) | (simp only [held_mk]) | split | (intro _) | (simp only [id_eq]))

theorem swapAtTick_held (s : State) (h_s : Held hp hn hb s) : Held hp hn hb (swapAtTick s) := by
  unfold swapAtTick
  try dsimp only
  repeat' (first | (with_reducible assumption) | (with_reducible apply swapTo_held) | split | (intro _))

theorem execFsqSwapReq_held (s : State) (h_s : Held hp hn hb s) : HeldR hp hn hb (execFsqSwapReq s) := by
  unfold execFsqSwapReq
  try dsimp only
  repeat' (first | (with_reducible assumption) | (with_reducible apply modSeq_held) | (with_reducible apply fset_held) | (with_reducible apply heldR_next) | (with_reducible apply heldR_whenever) | (simp only [held_mk]) | split | (intro _))

theorem execFsqSwapCancel_held (s : State) (h_s : Held hp hn hb s) : HeldR hp hn hb (execFsqSwapCancel s) := by
  unfold execFsqSwapCancel
  try dsimp only
  repeat' (first | (with_reducible assumption) | (with_reducible apply fset_held) | (with_reducible apply heldR_next) | (with_reducible apply heldR_whenever) | split | (intro _))

theorem freshFrame_held (s : State) (h_s : Held hp hn hb s) : Held hp hn hb (freshFrame s) := by
  unfold freshFrame
  try dsimp only
  repeat' (first | (with_reducible assumption) | (with_reducible apply bump_held) | (simp only [held_mk]) | split | (intro _))

theorem sendTicks_held (s : State) (ns : Nat) (h_s : Held hp hn hb s) : Held hp hn hb (sendTicks s ns) := by
  unfold sendTicks
  try dsimp only
  repeat' (first | (with_reducible assumption) | (with_reducible apply emit_held) | (with_reducible apply held_foldl) | (with_reducible apply held_foldl_fst) | split | (intro _))

theorem closeFrame_held (s : State) (h_s : Held hp hn hb s) : Held hp hn hb (closeFrame s) := by
  unfold closeFrame
  try dsimp only
  repeat' (first | (with_reducible assumption) | (with_reducible apply writeReport_held) | (with_reducible apply atHardLimit_held) | split | (intro _))

theorem startFrame_held (s : State) (t : Nat) (h_s : Held hp hn hb s) : Held hp hn hb (startFrame s t) := by
  unfold startFrame
  try dsimp only
  repeat' (first | (with_reducible assumption) | (with_reducible apply modSeq_held) | (with_reducible apply modPaging_held) | (with_reducible apply fset_held) | (with_reducible apply applyAtTick_held) | (with_reducible apply swapAtTick_held) | (with_reducible apply prologueMaps_held) | (with_reducible apply repairTick_held) | (with_reducible apply latch_held) | (with_reducible apply keepManifests_held) | (with_reducible apply freshFrame_held) | (with_reducible apply emit_held) | (with_reducible apply sendTicks_held) | (simp only [held_mk]) | split | (intro _))

theorem beginFrame_held (s : State) (t : Nat) (h_s : Held hp hn hb s) : Held hp hn hb (beginFrame s t) := by
  unfold beginFrame
  try dsimp only
  repeat' (first | (with_reducible assumption) | (with_reducible apply closeFrame_held) | (with_reducible apply startFrame_held) | split | (intro _))

theorem execInternalTimerTick_held (s : State) (h_s : Held hp hn hb s) : HeldR hp hn hb (execInternalTimerTick s) := by
  unfold execInternalTimerTick
  try dsimp only
  repeat' (first | (with_reducible assumption) | (with_reducible apply beginFrame_held) | (with_reducible apply heldR_next) | (with_reducible apply heldR_whenever) | split | (intro _))

theorem tickLost_held (s : State) (h_s : Held hp hn hb s) : Held hp hn hb (tickLost s) := by
  unfold tickLost
  try dsimp only
  repeat' (first | (with_reducible assumption) | (with_reducible apply setFlag_held) | (with_reducible apply modSeq_held) | (with_reducible apply fset_held) | (simp only [held_mk]) | split | (intro _))

theorem makeTick_held (s : State) (h_s : Held hp hn hb s) : Held hp hn hb (makeTick s) := by
  unfold makeTick
  try dsimp only
  repeat' (first | (with_reducible assumption) | (with_reducible apply beginFrame_held) | (with_reducible apply event_held) | (with_reducible apply tickLost_held) | (with_reducible apply modSeq_held) | (simp only [held_mk]) | split | (intro _))

theorem takeEdge_held (s : State) (h_s : Held hp hn hb s) : Held hp hn hb (takeEdge s) := by
  unfold takeEdge
  try dsimp only
  repeat' (first | (with_reducible assumption) | (with_reducible apply event_held) | (with_reducible apply beginFrame_held) | (with_reducible apply modSeq_held) | (simp only [held_mk]) | split | (intro _))

theorem edgeArrives_held  (fuel : Nat) : ∀ (s : State), Held hp hn hb s → Held hp hn hb (edgeArrives s fuel) := by
  induction fuel with
  | zero => intro s h; exact h
  | succ k ih =>
    intro s h
    unfold edgeArrives
    try dsimp only
    repeat' (first | (with_reducible apply ih) | (with_reducible assumption) | (with_reducible apply makeTick_held) | (with_reducible apply takeEdge_held) | split | (intro _))

theorem execTickInEdge_held (s : State) (h_s : Held hp hn hb s) : HeldR hp hn hb (execTickInEdge s) := by
  unfold execTickInEdge
  try dsimp only
  repeat' (first | (with_reducible assumption) | (with_reducible apply edgeArrives_held) | (with_reducible apply modSeq_held) | (with_reducible apply heldR_next) | (with_reducible apply heldR_whenever) | (simp only [held_mk]) | split | (intro _))

theorem execPtmGridTick_held (point : Int) (s : State) (h_s : Held hp hn hb s) : HeldR hp hn hb (execPtmGridTick point s) := by
  unfold execPtmGridTick
  try dsimp only
  repeat' (first | (with_reducible assumption) | (with_reducible apply beginFrame_held) | (with_reducible apply modSeq_held) | (with_reducible apply fset_held) | (with_reducible apply heldR_next) | (with_reducible apply heldR_whenever) | (simp only [held_mk]) | split | (intro _))

theorem execTickSynth_held (s : State) (h_s : Held hp hn hb s) : HeldR hp hn hb (execTickSynth s) := by
  unfold execTickSynth
  try dsimp only
  repeat' (first | (with_reducible assumption) | (with_reducible apply makeTick_held) | (with_reducible apply heldR_next) | (with_reducible apply heldR_whenever) | split | (intro _))

theorem execFsqTickctlWrite_held (src : Nat) (s : State) (h_s : Held hp hn hb s) : HeldR hp hn hb (execFsqTickctlWrite src s) := by
  unfold execFsqTickctlWrite
  try dsimp only
  repeat' (first | (with_reducible assumption) | (with_reducible apply fset_held) | (with_reducible apply heldR_next) | (with_reducible apply heldR_whenever) | split | (intro _))

theorem startRun_held (s : State) (h_s : Held hp hn hb s) : Held hp hn hb (startRun s) := by
  unfold startRun
  try dsimp only
  repeat' (first | (with_reducible assumption) | (with_reducible apply modSeq_held) | (with_reducible apply fset_held) | (simp only [held_mk]) | split | (intro _))

theorem execRunStart_held (s : State) (h_s : Held hp hn hb s) : HeldR hp hn hb (execRunStart s) := by
  unfold execRunStart
  try dsimp only
  repeat' (first | (with_reducible assumption) | (with_reducible apply modSeq_held) | (with_reducible apply startRun_held) | (with_reducible apply heldR_next) | (with_reducible apply heldR_whenever) | (simp only [held_mk]) | split | (intro _))

theorem stopRun_held (s : State) (h_s : Held hp hn hb s) : Held hp hn hb (stopRun s) := by
  unfold stopRun
  try dsimp only
  repeat' (first | (with_reducible assumption) | (with_reducible apply modSeq_held) | (with_reducible apply stopFrames_held) | (simp only [held_mk]) | split | (intro _))

theorem execRunStop_held (s : State) (h_s : Held hp hn hb s) : HeldR hp hn hb (execRunStop s) := by
  unfold execRunStop
  try dsimp only
  repeat' (first | (with_reducible assumption) | (with_reducible apply stopRun_held) | (with_reducible apply heldR_next) | (with_reducible apply heldR_whenever) | split | (intro _))

theorem clearBuffers_held (s : State) (t : TaskEntry) (h_s : Held hp hn hb s) : Held hp hn hb (clearBuffers s t) := by
  unfold clearBuffers
  try dsimp only
  repeat' (first | (with_reducible assumption) | (with_reducible apply renewBuffers_held) | split | (intro _))

theorem startTask_held (s : State) (t : TaskEntry) (x : Option ExpressReq) (h_s : Held hp hn hb s) : Held hp hn hb (startTask s t x) := by
  unfold startTask
  try dsimp only
  repeat' (first | (with_reducible assumption) | (with_reducible apply clearBuffers_held) | (with_reducible apply modCtx_held) | (with_reducible apply modTask_held) | (simp only [held_mk]) | split | (intro _) | (simp only [id_eq]))

theorem release_held (s : State) (t : TaskEntry) (h_s : Held hp hn hb s) : Held hp hn hb (release s t) := by
  unfold release
  try dsimp only
  repeat' (first | (with_reducible assumption) | (with_reducible apply abortId_held) | (with_reducible apply shadowStart_held) | (with_reducible apply startTask_held) | split | (intro _) | (simp only [id_eq]))

theorem execTaskRelease_held (task : Nat) (s : State) (h_s : Held hp hn hb s) : HeldR hp hn hb (execTaskRelease task s) := by
  unfold execTaskRelease
  try dsimp only
  repeat' (first | (with_reducible assumption) | (with_reducible apply release_held) | (with_reducible apply heldR_next) | (with_reducible apply heldR_whenever) | split | (intro _))

theorem execStallWatchdog_held (w : Who) (s : State) (h_s : Held hp hn hb s) : HeldR hp hn hb (execStallWatchdog w s) := by
  unfold execStallWatchdog
  try dsimp only
  repeat' (first | (with_reducible assumption) | (with_reducible apply abortTask_held) | (with_reducible apply heldR_next) | (with_reducible apply heldR_whenever) | split | (intro _))

theorem takeExpress_held (s : State) (q : Nat) (r : List Byte) (h_s : Held hp hn hb s) : Held hp hn hb (takeExpress s q r) := by
  unfold takeExpress
  try dsimp only
  repeat' (first | (with_reducible assumption) | (with_reducible apply modQp_held) | (with_reducible apply bump_held) | (with_reducible apply modSeq_held) | (with_reducible apply complete_held) | (simp only [held_mk]) | split | (intro _))

theorem arriveExpress_held (s : State) (q : Nat) (r : List Byte) (h_s : Held hp hn hb s) : Held hp hn hb (arriveExpress s q r) := by
  unfold arriveExpress
  try dsimp only
  repeat' (first | (with_reducible assumption) | (with_reducible apply event_held) | (with_reducible apply takeExpress_held) | split | (intro _))

theorem expressCycle_held (s : State) (h_s : Held hp hn hb s) : Held hp hn hb (expressCycle s) := by
  unfold expressCycle
  try dsimp only
  repeat' (first | (with_reducible assumption) | (with_reducible apply arriveExpress_held) | (with_reducible apply modHif_held) | (with_reducible apply held_foldl) | (with_reducible apply held_foldl_fst) | (simp only [held_mk]) | split | (intro _))

theorem execExpressRequest_held (qp : Nat) (request : List Byte) (s : State) (h_s : Held hp hn hb s) : HeldR hp hn hb (execExpressRequest qp request s) := by
  unfold execExpressRequest
  try dsimp only
  repeat' (first | (with_reducible assumption) | (with_reducible apply hostErr_held) | (with_reducible apply modHif_held) | (with_reducible apply heldR_next) | (with_reducible apply heldR_whenever) | (simp only [held_mk]) | split | (intro _))

theorem execExpressDispatch_held (task : Nat) (s : State) (h_s : Held hp hn hb s) : HeldR hp hn hb (execExpressDispatch task s) := by
  unfold execExpressDispatch
  try dsimp only
  repeat' (first | (with_reducible assumption) | (with_reducible apply release_held) | (with_reducible apply modSeq_held) | (with_reducible apply abortId_held) | (with_reducible apply startTask_held) | (with_reducible apply heldR_next) | (with_reducible apply heldR_whenever) | (simp only [held_mk]) | split | (intro _) | (simp only [id_eq]))

theorem execReservedWindowOpen_held (i : Nat) (s : State) (h_s : Held hp hn hb s) : HeldR hp hn hb (execReservedWindowOpen i s) := by
  unfold execReservedWindowOpen
  try dsimp only
  repeat' (first | (with_reducible assumption) | (with_reducible apply modSeq_held) | (with_reducible apply routineRetrain_held) | (with_reducible apply heldR_next) | (with_reducible apply heldR_whenever) | (simp only [held_mk]) | split | (intro _))

theorem execReservedWindowClose_held (i : Nat) (s : State) (h_s : Held hp hn hb s) : HeldR hp hn hb (execReservedWindowClose i s) := by
  unfold execReservedWindowClose
  try dsimp only
  repeat' (first | (with_reducible assumption) | (with_reducible apply modSeq_held) | (with_reducible apply closeMover_held) | (with_reducible apply heldR_next) | (with_reducible apply heldR_whenever) | (simp only [held_mk]) | split | (intro _))

end Sys2Proof.Machine
end

