-- ==== Sys2Proof/Laws/HeldMerge.lean ====
section
/-! SUPPORT. What the operations of Machine/Merge.lean keep: the queue, the clock and canonical memories. -/

set_option linter.unreachableTactic false
set_option linter.unusedTactic false
set_option linter.unusedVariables false
set_option linter.unusedSimpArgs false

namespace Sys2Proof.Machine

variable {hp : List Instr} {hn : Nat} {hb : Bool}

theorem heldO_firstSome {β : Type} (f : β → Option State) (xs : List β) (hf : ∀ x, HeldO hp hn hb (f x)) : HeldO hp hn hb (firstSome f xs) := by
  induction xs with
  | nil => exact heldO_none
  | cons x r ih =>
    unfold firstSome
    split
    · next t e => exact heldO_some (heldO_elim e (hf x))
    · exact ih

theorem heldO_withJob (s : State) (n : Nat) (f : Job → Option State) (hf : ∀ j, HeldO hp hn hb (f j)) : HeldO hp hn hb (withJob s n f) := by
  unfold withJob
  split
  · exact heldO_none
  · exact hf _

theorem enterRecord_held (s : State) (n l : Nat) (r : List Byte) (h_s : Held hp hn hb s) : Held hp hn hb (enterRecord s n l r) := by
  unfold enterRecord
  try dsimp only
  repeat' (first | (with_reducible assumption) | (with_reducible apply bump_held) | (simp only [held_mk]) | split | (intro _))

theorem combinerCycle_held (s : State) (order : List Nat) (h_s : Held hp hn hb s) : Held hp hn hb (combinerCycle s order) := by
  unfold combinerCycle
  try dsimp only
  repeat' (first | (with_reducible assumption) | (with_reducible apply drawn_held) | (with_reducible apply bump_held) | (with_reducible apply heldO_getD) | (with_reducible apply heldO_map) | (with_reducible apply heldO_withJob) | (with_reducible apply heldO_firstSome) | (with_reducible apply heldO_some) | (with_reducible apply heldO_none) | (with_reducible apply heldO_map) | (with_reducible apply heldO_orElse) | (simp only [held_mk]) | (refine heldO_elim (by assumption) ?_; with_reducible apply heldO_withJob) | (refine heldO_elim (by assumption) ?_; with_reducible apply heldO_firstSome) | split | (intro _))

theorem nodeCycle_held (order : List Nat) (s : State) (i : Nat) (h_s : Held hp hn hb s) : Held hp hn hb (nodeCycle order s i) := by
  unfold nodeCycle
  try dsimp only
  repeat' (first | (with_reducible assumption) | (with_reducible apply heldO_getD) | (with_reducible apply heldO_map) | (with_reducible apply heldO_withJob) | (with_reducible apply heldO_firstSome) | (with_reducible apply heldO_some) | (with_reducible apply heldO_none) | (with_reducible apply heldO_map) | (with_reducible apply heldO_orElse) | (simp only [held_mk]) | (refine heldO_elim (by assumption) ?_; with_reducible apply heldO_withJob) | (refine heldO_elim (by assumption) ?_; with_reducible apply heldO_firstSome) | split | (intro _))

theorem pushDone_held (s : State) (w : Who) (c : ECmd) (n : Nat) (h_s : Held hp hn hb s) : Held hp hn hb (pushDone s w c n) := by
  unfold pushDone
  try dsimp only
  repeat' (first | (with_reducible assumption) | (with_reducible apply modCmd_held) | (with_reducible apply endLeaf_held) | (simp only [held_mk]) | split | (intro _))

theorem feedPush_held (s : State) (w : Who) (h_s : Held hp hn hb s) : HeldO hp hn hb (feedPush s w) := by
  unfold feedPush
  try dsimp only
  repeat' (first | (with_reducible assumption) | (with_reducible apply pushDone_held) | (with_reducible apply enterRecord_held) | (with_reducible apply modCmd_held) | (with_reducible apply heldO_some) | (with_reducible apply heldO_none) | (with_reducible apply heldO_withJob) | (with_reducible apply heldO_some) | (with_reducible apply heldO_none) | (with_reducible apply heldO_map) | (with_reducible apply heldO_orElse) | (simp only [held_mk]) | (refine heldO_elim (by assumption) ?_; with_reducible apply heldO_withJob) | split | (intro _))

theorem mergeStray_held (s : State) (h_s : Held hp hn hb s) : Held hp hn hb (mergeStray s) := by
  unfold mergeStray
  try dsimp only
  repeat' (first | (with_reducible assumption) | (with_reducible apply chordDrop_held) | (with_reducible apply bump_held) | split | (intro _))

theorem portPacket_held (s : State) (p i : Nat) (h_s : Held hp hn hb s) : HeldO hp hn hb (portPacket s p i) := by
  unfold portPacket
  try dsimp only
  repeat' (first | (with_reducible assumption) | (with_reducible apply oweCredits_held) | (with_reducible apply mergeStray_held) | (with_reducible apply endLeaf_held) | (with_reducible apply enterRecord_held) | (with_reducible apply heldO_some) | (with_reducible apply heldO_none) | (with_reducible apply heldO_withJob) | (with_reducible apply heldO_some) | (with_reducible apply heldO_none) | (with_reducible apply heldO_map) | (with_reducible apply heldO_orElse) | (simp only [held_mk]) | (refine heldO_elim (by assumption) ?_; with_reducible apply heldO_withJob) | split | (intro _))

theorem feedPort_held (s : State) (p : Nat) (h_s : Held hp hn hb s) : HeldO hp hn hb (feedPort s p) := by
  unfold feedPort
  try dsimp only
  repeat' (first | (with_reducible assumption) | (with_reducible apply portPacket_held) | (with_reducible apply sendCredits_held) | (with_reducible apply heldO_some) | (with_reducible apply heldO_none) | (with_reducible apply heldO_firstSome) | (with_reducible apply heldO_some) | (with_reducible apply heldO_none) | (with_reducible apply heldO_map) | (with_reducible apply heldO_orElse) | (with_reducible apply heldO_map) | (with_reducible apply heldP_map) | (refine heldO_elim (by assumption) ?_; with_reducible apply heldO_firstSome) | (refine heldO_elim (by assumption) (portPacket_held ..) <;> assumption) | (refine heldO_elim (by assumption) ?_; with_reducible apply portPacket_held) | split | (intro _))

theorem transferRecord_held (s : State) (e : Nat) (t : Transfer) (h_s : Held hp hn hb s) : HeldO hp hn hb (transferRecord s e t) := by
  unfold transferRecord
  try dsimp only
  repeat' (first | (with_reducible assumption) | (with_reducible apply modEngine_held) | (with_reducible apply mergeStray_held) | (with_reducible apply enterRecord_held) | (with_reducible apply heldO_some) | (with_reducible apply heldO_none) | (with_reducible apply heldO_withJob) | (with_reducible apply heldO_some) | (with_reducible apply heldO_none) | (with_reducible apply heldO_map) | (with_reducible apply heldO_orElse) | (with_reducible apply heldO_map) | (with_reducible apply heldP_map) | (simp only [held_mk]) | (refine heldO_elim (by assumption) ?_; with_reducible apply heldO_withJob) | split | (intro _) | (simp only [id_eq]))

theorem feedItem_held (s : State) (i : Nat) (h_s : Held hp hn hb s) : HeldO hp hn hb (feedItem s i) := by
  unfold feedItem
  try dsimp only
  repeat' (first | (with_reducible assumption) | (with_reducible apply mergeStray_held) | (with_reducible apply endLeaf_held) | (with_reducible apply enterRecord_held) | (with_reducible apply heldO_some) | (with_reducible apply heldO_none) | (with_reducible apply heldO_withJob) | (with_reducible apply heldO_some) | (with_reducible apply heldO_none) | (with_reducible apply heldO_map) | (with_reducible apply heldO_orElse) | (simp only [held_mk]) | (refine heldO_elim (by assumption) ?_; with_reducible apply heldO_withJob) | split | (intro _))

theorem feedLeaf_held (s : State) (l : Nat) (h_s : Held hp hn hb s) : Held hp hn hb (feedLeaf s l) := by
  unfold feedLeaf
  try dsimp only
  repeat' (first | (with_reducible assumption) | (with_reducible apply transferRecord_held) | (with_reducible apply feedPush_held) | (with_reducible apply feedPort_held) | (with_reducible apply feedItem_held) | (with_reducible apply heldO_getD) | (with_reducible apply heldO_map) | (with_reducible apply heldO_firstSome) | (with_reducible apply heldO_some) | (with_reducible apply heldO_none) | (with_reducible apply heldO_map) | (with_reducible apply heldO_orElse) | (refine heldO_elim (by assumption) ?_; with_reducible apply heldO_firstSome) | (refine heldO_elim (by assumption) (transferRecord_held ..) <;> assumption) | (refine heldO_elim (by assumption) ?_; with_reducible apply transferRecord_held) | (refine heldO_elim (by assumption) (feedPush_held ..) <;> assumption) | (refine heldO_elim (by assumption) ?_; with_reducible apply feedPush_held) | (refine heldO_elim (by assumption) (feedPort_held ..) <;> assumption) | (refine heldO_elim (by assumption) ?_; with_reducible apply feedPort_held) | (refine heldO_elim (by assumption) (feedItem_held ..) <;> assumption) | (refine heldO_elim (by assumption) ?_; with_reducible apply feedItem_held) | split | (intro _))

theorem pushLoad_held (s : State) (w : Who) (c : ECmd) (addr count : Word) (n : Nat) (j : Job) (h_s : Held hp hn hb s) : Held hp hn hb (pushLoad s w c addr count n j) := by
  unfold pushLoad
  try dsimp only
  repeat' (first | (with_reducible assumption) | (with_reducible apply abortTask_held) | (with_reducible apply fmemTouch_held) | (with_reducible apply modCtx_held) | (with_reducible apply modCmd_held) | (simp only [held_mk]) | split | (intro _))

theorem pushWaiting_held (s : State) (w : Who) (h_s : Held hp hn hb s) : Held hp hn hb (pushWaiting s w) := by
  unfold pushWaiting
  try dsimp only
  repeat' (first | (with_reducible assumption) | (with_reducible apply pushLoad_held) | (with_reducible apply heldO_getD) | (with_reducible apply heldO_map) | (with_reducible apply heldO_withJob) | (with_reducible apply heldO_some) | (with_reducible apply heldO_none) | (with_reducible apply heldO_map) | (with_reducible apply heldO_orElse) | (refine heldO_elim (by assumption) ?_; with_reducible apply heldO_withJob) | split | (intro _))

theorem freeClosed_held (s : State) (h_s : Held hp hn hb s) : Held hp hn hb (freeClosed s) := by
  unfold freeClosed
  try dsimp only
  repeat' (first | (with_reducible assumption) | (with_reducible apply freeJob_held) | (with_reducible apply held_foldl) | (with_reducible apply held_foldl_fst) | split | (intro _))

theorem mergeCycle_held (s : State) (h_s : Held hp hn hb s) : Held hp hn hb (mergeCycle s) := by
  unfold mergeCycle
  try dsimp only
  repeat' (first | (with_reducible assumption) | (with_reducible apply pushWaiting_held) | (with_reducible apply feedLeaf_held) | (with_reducible apply combinerCycle_held) | (with_reducible apply drawn_held) | (with_reducible apply nodeCycle_held) | (with_reducible apply freeClosed_held) | (with_reducible apply held_foldl) | (with_reducible apply held_foldl_fst) | (simp only [held_mk]) | split | (intro _))

theorem distPut_held (s : State) (w : Who) (n task : Nat) (img : List Byte) (x : Nat) (data : List Byte) (h_s : Held hp hn hb s) : Held hp hn hb (distPut s w n task img x data) := by
  unfold distPut
  try dsimp only
  repeat' (first | (with_reducible assumption) | (with_reducible apply writePiece_held) | (with_reducible apply abortId_held) | (with_reducible apply chordDrop_held) | (with_reducible apply stsPut_held) | (with_reducible apply localPost_held) | (simp only [held_mk]) | (refine heldP_elim (by assumption) ?_; with_reducible apply writePiece_held) | (refine heldP_elim' (by assumption) ?_; with_reducible apply writePiece_held) | split | (intro _))

theorem tdPut_held (s : State) (w : Who) (n task : Nat) (d : Td) (a : Nat) (bs : List Byte) (h_s : Held hp hn hb s) : Held hp hn hb (tdPut s w n task d a bs) := by
  unfold tdPut
  try dsimp only
  repeat' (first | (with_reducible assumption) | (with_reducible apply abortId_held) | (with_reducible apply distPut_held) | (with_reducible apply stsWrite_held) | (with_reducible apply wabDeliver_held) | (with_reducible apply stageDeliver_held) | (with_reducible apply arrAdd_held) | (with_reducible apply taskWriteOrAbort_held) | (with_reducible apply held_foldl) | (with_reducible apply held_foldl_fst) | split | (intro _))

theorem execMergeResultWrite_held (n : Nat) (s : State) (h_s : Held hp hn hb s) : HeldR hp hn hb (execMergeResultWrite n s) := by
  unfold execMergeResultWrite
  try dsimp only
  repeat' (first | (with_reducible assumption) | (with_reducible apply bump_held) | (with_reducible apply tdPut_held) | (with_reducible apply heldR_next) | (with_reducible apply heldR_whenever) | (simp only [held_mk]) | split | (intro _))

theorem execMergeJobComplete_held (n : Nat) (s : State) (h_s : Held hp hn hb s) : HeldR hp hn hb (execMergeJobComplete n s) := by
  unfold execMergeJobComplete
  try dsimp only
  repeat' (first | (with_reducible assumption) | (with_reducible apply complete_held) | (with_reducible apply resultEnds_held) | (with_reducible apply freeJob_held) | (with_reducible apply heldR_next) | (with_reducible apply heldR_whenever) | (simp only [held_mk]) | split | (intro _))

theorem startPush_held (s : State) (w : Who) (c : ECmd) (addr count : Word) (n : Nat) (h_s : Held hp hn hb s) : HeldO hp hn hb (startPush s w c addr count n) := by
  unfold startPush
  try dsimp only
  repeat' (first | (with_reducible assumption) | (with_reducible apply pushLoad_held) | (with_reducible apply heldO_some) | (with_reducible apply heldO_none) | (with_reducible apply heldO_getD) | (with_reducible apply heldO_map) | (with_reducible apply heldO_withJob) | (with_reducible apply heldO_some) | (with_reducible apply heldO_none) | (with_reducible apply heldO_map) | (with_reducible apply heldO_orElse) | (refine heldO_elim (by assumption) ?_; with_reducible apply heldO_withJob) | split | (intro _))

theorem startOpen_held (s : State) (w : Who) (addr : Word) (h_s : Held hp hn hb s) : HeldP hp hn hb (startOpen s w addr) := by
  unfold startOpen
  try dsimp only
  repeat' (first | (with_reducible assumption) | (with_reducible apply fmemTouch_held) | (with_reducible apply heldP_some) | (with_reducible apply heldP_none) | (with_reducible apply heldP_some') | split | (intro _))

theorem finishOpen_held (s : State) (w : Who) (desc : List Byte) (h_s : Held hp hn hb s) : Held hp hn hb (finishOpen s w desc) := by
  unfold finishOpen
  try dsimp only
  repeat' (first | (with_reducible assumption) | (with_reducible apply abortTask_held) | (with_reducible apply endLeaf_held) | (with_reducible apply held_foldl) | (with_reducible apply held_foldl_fst) | (simp only [held_mk]) | split | (intro _))

end Sys2Proof.Machine
end

