-- ==== Sys2Proof/Laws/HeldHostRegs.lean ====
section
/-! SUPPORT. What the operations of Machine/HostRegs.lean keep: the queue, the clock and canonical memories. -/

set_option linter.unreachableTactic false
set_option linter.unusedTactic false
set_option linter.unusedVariables false
set_option linter.unusedSimpArgs false

namespace Sys2Proof.Machine

variable {hp : List Instr} {hn : Nat} {hb : Bool}

theorem writeField_held (s : State) (f : Field) (v : Nat) (h_s : Held hp hn hb s) : Held hp hn hb (writeField s f v) := by
  unfold writeField
  try dsimp only
  repeat' (first | (with_reducible assumption) | (with_reducible apply fset_held) | split | (intro _))

theorem refusedStart_held (s : State) (a v : Nat) (h_s : Held hp hn hb s) : Held hp hn hb (refusedStart s a v) := by
  unfold refusedStart
  try dsimp only
  repeat' (first | (with_reducible assumption) | (with_reducible apply startHostOp_held) | split | (intro _))

theorem writeWord_held (s : State) (a v : Nat) (skip : Field → Bool) (h_s : Held hp hn hb s) : Held hp hn hb (writeWord s a v skip) := by
  unfold writeWord
  try dsimp only
  repeat' (first | (with_reducible assumption) | (with_reducible apply settle_held) | (with_reducible apply refusedStart_held) | (with_reducible apply writeField_held) | (with_reducible apply keepStaged_held) | (with_reducible apply held_foldl) | (with_reducible apply held_foldl_fst) | split | (intro _))

theorem hostWordWrite_held (s : State) (a v : Nat) (h_s : Held hp hn hb s) : Held hp hn hb (hostWordWrite s a v) := by
  unfold hostWordWrite
  try dsimp only
  repeat' (first | (with_reducible assumption) | (with_reducible apply bump_held) | (with_reducible apply writeWord_held) | (with_reducible apply modCycle_held) | (with_reducible apply putHost_held) | (with_reducible apply wf_filter) | (simp only [held_mk]) | (simp only [held_mkHost]) | split | (intro _))

theorem managerWordWrite_held (s : State) (a v : Nat) (h_s : Held hp hn hb s) : Held hp hn hb (managerWordWrite s a v) := by
  unfold managerWordWrite
  try dsimp only
  repeat' (first | (with_reducible assumption) | (with_reducible apply bump_held) | (with_reducible apply modCycle_held) | (with_reducible apply writeWord_held) | (with_reducible apply putHost_held) | (with_reducible apply wf_filter) | (simp only [held_mk]) | (simp only [held_mkHost]) | split | (intro _))

theorem msixWrite_held (s : State) (k v : Nat) (h_s : Held hp hn hb s) : Held hp hn hb (msixWrite s k v) := by
  unfold msixWrite
  try dsimp only
  repeat' (first | (with_reducible assumption) | (with_reducible apply modHif_held) | (with_reducible apply emit_held) | (simp only [held_mk]) | split | (intro _))

theorem hostWord_held (s : State) (a v : Nat) (h_s : Held hp hn hb s) : Held hp hn hb (hostWord s a v) := by
  unfold hostWord
  try dsimp only
  repeat' (first | (with_reducible assumption) | (with_reducible apply msixWrite_held) | (with_reducible apply hostWordWrite_held) | split | (intro _))

theorem execHostRegisterWrite_held (addr size value : Nat) (s : State) (h_s : Held hp hn hb s) : HeldR hp hn hb (execHostRegisterWrite addr size value s) := by
  unfold execHostRegisterWrite
  try dsimp only
  repeat' (first | (with_reducible assumption) | (with_reducible apply hostErr_held) | (with_reducible apply hostWord_held) | (with_reducible apply heldR_next) | (with_reducible apply heldR_whenever) | split | (intro _))

theorem execBar0AccessError_held (bar : Nat) (isWrite : Bool) (addr size : Nat) (s : State) (h_s : Held hp hn hb s) : HeldR hp hn hb (execBar0AccessError bar isWrite addr size s) := by
  unfold execBar0AccessError
  try dsimp only
  repeat' (first | (with_reducible assumption) | (with_reducible apply hostErr_held) | (with_reducible apply emit_held) | (with_reducible apply heldR_next) | (with_reducible apply heldR_whenever) | split | (intro _))

end Sys2Proof.Machine
end

