-- ==== Sys2Proof/Laws/HeldMgmt.lean ====
section
/-! SUPPORT. What the operations of Machine/Mgmt.lean keep: the queue, the clock and canonical memories. -/

set_option linter.unreachableTactic false
set_option linter.unusedTactic false
set_option linter.unusedVariables false
set_option linter.unusedSimpArgs false

namespace Sys2Proof.Machine

variable {hp : List Instr} {hn : Nat} {hb : Bool}

theorem reply_held (s : State) (b : Binding) (status : Nat) (body : List Byte) (h_s : Held hp hn hb s) : Held hp hn hb (reply s b status body) := by
  unfold reply
  try dsimp only
  repeat' (first | (with_reducible assumption) | (with_reducible apply emit_held) | split | (intro _))

theorem limmund_held (b : Binding) (sideOnly : Bool) (s : State) (act : State → State) (h_s : Held hp hn hb s) (hk_act : ∀ s, Held hp hn hb s → Held hp hn hb (act s)) : HeldR hp hn hb (limmund b sideOnly s act) := by
  unfold limmund
  try dsimp only
  repeat' (first | (with_reducible assumption) | (with_reducible apply reply_held) | (with_reducible apply hk_act) | (with_reducible apply heldR_next) | (with_reducible apply heldR_whenever) | split | (intro _))

theorem limmundMain_held (b : Binding) (sideOnly : Bool) (s : State) (bad : Bool) (act : State → State) (h_s : Held hp hn hb s) (hk_act : ∀ s, Held hp hn hb s → Held hp hn hb (act s)) : HeldR hp hn hb (limmundMain b sideOnly s bad act) := by
  unfold limmundMain
  try dsimp only
  repeat' (first | (with_reducible assumption) | (with_reducible apply limmund_held) | (with_reducible apply reply_held) | (with_reducible apply hk_act) | (with_reducible apply heldR_next) | (with_reducible apply heldR_whenever) | (refine heldR_elim (by assumption) ?_; with_reducible apply limmund_held) | split | (intro _))

theorem execGetStatus_held (b : Binding) (s : State) (h_s : Held hp hn hb s) : HeldR hp hn hb (execGetStatus b s) := by
  unfold execGetStatus
  try dsimp only
  repeat' (first | (with_reducible assumption) | (with_reducible apply limmund_held) | (with_reducible apply reply_held) | (with_reducible apply heldR_next) | (with_reducible apply heldR_whenever) | (refine heldR_elim (by assumption) ?_; with_reducible apply limmund_held) | split | (intro _))

theorem execSetPowerCap_held (b : Binding) (watts : Nat) (s : State) (h_s : Held hp hn hb s) : HeldR hp hn hb (execSetPowerCap b watts s) := by
  unfold execSetPowerCap
  try dsimp only
  repeat' (first | (with_reducible assumption) | (with_reducible apply limmund_held) | (with_reducible apply reply_held) | (with_reducible apply fset_held) | (with_reducible apply heldR_next) | (with_reducible apply heldR_whenever) | (refine heldR_elim (by assumption) ?_; with_reducible apply limmund_held) | split | (intro _))

theorem execReadLog_held (b : Binding) (first count : Nat) (s : State) (h_s : Held hp hn hb s) : HeldR hp hn hb (execReadLog b first count s) := by
  unfold execReadLog
  try dsimp only
  repeat' (first | (with_reducible assumption) | (with_reducible apply limmund_held) | (with_reducible apply reply_held) | (with_reducible apply heldR_next) | (with_reducible apply heldR_whenever) | (refine heldR_elim (by assumption) ?_; with_reducible apply limmund_held) | split | (intro _))

theorem execRegRead_held (b : Binding) (addr words : Nat) (s : State) (h_s : Held hp hn hb s) : HeldR hp hn hb (execRegRead b addr words s) := by
  unfold execRegRead
  try dsimp only
  repeat' (first | (with_reducible assumption) | (with_reducible apply limmundMain_held) | (with_reducible apply drawn_held) | (with_reducible apply reply_held) | (with_reducible apply heldR_next) | (with_reducible apply heldR_whenever) | (with_reducible apply held_foldl) | (with_reducible apply held_foldl_fst) | (refine heldR_elim (by assumption) ?_; with_reducible apply limmundMain_held) | split | (intro _))

theorem managerWord_held (s : State) (a v : Nat) (h_s : Held hp hn hb s) : Held hp hn hb (managerWord s a v) := by
  unfold managerWord
  try dsimp only
  repeat' (first | (with_reducible assumption) | (with_reducible apply execConfigCommit_held) | (with_reducible apply managerGate_held) | (with_reducible apply fset_held) | (with_reducible apply keepStaged_held) | (with_reducible apply managerWordWrite_held) | (refine heldR_elim (by assumption) ?_; with_reducible apply execConfigCommit_held) | split | (intro _))

theorem execRegWrite_held (b : Binding) (addr : Nat) (value : Word) (s : State) (h_s : Held hp hn hb s) : HeldR hp hn hb (execRegWrite b addr value s) := by
  unfold execRegWrite
  try dsimp only
  repeat' (first | (with_reducible assumption) | (with_reducible apply limmundMain_held) | (with_reducible apply reply_held) | (with_reducible apply managerWord_held) | (with_reducible apply heldR_next) | (with_reducible apply heldR_whenever) | (refine heldR_elim (by assumption) ?_; with_reducible apply limmundMain_held) | split | (intro _))

theorem execHostMailboxSend_held (len : Nat) (s : State) (h_s : Held hp hn hb s) : HeldR hp hn hb (execHostMailboxSend len s) := by
  unfold execHostMailboxSend
  try dsimp only
  repeat' (first | (with_reducible assumption) | (with_reducible apply fset_held) | (with_reducible apply modMgmt_held) | (with_reducible apply heldR_next) | (with_reducible apply heldR_whenever) | (simp only [held_mk]) | split | (intro _))

theorem execMbxFetch_held (b : Binding) (offset : Nat) (s : State) (h_s : Held hp hn hb s) : HeldR hp hn hb (execMbxFetch b offset s) := by
  unfold execMbxFetch
  try dsimp only
  repeat' (first | (with_reducible assumption) | (with_reducible apply limmundMain_held) | (with_reducible apply reply_held) | (with_reducible apply sendVec_held) | (with_reducible apply fset_held) | (with_reducible apply heldR_next) | (with_reducible apply heldR_whenever) | (refine heldR_elim (by assumption) ?_; with_reducible apply limmundMain_held) | split | (intro _))

theorem execMbxSend_held (b : Binding) (message : List Byte) (s : State) (h_s : Held hp hn hb s) : HeldR hp hn hb (execMbxSend b message s) := by
  unfold execMbxSend
  try dsimp only
  repeat' (first | (with_reducible assumption) | (with_reducible apply limmundMain_held) | (with_reducible apply reply_held) | (with_reducible apply fset_held) | (with_reducible apply sendVec_held) | (with_reducible apply setFlag_held) | (with_reducible apply heldR_next) | (with_reducible apply heldR_whenever) | (with_reducible apply held_foldl) | (with_reducible apply held_foldl_fst) | (refine heldR_elim (by assumption) ?_; with_reducible apply limmundMain_held) | split | (intro _))

theorem installKey_held (s : State) (key : List Byte) (h_s : Held hp hn hb s) : Held hp hn hb (installKey s key) := by
  unfold installKey
  try dsimp only
  repeat' (first | (with_reducible assumption) | (with_reducible apply fset_held) | (with_reducible apply held_foldl) | (with_reducible apply held_foldl_fst) | split | (intro _))

theorem execSetImageKey_held (b : Binding) (key : List Byte) (s : State) (h_s : Held hp hn hb s) : HeldR hp hn hb (execSetImageKey b key s) := by
  unfold execSetImageKey
  try dsimp only
  repeat' (first | (with_reducible assumption) | (with_reducible apply limmund_held) | (with_reducible apply reply_held) | (with_reducible apply modMgmt_held) | (with_reducible apply installKey_held) | (with_reducible apply heldR_next) | (with_reducible apply heldR_whenever) | (simp only [held_mk]) | (refine heldR_elim (by assumption) ?_; with_reducible apply limmund_held) | split | (intro _))

theorem execFuseOwner_held (b : Binding) (slot : Nat) (hash signature publicKey : List Byte) (s : State) (h_s : Held hp hn hb s) : HeldR hp hn hb (execFuseOwner b slot hash signature publicKey s) := by
  unfold execFuseOwner
  try dsimp only
  repeat' (first | (with_reducible assumption) | (with_reducible apply limmund_held) | (with_reducible apply reply_held) | (with_reducible apply modMgmt_held) | (with_reducible apply fset_held) | (with_reducible apply heldR_next) | (with_reducible apply heldR_whenever) | (simp only [held_mk]) | (refine heldR_elim (by assumption) ?_; with_reducible apply limmund_held) | split | (intro _))

theorem execRevoke_held (b : Binding) (cls slot : Nat) (signature publicKey : List Byte) (s : State) (h_s : Held hp hn hb s) : HeldR hp hn hb (execRevoke b cls slot signature publicKey s) := by
  unfold execRevoke
  try dsimp only
  repeat' (first | (with_reducible assumption) | (with_reducible apply limmund_held) | (with_reducible apply reply_held) | (with_reducible apply modMgmt_held) | (with_reducible apply fset_held) | (with_reducible apply heldR_next) | (with_reducible apply heldR_whenever) | (simp only [held_mk]) | (refine heldR_elim (by assumption) ?_; with_reducible apply limmund_held) | split | (intro _))

theorem fwRefused_held (s : State) (h_s : Held hp hn hb s) : Held hp hn hb (fwRefused s) := by
  unfold fwRefused
  try dsimp only
  repeat' (first | (with_reducible assumption) | (with_reducible apply event_held) | split | (intro _))

theorem setActive_held (s : State) (comp slot : Nat) (h_s : Held hp hn hb s) : Held hp hn hb (setActive s comp slot) := by
  unfold setActive
  try dsimp only
  repeat' (first | (with_reducible assumption) | (with_reducible apply modMgmt_held) | (simp only [held_mk]) | split | (intro _))

theorem loadSlot_held (s : State) (comp : Nat) (h_s : Held hp hn hb s) : Held hp hn hb (loadSlot s comp).1 := by
  unfold loadSlot
  try dsimp only
  repeat' (first | (with_reducible assumption) | (with_reducible apply fwRefused_held) | split | (intro _))

theorem fwLoaded_held (s : State) (comp slot : Nat) (h_s : Held hp hn hb s) : Held hp hn hb (fwLoaded s comp slot) := by
  unfold fwLoaded
  try dsimp only
  repeat' (first | (with_reducible assumption) | (with_reducible apply fset_held) | (with_reducible apply modMgmt_held) | (simp only [held_mk]) | split | (intro _))

theorem romTry_held (s : State) (slot attempt : Nat) (h_s : Held hp hn hb s) : Held hp hn hb (romTry s slot attempt) := by
  unfold romTry
  try dsimp only
  repeat' (first | (with_reducible assumption) | (with_reducible apply modMgmt_held) | (with_reducible apply fwLoaded_held) | (with_reducible apply fwRefused_held) | (with_reducible apply fset_held) | (simp only [held_mk]) | split | (intro _))

theorem execCommitSvn_held (b : Binding) (component : Nat) (s : State) (h_s : Held hp hn hb s) : HeldR hp hn hb (execCommitSvn b component s) := by
  unfold execCommitSvn
  try dsimp only
  repeat' (first | (with_reducible assumption) | (with_reducible apply limmund_held) | (with_reducible apply reply_held) | (with_reducible apply fset_held) | (with_reducible apply heldR_next) | (with_reducible apply heldR_whenever) | (refine heldR_elim (by assumption) ?_; with_reducible apply limmund_held) | split | (intro _))

theorem execRequestUpdate_held (b : Binding) (s : State) (h_s : Held hp hn hb s) : HeldR hp hn hb (execRequestUpdate b s) := by
  unfold execRequestUpdate
  try dsimp only
  repeat' (first | (with_reducible assumption) | (with_reducible apply emit_held) | (with_reducible apply modMgmt_held) | (with_reducible apply fset_held) | (with_reducible apply heldR_next) | (with_reducible apply heldR_whenever) | (simp only [held_mk]) | split | (intro _))

theorem execComponentWrite_held (component offset : Nat) (data : List Byte) (s : State) (h_s : Held hp hn hb s) : HeldR hp hn hb (execComponentWrite component offset data s) := by
  unfold execComponentWrite
  try dsimp only
  repeat' (first | (with_reducible assumption) | (with_reducible apply modMgmt_held) | (with_reducible apply heldR_next) | (with_reducible apply heldR_whenever) | (with_reducible apply putFlash_held) | (with_reducible apply wf_memWrite) | (with_reducible apply wf_filter) | (simp only [held_mk]) | (simp only [held_mkFlash]) | split | (intro _))

theorem execVerifyComplete_held (component : Nat) (s : State) (h_s : Held hp hn hb s) : HeldR hp hn hb (execVerifyComplete component s) := by
  unfold execVerifyComplete
  try dsimp only
  repeat' (first | (with_reducible assumption) | (with_reducible apply modMgmt_held) | (with_reducible apply fwRefused_held) | (with_reducible apply heldR_next) | (with_reducible apply heldR_whenever) | (simp only [held_mk]) | split | (intro _))

theorem execActivateFirmware_held (s : State) (h_s : Held hp hn hb s) : HeldR hp hn hb (execActivateFirmware s) := by
  unfold execActivateFirmware
  try dsimp only
  repeat' (first | (with_reducible assumption) | (with_reducible apply setActive_held) | (with_reducible apply modMgmt_held) | (with_reducible apply emit_held) | (with_reducible apply fset_held) | (with_reducible apply heldR_next) | (with_reducible apply heldR_whenever) | (with_reducible apply held_foldl) | (with_reducible apply held_foldl_fst) | (simp only [held_mk]) | split | (intro _))

theorem switchOver_held (s : State) (h_s : Held hp hn hb s) : Held hp hn hb (switchOver s) := by
  unfold switchOver
  try dsimp only
  repeat' (first | (with_reducible assumption) | (with_reducible apply romTry_held) | (with_reducible apply fset_held) | (with_reducible apply modMgmt_held) | (with_reducible apply setActive_held) | (simp only [held_mk]) | split | (intro _))

theorem mgmtCycle_held (s : State) (h_s : Held hp hn hb s) : Held hp hn hb (mgmtCycle s) := by
  unfold mgmtCycle
  try dsimp only
  repeat' (first | (with_reducible assumption) | (with_reducible apply switchOver_held) | split | (intro _))

theorem execFirmwareReadyTimeout_held (s : State) (h_s : Held hp hn hb s) : HeldR hp hn hb (execFirmwareReadyTimeout s) := by
  unfold execFirmwareReadyTimeout
  try dsimp only
  repeat' (first | (with_reducible assumption) | (with_reducible apply romTry_held) | (with_reducible apply setActive_held) | (with_reducible apply modMgmt_held) | (with_reducible apply fset_held) | (with_reducible apply heldR_next) | (with_reducible apply heldR_whenever) | (simp only [held_mk]) | split | (intro _))

theorem execSetEndpointId_held (b : Binding) (eid : Nat) (s : State) (h_s : Held hp hn hb s) : HeldR hp hn hb (execSetEndpointId b eid s) := by
  unfold execSetEndpointId
  try dsimp only
  repeat' (first | (with_reducible assumption) | (with_reducible apply emit_held) | (with_reducible apply modMgmt_held) | (with_reducible apply heldR_next) | (with_reducible apply heldR_whenever) | (simp only [held_mk]) | split | (intro _))

theorem execDynamicAddressAssignment_held (addr : Nat) (s : State) (h_s : Held hp hn hb s) : HeldR hp hn hb (execDynamicAddressAssignment addr s) := by
  unfold execDynamicAddressAssignment
  try dsimp only
  repeat' (first | (with_reducible assumption) | (with_reducible apply modMgmt_held) | (with_reducible apply heldR_next) | (with_reducible apply heldR_whenever) | (simp only [held_mk]) | split | (intro _))

theorem execGetCertificate_held (offset len : Nat) (s : State) (h_s : Held hp hn hb s) : HeldR hp hn hb (execGetCertificate offset len s) := by
  unfold execGetCertificate
  try dsimp only
  repeat' (first | (with_reducible assumption) | (with_reducible apply emit_held) | (with_reducible apply heldR_next) | (with_reducible apply heldR_whenever) | split | (intro _))

theorem signed_held (s : State) (body : List Byte) (nonce : List Byte) (h_s : Held hp hn hb s) : Held hp hn hb (signed s body nonce) := by
  unfold signed
  try dsimp only
  repeat' (first | (with_reducible assumption) | (with_reducible apply emit_held) | (with_reducible apply modMgmt_held) | (simp only [held_mk]) | split | (intro _))

theorem execChallenge_held (nonce : List Byte) (s : State) (h_s : Held hp hn hb s) : HeldR hp hn hb (execChallenge nonce s) := by
  unfold execChallenge
  try dsimp only
  repeat' (first | (with_reducible assumption) | (with_reducible apply signed_held) | (with_reducible apply heldR_next) | (with_reducible apply heldR_whenever) | split | (intro _))

theorem execGetMeasurements_held (index : Nat) (nonce : List Byte) (s : State) (h_s : Held hp hn hb s) : HeldR hp hn hb (execGetMeasurements index nonce s) := by
  unfold execGetMeasurements
  try dsimp only
  repeat' (first | (with_reducible assumption) | (with_reducible apply signed_held) | (with_reducible apply heldR_next) | (with_reducible apply heldR_whenever) | split | (intro _))

theorem execDoeRequest_held (object : List Byte) (s : State) (h_s : Held hp hn hb s) : HeldR hp hn hb (execDoeRequest object s) := by
  unfold execDoeRequest
  try dsimp only
  repeat' (first | (with_reducible assumption) | (with_reducible apply emit_held) | (with_reducible apply drawn_held) | (with_reducible apply heldR_next) | (with_reducible apply heldR_whenever) | split | (intro _))

theorem execSensorRead_held (b : Binding) (id : Nat) (reading : Int) (s : State) (h_s : Held hp hn hb s) : HeldR hp hn hb (execSensorRead b id reading s) := by
  unfold execSensorRead
  try dsimp only
  repeat' (first | (with_reducible assumption) | (with_reducible apply emit_held) | (with_reducible apply heldR_next) | (with_reducible apply heldR_whenever) | split | (intro _) | (simp only [id_eq]))

theorem execAvsCurrentRead_held (q amps : Nat) (s : State) (h_s : Held hp hn hb s) : HeldR hp hn hb (execAvsCurrentRead q amps s) := by
  unfold execAvsCurrentRead
  try dsimp only
  repeat' (first | (with_reducible assumption) | (with_reducible apply modPower_held) | (with_reducible apply heldR_next) | (with_reducible apply heldR_whenever) | (simp only [held_mk]) | split | (intro _))

theorem execLimmundBadRequest_held (b : Binding) (command : Nat) (body : List Byte) (s : State) (h_s : Held hp hn hb s) : HeldR hp hn hb (execLimmundBadRequest b command body s) := by
  unfold execLimmundBadRequest
  try dsimp only
  repeat' (first | (with_reducible assumption) | (with_reducible apply limmund_held) | (with_reducible apply reply_held) | (with_reducible apply heldR_next) | (with_reducible apply heldR_whenever) | (refine heldR_elim (by assumption) ?_; with_reducible apply limmund_held) | split | (intro _))

end Sys2Proof.Machine
end

