-- ==== Sys2Proof/Laws/HeldPower.lean ====
section
/-! SUPPORT. What the operations of Machine/Power.lean keep: the queue, the clock and canonical memories. -/

set_option linter.unreachableTactic false
set_option linter.unusedTactic false
set_option linter.unusedVariables false
set_option linter.unusedSimpArgs false

namespace Sys2Proof.Machine

variable {hp : List Instr} {hn : Nat} {hb : Bool}

theorem discardCommands_held (s : State) (h_s : Held hp hn hb s) : Held hp hn hb (discardCommands s) := by
  unfold discardCommands
  try dsimp only
  repeat' (first | (with_reducible assumption) | (with_reducible apply abandonMigrations_held) | (with_reducible apply fset_held) | (with_reducible apply setQpState_held) | (with_reducible apply modQp_held) | (with_reducible apply modHif_held) | (with_reducible apply modSeq_held) | (with_reducible apply held_foldl) | (with_reducible apply held_foldl_fst) | (simp only [held_mk]) | split | (intro _))

theorem execD3hotEntry_held (s : State) (h_s : Held hp hn hb s) : HeldR hp hn hb (execD3hotEntry s) := by
  unfold execD3hotEntry
  try dsimp only
  repeat' (first | (with_reducible assumption) | (with_reducible apply modHif_held) | (with_reducible apply discardCommands_held) | (with_reducible apply stopRun_held) | (with_reducible apply heldR_next) | (with_reducible apply heldR_whenever) | (simp only [held_mk]) | split | (intro _))

theorem execD0Return_held (s : State) (h_s : Held hp hn hb s) : HeldR hp hn hb (execD0Return s) := by
  unfold execD0Return
  try dsimp only
  repeat' (first | (with_reducible assumption) | (with_reducible apply modHif_held) | (with_reducible apply heldR_next) | (with_reducible apply heldR_whenever) | (simp only [held_mk]) | split | (intro _))

theorem execFunctionLevelReset_held (s : State) (h_s : Held hp hn hb s) : HeldR hp hn hb (execFunctionLevelReset s) := by
  unfold execFunctionLevelReset
  try dsimp only
  repeat' (first | (with_reducible assumption) | (with_reducible apply enterFunctionReset_held) | (with_reducible apply heldR_next) | (with_reducible apply heldR_whenever) | split | (intro _))

theorem linkDrop_held (s : State) (h_s : Held hp hn hb s) : Held hp hn hb (linkDrop s) := by
  unfold linkDrop
  try dsimp only
  repeat' (first | (with_reducible assumption) | (with_reducible apply enterFunctionReset_held) | (with_reducible apply modPower_held) | (simp only [held_mk]) | split | (intro _))

theorem execHotReset_held (s : State) (h_s : Held hp hn hb s) : HeldR hp hn hb (execHotReset s) := by
  unfold execHotReset
  try dsimp only
  repeat' (first | (with_reducible assumption) | (with_reducible apply linkDrop_held) | (with_reducible apply heldR_next) | (with_reducible apply heldR_whenever) | split | (intro _))

theorem execDlDown_held (s : State) (h_s : Held hp hn hb s) : HeldR hp hn hb (execDlDown s) := by
  unfold execDlDown
  try dsimp only
  repeat' (first | (with_reducible assumption) | (with_reducible apply linkDrop_held) | (with_reducible apply heldR_next) | (with_reducible apply heldR_whenever) | split | (intro _))

theorem execClockLoss_held (pcie : Bool) (s : State) (h_s : Held hp hn hb s) : HeldR hp hn hb (execClockLoss pcie s) := by
  unfold execClockLoss
  try dsimp only
  repeat' (first | (with_reducible assumption) | (with_reducible apply linkDrop_held) | (with_reducible apply declareFatal_held) | (with_reducible apply heldR_next) | (with_reducible apply heldR_whenever) | split | (intro _))

theorem finishRepairs_held (s : State) (h_s : Held hp hn hb s) : Held hp hn hb (finishRepairs s) := by
  unfold finishRepairs
  try dsimp only
  repeat' (first | (with_reducible assumption) | (with_reducible apply plannedMap_held) | (with_reducible apply modRepair_held) | (with_reducible apply sliceMapped_held) | (with_reducible apply held_foldl) | (with_reducible apply held_foldl_fst) | (simp only [held_mk]) | split | (intro _))

theorem execFunctionResetEnd_held (s : State) (h_s : Held hp hn hb s) : HeldR hp hn hb (execFunctionResetEnd s) := by
  unfold execFunctionResetEnd
  try dsimp only
  repeat' (first | (with_reducible assumption) | (with_reducible apply modPower_held) | (with_reducible apply finishRepairs_held) | (with_reducible apply fset_held) | (with_reducible apply heldR_next) | (with_reducible apply heldR_whenever) | (simp only [held_mk]) | split | (intro _))

theorem execStbyPwrokRise_held (straps : Nat) (s : State) (h_s : Held hp hn hb s) : HeldR hp hn hb (execStbyPwrokRise straps s) := by
  unfold execStbyPwrokRise
  try dsimp only
  repeat' (first | (with_reducible assumption) | (with_reducible apply modPower_held) | (with_reducible apply modMgmt_held) | (with_reducible apply romTry_held) | (with_reducible apply heldR_next) | (with_reducible apply heldR_whenever) | (simp only [held_mk]) | split | (intro _))

theorem execStbyPwrokFall_held (s : State) (h_s : Held hp hn hb s) : HeldR hp hn hb (execStbyPwrokFall s) := by
  unfold execStbyPwrokFall
  try dsimp only
  repeat' (first | (with_reducible assumption) | (with_reducible apply dropRails_held) | (with_reducible apply modMgmt_held) | (with_reducible apply modPower_held) | (with_reducible apply heldR_next) | (with_reducible apply heldR_whenever) | (simp only [held_mk]) | split | (intro _))

theorem execManagementFirmwareReady_held (s : State) (h_s : Held hp hn hb s) : HeldR hp hn hb (execManagementFirmwareReady s) := by
  unfold execManagementFirmwareReady
  try dsimp only
  repeat' (first | (with_reducible assumption) | (with_reducible apply startUp_held) | (with_reducible apply modPower_held) | (with_reducible apply modMgmt_held) | (with_reducible apply fset_held) | (with_reducible apply heldR_next) | (with_reducible apply heldR_whenever) | (simp only [held_mk]) | split | (intro _))

theorem logPower_held (s : State) (kind : Nat) (h_s : Held hp hn hb s) : Held hp hn hb (logPower s kind) := by
  unfold logPower
  try dsimp only
  repeat' (first | (with_reducible assumption) | (with_reducible apply drawn_held) | (with_reducible apply logEvent_held) | split | (intro _))

theorem afterGood_held (s : State) (n : Nat) (h_s : Held hp hn hb s) : Held hp hn hb (afterGood s n) := by
  unfold afterGood
  try dsimp only
  repeat' (first | (with_reducible assumption) | (with_reducible apply startDown_held) | (with_reducible apply modPower_held) | (with_reducible apply hifHold_held) | (with_reducible apply resetMain_held) | (simp only [held_mk]) | split | (intro _))

theorem execPwrGoodRise_held (n : Nat) (s : State) (h_s : Held hp hn hb s) : HeldR hp hn hb (execPwrGoodRise n s) := by
  unfold execPwrGoodRise
  try dsimp only
  repeat' (first | (with_reducible assumption) | (with_reducible apply afterGood_held) | (with_reducible apply modPower_held) | (with_reducible apply heldR_next) | (with_reducible apply heldR_whenever) | (simp only [held_mk]) | split | (intro _))

theorem railsLost_held (s : State) (kind : Nat) (h_s : Held hp hn hb s) : Held hp hn hb (railsLost s kind) := by
  unfold railsLost
  try dsimp only
  repeat' (first | (with_reducible assumption) | (with_reducible apply fset_held) | (with_reducible apply logPower_held) | split | (intro _))

theorem execPwrGoodTimeout_held (n : Nat) (s : State) (h_s : Held hp hn hb s) : HeldR hp hn hb (execPwrGoodTimeout n s) := by
  unfold execPwrGoodTimeout
  try dsimp only
  repeat' (first | (with_reducible assumption) | (with_reducible apply railsLost_held) | (with_reducible apply sequenceOff_held) | (with_reducible apply heldR_next) | (with_reducible apply heldR_whenever) | split | (intro _))

theorem execPwrGoodLoss_held (n : Nat) (s : State) (h_s : Held hp hn hb s) : HeldR hp hn hb (execPwrGoodLoss n s) := by
  unfold execPwrGoodLoss
  try dsimp only
  repeat' (first | (with_reducible assumption) | (with_reducible apply railsLost_held) | (with_reducible apply sequenceOff_held) | (with_reducible apply modPower_held) | (with_reducible apply heldR_next) | (with_reducible apply heldR_whenever) | (simp only [held_mk]) | split | (intro _))

theorem enableNext_held (s : State) (h_s : Held hp hn hb s) : Held hp hn hb (enableNext s) := by
  unfold enableNext
  try dsimp only
  repeat' (first | (with_reducible assumption) | (with_reducible apply startDown_held) | (with_reducible apply modPower_held) | (simp only [held_mk]) | split | (intro _))

theorem dropNext_held (s : State) (h_s : Held hp hn hb s) : Held hp hn hb (dropNext s) := by
  unfold dropNext
  try dsimp only
  repeat' (first | (with_reducible assumption) | (with_reducible apply startUp_held) | (with_reducible apply modPower_held) | (simp only [held_mk]) | split | (intro _))

theorem coreCycle_held (s : State) (h_s : Held hp hn hb s) : Held hp hn hb (coreCycle s) := by
  unfold coreCycle
  try dsimp only
  repeat' (first | (with_reducible assumption) | (with_reducible apply modPower_held) | (with_reducible apply held_foldl) | (with_reducible apply held_foldl_fst) | (simp only [held_mk]) | split | (intro _))

theorem powerCycle_held (s : State) (h_s : Held hp hn hb s) : Held hp hn hb (powerCycle s) := by
  unfold powerCycle
  try dsimp only
  repeat' (first | (with_reducible assumption) | (with_reducible apply coreCycle_held) | (with_reducible apply dropNext_held) | (with_reducible apply enableNext_held) | (with_reducible apply hifHold_held) | split | (intro _))

theorem execPowerDownStep_held (s : State) (h_s : Held hp hn hb s) : HeldR hp hn hb (execPowerDownStep s) := by
  unfold execPowerDownStep
  try dsimp only
  repeat' (first | (with_reducible assumption) | (with_reducible apply modPower_held) | (with_reducible apply startUp_held) | (with_reducible apply heldR_next) | (with_reducible apply heldR_whenever) | (simp only [held_mk]) | split | (intro _))

theorem execThermtrip_held (s : State) (h_s : Held hp hn hb s) : HeldR hp hn hb (execThermtrip s) := by
  unfold execThermtrip
  try dsimp only
  repeat' (first | (with_reducible assumption) | (with_reducible apply railsLost_held) | (with_reducible apply dropRails_held) | (with_reducible apply modPower_held) | (with_reducible apply heldR_next) | (with_reducible apply heldR_whenever) | (simp only [held_mk]) | split | (intro _))

theorem goOffline_held (s : State) (mode : Nat) (h_s : Held hp hn hb s) : Held hp hn hb (goOffline s mode) := by
  unfold goOffline
  try dsimp only
  repeat' (first | (with_reducible assumption) | (with_reducible apply fset_held) | (with_reducible apply stopRun_held) | (with_reducible apply modPower_held) | (with_reducible apply holdMain_held) | (simp only [held_mk]) | split | (intro _))

theorem goOnline_held (s : State) (h_s : Held hp hn hb s) : Held hp hn hb (goOnline s) := by
  unfold goOnline
  try dsimp only
  repeat' (first | (with_reducible assumption) | (with_reducible apply modPower_held) | (with_reducible apply fset_held) | (with_reducible apply startUp_held) | (with_reducible apply hifHold_held) | (simp only [held_mk]) | split | (intro _))

theorem execSetOfflineNone_held (b : Binding) (s : State) (h_s : Held hp hn hb s) : HeldR hp hn hb (execSetOfflineNone b s) := by
  unfold execSetOfflineNone
  try dsimp only
  repeat' (first | (with_reducible assumption) | (with_reducible apply limmund_held) | (with_reducible apply reply_held) | (with_reducible apply goOnline_held) | (with_reducible apply heldR_next) | (with_reducible apply heldR_whenever) | (refine heldR_elim (by assumption) ?_; with_reducible apply limmund_held) | split | (intro _))

theorem execSetOfflineQuiesce_held (b : Binding) (s : State) (h_s : Held hp hn hb s) : HeldR hp hn hb (execSetOfflineQuiesce b s) := by
  unfold execSetOfflineQuiesce
  try dsimp only
  repeat' (first | (with_reducible assumption) | (with_reducible apply limmund_held) | (with_reducible apply reply_held) | (with_reducible apply goOffline_held) | (with_reducible apply heldR_next) | (with_reducible apply heldR_whenever) | (refine heldR_elim (by assumption) ?_; with_reducible apply limmund_held) | split | (intro _))

theorem execSetOfflineReset_held (b : Binding) (s : State) (h_s : Held hp hn hb s) : HeldR hp hn hb (execSetOfflineReset b s) := by
  unfold execSetOfflineReset
  try dsimp only
  repeat' (first | (with_reducible assumption) | (with_reducible apply limmund_held) | (with_reducible apply reply_held) | (with_reducible apply goOffline_held) | (with_reducible apply heldR_next) | (with_reducible apply heldR_whenever) | (refine heldR_elim (by assumption) ?_; with_reducible apply limmund_held) | split | (intro _))

theorem execSetOfflinePowerOff_held (b : Binding) (s : State) (h_s : Held hp hn hb s) : HeldR hp hn hb (execSetOfflinePowerOff b s) := by
  unfold execSetOfflinePowerOff
  try dsimp only
  repeat' (first | (with_reducible assumption) | (with_reducible apply limmund_held) | (with_reducible apply reply_held) | (with_reducible apply goOffline_held) | (with_reducible apply heldR_next) | (with_reducible apply heldR_whenever) | (refine heldR_elim (by assumption) ?_; with_reducible apply limmund_held) | split | (intro _))

theorem execPerstNFall_held (s : State) (h_s : Held hp hn hb s) : HeldR hp hn hb (execPerstNFall s) := by
  unfold execPerstNFall
  try dsimp only
  repeat' (first | (with_reducible assumption) | (with_reducible apply modPower_held) | (with_reducible apply enterMainReset_held) | (with_reducible apply hifHold_held) | (with_reducible apply heldR_next) | (with_reducible apply heldR_whenever) | (simp only [held_mk]) | split | (intro _))

theorem execPerstNRise_held (s : State) (h_s : Held hp hn hb s) : HeldR hp hn hb (execPerstNRise s) := by
  unfold execPerstNRise
  try dsimp only
  repeat' (first | (with_reducible assumption) | (with_reducible apply hifHold_held) | (with_reducible apply modPower_held) | (with_reducible apply heldR_next) | (with_reducible apply heldR_whenever) | (simp only [held_mk]) | split | (intro _))

theorem execMainFirmwareLoaded_held (s : State) (h_s : Held hp hn hb s) : HeldR hp hn hb (execMainFirmwareLoaded s) := by
  unfold execMainFirmwareLoaded
  try dsimp only
  repeat' (first | (with_reducible assumption) | (with_reducible apply loadSlot_held) | (with_reducible apply modPower_held) | (with_reducible apply fwLoaded_held) | (with_reducible apply installKey_held) | (with_reducible apply heldR_next) | (with_reducible apply heldR_whenever) | (simp only [held_mk]) | (refine held_pair (by assumption) ?_; with_reducible apply loadSlot_held) | split | (intro _))

theorem failedAtStart_held (s : State) (pf : Nat) (h_s : Held hp hn hb s) : Held hp hn hb (failedAtStart s pf) := by
  unfold failedAtStart
  try dsimp only
  repeat' (first | (with_reducible assumption) | (with_reducible apply retireFacet_held) | (with_reducible apply bump_held) | (with_reducible apply fset_held) | (with_reducible apply unmapFacet_held) | split | (intro _))

theorem execStartUpSelfTestEnd_held (runs : List (Nat × KatRun)) (s : State) (h_s : Held hp hn hb s) : HeldR hp hn hb (execStartUpSelfTestEnd runs s) := by
  unfold execStartUpSelfTestEnd
  try dsimp only
  repeat' (first | (with_reducible assumption) | (with_reducible apply katResult_held) | (with_reducible apply failedAtStart_held) | (with_reducible apply modPower_held) | (with_reducible apply finishRepairs_held) | (with_reducible apply fset_held) | (with_reducible apply heldR_next) | (with_reducible apply heldR_whenever) | (with_reducible apply held_foldl) | (with_reducible apply held_foldl_fst) | (simp only [held_mk]) | split | (intro _))

theorem fitHost_held (s : State) (l ctle width height : Nat) (h_s : Held hp hn hb s) : Held hp hn hb (fitHost s l ctle width height) := by
  unfold fitHost
  try dsimp only
  repeat' (first | (with_reducible assumption) | (with_reducible apply fset_held) | (with_reducible apply setFlag_held) | split | (intro _))

theorem fitChord_held (s : State) (i ctle width height : Nat) (h_s : Held hp hn hb s) : Held hp hn hb (fitChord s i ctle width height) := by
  unfold fitChord
  try dsimp only
  repeat' (first | (with_reducible assumption) | (with_reducible apply fset_held) | (with_reducible apply modRepair_held) | (with_reducible apply laneExhausted_held) | (with_reducible apply loseLane_held) | (simp only [held_mk]) | split | (intro _))

theorem execProtractorWindow_held (host : Bool) (lane transitions : Nat) (singular : Bool) (ctle width height : Nat) (s : State) (h_s : Held hp hn hb s) : HeldR hp hn hb (execProtractorWindow host lane transitions singular ctle width height s) := by
  unfold execProtractorWindow
  try dsimp only
  repeat' (first | (with_reducible assumption) | (with_reducible apply bump_held) | (with_reducible apply fitHost_held) | (with_reducible apply fitChord_held) | (with_reducible apply heldR_next) | (with_reducible apply heldR_whenever) | split | (intro _))

end Sys2Proof.Machine
end

