-- ==== Sys2Proof/Laws/HeldClock.lean ====
section
/-! SUPPORT. What the operations of Machine/Clock.lean keep: the queue, the clock and canonical memories. -/

set_option linter.unreachableTactic false
set_option linter.unusedTactic false
set_option linter.unusedVariables false
set_option linter.unusedSimpArgs false

namespace Sys2Proof.Machine

variable {hp : List Instr} {hn : Nat} {hb : Bool}

theorem latCycle_held (s : State) (w : Who) (a : LatAct) (h_s : Held hp hn hb s) : Held hp hn hb (latCycle s w a) := by
  unfold latCycle
  try dsimp only
  repeat' (first | (with_reducible assumption) | (with_reducible apply injectRow_held) | (with_reducible apply bump_held) | (with_reducible apply modLat_held) | (simp only [held_mk]) | split | (intro _))

theorem countIf_held (s : State) (p : Bool) (f : Field) (h_s : Held hp hn hb s) : Held hp hn hb (countIf s p f) := by
  unfold countIf
  try dsimp only
  repeat' (first | (with_reducible assumption) | (with_reducible apply bump_held) | split | (intro _))

theorem latticeCycle_held (s : State) (lf : Nat) (h_s : Held hp hn hb s) : Held hp hn hb (latticeCycle s lf) := by
  unfold latticeCycle
  try dsimp only
  repeat' (first | (with_reducible assumption) | (with_reducible apply latCycle_held) | (with_reducible apply countIf_held) | split | (intro _))

theorem latticesCycle_held (s : State) (h_s : Held hp hn hb s) : Held hp hn hb (latticesCycle s) := by
  unfold latticesCycle
  try dsimp only
  repeat' (first | (with_reducible assumption) | (with_reducible apply latticeCycle_held) | (with_reducible apply held_foldl) | (with_reducible apply held_foldl_fst) | split | (intro _))

theorem holdQuad_held (s : State) (q : Nat) (h_s : Held hp hn hb s) : Held hp hn hb (holdQuad s q) := by
  unfold holdQuad
  try dsimp only
  repeat' (first | (with_reducible assumption) | (simp only [held_mk]) | split | (intro _))

theorem throttleCycle_held (s : State) (h_s : Held hp hn hb s) : Held hp hn hb (throttleCycle s) := by
  unfold throttleCycle
  try dsimp only
  repeat' (first | (with_reducible assumption) | (with_reducible apply holdQuad_held) | (with_reducible apply countThrottle_held) | (with_reducible apply modRepair_held) | (with_reducible apply held_foldl) | (with_reducible apply held_foldl_fst) | (simp only [held_mk]) | split | (intro _))

theorem conflictCycle_held (s : State) (h_s : Held hp hn hb s) : Held hp hn hb (conflictCycle s) := by
  unfold conflictCycle
  try dsimp only
  repeat' (first | (with_reducible assumption) | (with_reducible apply drawn_held) | (with_reducible apply countIf_held) | (with_reducible apply held_foldl) | (with_reducible apply held_foldl_fst) | split | (intro _))

theorem migratingCycle_held (s : State) (h_s : Held hp hn hb s) : Held hp hn hb (migratingCycle s) := by
  unfold migratingCycle
  try dsimp only
  repeat' (first | (with_reducible assumption) | (with_reducible apply countIf_held) | split | (intro _))

theorem creditCycle_held (s : State) (h_s : Held hp hn hb s) : Held hp hn hb (creditCycle s) := by
  unfold creditCycle
  try dsimp only
  repeat' (first | (with_reducible assumption) | (with_reducible apply countIf_held) | (with_reducible apply held_foldl) | (with_reducible apply held_foldl_fst) | split | (intro _))

theorem updatesCycle_held (s : State) (h_s : Held hp hn hb s) : Held hp hn hb (updatesCycle s) := by
  unfold updatesCycle
  try dsimp only
  repeat' (first | (with_reducible assumption) | (with_reducible apply countIf_held) | (with_reducible apply held_foldl) | (with_reducible apply held_foldl_fst) | split | (intro _))

theorem held_later (s : State) (h : Held hp hn hb s) : Held hp (hn + 1) hb { s with now := hn + 1 } :=
  ⟨h.1, rfl, fun e => (canonical_iff _).mpr ((canonical_iff s).mp (h.2.2 e))⟩

theorem clockCycle_held (s : State) (h : Held hp hn hb s) : Held hp (hn + 1) hb (clockCycle s) := by
  unfold clockCycle
  rw [h.2.1]
  exact expressCycle_held _ (powerCycle_held _ (mgmtCycle_held _ (held_later _ (creditCycle_held _ (migratingCycle_held _ (conflictCycle_held _
    (wakeCopies_held _ (throttleCycle_held _ (updatesCycle_held _ (predictorCycle_held _ (mergeCycle_held _ (latticesCycle_held _ h))))))))))))

end Sys2Proof.Machine
end

