-- ==== Sys2Proof/Laws/HeldEngine.lean ====
section
/-! SUPPORT. What the operations of Machine/Engine.lean keep: the queue, the clock and canonical memories. -/

set_option linter.unreachableTactic false
set_option linter.unusedTactic false
set_option linter.unusedVariables false
set_option linter.unusedSimpArgs false

namespace Sys2Proof.Machine

variable {hp : List Instr} {hn : Nat} {hb : Bool}

theorem execTdmk_held (w : Who) (d a : Reg) (handle off : Nat) (fromSts : Bool) (after : Nat) (s : State) (h_s : Held hp hn hb s) : HeldR hp hn hb (execTdmk w d a handle off fromSts after s) := by
  unfold execTdmk
  try dsimp only
  repeat' (first | (with_reducible assumption) | (with_reducible apply engine_held) | (with_reducible apply heldR_next) | (with_reducible apply heldR_whenever) | (refine heldR_elim (by assumption) ?_; with_reducible apply engine_held) | split | (intro _))

theorem execTdrl_held (w : Who) (handle after : Nat) (s : State) (h_s : Held hp hn hb s) : HeldR hp hn hb (execTdrl w handle after s) := by
  unfold execTdrl
  try dsimp only
  repeat' (first | (with_reducible assumption) | (with_reducible apply engine_held) | (with_reducible apply heldR_next) | (with_reducible apply heldR_whenever) | (refine heldR_elim (by assumption) ?_; with_reducible apply engine_held) | split | (intro _))

theorem execStrm_held (w : Who) (o : StrmArgs) (after : Nat) (s : State) (h_s : Held hp hn hb s) : HeldR hp hn hb (execStrm w o after s) := by
  unfold execStrm
  try dsimp only
  repeat' (first | (with_reducible assumption) | (with_reducible apply engine_held) | (with_reducible apply heldR_next) | (with_reducible apply heldR_whenever) | (refine heldR_elim (by assumption) ?_; with_reducible apply engine_held) | split | (intro _))

theorem execStq_held (w : Who) (d : Reg) (handle : Nat) (wait qeng walk : Bool) (after : Nat) (s : State) (h_s : Held hp hn hb s) : HeldR hp hn hb (execStq w d handle wait qeng walk after s) := by
  unfold execStq
  try dsimp only
  repeat' (first | (with_reducible assumption) | (with_reducible apply engine_held) | (with_reducible apply heldR_next) | (with_reducible apply heldR_whenever) | (refine heldR_elim (by assumption) ?_; with_reducible apply engine_held) | split | (intro _))

theorem execLload_held (w : Who) (n kp fmt : Nat) (hi : Bool) (after : Nat) (s : State) (h_s : Held hp hn hb s) : HeldR hp hn hb (execLload w n kp fmt hi after s) := by
  unfold execLload
  try dsimp only
  repeat' (first | (with_reducible assumption) | (with_reducible apply engine_held) | (with_reducible apply heldR_next) | (with_reducible apply heldR_whenever) | (refine heldR_elim (by assumption) ?_; with_reducible apply engine_held) | split | (intro _))

theorem execLpass_held (w : Who) (a b : Reg) (accum : Bool) (afmt np after : Nat) (s : State) (h_s : Held hp hn hb s) : HeldR hp hn hb (execLpass w a b accum afmt np after s) := by
  unfold execLpass
  try dsimp only
  repeat' (first | (with_reducible assumption) | (with_reducible apply engine_held) | (with_reducible apply heldR_next) | (with_reducible apply heldR_whenever) | (refine heldR_elim (by assumption) ?_; with_reducible apply engine_held) | split | (intro _))

theorem execLsplit_held (w : Who) (after : Nat) (s : State) (h_s : Held hp hn hb s) : HeldR hp hn hb (execLsplit w after s) := by
  unfold execLsplit
  try dsimp only
  repeat' (first | (with_reducible assumption) | (with_reducible apply engine_held) | (with_reducible apply heldR_next) | (with_reducible apply heldR_whenever) | (refine heldR_elim (by assumption) ?_; with_reducible apply engine_held) | split | (intro _))

theorem execLdrainDrain_held (w : Who) (d a b : Reg) (rows conv after : Nat) (s : State) (h_s : Held hp hn hb s) : HeldR hp hn hb (execLdrainDrain w d a b rows conv after s) := by
  unfold execLdrainDrain
  try dsimp only
  repeat' (first | (with_reducible assumption) | (with_reducible apply engine_held) | (with_reducible apply heldR_next) | (with_reducible apply heldR_whenever) | (refine heldR_elim (by assumption) ?_; with_reducible apply engine_held) | split | (intro _))

theorem execLdrainFill_held (w : Who) (a b : Reg) (rows conv after : Nat) (s : State) (h_s : Held hp hn hb s) : HeldR hp hn hb (execLdrainFill w a b rows conv after s) := by
  unfold execLdrainFill
  try dsimp only
  repeat' (first | (with_reducible assumption) | (with_reducible apply engine_held) | (with_reducible apply heldR_next) | (with_reducible apply heldR_whenever) | (refine heldR_elim (by assumption) ?_; with_reducible apply engine_held) | split | (intro _))

theorem execCmode_held (w : Who) (gmax after : Nat) (s : State) (h_s : Held hp hn hb s) : HeldR hp hn hb (execCmode w gmax after s) := by
  unfold execCmode
  try dsimp only
  repeat' (first | (with_reducible assumption) | (with_reducible apply engine_held) | (with_reducible apply heldR_next) | (with_reducible apply heldR_whenever) | (refine heldR_elim (by assumption) ?_; with_reducible apply engine_held) | split | (intro _))

theorem vectorOp_held (w : Who) (op : VOp) (v : VecArgs) (legal : Bool) (s : State) (h_s : Held hp hn hb s) : HeldR hp hn hb (vectorOp w op v legal s) := by
  unfold vectorOp
  try dsimp only
  repeat' (first | (with_reducible assumption) | (with_reducible apply engine_held) | (with_reducible apply heldR_next) | (with_reducible apply heldR_whenever) | (refine heldR_elim (by assumption) ?_; with_reducible apply engine_held) | split | (intro _))

theorem execVadd_held (w : Who) (v : VecArgs) (s : State) (h_s : Held hp hn hb s) : HeldR hp hn hb (execVadd w v s) := by
  unfold execVadd
  try dsimp only
  repeat' (first | (with_reducible assumption) | (with_reducible apply vectorOp_held) | (with_reducible apply heldR_next) | (with_reducible apply heldR_whenever) | (refine heldR_elim (by assumption) ?_; with_reducible apply vectorOp_held) | split | (intro _))

theorem execVmax_held (w : Who) (v : VecArgs) (s : State) (h_s : Held hp hn hb s) : HeldR hp hn hb (execVmax w v s) := by
  unfold execVmax
  try dsimp only
  repeat' (first | (with_reducible assumption) | (with_reducible apply vectorOp_held) | (with_reducible apply heldR_next) | (with_reducible apply heldR_whenever) | (refine heldR_elim (by assumption) ?_; with_reducible apply vectorOp_held) | split | (intro _))

theorem execVfma_held (w : Who) (v : VecArgs) (s : State) (h_s : Held hp hn hb s) : HeldR hp hn hb (execVfma w v s) := by
  unfold execVfma
  try dsimp only
  repeat' (first | (with_reducible assumption) | (with_reducible apply vectorOp_held) | (with_reducible apply heldR_next) | (with_reducible apply heldR_whenever) | (refine heldR_elim (by assumption) ?_; with_reducible apply vectorOp_held) | split | (intro _))

theorem execVexp_held (w : Who) (v : VecArgs) (s : State) (h_s : Held hp hn hb s) : HeldR hp hn hb (execVexp w v s) := by
  unfold execVexp
  try dsimp only
  repeat' (first | (with_reducible assumption) | (with_reducible apply vectorOp_held) | (with_reducible apply heldR_next) | (with_reducible apply heldR_whenever) | (refine heldR_elim (by assumption) ?_; with_reducible apply vectorOp_held) | split | (intro _))

theorem execVrsq_held (w : Who) (v : VecArgs) (s : State) (h_s : Held hp hn hb s) : HeldR hp hn hb (execVrsq w v s) := by
  unfold execVrsq
  try dsimp only
  repeat' (first | (with_reducible assumption) | (with_reducible apply vectorOp_held) | (with_reducible apply heldR_next) | (with_reducible apply heldR_whenever) | (refine heldR_elim (by assumption) ?_; with_reducible apply vectorOp_held) | split | (intro _))

theorem execVsig_held (w : Who) (v : VecArgs) (s : State) (h_s : Held hp hn hb s) : HeldR hp hn hb (execVsig w v s) := by
  unfold execVsig
  try dsimp only
  repeat' (first | (with_reducible assumption) | (with_reducible apply vectorOp_held) | (with_reducible apply heldR_next) | (with_reducible apply heldR_whenever) | (refine heldR_elim (by assumption) ?_; with_reducible apply vectorOp_held) | split | (intro _))

theorem execVred_held (w : Who) (v : VecArgs) (s : State) (h_s : Held hp hn hb s) : HeldR hp hn hb (execVred w v s) := by
  unfold execVred
  try dsimp only
  repeat' (first | (with_reducible assumption) | (with_reducible apply vectorOp_held) | (with_reducible apply heldR_next) | (with_reducible apply heldR_whenever) | (refine heldR_elim (by assumption) ?_; with_reducible apply vectorOp_held) | split | (intro _))

theorem execVcvt_held (w : Who) (v : VecArgs) (s : State) (h_s : Held hp hn hb s) : HeldR hp hn hb (execVcvt w v s) := by
  unfold execVcvt
  try dsimp only
  repeat' (first | (with_reducible assumption) | (with_reducible apply vectorOp_held) | (with_reducible apply heldR_next) | (with_reducible apply heldR_whenever) | (refine heldR_elim (by assumption) ?_; with_reducible apply vectorOp_held) | split | (intro _))

theorem execMgpush_held (w : Who) (a b : Reg) (job after : Nat) (s : State) (h_s : Held hp hn hb s) : HeldR hp hn hb (execMgpush w a b job after s) := by
  unfold execMgpush
  try dsimp only
  repeat' (first | (with_reducible assumption) | (with_reducible apply engine_held) | (with_reducible apply heldR_next) | (with_reducible apply heldR_whenever) | (refine heldR_elim (by assumption) ?_; with_reducible apply engine_held) | split | (intro _))

theorem execMgpushEnd_held (w : Who) (a b : Reg) (job after : Nat) (s : State) (h_s : Held hp hn hb s) : HeldR hp hn hb (execMgpushEnd w a b job after s) := by
  unfold execMgpushEnd
  try dsimp only
  repeat' (first | (with_reducible assumption) | (with_reducible apply engine_held) | (with_reducible apply heldR_next) | (with_reducible apply heldR_whenever) | (refine heldR_elim (by assumption) ?_; with_reducible apply engine_held) | split | (intro _))

theorem execMgdrainOpen_held (w : Who) (a : Reg) (after : Nat) (s : State) (h_s : Held hp hn hb s) : HeldR hp hn hb (execMgdrainOpen w a after s) := by
  unfold execMgdrainOpen
  try dsimp only
  repeat' (first | (with_reducible assumption) | (with_reducible apply engine_held) | (with_reducible apply heldR_next) | (with_reducible apply heldR_whenever) | (refine heldR_elim (by assumption) ?_; with_reducible apply engine_held) | split | (intro _))

theorem execMgdrainWait_held (w : Who) (d b : Reg) (job after : Nat) (s : State) (h_s : Held hp hn hb s) : HeldR hp hn hb (execMgdrainWait w d b job after s) := by
  unfold execMgdrainWait
  try dsimp only
  repeat' (first | (with_reducible assumption) | (with_reducible apply engine_held) | (with_reducible apply heldR_next) | (with_reducible apply heldR_whenever) | (refine heldR_elim (by assumption) ?_; with_reducible apply engine_held) | split | (intro _))

theorem execPdqQuery_held (w : Who) (d a : Reg) (after : Nat) (s : State) (h_s : Held hp hn hb s) : HeldR hp hn hb (execPdqQuery w d a after s) := by
  unfold execPdqQuery
  try dsimp only
  repeat' (first | (with_reducible assumption) | (with_reducible apply engine_held) | (with_reducible apply heldR_next) | (with_reducible apply heldR_whenever) | (refine heldR_elim (by assumption) ?_; with_reducible apply engine_held) | split | (intro _))

theorem execPdqPrefetch_held (w : Who) (a : Reg) (after : Nat) (s : State) (h_s : Held hp hn hb s) : HeldR hp hn hb (execPdqPrefetch w a after s) := by
  unfold execPdqPrefetch
  try dsimp only
  repeat' (first | (with_reducible assumption) | (with_reducible apply engine_held) | (with_reducible apply heldR_next) | (with_reducible apply heldR_whenever) | (refine heldR_elim (by assumption) ?_; with_reducible apply engine_held) | split | (intro _))

theorem execUpsign_held (w : Who) (a : Reg) (after : Nat) (s : State) (h_s : Held hp hn hb s) : HeldR hp hn hb (execUpsign w a after s) := by
  unfold execUpsign
  try dsimp only
  repeat' (first | (with_reducible assumption) | (with_reducible apply engine_held) | (with_reducible apply heldR_next) | (with_reducible apply heldR_whenever) | (refine heldR_elim (by assumption) ?_; with_reducible apply engine_held) | split | (intro _))

theorem execUpvote_held (w : Who) (a : Reg) (after : Nat) (s : State) (h_s : Held hp hn hb s) : HeldR hp hn hb (execUpvote w a after s) := by
  unfold execUpvote
  try dsimp only
  repeat' (first | (with_reducible assumption) | (with_reducible apply engine_held) | (with_reducible apply heldR_next) | (with_reducible apply heldR_whenever) | (refine heldR_elim (by assumption) ?_; with_reducible apply engine_held) | split | (intro _))

theorem readyAt_held (s : State) (w : Who) (seq at_ : Nat) (h_s : Held hp hn hb s) : Held hp hn hb (readyAt s w seq at_) := by
  unfold readyAt
  try dsimp only
  repeat' (first | (with_reducible assumption) | (with_reducible apply modCmd_held) | (simp only [held_mk]) | split | (intro _))

theorem readyWith_held (at_ seq : Nat) (w : Who) (r : State × List Byte) (h : Held hp hn hb r.1) : Held hp hn hb (readyWith at_ seq w r) :=
  modCmd_held _ _ _ _ h

theorem startWait_held (s : State) (w : Who) (c : ECmd) (job : Nat) (h_s : Held hp hn hb s) : HeldO hp hn hb (startWait s w c job) := by
  unfold startWait
  try dsimp only
  repeat' (first | (with_reducible assumption) | (with_reducible apply readyAt_held) | (with_reducible apply heldO_some) | (with_reducible apply heldO_none) | split | (intro _))

theorem startPrefetch_held (s : State) (w : Who) (c : ECmd) (addr : Word) (h_s : Held hp hn hb s) : HeldO hp hn hb (startPrefetch s w c addr) := by
  unfold startPrefetch
  try dsimp only
  repeat' (first | (with_reducible assumption) | (with_reducible apply readyAt_held) | (with_reducible apply acceptPrefetch_held) | (with_reducible apply heldO_some) | (with_reducible apply heldO_none) | split | (intro _))

theorem startOp_held (s : State) (w : Who) (c : ECmd) (h_s : Held hp hn hb s) : HeldO hp hn hb (startOp s w c) := by
  unfold startOp
  try dsimp only
  repeat' (first | (with_reducible assumption) | (with_reducible apply startTdmk_held) | (with_reducible apply readyWith_held) | (with_reducible apply readyAt_held) | (with_reducible apply startLload_held) | (with_reducible apply startLpass_held) | (with_reducible apply startLsplit_held) | (with_reducible apply startCmode_held) | (with_reducible apply startDrain_held) | (with_reducible apply startFill_held) | (with_reducible apply startVec_held) | (with_reducible apply startPush_held) | (with_reducible apply startOpen_held) | (with_reducible apply startWait_held) | (with_reducible apply startQuery_held) | (with_reducible apply joinPredictor_held) | (with_reducible apply startPrefetch_held) | (with_reducible apply startUpdate_held) | (with_reducible apply joinUpdate_held) | (with_reducible apply heldO_some) | (with_reducible apply heldO_none) | (with_reducible apply heldO_map) | (with_reducible apply heldP_map) | (refine heldP_elim (by assumption) ?_; with_reducible apply startTdmk_held) | (refine heldP_elim' (by assumption) ?_; with_reducible apply startTdmk_held) | (refine heldO_elim (by assumption) (startLload_held ..) <;> assumption) | (refine heldO_elim (by assumption) ?_; with_reducible apply startLload_held) | (refine heldO_elim (by assumption) (startLpass_held ..) <;> assumption) | (refine heldO_elim (by assumption) ?_; with_reducible apply startLpass_held) | (refine heldO_elim (by assumption) (startLsplit_held ..) <;> assumption) | (refine heldO_elim (by assumption) ?_; with_reducible apply startLsplit_held) | (refine heldO_elim (by assumption) (startCmode_held ..) <;> assumption) | (refine heldO_elim (by assumption) ?_; with_reducible apply startCmode_held) | (refine heldP_elim (by assumption) ?_; with_reducible apply startDrain_held) | (refine heldP_elim' (by assumption) ?_; with_reducible apply startDrain_held) | (refine heldP_elim (by assumption) ?_; with_reducible apply startFill_held) | (refine heldP_elim' (by assumption) ?_; with_reducible apply startFill_held) | (refine heldP_elim (by assumption) ?_; with_reducible apply startVec_held) | (refine heldP_elim' (by assumption) ?_; with_reducible apply startVec_held) | (refine heldO_elim (by assumption) (startPush_held ..) <;> assumption) | (refine heldO_elim (by assumption) ?_; with_reducible apply startPush_held) | (refine heldP_elim (by assumption) ?_; with_reducible apply startOpen_held) | (refine heldP_elim' (by assumption) ?_; with_reducible apply startOpen_held) | (refine heldO_elim (by assumption) (startWait_held ..) <;> assumption) | (refine heldO_elim (by assumption) ?_; with_reducible apply startWait_held) | (refine heldP_elim (by assumption) ?_; with_reducible apply startQuery_held) | (refine heldP_elim' (by assumption) ?_; with_reducible apply startQuery_held) | (refine heldO_elim (by assumption) (startPrefetch_held ..) <;> assumption) | (refine heldO_elim (by assumption) ?_; with_reducible apply startPrefetch_held) | (refine heldP_elim (by assumption) ?_; with_reducible apply startUpdate_held) | (refine heldP_elim' (by assumption) ?_; with_reducible apply startUpdate_held) | split | (intro _))

theorem unitsGoOn_held (s : State) (w : Who) (h_s : Held hp hn hb s) : Held hp hn hb (unitsGoOn s w) := by
  unfold unitsGoOn
  try dsimp only
  repeat' (first | (with_reducible assumption) | (with_reducible apply updateNext_held) | split | (intro _))

theorem execEngineCommandStart_held (w : Who) (q : EQueue) (s : State) (h_s : Held hp hn hb s) : HeldR hp hn hb (execEngineCommandStart w q s) := by
  unfold execEngineCommandStart
  try dsimp only
  repeat' (first | (with_reducible assumption) | (with_reducible apply unitsGoOn_held) | (with_reducible apply modCmd_held) | (with_reducible apply startOp_held) | (with_reducible apply abortTask_held) | (with_reducible apply heldR_next) | (with_reducible apply heldR_whenever) | (simp only [held_mk]) | (refine heldO_elim (by assumption) (startOp_held ..) <;> assumption) | (refine heldO_elim (by assumption) ?_; with_reducible apply startOp_held) | split | (intro _))

theorem countRows_held (s : State) (w : Who) (rows : Nat) (h_s : Held hp hn hb s) : Held hp hn hb (countRows s w rows) := by
  unfold countRows
  try dsimp only
  repeat' (first | (with_reducible assumption) | (with_reducible apply bump_held) | split | (intro _))

theorem finishOp_held (s : State) (w : Who) (c : ECmd) (h_s : Held hp hn hb s) : Held hp hn hb (finishOp s w c).1 := by
  unfold finishOp
  try dsimp only
  repeat' (first | (with_reducible assumption) | (with_reducible apply finishTdmk_held) | (with_reducible apply finishTdrl_held) | (with_reducible apply finishStrm_held) | (with_reducible apply taskWriteOrAbort_held) | (with_reducible apply countRows_held) | (with_reducible apply accPut_held) | (with_reducible apply finishOpen_held) | (with_reducible apply freeJob_held) | (with_reducible apply finishUpdate_held) | (refine held_pair (by assumption) ?_; with_reducible apply finishTdmk_held) | split | (intro _))

theorem putResults_held (s : State) (w : Who) (c : ECmd) (x y : Word) (h_s : Held hp hn hb s) : Held hp hn hb (putResults s w c x y) := by
  unfold putResults
  try dsimp only
  repeat' (first | (with_reducible assumption) | (with_reducible apply rput_held) | (with_reducible apply drawn_held) | split | (intro _))

theorem execEngineCommandComplete_held (w : Who) (q : EQueue) (s0 : State) (h_s0 : Held hp hn hb s0) : HeldR hp hn hb (execEngineCommandComplete w q s0) := by
  unfold execEngineCommandComplete
  try dsimp only
  repeat' (first | (with_reducible assumption) | (with_reducible apply unitsGoOn_held) | (with_reducible apply modCtx_held) | (with_reducible apply finishOp_held) | (with_reducible apply settleFlights_held) | (with_reducible apply putResults_held) | (with_reducible apply heldR_next) | (with_reducible apply heldR_whenever) | (simp only [held_mk]) | (refine held_pair (by assumption) ?_; with_reducible apply finishOp_held) | split | (intro _))

end Sys2Proof.Machine
end

