-- ==== Sys2Proof/Laws/HeldScalar.lean ====
section
/-! SUPPORT. What the operations of Machine/Scalar.lean keep: the queue, the clock and canonical memories. -/

set_option linter.unreachableTactic false
set_option linter.unusedTactic false
set_option linter.unusedVariables false
set_option linter.unusedSimpArgs false

namespace Sys2Proof.Machine

variable {hp : List Instr} {hn : Nat} {hb : Bool}

theorem execAdd_held (w : Who) (o : AluArgs) (s : State) (h_s : Held hp hn hb s) : HeldR hp hn hb (execAdd w o s) := by
  unfold execAdd
  try dsimp only
  repeat' (first | (with_reducible assumption) | (with_reducible apply alu_held) | (with_reducible apply heldR_next) | (with_reducible apply heldR_whenever) | (refine heldR_elim (by assumption) ?_; with_reducible apply alu_held) | split | (intro _))

theorem execSub_held (w : Who) (o : AluArgs) (s : State) (h_s : Held hp hn hb s) : HeldR hp hn hb (execSub w o s) := by
  unfold execSub
  try dsimp only
  repeat' (first | (with_reducible assumption) | (with_reducible apply alu_held) | (with_reducible apply heldR_next) | (with_reducible apply heldR_whenever) | (refine heldR_elim (by assumption) ?_; with_reducible apply alu_held) | split | (intro _))

theorem execAndI_held (w : Who) (o : AluArgs) (s : State) (h_s : Held hp hn hb s) : HeldR hp hn hb (execAndI w o s) := by
  unfold execAndI
  try dsimp only
  repeat' (first | (with_reducible assumption) | (with_reducible apply alu_held) | (with_reducible apply heldR_next) | (with_reducible apply heldR_whenever) | (refine heldR_elim (by assumption) ?_; with_reducible apply alu_held) | split | (intro _))

theorem execOrI_held (w : Who) (o : AluArgs) (s : State) (h_s : Held hp hn hb s) : HeldR hp hn hb (execOrI w o s) := by
  unfold execOrI
  try dsimp only
  repeat' (first | (with_reducible assumption) | (with_reducible apply alu_held) | (with_reducible apply heldR_next) | (with_reducible apply heldR_whenever) | (refine heldR_elim (by assumption) ?_; with_reducible apply alu_held) | split | (intro _))

theorem execXorI_held (w : Who) (o : AluArgs) (s : State) (h_s : Held hp hn hb s) : HeldR hp hn hb (execXorI w o s) := by
  unfold execXorI
  try dsimp only
  repeat' (first | (with_reducible assumption) | (with_reducible apply alu_held) | (with_reducible apply heldR_next) | (with_reducible apply heldR_whenever) | (refine heldR_elim (by assumption) ?_; with_reducible apply alu_held) | split | (intro _))

theorem execSll_held (w : Who) (o : AluArgs) (s : State) (h_s : Held hp hn hb s) : HeldR hp hn hb (execSll w o s) := by
  unfold execSll
  try dsimp only
  repeat' (first | (with_reducible assumption) | (with_reducible apply alu_held) | (with_reducible apply heldR_next) | (with_reducible apply heldR_whenever) | (refine heldR_elim (by assumption) ?_; with_reducible apply alu_held) | split | (intro _))

theorem execSrl_held (w : Who) (o : AluArgs) (s : State) (h_s : Held hp hn hb s) : HeldR hp hn hb (execSrl w o s) := by
  unfold execSrl
  try dsimp only
  repeat' (first | (with_reducible assumption) | (with_reducible apply alu_held) | (with_reducible apply heldR_next) | (with_reducible apply heldR_whenever) | (refine heldR_elim (by assumption) ?_; with_reducible apply alu_held) | split | (intro _))

theorem execSra_held (w : Who) (o : AluArgs) (s : State) (h_s : Held hp hn hb s) : HeldR hp hn hb (execSra w o s) := by
  unfold execSra
  try dsimp only
  repeat' (first | (with_reducible assumption) | (with_reducible apply alu_held) | (with_reducible apply heldR_next) | (with_reducible apply heldR_whenever) | (refine heldR_elim (by assumption) ?_; with_reducible apply alu_held) | split | (intro _))

theorem execSlt_held (w : Who) (o : AluArgs) (s : State) (h_s : Held hp hn hb s) : HeldR hp hn hb (execSlt w o s) := by
  unfold execSlt
  try dsimp only
  repeat' (first | (with_reducible assumption) | (with_reducible apply alu_held) | (with_reducible apply heldR_next) | (with_reducible apply heldR_whenever) | (refine heldR_elim (by assumption) ?_; with_reducible apply alu_held) | split | (intro _))

theorem execSltu_held (w : Who) (o : AluArgs) (s : State) (h_s : Held hp hn hb s) : HeldR hp hn hb (execSltu w o s) := by
  unfold execSltu
  try dsimp only
  repeat' (first | (with_reducible assumption) | (with_reducible apply alu_held) | (with_reducible apply heldR_next) | (with_reducible apply heldR_whenever) | (refine heldR_elim (by assumption) ?_; with_reducible apply alu_held) | split | (intro _))

theorem execMinS_held (w : Who) (o : AluArgs) (s : State) (h_s : Held hp hn hb s) : HeldR hp hn hb (execMinS w o s) := by
  unfold execMinS
  try dsimp only
  repeat' (first | (with_reducible assumption) | (with_reducible apply alu_held) | (with_reducible apply heldR_next) | (with_reducible apply heldR_whenever) | (refine heldR_elim (by assumption) ?_; with_reducible apply alu_held) | split | (intro _))

theorem execMaxS_held (w : Who) (o : AluArgs) (s : State) (h_s : Held hp hn hb s) : HeldR hp hn hb (execMaxS w o s) := by
  unfold execMaxS
  try dsimp only
  repeat' (first | (with_reducible assumption) | (with_reducible apply alu_held) | (with_reducible apply heldR_next) | (with_reducible apply heldR_whenever) | (refine heldR_elim (by assumption) ?_; with_reducible apply alu_held) | split | (intro _))

theorem execMinu_held (w : Who) (o : AluArgs) (s : State) (h_s : Held hp hn hb s) : HeldR hp hn hb (execMinu w o s) := by
  unfold execMinu
  try dsimp only
  repeat' (first | (with_reducible assumption) | (with_reducible apply alu_held) | (with_reducible apply heldR_next) | (with_reducible apply heldR_whenever) | (refine heldR_elim (by assumption) ?_; with_reducible apply alu_held) | split | (intro _))

theorem execMaxu_held (w : Who) (o : AluArgs) (s : State) (h_s : Held hp hn hb s) : HeldR hp hn hb (execMaxu w o s) := by
  unfold execMaxu
  try dsimp only
  repeat' (first | (with_reducible assumption) | (with_reducible apply alu_held) | (with_reducible apply heldR_next) | (with_reducible apply heldR_whenever) | (refine heldR_elim (by assumption) ?_; with_reducible apply alu_held) | split | (intro _))

theorem execMul_held (w : Who) (o : AluArgs) (s : State) (h_s : Held hp hn hb s) : HeldR hp hn hb (execMul w o s) := by
  unfold execMul
  try dsimp only
  repeat' (first | (with_reducible assumption) | (with_reducible apply alu_held) | (with_reducible apply heldR_next) | (with_reducible apply heldR_whenever) | (refine heldR_elim (by assumption) ?_; with_reducible apply alu_held) | split | (intro _))

theorem execMulh_held (w : Who) (o : AluArgs) (s : State) (h_s : Held hp hn hb s) : HeldR hp hn hb (execMulh w o s) := by
  unfold execMulh
  try dsimp only
  repeat' (first | (with_reducible assumption) | (with_reducible apply alu_held) | (with_reducible apply heldR_next) | (with_reducible apply heldR_whenever) | (refine heldR_elim (by assumption) ?_; with_reducible apply alu_held) | split | (intro _))

theorem execMulhu_held (w : Who) (o : AluArgs) (s : State) (h_s : Held hp hn hb s) : HeldR hp hn hb (execMulhu w o s) := by
  unfold execMulhu
  try dsimp only
  repeat' (first | (with_reducible assumption) | (with_reducible apply alu_held) | (with_reducible apply heldR_next) | (with_reducible apply heldR_whenever) | (refine heldR_elim (by assumption) ?_; with_reducible apply alu_held) | split | (intro _))

theorem execDiv_held (w : Who) (o : AluArgs) (s : State) (h_s : Held hp hn hb s) : HeldR hp hn hb (execDiv w o s) := by
  unfold execDiv
  try dsimp only
  repeat' (first | (with_reducible assumption) | (with_reducible apply alu_held) | (with_reducible apply heldR_next) | (with_reducible apply heldR_whenever) | (refine heldR_elim (by assumption) ?_; with_reducible apply alu_held) | split | (intro _))

theorem execDivu_held (w : Who) (o : AluArgs) (s : State) (h_s : Held hp hn hb s) : HeldR hp hn hb (execDivu w o s) := by
  unfold execDivu
  try dsimp only
  repeat' (first | (with_reducible assumption) | (with_reducible apply alu_held) | (with_reducible apply heldR_next) | (with_reducible apply heldR_whenever) | (refine heldR_elim (by assumption) ?_; with_reducible apply alu_held) | split | (intro _))

theorem execRem_held (w : Who) (o : AluArgs) (s : State) (h_s : Held hp hn hb s) : HeldR hp hn hb (execRem w o s) := by
  unfold execRem
  try dsimp only
  repeat' (first | (with_reducible assumption) | (with_reducible apply alu_held) | (with_reducible apply heldR_next) | (with_reducible apply heldR_whenever) | (refine heldR_elim (by assumption) ?_; with_reducible apply alu_held) | split | (intro _))

theorem execRemu_held (w : Who) (o : AluArgs) (s : State) (h_s : Held hp hn hb s) : HeldR hp hn hb (execRemu w o s) := by
  unfold execRemu
  try dsimp only
  repeat' (first | (with_reducible assumption) | (with_reducible apply alu_held) | (with_reducible apply heldR_next) | (with_reducible apply heldR_whenever) | (refine heldR_elim (by assumption) ?_; with_reducible apply alu_held) | split | (intro _))

theorem execClz_held (w : Who) (o : AluArgs) (s : State) (h_s : Held hp hn hb s) : HeldR hp hn hb (execClz w o s) := by
  unfold execClz
  try dsimp only
  repeat' (first | (with_reducible assumption) | (with_reducible apply alu_held) | (with_reducible apply heldR_next) | (with_reducible apply heldR_whenever) | (refine heldR_elim (by assumption) ?_; with_reducible apply alu_held) | split | (intro _))

theorem execCtz_held (w : Who) (o : AluArgs) (s : State) (h_s : Held hp hn hb s) : HeldR hp hn hb (execCtz w o s) := by
  unfold execCtz
  try dsimp only
  repeat' (first | (with_reducible assumption) | (with_reducible apply alu_held) | (with_reducible apply heldR_next) | (with_reducible apply heldR_whenever) | (refine heldR_elim (by assumption) ?_; with_reducible apply alu_held) | split | (intro _))

theorem execPopc_held (w : Who) (o : AluArgs) (s : State) (h_s : Held hp hn hb s) : HeldR hp hn hb (execPopc w o s) := by
  unfold execPopc
  try dsimp only
  repeat' (first | (with_reducible assumption) | (with_reducible apply alu_held) | (with_reducible apply heldR_next) | (with_reducible apply heldR_whenever) | (refine heldR_elim (by assumption) ?_; with_reducible apply alu_held) | split | (intro _))

theorem execFadd_held (w : Who) (o : AluArgs) (s : State) (h_s : Held hp hn hb s) : HeldR hp hn hb (execFadd w o s) := by
  unfold execFadd
  try dsimp only
  repeat' (first | (with_reducible assumption) | (with_reducible apply alu_held) | (with_reducible apply heldR_next) | (with_reducible apply heldR_whenever) | (refine heldR_elim (by assumption) ?_; with_reducible apply alu_held) | split | (intro _))

theorem execFsub_held (w : Who) (o : AluArgs) (s : State) (h_s : Held hp hn hb s) : HeldR hp hn hb (execFsub w o s) := by
  unfold execFsub
  try dsimp only
  repeat' (first | (with_reducible assumption) | (with_reducible apply alu_held) | (with_reducible apply heldR_next) | (with_reducible apply heldR_whenever) | (refine heldR_elim (by assumption) ?_; with_reducible apply alu_held) | split | (intro _))

theorem execFmul_held (w : Who) (o : AluArgs) (s : State) (h_s : Held hp hn hb s) : HeldR hp hn hb (execFmul w o s) := by
  unfold execFmul
  try dsimp only
  repeat' (first | (with_reducible assumption) | (with_reducible apply alu_held) | (with_reducible apply heldR_next) | (with_reducible apply heldR_whenever) | (refine heldR_elim (by assumption) ?_; with_reducible apply alu_held) | split | (intro _))

theorem execFma_held (w : Who) (o : AluArgs) (s : State) (h_s : Held hp hn hb s) : HeldR hp hn hb (execFma w o s) := by
  unfold execFma
  try dsimp only
  repeat' (first | (with_reducible assumption) | (with_reducible apply alu_held) | (with_reducible apply heldR_next) | (with_reducible apply heldR_whenever) | (refine heldR_elim (by assumption) ?_; with_reducible apply alu_held) | split | (intro _))

theorem execFdiv_held (w : Who) (o : AluArgs) (s : State) (h_s : Held hp hn hb s) : HeldR hp hn hb (execFdiv w o s) := by
  unfold execFdiv
  try dsimp only
  repeat' (first | (with_reducible assumption) | (with_reducible apply alu_held) | (with_reducible apply heldR_next) | (with_reducible apply heldR_whenever) | (refine heldR_elim (by assumption) ?_; with_reducible apply alu_held) | split | (intro _))

theorem execFsqrt_held (w : Who) (o : AluArgs) (s : State) (h_s : Held hp hn hb s) : HeldR hp hn hb (execFsqrt w o s) := by
  unfold execFsqrt
  try dsimp only
  repeat' (first | (with_reducible assumption) | (with_reducible apply alu_held) | (with_reducible apply heldR_next) | (with_reducible apply heldR_whenever) | (refine heldR_elim (by assumption) ?_; with_reducible apply alu_held) | split | (intro _))

theorem execFmin_held (w : Who) (o : AluArgs) (s : State) (h_s : Held hp hn hb s) : HeldR hp hn hb (execFmin w o s) := by
  unfold execFmin
  try dsimp only
  repeat' (first | (with_reducible assumption) | (with_reducible apply alu_held) | (with_reducible apply heldR_next) | (with_reducible apply heldR_whenever) | (refine heldR_elim (by assumption) ?_; with_reducible apply alu_held) | split | (intro _))

theorem execFmax_held (w : Who) (o : AluArgs) (s : State) (h_s : Held hp hn hb s) : HeldR hp hn hb (execFmax w o s) := by
  unfold execFmax
  try dsimp only
  repeat' (first | (with_reducible assumption) | (with_reducible apply alu_held) | (with_reducible apply heldR_next) | (with_reducible apply heldR_whenever) | (refine heldR_elim (by assumption) ?_; with_reducible apply alu_held) | split | (intro _))

theorem execFeq_held (w : Who) (o : AluArgs) (s : State) (h_s : Held hp hn hb s) : HeldR hp hn hb (execFeq w o s) := by
  unfold execFeq
  try dsimp only
  repeat' (first | (with_reducible assumption) | (with_reducible apply alu_held) | (with_reducible apply heldR_next) | (with_reducible apply heldR_whenever) | (refine heldR_elim (by assumption) ?_; with_reducible apply alu_held) | split | (intro _))

theorem execFlt_held (w : Who) (o : AluArgs) (s : State) (h_s : Held hp hn hb s) : HeldR hp hn hb (execFlt w o s) := by
  unfold execFlt
  try dsimp only
  repeat' (first | (with_reducible assumption) | (with_reducible apply alu_held) | (with_reducible apply heldR_next) | (with_reducible apply heldR_whenever) | (refine heldR_elim (by assumption) ?_; with_reducible apply alu_held) | split | (intro _))

theorem execFle_held (w : Who) (o : AluArgs) (s : State) (h_s : Held hp hn hb s) : HeldR hp hn hb (execFle w o s) := by
  unfold execFle
  try dsimp only
  repeat' (first | (with_reducible assumption) | (with_reducible apply alu_held) | (with_reducible apply heldR_next) | (with_reducible apply heldR_whenever) | (refine heldR_elim (by assumption) ?_; with_reducible apply alu_held) | split | (intro _))

theorem execFcvtSW_held (w : Who) (o : AluArgs) (s : State) (h_s : Held hp hn hb s) : HeldR hp hn hb (execFcvtSW w o s) := by
  unfold execFcvtSW
  try dsimp only
  repeat' (first | (with_reducible assumption) | (with_reducible apply alu_held) | (with_reducible apply heldR_next) | (with_reducible apply heldR_whenever) | (refine heldR_elim (by assumption) ?_; with_reducible apply alu_held) | split | (intro _))

theorem execFcvtWS_held (w : Who) (o : AluArgs) (s : State) (h_s : Held hp hn hb s) : HeldR hp hn hb (execFcvtWS w o s) := by
  unfold execFcvtWS
  try dsimp only
  repeat' (first | (with_reducible assumption) | (with_reducible apply alu_held) | (with_reducible apply heldR_next) | (with_reducible apply heldR_whenever) | (refine heldR_elim (by assumption) ?_; with_reducible apply alu_held) | split | (intro _))

theorem execFabs_held (w : Who) (o : AluArgs) (s : State) (h_s : Held hp hn hb s) : HeldR hp hn hb (execFabs w o s) := by
  unfold execFabs
  try dsimp only
  repeat' (first | (with_reducible assumption) | (with_reducible apply alu_held) | (with_reducible apply heldR_next) | (with_reducible apply heldR_whenever) | (refine heldR_elim (by assumption) ?_; with_reducible apply alu_held) | split | (intro _))

theorem execFneg_held (w : Who) (o : AluArgs) (s : State) (h_s : Held hp hn hb s) : HeldR hp hn hb (execFneg w o s) := by
  unfold execFneg
  try dsimp only
  repeat' (first | (with_reducible assumption) | (with_reducible apply alu_held) | (with_reducible apply heldR_next) | (with_reducible apply heldR_whenever) | (refine heldR_elim (by assumption) ?_; with_reducible apply alu_held) | split | (intro _))

end Sys2Proof.Machine
end

