-- ==== Sys2Proof/Laws/Ops.lean ====
section
/-! SUPPORT. What each shared operation over registers, contexts and parts of the state does, said once. -/

namespace Sys2Proof.Machine

/-! ### Register fields -/

theorem fget_fset_same (s : State) (f : Field) (v : Nat) : fget (fset s f v) f = v % 2 ^ f.width := by
  simp [fget, fset, mapGet]

theorem fget_fset_other (s : State) (f g : Field) (v : Nat) (h : g.key ≠ f.key) : fget (fset s f v) g = fget s g := by
  simp [fget, fset, mapGet_mapPut_other _ _ _ h]

theorem fget_of_regs {s t : State} (f : Field) (h : t.regs = s.regs) : fget t f = fget s f := by simp [fget, h]

theorem onlyFields_self (s : State) (fs : List Field) : OnlyFields fs s s := ⟨rfl, fun _ _ => rfl⟩

theorem onlyFields_fset {s t : State} {fs : List Field} (f : Field) (v : Nat) (h : OnlyFields fs s t) (hf : f ∈ fs) : OnlyFields fs s (fset t f v) := by
  refine ⟨?_, fun g hg => ?_⟩
  · rw [h.1]; rfl
  · have hk : g.key ≠ f.key := fun e => hg (by rw [e]; exact List.mem_map_of_mem hf)
    rw [fget_fset_other t f g v hk]; exact h.2 g hg

/-! ### Facets and contexts -/

theorem facetOf_modFacet_same (s : State) (lf : Nat) (f : Facet → Facet) : facetOf (modFacet s lf f) lf = f (facetOf s lf) := by
  simp [facetOf, modFacet, mapGet]

theorem facetOf_modFacet_other (s : State) {lf l : Nat} (f : Facet → Facet) (h : l ≠ lf) : facetOf (modFacet s lf f) l = facetOf s l := by
  simp [facetOf, modFacet, mapGet_mapPut_other _ _ _ h]

theorem ctx_setCtx (f : Facet) (c : Nat) (x : Ctx) : (f.setCtx c x).ctx c = x := by
  unfold Facet.setCtx Facet.ctx; split <;> rfl

theorem setCtx_ctx (f : Facet) (c : Nat) : f.setCtx c (f.ctx c) = f := by
  unfold Facet.setCtx Facet.ctx; split <;> rfl

theorem setCtx_setCtx (f : Facet) (c : Nat) (x y : Ctx) : (f.setCtx c x).setCtx c y = f.setCtx c y := by
  unfold Facet.setCtx; split <;> rfl

theorem ctxOf_modCtx (s : State) (w : Who) (f : Ctx → Ctx) : ctxOf (modCtx s w f) w = f (ctxOf s w) := by
  simp [ctxOf, modCtx, facetOf_modFacet_same, ctx_setCtx]

theorem onlyFacet_self (s : State) (lf : Nat) : OnlyFacet lf s s := ⟨rfl, fun _ _ => rfl⟩

theorem onlyFacet_modFacet {s t : State} {lf : Nat} (f : Facet → Facet) (h : OnlyFacet lf s t) : OnlyFacet lf s (modFacet t lf f) := by
  refine ⟨?_, fun l hl => ?_⟩
  · rw [h.1]; rfl
  · rw [facetOf_modFacet_other _ _ hl]; exact h.2 l hl

theorem onlyCtx_self (s : State) (w : Who) : OnlyCtx w s s := ⟨onlyFacet_self s w.lf, (setCtx_ctx _ _).symm⟩

theorem onlyCtx_modCtx {s t : State} {w : Who} (f : Ctx → Ctx) (h : OnlyCtx w s t) : OnlyCtx w s (modCtx t w f) := by
  refine ⟨onlyFacet_modFacet _ h.1, ?_⟩
  rw [ctxOf_modCtx, modCtx, facetOf_modFacet_same, h.2, setCtx_setCtx]
  simp [ctx_setCtx]

theorem onlyCtx_advance (s : State) (w : Who) (k : Nat) : OnlyCtx w s (advance s w k) := by
  unfold advance occupy; exact onlyCtx_modCtx _ (onlyCtx_self s w)

@[simp] theorem ctxOf_drawn (s : State) (w : Who) : ctxOf (drawn s) w = ctxOf s w := rfl
@[simp] theorem ctxOf_fset (s : State) (f : Field) (v : Nat) (w : Who) : ctxOf (fset s f v) w = ctxOf s w := rfl
@[simp] theorem rget_fset (s : State) (f : Field) (v : Nat) (w : Who) (r : Reg) : rget (fset s f v) w r = rget s w r := rfl

/-! ### Scalar registers (R288) -/

theorem toNat_ne {r d : Reg} (h : r ≠ d) : r.toNat ≠ d.toNat := fun e => h (BitVec.eq_of_toNat_eq e)

theorem rget_rput (s : State) (w : Who) (d : Reg) (v : Word) (lat : Nat) (r : Reg) :
    rget (rput s w d v lat) w r = if r = d ∧ d ≠ 0#5 then v else rget s w r := by
  unfold rget rput
  rw [ctxOf_modCtx]
  by_cases hd : d = 0#5
  · subst hd; simp
  · by_cases hr : r = d
    · subst hr; simp [hd, mapGet]
    · simp [hd, hr, mapGet_mapPut_other _ _ _ (toNat_ne hr)]

theorem rget_of_regs {s t : State} {w : Who} (h : (ctxOf t w).regs = (ctxOf s w).regs) (r : Reg) : rget t w r = rget s w r := by
  simp [rget, h]

/-- The context after an instruction that does not branch. -/
theorem ctxOf_advance (s : State) (w : Who) (k : Nat) :
    ctxOf (advance s w k) w = { ctxOf s w with pc := nextPc s w, free := s.now + (if bothRun s w then 2 * k - 1 else k) } := by
  simp [advance, occupy, ctxOf_modCtx]

/-- The context after a register has been written. -/
theorem ctxOf_rput (s : State) (w : Who) (d : Reg) (v : Word) (lat : Nat) :
    ctxOf (rput s w d v lat) w = if d = 0#5 then ctxOf s w else { ctxOf s w with
      regs := mapPut (ctxOf s w).regs d.toNat v
      ready := mapPut (ctxOf s w).ready d.toNat (max (mapGet (ctxOf s w).ready d.toNat 0) (s.now + lat)) } := by
  simp [rput, ctxOf_modCtx]

/-- An instruction that computes does what `Computes` says. -/
theorem computes_rput_advance (s : State) (w : Who) (d : Reg) (v : Word) (k lat : Nat) : Computes w s (rput (advance s w k) w d v lat) d v k lat := by
  refine ⟨onlyCtx_modCtx _ (onlyCtx_advance s w k), ?_, ?_, ?_, ?_, ?_⟩
  · unfold KeepsCtx; rw [ctxOf_rput, ctxOf_advance]; split <;> rfl
  · unfold GoesOn GoesTo; rw [ctxOf_rput, ctxOf_advance]; split <;> exact ⟨rfl, rfl⟩
  · intro r
    rw [rget_rput, rget_of_regs (s := s) (t := advance s w k) (by rw [ctxOf_advance])]
  · intro hd
    rw [ctxOf_rput, if_neg hd, ctxOf_advance]
    simp [mapGet]; rfl
  · intro r hr
    rw [ctxOf_rput, ctxOf_advance]
    split
    · rfl
    · simp [mapGet_mapPut_other _ _ _ (toNat_ne hr)]

/-! ### Issue (R290, R292, R297) -/

theorem whenever_true {c : Bool} {s t : State} (h : c = true) : whenever c s t = .next t := by simp [whenever, h]

theorem whenever_false {c : Bool} {s t : State} (h : c = false) : whenever c s t = .next s := by simp [whenever, h]

/-- A legal instruction that may issue has its effect. -/
theorem issue_runs {s : State} {w : Who} {srcs dsts : List Reg} {k : State → State} (h : issues s w srcs dsts = true) :
    issue s w srcs dsts true k = .next (k s) := by
  simp only [issues, Bool.and_eq_true] at h
  simp [issue, h.1.1.1, h.1.1.2, h.1.2, h.2]

/-- An illegal one that may issue aborts its task. -/
theorem issue_illegal {s : State} {w : Who} {srcs dsts : List Reg} {k : State → State} (h : issues s w srcs dsts = true) :
    issue s w srcs dsts false k = .next (faultTask s w) := by
  simp only [issues, Bool.and_eq_true] at h
  simp [issue, h.1.1.1, h.1.1.2, h.1.2, h.2]

/-- One that may not issue changes nothing. -/
theorem issue_stalls {s : State} {w : Who} {srcs dsts : List Reg} {legal : Bool} {k : State → State} (h : canIssue s w = false) :
    issue s w srcs dsts legal k = .next s := by
  simp [issue, h]

/-- An integer or FP32 instruction in binary form. -/
theorem alu_computes {s : State} {w : Who} {o : AluArgs} {readsD : Bool} {occ lat : Nat} {f : Word → Word → Word → Word}
    (hw : o.wf = true) (h : issues s w (aluSrcs o readsD false) [o.d] = true) :
    ∃ t, alu w o readsD false occ lat f s = .next t ∧ Computes w s t o.d (f (rget s w o.d) (rget s w o.a) (operandB s w o)) occ lat := by
  refine ⟨_, ?_, computes_rput_advance s w o.d _ occ lat⟩
  simp only [alu, hw, Bool.false_eq_true, if_false]
  exact issue_runs h

/-- An integer or FP32 instruction in unary form. -/
theorem alu_computes_unary {s : State} {w : Who} {o : AluArgs} {occ lat : Nat} {f : Word → Word → Word → Word}
    (hw : o.wfUnary = true) (h : issues s w (aluSrcs o false true) [o.d] = true) :
    ∃ t, alu w o false true occ lat f s = .next t ∧ Computes w s t o.d (f (rget s w o.d) (rget s w o.a) (operandB s w o)) occ lat := by
  refine ⟨_, ?_, computes_rput_advance s w o.d _ occ lat⟩
  simp only [alu, hw, if_true]
  exact issue_runs h

end Sys2Proof.Machine
end

