-- ==== Sys2Proof/Machine/Lands.lean ====
section
/-! DEFINITION. What the lands of the package show (R421, R506, R507, R512, Table 18-8): a view of the state, which holds nothing of its own. -/

namespace Sys2Proof.Machine

/-- The conditions of Table 18-8. -/
inductive LandCondition where
  | unpowered | mainOff | mainReset | running
  deriving DecidableEq, Repr

/-- The condition that the part is in; a function reset counts as a reset (R507). -/
def landCondition (s : State) : LandCondition :=
  if !s.power.stbyOk then .unpowered
  else
    match s.power.phase with
    | .off => .mainOff
    | .powerOn => .mainReset
    | .mainReset => .mainReset
    | .held _ => .mainReset
    | _ => if s.power.funcReset.isSome then .mainReset else .running

/-- The output lands and land groups of Table 18-8. -/
inductive Land where
  | pcieTx | pcieRx | chordTx (p : Nat) | chordRx (p : Nat) | sideBand | sbAlert | flash | pwrEn (n : Nat) | avs | thermtrip | tickOut | tdo
  deriving DecidableEq, Repr

/-- What a land shows. -/
inductive LandState where
  | highImpedance | noTermination | terminated | idle | active | low | high | released
  deriving DecidableEq, Repr

/-- A message on the side-band is pending: it is sent in this cycle (R421). -/
def sideMessage (s : State) : Bool :=
  s.outs.any (fun o => decide (o.time = s.now) &&
    match o.msg with
    | .limmund b _ _ => decide (b = .sideband)
    | .mctp b _ => decide (b = .sideband)
    | .sensor b _ _ => decide (b = .sideband)
    | .unavailable b _ => decide (b = .sideband)
    | _ => false)

/-- A level driven high or low. -/
def LandState.level (b : Bool) : LandState := if b then .high else .low

/-- The lands of Table 18-8. TICK_OUT is high for 1 µs from a tick (R506), THERMTRIP_N is low while it is asserted (R512), PWR_ENn follows its enable (R493), SB_ALERT_N signals a pending message in SMBus mode (R421). -/
def landState (s : State) (l : Land) : LandState :=
  let c := landCondition s
  match l with
  | .pcieTx =>
    match c with
    | .running => .active
    | .mainReset => .idle
    | _ => .highImpedance
  | .pcieRx => if c = .running ∧ s.power.hifReset = false then .terminated else .noTermination
  | .chordTx p =>
    match c with
    | .running => if fget s (Fld.chdPState_STATE p) = 0 then .idle else .active
    | .mainReset => .idle
    | _ => .highImpedance
  | .chordRx p => if c = .running ∧ fget s (Fld.chdPState_STATE p) ≠ 0 then .terminated else .highImpedance
  | .sideBand => if c = .unpowered then .released else .active
  | .sbAlert => if c ≠ .unpowered ∧ s.mgmt.i3c = false ∧ sideMessage s = true then .low else .released
  | .flash => if c = .unpowered then .highImpedance else .active
  | .pwrEn n => if c = .unpowered then .highImpedance else .level (bitSet s.power.enabled (n - 1))
  | .avs => if c = .unpowered then .highImpedance else .active
  | .thermtrip => if s.power.thermtrip then .low else .released
  | .tickOut =>
    match c with
    | .unpowered => .highImpedance
    | .running => .level (s.seq.inFrame && decide (s.now < s.seq.lastTick + cyclesOf 1))
    | _ => .low
  | .tdo => .highImpedance

end Sys2Proof.Machine
end

