-- ==== Sys2Proof/Tests/Slice0.lean ====
section
/-! SUPPORT. The model's own tests: a well-formed term and an ill-formed one for each check, words of the encoding, and a witness for the hypotheses of each statement. -/

open Sys2Proof Sys2Proof.Machine

namespace Sys2Proof.Tests

set_option maxRecDepth 100000

/-- One well-formed term for each constructor that has a check. -/
theorem test_well_formed_1 :
    ∀ c ∈ ([
    .fsqTickctlWrite 0, .loadImage 0, .manifestCmd 0, .expressRequest 0 (List.replicate 128 0#8), .stallWatchdog ⟨0, 0⟩, .illegalInstruction ⟨0, 0⟩ 0#64,
    .add ⟨0, 0⟩ ⟨false, 1#5, 2#5, 0#5, 0#32⟩, .sub ⟨0, 0⟩ ⟨false, 1#5, 2#5, 0#5, 0#32⟩, .andI ⟨0, 0⟩ ⟨false, 1#5, 2#5, 0#5, 0#32⟩, .orI ⟨0, 0⟩ ⟨false, 1#5, 2#5, 0#5, 0#32⟩,
    .xorI ⟨0, 0⟩ ⟨false, 1#5, 2#5, 0#5, 0#32⟩, .sll ⟨0, 0⟩ ⟨false, 1#5, 2#5, 0#5, 0#32⟩, .srl ⟨0, 0⟩ ⟨false, 1#5, 2#5, 0#5, 0#32⟩, .sra ⟨0, 0⟩ ⟨false, 1#5, 2#5, 0#5, 0#32⟩,
    .slt ⟨0, 0⟩ ⟨false, 1#5, 2#5, 0#5, 0#32⟩, .sltu ⟨0, 0⟩ ⟨false, 1#5, 2#5, 0#5, 0#32⟩, .minS ⟨0, 0⟩ ⟨false, 1#5, 2#5, 0#5, 0#32⟩, .maxS ⟨0, 0⟩ ⟨false, 1#5, 2#5, 0#5, 0#32⟩,
    .minu ⟨0, 0⟩ ⟨false, 1#5, 2#5, 0#5, 0#32⟩, .maxu ⟨0, 0⟩ ⟨false, 1#5, 2#5, 0#5, 0#32⟩, .mul ⟨0, 0⟩ ⟨false, 1#5, 2#5, 0#5, 0#32⟩, .mulh ⟨0, 0⟩ ⟨false, 1#5, 2#5, 0#5, 0#32⟩,
    .mulhu ⟨0, 0⟩ ⟨false, 1#5, 2#5, 0#5, 0#32⟩, .div ⟨0, 0⟩ ⟨false, 1#5, 2#5, 0#5, 0#32⟩, .divu ⟨0, 0⟩ ⟨false, 1#5, 2#5, 0#5, 0#32⟩, .rem ⟨0, 0⟩ ⟨false, 1#5, 2#5, 0#5, 0#32⟩,
    .remu ⟨0, 0⟩ ⟨false, 1#5, 2#5, 0#5, 0#32⟩, .clz ⟨0, 0⟩ ⟨false, 1#5, 2#5, 0#5, 0#32⟩, .ctz ⟨0, 0⟩ ⟨false, 1#5, 2#5, 0#5, 0#32⟩, .popc ⟨0, 0⟩ ⟨false, 1#5, 2#5, 0#5, 0#32⟩,
    .fadd ⟨0, 0⟩ ⟨false, 1#5, 2#5, 0#5, 0#32⟩, .fsub ⟨0, 0⟩ ⟨false, 1#5, 2#5, 0#5, 0#32⟩, .fmul ⟨0, 0⟩ ⟨false, 1#5, 2#5, 0#5, 0#32⟩, .fma ⟨0, 0⟩ ⟨false, 1#5, 2#5, 0#5, 0#32⟩,
    .fdiv ⟨0, 0⟩ ⟨false, 1#5, 2#5, 0#5, 0#32⟩, .fsqrt ⟨0, 0⟩ ⟨false, 1#5, 2#5, 0#5, 0#32⟩, .fmin ⟨0, 0⟩ ⟨false, 1#5, 2#5, 0#5, 0#32⟩, .fmax ⟨0, 0⟩ ⟨false, 1#5, 2#5, 0#5, 0#32⟩,
    .feq ⟨0, 0⟩ ⟨false, 1#5, 2#5, 0#5, 0#32⟩, .flt ⟨0, 0⟩ ⟨false, 1#5, 2#5, 0#5, 0#32⟩, .fle ⟨0, 0⟩ ⟨false, 1#5, 2#5, 0#5, 0#32⟩, .fcvtSW ⟨0, 0⟩ ⟨false, 1#5, 2#5, 0#5, 0#32⟩,
    .fcvtWS ⟨0, 0⟩ ⟨false, 1#5, 2#5, 0#5, 0#32⟩, .fabs ⟨0, 0⟩ ⟨false, 1#5, 2#5, 0#5, 0#32⟩, .fneg ⟨0, 0⟩ ⟨false, 1#5, 2#5, 0#5, 0#32⟩] : List Instr), c.wf = true := by decide

/-- One well-formed term for each constructor that has a check. -/
theorem test_well_formed_2 :
    ∀ c ∈ ([
    .jal ⟨0, 0⟩ 1#5 0#32, .jalr ⟨0, 0⟩ 1#5 1#5 0#32, .br ⟨0, 0⟩ .eq 1#5 1#5 0#32, .dbnz ⟨0, 0⟩ 1#5 0#32, .waitt ⟨0, 0⟩ 1#5 0#32, .waittTargetReached ⟨0, 0⟩, .mfsr ⟨0, 0⟩ 1#5 0,
    .mtsr ⟨0, 0⟩ 1#5 0, .ldW ⟨0, 0⟩ 1#5 1#5 0#32, .stW ⟨0, 0⟩ 1#5 1#5 0#32, .mfill ⟨0, 0⟩ 1#5 1#5 0#32, .mcopy ⟨0, 0⟩ 1#5 1#5 0#32, .fillCopyComplete ⟨0, 0⟩, .swait ⟨0, 0⟩ 1#5 1#5 1#5 0#32,
    .swaitTry ⟨0, 0⟩ 1#5 1#5 1#5 0#32, .spost ⟨0, 0⟩ 1#5 1#5 0#32 false, .semMessageApply 0, .swaitGrant ⟨0, 0⟩, .cwait ⟨0, 0⟩ 1#5 1#5 1#5 0, .cwaitTry ⟨0, 0⟩ 1#5 1#5 1#5 0,
    .creset ⟨0, 0⟩ 0, .cwaitSatisfied ⟨0, 0⟩, .chpush ⟨0, 0⟩ 1#5 ⟨0, 0⟩, .chpushGrant ⟨0, 0⟩, .chcommit ⟨0, 0⟩ 1#5 ⟨0, 0⟩, .chcommitRewind ⟨0, 0⟩ ⟨0, 0⟩, .commitArrival ⟨0, 0⟩,
    .packetVisible ⟨0, 0⟩, .chpopAcquire ⟨0, 0⟩ 1#5 2#5 ⟨0, 0⟩, .packetAcquired ⟨0, 0⟩, .chpopRelease ⟨0, 0⟩ ⟨0, 0⟩, .chflush ⟨0, 0⟩ ⟨0, 0⟩, .deferredEmptyPost ⟨0, 0⟩,
    .channelRecordRewrite ⟨0, 0⟩, .fence ⟨0, 0⟩, .fenceComplete ⟨0, 0⟩, .tend ⟨0, 0⟩, .tendComplete ⟨0, 0⟩, .tdmk ⟨0, 0⟩ 1#5 1#5 0 0 false 0, .tdrl ⟨0, 0⟩ 0 0,
    .strm ⟨0, 0⟩ ⟨0#5, 1#5, 2#5, 0, 0, 0, false, false, false⟩ 0, .stq ⟨0, 0⟩ 1#5 0 false false false 0, .lload ⟨0, 0⟩ 0 0 0 false 0, .lpass ⟨0, 0⟩ 1#5 1#5 false 0 0 0, .lsplit ⟨0, 0⟩ 0] : List Instr), c.wf = true := by decide

/-- One well-formed term for each constructor that has a check. -/
theorem test_well_formed_3 :
    ∀ c ∈ ([
    .ldrainDrain ⟨0, 0⟩ 0#5 1#5 1#5 0 0 0, .ldrainFill ⟨0, 0⟩ 1#5 1#5 0 0 0, .cmode ⟨0, 0⟩ 0 0, .vadd ⟨0, 0⟩ ⟨1#5, 2#5, 0#5, 8, false, false, false, false, false, false, false, 0, 0⟩,
    .vmax ⟨0, 0⟩ ⟨1#5, 2#5, 0#5, 8, false, false, false, false, false, false, false, 0, 0⟩, .vfma ⟨0, 0⟩ ⟨1#5, 2#5, 0#5, 8, false, false, false, false, false, false, false, 0, 0⟩,
    .vexp ⟨0, 0⟩ ⟨1#5, 2#5, 0#5, 8, false, false, false, false, false, false, false, 0, 0⟩, .vrsq ⟨0, 0⟩ ⟨1#5, 2#5, 0#5, 8, false, false, false, false, false, false, false, 0, 0⟩,
    .vsig ⟨0, 0⟩ ⟨1#5, 2#5, 0#5, 8, false, false, false, false, false, false, false, 0, 0⟩, .vred ⟨0, 0⟩ ⟨1#5, 2#5, 0#5, 8, false, false, false, false, false, false, false, 0, 0⟩,
    .vcvt ⟨0, 0⟩ ⟨1#5, 2#5, 0#5, 8, false, false, false, false, false, false, false, 0, 0⟩, .mgpush ⟨0, 0⟩ 1#5 1#5 0 0, .mgpushEnd ⟨0, 0⟩ 1#5 1#5 0 0, .mgdrainOpen ⟨0, 0⟩ 1#5 0,
    .mgdrainWait ⟨0, 0⟩ 1#5 1#5 0 0, .pdqQuery ⟨0, 0⟩ 1#5 1#5 0, .pdqPrefetch ⟨0, 0⟩ 1#5 0, .upsign ⟨0, 0⟩ 1#5 0, .upvote ⟨0, 0⟩ 1#5 0, .engineCommandStart ⟨0, 0⟩ .str,
    .engineCommandComplete ⟨0, 0⟩ .str, .gatherFactorChoice ⟨0, 0⟩, .stationaryLoad ⟨0, 0⟩, .blockListFetch 0 0, .transferStart 0 0, .transferComplete 0 0, .neuronListReady 0 0,
    .mergeResultWrite 0, .mergeJobComplete 0, .fmemHostFill 0, .fmemHostCopy 0, .fmemHostOpDone 0, .fmemGateRequest 0 0, .fmemGateCancel 0 0, .fmemWake 0 0, .bankGated 0 0, .gateForced 0 0,
    .bankWakeDone 0 0, .migrateCmd 0, .permutationLoad 0 0, .portEnable 0, .portDisable 0, .signalDetected 0, .trainDone 0, .alignDone 0] : List Instr), c.wf = true := by decide

/-- One well-formed term for each constructor that has a check. -/
theorem test_well_formed_4 :
    ∀ c ∈ ([
    .bringupTimeout 0, .bringupRetry 0, .exchange 0 0 0 0 0, .delayProbe 0 0, .delayEcho 0 0, .tickField 0 0, .laneLost 0 0, .swapReq 0 0 0, .swapAck 0 0 0, .fecFailure 0, .dataFlit 0 [],
    .idleFlit 0 [], .ackTimeout 0, .packetTransmit 0 0, .writePkt 0, .readPkt 0, .respPkt 0, .postPkt 0, .mergePkt 0, .mergeEndPkt 0, .readTimeout 0, .mcastStall 0 0, .qpEnable 0,
    .qpDisable 0, .qpDrained 0, .sqTail 0 0, .cqHead 0 0, .sqFetch 0, .nopCmd 0, .badCommand 0, .revoke .pcie 0 0 [] [], .facetUe 0 .vector 0, .fmemUe 0 0 none, .stsUe 0 none, .farUe 0 none,
    .prismUe 0, .streamEngineUe 0, .updateUe 0, .tableUe ⟨0, 0⟩, .shadowCheckEnd 0 ⟨[], []⟩ false, .skewOverrun 0, .avsCurrentRead 0 0, .facetSwapDone 0 []] : List Instr), c.wf = true := by decide

/-- One ill-formed term for each check of a constructor. -/
theorem test_ill_formed_1 :
    ∀ c ∈ ([
    .fsqTickctlWrite 4, .loadImage 64, .manifestCmd 64, .expressRequest 64 (List.replicate 128 0#8), .expressRequest 0 [], .stallWatchdog ⟨48, 0⟩, .illegalInstruction ⟨48, 0⟩ 0#64,
    .add ⟨48, 0⟩ ⟨false, 1#5, 2#5, 0#5, 0#32⟩, .add ⟨0, 0⟩ ⟨false, 1#5, 2#5, 0#5, 1#32⟩, .sub ⟨48, 0⟩ ⟨false, 1#5, 2#5, 0#5, 0#32⟩, .sub ⟨0, 0⟩ ⟨false, 1#5, 2#5, 0#5, 1#32⟩,
    .andI ⟨48, 0⟩ ⟨false, 1#5, 2#5, 0#5, 0#32⟩, .andI ⟨0, 0⟩ ⟨false, 1#5, 2#5, 0#5, 1#32⟩, .orI ⟨48, 0⟩ ⟨false, 1#5, 2#5, 0#5, 0#32⟩, .orI ⟨0, 0⟩ ⟨false, 1#5, 2#5, 0#5, 1#32⟩,
    .xorI ⟨48, 0⟩ ⟨false, 1#5, 2#5, 0#5, 0#32⟩, .xorI ⟨0, 0⟩ ⟨false, 1#5, 2#5, 0#5, 1#32⟩, .sll ⟨48, 0⟩ ⟨false, 1#5, 2#5, 0#5, 0#32⟩, .sll ⟨0, 0⟩ ⟨false, 1#5, 2#5, 0#5, 1#32⟩,
    .srl ⟨48, 0⟩ ⟨false, 1#5, 2#5, 0#5, 0#32⟩, .srl ⟨0, 0⟩ ⟨false, 1#5, 2#5, 0#5, 1#32⟩, .sra ⟨48, 0⟩ ⟨false, 1#5, 2#5, 0#5, 0#32⟩, .sra ⟨0, 0⟩ ⟨false, 1#5, 2#5, 0#5, 1#32⟩,
    .slt ⟨48, 0⟩ ⟨false, 1#5, 2#5, 0#5, 0#32⟩, .slt ⟨0, 0⟩ ⟨false, 1#5, 2#5, 0#5, 1#32⟩, .sltu ⟨48, 0⟩ ⟨false, 1#5, 2#5, 0#5, 0#32⟩, .sltu ⟨0, 0⟩ ⟨false, 1#5, 2#5, 0#5, 1#32⟩,
    .minS ⟨48, 0⟩ ⟨false, 1#5, 2#5, 0#5, 0#32⟩, .minS ⟨0, 0⟩ ⟨false, 1#5, 2#5, 0#5, 1#32⟩, .maxS ⟨48, 0⟩ ⟨false, 1#5, 2#5, 0#5, 0#32⟩, .maxS ⟨0, 0⟩ ⟨false, 1#5, 2#5, 0#5, 1#32⟩,
    .minu ⟨48, 0⟩ ⟨false, 1#5, 2#5, 0#5, 0#32⟩, .minu ⟨0, 0⟩ ⟨false, 1#5, 2#5, 0#5, 1#32⟩, .maxu ⟨48, 0⟩ ⟨false, 1#5, 2#5, 0#5, 0#32⟩, .maxu ⟨0, 0⟩ ⟨false, 1#5, 2#5, 0#5, 1#32⟩,
    .mul ⟨48, 0⟩ ⟨false, 1#5, 2#5, 0#5, 0#32⟩, .mul ⟨0, 0⟩ ⟨false, 1#5, 2#5, 0#5, 1#32⟩, .mulh ⟨48, 0⟩ ⟨false, 1#5, 2#5, 0#5, 0#32⟩, .mulh ⟨0, 0⟩ ⟨false, 1#5, 2#5, 0#5, 1#32⟩,
    .mulhu ⟨48, 0⟩ ⟨false, 1#5, 2#5, 0#5, 0#32⟩, .mulhu ⟨0, 0⟩ ⟨false, 1#5, 2#5, 0#5, 1#32⟩, .div ⟨48, 0⟩ ⟨false, 1#5, 2#5, 0#5, 0#32⟩, .div ⟨0, 0⟩ ⟨false, 1#5, 2#5, 0#5, 1#32⟩,
    .divu ⟨48, 0⟩ ⟨false, 1#5, 2#5, 0#5, 0#32⟩, .divu ⟨0, 0⟩ ⟨false, 1#5, 2#5, 0#5, 1#32⟩] : List Instr), c.wf = false := by decide

/-- One ill-formed term for each check of a constructor. -/
theorem test_ill_formed_2 :
    ∀ c ∈ ([
    .rem ⟨48, 0⟩ ⟨false, 1#5, 2#5, 0#5, 0#32⟩, .rem ⟨0, 0⟩ ⟨false, 1#5, 2#5, 0#5, 1#32⟩, .remu ⟨48, 0⟩ ⟨false, 1#5, 2#5, 0#5, 0#32⟩, .remu ⟨0, 0⟩ ⟨false, 1#5, 2#5, 0#5, 1#32⟩,
    .clz ⟨48, 0⟩ ⟨false, 1#5, 2#5, 0#5, 0#32⟩, .clz ⟨0, 0⟩ ⟨false, 1#5, 2#5, 3#5, 0#32⟩, .ctz ⟨48, 0⟩ ⟨false, 1#5, 2#5, 0#5, 0#32⟩, .ctz ⟨0, 0⟩ ⟨false, 1#5, 2#5, 3#5, 0#32⟩,
    .popc ⟨48, 0⟩ ⟨false, 1#5, 2#5, 0#5, 0#32⟩, .popc ⟨0, 0⟩ ⟨false, 1#5, 2#5, 3#5, 0#32⟩, .fadd ⟨48, 0⟩ ⟨false, 1#5, 2#5, 0#5, 0#32⟩, .fadd ⟨0, 0⟩ ⟨false, 1#5, 2#5, 0#5, 1#32⟩,
    .fsub ⟨48, 0⟩ ⟨false, 1#5, 2#5, 0#5, 0#32⟩, .fsub ⟨0, 0⟩ ⟨false, 1#5, 2#5, 0#5, 1#32⟩, .fmul ⟨48, 0⟩ ⟨false, 1#5, 2#5, 0#5, 0#32⟩, .fmul ⟨0, 0⟩ ⟨false, 1#5, 2#5, 0#5, 1#32⟩,
    .fma ⟨48, 0⟩ ⟨false, 1#5, 2#5, 0#5, 0#32⟩, .fma ⟨0, 0⟩ ⟨false, 1#5, 2#5, 0#5, 1#32⟩, .fdiv ⟨48, 0⟩ ⟨false, 1#5, 2#5, 0#5, 0#32⟩, .fdiv ⟨0, 0⟩ ⟨false, 1#5, 2#5, 0#5, 1#32⟩,
    .fsqrt ⟨48, 0⟩ ⟨false, 1#5, 2#5, 0#5, 0#32⟩, .fsqrt ⟨0, 0⟩ ⟨false, 1#5, 2#5, 3#5, 0#32⟩, .fmin ⟨48, 0⟩ ⟨false, 1#5, 2#5, 0#5, 0#32⟩, .fmin ⟨0, 0⟩ ⟨false, 1#5, 2#5, 0#5, 1#32⟩,
    .fmax ⟨48, 0⟩ ⟨false, 1#5, 2#5, 0#5, 0#32⟩, .fmax ⟨0, 0⟩ ⟨false, 1#5, 2#5, 0#5, 1#32⟩, .feq ⟨48, 0⟩ ⟨false, 1#5, 2#5, 0#5, 0#32⟩, .feq ⟨0, 0⟩ ⟨false, 1#5, 2#5, 0#5, 1#32⟩,
    .flt ⟨48, 0⟩ ⟨false, 1#5, 2#5, 0#5, 0#32⟩, .flt ⟨0, 0⟩ ⟨false, 1#5, 2#5, 0#5, 1#32⟩, .fle ⟨48, 0⟩ ⟨false, 1#5, 2#5, 0#5, 0#32⟩, .fle ⟨0, 0⟩ ⟨false, 1#5, 2#5, 0#5, 1#32⟩,
    .fcvtSW ⟨48, 0⟩ ⟨false, 1#5, 2#5, 0#5, 0#32⟩, .fcvtSW ⟨0, 0⟩ ⟨false, 1#5, 2#5, 3#5, 0#32⟩, .fcvtWS ⟨48, 0⟩ ⟨false, 1#5, 2#5, 0#5, 0#32⟩, .fcvtWS ⟨0, 0⟩ ⟨false, 1#5, 2#5, 3#5, 0#32⟩,
    .fabs ⟨48, 0⟩ ⟨false, 1#5, 2#5, 0#5, 0#32⟩, .fabs ⟨0, 0⟩ ⟨false, 1#5, 2#5, 3#5, 0#32⟩, .fneg ⟨48, 0⟩ ⟨false, 1#5, 2#5, 0#5, 0#32⟩, .fneg ⟨0, 0⟩ ⟨false, 1#5, 2#5, 3#5, 0#32⟩,
    .jal ⟨48, 0⟩ 1#5 0#32, .jalr ⟨48, 0⟩ 1#5 1#5 0#32, .br ⟨48, 0⟩ .eq 1#5 1#5 0#32, .dbnz ⟨48, 0⟩ 1#5 0#32, .dbnz ⟨0, 0⟩ 0#5 0#32] : List Instr), c.wf = false := by decide

/-- One ill-formed term for each check of a constructor. -/
theorem test_ill_formed_3 :
    ∀ c ∈ ([
    .waitt ⟨48, 0⟩ 1#5 0#32, .waittTargetReached ⟨48, 0⟩, .mfsr ⟨48, 0⟩ 1#5 0, .mfsr ⟨0, 0⟩ 1#5 4096, .mtsr ⟨48, 0⟩ 1#5 0, .mtsr ⟨0, 0⟩ 1#5 4096, .ldW ⟨48, 0⟩ 1#5 1#5 0#32,
    .stW ⟨48, 0⟩ 1#5 1#5 0#32, .mfill ⟨48, 0⟩ 1#5 1#5 0#32, .mcopy ⟨48, 0⟩ 1#5 1#5 0#32, .fillCopyComplete ⟨48, 0⟩, .swait ⟨48, 0⟩ 1#5 1#5 1#5 0#32, .swaitTry ⟨48, 0⟩ 1#5 1#5 1#5 0#32,
    .spost ⟨48, 0⟩ 1#5 1#5 0#32 false, .semMessageApply 4096, .swaitGrant ⟨48, 0⟩, .cwait ⟨48, 0⟩ 1#5 1#5 1#5 0, .cwait ⟨0, 0⟩ 1#5 1#5 1#5 64, .cwaitTry ⟨48, 0⟩ 1#5 1#5 1#5 0,
    .cwaitTry ⟨0, 0⟩ 1#5 1#5 1#5 64, .creset ⟨48, 0⟩ 0, .creset ⟨0, 0⟩ 64, .cwaitSatisfied ⟨48, 0⟩, .chpush ⟨48, 0⟩ 1#5 ⟨0, 0⟩, .chpush ⟨0, 0⟩ 1#5 ⟨256, 0⟩, .chpushGrant ⟨48, 0⟩,
    .chcommit ⟨48, 0⟩ 1#5 ⟨0, 0⟩, .chcommit ⟨0, 0⟩ 1#5 ⟨256, 0⟩, .chcommitRewind ⟨48, 0⟩ ⟨0, 0⟩, .chcommitRewind ⟨0, 0⟩ ⟨256, 0⟩, .commitArrival ⟨256, 0⟩, .packetVisible ⟨256, 0⟩,
    .chpopAcquire ⟨48, 0⟩ 1#5 2#5 ⟨0, 0⟩, .chpopAcquire ⟨0, 0⟩ 1#5 2#5 ⟨256, 0⟩, .chpopAcquire ⟨0, 0⟩ 1#5 1#5 ⟨0, 0⟩, .chpopAcquire ⟨0, 0⟩ 1#5 0#5 ⟨0, 0⟩,
    .chpopAcquire ⟨0, 0⟩ 0#5 2#5 ⟨0, 0⟩, .packetAcquired ⟨48, 0⟩, .chpopRelease ⟨48, 0⟩ ⟨0, 0⟩, .chpopRelease ⟨0, 0⟩ ⟨256, 0⟩, .chflush ⟨48, 0⟩ ⟨0, 0⟩, .chflush ⟨0, 0⟩ ⟨256, 0⟩,
    .deferredEmptyPost ⟨256, 0⟩, .channelRecordRewrite ⟨256, 0⟩, .fence ⟨48, 0⟩] : List Instr), c.wf = false := by decide

/-- One ill-formed term for each check of a constructor. -/
theorem test_ill_formed_4 :
    ∀ c ∈ ([
    .fenceComplete ⟨48, 0⟩, .tend ⟨48, 0⟩, .tendComplete ⟨48, 0⟩, .tdmk ⟨48, 0⟩ 1#5 1#5 0 0 false 0, .tdmk ⟨0, 0⟩ 1#5 1#5 64 0 false 0, .tdmk ⟨0, 0⟩ 1#5 1#5 0 16384 false 0,
    .tdmk ⟨0, 0⟩ 1#5 1#5 0 0 false 8, .tdrl ⟨48, 0⟩ 0 0, .tdrl ⟨0, 0⟩ 64 0, .tdrl ⟨0, 0⟩ 0 8, .strm ⟨48, 0⟩ ⟨0#5, 1#5, 2#5, 0, 0, 0, false, false, false⟩ 0,
    .strm ⟨0, 0⟩ ⟨0#5, 1#5, 2#5, 16, 0, 0, false, false, false⟩ 0, .strm ⟨0, 0⟩ ⟨0#5, 1#5, 2#5, 0, 0, 0, false, false, false⟩ 8, .stq ⟨48, 0⟩ 1#5 0 false false false 0,
    .stq ⟨0, 0⟩ 1#5 16 false false false 0, .stq ⟨0, 0⟩ 1#5 0 false false false 8, .lload ⟨48, 0⟩ 0 0 0 false 0, .lload ⟨0, 0⟩ 16 0 0 false 0, .lload ⟨0, 0⟩ 0 256 0 false 0,
    .lload ⟨0, 0⟩ 0 0 4 false 0, .lload ⟨0, 0⟩ 0 0 0 false 8, .lpass ⟨48, 0⟩ 1#5 1#5 false 0 0 0, .lpass ⟨0, 0⟩ 1#5 1#5 false 4 0 0, .lpass ⟨0, 0⟩ 1#5 1#5 false 0 256 0,
    .lpass ⟨0, 0⟩ 1#5 1#5 false 0 0 8, .lsplit ⟨48, 0⟩ 0, .lsplit ⟨0, 0⟩ 8, .ldrainDrain ⟨48, 0⟩ 0#5 1#5 1#5 0 0 0, .ldrainDrain ⟨0, 0⟩ 0#5 1#5 1#5 1024 0 0,
    .ldrainDrain ⟨0, 0⟩ 0#5 1#5 1#5 0 16 0, .ldrainDrain ⟨0, 0⟩ 1#5 1#5 1#5 0 0 0, .ldrainDrain ⟨0, 0⟩ 0#5 1#5 1#5 0 0 8, .ldrainFill ⟨48, 0⟩ 1#5 1#5 0 0 0,
    .ldrainFill ⟨0, 0⟩ 1#5 1#5 1024 0 0, .ldrainFill ⟨0, 0⟩ 1#5 1#5 0 16 0, .ldrainFill ⟨0, 0⟩ 1#5 1#5 0 0 8, .cmode ⟨48, 0⟩ 0 0, .cmode ⟨0, 0⟩ 16 0, .cmode ⟨0, 0⟩ 0 8,
    .vadd ⟨48, 0⟩ ⟨1#5, 2#5, 0#5, 8, false, false, false, false, false, false, false, 0, 0⟩, .vadd ⟨0, 0⟩ ⟨1#5, 2#5, 0#5, 4096, false, false, false, false, false, false, false, 0, 0⟩,
    .vadd ⟨0, 0⟩ ⟨1#5, 2#5, 0#5, 8, false, false, false, false, false, true, false, 0, 0⟩, .vadd ⟨0, 0⟩ ⟨1#5, 2#5, 0#5, 8, false, false, false, false, false, false, false, 1, 0⟩,
    .vmax ⟨48, 0⟩ ⟨1#5, 2#5, 0#5, 8, false, false, false, false, false, false, false, 0, 0⟩, .vmax ⟨0, 0⟩ ⟨1#5, 2#5, 0#5, 4096, false, false, false, false, false, false, false, 0, 0⟩] : List Instr), c.wf = false := by decide

/-- One ill-formed term for each check of a constructor. -/
theorem test_ill_formed_5 :
    ∀ c ∈ ([
    .vmax ⟨0, 0⟩ ⟨1#5, 2#5, 0#5, 8, false, false, false, false, false, true, false, 0, 0⟩, .vmax ⟨0, 0⟩ ⟨1#5, 2#5, 0#5, 8, false, false, false, false, false, false, false, 1, 0⟩,
    .vfma ⟨48, 0⟩ ⟨1#5, 2#5, 0#5, 8, false, false, false, false, false, false, false, 0, 0⟩, .vfma ⟨0, 0⟩ ⟨1#5, 2#5, 0#5, 4096, false, false, false, false, false, false, false, 0, 0⟩,
    .vfma ⟨0, 0⟩ ⟨1#5, 2#5, 0#5, 8, false, false, false, false, false, false, false, 1, 0⟩, .vexp ⟨48, 0⟩ ⟨1#5, 2#5, 0#5, 8, false, false, false, false, false, false, false, 0, 0⟩,
    .vexp ⟨0, 0⟩ ⟨1#5, 2#5, 0#5, 4096, false, false, false, false, false, false, false, 0, 0⟩, .vexp ⟨0, 0⟩ ⟨1#5, 2#5, 3#5, 8, false, false, false, false, false, false, false, 0, 0⟩,
    .vexp ⟨0, 0⟩ ⟨1#5, 2#5, 0#5, 8, false, false, false, false, false, false, false, 1, 0⟩, .vrsq ⟨48, 0⟩ ⟨1#5, 2#5, 0#5, 8, false, false, false, false, false, false, false, 0, 0⟩,
    .vrsq ⟨0, 0⟩ ⟨1#5, 2#5, 0#5, 4096, false, false, false, false, false, false, false, 0, 0⟩, .vrsq ⟨0, 0⟩ ⟨1#5, 2#5, 3#5, 8, false, false, false, false, false, false, false, 0, 0⟩,
    .vrsq ⟨0, 0⟩ ⟨1#5, 2#5, 0#5, 8, false, false, false, false, false, false, false, 1, 0⟩, .vsig ⟨48, 0⟩ ⟨1#5, 2#5, 0#5, 8, false, false, false, false, false, false, false, 0, 0⟩,
    .vsig ⟨0, 0⟩ ⟨1#5, 2#5, 0#5, 4096, false, false, false, false, false, false, false, 0, 0⟩, .vsig ⟨0, 0⟩ ⟨1#5, 2#5, 3#5, 8, false, false, false, false, false, false, false, 0, 0⟩,
    .vsig ⟨0, 0⟩ ⟨1#5, 2#5, 0#5, 8, false, false, false, false, false, false, false, 1, 0⟩, .vred ⟨48, 0⟩ ⟨1#5, 2#5, 0#5, 8, false, false, false, false, false, false, false, 0, 0⟩,
    .vred ⟨0, 0⟩ ⟨1#5, 2#5, 0#5, 4096, false, false, false, false, false, false, false, 0, 0⟩, .vred ⟨0, 0⟩ ⟨1#5, 2#5, 3#5, 8, false, false, false, false, false, false, false, 0, 0⟩,
    .vred ⟨0, 0⟩ ⟨1#5, 2#5, 0#5, 8, false, false, false, false, true, false, false, 0, 0⟩, .vred ⟨0, 0⟩ ⟨1#5, 2#5, 0#5, 8, false, false, false, false, false, false, false, 2, 0⟩,
    .vcvt ⟨48, 0⟩ ⟨1#5, 2#5, 0#5, 8, false, false, false, false, false, false, false, 0, 0⟩, .vcvt ⟨0, 0⟩ ⟨1#5, 2#5, 0#5, 4096, false, false, false, false, false, false, false, 0, 0⟩,
    .vcvt ⟨0, 0⟩ ⟨1#5, 2#5, 3#5, 8, false, false, false, false, false, false, false, 0, 0⟩, .vcvt ⟨0, 0⟩ ⟨1#5, 2#5, 0#5, 8, false, false, false, false, true, false, false, 0, 0⟩,
    .vcvt ⟨0, 0⟩ ⟨1#5, 2#5, 0#5, 8, false, false, false, false, false, false, false, 8, 0⟩, .mgpush ⟨48, 0⟩ 1#5 1#5 0 0, .mgpush ⟨0, 0⟩ 1#5 1#5 16 0, .mgpush ⟨0, 0⟩ 1#5 1#5 0 8,
    .mgpushEnd ⟨48, 0⟩ 1#5 1#5 0 0, .mgpushEnd ⟨0, 0⟩ 1#5 1#5 16 0, .mgpushEnd ⟨0, 0⟩ 1#5 1#5 0 8, .mgdrainOpen ⟨48, 0⟩ 1#5 0, .mgdrainOpen ⟨0, 0⟩ 1#5 8, .mgdrainWait ⟨48, 0⟩ 1#5 1#5 0 0,
    .mgdrainWait ⟨0, 0⟩ 1#5 1#5 16 0, .mgdrainWait ⟨0, 0⟩ 1#5 1#5 0 8, .pdqQuery ⟨48, 0⟩ 1#5 1#5 0, .pdqQuery ⟨0, 0⟩ 1#5 1#5 8, .pdqPrefetch ⟨48, 0⟩ 1#5 0, .pdqPrefetch ⟨0, 0⟩ 1#5 8,
    .upsign ⟨48, 0⟩ 1#5 0, .upsign ⟨0, 0⟩ 1#5 8, .upvote ⟨48, 0⟩ 1#5 0] : List Instr), c.wf = false := by decide

/-- One ill-formed term for each check of a constructor. -/
theorem test_ill_formed_6 :
    ∀ c ∈ ([
    .upvote ⟨0, 0⟩ 1#5 8, .engineCommandStart ⟨48, 0⟩ .str, .engineCommandComplete ⟨48, 0⟩ .str, .gatherFactorChoice ⟨48, 0⟩, .stationaryLoad ⟨48, 0⟩, .blockListFetch 52 0,
    .blockListFetch 0 16, .transferStart 52 0, .transferStart 0 16, .transferComplete 52 0, .neuronListReady 52 0, .neuronListReady 0 16, .mergeResultWrite 16, .mergeJobComplete 16,
    .fmemHostFill 52, .fmemHostCopy 52, .fmemHostOpDone 52, .fmemGateRequest 52 0, .fmemGateRequest 0 32, .fmemGateCancel 52 0, .fmemGateCancel 0 32, .fmemWake 52 0, .fmemWake 0 32,
    .bankGated 52 0, .bankGated 0 32, .gateForced 52 0, .gateForced 0 32, .bankWakeDone 52 0, .bankWakeDone 0 32, .migrateCmd 64, .permutationLoad 4 0, .portEnable 8, .portDisable 8,
    .signalDetected 8, .trainDone 8, .alignDone 8, .bringupTimeout 8, .bringupRetry 8, .exchange 8 0 0 0 0, .exchange 0 0 0 3 0, .delayProbe 8 0, .delayEcho 8 0, .tickField 8 0,
    .laneLost 8 0, .swapReq 8 0 0] : List Instr), c.wf = false := by decide

/-- One ill-formed term for each check of a constructor. -/
theorem test_ill_formed_7 :
    ∀ c ∈ ([
    .swapAck 8 0 0, .fecFailure 8, .dataFlit 8 [], .idleFlit 8 [], .ackTimeout 8, .packetTransmit 8 0, .packetTransmit 0 3, .writePkt 8, .readPkt 8, .respPkt 8, .postPkt 8, .mergePkt 8,
    .mergeEndPkt 8, .readTimeout 65536, .mcastStall 8 0, .mcastStall 0 3, .qpEnable 64, .qpDisable 64, .qpDrained 64, .sqTail 64 0, .cqHead 64 0, .sqFetch 64, .nopCmd 64, .badCommand 64,
    .revoke .pcie 2 0 [] [], .revoke .pcie 0 4 [] [], .facetUe 52 .vector 0, .fmemUe 52 0 none, .fmemUe 0 0 (some ⟨48, 0⟩), .stsUe 0 (some ⟨48, 0⟩), .farUe 0 (some ⟨48, 0⟩), .prismUe 4,
    .streamEngineUe 52, .updateUe 4, .tableUe ⟨48, 0⟩, .shadowCheckEnd 4 ⟨[], []⟩ false, .skewOverrun 4, .avsCurrentRead 4 0, .facetSwapDone 4 []] : List Instr), c.wf = false := by decide

/-- One ill-formed operand for each check of a shared operand. -/
theorem test_ill_formed_operands :
    (Who.mk 48 0).wf = false ∧ (Who.mk 0 2).wf = false ∧ (ChanName.mk 256 0).wf = false ∧ (ChanName.mk 0 32).wf = false
      ∧ (AluArgs.mk true 1#5 2#5 3#5 0#32).wf = false ∧ (AluArgs.mk false 1#5 2#5 3#5 1#32).wf = false
      ∧ (AluArgs.mk false 1#5 2#5 1#5 0#32).wfUnary = false ∧ (AluArgs.mk false 1#5 2#5 0#5 1#32).wfUnary = false
      ∧ (StrmArgs.mk 0#5 1#5 2#5 16 0 0 false true false).wf = false ∧ (StrmArgs.mk 0#5 1#5 2#5 0 64 0 false true false).wf = false
      ∧ (StrmArgs.mk 0#5 1#5 2#5 0 0 8192 false true false).wf = false ∧ (StrmArgs.mk 1#5 1#5 2#5 0 0 0 false false false).wf = false
      ∧ (StrmArgs.mk 0#5 1#5 2#5 0 1 0 false false false).wf = false ∧ (StrmArgs.mk 0#5 1#5 2#5 0 0 1 false false false).wf = false
      ∧ (VecArgs.mk 1#5 2#5 3#5 4096 false false false false false false false 0 0).wf = false ∧ (VecArgs.mk 1#5 2#5 3#5 0 false false false false false false false 0 8).wf = false
      ∧ (VecArgs.mk 1#5 2#5 3#5 0 false false false false false false false 0 0).noB = false ∧ (VecArgs.mk 1#5 2#5 0#5 0 false false true false false false false 0 0).noB = false
      ∧ (VecArgs.mk 1#5 2#5 0#5 0 false false false true false false false 0 0).noB = false ∧ (VecArgs.mk 1#5 2#5 0#5 0 false false false false false true false 0 0).noB = false
      ∧ (VecArgs.mk 1#5 2#5 0#5 0 false false false false false false true 0 0).noB = false := by decide

/-- What the spec gives for reset: the cold standby part, no command waiting, no memory listed. -/
theorem test_reset :
    State.reset.pending = [] ∧ State.reset.fmem = [] ∧ State.reset.sts = [] ∧ State.reset.far = [] ∧ State.reset.seq.inFrame = false
      ∧ fget State.reset Fld.glbStatus_MAINREADY = 0 ∧ fget State.reset Fld.fsqCtl_RUN = 0 := by decide

/-! ### A small part that runs one task -/

/-- An image with one task and one channel. -/
def tTask : TaskEntry :=
  { lf := 0, id := 1, kind := 0, flags := 0, release := 0, wcl := 1000, entry := 0, wdog := 0, slotFirst := 0, slotCount := 0, xwcl := 0 }

def tChan : ChanEntry :=
  { consumer := 0, index := 0, slots := 1, slotBytes := 64, fullSem := 8, emptySem := 9, prodTask := 1, consTask := 1
    bankA := 0x100, bankB := 0x140, record := 0x180 }

def tImage : Image :=
  { control := [], id := 7, level := 1, period := 0, imemOff := 0, tasks := [tTask], imemUsed := [1], fmemUsed := [0x1000]
    slots := [], allocs := [⟨0, 0x10000, 0⟩], windows := [], sems := [(5, 0)], chans := [tChan], waits := [], consumes := [], demand := [] }

/-- The main domain serves, logical facet 0 is physical facet 0, and a frame runs whose tick was at cycle 100. -/
def tPart : State :=
  { State.reset with
    now := 200
    regs := [(Fld.glbStatus_MAINREADY.key, 1), ((Fld.rpmFmap_PFACET 0).key, 0)]
    seq := { Sequencer.reset with active := some tImage, inFrame := true, lastTick := 100, tasks := [⟨tTask, .running, 0, 0, 0, 0⟩] }
    hif := { HostIf.reset with bme := true }, power := { Power.reset with phase := .running, hifReset := false } }

/-- The same with every logical facet mapped to the physical facet of its number. -/
def tMapped : State := (List.range 48).foldl (fun s l => fset s (Fld.rpmFmap_PFACET l) l) tPart

/-- Context 0 of facet 0 runs task 1, with the given registers. -/
def tRun (regs : SMap Word) : State :=
  modCtx tPart ⟨0, 0⟩ (fun c => { c with task := some 1, regs := regs })

/-- The same context waits. -/
def tWait (x : Wait) : State := modCtx (tRun []) ⟨0, 0⟩ (fun c => { c with wait := x })

def tw : Who := ⟨0, 0⟩

/-- The next state that a command or a step answers. -/
def tNext (r : Res) : Option State :=
  match r with
  | .next t => some t
  | _ => none

/-- Witness of `IdleStepPassesOneCycle`. -/
theorem test_idle_pending : State.reset.pending = [] := by decide

/-- Witness of `CommandsKeepTheQueueAndTheClock`. -/
theorem test_some_next : tNext (exec .hardLimit State.reset) = some State.reset := by decide

/-- Witness of `EveryStepKeepsMemoriesCanonical`. -/
theorem test_canonical_step : Canonical State.reset = true ∧ step State.reset = .next (idle State.reset) := ⟨by decide, rfl⟩

/-- Witness of `IntegerInstructionsCompute`: register and unary forms, with `a = 0` for 32 zeros. -/
theorem test_integer_issue :
    (AluArgs.mk false 3#5 1#5 2#5 0#32).wf = true ∧ issues (tRun [(1, 6#32), (2, 3#32)]) tw (aluSrcs ⟨false, 3#5, 1#5, 2#5, 0#32⟩ false false) [3#5] = true
      ∧ (AluArgs.mk false 3#5 1#5 0#5 0#32).wfUnary = true ∧ issues (tRun []) tw (aluSrcs ⟨false, 3#5, 1#5, 0#5, 0#32⟩ false true) [3#5] = true := by decide

theorem test_integer_zeros : ZerosFrom 0#32 (31 - ·) 32 ∧ ZerosFrom 0#32 id 32 := by
  unfold ZerosFrom; decide

/-- Witness of `FpInstructionsCompute`: the immediate form of FMA. -/
theorem test_fp_issue :
    (AluArgs.mk true 3#5 1#5 0#5 0x3F800000#32).wf = true
      ∧ issues (tRun []) tw (aluSrcs ⟨true, 3#5, 1#5, 0#5, 0x3F800000#32⟩ true false) [3#5] = true
      ∧ issues (tRun []) tw (aluSrcs ⟨true, 3#5, 1#5, 0#5, 0x3F800000#32⟩ false false) [3#5] = true
      ∧ (AluArgs.mk true 3#5 1#5 0#5 0#32).wfUnary = true ∧ issues (tRun []) tw (aluSrcs ⟨true, 3#5, 1#5, 0#5, 0#32⟩ false true) [3#5] = true := by decide

/-- Witness of `JumpsAndBranches`: a target that is a multiple of 8, a loop's last turn and another. -/
theorem test_jump_issue :
    issues (tRun []) tw [] [3#5] = true ∧ ((ctxOf (tRun []) tw).pc + (16#32).toNat) % 2 ^ 32 % 8 = 0
      ∧ issues (tRun [(1, 8#32)]) tw [1#5] [3#5] = true ∧ (rget (tRun [(1, 8#32)]) tw 1#5 + 16#32).toNat % 8 = 0
      ∧ issues (tRun [(1, 8#32)]) tw [1#5, 2#5] [] = true ∧ rget (tRun [(1, 8#32)]) tw 1#5 ≠ rget (tRun [(1, 8#32)]) tw 2#5
      ∧ issues (tRun [(1, 8#32)]) tw [1#5] [1#5] = true ∧ rget (tRun [(1, 8#32)]) tw 1#5 ≠ 1#32 ∧ rget (tRun [(1, 1#32)]) tw 1#5 = 1#32
      ∧ issues (tRun [(1, 1#32)]) tw [1#5] [1#5] = true := by decide

/-- DBNZ's last turn falls through with 0 in its register. -/
theorem test_dbnz_falls_through :
    tNext (exec (.dbnz tw 1#5 16#32) (tRun [(1, 1#32)])) = some (rput (advance (tRun [(1, 1#32)]) tw 1) tw 1#5 0#32 1) := by decide

/-- Witness of `BadTargetsAndFetchesAbort`: a pc at the end of 256 bytes of instruction memory, a target of 4, a branch not taken. -/
theorem test_fetch_end :
    canIssue (modCtx (tRun []) tw (fun c => { c with pc := 256 })) tw = true
      ∧ imemLimit (modCtx (tRun []) tw (fun c => { c with pc := 256 })) 0 ≤ (ctxOf (modCtx (tRun []) tw (fun c => { c with pc := 256 })) tw).pc
      ∧ ((ctxOf (tRun []) tw).pc + (4#32).toNat) % 2 ^ 32 % 8 ≠ 0 ∧ (rget (tRun [(1, 4#32)]) tw 1#5 + 0#32).toNat % 8 ≠ 0
      ∧ condHolds .ne (rget (tRun []) tw 1#5) (rget (tRun []) tw 2#5) = false ∧ condHolds .eq (rget (tRun []) tw 1#5) (rget (tRun []) tw 2#5) = true
      ∧ issues (tRun []) tw [1#5, 2#5] [] = true ∧ whoOf (.tend tw) = some tw := by decide

/-- Witness of `InstructionsWaitForTheirContext`: a context that waits, and one without a task. -/
theorem test_no_issue : canIssue (tWait .tend) tw = false ∧ canIssue tPart tw = false ∧ whoOf (.tend tw) = some tw := by decide

/-- Witness of `IllegalInstructionsAbort`: the all-ones word. -/
theorem test_illegal_word :
    issues (tRun []) tw [] [] = true ∧ decodeInsn tw 0xFFFFFFFFFFFFFFFF#64 = none ∧ badForm 0xFFFFFFFFFFFFFFFF#64 = none
      ∧ downstream (tRun []) 1 = [] ∧ (taskRec (tRun []) 1).map (·.entry.who) = some tw ∧ (ctxOf (tRun []) tw).express = none := by decide

/-- Witness of `WaittAndItsTarget`: TCYC is 100. -/
theorem test_waitt :
    issues (tRun []) tw [1#5] [] = true ∧ (rget (tRun []) tw 1#5 + 100#32).toNat ≤ tcyc (tRun []) ∧ tcyc (tRun []) < (rget (tRun []) tw 1#5 + 101#32).toNat
      ∧ (ctxOf (tWait (.tcyc 100#32)) tw).wait = .tcyc 100#32 ∧ (100#32).toNat ≤ tcyc (tWait (.tcyc 100#32)) := by decide

/-- Witness of `SpecialRegistersReadAndWrite`: a task without slots. -/
theorem test_special_issue :
    entryOf (tRun []) tw = some tTask ∧ issues (tRun []) tw [] [3#5] = true ∧ issues (tRun []) tw [1#5] [] = true
      ∧ slotCnt tTask ≤ (ctxOf (tRun []) tw).slotSel := by decide

/-- MTSR drops the bits above 11. -/
theorem test_mtsr_cut : ∃ t, exec (.mtsr tw 1#5 0x20) (tRun [(1, 0xF005#32)]) = .next t ∧ (ctxOf t tw).slotSel = 5 := ⟨_, rfl, by decide⟩

/-- Witness of `NarrowAccesses`: the last word below FMEM_USED, and the first beyond. -/
theorem test_narrow_reach :
    issues (tRun []) tw [1#5] [3#5] = true ∧ issues (tRun []) tw [1#5, 2#5] [] = true
      ∧ (0xFFC % 4 = 0 ∧ 0xFFC + 4 ≤ fmemUsed (tRun []) 0 ∧ heldFacet (tRun []) 0 = false
        ∧ ∀ i < 4, gatedAt (tRun []) (physOf (tRun []) 0) (0xFFC + i) = false ∧ wakingAt (tRun []) (physOf (tRun []) 0) (0xFFC + i) = false)
      ∧ fmemUsed (tRun []) 0 < 0x1000 + 4 ∧ awake (tRun []) 0 [0x1000] = true := by decide

/-- ST.W lays its register out little-endian. -/
theorem test_stW_bytes : ∃ t, exec (.stW tw 0#5 2#5 0x20#32) (tRun [(2, 0x11223344#32)]) = .next t ∧ t.fmem = [(0x20, 0x44#8), (0x21, 0x33#8), (0x22, 0x22#8), (0x23, 0x11#8)] :=
  ⟨_, rfl, by decide⟩

/-- Witness of `FillsAndCopies`: no bank is gated or wakes. -/
theorem test_fill_issue :
    issues (tRun [(2, 8#32)]) tw [1#5, 2#5] [] = true ∧ heldFacet (tRun [(2, 8#32)]) 0 = false ∧ (tRun [(2, 8#32)]).wakes = []
      ∧ fget (tRun [(2, 8#32)]) (Fld.fmemGated_STATE (physOf (tRun [(2, 8#32)]) 0)) = 0
      ∧ (ctxOf (tWait (.memOp ⟨200, 0x10, none, 4, [1#8, 2#8, 1#8, 2#8], []⟩)) tw).wait = .memOp ⟨200, 0x10, none, 4, [1#8, 2#8, 1#8, 2#8], []⟩ := by decide

/-- Witness of `SemaphoreInstructions`: semaphore 5 is declared; a grant of the last count is there. -/
theorem test_sem_issue :
    issues (tRun [(1, 5#32), (2, 1#32)]) tw [1#5, 2#5] [3#5] = true ∧ issues (tRun [(1, 5#32), (2, 65535#32)]) tw [1#5, 2#5] [] = true
      ∧ semDeclared (tRun []) 5 = true ∧ semOfChan (tRun []) 5 = false ∧ semRoom (tRun []) tw 5 = true
      ∧ grantFor { tWait (.sem 3#5) with grants := [⟨0, 0, 1, .wait, 5, 0, true, 200⟩] } tw [.wait, .tryTake] = some ⟨0, 0, 1, .wait, 5, 0, true, 200⟩
      ∧ fenceNow (tRun []) tw = true ∧ fenceNow (modCtx (tRun []) tw (fun c => { c with storeAt := 202 })) tw = false := by decide

/-- A semaphore in quadrant 1 is 24 cycles away. -/
theorem test_sem_travel : (semMsg (tRun []) tw 1 1024 1 .post).arrive = 224 ∧ (semMsg (tRun []) tw 1 1023 1 .post).arrive = 204 := by decide

/-- Witness of `SemaphoreAppliesMessages`: task 1 runs; a post to a count of 65 534, a wait for 1 of 1 and for 2 of 1. -/
theorem test_sem_ready :
    semReady { tPart with sems := [(5, ⟨65534, []⟩)], semMsgs := [⟨5, .post, 1, 0, 0, 1, 196⟩] } 5 = [⟨5, .post, 1, 0, 0, 1, 196⟩]
      ∧ semReady { tPart with sems := [(5, ⟨1, []⟩)], semMsgs := [⟨5, .wait, 1, 0, 0, 1, 196⟩] } 5 = [⟨5, .wait, 1, 0, 0, 1, 196⟩]
      ∧ semReady { tPart with sems := [(5, ⟨1, []⟩)], semMsgs := [⟨5, .tryTake, 2, 0, 0, 1, 196⟩] } 5 = [⟨5, .tryTake, 2, 0, 0, 1, 196⟩]
      ∧ sinkPush tPart ⟨5, .wait, 2, 0, 0, 1, 196⟩ = false ∧ (ctxOf (tRun []) ⟨0, 0⟩).task = some 1 := by decide

/-- A message that has not been there for four cycles is not applied. -/
theorem test_sem_early : semReady { tPart with semMsgs := [⟨5, .post, 1, 0, 0, 1, 197⟩] } 5 = [] := by decide

/-- Witness of `ArrivalCounterInstructions`: counter 63 holds 0; targets 0 and 1. -/
theorem test_counter_issue :
    issues (tRun [(1, 1#32)]) tw [1#5, 2#5] [3#5] = true ∧ (0#32 - (rget (tRun [(1, 1#32)]) tw 1#5 + rget (tRun [(1, 1#32)]) tw 2#5)).toInt < 0
      ∧ 0 ≤ (BitVec.ofNat 32 (fget (tRun []) (Fld.fmemArr_COUNT (physOf (tRun []) 0) 63)) - (rget (tRun []) tw 1#5 + rget (tRun []) tw 2#5)).toInt
      ∧ issues (tRun []) tw [] [] = true ∧ arrived (tRun []) (Fld.fmemArr_COUNT 0 63) = 0 ∧ (ctxOf (tWait (.counter 3#5 63 0#32)) tw).wait = .counter 3#5 63 0#32 := by decide

/-- Witness of `ChannelInstructions`: task 1 produces and consumes channel 0 of facet 0; a length of one slot. -/
theorem test_channel_issue :
    chanDecl (tRun []) (chanKey ⟨0, 0⟩) = some tChan ∧ (ChanName.mk 0 0).wf = true ∧ tChan.prodTask = taskId (tRun []) tw ∧ tChan.consTask = taskId (tRun []) tw
      ∧ issues (tRun []) tw [] [3#5, 4#5] = true ∧ semRoom (tRun []) tw 9 = true ∧ commitRoom (tRun []) tw ⟨0, 0⟩ = true ∧ (thisCycle (tRun [])).chans = []
      ∧ issues (tRun [(1, 64#32)]) tw [1#5] [] = true ∧ (rget (tRun [(1, 64#32)]) tw 1#5).toNat ≤ tChan.slotBytes
      ∧ tChan.prodTask ≠ taskId (modCtx (tRun []) tw (fun c => { c with task := some 2 })) tw
      ∧ issues (modCtx (tRun []) tw (fun c => { c with task := some 2 })) tw [] [3#5] = true := by decide

/-- A part whose channel 0 of facet 0 is in the given state. -/
def tChanState (c : Chan) (x : Wait) (gs : List Grant) : State := { tWait x with chans := [(0, c)], grants := gs }

/-- Witness of `ChannelEvents`: each event has its cause. -/
theorem test_channel_events :
    chanDecl (tChanState .fresh .none []) (chanKey ⟨0, 0⟩) = some tChan
      ∧ grantFor (tChanState .fresh (.push 3#5 0) [⟨0, 0, 1, .push, 9, 0, true, 200⟩]) tw [.push] = some ⟨0, 0, 1, .push, 9, 0, true, 200⟩
      ∧ grantFor (tChanState { Chan.fresh with visible := [(0, 4)] } (.acquire 3#5 4#5 0) [⟨0, 0, 1, .acquire, 8, 0, true, 200⟩]) tw [.acquire] = some ⟨0, 0, 1, .acquire, 8, 0, true, 200⟩
      ∧ (chanOf (tChanState { Chan.fresh with res := [⟨0, 4, some 4, 199⟩] } .none []) 0).prodEnded = false
      ∧ flightDone (tChanState .fresh .none []) ⟨[], [], 199⟩ = true ∧ (chanOf (tChanState .fresh .none []) 0).dirty = true := by decide

/-- The second reservation lies in bank B, the third in bank A again. -/
theorem test_slots : slotAddr tChan 1 = 0x140 ∧ slotAddr tChan 2 = 0x100 := by decide

/-- A part without channels whose task waits at TEND. -/
def tTend : State := modSeq (tWait .tend) (fun q => { q with active := some { tImage with chans := [] } })

/-- Witness of `FenceAndTend`. -/
theorem test_tend_due :
    issues (tRun []) tw [] [] = true ∧ fenceNow (tRun []) tw = true ∧ fenceNow (modCtx (tRun []) tw (fun c => { c with storeAt := 202 })) tw = false
      ∧ tendDue tTend tw = true ∧ deferred tTend 0 = false ∧ chanDecls tTend = [] ∧ (ctxOf tTend tw).task = some 1 ∧ (taskRec tTend 1).isSome = true
      ∧ (engineOf tTend 0).streams = [] ∧ (engineOf tTend 48).transfers = [] ∧ (ctxOf (tWait .fence) tw).storeAt ≤ (tWait .fence).now := by decide

/-- Witness of `EngineInstructionsQueueTheirCommand`: CMODE with GMAX 4; fifteen and sixteen commands waiting. -/
theorem test_engine_issue :
    (Instr.cmode tw 4 0).wf = true ∧ issues (tRun []) tw [] [0#5, 0#5] = true
      ∧ ((List.replicate 16 (newCmd 0 .lat (.cmode 4) 0 0#5 0#5 200 0)).filter (fun c => decide (c.queue = .lat) && c.started.isNone)).length = 16
      ∧ issues (modCtx (tRun []) tw (fun c => { c with cmds := List.replicate 16 (newCmd 0 .lat (.cmode 4) 0 0#5 0#5 200 0) })) tw [] [0#5, 0#5] = true := by decide

/-- A context with one command in the LAT queue. -/
def tCmd (c : ECmd) : State := modCtx (tRun []) tw (fun x => { x with cmds := [c] })

/-- Witness of `CommandsStartAndComplete`: a CMODE issued two cycles ago; a query that is ready. -/
theorem test_cmd_due :
    (startDue (tCmd (newCmd 0 .lat (.cmode 4) 0 0#5 0#5 198 0)) tw .lat).isSome = true
      ∧ startDue (tCmd (newCmd 0 .lat (.cmode 4) 0 0#5 0#5 199 0)) tw .lat = none
      ∧ (doneCmd (tCmd { newCmd 0 .prd (.query 0#32) 0 3#5 0#5 190 0 with started := some 195, ready := true, doneAt := 200, result := 9#32 }) tw .prd).isSome = true
      ∧ updateQueue (tRun []) 0 = [] ∧ ctxBusy (tRun []) tw = true := by decide

/-- Witness of `ChosenFactorHasFewestPasses`: all factors are candidates of a span of eight tiles. -/
theorem test_candidates : candidates 8 8 = [1, 2, 4, 8] ∧ candidates 4 2 = [1, 2] ∧ fits [] 8 = true := by decide

/-- A context whose LLOAD of one tile waits, its Lattice in the given state. -/
def tLoad (l : Machine.Lat) : State :=
  modLat (tCmd { newCmd 0 .lat (.lload 1 128 0 false) 0 0#5 0#5 190 0 with started := some 195 }) tw (fun _ => l)

def tSpan : Span :=
  { seq := 0, n := 1, kp := 128, fmt := 0, hi := false, tiles := [], groups := [], todo := [], passes := 0, chosen := false, kzero := false, fresh := true
    cur := (0, 0), seen := 0 }

/-- A span of one group with one pass to load. -/
def tChosen : Span := { tSpan with chosen := true, groups := [⟨0, 1, 1⟩], todo := [(0, 0)], passes := 1 }

/-- Witness of `CompactorChoosesAndLoads`: a header has come; a chosen span with one pass in bank 0. -/
theorem test_compactor_due :
    (latCurrent (tLoad Machine.Lat.empty) tw).isSome = true
      ∧ choiceDue (tLoad { Machine.Lat.empty with span := some tSpan, tilesIn := [⟨0, 0, [], 32⟩] }) tw = some tSpan
      ∧ loadDue (tLoad { Machine.Lat.empty with span := some tChosen, banks := [⟨0, 0, 0, []⟩] }) tw = some (tChosen, 0, 0, 0) := by decide

/-- A part whose facet engine 0 holds one stream on handle 0. -/
def tStream (x : Stream) : State := modEngine tPart 0 (fun g => { g with streams := [(0, x)] })

def tOpen : Stream :=
  { lf := 0, ctx := 0, task := 1, state := 1, done := 0, rate := 1, next := 0x40, entries := [], ended := false, compress := false, list := none
    groups := none, lastWalk := 0, fed := [], endedAt := 0, moved := 0, movedAt := none, burstAt := 100 }

/-- Witness of `StreamsFetchAndReadLists`: an END entry of zeros at 0x40; a list whose counter stands at its target. -/
theorem test_stream_fetch :
    streamOf (tStream tOpen) 0 0 = some tOpen ∧ tOpen.burstAt + stsLatency 0 0x40 ≤ (tStream tOpen).now ∧ (engineOf (tStream tOpen) 0).transfers = []
      ∧ inAnyAlloc (tStream tOpen) 0x40 64 = true ∧ memRead (tStream tOpen).sts 0x40 = 0#8
      ∧ awake (tStream tOpen) 0 (listAddrs (tStream tOpen) 0 0x80) = true
      ∧ 0 ≤ (BitVec.ofNat 32 (fget (tStream tOpen) (Fld.fmemArr_COUNT (physOf (tStream tOpen) 0) 5)) - 0#32).toInt := by decide

/-- A descriptor of 16 bytes at 0 in a space, which a COPY may write. -/
def tTd (space : Nat) : List Byte :=
  [0#8, BitVec.ofNat 8 space, 0#8, 1#8, 1#8, 0#8, 0#8, 0#8] ++ leBytes 4 0 ++ leBytes 4 64 ++ leBytes 4 0 ++ leBytes 4 0
    ++ leBytes 2 16 ++ leBytes 2 0 ++ leBytes 4 1 ++ List.replicate 32 0#8

/-- A COPY of 16 elements from facet memory to the State Store. -/
def tCopy : BEntry :=
  { addr := 0x40, raw := [1#8, 0#8, 0#8, 0#8, 0#8, 0#8, 0#8, 0#8] ++ leBytes 4 0 ++ leBytes 4 0 ++ leBytes 4 16 ++ List.replicate 44 0#8
    src := some (tTd 0), dst := some (tTd 1), left := 1, piece := 0, clipped := false, inAlloc := true }

def tMove : Transfer :=
  { newTransfer (tStream tOpen) 0 0 tOpen tCopy with data := [7#8], writes := [(0x40, 7#8)], dest := .sts, doneAt := 200 }

/-- Witness of `CopiesReadAndDeliver`: a COPY that may start, an entry outside every allocation, a transfer of one byte that is due. -/
theorem test_copy_start :
    mayStart (tStream { tOpen with entries := [tCopy] }) 0 0 { tOpen with entries := [tCopy] } = true ∧ wantedTile (tStream { tOpen with entries := [tCopy] }) 0 0 = none
      ∧ winsRequest (tStream { tOpen with entries := [tCopy] }) 0 0 { tOpen with entries := [tCopy] } = true
      ∧ placeFor (tStream { tOpen with entries := [tCopy] }) 0 0 { tOpen with entries := [tCopy] } = true
      ∧ entryBad 0 0 false tCopy = false ∧ tCopy.op = 1 ∧ tCopy.xform = 0 ∧ tCopy.srcTd.kind = 0 ∧ tCopy.dstTd.kind = 0 := by decide

theorem test_copy_bad : mayStart (tStream { tOpen with entries := [{ tCopy with inAlloc := false }] }) 0 0 { tOpen with entries := [{ tCopy with inAlloc := false }] } = true
    ∧ entryBad 0 0 false { tCopy with inAlloc := false } = true := by decide

theorem test_transfer_due : performable (modEngine (tStream tOpen) 0 (fun g => { g with transfers := [tMove] })) 0 tMove = true := by decide

/-- A COPY of 16 bytes delivers all of them. -/
theorem test_copy_count : copyCount tCopy = (16, false) := by decide

/-- A job of packed results whose one producer, leaf 0, has ended. -/
def tJob : Job :=
  { newJob tw 1 ([0#8, 0#8, 0#8, 0#8] ++ leBytes 2 16 ++ leBytes 2 0 ++ leBytes 8 1 ++ List.replicate 48 0#8) (tTd 1) with
    leaves := [(0, { Leaf.empty with ended := true })] }

/-- Witness of `MergeResultsAndEnd`: a result of key 3 that is due; a job with nothing left. -/
theorem test_merge_due :
    resultDue tPart { tJob with out := [(200, ⟨3, 1, 0#32, 0#32, [1#32]⟩)] } = some ⟨3, 1, 0#32, 0#32, [1#32]⟩ ∧ tJob.records = 0 ∧ tJob.allEnded = true
      ∧ tJob.out = [] ∧ tJob.fed = [] ∧ (Td.kind tJob.td = 0 ∧ Td.space tJob.td = 1 ∧ Td.rangeLen tJob.td = 64) := by decide

/-- A part whose Predictor serves a query of task 1, for a list of no index. -/
def tQuery : State :=
  { tCmd { newCmd 7 .prd (.query 0#32) 0 3#5 0#5 190 0 with started := some 195, image := List.replicate 48 0#8 } with
    predictor := { Predictor.reset with queue := [⟨0, 0, 1, 7, List.replicate 32 0#8⟩], running := some .query } }

/-- Witness of `PredictorLoadsAndServes`: a load of the set at 0; a query under service, and one to begin whose set is resident. -/
theorem test_predictor_due :
    loadTime tPart 0 = 0 ∧ residentHalf Predictor.reset 0 = none
      ∧ (residentHalf { Predictor.reset with half0 := ⟨true, 0, 0, []⟩ } (qSet (List.replicate 32 0#8))).isSome = true
      ∧ ((ctxOf tQuery tw).cmds.find? (fun c => c.seq = 7)).isSome = true ∧ tQuery.wakes = [] ∧ heldFacet tQuery 0 = false
      ∧ fget tQuery (Fld.fmemGated_STATE (physOf tQuery 0)) = 0 := by decide

/-- Witness of `PermutationsLoadAndAreStored`: the reset buffer names lane 0 in every place. -/
theorem test_perm_due : hostUp tPart = true ∧ tPart.permLoad = none ∧ (bufferLanes tPart).eraseDups.length ≠ 128 := by decide

/-- Witness of `HostWritesThroughTheFacetWindow`: the last word of facet memory, and the first of instruction memory. -/
theorem test_window : hostUp tPart = true ∧ gatedAt tPart 51 0x7FFFC = false ∧ wakingAt tPart 51 0x7FFFF = false ∧ 0x7FFFC % 4 = 0 ∧ 0x80000 % 8 = 0 := by decide

/-- Witness of `HostFillsAndCopiesFacetMemory`: a fill of nothing; one whose length exceeds the memory; a fill that is over. -/
theorem test_host_op :
    fget tPart (Fld.fmemGated_STATE 0) = 0 ∧ fget tPart (Fld.fmemOpstat_STATE 0) ≠ 1 ∧ 4 * fget tPart (Fld.fmemOpdst_ADDR 0) + 4 * fget tPart (Fld.fmemOplen_LEN 0) ≤ 0x80000
      ∧ ¬(4 * fget (fset (fset tPart (Fld.fmemOplen_LEN 0) 0x1FFFF) (Fld.fmemOpdst_ADDR 0) 0x1FFFF) (Fld.fmemOpdst_ADDR 0)
          + 4 * fget (fset (fset tPart (Fld.fmemOplen_LEN 0) 0x1FFFF) (Fld.fmemOpdst_ADDR 0) 0x1FFFF) (Fld.fmemOplen_LEN 0) ≤ 0x80000)
      ∧ mapFind ({ tPart with memOps := [(0, ⟨200, 0, none, 1, [1#8], []⟩)] }).memOps 0 = some ⟨200, 0, none, 1, [1#8], []⟩ ∧ tPart.wakes = [] := by decide

/-- Witness of `BanksGateAndWake`: bank 31 of facet 51, in each of its states; a host operation pending at bank 0. -/
theorem test_gate_states :
    serving tPart = true ∧ bitsIn (thisCycle tPart).manager (Fld.fmemGate_REQ 51).key = 0 ∧ mapFind tPart.wakes 1663 = none
      ∧ bitSet (fget tPart (Fld.fmemGate_REQ 51)) 31 = false ∧ bitSet (fget tPart (Fld.fmemGated_STATE 51)) 31 = false
      ∧ bitSet (fget (fset tPart (Fld.fmemGate_REQ 51) 0x80000000) (Fld.fmemGate_REQ 51)) 31 = true
      ∧ bitSet (fget (fset tPart (Fld.fmemGated_STATE 51) 0x80000000) (Fld.fmemGated_STATE 51)) 31 = true
      ∧ hostPending { tPart with memOps := [(51, ⟨5000, 0, none, 1, [1#8], []⟩)] } 51 0 = true := by decide

theorem test_gate_quiet : pendingTasks { tMapped with gates := [(1663, 100)] } 51 31 = [] ∧ hostPending tPart 51 31 = false
    ∧ mapFind [(1663, 100)] (32 * 51 + 31) = some 100 := by decide

/-- The banks of a line follow its address bits (R160). -/
theorem test_bankOf : bankOf 0 = 0 ∧ bankOf 0x40 = 1 ∧ bankOf 0x200 = 1 ∧ bankOf 0x20000 = 8 ∧ bankOf 0x7FFFF = 31 := by decide

/-- Witness of `StateStoreAccesses`: INIT_DONE before and after; the last byte below the page table. -/
theorem test_sts_ready :
    hostUp (fset tPart Fld.stsStatus_INITDONE 1) = true ∧ fget (fset tPart Fld.stsStatus_INITDONE 1) Fld.stsStatus_INITDONE ≠ 0
      ∧ 0xBBFFFFFF + [7#8].length ≤ 0xBC000000 ∧ mainUp tPart = true ∧ fget tPart Fld.stsStatus_INITDONE = 0
      ∧ tPart.power.zeroAt + 131072 ≤ ({ tPart with now := 131072 } : State).now ∧ fget tPart Fld.farStatus_INITDONE = 0 := by decide

/-- A part in whose frame a MIGRATE command with one entry runs: its first word and its near frame are given. -/
def tMig (w0 near : Nat) (pages : Mem) : State :=
  { tPart with
    regs := [(Fld.glbStatus_MAINREADY.key, 1), (Fld.farStatus_INITDONE.key, 1), ((Fld.rpmFmap_PFACET 0).key, 0)], sts := pages
    seq := { tPart.seq with active := some { tImage with allocs := [⟨0, 0x10000, 1⟩], windows := [⟨0, 0, 0xFFFF, 0, 100000⟩] }, winOpen := [0] }
    paging := { Paging.reset with migrations := [⟨⟨0, 0, 0, 0, [], 0⟩, nextFrame tPart, 0, [⟨leBytes 4 w0 ++ leBytes 4 near ++ List.replicate 8 0#8, none, false, 0⟩]⟩] } }

/-- Witness of `MigrationEntriesRun`: ZERO_NEAR of page 5 at frame 1; the same at frame 9, outside the allocation; RETAG of an ABSENT page. -/
theorem test_migration_due :
    ((migDue (tMig 0x60000005 1 []) 0 0 6).map (entryFails (tMig 0x60000005 1 []))) = some none
      ∧ ((migDue (tMig 0x60000005 1 []) 0 0 6).map (transfers (tMig 0x60000005 1 []))) = some false
      ∧ ((migDue (tMig 0x60000005 9 []) 0 0 6).map (entryFails (tMig 0x60000005 9 []))) = some (some 3)
      ∧ ((migDue (tMig 0x80000005 0 []) 0 0 8).map (entryFails (tMig 0x80000005 0 []))) = some (some 2) := by decide

/-- Witness of `MigrationCommandsAndCommit`: a MIGRATE for the frame after the next, a frame whose window is over. -/
theorem test_migrate :
    (headCmd (modQp (modHif tPart (fun h => { h with bme := true })) 3 (fun p => { p with fetched := [⟨3, 0, 0, 0, [4#8] ++ List.replicate 15 0#8 ++ leBytes 4 1 ++ leBytes 4 1 ++ List.replicate 40 0#8, 0⟩] })) 3 4).isSome = true
      ∧ framesAhead tPart 1 = 1 ∧ afterCutoff tPart 0 = false ∧ (tMig 0x60000005 1 []).paging.migrations.any (migNow (tMig 0x60000005 1 [])) = true
      ∧ migRunning (tMig 0x60000005 1 []) = [] ∧ moverEnd tPart ≤ tcyc tPart ∧ farBad tPart 0 = false ∧ nearBad tPart 0 = false := by decide

/-- Witness of `PageTableWritesAndRetirement`: frames run or not; a value that names frame 0, which is not usable; a frame that is due and its pool. -/
theorem test_pte_cmd :
    serving tPart = true ∧ runOn tPart = false ∧ runOn (fset tPart Fld.fsqCtl_RUN 1) = true ∧ pteRefused tPart 0 0x80000000 = true ∧ pteRefused tPart 0 0 = false
      ∧ fget tPart Fld.cptPteVpn_VPN < 2 ^ 24 ∧ pteMigrating 0x20000000 = true
      ∧ retireNext (modPaging (fset (tMig 0 0 []) (Fld.farChState_STATE 3) 1) (fun p => { p with retireDue := [(3, 1)] })) = some (3, 1)
      ∧ poolFrame tPart 3 = some 15663107 := by decide

/-- Frames run from a source, the last tick at cycle 100 and its report written. -/
def tTicking (src now : Nat) : State :=
  { fset tPart Fld.fsqCtl_RUN 1 with now := now, seq := { tPart.seq with reported := true, src := src, ran := true } }

/-- Witness of `TicksBeginFrames`: each source, at the limits of its window. -/
theorem test_ticking :
    ticking (tTicking 0 13000100) = true ∧ (tTicking 0 13000100).seq.lastTick + period (tTicking 0 13000100) = 13000100 ∧ (tTicking 0 13000100).seq.runAt < 13000100
      ∧ fget (tTicking 2 13000100) Fld.hifPtmstat_VALID = 0 ∧ fget (tTicking 1 12998800) Fld.chdTickctl_FOLLOW = 0
      ∧ earliestTick (tTicking 1 12998800) = 12998800 ∧ latestTick (tTicking 1 13006600) = 13006600
      ∧ fget (fset (tTicking 2 13000100) Fld.hifPtmstat_VALID 1) Fld.hifPtmstat_VALID ≠ 0 := by decide

/-- Witness of `HostStartsStopsAndSwapsFrames`: RUN 0 and 1, a frame with and without its report, a ring of four buffers with two reports. -/
def tRing : State := fset (fset (fset tPart Fld.fsqRptCfg_BUFS 4) Fld.fsqRptHead_HEAD 2) Fld.fsqRptTail_TAIL 0

theorem test_run_ring :
    hostUp tPart = true ∧ fget tPart Fld.mgtStatus_OFFLINE = 0 ∧ tPart.power.fatal = false ∧ fget tPart Fld.fsqCtl_RUN = 0 ∧ fget (tTicking 0 200) Fld.fsqCtl_RUN ≠ 0
      ∧ tPart.seq.inFrame = true ∧ tPart.seq.reported = false ∧ (tTicking 0 200).seq.reported = true ∧ tPart.power.stopReq = none ∧ fget tPart Fld.fsqSwap_REQ = 0
      ∧ hostUp tRing = true ∧ (2 + 4 - fget tRing Fld.fsqRptTail_TAIL) % 4 ≤ (fget tRing Fld.fsqRptHead_HEAD + 4 - fget tRing Fld.fsqRptTail_TAIL) % 4
      ∧ (fget tRing Fld.fsqRptHead_HEAD + 4 - fget tRing Fld.fsqRptTail_TAIL) % 4 < (3 + 4 - fget tRing Fld.fsqRptTail_TAIL) % 4 := by decide

/-- A part 4 900 cycles into its frame, with one task in the given phase and an express request for it. -/
def tDue (kind : Nat) (p : TaskPhase) : State :=
  let e : TaskEntry := { tTask with kind := kind, wcl := 60000, xwcl := 500 }
  { tPart with
    now := 5000
    seq := { tPart.seq with tasks := [⟨e, p, 0, 0, 0, 0⟩], express := [⟨⟨0, 0, 0, 0, [], 200⟩, 1, 0, []⟩], active := some { tImage with windows := [⟨0, 0, 1, 3000, 9000⟩] } } }

/-- Witness of `TasksAreReleasedAndLimited`: a batch task and an express task that are due. -/
theorem test_release_due :
    releasing (tDue 0 .waiting) = true ∧ 2048 ≤ tcyc (tDue 0 .waiting) ∧ ((taskRec (tDue 0 .waiting) 1).map (fun r => nextInLine (tDue 0 .waiting) r.entry && ctxFreeFor (tDue 0 .waiting) r.entry
      && facetOpen (tDue 0 .waiting) r.entry.lf && decide (r.entry.release ≤ 4900))) = some true
      ∧ physOf (tDue 0 .waiting) 0 ≠ 0x3F ∧ (throttleOf (tDue 0 .waiting) 0).held = false
      ∧ ((tDue 1 .waiting).seq.express.find? (fun y => y.task = 1)).map (fun x => decide (expressStart (tDue 1 .waiting) tTask x ≤ 4900)) = some true
      ∧ (windows (tDue 0 .waiting))[0]? = some ⟨0, 0, 1, 3000, 9000⟩ := by decide

/-- Witness of `TasksAreReleasedAndLimited`: a task that runs past its watchdog, and past the hard limit. -/
theorem test_limits_due :
    ctxBusy (tRun []) tw = true ∧ (taskRec (tRun []) 1).map (fun r => decide (r.phase = .running) && decide (r.entry.who = tw)) = some true
      ∧ (ctxOf (tRun []) tw).startNow + (ctxOf (tRun []) tw).wdog + repairTime (tRun []) ≤ (tRun []).now
      ∧ budget (tDue 0 .running) + 52000 ≤ tcyc { tDue 0 .running with now := 12122600 } ∧ ((tDue 0 .running).seq.tasks.map (·.entry.id)).Nodup := by decide

/-- A part whose queue pair 3 is READY, with bus mastering, a completion ring of 8 places at 0x10000 and a command that stands first. -/
def tQueue (op len frame : Nat) : State :=
  let s := fset (fset (fset tPart (Fld.hifQState_STATE 3) 1) (Fld.hifQCfg_CQSIZE 3) 7) (Fld.hifQCqbLo_BASE 3) 16
  modQp (modHif s (fun h => { h with bme := true })) 3 (fun p => { p with
    fetched := [⟨3, 0, 77, 1, leBytes 1 op ++ [0#8, 77#8, 0#8] ++ List.replicate 4 0#8 ++ leBytes 8 0 ++ leBytes 4 len ++ leBytes 4 frame ++ List.replicate 40 0#8, 0⟩] })

/-- Witness of `FrameCommandsOfTheHost`: each command at the head of the queue; a check under way; a manifest being fetched. -/
theorem test_frame_commands :
    hostUp (tQueue 1 100 0) = true ∧ (headCmd (tQueue 1 100 0) 3 1).map (cplWanted (tQueue 1 100 0)) = some true ∧ (headCmd (tQueue 2 5 1) 3 2).map (cplWanted (tQueue 2 5 1)) = some true
      ∧ framesAhead (tQueue 2 5 1) 1 ≤ 1 ∧ afterCutoff (tQueue 2 5 0) 0 = false ∧ afterCutoff (fset (tQueue 2 5 0) Fld.fsqCtl_RUN 1) 1300000000 = true
      ∧ 1 < framesAhead (tQueue 2 5 9) 9 ∧ (9 : Nat) ≠ frameNo (tQueue 2 5 9)
      ∧ pendingState (tQueue 1 100 0) = 0 ∧ (HostCmd.mk 3 0 77 1 [1#8] 0).entry ≠ [] ∧ qpState (tQueue 1 100 0) 3 = 1 ∧ cqFree (tQueue 1 100 0) 3 = true
      ∧ expressCheck (tQueue 1 100 0) (List.replicate 128 0#8) ≠ 0 ∧ qpState tPart 5 ≠ 1 := by decide

/-- Witness of `FrameCommandsOfTheHost`: an express request that R410 accepts; a frame whose task has ended. -/
theorem test_express_report :
    expressCheck { tQueue 1 0 0 with seq := { tPart.seq with active := some { tImage with tasks := [{ tTask with kind := 1 }], slots := [⟨4, 0, 1, 100, 100⟩] } } }
        (leBytes 4 3 ++ leBytes 2 1 ++ leBytes 2 4 ++ List.replicate 56 0#8 ++ leBytes 2 4 ++ List.replicate 62 0#8) = 0
      ∧ tasksOver (tDue 0 .ended) = true ∧ (tDue 0 .ended).seq.reported = false ∧ (fget tRing Fld.fsqRptHead_HEAD + 1) % 4 ≠ fget tRing Fld.fsqRptTail_TAIL
      ∧ (fget (fset tRing Fld.fsqRptHead_HEAD 3) Fld.fsqRptHead_HEAD + 1) % 4 = fget tRing Fld.fsqRptTail_TAIL := by decide

/-- Witness of `HostRegisterAccesses`: a register of two fields, one of W1C flags, a word that no block has, a doorbell page. -/
theorem test_register_writes :
    hostUp tPart = true ∧ sizeOk 0xC0400 4 = true ∧ inBlock 0xC0400 = true ∧ inFacetMem 0xC0400 = false ∧ inMsix 0xC0400 = false ∧ (thisCycle tPart).manager = []
      ∧ (fieldsAt 0xC0400).filter (fun g => g.key = (Fld.chdRoute_PORT 0).key) = [Fld.chdRoute_PORT 0]
      ∧ (fieldsAt 0x10030).filter (fun g => g.key = Fld.fsqEvents_OVERRUN.key) = [Fld.fsqEvents_OVERRUN]
      ∧ sizeOk 0xC0400 8 = true ∧ startRegister 0xC0400 = false ∧ startRegister Fld.chdOtcmd_GO.addr = true ∧ fget tPart (Fld.fmemOpstat_STATE 0) ≠ 1 ∧ inBlock 0x400000 = false ∧ sizeOk 0x400000 4 = true ∧ sizeOk 0xC0401 4 = false ∧ inDoorbell 0x40000 = false
      ∧ (∀ p < 8, fget tPart (Fld.chdPState_STATE p) = 0) := by decide

/-- The host writes ROUTE 0, and clears one event of two. -/
theorem test_host_route : (tNext (exec (.hostRegisterWrite 0xC0400 4 0x103) tPart)).map (fun t => (fget t (Fld.chdRoute_VALID 0), fget t (Fld.chdRoute_PORT 0))) = some (1, 3) := by decide

theorem test_host_w1c :
    (tNext (exec (.hostRegisterWrite 0x10030 4 0x10) (fset (fset tPart Fld.fsqEvents_OVERRUN 1) Fld.fsqEvents_RPTDROP 1))).map
      (fun t => (fget t Fld.fsqEvents_OVERRUN, fget t Fld.fsqEvents_RPTDROP)) = some (0, 1) := by decide

/-- A part with port 2 in a state, its registers and its own data. -/
def tPort (st : Nat) (f : Port → Port) : State := modPort (fset tPart (Fld.chdPState_STATE 2) st) 2 f

/-- Witness of `ChordPortsComeUp`: port 2 in each state. -/
theorem test_ports :
    serving tPart = true ∧ fget tPart (Fld.chdPCtl_ENABLE 2) = 0 ∧ fget (fset (tPort 5 id) (Fld.chdPCtl_ENABLE 2) 1) (Fld.chdPCtl_ENABLE 2) ≠ 0
      ∧ (tPort 1 id).now ≤ (portOf (tPort 1 id) 2).since + 1300000 ∧ (portOf (tPort 0 (fun x => { x with failedAt := some 0 })) 2).failedAt = some 0
      ∧ (1 : Nat) % 64 ≠ chipId tPart ∧ (portOf (tPort 4 (fun x => { x with probe := some 100 })) 2).probe = some 100
      ∧ fget (fset (fset (tPort 5 id) Fld.chdTickctl_FOLLOW 1) Fld.chdTickctl_PORT 2) Fld.chdTickctl_PORT = 2
      ∧ bitSet (fget (tPort 5 id) (Fld.chdPState_LANES 2)) 3 = true ∧ (portOf (tPort 5 id) 2).swap = none ∧ fget (fset (tPort 5 id) (Fld.chdPState_LANES 2) 0x17) (Fld.chdPState_LANES 2) ≠ 15
      ∧ bitSet 0x17 1 = true ∧ (portOf (tPort 5 id) 2).txLanes = 15 ∧ tPart.ownerLoad = none ∧ ownerOk (ownerBytes tPart) = false
      ∧ ownerOk (ownerBytes { tPart with sts := [(0, 1#8), (2, 12#8)] }) = true := by decide

/-- A flit of zeros with its sequence number, closed by its CRC. -/
def tFlit (kind seq : Nat) : List Byte := flitOf kind seq 0 0 0 15 []

/-- A packet queued on port 2, and one received there. -/
def tTx (m : Option Nat) : TxPacket := ⟨packetHead 4 1 0 7 0 0 5 0, 1, 0, false, m, 64, 0, 1, 0, 0⟩

def tRx (op len addr n : Nat) : List Byte := packetHead op 0 1 7 len 9 addr n ++ List.replicate len 7#8

def tRxPort (b : List Byte) : State := tPort 5 (fun x => { x with rxPackets := [b], credits := [9, 9, 9] })

/-- Witness of `ChordFlitsAndPackets`: flits by their kind and number. -/
theorem test_flits :
    flitOk [] = false ∧ fieldOf (tFlit 1 0) 0 2 / 4096 = 1 ∧ fieldOf (tFlit 1 0) 0 2 % 4096 = ((portOf (tPort 5 id) 2).rxLast + 1) % 4096 ∧ bitSet (fieldOf (tFlit 1 0) 2 2) 15 = false
      ∧ fieldOf (tFlit 0 0) 0 2 / 4096 = 0 ∧ (portOf (tPort 5 id) 2).nak = false ∧ ([⟨0, [], 1⟩] : List ReplayFlit) ≠ [] := by decide

/-- A flit that the part closes checks. -/
theorem test_flit_crc : flitOk (tFlit 1 0) = true := by decide

/-- Witness of `ChordFlitsAndPackets`: packets that stand first, inside and outside an allocation. -/
theorem test_packets :
    readyPacket (tRxPort (tRx 1 16 0x40 0)) 2 1 = some 0 ∧ inData tPart 0x40 16 = true ∧ inData tPart 0x10000 16 = false ∧ readyPacket (tRxPort (tRx 2 0 0x40 16)) 2 2 = some 0
      ∧ routePort (fset (fset (tRxPort []) (Fld.chdRoute_VALID 1) 1) (Fld.chdRoute_PORT 1) 2) 1 = some 2 ∧ readyPacket (tRxPort (tRx 3 16 0 0)) 2 3 = some 0
      ∧ readOf (tRxPort []) 9 = none ∧ readyPacket (tRxPort (tRx 4 0 5 0)) 2 4 = some 0 ∧ semDeclared tPart 5 = true ∧ semOfChan tPart 5 = false ∧ semDeclared tPart 6 = false
      ∧ readyPacket (tRxPort (tRx 5 32 3 0)) 2 5 = some 0 ∧ readyPacket (tRxPort (tRx 6 0 3 0)) 2 6 = some 0
      ∧ readOf { tPart with reads := [(9, ⟨9, 2, 0, true, 0, 0, 1, 0, 0, 0, 16⟩)], now := 60000 } 9 = some (9, ⟨9, 2, 0, true, 0, 0, 1, 0, 0, 0, 16⟩) := by decide

/-- Witness of `ChordFlitsAndPackets`: a packet with credits, and a multicast one without. -/
theorem test_transmit :
    nextPacket (tPort 5 (fun x => { x with txq := [tTx none], credits := [9, 9, 9] })) 2 1 = some (tTx none) ∧ packetUnits (tTx none).bytes ≤ 9 ∧ readMayGo tPart 2 (tTx none) = true ∧ flitsOf (tTx none) + 0 ≤ 2048
      ∧ nextPacket (tPort 5 (fun x => { x with txq := [tTx (some 0)] })) 2 1 = some (tTx (some 0))
      ∧ copiesFit (tPort 5 (fun x => { x with txq := [tTx (some 0)] })) (copiesOf (tPort 5 (fun x => { x with txq := [tTx (some 0)] })) 2 (tTx (some 0))) = false
      ∧ (tTx (some 0)).since + 1300 * fget tPart Fld.chdMcstall_LIMITUS < ({ tPart with now := 30000 } : State).now := by decide

/-- Queue pair 3 of the part in a state, with rings of 8 entries. -/
def tQp (st : Nat) (f : Qp → Qp) : State :=
  modQp (fset (fset (fset tPart (Fld.hifQState_STATE 3) st) (Fld.hifQCfg_CQSIZE 3) 7) (Fld.hifQCfg_SQSIZE 3) 7) 3 f

/-- Witness of `QueuePairsRun`: the pair in each state. -/
theorem test_queue_pair :
    hostUp (tQp 0 id) = true ∧ fget (tQp 0 id) (Fld.hifQState_STATE 3) = 0 ∧ fget tPart (Fld.hifQCfg_SQSIZE 3) = 0
      ∧ (7 + (7 + 1) - (qpOf (tQp 1 id) 3).cqHead % (7 + 1)) % (7 + 1) > cqUsed (tQp 1 id) 3 ∧ (0 + (7 + 1) - (qpOf (tQp 1 id) 3).cqHead % (7 + 1)) % (7 + 1) ≤ cqUsed (tQp 1 id) 3
      ∧ (qpOf (tQp 1 (fun p => { p with arrivals := [(0, 150)] })) 3).arrivals = [(0, 150)] ∧ cqFree (tQp 1 id) 3 = true ∧ tPart.hif.heldCpl = [] ∧ (qpOf (tQp 2 id) 3).live = 0
      ∧ (headCmd (tQueue 0 0 0) 3 0).map (cplWanted (tQueue 0 0 0)) = some true ∧ ((qpOf (tQueue 9 0 0) 3).fetched.map (·.ok)) = [false]
      ∧ ((qpOf (tQueue 4 1 1) 3).fetched.map (fun c => c.ok && decide (c.opcode = 4))) = [true] ∧ tPart.seq.manifests = [] := by decide

/-- Witness of `HostLinkAndFunction`: a part whose link is up, one in D3hot, one in a function reset. -/
theorem test_function_states :
    tPart.power.hifReset = false ∧ tPart.power.phase ≠ .off ∧ hostUp tPart = true ∧ hostLink tPart = true ∧ tPart.power.stopReq = none ∧ hostLink (modHif tPart (fun h => { h with d3hot := true })) = true
      ∧ linkUp (fset tPart Fld.hifLink_SPEED 5) = true ∧ mainUp (fset tPart Fld.hifLink_SPEED 5) = true ∧ tPart.power.phase = .running ∧ tPart.repair.swaps = [] ∧ tPart.repair.slices = []
      ∧ tPart.repair.pendingSwaps = [] ∧ (modPower tPart (fun p => { p with funcReset := some 0 })).power.funcReset.isSome = true
      ∧ fieldOf ([1#8] ++ List.replicate 7 0#8) 0 2 = 1 ∧ 3 < fget (fset tPart Fld.hifLink_WIDTH 16) Fld.hifLink_WIDTH := by decide

/-- A part with its standby domain up, its management firmware ready and the host link at 32 GT/s. -/
def tMgmt : State :=
  let s := fset (fset tPart Fld.mgtStatus_STATE 1) Fld.hifLink_SPEED 5
  { s with power := { s.power with stbyOk := true, mgmtUp := true, good := 15, enabled := 15 }, mgmt := { s.mgmt with i3c := true, h2mLen := 16 } }

/-- Witness of `ManagementAnswers`: both bindings, the main side up and down, the mailbox full and empty. -/
theorem test_management :
    mgmtServes tMgmt .pcie = true ∧ mgmtServes tMgmt .sideband = true ∧ mctpServes tMgmt .sideband = true ∧ (mainReady tMgmt && serving tMgmt) = true
      ∧ (mainReady (fset tMgmt Fld.glbStatus_MAINREADY 0) && serving (fset tMgmt Fld.glbStatus_MAINREADY 0)) = false ∧ managerReaches 0xE0040 = true
      ∧ fget tMgmt Fld.mgtM2h_READY = 0 ∧ fget (fset tMgmt Fld.mgtM2h_READY 1) Fld.mgtM2h_READY ≠ 0 ∧ fget (fset tMgmt Fld.mgtH2m_BUSY 1) Fld.mgtH2m_BUSY ≠ 0 ∧ (hostMessage tMgmt).length = 16
      ∧ tMgmt.power.stopReq = none ∧ fget tMgmt Fld.mgtStatus_OFFLINE = 0 ∧ tMgmt.power.phase = .running ∧ tMgmt.mgmt.i3c = true ∧ bitSet tMgmt.power.good 2 = true ∧ hostUp tMgmt = true := by decide

theorem test_manager_writes :
    (fieldsAt 0xE0040).all (fun f => decide (f.acc = .ro) && !managerWrites f) = true ∧ (fieldsAt 0xC0400).any (fun f => decide (f.acc ≠ .ro) && !managerWrites f) = true
      ∧ managerReaches 0xEC05C = true := by decide

/-- Witness of `KeysFirmwareAndAttestation`: a part offline with no owner fused; an update under way; an attempt that has run out of time. -/
theorem test_keys :
    mgmtServes tMgmt .sideband = true ∧ fget tMgmt Fld.secStatus_OWNERFUSED = 0 ∧ 2 ≤ fget (fset tMgmt Fld.mgtStatus_OFFLINE 2) Fld.mgtStatus_OFFLINE ∧ mgmtServes (fset tMgmt Fld.mgtStatus_OFFLINE 2) .sideband = true
      ∧ bitSet (fget (fset tMgmt Fld.secStatus_OWNERFUSED 2) Fld.secStatus_OWNERFUSED) 1 = true ∧ fget tMgmt Fld.secBoot_MGTSLOT = tMgmt.mgmt.active1 ∧ mctpServes tMgmt .pcie = true ∧ tMgmt.mgmt.update = none
      ∧ fwAccepted tMgmt 2 1 = false ∧ ecdsaVerify (List.replicate 64 0#8) [] (List.replicate 64 0#8) = false ∧ tMgmt.mgmt.switchFrom = none ∧ spdmServes tMgmt = true
      ∧ ownerSlot (fset tMgmt Fld.secStatus_OWNERFUSED 0) [] = none ∧ fget tMgmt Fld.secOikCtl_LOCK = 0 := by decide

/-- A public key and a signature by it of REVOKE for owner slot 1, found from the curve's equations. -/
def tKey : List Byte := beBytes 32 0x089ce9b9d41314c29f1d7b060aee53388d5125db3daee14193e4a270aa12474d ++ beBytes 32 0x834ee505fc35fc2a9de8d4c96c59c3bf4f31bbc60daa1036a7d0e2138397274d

def tSig : List Byte := beBytes 32 0x484bfa8812aa6de7106d17a4f5098cbaf38ff7703f4cbcacc34853ad32c12e39 ++ beBytes 32 0xa425fd43895536f408368bd27a84c65d583b790ef3322d98db810f38179229c5

/-- Witness of `KeysFirmwareAndAttestation`: the signature verifies, and the key is that of owner slot 0. -/
theorem test_revoke_signature : ecdsaVerify tKey (sha256 (leBytes 1 0x0B ++ leBytes 1 1 ++ leBytes 1 1)) tSig = true := by decide

theorem test_owner_slot :
    ownerSlot (modMgmt (fset tMgmt Fld.secStatus_OWNERFUSED 1) (fun m => { m with ownerHash := [(0, sha256 tKey)] })) tKey = some 0 := by decide

/-- An empty firmware image of component 2 in slot B, signed by a key found from the curve's equations. -/
def tFwKey : List Byte := beBytes 32 0x94e37b1ae477c79e2202cdad3816e1018fb65d3194e1b3a6cfdbaa635fd1d37f ++ beBytes 32 0x38186ac0c1328d79647cd364e6a8a2236e0ee040a5253d86f417dfc0413d6d62

def tFw : List Byte :=
  [0x4C#8, 0x4D#8, 0x46#8, 0x57#8] ++ leBytes 2 2 ++ leBytes 1 1 ++ leBytes 1 0 ++ leBytes 4 0 ++ leBytes 4 0 ++ List.replicate 16 0#8
    ++ beBytes 32 0xe3b0c44298fc1c149afbf4c8996fb92427ae41e4649b934ca495991b7852b855 ++ beBytes 32 0xc64b5b159091748383a58fa9ae87f7fbc2eb8a2ece2bc7ca75303c74abd6434b ++ beBytes 32 0xc64b5b159091748383a58fa9ae87f7fbc2eb8a2ece2bc7ca75303c74abd6434b ++ tFwKey

/-- Witness of `KeysFirmwareAndAttestation`: the image is accepted where its key is the vendor's first one. -/
theorem test_fw_accepted (h₁ : Config.vendorFused 0 = true) (h₂ : beBytes 32 (Config.vendorKeyHash 0) = sha256 tFwKey) :
    fwAccepted { tMgmt with flash := memCells 0xD00000 tFw } 2 1 = true := by
  have hk : memReadN (memCells 0xD00000 tFw) (0xD00000 + 128) 64 = tFwKey := by decide
  have hh : memReadN (memCells 0xD00000 tFw) 0xD00000 128 = tFw.take 128 := by decide
  have hs : ecdsaVerify tFwKey (sha256 ((tFw.take 128).take 64)) (sliceOf (tFw.take 128) 0x40 64) = true := by decide
  have hd : sliceOf (tFw.take 128) 0x20 32 = sha256 [] := by decide
  have hr : bitSet tMgmt.mgmt.vendorRevoked 0 = false := by decide
  have hv : fget { tMgmt with flash := memCells 0xD00000 tFw } (svnField 2) = 0 := by decide
  have h0 : fieldOf (tFw.take 128) 0xC 4 = 0 ∧ fieldOf (tFw.take 128) 0x10 1 = 0 ∧ sliceOf (tFw.take 128) 0 4 = [0x4C#8, 0x4D#8, 0x46#8, 0x57#8] ∧ fieldOf (tFw.take 128) 4 2 = 2
      ∧ (sliceOf (tFw.take 128) 0x11 15).all (· == 0#8) = true ∧ fieldOf (tFw.take 128) 6 1 = 1 ∧ fieldOf (tFw.take 128) 7 1 = 0 := by decide
  obtain ⟨a, b, c, d, e, f, g⟩ := h0
  have hp : slotPlace 2 1 = (0xD00000, 0x800000) := rfl
  have hz : ∀ m : Mem, memReadN m 0xD00080 0 = [] := fun _ => rfl
  simp only [fwAccepted, fwHeader, hp, hh, a, b, c, d, e, f, g, hk, hs, hd, hv, hr, h₁, h₂, hz, Config.level]
  simp

/-- Witness of `ErrorsAreCountedAndContained`: a facet whose task runs, and the same in split mode. -/
theorem test_error_states :
    serving tPart = true ∧ logicalOf (tRun []) 0 = some 0 ∧ (facetOf (tRun []) 0).split = false ∧ (facetOf (modFacet (tRun []) 0 (fun f => { f with split := true })) 0).split = true
      ∧ logicalOf (modFacet (tRun []) 0 (fun f => { f with split := true })) 0 = some 0 ∧ privateArray .acc = true ∧ physOf tPart 0 < 52 ∧ tPart.power.stopReq = none
      ∧ (ctxOf (tRun []) tw).task = some 1 ∧ (taskRec (tRun []) 1).map (fun r => decide (r.phase = .running) && decide (r.entry.who = tw)) = some true := by decide

/-- An uncorrectable error aborts the task that found it. -/
theorem test_ue_aborts : (tNext (exec (.stsUe 0x1000 (some tw)) (tRun []))).map (fun t => (ctxBusy t tw, (taskRec t 1).map (·.reason), fget t Fld.stsUeAddr_ADDR)) = some (false, some 9, 0x1000) := by decide

/-- Witness of `RepairsRun`: a swap, a slice copy, a retraining, a shadow check and an excursion under way. -/
def tRepair : State :=
  modShadow (modThrottle { tPart with
    now := 40000
    repair := { tPart.repair with swaps := [⟨0, 0, 12, 100, false⟩], slices := [⟨3, 3, 48, false, 0⟩], retrain := some ⟨2, true, 100⟩ } } 1 (fun t => { t with since := some 100 })) 0
    (fun x => { x with running := some (0, 1) })

theorem test_repairs :
    serving tRepair = true ∧ tRepair.repair.swaps.find? (fun y => quadOf y.lf = 0) = some ⟨0, 0, 12, 100, false⟩ ∧ tRepair.repair.slices.find? (fun x => !x.copied) = some ⟨3, 3, 48, false, 0⟩
      ∧ tRepair.repair.retrain = some ⟨2, true, 100⟩ ∧ mapGet tRepair.repair.failsInRow 2 0 = 0 ∧ (shadowOf tRepair 0).running = some (0, 1) ∧ (throttleOf tRepair 1).since = some 100
      ∧ (throttleOf tRepair 1).held = false ∧ 100 + 26000 ≤ tRepair.now := by decide

theorem test_retrain_due :
    (fun s : State => decide (s.repair.retrain = none) && decide ((4, 0) ∈ s.repair.due) && channelServes s 4 && linkUp s && decide (1 < fget s Fld.hifLink_WIDTH))
      (modRepair (fset (fset (fset tPart (Fld.farChState_STATE 4) 1) Fld.hifLink_SPEED 5) Fld.hifLink_WIDTH 8) (fun r => { r with due := [(4, 0)] })) = true
      ∧ fget (tPort 5 id) (Fld.chdPState_STATE (11 / 5)) = 5 := by decide

/-- Witness of `PowerAndResetsRun`: each stage of the way up and down. -/
theorem test_power_states :
    State.reset.power.stbyOk = false ∧ fwAccepted State.reset 1 0 = false ∧ fwAccepted State.reset 1 1 = false ∧ tMgmt.power.stbyOk = true
      ∧ mgmtState (fset tMgmt Fld.mgtStatus_STATE 0) = 0 ∧ bitSet (1 : Nat) (1 - 1) = true ∧ bitSet (0 : Nat) (1 - 1) = false ∧ (1 : Nat) ≤ 4 ∧ tMgmt.power.enabled ≠ 0 ∧ bitSet tMgmt.power.good 2 = true
      ∧ highest 7 = some 2 ∧ highest 0 = none ∧ awaitsFirmware (modPower tMgmt (fun p => { p with phase := .powerOn })) = true ∧ (∀ k < 2, fwAccepted tMgmt 2 k = false)
      ∧ tPart.repair.swaps = [] ∧ logicalOf tMapped 48 = none ∧ tMapped.repair.slices = [] ∧ State.reset.power.perstHigh = false ∧ State.reset.power.phase = .off ∧ linkUp tMgmt = true := by decide

/-- PERST_N's fall empties a part that runs. -/
theorem test_perst : (tNext (exec .perstNFall (modPower tPart (fun p => { p with perstHigh := true })))).map (fun t => (t.power.phase, t.power.hifReset, t.seq.inFrame)) = some (.mainReset, true, false) := by decide

/-- Witness of `ConfigRecordCommits`: field 0 staged above its range, without and with an image pending. -/
theorem test_commit_state :
    serving (fset tPart (Fld.rpmCfgStage_VALUE 0) 30000) = true ∧ (thisCycle (fset tPart (Fld.rpmCfgStage_VALUE 0) 30000)).commit = none
      ∧ (thisCycle (fset tPart (Fld.rpmCfgStage_VALUE 0) 30000)).staged = [] ∧ cfgCommitted tPart 0 = 10000
      ∧ pendingState (fset tPart Fld.fsqStatus_PENDING 3) = 3 ∧ pendingState tPart = 0 ∧ fget (fset tPart Fld.fsqCtl_RUN 1) Fld.fsqCtl_RUN ≠ 0
      ∧ fget tPart Fld.fsqStatus_ACTIVEVALID = 0 ∧ fget (fset tPart Fld.fsqStatus_ACTIVEVALID 1) Fld.fsqStatus_ACTIVEVALID ≠ 0 := by decide

/-- The clamped period gives the budget that FSQ_BUDGET's own table names for it (R25: 24 193 000 at the 20 ms period). -/
theorem test_commit_budget :
    (tNext (exec .configCommit (fset tPart (Fld.rpmCfgStage_VALUE 0) 30000))).map (fun t => (cfgForce t 0, fget t Fld.fsqBudget_B, fget t Fld.rpmCfgClampmap_FIELD))
      = some (20000, 24193000, 1) := by decide

/-- Witness of `FpSpecialValues`: a NaN, a subnormal of each sign, 2^31 and −2^31, the largest integer that the last clause names. -/
theorem test_fp_patterns :
    NanWord 0x7F800001#32 ∧ NanWord 0xFFC00000#32 ∧ SubnormalWord 1#32 ∧ SubnormalWord 0x807FFFFF#32 ∧ (158#8 ≤ (0x4F000000#32 : Word).extractLsb' 23 8) ∧ ¬NanWord 0x4F000000#32
      ∧ ¬NanWord 0xFF800000#32 ∧ (16777215#32 : Word).toInt < 16777216 := by
  unfold NanWord SubnormalWord
  decide

/-- 1.5 + (−0.25) = 1.25; the tie 2.5 rounds to 2, 3.5 to 4 (R295). -/
theorem test_fp_values :
    fAdd 0x3FC00000#32 0xBE800000#32 = 0x3FA00000#32 ∧ fToInt 0x40200000#32 = 2#32 ∧ fToInt 0x40600000#32 = 4#32 := by decide

/-- Witness of `EncodeUndoesDecode` and `DecodeUndoesEncode`: ADD s1, s2, s3. -/
theorem test_round_trip :
    decodeInsn tw 0x0022180000000000#64 = some (.add tw ⟨false, 1#5, 2#5, 3#5, 0#32⟩) ∧ whoOf (.add tw ⟨false, 1#5, 2#5, 3#5, 0#32⟩) = some tw
      ∧ (Instr.add tw ⟨false, 1#5, 2#5, 3#5, 0#32⟩).wf = true := by decide

/-- Witness of `LoadWhileSwapIsRequested`. -/
theorem test_load_while_swap :
    hostUp (fset (tQueue 1 100 0) Fld.fsqSwap_REQ 1) = true ∧ (tQueue 1 100 0).hif.bme = true ∧ fget (fset (tQueue 1 100 0) Fld.fsqSwap_REQ 1) Fld.fsqSwap_REQ ≠ 0
      ∧ (headCmd (fset (tQueue 1 100 0) Fld.fsqSwap_REQ 1) 3 1).map (cplWanted (fset (tQueue 1 100 0) Fld.fsqSwap_REQ 1)) = some true := by decide

/-- Witness of `RefusedImageClearsTheRequest`: an image of no bytes, whose format admission refuses. -/
theorem test_refused_image :
    serving (modSeq tPart (fun q => { q with loading := some ⟨3, 0, 7, 0, [1#8], 0⟩, fetchedImg := [] })) = true
      ∧ admission (modSeq tPart (fun q => { q with loading := some ⟨3, 0, 7, 0, [1#8], 0⟩, fetchedImg := [] })) [] 0 ≠ [] := by decide

end Sys2Proof.Tests
end

section
/-! What a register write, an interrupt and a logged host access error leave, and what they leave alone. -/

namespace Sys2Proof.Machine

/-! ### Commands by name -/

theorem exec_facetWindowWrite (addr : Nat) (data : List Byte) (s : State) :
    exec (.facetWindowWrite addr data) s = execFacetWindowWrite addr data s := by rfl

theorem exec_hostRegisterWrite (addr size v : Nat) (s : State) :
    exec (.hostRegisterWrite addr size v) s = execHostRegisterWrite addr size v s := by rfl

theorem exec_bar0AccessError (bar : Nat) (isWrite : Bool) (addr size : Nat) (s : State) :
    exec (.bar0AccessError bar isWrite addr size) s = execBar0AccessError bar isWrite addr size s := by rfl

theorem exec_chipidWrite (chip : Nat) (s : State) : exec (.chipidWrite chip) s = execChipidWrite chip s := by rfl

/-! ### Effects on the register side alone -/

/-- Nothing but registers, the host interface, what the part sends and the record of the cycle has changed: no memory, no task, no engine, no port. -/
def RegisterSide (s t : State) : Prop := t = { s with regs := t.regs, hif := t.hif, outs := t.outs, cyc := t.cyc }

theorem registerSide_self (s : State) : RegisterSide s s := rfl

theorem RegisterSide.trans {s t u : State} (h : RegisterSide s t) (k : RegisterSide t u) : RegisterSide s u := by
  unfold RegisterSide at *
  rw [k, h]

theorem RegisterSide.fset {s t : State} (h : RegisterSide s t) (f : Field) (v : Nat) : RegisterSide s (fset t f v) :=
  h.trans rfl

theorem RegisterSide.modCycle {s t : State} (h : RegisterSide s t) (f : Cycle → Cycle) : RegisterSide s (modCycle t f) :=
  h.trans rfl

theorem registerSide_sendVec (s : State) (v : Nat) : RegisterSide s (sendVec s v) := by
  unfold sendVec
  split
  · rfl
  · split <;> rfl

theorem RegisterSide.settle {s t : State} (h : RegisterSide s t) (old : State) : RegisterSide s (settle old t) := by
  refine h.trans ?_
  unfold Machine.settle
  split
  · exact (show RegisterSide t (modHif t _) from rfl).trans (registerSide_sendVec _ 1)
  · rfl

theorem RegisterSide.setBits {s t : State} (h : RegisterSide s t) (f : Field) (bits : Nat) : RegisterSide s (setBits t f bits) :=
  ((h.fset f _).settle t).modCycle _

theorem RegisterSide.hostErr {s t : State} (h : RegisterSide s t) (bar : Nat) (isWrite : Bool) (addr size cause : Nat) :
    RegisterSide s (hostErr t bar isWrite addr size cause) :=
  (((((((h.fset _ _).fset _ _).fset _ _).fset _ _).fset _ _).fset _ _).fset _ _).setBits _ 1

theorem RegisterSide.sameMemories {s t : State} (h : RegisterSide s t) : SameMemories s t := by
  rw [h]; exact ⟨rfl, rfl, rfl, rfl, rfl, rfl⟩

theorem RegisterSide.now {s t : State} (h : RegisterSide s t) : t.now = s.now := by rw [h]
theorem RegisterSide.seq {s t : State} (h : RegisterSide s t) : t.seq = s.seq := by rw [h]
theorem RegisterSide.ports {s t : State} (h : RegisterSide s t) : t.ports = s.ports := by rw [h]
theorem RegisterSide.memOps {s t : State} (h : RegisterSide s t) : t.memOps = s.memOps := by rw [h]

/-! ### Register fields under interrupts and flags -/

@[simp] theorem sendVec_regs (s : State) (v : Nat) : (sendVec s v).regs = s.regs := by
  unfold sendVec
  split
  · rfl
  · split <;> rfl

@[simp] theorem settle_regs (old s : State) : (settle old s).regs = s.regs := by
  unfold settle
  split
  · simp
  · rfl

theorem setBits_regs (s : State) (f : Field) (bits : Nat) : (setBits s f bits).regs = (fset s f (Nat.lor (fget s f) bits)).regs :=
  settle_regs s (fset s f _)

theorem fget_setBits_other (s : State) (f g : Field) (bits : Nat) (h : g.key ≠ f.key) : fget (setBits s f bits) g = fget s g := by
  rw [fget_of_regs g (setBits_regs s f bits), fget_fset_other s f g _ h]

/-- A flag of one bit reads 1 once the hardware has set it. -/
theorem fget_setFlag_same (s : State) (f : Field) (h : f.width = 1) : fget (setFlag s f) f = 1 := by
  rw [setFlag, fget_of_regs f (setBits_regs s f 1), fget_fset_same, h]
  exact Nat.or_mod_two_eq_one.mpr (.inr rfl)

/-! ### Host access errors (R12, R418) -/

/-- Of the registers, a host access error changes those of the error log alone, which end at 0x34. -/
theorem fget_hostErr_beyond (s : State) (bar : Nat) (isWrite : Bool) (addr size cause : Nat) {g : Field} (h : 0x38 * 32 ≤ g.key) :
    fget (hostErr s bar isWrite addr size cause) g = fget s g := by
  have hne : ∀ f : Field, f.key < 0x38 * 32 → g.key ≠ f.key := fun f hf => by omega
  simp (disch := (apply hne; decide)) only [hostErr, event, setFlag, bump, fget_setBits_other, fget_fset_other]

/-- The fields of the error log after an access error. -/
theorem fget_hostErr (s : State) (bar : Nat) (isWrite : Bool) (addr size cause : Nat) :
    let t := hostErr s bar isWrite addr size cause
    fget t Fld.glbHerrInfo_BAR = bar % 4 ∧ fget t Fld.glbHerrInfo_WRITE = (if isWrite then 1 else 0)
      ∧ fget t Fld.glbHerrInfo_BYTES = (if 256 ≤ size then 0 else size) ∧ fget t Fld.glbHerrInfo_CAUSE = cause % 16
      ∧ fget t Fld.glbHerrAddrLo_ADDR = addr % 2 ^ 32 ∧ fget t Fld.glbHerr_ACCESS = 1
      ∧ fget t Fld.glbCntHerr_COUNT = (fget s Fld.glbCntHerr_COUNT + 1) % 2 ^ 32 := by
  have hbyte : (if 256 ≤ size then 0 else size) % 2 ^ 8 = if 256 ≤ size then 0 else size := by split <;> omega
  have hwrite : (if isWrite then 1 else 0) % 2 ^ 1 = if isWrite then 1 else 0 := by cases isWrite <;> rfl
  refine ⟨?_, ?_, ?_, ?_, ?_, fget_setFlag_same _ _ rfl, ?_⟩ <;>
    simp (disch := decide) only [hostErr, event, setFlag, bump, fget_setBits_other, fget_fset_same, fget_fset_other]
  · rfl
  · exact hwrite
  · exact hbyte
  · rfl
  · rfl
  · rfl

/-- An access of BAR0 or BAR2 that is not accepted is logged, counted, and touches no memory (R12, R418). -/
theorem logsAccess_hostErr (s : State) {bar : Nat} (isWrite : Bool) (addr size : Nat) {cause : Nat} (hb : bar < 4) (hc : cause < 16) :
    LogsAccess s (hostErr s bar isWrite addr size cause) bar isWrite cause := by
  obtain ⟨hbar, hwrite, -, hcause, -, hflag, hcount⟩ := fget_hostErr s bar isWrite addr size cause
  have hside := (registerSide_self s).hostErr bar isWrite addr size cause
  exact ⟨hflag, hcount, hbar.trans (Nat.mod_eq_of_lt hb), hwrite, hcause.trans (Nat.mod_eq_of_lt hc), hside.sameMemories, hside.seq, hside.ports⟩

end Sys2Proof.Machine
end

section
/-! Facet memory under writes to banks that are on: where bytes land, how they read back (R162, R165, R179, R180), and the facet window. -/

namespace Sys2Proof.Machine

/-! ### Bytes laid out in a memory -/

/-- Of writes to distinct addresses each one reads back. -/
theorem memRead_memPuts_mem (ws : List (Nat × Byte)) :
    ∀ (m : Mem), (ws.map Prod.fst).Nodup → ∀ w ∈ ws, memRead (memPuts m ws) w.1 = w.2 := by
  induction ws with
  | nil => intro m _ w hw; cases hw
  | cons v r ih =>
    intro m hn w hw
    obtain ⟨hv, hr⟩ := List.nodup_cons.mp hn
    show memRead (memPuts (memWrite m v.1 [v.2]) r) w.1 = w.2
    rcases List.mem_cons.mp hw with rfl | hw
    · rw [memRead_memPuts_out r _ fun x hx e => hv (List.mem_map.mpr ⟨x, hx, e⟩)]
      exact memRead_memWrite_in m w.1 [w.2] (i := 0) Nat.one_pos
    · exact ih _ hr w hw

@[simp] theorem span_length (a n : Nat) : (span a n).length = n := by simp [span]

theorem mem_span {a n x : Nat} : x ∈ span a n ↔ a ≤ x ∧ x < a + n := by
  simp only [span, List.mem_map, List.mem_range]
  constructor
  · rintro ⟨i, hi, rfl⟩; omega
  · rintro ⟨h1, h2⟩; exact ⟨x - a, by omega, by omega⟩

theorem span_nodup (a n : Nat) : (span a n).Nodup :=
  List.nodup_range.map fun _ _ h => Nat.add_left_cancel h

theorem laidAt_map_fst (a : Nat) (bs : List Byte) : (laidAt a bs).map Prod.fst = span a bs.length :=
  List.map_fst_zip (by simp)

theorem fst_mem_span_of_mem_laidAt {a : Nat} {bs : List Byte} {w : Nat × Byte} (h : w ∈ laidAt a bs) : w.1 ∈ span a bs.length :=
  laidAt_map_fst a bs ▸ List.mem_map_of_mem h

theorem getElem_mem_laidAt (a : Nat) (bs : List Byte) {i : Nat} (h : i < bs.length) : (a + i, bs[i]) ∈ laidAt a bs := by
  have hz : i < (laidAt a bs).length := by simpa [laidAt] using h
  have he : (laidAt a bs)[i] = (a + i, bs[i]) := by simp [laidAt, span]
  exact he ▸ List.getElem_mem hz

/-! ### Writes to banks that are on -/

theorem gatedLines_nil {s : State} {pf : Nat} {as : List Nat} (h : ∀ a ∈ as, gatedAt s pf a = false) : gatedLines s pf as = [] := by
  have hf : as.filter (gatedAt s pf) = [] := List.filter_eq_nil_iff.mpr fun a ha => by simp [h a ha]
  unfold gatedLines
  split
  · rfl
  · rw [hf]; rfl

theorem keptWrites_all {s : State} {pf : Nat} {ws : List (Nat × Byte)} (h : ∀ a ∈ ws.map Prod.fst, gatedAt s pf a = false) :
    keptWrites s pf ws = ws :=
  List.filter_eq_self.mpr fun w hw => by simp [h w.1 (List.mem_map_of_mem hw)]

/-- Wide writes to banks that are on are all stored, and none is counted as dropped. -/
theorem fmemPut_ungated {s : State} {pf : Nat} {ws : List (Nat × Byte)} (h : ∀ a ∈ ws.map Prod.fst, gatedAt s pf a = false) :
    fmemPut s pf ws = modCycle (fmemStore s pf ws) (fun c => { c with wide := c.wide ++ ws.map (fun w => fbase pf + w.1) }) := by
  unfold fmemPut
  rw [keptWrites_all h]
  exact if_pos (congrArg List.length (gatedLines_nil h))

theorem fmemDrops_ungated {s : State} {pf : Nat} {ws : List (Nat × Byte)} (h : ∀ a ∈ ws.map Prod.fst, gatedAt s pf a = false) :
    fmemDrops s pf ws = false := by
  unfold fmemDrops
  rw [gatedLines_nil h]
  rfl

/-- Bytes stored in a physical facet's memory are the ones that a read of banks that are on returns, whatever its unspecified bytes hold (R165). -/
theorem fmemPeek_fmemStore_laidAt {s : State} {pf off : Nat} {data : List Byte} (h : ∀ a ∈ span off data.length, gatedAt s pf a = false) :
    fmemPeek (fmemStore s pf (laidAt off data)) pf (span off data.length) = data := by
  have hnodup : (((laidAt off data).map (fun w => (fbase pf + w.1, w.2 ^^^ fmemMask s pf w.1))).map Prod.fst).Nodup := by
    have he : ((laidAt off data).map (fun w => (fbase pf + w.1, w.2 ^^^ fmemMask s pf w.1))).map Prod.fst = (span off data.length).map (fbase pf + ·) := by
      rw [← laidAt_map_fst, List.map_map, List.map_map]; rfl
    rw [he]
    exact (span_nodup off data.length).map fun _ _ e => Nat.add_left_cancel e
  refine List.ext_getElem (by simp [fmemPeek]) fun i hi hd => ?_
  have hon : gatedAt (fmemStore s pf (laidAt off data)) pf (off + i) = false := h (off + i) (mem_span.mpr ⟨by omega, by omega⟩)
  have hread := memRead_memPuts_mem _ s.fmem hnodup _ (List.mem_map_of_mem (getElem_mem_laidAt off data hd))
  have hmask : fmemMask (fmemStore s pf (laidAt off data)) pf (off + i) = fmemMask s pf (off + i) := rfl
  simp only [fmemPeek, span, List.getElem_map, List.getElem_range, hon, Bool.false_eq_true, if_false, hmask]
  show memRead (memPuts s.fmem _) (fbase pf + (off + i)) ^^^ _ = _
  rw [hread, BitVec.xor_assoc, BitVec.xor_self, BitVec.xor_zero]

theorem memRead_fmemStore_laidAt_out (s : State) (pf off : Nat) (data : List Byte) {y : Nat}
    (h : y < fbase pf + off ∨ fbase pf + off + data.length ≤ y) : memRead (fmemStore s pf (laidAt off data)).fmem y = memRead s.fmem y := by
  refine memRead_memPuts_out _ s.fmem fun v hv => ?_
  obtain ⟨w, hw, rfl⟩ := List.mem_map.mp hv
  have := mem_span.mp (fst_mem_span_of_mem_laidAt hw)
  dsimp only
  omega

/-! ### The facet window (R166, R167) -/

/-- An aligned write through the window of a facet reaches facet memory, or below 576 KiB the log. -/
theorem execFacetWindowWrite_aligned {s : State} {f off : Nat} {data : List Byte} (hup : hostUp s = true) (hf : f < 52) (ho : off < 0x90000)
    (hal : data.length = 4 ∧ off % 4 = 0 ∨ data.length = 8 ∧ off % 8 = 0) :
    execFacetWindowWrite (0x1000000 + f * 0x100000 + off) data s
      = if 0x80000 ≤ off then .next (hostErr s 0 true (0x1000000 + f * 0x100000 + off) data.length 3)
        else if (span off data.length).any (wakingAt s f) then .next s
        else .next (hostFacetWrite s f off (0x1000000 + f * 0x100000 + off) data) := by
  have hfacet : (0x1000000 + f * 0x100000 + off - 0x1000000) / 0x100000 = f := by omega
  have hoff : (0x1000000 + f * 0x100000 + off - 0x1000000) % 0x100000 = off := by omega
  have hsize : sizeOk (0x1000000 + f * 0x100000 + off) data.length = true := by
    simp only [sizeOk, Bool.or_eq_true, Bool.and_eq_true, decide_eq_true_eq]
    omega
  have hin : ¬(0x1000000 + f * 0x100000 + off < 0x1000000 ∨ 52 ≤ f ∨ 0x90000 ≤ off ∨ hostUp s = false) := by
    rw [hup]; simp; omega
  simp only [execFacetWindowWrite, hfacet, hoff, hsize, if_neg hin, Bool.not_true, Bool.false_eq_true, if_false]

/-- Settles O32: a write through the facet window lands in facet memory, or is discarded and logged. -/
theorem hostWritesThroughTheFacetWindow : Obligations.HostWritesThroughTheFacetWindow := by
  unfold Obligations.HostWritesThroughTheFacetWindow
  intro s f off data hup hf hal addr
  constructor
  · intro hoff hawake
    have hon : ∀ a ∈ span off data.length, gatedAt s f a = false ∧ wakingAt s f a = false := fun a ha => by
      obtain ⟨h1, h2⟩ := mem_span.mp ha
      simpa [show off + (a - off) = a by omega] using hawake (a - off) (by omega)
    have hgate : ∀ a ∈ (laidAt off data).map Prod.fst, gatedAt s f a = false := fun a ha => (hon a (laidAt_map_fst off data ▸ ha)).1
    have hwake : (span off data.length).any (wakingAt s f) = false := List.any_eq_false.mpr fun a ha => by simp [(hon a ha).2]
    refine ⟨fmemPut s f (laidAt off data), ?_, ?_⟩
    · rw [exec_facetWindowWrite, execFacetWindowWrite_aligned hup hf (by omega) hal, if_neg (by omega), hwake, if_neg Bool.false_ne_true]
      simp only [hostFacetWrite, fmemDrops_ungated hgate, Bool.false_eq_true, if_false]
    · rw [fmemPut_ungated hgate]
      exact ⟨rfl, fmemPeek_fmemStore_laidAt fun a ha => (hon a ha).1, fun y hy => memRead_fmemStore_laidAt_out s f off data hy⟩
  · intro hlo hhi
    refine ⟨hostErr s 0 true addr data.length 3, ?_, ((registerSide_self s).hostErr 0 true addr data.length 3).sameMemories, ?_⟩
    · rw [exec_facetWindowWrite, execFacetWindowWrite_aligned hup hf hhi hal, if_pos hlo]
    · obtain ⟨hbar, hwrite, hbytes, hcause, haddr, hflag, hcount⟩ := fget_hostErr s 0 true addr data.length 3
      have hlen : ¬256 ≤ data.length := by omega
      exact ⟨hcause, hwrite, hbar, hbytes.trans (if_neg hlen), haddr.trans (Nat.mod_eq_of_lt (by omega)), hflag, hcount⟩

end Sys2Proof.Machine
end

section
/-! What a word that a master writes makes of each field of a register (R11 to R16), and the host's accesses to registers. -/

namespace Sys2Proof.Machine

/-! ### One cycle -/

theorem thisCycle_number (s : State) : (thisCycle s).number = s.now := by
  unfold thisCycle
  split
  · assumption
  · rfl

theorem thisCycle_modCycle {s : State} {f : Cycle → Cycle} (h : (f (thisCycle s)).number = s.now) : thisCycle (modCycle s f) = f (thisCycle s) :=
  if_pos h

/-! ### Writes of register fields -/

/-- Of the register fields only some, listed by their keys, may have changed; and the hardware has set no flag in between. -/
structure WritesKeys (ks : List Nat) (s t : State) : Prop where
  side : RegisterSide s t
  flags : (thisCycle t).flags = (thisCycle s).flags
  others : ∀ g : Field, g.key ∉ ks → fget t g = fget s g

theorem writesKeys_self (ks : List Nat) (s : State) : WritesKeys ks s s := ⟨rfl, rfl, fun _ _ => rfl⟩

theorem WritesKeys.trans {ks : List Nat} {s t u : State} (h : WritesKeys ks s t) (k : WritesKeys ks t u) : WritesKeys ks s u :=
  ⟨h.side.trans k.side, k.flags.trans h.flags, fun g hg => (k.others g hg).trans (h.others g hg)⟩

theorem writesKeys_fset {ks : List Nat} (s : State) {f : Field} (v : Nat) (h : f.key ∈ ks) : WritesKeys ks s (fset s f v) :=
  ⟨rfl, rfl, fun g hg => fget_fset_other s f g v fun e => hg (e ▸ h)⟩

theorem writesKeys_keepStaged (ks : List Nat) (s : State) (f : Field) : WritesKeys ks s (keepStaged s f) := by
  unfold keepStaged
  split
  · exact ⟨rfl, by rw [thisCycle_modCycle (thisCycle_number s)], fun _ _ => rfl⟩
  · exact writesKeys_self ks s

theorem writesKeys_writeField {ks : List Nat} (s : State) {f : Field} (v : Nat) (h : f.key ∈ ks) : WritesKeys ks s (writeField s f v) := by
  unfold writeField
  split
  · exact writesKeys_fset s _ h
  · exact writesKeys_fset s _ h
  · exact writesKeys_fset s _ h
  · exact writesKeys_self ks s
  · exact writesKeys_self ks s

/-- A written field reads by its access code (Table 00-5, R16). -/
theorem fget_writeField (s : State) (f : Field) (v : Nat) :
    fget (writeField s f v) f = writtenField f (fget s f) v (bitsIn (thisCycle s).flags f.key) := by
  cases hacc : f.acc <;> simp only [writeField, writtenField, hacc, fget_fset_same]

/-! ### A word written to a register -/

/-- What a word `v` makes of one field: left alone where it has a command of its own, or was locked in `s` as the word came. -/
def fieldWrite (s : State) (v : Nat) (t : State) (f : Field) : State :=
  if f.own || writeIgnored s f then t else writeField (keepStaged t f) f (bitsOf v f.lo f.width)

theorem writesKeys_foldl_fieldWrite (s : State) (v : Nat) {ks : List Nat} (fs : List Field) :
    ∀ t, (∀ f ∈ fs, f.key ∈ ks) → WritesKeys ks t (fs.foldl (fieldWrite s v) t) := by
  induction fs with
  | nil => exact fun t _ => writesKeys_self ks t
  | cons f r ih =>
    intro t h
    have hf : WritesKeys ks t (fieldWrite s v t f) := by
      unfold fieldWrite
      split
      · exact writesKeys_self ks t
      · exact (writesKeys_keepStaged ks t f).trans (writesKeys_writeField _ _ (h f List.mem_cons_self))
    exact hf.trans (ih _ fun g hg => h g (List.mem_cons_of_mem f hg))

/-- A field that shares its place with no other of its register is written by its own part of the word alone. -/
theorem fget_foldl_fieldWrite (s : State) (v : Nat) {fs : List Field} {f : Field} (h : fs.filter (fun g => g.key = f.key) = [f]) :
    fget (fs.foldl (fieldWrite s v) s) f
      = if f.own || writeIgnored s f then fget s f
        else writtenField f (fget s f) (bitsOf v f.lo f.width) (bitsIn (thisCycle s).flags f.key) := by
  obtain ⟨before, after, rfl, hbefore, -, hafter⟩ := List.filter_eq_cons_iff.mp h
  have hkeyb : f.key ∉ before.map Field.key := fun hk => by
    obtain ⟨g, hg, he⟩ := List.mem_map.mp hk
    exact hbefore g hg (by simpa using he)
  have hkeya : f.key ∉ after.map Field.key := fun hk => by
    obtain ⟨g, hg, he⟩ := List.mem_map.mp hk
    exact List.filter_eq_nil_iff.mp hafter g hg (by simpa using he)
  have hfirst := writesKeys_foldl_fieldWrite s v before s fun g hg => List.mem_map_of_mem (f := Field.key) hg
  have hlast := fun t => (writesKeys_foldl_fieldWrite s v after t fun g hg => List.mem_map_of_mem (f := Field.key) hg).others f hkeya
  rw [List.foldl_append, List.foldl_cons, hlast, fieldWrite.eq_def _ _ _ f]
  split
  · exact hfirst.others f hkeyb
  · have hkept := hfirst.trans (writesKeys_keepStaged _ (before.foldl (fieldWrite s v) s) f)
    rw [fget_writeField, hkept.flags, hkept.others f hkeyb]

/-- A word that starts no command: each field of the register takes its part. -/
theorem writeWord_plain (s : State) {a v : Nat} (h : startRegister a = true → bitSet v 31 = false) :
    writeWord s a v (fun _ => false) = settle s ((fieldsAt a).foldl (fieldWrite s v) s) := by
  have hstart : (startRegister a && bitSet v 31) = false := by
    cases hs : startRegister a with
    | false => rfl
    | true => exact h hs
  have hrefused : ∀ t, refusedStart t a v = t := fun t => if_neg fun ⟨hs, _, hv, _⟩ => by simp [h hs] at hv
  simp only [writeWord, hrefused, hstart, Bool.or_false]
  rfl

/-- A written start bit takes its register's operand with it: the word changes no field (log entry 78). -/
theorem writeWord_started (s : State) {a v : Nat} (skip : Field → Bool) (ha : startRegister a = true) (hv : bitSet v 31 = true) :
    writeWord s a v skip = settle s (refusedStart s a v) := by
  have hfold : ∀ fs : List Field, fs.foldl (fun t _ => t) s = s := fun fs => by
    induction fs with
    | nil => rfl
    | cons f r ih => exact ih
  simp only [writeWord, ha, hv, Bool.and_self, Bool.or_true, Bool.true_or, if_true, hfold]

/-! ### The host's word (R13, R424) -/

@[simp] theorem meets_nil (xs : List (Nat × Nat)) : meets xs [] = false := by
  simp [meets, bitsIn]

/-- With no write of the manager in the cycle, the host's word is written whole. -/
theorem hostWordWrite_alone {s : State} (a v : Nat) (h : (thisCycle s).manager = []) :
    hostWordWrite s a v = modCycle (writeWord s a v (fun _ => false)) (fun c => { c with host := c.host ++ sharedBits a v }) := by
  have hskip : (fun f : Field => decide (Nat.land (reachedBits f (bitsOf v f.lo f.width)) (bitsIn [] f.key) ≠ 0)) = fun _ => false := by
    simp [bitsIn]
  simp only [hostWordWrite, h, hskip, meets_nil, Bool.false_eq_true, if_false, Bool.not_false, List.filter_true]

/-- A word at an address that only the register blocks answer, written by the host (R11 to R13). -/
theorem execHostRegisterWrite_word {s : State} {addr : Nat} (v : Nat) (hup : hostUp s = true) (hsize : sizeOk addr 4 = true) (hin : inBlock addr = true)
    (hmem : inFacetMem addr = false) : execHostRegisterWrite addr 4 v s = .next (hostWord s addr (v % 2 ^ 32)) := by
  simp [execHostRegisterWrite, whenever, hup, hsize, hin, hmem]

/-- A pair of words in one access: the low word, then the high word (R11). -/
theorem execHostRegisterWrite_pair {s : State} {addr : Nat} (v : Nat) (hup : hostUp s = true) (hsize : sizeOk addr 8 = true) (hin : inBlock addr = true)
    (hin4 : inBlock (addr + 4) = true) (hmem : inFacetMem addr = false) :
    execHostRegisterWrite addr 8 v s = .next (hostWord (hostWord s addr (v % 2 ^ 32)) (addr + 4) (v / 2 ^ 32 % 2 ^ 32)) := by
  simp [execHostRegisterWrite, whenever, hup, hsize, hin, hin4, hmem]

theorem hostWord_register (s : State) {a : Nat} (v : Nat) (hin : inBlock a = true) (hmsix : inMsix a = false) : hostWord s a v = hostWordWrite s a v := by
  simp [hostWord, hin, hmsix]

/-- A word written to a register outside the MSI-X table. -/
theorem execHostRegisterWrite_register {s : State} {addr v : Nat} (hup : hostUp s = true) (hsize : sizeOk addr 4 = true) (hin : inBlock addr = true)
    (hmem : inFacetMem addr = false) (hmsix : inMsix addr = false) (hv : v < 2 ^ 32) :
    execHostRegisterWrite addr 4 v s = .next (hostWordWrite s addr v) := by
  rw [execHostRegisterWrite_word v hup hsize hin hmem, Nat.mod_eq_of_lt hv, hostWord_register s v hin hmsix]

/-- An MSI-X address lies in a register block, so a word that no block takes reaches nothing. -/
theorem hostWord_reserved (s : State) {a : Nat} (v : Nat) (hin : inBlock a = false) : hostWord s a v = s := by
  have hmsix : inMsix a = false := by
    simp only [inBlock, inMsix, Bool.or_eq_false_iff, decide_eq_false_iff_not] at hin ⊢
    omega
  simp [hostWord, hin, hmsix]

theorem sizeOk_words {addr : Nat} (h : sizeOk addr 8 = true) : sizeOk addr 4 = true ∧ sizeOk (addr + 4) 4 = true := by
  simp only [sizeOk, Bool.or_eq_true, Bool.and_eq_true, decide_eq_true_eq, true_and] at h ⊢
  omega

/-- A write that R11 or R12 does not accept is discarded and logged (R12, R418). -/
theorem execHostRegisterWrite_refused {s : State} {addr size : Nat} (v : Nat) (hup : hostUp s = true) (hmem : inFacetMem addr = false)
    (h : sizeOk addr size = false ∨ (size = 4 ∧ inBlock addr = false)) :
    execHostRegisterWrite addr size v s = .next (hostErr s 0 true addr size (if sizeOk addr size then 2 else 1)) := by
  rcases h with hsize | ⟨rfl, hin⟩
  · simp [execHostRegisterWrite, whenever, hup, hmem, hsize]
  · cases hsize : sizeOk addr 4
    · simp [execHostRegisterWrite, whenever, hup, hmem, hsize]
    · simp [execHostRegisterWrite, whenever, hup, hmem, hsize, hin, hostWord_reserved]

/-! ### A word that starts no command -/

/-- What a host word makes of a register, with no write of the manager in the cycle (R13, R14, R16, R424). -/
theorem hostWordWrite_fields {s : State} {a v : Nat} (hmgr : (thisCycle s).manager = []) (hstart : startRegister a = true → bitSet v 31 = false) :
    let t := hostWordWrite s a v
    RegisterSide s t ∧ (∀ f : Field, f.key ∉ (fieldsAt a).map Field.key → fget t f = fget s f)
      ∧ ∀ f : Field, (fieldsAt a).filter (fun g => g.key = f.key) = [f] →
        fget t f = if f.own || writeIgnored s f then fget s f else writtenField f (fget s f) (bitsOf v f.lo f.width) (bitsIn (thisCycle s).flags f.key) := by
  intro t
  have ht : t = modCycle (settle s ((fieldsAt a).foldl (fieldWrite s v) s)) (fun c => { c with host := c.host ++ sharedBits a v }) := by
    rw [← writeWord_plain s hstart, ← hostWordWrite_alone a v hmgr]
  have hfget : ∀ f, fget t f = fget ((fieldsAt a).foldl (fieldWrite s v) s) f := fun f => fget_of_regs f (by rw [ht]; exact settle_regs s _)
  have hfold := writesKeys_foldl_fieldWrite s v (fieldsAt a) s fun g hg => List.mem_map_of_mem (f := Field.key) hg
  refine ⟨ht ▸ (hfold.side.settle s).modCycle _, fun f hf => (hfget f).trans (hfold.others f hf), fun f hf => ?_⟩
  exact (hfget f).trans (fget_foldl_fieldWrite s v hf)

/-! ### Start bits (R169, R190) -/

theorem startRegister_spine {a : Nat} (h : startRegister a = true) (ha : a < 0x1000000) :
    a = Fld.prsPcmd_GO.addr ∨ a = Fld.chdOtcmd_GO.addr ∨ a = Fld.mgtH2m_SEND.addr := by
  have hpage : ¬0x1000000 ≤ a := by omega
  simpa [startRegister, hpage] using h

/-- A start bit of a spine block takes its operand with it: no register changes. -/
theorem hostWordWrite_started {s : State} {a v : Nat} (hmgr : (thisCycle s).manager = []) (ha : startRegister a = true) (hspine : a < 0x1000000)
    (hv : bitSet v 31 = true) : RegisterSide s (hostWordWrite s a v) ∧ (hostWordWrite s a v).regs = s.regs := by
  have hrefused : refusedStart s a v = s := if_neg fun ⟨_, hpage, _⟩ => by omega
  rw [hostWordWrite_alone a v hmgr, writeWord_started s _ ha hv, hrefused]
  exact ⟨((registerSide_self s).settle s).modCycle _, settle_regs s s⟩

theorem opstat_key (f : Nat) : (Fld.fmemOpstat_STATE f).key = (0x10F3044 + f * 0x100000) * 32 + 0 := rfl

/-- A refused host operation leaves STATE 3 and is logged (R169, R190). -/
theorem refuseOp_effect (s : State) (f : Nat) :
    RegisterSide s (refuseOp s f) ∧ fget (refuseOp s f) (Fld.fmemOpstat_STATE f) = 3 ∧ fget (refuseOp s f) Fld.glbHerrInfo_CAUSE = 4 := by
  obtain ⟨-, -, -, hcause, -⟩ := fget_hostErr (fset s (Fld.fmemOpstat_STATE f) 3) 0 true (0x10F3030 + f * 0x100000) 4 4
  refine ⟨((registerSide_self s).fset _ 3).hostErr _ _ _ _ _, ?_, hcause⟩
  unfold refuseOp
  rw [fget_hostErr_beyond _ _ _ _ _ _ (by rw [opstat_key]; omega), fget_fset_same]
  rfl

/-- START with an operation that is neither a fill nor a copy is refused, unless one runs (R169, R190). -/
theorem startHostOp_refused {s : State} {f op : Nat} (hidle : fget s (Fld.fmemOpstat_STATE f) ≠ 1) (h4 : op ≠ 4) (h5 : op ≠ 5) :
    startHostOp s f op = refuseOp (fset s (Fld.fmemOpctl_OP f) op) f := by
  simp [startHostOp, hidle, h4, h5]

/-- A written start bit, whatever the manager has written in the cycle: at most MGT_CNT_LOST counts before the start takes effect (R424). -/
theorem hostWordWrite_starts (s : State) {a v : Nat} (ha : startRegister a = true) (hv : bitSet v 31 = true) :
    ∃ u, (u = s ∨ u = bump s Fld.mgtCntLost_COUNT 1) ∧ RegisterSide (refusedStart u a v) (hostWordWrite s a v)
      ∧ (hostWordWrite s a v).regs = (refusedStart u a v).regs := by
  refine ⟨if meets (sharedBits a v) (thisCycle s).manager then bump s Fld.mgtCntLost_COUNT 1 else s, ?_, ?_⟩
  · split
    · exact .inr rfl
    · exact .inl rfl
  · simp only [hostWordWrite, writeWord_started _ _ ha hv]
    exact ⟨((registerSide_self _).settle _).modCycle _, settle_regs _ _⟩

/-- FMEM_OPCTL lies in the control page of its facet and takes start bits. -/
theorem opctl_place {f : Nat} (hf : f < 52) :
    let a := 0x10F3030 + f * 0x100000
    startRegister a = true ∧ sizeOk a 4 = true ∧ inBlock a = true ∧ inFacetMem a = false ∧ inMsix a = false := by
  refine ⟨?_, ?_, ?_, ?_, ?_⟩ <;>
    simp only [startRegister, sizeOk, inBlock, inFacetMem, inMsix, Bool.or_eq_true, Bool.and_eq_true, Bool.and_eq_false_iff, decide_eq_true_eq,
      decide_eq_false_iff_not, true_and] <;>
    omega

/-- START with an operation that is neither a fill nor a copy, written by the host to FMEM_OPCTL. -/
theorem hostWordWrite_refusedStart {s : State} {f v : Nat} (hf : f < 52) (hv : bitSet v 31 = true) (h4 : v % 8 ≠ 4) (h5 : v % 8 ≠ 5)
    (hidle : fget s (Fld.fmemOpstat_STATE f) ≠ 1) :
    let t := hostWordWrite s (0x10F3030 + f * 0x100000) v
    RegisterSide s t ∧ fget t (Fld.fmemOpstat_STATE f) = 3 ∧ fget t Fld.glbHerrInfo_CAUSE = 4 := by
  intro t
  obtain ⟨hstart, -⟩ := opctl_place hf
  obtain ⟨u, hu, ht, hregs⟩ := hostWordWrite_starts s hstart hv
  have hlost : (Fld.fmemOpstat_STATE f).key ≠ Fld.mgtCntLost_COUNT.key := by
    have hk : Fld.mgtCntLost_COUNT.key = 0xF0808 * 32 := by decide
    rw [opstat_key, hk]
    omega
  have hside : RegisterSide s u ∧ fget u (Fld.fmemOpstat_STATE f) ≠ 1 := by
    rcases hu with rfl | rfl
    · exact ⟨rfl, hidle⟩
    · exact ⟨(registerSide_self s).fset _ _, by rwa [bump, fget_fset_other _ _ _ _ hlost]⟩
  have hrefused : refusedStart u (0x10F3030 + f * 0x100000) v = refuseOp (fset u (Fld.fmemOpctl_OP f) (v % 8)) f := by
    have hfacet : (0x10F3030 + f * 0x100000 - 0x1000000) / 0x100000 = f := by omega
    rw [refusedStart, if_pos ⟨hstart, by omega, hv, h4, h5⟩, hfacet, startHostOp_refused hside.2 h4 h5]
  obtain ⟨hrefuse, hstate, hcause⟩ := refuseOp_effect (fset u (Fld.fmemOpctl_OP f) (v % 8)) f
  rw [hrefused] at ht hregs
  exact ⟨((hside.1.fset _ _).trans hrefuse).trans ht, (fget_of_regs _ hregs).trans hstate, (fget_of_regs _ hregs).trans hcause⟩

/-! ### Accesses that no block accepts, CHIPID (R12, R360, R400) -/

theorem accessCause_lt (bar : Nat) (isWrite : Bool) (addr size : Nat) : accessCause bar isWrite addr size < 16 := by
  unfold accessCause
  split
  · decide
  · split <;> decide

/-- An access of BAR0 or BAR2 of a wrong size or alignment, or to an address that nothing answers, is logged; a read answers with bytes of 0xFF (R12). -/
theorem execBar0AccessError_refused {s : State} {bar : Nat} (isWrite : Bool) {addr size : Nat} (hup : hostUp s = true) (hbar : bar < 2)
    (h : sizeOk addr size = false ∨ (bar = 0 ∧ inBlock addr = false ∧ inFacetMem addr = false) ∨ (bar = 1 ∧ inDoorbell addr = false)) :
    execBar0AccessError bar isWrite addr size s
      = .next (let t := hostErr s bar isWrite addr size (accessCause bar isWrite addr size)
               if isWrite then t else emit t (.readData (List.replicate size 0xFF#8))) := by
  unfold execBar0AccessError
  refine whenever_true ?_
  rcases h with hsize | ⟨rfl, hin, hmem⟩ | ⟨rfl, hin⟩
  · simp [hup, hbar, hsize]
  · simp [hup, hin, hmem]
  · simp [hup, hin]

theorem logsAccess_emit {s t : State} {bar cause : Nat} {isWrite : Bool} (h : LogsAccess s t bar isWrite cause) (m : Msg) :
    LogsAccess s (emit t m) bar isWrite cause := h

/-- CHIP is written only while every port is DOWN (R360). -/
theorem chipidWrite_effect {s : State} (chip : Nat) (hup : hostUp s = true) :
    ∃ t, execChipidWrite chip s = .next t ∧ OnlyFields [Fld.chdChipid_CHIP] s t
      ∧ fget t Fld.chdChipid_CHIP = if (∀ p < 8, fget s (Fld.chdPState_STATE p) = 0) then chip % 64 else fget s Fld.chdChipid_CHIP := by
  have hports : (List.range 8).all (fun p => portState s p = 0) = true ↔ ∀ p < 8, fget s (Fld.chdPState_STATE p) = 0 := by
    simp only [List.all_eq_true, List.mem_range]
    exact forall₂_congr fun p _ => decide_eq_true_iff
  unfold execChipidWrite
  by_cases hdown : ∀ p < 8, fget s (Fld.chdPState_STATE p) = 0
  · refine ⟨_, whenever_true (by rw [hup, hports.mpr hdown]; rfl), onlyFields_fset _ chip (onlyFields_self s _) (by simp), ?_⟩
    rw [if_pos hdown, fget_fset_same]
    rfl
  · have hall := Bool.eq_false_iff.mpr (mt hports.mp hdown)
    exact ⟨s, whenever_false (by rw [hup, hall]; rfl), onlyFields_self s _, (if_neg hdown).symm⟩

/-- Settles O43, clause by clause: a word of a register, a start bit, a refused facet memory operation, a pair of words, a refused write, a refused access, CHIPID. -/
theorem hostRegisterAccesses : Obligations.HostRegisterAccesses := by
  unfold Obligations.HostRegisterAccesses
  intro s hup
  simp only [exec_hostRegisterWrite, exec_bar0AccessError, exec_chipidWrite]
  refine ⟨?_, ?_, ?_, ?_, ?_, ?_, fun chip => chipidWrite_effect chip hup⟩
  · intro addr v hsize hin hmem hmsix hv hmgr hstart
    exact ⟨_, execHostRegisterWrite_register hup hsize hin hmem hmsix hv, hostWordWrite_fields hmgr hstart⟩
  · intro addr v haddr hspine hset hv hmgr
    have hplace : sizeOk addr 4 = true ∧ inBlock addr = true ∧ inFacetMem addr = false ∧ inMsix addr = false := by
      rcases startRegister_spine haddr (by omega) with rfl | rfl | rfl <;> decide
    obtain ⟨hsize, hin, hmem, hmsix⟩ := hplace
    obtain ⟨hside, hregs⟩ := hostWordWrite_started hmgr haddr (by omega) hset
    exact ⟨_, execHostRegisterWrite_register hup hsize hin hmem hmsix hv, hregs, hside.sameMemories⟩
  · intro f v hf hset hv h4 h5 hidle
    obtain ⟨hside, hstate, hcause⟩ := hostWordWrite_refusedStart hf hset h4 h5 hidle
    obtain ⟨-, hsize, hin, hmem, hmsix⟩ := opctl_place hf
    exact ⟨_, execHostRegisterWrite_register hup hsize hin hmem hmsix hv, hstate, hcause, hside.sameMemories, hside.memOps⟩
  · intro addr v u hsize hin hin4 hmem hmem4 hlow hupu
    obtain ⟨hsizeLow, hsizeHigh⟩ := sizeOk_words hsize
    rw [execHostRegisterWrite_word _ hup hsizeLow hin hmem, Nat.mod_mod] at hlow
    obtain rfl := Host.Outcome.next.inj hlow
    rw [execHostRegisterWrite_pair v hup hsize hin hin4 hmem, execHostRegisterWrite_word _ hupu hsizeHigh hin4 hmem4, Nat.mod_mod]
  · intro addr size v hmem h
    exact ⟨_, execHostRegisterWrite_refused v hup hmem h, logsAccess_hostErr s true addr size (by decide) (by split <;> decide)⟩
  · intro bar isWrite addr size hbar h
    have hlog := logsAccess_hostErr s isWrite addr size (bar := bar) (by omega) (accessCause_lt bar isWrite addr size)
    refine ⟨_, execBar0AccessError_refused isWrite hup hbar h, ?_⟩
    cases isWrite with
    | true => exact ⟨hlog, fun h => by cases h⟩
    | false => exact ⟨logsAccess_emit hlog _, fun _ => by simp [emit, ((registerSide_self s).hostErr _ _ _ _ _).now]⟩

end Sys2Proof.Machine
end

section
/-! The commands of the Frame Sequencer by name, and the host's writes to RUN, SRC, SWAP and the report ring (R18, R23, R33, R52, R53). -/

namespace Sys2Proof.Machine

/-! ### Commands by name -/

theorem exec_internalTimerTick (s : State) : exec .internalTimerTick s = execInternalTimerTick s := by rfl
theorem exec_tickInEdge (s : State) : exec .tickInEdge s = execTickInEdge s := by rfl
theorem exec_ptmGridTick (point : Int) (s : State) : exec (.ptmGridTick point) s = execPtmGridTick point s := by rfl
theorem exec_tickSynth (s : State) : exec .tickSynth s = execTickSynth s := by rfl
theorem exec_runStart (s : State) : exec .runStart s = execRunStart s := by rfl
theorem exec_runStop (s : State) : exec .runStop s = execRunStop s := by rfl
theorem exec_fsqTickctlWrite (src : Nat) (s : State) : exec (.fsqTickctlWrite src) s = execFsqTickctlWrite src s := by rfl
theorem exec_fsqSwapReq (s : State) : exec .fsqSwapReq s = execFsqSwapReq s := by rfl
theorem exec_fsqSwapCancel (s : State) : exec .fsqSwapCancel s = execFsqSwapCancel s := by rfl
theorem exec_fsqRptTailWrite (tail : Nat) (s : State) : exec (.fsqRptTailWrite tail) s = execFsqRptTailWrite tail s := by rfl
theorem exec_fsqRptRingConfig (reg : RingReg) (v : Word) (s : State) : exec (.fsqRptRingConfig reg v) s = execFsqRptRingConfig reg v s := by rfl
theorem exec_taskRelease (task : Nat) (s : State) : exec (.taskRelease task) s = execTaskRelease task s := by rfl
theorem exec_expressDispatch (task : Nat) (s : State) : exec (.expressDispatch task) s = execExpressDispatch task s := by rfl
theorem exec_stallWatchdog (w : Who) (s : State) : exec (.stallWatchdog w) s = execStallWatchdog w s := by rfl
theorem exec_hardLimit (s : State) : exec .hardLimit s = execHardLimit s := by rfl
theorem exec_reservedWindowOpen (i : Nat) (s : State) : exec (.reservedWindowOpen i) s = execReservedWindowOpen i s := by rfl
theorem exec_reservedWindowClose (i : Nat) (s : State) : exec (.reservedWindowClose i) s = execReservedWindowClose i s := by rfl
theorem exec_loadImage (qp : Nat) (s : State) : exec (.loadImage qp) s = execLoadImage qp s := by rfl
theorem exec_admissionEnd (s : State) : exec .admissionEnd s = execAdmissionEnd s := by rfl
theorem exec_manifestCmd (qp : Nat) (s : State) : exec (.manifestCmd qp) s = execManifestCmd qp s := by rfl
theorem exec_manifestFetchEnd (n : Nat) (s : State) : exec (.manifestFetchEnd n) s = execManifestFetchEnd n s := by rfl
theorem exec_expressRequest (qp : Nat) (r : List Byte) (s : State) : exec (.expressRequest qp r) s = execExpressRequest qp r s := by rfl
theorem exec_frameReport (s : State) : exec .frameReport s = execFrameReport s := by rfl
theorem exec_configCommit (s : State) : exec .configCommit s = execConfigCommit s := by rfl

/-! ### Where the part stands -/

theorem serving_of_hostUp {s : State} (h : hostUp s = true) : serving s = true := by
  simp only [hostUp, hostLink, Bool.and_eq_true] at h
  exact h.1.1.1

theorem fon_iff (s : State) (f : Field) : fon s f = true ↔ fget s f ≠ 0 := decide_eq_true_iff

theorem fon_eq_false_iff (s : State) (f : Field) : fon s f = false ↔ fget s f = 0 := by
  simp [fon]

theorem afterStop_of_none {s : State} (h : s.power.stopReq = none) : afterStop s = s := by
  simp [afterStop, h]

/-! ### RUN (R52) -/

theorem runIgnored_iff (s : State) : runIgnored s = true ↔ fget s Fld.mgtStatus_OFFLINE ≠ 0 ∨ s.power.fatal = true := by
  simp [runIgnored]

theorem runIgnored_eq_false {s : State} (hoff : fget s Fld.mgtStatus_OFFLINE = 0) (hfatal : s.power.fatal = false) : runIgnored s = false := by
  simp [runIgnored, hoff, hfatal]

/-- A write of 1 to RUN that is not ignored. -/
theorem execRunStart_runs {s : State} (hup : hostUp s = true) (hrun : runIgnored s = false) :
    execRunStart s = .next (if runOn s then modSeq s (fun q => { q with stopReq := false }) else startRun s) :=
  whenever_true (by simp [hup, hrun])

/-- Frames stop where no offline mode waits for it. -/
theorem stopFrames_eq {s : State} (h : s.power.stopReq = none) :
    stopFrames s = { fset s Fld.fsqCtl_RUN 0 with seq := { s.seq with stopReq := false, inFrame := false, winOpen := [] } } :=
  afterStop_of_none h

theorem stopRun_atOnce {s : State} (hrun : runOn s = true) (hdone : s.seq.inFrame = true → s.seq.reported = true) : stopRun s = stopFrames s := by
  have hopen : (s.seq.inFrame && !s.seq.reported) = false := by
    cases hf : s.seq.inFrame with
    | false => rfl
    | true => rw [hdone hf]; rfl
  simp [stopRun, hrun, hopen]

/-! ### The report ring's registers (R53) -/

/-- The ring with no report in it. -/
def emptyRing (s : State) : State := fset (fset s Fld.fsqRptHead_HEAD 0) Fld.fsqRptTail_TAIL 0

/-- A write to a register of the ring sets it and empties the ring. -/
theorem execFsqRptRingConfig_up {s : State} (reg : RingReg) (w : Word) (hup : hostUp s = true) :
    execFsqRptRingConfig reg w s = .next (emptyRing (match reg with
      | .baseLo => fset s Fld.fsqRptBaseLo_BASE (w.toNat / 2 ^ 12)
      | .baseHi => fset s Fld.fsqRptBaseHi_BASE w.toNat
      | .cfg => fset (fset s Fld.fsqRptCfg_BUFKIB (min 1024 (max 4 (w.toNat / 2 ^ 16)))) Fld.fsqRptCfg_BUFS (w.toNat % 4096))) := by
  cases reg <;> exact whenever_true hup

theorem fget_emptyRing_head (s : State) : fget (emptyRing s) Fld.fsqRptHead_HEAD = 0 := by
  rw [emptyRing, fget_fset_other _ _ _ _ (by decide), fget_fset_same]
  rfl

theorem fget_emptyRing_tail (s : State) : fget (emptyRing s) Fld.fsqRptTail_TAIL = 0 := fget_fset_same _ _ 0

theorem fget_emptyRing_other (s : State) {f : Field} (hh : f.key ≠ Fld.fsqRptHead_HEAD.key) (ht : f.key ≠ Fld.fsqRptTail_TAIL.key) :
    fget (emptyRing s) f = fget s f := by
  rw [emptyRing, fget_fset_other _ _ _ _ ht, fget_fset_other _ _ _ _ hh]

theorem onlyFields_emptyRing {s t : State} {fs : List Field} (h : OnlyFields fs s t) (hh : Fld.fsqRptHead_HEAD ∈ fs) (ht : Fld.fsqRptTail_TAIL ∈ fs) :
    OnlyFields fs s (emptyRing t) :=
  onlyFields_fset _ _ (onlyFields_fset _ _ h hh) ht

/-- A write to TAIL frees buffers where it lies between TAIL and HEAD, and is ignored elsewhere. -/
theorem execFsqRptTailWrite_eq {s : State} {v : Nat} (hup : hostUp s = true) (hv : v < 4096) :
    let n := fget s Fld.fsqRptCfg_BUFS
    let gap x := (x + n - fget s Fld.fsqRptTail_TAIL) % n
    execFsqRptTailWrite v s = .next (if v < n ∧ gap v ≤ gap (fget s Fld.fsqRptHead_HEAD) then fset s Fld.fsqRptTail_TAIL v else s) := by
  intro n gap
  unfold execFsqRptTailWrite
  rw [Nat.mod_eq_of_lt hv]
  by_cases h : v < n ∧ gap v ≤ gap (fget s Fld.fsqRptHead_HEAD)
  · rw [if_pos h]
    exact whenever_true (by simp only [hup, Bool.true_and, Bool.and_eq_true, decide_eq_true_eq]; exact h)
  · rw [if_neg h]
    refine whenever_false (Bool.eq_false_iff.mpr fun hc => h ?_)
    simp only [hup, Bool.true_and, Bool.and_eq_true, decide_eq_true_eq] at hc
    exact hc

/-- Settles O40, write by write: RUN 1, RUN 0, SRC, REQ, CANCEL, TAIL, the registers of the ring. -/
theorem hostStartsStopsAndSwapsFrames : Obligations.HostStartsStopsAndSwapsFrames := by
  unfold Obligations.HostStartsStopsAndSwapsFrames
  intro s hup n emptied
  simp only [exec_runStart, exec_runStop, exec_fsqTickctlWrite, exec_fsqSwapReq, exec_fsqSwapCancel, exec_fsqRptTailWrite, exec_fsqRptRingConfig]
  have honly := fun fs => onlyFields_self s fs
  refine ⟨?_, ?_, ?_, ?_, ?_, ?_, ?_, ?_, ?_, ?_, ?_, ?_⟩
  · intro h
    exact whenever_false (by rw [(runIgnored_iff s).mpr h, Bool.not_true, Bool.and_false])
  · intro hoff hfatal hrun
    have hoffRun : runOn s = false := (fon_eq_false_iff s _).mpr hrun
    rw [execRunStart_runs hup (runIgnored_eq_false hoff hfatal), hoffRun]
    exact ⟨_, rfl, fget_fset_same s _ 1, rfl, rfl, rfl, rfl, rfl, rfl, rfl⟩
  · intro hoff hfatal hrun
    rw [execRunStart_runs hup (runIgnored_eq_false hoff hfatal), runOn, (fon_iff s _).mpr hrun]
    rfl
  · intro hrun
    have hoffRun : runOn s = false := (fon_eq_false_iff s _).mpr hrun
    rw [execRunStop, whenever_true hup, stopRun, hoffRun]
    rfl
  · intro hrun hin hrep
    have hon : runOn s = true := (fon_iff s _).mpr hrun
    rw [execRunStop, whenever_true hup]
    simp [stopRun, hon, hin, hrep, modSeq]
  · intro hrun hdone hstop
    refine ⟨_, whenever_true hup, ?_⟩
    rw [stopRun_atOnce ((fon_iff s _).mpr hrun) hdone, stopFrames_eq hstop]
    exact ⟨fget_fset_same s _ 0, rfl⟩
  · intro src
    exact ⟨_, whenever_true hup, fget_fset_same s _ src, onlyFields_fset _ _ (honly _) (by simp)⟩
  · intro hreq
    refine ⟨_, whenever_true ?_, fget_fset_same s _ 1, rfl⟩
    rw [hup, (fon_eq_false_iff s _).mpr hreq]
    rfl
  · exact ⟨_, whenever_true hup, fget_fset_same s _ 0, onlyFields_fset _ _ (honly _) (by simp)⟩
  · intro v hn hgap hv
    rw [execFsqRptTailWrite_eq hup hv, if_pos ⟨hn, hgap⟩]
    exact ⟨_, rfl, (fget_fset_same s _ v).trans (Nat.mod_eq_of_lt hv), onlyFields_fset _ _ (honly _) (by simp)⟩
  · intro v hv h
    rw [execFsqRptTailWrite_eq hup hv, if_neg]
    rintro ⟨hlt, hgap⟩
    exact h.elim (Nat.not_le_of_lt hlt) (Nat.not_lt_of_le hgap)
  · intro w
    have hw : w.toNat < 2 ^ 32 := w.isLt
    have hemptied := fun t => And.intro (fget_emptyRing_head t) (fget_emptyRing_tail t)
    simp only [execFsqRptRingConfig_up _ w hup]
    refine ⟨⟨_, rfl, ?_, hemptied _, ?_⟩, ⟨_, rfl, ?_, hemptied _, ?_⟩, _, rfl, ?_, ?_, hemptied _, ?_⟩
    · rw [fget_emptyRing_other _ (by decide) (by decide), fget_fset_same]
      exact Nat.mod_eq_of_lt (show _ < 2 ^ 20 by omega)
    · exact onlyFields_emptyRing (onlyFields_fset _ _ (honly _) (by simp)) (by simp) (by simp)
    · rw [fget_emptyRing_other _ (by decide) (by decide), fget_fset_same]
      exact Nat.mod_eq_of_lt hw
    · exact onlyFields_emptyRing (onlyFields_fset _ _ (honly _) (by simp)) (by simp) (by simp)
    · rw [fget_emptyRing_other _ (by decide) (by decide), fget_fset_other _ _ _ _ (by decide), fget_fset_same]
      exact Nat.mod_eq_of_lt (show _ < 2 ^ 16 by omega)
    · rw [fget_emptyRing_other _ (by decide) (by decide), fget_fset_same]
      exact Nat.mod_mod _ 4096
    · exact onlyFields_emptyRing (onlyFields_fset _ _ (onlyFields_fset _ _ (honly _) (by simp)) (by simp)) (by simp) (by simp)

end Sys2Proof.Machine
end

section
/-! The configuration record: what a commit stages, clamps and brings into force (R25, R442 to R445, R447, Table 16-1). -/

namespace Sys2Proof.Machine

/-! ### The three copies -/

theorem stage_key (i : Nat) : (Fld.rpmCfgStage_VALUE i).key = (0xec040 + i * 4) * 32 := rfl
theorem commit_key (i : Nat) : (Fld.rpmCfgCommit_VALUE i).key = (0xec080 + i * 4) * 32 := rfl
theorem force_key (i : Nat) : (Fld.rpmCfgForce_VALUE i).key = (0xec0c0 + i * 4) * 32 := rfl

/-- No field of Table 16-1 takes a value above 100 000. -/
theorem cfgClamped_le {i : Nat} (v : Nat) (hi : i < 8) : cfgClamped i v ≤ 100000 := by
  have hhigh : ∀ j < 8, Config.cfgHigh j ≤ 100000 := by decide
  exact (Nat.min_le_right _ _).trans (hhigh i hi)

/-- Of the state, what a commit and its coming into force may change (R443, R445, R449). -/
def CommitSide (s t : State) : Prop :=
  t = { s with regs := t.regs, seq := { s.seq with clampRecs := t.seq.clampRecs }, clamps := t.clamps, cyc := t.cyc }

theorem commitSide_self (s : State) : CommitSide s s := rfl

theorem CommitSide.trans {s t u : State} (h : CommitSide s t) (k : CommitSide t u) : CommitSide s u := by
  unfold CommitSide at *
  rw [k, h]

theorem CommitSide.fset {s t : State} (h : CommitSide s t) (f : Field) (v : Nat) : CommitSide s (fset t f v) := h.trans rfl

/-- The effect of bringing values into force: beside the clamp records, only registers with a key in `ks` may have changed. -/
structure Applies (ks : List Nat) (s t : State) : Prop where
  side : CommitSide s t
  others : ∀ g : Field, g.key ∉ ks → fget t g = fget s g

theorem applies_self (ks : List Nat) (s : State) : Applies ks s s := ⟨rfl, fun _ _ => rfl⟩

theorem Applies.trans {ks : List Nat} {s t u : State} (h : Applies ks s t) (k : Applies ks t u) : Applies ks s u :=
  ⟨h.side.trans k.side, fun g hg => (k.others g hg).trans (h.others g hg)⟩

theorem Applies.mono {ks ls : List Nat} {s t : State} (h : Applies ks s t) (hk : ks ⊆ ls) : Applies ls s t :=
  ⟨h.side, fun g hg => h.others g fun hm => hg (hk hm)⟩

theorem applies_fset {ks : List Nat} (s : State) {f : Field} (v : Nat) (h : f.key ∈ ks) : Applies ks s (fset s f v) :=
  ⟨rfl, fun g hg => fget_fset_other s f g v fun e => hg (e ▸ h)⟩

/-- What counts and holds clamp records. -/
theorem applies_produceClamp {ks : List Nat} (s : State) (c : Clamp) (h : Fld.rpmCfgCntClamp_COUNT.key ∈ ks) : Applies ks s (produceClamp s c) :=
  (applies_fset s _ h).trans ⟨rfl, fun _ _ => rfl⟩

theorem applies_clamps {ks : List Nat} (s : State) (cs : List Clamp) : Applies ks s { s with clamps := cs } := ⟨rfl, fun _ _ => rfl⟩

theorem applies_foldl {α : Type} {ks : List Nat} {f : State → α → State} (xs : List α) (h : ∀ t x, Applies ks t (f t x)) (s : State) :
    Applies ks s (xs.foldl f s) := by
  induction xs generalizing s with
  | nil => exact applies_self ks s
  | cons x r ih => exact (h s x).trans (ih _)

/-- The registers that field `i` writes as it comes into force. -/
def applyKeys (i : Nat) : List Nat := [(Fld.rpmCfgForce_VALUE i).key, Fld.chdMcstall_LIMITUS.key, Fld.rpmCfgCntClamp_COUNT.key]

/-- Field `i` takes its committed value. -/
def forced (s : State) (i : Nat) : State := fset s (Fld.rpmCfgForce_VALUE i) (cfgCommitted s i)

theorem applies_forced (s : State) (i : Nat) : Applies (applyKeys i) s (forced s i) := applies_fset s _ (by simp [applyKeys])

/-- A field comes into force first; what follows counts clamp records, and sets the stall limit of field 4. -/
theorem applies_applyField_of_forced (s : State) (i : Nat) :
    Applies [Fld.chdMcstall_LIMITUS.key, Fld.rpmCfgCntClamp_COUNT.key] (forced s i) (applyField s i) := by
  unfold applyField
  refine Applies.trans (t := if i = 4 then fset (forced s i) Fld.chdMcstall_LIMITUS (cfgCommitted (forced s i) 4) else forced s i) ?_
    (Applies.trans (applies_clamps _ _) (applies_foldl _ (fun t c => applies_produceClamp t c (by simp)) _))
  split
  · exact applies_fset _ _ (by simp)
  · exact applies_self _ _

theorem applies_applyField (s : State) (i : Nat) : Applies (applyKeys i) s (applyField s i) :=
  (applies_forced s i).trans ((applies_applyField_of_forced s i).mono (by simp [applyKeys]))

theorem cfgCommitted_applyField (s : State) (i : Nat) {j : Nat} (hj : j < 8) : cfgCommitted (applyField s i) j = cfgCommitted s j := by
  refine (applies_applyField s i).others _ ?_
  have hcount : Fld.rpmCfgCntClamp_COUNT.key = 0xec008 * 32 := by decide
  have hstall : Fld.chdMcstall_LIMITUS.key = 0xc0014 * 32 := by decide
  simp only [applyKeys, List.mem_cons, List.not_mem_nil, or_false, commit_key, force_key, hcount, hstall]
  omega

theorem cfgForce_applyField (s : State) (i j : Nat) : cfgForce (applyField s i) j = if j = i then cfgCommitted s i % 2 ^ 32 else cfgForce s j := by
  have hcount : Fld.rpmCfgCntClamp_COUNT.key = 0xec008 * 32 := by decide
  have hstall : Fld.chdMcstall_LIMITUS.key = 0xc0014 * 32 := by decide
  rw [cfgForce, (applies_applyField_of_forced s i).others]
  · split
    · next h => rw [h]; exact fget_fset_same s _ _
    · exact fget_fset_other s _ _ _ (by rw [force_key, force_key]; omega)
  · simp only [List.mem_cons, List.not_mem_nil, or_false, force_key, hcount, hstall]
    omega

/-- Registers that fields coming into force leave alone: those outside the copy in force, the stall limit and the count of clamps. -/
abbrev NotApplied (g : Field) : Prop :=
  (g.key < 0xec0c0 * 32 ∨ 0xec0e0 * 32 ≤ g.key) ∧ g.key ≠ Fld.chdMcstall_LIMITUS.key ∧ g.key ≠ Fld.rpmCfgCntClamp_COUNT.key

theorem fget_applyField {g : Field} (s : State) {i : Nat} (hi : i < 8) (hg : NotApplied g) : fget (applyField s i) g = fget s g := by
  obtain ⟨hforce, hstall, hcount⟩ := hg
  refine (applies_applyField s i).others g ?_
  simp only [applyKeys, List.mem_cons, List.not_mem_nil, force_key, hstall, hcount, or_false]
  omega

/-! ### The fields of a tick and of a swap (R445) -/

/-- Fields 2 to 5 come into force, and no other. -/
theorem cfgForce_applyTickFields (s : State) (j : Nat) :
    cfgForce (applyTickFields s) j = if 2 ≤ j ∧ j < 6 then cfgCommitted s j % 2 ^ 32 else cfgForce s j := by
  simp only [applyTickFields, List.foldl_cons, List.foldl_nil, cfgForce_applyField, cfgCommitted_applyField _ _ (show 3 < 8 by decide),
    cfgCommitted_applyField _ _ (show 4 < 8 by decide), cfgCommitted_applyField _ _ (show 5 < 8 by decide)]
  by_cases h : 2 ≤ j ∧ j < 6
  · obtain ⟨hlow, hhigh⟩ := h
    interval_cases j <;> rfl
  · rw [if_neg h, if_neg (by omega), if_neg (by omega), if_neg (by omega), if_neg (by omega)]

theorem fget_applyTickFields {g : Field} (s : State) (hg : NotApplied g) : fget (applyTickFields s) g = fget s g := by
  simp only [applyTickFields, List.foldl_cons, List.foldl_nil]
  rw [fget_applyField _ (by decide) hg, fget_applyField _ (by decide) hg, fget_applyField _ (by decide) hg, fget_applyField _ (by decide) hg]

theorem commitSide_applyTickFields (s : State) : CommitSide s (applyTickFields s) := by
  simp only [applyTickFields, List.foldl_cons, List.foldl_nil]
  exact (((applies_applyField s 2).side.trans (applies_applyField _ 3).side).trans (applies_applyField _ 4).side).trans (applies_applyField _ 5).side

/-- The period and the budget computed from fields 0 and 1 in force (R25, R442). -/
def withBudget (s : State) : State :=
  fset (fset s Fld.fsqPeriod_PERIODUS (cfgForce s 0)) Fld.fsqBudget_B (budgetOf (cfgForce s 0) (cfgForce s 1))

/-- After the period and the budget, fields 0 and 1 coming into force leaves a clamp record of the allowance, and WAITING. -/
theorem applySwapFields_eq (s : State) : ∃ u, applySwapFields s = cfgWaiting u
    ∧ Applies [Fld.rpmCfgCntClamp_COUNT.key] (withBudget (applyField (applyField s 0) 1)) u := by
  refine ⟨_, rfl, ?_⟩
  split
  · exact applies_produceClamp _ _ (by simp)
  · exact applies_self _ _

theorem commitSide_cfgWaiting (s : State) : CommitSide s (cfgWaiting s) := rfl

theorem commitSide_applySwapFields (s : State) : CommitSide s (applySwapFields s) := by
  obtain ⟨u, hu, happ⟩ := applySwapFields_eq s
  rw [hu]
  exact ((((applies_applyField s 0).side.trans (applies_applyField _ 1).side).trans ((commitSide_self _).fset _ _ |>.fset _ _)).trans happ.side).trans (commitSide_cfgWaiting u)

/-- What is in force once fields 0 and 1 have come into force. -/
theorem cfgForce_applySwapFields (s : State) (j : Nat) : cfgForce (applySwapFields s) j = if j < 2 then cfgCommitted s j % 2 ^ 32 else cfgForce s j := by
  obtain ⟨u, hu, happ⟩ := applySwapFields_eq s
  have hcount : Fld.rpmCfgCntClamp_COUNT.key = 0xec008 * 32 := by decide
  have hwait : Fld.rpmCfgCmd_WAITING.key = 0xec000 * 32 + 8 := by decide
  have hperiod : Fld.fsqPeriod_PERIODUS.key = 0x10008 * 32 := by decide
  have hbudget : Fld.fsqBudget_B.key = 0x1000c * 32 := by decide
  have hforce : cfgForce (applySwapFields s) j = cfgForce (applyField (applyField s 0) 1) j := by
    rw [hu, cfgForce, cfgWaiting, fget_fset_other _ _ _ _ (by rw [force_key, hwait]; omega), happ.others _ (by simp only [List.mem_singleton, force_key, hcount]; omega),
      withBudget, fget_fset_other _ _ _ _ (by rw [force_key, hbudget]; omega), fget_fset_other _ _ _ _ (by rw [force_key, hperiod]; omega)]
    rfl
  rw [hforce, cfgForce_applyField, cfgForce_applyField, cfgCommitted_applyField _ _ (by decide)]
  by_cases h : j < 2
  · interval_cases j <;> rfl
  · rw [if_neg h, if_neg (by omega), if_neg (by omega)]

theorem fget_applySwapFields {g : Field} (s : State) (hg : NotApplied g) (hwait : g.key ≠ Fld.rpmCfgCmd_WAITING.key)
    (hperiod : g.key ≠ Fld.fsqPeriod_PERIODUS.key) (hbudget : g.key ≠ Fld.fsqBudget_B.key) : fget (applySwapFields s) g = fget s g := by
  obtain ⟨u, hu, happ⟩ := applySwapFields_eq s
  rw [hu, cfgWaiting, fget_fset_other _ _ _ _ hwait, happ.others _ (by simpa using hg.2.2), withBudget, fget_fset_other _ _ _ _ hbudget,
    fget_fset_other _ _ _ _ hperiod, fget_applyField _ (by decide) hg, fget_applyField _ (by decide) hg]

/-- The period, the budget and WAITING once fields 0 and 1 have come into force. -/
theorem swapFields_inForce (s : State) :
    let us := cfgCommitted s 0 % 2 ^ 32
    fget (applySwapFields s) Fld.fsqPeriod_PERIODUS = us % 2 ^ 15 ∧ fget (applySwapFields s) Fld.fsqBudget_B = budgetOf us (cfgCommitted s 1 % 2 ^ 32) % 2 ^ 25 := by
  obtain ⟨u, hu, happ⟩ := applySwapFields_eq s
  have hf0 : cfgForce (applyField (applyField s 0) 1) 0 = cfgCommitted s 0 % 2 ^ 32 := by rw [cfgForce_applyField, cfgForce_applyField]; rfl
  have hf1 : cfgForce (applyField (applyField s 0) 1) 1 = cfgCommitted s 1 % 2 ^ 32 := by
    rw [cfgForce_applyField, cfgCommitted_applyField _ _ (by decide)]; rfl
  constructor
  · rw [hu, cfgWaiting, fget_fset_other _ _ _ _ (by decide), happ.others _ (by decide), withBudget, fget_fset_other _ _ _ _ (by decide), fget_fset_same, hf0]
    rfl
  · rw [hu, cfgWaiting, fget_fset_other _ _ _ _ (by decide), happ.others _ (by decide), withBudget, fget_fset_same, hf0, hf1]
    rfl

/-! ### The commit (R443, R444) -/

theorem onlyFields_putFields (F : Nat → Field) (g : Nat → Nat) (is : List Nat) (s : State) :
    OnlyFields (is.map F) s (is.foldl (fun t i => fset t (F i) (g i)) s) := by
  have h : ∀ js ⊆ is, ∀ t, OnlyFields (is.map F) s t → OnlyFields (is.map F) s (js.foldl (fun t i => fset t (F i) (g i)) t) := by
    intro js
    induction js with
    | nil => exact fun _ _ ht => ht
    | cons j r ih =>
      intro hjs t ht
      have hj := List.cons_subset.mp hjs
      exact ih hj.2 _ (onlyFields_fset _ _ ht (List.mem_map_of_mem hj.1))
  exact h is (List.Subset.refl is) s (onlyFields_self s _)

/-- Each of several fields with keys of their own reads what was written to it. -/
theorem fget_putFields {F : Nat → Field} (hinj : ∀ i j, (F i).key = (F j).key → i = j) (g : Nat → Nat) {is : List Nat} (hnd : is.Nodup) {i : Nat} (hi : i ∈ is)
    (s : State) : fget (is.foldl (fun t j => fset t (F j) (g j)) s) (F i) = g i % 2 ^ (F i).width := by
  induction is generalizing s with
  | nil => cases hi
  | cons j r ih =>
    obtain ⟨hj, hr⟩ := List.nodup_cons.mp hnd
    by_cases hir : i ∈ r
    · exact ih hr hir _
    · obtain rfl : i = j := (List.mem_cons.mp hi).resolve_right hir
      rw [List.foldl_cons, (onlyFields_putFields F g r _).2, fget_fset_same]
      intro hm
      simp only [List.map_map, List.mem_map, Function.comp] at hm
      obtain ⟨k, hk, he⟩ := hm
      exact hir (hinj k i he ▸ hk)

theorem putCommitted_map (s : State) (g : Nat → Nat) :
    putCommitted s ((List.range 8).map g) = (List.range 8).foldl (fun t i => fset t (Fld.rpmCfgCommit_VALUE i) (g i)) s := by
  simp only [putCommitted, List.zip_map_right, List.foldl_map]
  rfl

/-! ### Bits -/

theorem bitSet_eq_testBit (x i : Nat) : bitSet x i = x.testBit i := (Nat.testBit_eq_decide_div_mod_eq).symm

theorem testBit_ofBits (bs : List Bool) (i : Nat) : (ofBits bs).testBit i = bs.getD i false := by
  induction bs generalizing i with
  | nil => simp [ofBits]
  | cons b r ih =>
    have hcons : ofBits (b :: r) = 2 * ofBits r + b.toNat := by
      cases b
      · simp [ofBits]
      · simp [ofBits, Nat.add_comm]
    cases i with
    | zero =>
      rw [hcons, Nat.testBit_zero]
      cases b <;> simp
    | succ j =>
      have hhalf : ofBits (b :: r) / 2 = ofBits r := by
        have := b.toNat_le
        omega
      rw [Nat.testBit_succ, hhalf, ih]
      rfl

/-! ### An accepted commit -/

theorem cfgTaken_of_none {s : State} (h : (thisCycle s).staged = []) (i : Nat) : cfgTaken s i = cfgStaged s i := by
  simp [cfgTaken, h]

/-- The value that a commit gives field `i`: the staged one brought within its range. -/
def commitValue (s : State) (i : Nat) : Nat := cfgClamped i (cfgStaged s i)

theorem commitValue_lt (s : State) {i : Nat} (hi : i < 8) : commitValue s i < 2 ^ 32 :=
  lt_of_le_of_lt (cfgClamped_le _ hi) (by decide)

/-- The committed fields of an accepted commit, with its clamp records waiting. -/
def commitFields (s : State) (cs : List Clamp) : State :=
  (List.range 8).foldl (fun t i => fset t (Fld.rpmCfgCommit_VALUE i) (commitValue s i)) { s with clamps := cs }

theorem onlyFields_commitFields (s : State) (cs : List Clamp) :
    OnlyFields ((List.range 8).map Fld.rpmCfgCommit_VALUE) { s with clamps := cs } (commitFields s cs) :=
  onlyFields_putFields _ _ _ _

theorem acceptCommit_eq {s : State} (h : (thisCycle s).staged = []) : ∃ cs, acceptCommit s
    = cfgWaiting (fset (fset (commitFields s cs) Fld.rpmCfgCmd_RESULT 0) Fld.rpmCfgClampmap_FIELD
        (ofBits ((List.range 8).map (fun i => decide (commitValue s i ≠ cfgStaged s i))))) := by
  have hvals : (List.range 8).map (fun i => cfgClamped i (cfgTaken s i)) = (List.range 8).map (commitValue s) := by
    simp only [cfgTaken_of_none h]
    rfl
  refine ⟨(List.range 8).filterMap (fun i =>
    let v := cfgTaken s i
    let c := cfgClamped i v
    if c = v then none else some ⟨i, if v < c then 1 else 2, v, c⟩), ?_⟩
  unfold acceptCommit
  simp only [hvals, putCommitted_map]
  simp only [cfgTaken_of_none h]
  rfl

theorem OnlyFields.commitSide {fs : List Field} {s t : State} (h : OnlyFields fs s t) : CommitSide s t := by
  rw [h.1]
  rfl

theorem commitSide_acceptCommit {s : State} (h : (thisCycle s).staged = []) : CommitSide s (acceptCommit s) ∧ (acceptCommit s).seq = s.seq := by
  obtain ⟨cs, hu⟩ := acceptCommit_eq h
  have hput := onlyFields_commitFields s cs
  have hclamps : CommitSide s { s with clamps := cs } := rfl
  have hseq : (commitFields s cs).seq = s.seq := by rw [hput.1]
  rw [hu]
  generalize commitFields s cs = u at *
  exact ⟨(((hclamps.trans hput.commitSide).fset _ _).fset _ _).trans (commitSide_cfgWaiting _), hseq⟩

/-- Registers that an accepted commit does not write itself. -/
abbrev NotCommitted (g : Field) : Prop :=
  (g.key < 0xec080 * 32 ∨ 0xec0a0 * 32 ≤ g.key) ∧ g.key ≠ Fld.rpmCfgCmd_RESULT.key ∧ g.key ≠ Fld.rpmCfgClampmap_FIELD.key ∧ g.key ≠ Fld.rpmCfgCmd_WAITING.key

theorem fget_acceptCommit {s : State} {g : Field} (h : (thisCycle s).staged = []) (hg : NotCommitted g) : fget (acceptCommit s) g = fget s g := by
  obtain ⟨hcopy, hresult, hmap, hwait⟩ := hg
  obtain ⟨cs, hu⟩ := acceptCommit_eq h
  rw [hu, cfgWaiting, fget_fset_other _ _ _ _ hwait, fget_fset_other _ _ _ _ hmap, fget_fset_other _ _ _ _ hresult,
    (onlyFields_commitFields s cs).2]
  · rfl
  · intro hm
    simp only [List.map_map, List.mem_map, List.mem_range, Function.comp, commit_key] at hm
    obtain ⟨i, hi, he⟩ := hm
    omega

theorem cfgCommitted_acceptCommit {s : State} (h : (thisCycle s).staged = []) {i : Nat} (hi : i < 8) :
    cfgCommitted (acceptCommit s) i = commitValue s i := by
  obtain ⟨cs, hu⟩ := acceptCommit_eq h
  have hmap : Fld.rpmCfgClampmap_FIELD.key = 0xec004 * 32 := by decide
  have hresult : Fld.rpmCfgCmd_RESULT.key = 0xec000 * 32 + 16 := by decide
  have hwait : Fld.rpmCfgCmd_WAITING.key = 0xec000 * 32 + 8 := by decide
  have hinj : ∀ j k, (Fld.rpmCfgCommit_VALUE j).key = (Fld.rpmCfgCommit_VALUE k).key → j = k := fun j k hjk => by
    rw [commit_key, commit_key] at hjk; omega
  rw [hu, cfgCommitted, cfgWaiting, fget_fset_other _ _ _ _ (by rw [commit_key, hwait]; omega), fget_fset_other _ _ _ _ (by rw [commit_key, hmap]; omega),
    fget_fset_other _ _ _ _ (by rw [commit_key, hresult]; omega), commitFields, fget_putFields hinj _ List.nodup_range (List.mem_range.mpr hi)]
  exact Nat.mod_eq_of_lt (commitValue_lt s hi)

/-- RESULT and the map of clamped fields after an accepted commit. -/
theorem commitRegisters {s : State} (h : (thisCycle s).staged = []) :
    fget (acceptCommit s) Fld.rpmCfgCmd_RESULT = 0
      ∧ ∀ i, i < 8 → (bitSet (fget (acceptCommit s) Fld.rpmCfgClampmap_FIELD) i = true ↔ commitValue s i ≠ cfgStaged s i) := by
  obtain ⟨cs, hu⟩ := acceptCommit_eq h
  refine ⟨?_, fun i hi => ?_⟩
  · rw [hu, cfgWaiting, fget_fset_other _ _ _ _ (by decide), fget_fset_other _ _ _ _ (by decide), fget_fset_same]
    rfl
  · rw [hu, cfgWaiting, fget_fset_other _ _ _ _ (by decide), fget_fset_same, bitSet_eq_testBit, show Fld.rpmCfgClampmap_FIELD.width = 8 from rfl,
      Nat.testBit_mod_two_pow, testBit_ofBits]
    simp [hi, List.getD_eq_getElem?_getD]

/-- WAITING shows what it compares. -/
theorem fget_cfgWaiting (s : State) :
    let t := cfgWaiting s
    fget t Fld.rpmCfgCmd_WAITING = if cfgCommitted t 0 ≠ cfgForce t 0 ∨ cfgCommitted t 1 ≠ cfgForce t 1 then 1 else 0 := by
  have hkeep : ∀ f : Field, f.key ≠ Fld.rpmCfgCmd_WAITING.key → fget (cfgWaiting s) f = fget s f := fun f hf => fget_fset_other s _ f _ hf
  intro t
  rw [cfgCommitted, cfgCommitted, cfgForce, cfgForce, hkeep (Fld.rpmCfgCommit_VALUE 0) (by decide), hkeep (Fld.rpmCfgCommit_VALUE 1) (by decide),
    hkeep (Fld.rpmCfgForce_VALUE 0) (by decide), hkeep (Fld.rpmCfgForce_VALUE 1) (by decide)]
  refine (fget_fset_same s _ _).trans (Nat.mod_eq_of_lt ?_)
  split <;> decide

theorem notCommitted_stage {i : Nat} (hi : i < 8) : NotCommitted (Fld.rpmCfgStage_VALUE i) := by
  have hmap : Fld.rpmCfgClampmap_FIELD.key = 0xec004 * 32 := by decide
  have hresult : Fld.rpmCfgCmd_RESULT.key = 0xec000 * 32 + 16 := by decide
  have hwait : Fld.rpmCfgCmd_WAITING.key = 0xec000 * 32 + 8 := by decide
  unfold NotCommitted
  rw [stage_key, hmap, hresult, hwait]
  omega

theorem notCommitted_force (i : Nat) : NotCommitted (Fld.rpmCfgForce_VALUE i) := by
  have hmap : Fld.rpmCfgClampmap_FIELD.key = 0xec004 * 32 := by decide
  have hresult : Fld.rpmCfgCmd_RESULT.key = 0xec000 * 32 + 16 := by decide
  have hwait : Fld.rpmCfgCmd_WAITING.key = 0xec000 * 32 + 8 := by decide
  unfold NotCommitted
  rw [force_key, hmap, hresult, hwait]
  omega

theorem waiting_acceptCommit {s : State} (h : (thisCycle s).staged = []) :
    fget (acceptCommit s) Fld.rpmCfgCmd_WAITING = if commitValue s 0 ≠ cfgForce s 0 ∨ commitValue s 1 ≠ cfgForce s 1 then 1 else 0 := by
  have hforce : ∀ i, cfgForce (acceptCommit s) i = cfgForce s i := fun i => fget_acceptCommit h (notCommitted_force i)
  rw [← hforce, ← hforce, ← cfgCommitted_acceptCommit h (i := 0) (by decide), ← cfgCommitted_acceptCommit h (i := 1) (by decide)]
  obtain ⟨cs, hu⟩ := acceptCommit_eq h
  rw [hu]
  exact fget_cfgWaiting _

/-! ### What takes effect at rest (R445) -/

/-- At rest, the registers outside the copy in force, WAITING, the period and the budget stay as the commit left them. -/
abbrev NotAtRest (g : Field) : Prop :=
  NotApplied g ∧ g.key ≠ Fld.rpmCfgCmd_WAITING.key ∧ g.key ≠ Fld.fsqPeriod_PERIODUS.key ∧ g.key ≠ Fld.fsqBudget_B.key

theorem applyAtRest_running {s : State} (h : runOn s = true) : applyAtRest s = s := by simp [applyAtRest, h]

theorem applyAtRest_active {s : State} (h : runOn s = false) (ha : fon s Fld.fsqStatus_ACTIVEVALID = true) : applyAtRest s = applyTickFields s := by
  have hact : fon (applyTickFields s) Fld.fsqStatus_ACTIVEVALID = true := by
    rw [fon, fget_applyTickFields s ⟨by decide, by decide, by decide⟩]
    exact ha
  simp [applyAtRest, h, hact]

theorem applyAtRest_empty {s : State} (h : runOn s = false) (ha : fon s Fld.fsqStatus_ACTIVEVALID = false) :
    applyAtRest s = applySwapFields (applyTickFields s) := by
  have hact : fon (applyTickFields s) Fld.fsqStatus_ACTIVEVALID = false := by
    rw [fon, fget_applyTickFields s ⟨by decide, by decide, by decide⟩]
    exact ha
  simp [applyAtRest, h, hact]

theorem commitSide_applyAtRest (s : State) : CommitSide s (applyAtRest s) := by
  unfold applyAtRest
  split
  · exact commitSide_self s
  · dsimp only
    split
    · exact commitSide_applyTickFields s
    · exact (commitSide_applyTickFields s).trans (commitSide_applySwapFields _)

theorem fget_applyAtRest {g : Field} (s : State) (hg : NotAtRest g) : fget (applyAtRest s) g = fget s g := by
  obtain ⟨hg, hwait, hperiod, hbudget⟩ := hg
  unfold applyAtRest
  split
  · rfl
  · dsimp only
    split
    · exact fget_applyTickFields s hg
    · rw [fget_applySwapFields _ hg hwait hperiod hbudget, fget_applyTickFields s hg]

theorem commitRefused_iff {s : State} (h : (thisCycle s).staged = []) :
    commitRefused s = true ↔ pendingState s ≠ 0 ∧ (commitValue s 0 ≠ cfgCommitted s 0 ∨ commitValue s 1 ≠ cfgCommitted s 1) := by
  simp only [commitRefused, cfgTaken_of_none h, Bool.and_eq_true, Bool.or_eq_true, decide_eq_true_eq]
  rfl

theorem notApplied_commit {i : Nat} (hi : i < 8) : NotApplied (Fld.rpmCfgCommit_VALUE i) := by
  have hcount : Fld.rpmCfgCntClamp_COUNT.key = 0xec008 * 32 := by decide
  have hstall : Fld.chdMcstall_LIMITUS.key = 0xc0014 * 32 := by decide
  rw [NotApplied, commit_key, hcount, hstall]
  omega

theorem notApplied_stage {i : Nat} (hi : i < 8) : NotApplied (Fld.rpmCfgStage_VALUE i) := by
  have hcount : Fld.rpmCfgCntClamp_COUNT.key = 0xec008 * 32 := by decide
  have hstall : Fld.chdMcstall_LIMITUS.key = 0xc0014 * 32 := by decide
  rw [NotApplied, stage_key, hcount, hstall]
  omega

/-- The committed and staged fields stand outside what comes into force at rest. -/
theorem notAtRest_of_page {g : Field} (h : NotApplied g) (hlow : 0xec040 * 32 ≤ g.key) : NotAtRest g := by
  have hwait : Fld.rpmCfgCmd_WAITING.key = 0xec000 * 32 + 8 := by decide
  have hperiod : Fld.fsqPeriod_PERIODUS.key = 0x10008 * 32 := by decide
  have hbudget : Fld.fsqBudget_B.key = 0x1000c * 32 := by decide
  rw [NotAtRest, hwait, hperiod, hbudget]
  exact ⟨h, by omega, by omega, by omega⟩

/-- The fields in force once a commit at rest has taken effect. -/
theorem cfgForce_atRest {s : State} (h : (thisCycle s).staged = []) (hrun : runOn s = false) {i : Nat} (hi : i < 8) :
    cfgForce (applyAtRest (acceptCommit s)) i
      = if 2 ≤ i ∧ i < 6 ∨ i < 2 ∧ fon s Fld.fsqStatus_ACTIVEVALID = false then commitValue s i else cfgForce s i := by
  have hrun' : runOn (acceptCommit s) = false := by rw [runOn, fon, fget_acceptCommit h (by decide)]; exact hrun
  have hact : fon (acceptCommit s) Fld.fsqStatus_ACTIVEVALID = fon s Fld.fsqStatus_ACTIVEVALID := by rw [fon, fget_acceptCommit h (by decide)]; rfl
  have hticks : cfgForce (applyTickFields (acceptCommit s)) i = if 2 ≤ i ∧ i < 6 then commitValue s i else cfgForce s i := by
    rw [cfgForce_applyTickFields, cfgCommitted_acceptCommit h hi, Nat.mod_eq_of_lt (commitValue_lt s hi)]
    rw [show cfgForce (acceptCommit s) i = cfgForce s i from fget_acceptCommit h (notCommitted_force i)]
  cases ha : fon s Fld.fsqStatus_ACTIVEVALID with
  | true =>
    rw [applyAtRest_active hrun' (hact.trans ha), hticks]
    simp
  | false =>
    have hcommitted : cfgCommitted (applyTickFields (acceptCommit s)) i = commitValue s i :=
      (fget_applyTickFields _ (notApplied_commit hi)).trans (cfgCommitted_acceptCommit h hi)
    rw [applyAtRest_empty hrun' (hact.trans ha), cfgForce_applySwapFields, hticks, hcommitted, Nat.mod_eq_of_lt (commitValue_lt s hi)]
    by_cases hlow : i < 2
    · rw [if_pos hlow, if_pos (.inr ⟨hlow, rfl⟩)]
    · simp only [hlow, if_false, false_and, or_false]

/-- The period, the budget and WAITING after a commit at rest with no image active (R25, R442). -/
theorem swapFields_atRest {s : State} (h : (thisCycle s).staged = []) (hrun : runOn s = false) (ha : fon s Fld.fsqStatus_ACTIVEVALID = false) :
    let t := applyAtRest (acceptCommit s)
    fget t Fld.fsqPeriod_PERIODUS = commitValue s 0 ∧ fget t Fld.rpmCfgCmd_WAITING = 0
      ∧ fget t Fld.fsqBudget_B = budgetOf (commitValue s 0) (commitValue s 1) := by
  intro t
  have hrun' : runOn (acceptCommit s) = false := by rw [runOn, fon, fget_acceptCommit h (by decide)]; exact hrun
  have hact : fon (acceptCommit s) Fld.fsqStatus_ACTIVEVALID = false := by rw [fon, fget_acceptCommit h (by decide)]; exact ha
  have ht : t = applySwapFields (applyTickFields (acceptCommit s)) := applyAtRest_empty hrun' hact
  have hcommitted : ∀ i, i < 8 → cfgCommitted (applyTickFields (acceptCommit s)) i = commitValue s i := fun i hi =>
    (fget_applyTickFields _ (notApplied_commit hi)).trans (cfgCommitted_acceptCommit h hi)
  have hcopy : ∀ i, i < 8 → cfgCommitted t i = commitValue s i := fun i hi =>
    (fget_applyAtRest _ (notAtRest_of_page (notApplied_commit hi) (by rw [commit_key]; omega))).trans (cfgCommitted_acceptCommit h hi)
  have hperiod : commitValue s 0 ≤ 20000 := Nat.min_le_right _ _
  obtain ⟨hus, hb⟩ := swapFields_inForce (applyTickFields (acceptCommit s))
  rw [hcommitted 0 (by decide), Nat.mod_eq_of_lt (commitValue_lt s (by decide))] at hus hb
  rw [hcommitted 1 (by decide), Nat.mod_eq_of_lt (commitValue_lt s (by decide))] at hb
  rw [← ht] at hus hb
  refine ⟨hus.trans (Nat.mod_eq_of_lt (by omega)), ?_, hb.trans (Nat.mod_eq_of_lt ?_)⟩
  · obtain ⟨u, hu, -⟩ := applySwapFields_eq (applyTickFields (acceptCommit s))
    have hwait := fget_cfgWaiting u
    rw [← hu, ← ht] at hwait
    rw [hwait, hcopy 0 (by decide), hcopy 1 (by decide), cfgForce_atRest h hrun (by decide), cfgForce_atRest h hrun (by decide), ha]
    simp
  · have hcycles : periodCycles (commitValue s 0) = commitValue s 0 * 1300 := rfl
    rw [budgetOf, hcycles]
    omega

/-- An accepted commit up to the record of the cycle: what it leaves in the three copies and in RESULT, CLAMPMAP and WAITING (R443 to R445). -/
theorem acceptedCommit_effect {s : State} (h : (thisCycle s).staged = []) :
    let u := applyAtRest (acceptCommit s)
    CommitSide s u ∧ fget u Fld.rpmCfgCmd_RESULT = 0 ∧ (∀ i, i < 8 → cfgCommitted u i = commitValue s i ∧ cfgStaged u i = cfgStaged s i
        ∧ (bitSet (fget u Fld.rpmCfgClampmap_FIELD) i = true ↔ commitValue s i ≠ cfgStaged s i))
      ∧ (runOn s = true → (∀ i, cfgForce u i = cfgForce s i) ∧ u.seq = s.seq
          ∧ fget u Fld.rpmCfgCmd_WAITING = if commitValue s 0 ≠ cfgForce s 0 ∨ commitValue s 1 ≠ cfgForce s 1 then 1 else 0)
      ∧ (runOn s = false → fon s Fld.fsqStatus_ACTIVEVALID = true → fget u Fld.fsqBudget_B = fget s Fld.fsqBudget_B) := by
  intro u
  have hrun : runOn (acceptCommit s) = runOn s := by rw [runOn, fon, fget_acceptCommit h (by decide)]; rfl
  have hact : fon (acceptCommit s) Fld.fsqStatus_ACTIVEVALID = fon s Fld.fsqStatus_ACTIVEVALID := by rw [fon, fget_acceptCommit h (by decide)]; rfl
  have hrest : ∀ g, NotAtRest g → fget u g = fget (acceptCommit s) g := fun g hg => fget_applyAtRest _ hg
  obtain ⟨hside, hseq⟩ := commitSide_acceptCommit h
  obtain ⟨hresult, hmap⟩ := commitRegisters h
  refine ⟨hside.trans (commitSide_applyAtRest _), (hrest _ (by decide)).trans hresult, fun i hi => ⟨?_, ?_, ?_⟩, fun hon => ?_, fun hoff ha => ?_⟩
  · exact (hrest _ (notAtRest_of_page (notApplied_commit hi) (by rw [commit_key]; omega))).trans (cfgCommitted_acceptCommit h hi)
  · exact (hrest _ (notAtRest_of_page (notApplied_stage hi) (by rw [stage_key]; omega))).trans (fget_acceptCommit h (notCommitted_stage hi))
  · rw [hrest _ (by decide)]
    exact hmap i hi
  · have hu : u = acceptCommit s := applyAtRest_running (hrun.trans hon)
    rw [hu]
    exact ⟨fun i => fget_acceptCommit h (notCommitted_force i), hseq, waiting_acceptCommit h⟩
  · have hu : u = applyTickFields (acceptCommit s) := applyAtRest_active (hrun.trans hoff) (hact.trans ha)
    rw [hu, fget_applyTickFields _ (by decide), fget_acceptCommit h (by decide)]

/-- Settles O53: a refused commit writes RESULT alone; an accepted one clamps every field, and takes effect where no frame runs. -/
theorem configRecordCommits : Obligations.ConfigRecordCommits := by
  unfold Obligations.ConfigRecordCommits
  intro s hserve hcommit hstaged value changes
  simp only [exec_configCommit]
  have hrefused : commitRefused s = true ↔ pendingState s ≠ 0 ∧ changes := commitRefused_iff hstaged
  have hgo : (serving s && (thisCycle s).commit.isNone) = true := by simp [hserve, hcommit]
  refine ⟨fun hpend hch => ?_, fun hok => ?_⟩
  · refine ⟨_, whenever_true hgo, ?_⟩
    rw [if_pos (hrefused.mpr ⟨hpend, hch⟩)]
    exact ⟨fget_fset_same s _ 1, onlyFields_fset _ 1 (onlyFields_self s _) (by simp)⟩
  · have haccept : ¬commitRefused s = true := fun hr => (hrefused.mp hr).elim fun hp hc => hok.elim hp (fun hn => hn hc)
    obtain ⟨hside, hresult, hcopies, hrunning, hbudget⟩ := acceptedCommit_effect hstaged
    have hforce := fun hoff i (hi : i < 8) => cfgForce_atRest hstaged hoff hi
    have hswap := fun hoff ha => swapFields_atRest hstaged hoff ha
    refine ⟨_, whenever_true hgo, ?_⟩
    rw [if_neg haccept]
    generalize applyAtRest (acceptCommit s) = u at *
    have hoff : fget s Fld.fsqCtl_RUN = 0 → runOn s = false := (fon_eq_false_iff s _).mpr
    refine ⟨hresult, fun i hi => ?_, hside.trans rfl, fun h => ?_, fun h => ?_, fun h ha => ?_, fun h ha => ?_⟩
    · obtain ⟨hcommitted, hstage, hmap⟩ := hcopies i hi
      exact ⟨hcommitted.trans (Nat.mod_eq_of_lt (commitValue_lt s hi)).symm, hstage, hmap⟩
    · obtain ⟨hkept, hseq, hwait⟩ := hrunning ((fon_iff s _).mpr h)
      exact ⟨fun i _ => hkept i, hseq, hwait⟩
    · exact ⟨fun i hlow hhigh => (hforce (hoff h) i (by omega)).trans (if_pos (.inl ⟨hlow, hhigh⟩)),
        fun i hlow hhigh => (hforce (hoff h) i hhigh).trans (if_neg (by omega))⟩
    · have hact : fon s Fld.fsqStatus_ACTIVEVALID = true := (fon_iff s _).mpr ha
      exact ⟨(hforce (hoff h) 0 (by decide)).trans (if_neg (by simp [hact])), (hforce (hoff h) 1 (by decide)).trans (if_neg (by simp [hact])),
        hbudget (hoff h) hact⟩
    · have hact : fon s Fld.fsqStatus_ACTIVEVALID = false := (fon_eq_false_iff s _).mpr ha
      obtain ⟨hus, hwait, hb⟩ := hswap (hoff h) hact
      exact ⟨(hforce (hoff h) 0 (by decide)).trans (if_pos (.inr ⟨by decide, hact⟩)), (hforce (hoff h) 1 (by decide)).trans (if_pos (.inr ⟨by decide, hact⟩)),
        hus, hwait, hb⟩

end Sys2Proof.Machine
end

section
/-! Completions (R405, R411, Table 14-6): what a completed command leaves in its ring, in its queue pair, and what it leaves alone. -/

namespace Sys2Proof.Machine

/-! ### Bytes and what is read back -/

@[simp] theorem leBytes_length (n x : Nat) : (leBytes n x).length = n := by
  induction n generalizing x with
  | zero => rfl
  | succ n ih => simp [leBytes, ih]

theorem ofLe_lt (bs : List Byte) : ofLe bs < 256 ^ bs.length := by
  induction bs with
  | nil => decide
  | cons b r ih =>
    have hb : b.toNat < 256 := b.isLt
    rw [ofLe, List.length_cons, pow_succ]
    omega

theorem ofLe_leBytes (n x : Nat) : ofLe (leBytes n x) = x % 256 ^ n := by
  induction n generalizing x with
  | zero => simp [leBytes, ofLe, Nat.mod_one]
  | succ n ih =>
    rw [leBytes, ofLe, ih, BitVec.toNat_ofNat, show 256 ^ (n + 1) = 256 * 256 ^ n from pow_succ' 256 n]
    exact (Nat.mod_mul (x := x) (a := 256) (b := 256 ^ n)).symm

theorem sliceOf_length (bs : List Byte) (lo n : Nat) : (sliceOf bs lo n).length = n := by
  simp [sliceOf]

theorem fieldOf_lt (bs : List Byte) (o n : Nat) : fieldOf bs o n < 256 ^ n := by
  have h := ofLe_lt (sliceOf bs o n)
  rwa [sliceOf_length] at h

theorem fieldOf_nil (o n : Nat) : fieldOf [] o n = 0 := by
  have h : ∀ k, ofLe (List.replicate k 0#8) = 0 := fun k => by
    induction k with
    | zero => rfl
    | succ k ih => simp [List.replicate_succ, ofLe, ih]
  simpa [fieldOf, sliceOf] using h n

/-- The first bytes just written read back. -/
theorem memReadN_memWrite_take (m : Mem) (a : Nat) (bs : List Byte) {n : Nat} (h : n ≤ bs.length) : memReadN (memWrite m a bs) a n = bs.take n := by
  refine List.ext_getElem (by simp [memReadN, h]) fun i hi hi' => ?_
  have hn : i < n := by simpa [memReadN] using hi
  simp only [memReadN, List.getElem_map, List.getElem_range, List.getElem_take]
  rw [memRead_memWrite_in m a bs (by omega), List.getD_eq_getElem _ _ (by omega)]

@[simp] theorem cplBytes_length (cid head status phase qp result info : Nat) : (cplBytes cid head status phase qp result info).length = 16 := by
  simp [cplBytes]

/-! ### Queue pairs -/

theorem qpOf_modQp (s : State) (q r : Nat) (f : Qp → Qp) : qpOf (modQp s q f) r = if r = q then f (qpOf s r) else qpOf s r := by
  by_cases h : r = q
  · subst h
    simp [qpOf, modQp, mapGet]
  · simp [qpOf, modQp, h, mapGet_mapPut_other _ _ _ h]

@[simp] theorem qpOf_modQp_same (s : State) (q : Nat) (f : Qp → Qp) : qpOf (modQp s q f) q = f (qpOf s q) := by
  rw [qpOf_modQp, if_pos rfl]

@[simp] theorem qpOf_popCmd_gen (s : State) (q r : Nat) : (qpOf (popCmd s q) r).gen = (qpOf s r).gen := by
  rw [popCmd, qpOf_modQp]
  split <;> rfl

theorem qpOf_popCmd_fetched (s : State) (q : Nat) : (qpOf (popCmd s q) q).fetched = (qpOf s q).fetched.drop 1 := by
  rw [popCmd, qpOf_modQp_same]

/-- Whether a completion is wanted turns on its pair's generation and STATE alone. -/
theorem cplWanted_congr {s t : State} {c : HostCmd} (hgen : (qpOf t c.qp).gen = (qpOf s c.qp).gen)
    (hstate : fget t (Fld.hifQState_STATE c.qp) = fget s (Fld.hifQState_STATE c.qp)) : cplWanted t c = cplWanted s c := by
  rw [cplWanted, hgen, hstate, cplWanted]

@[simp] theorem cplWanted_popCmd (s : State) (q : Nat) (c : HostCmd) : cplWanted (popCmd s q) c = cplWanted s c :=
  cplWanted_congr (qpOf_popCmd_gen s q c.qp) rfl

/-- A well-formed command with a code other than NOP stands in an entry. -/
theorem headCmd_entry {s : State} {q op : Nat} {c : HostCmd} (h : headCmd s q op = some c) (hop : op ≠ 0) : c.entry ≠ [] := by
  unfold headCmd at h
  split at h
  · split at h
    · next hok =>
      cases h
      simp only [Bool.and_eq_true, decide_eq_true_eq] at hok
      intro he
      rw [HostCmd.opcode, he, fieldOf_nil] at hok
      exact hop hok.2.symm
    · cases h
  · cases h

/-! ### Messages of the host interface -/

/-- Only what the host interface keeps and sends has changed, and no register. -/
theorem sendVec_side (s : State) (v : Nat) : sendVec s v = { s with hif := { s.hif with msix := (sendVec s v).hif.msix }, outs := (sendVec s v).outs } := by
  unfold sendVec
  split
  · rfl
  · split <;> rfl

@[simp] theorem sendVec_host (s : State) (v : Nat) : (sendVec s v).host = s.host := by rw [sendVec_side]
@[simp] theorem sendVec_seq (s : State) (v : Nat) : (sendVec s v).seq = s.seq := by rw [sendVec_side]
@[simp] theorem sendVec_bme (s : State) (v : Nat) : (sendVec s v).hif.bme = s.hif.bme := by rw [sendVec_side]
@[simp] theorem sendVec_qps (s : State) (v : Nat) : (sendVec s v).hif.qps = s.hif.qps := by rw [sendVec_side]

/-! ### A completion entry -/

theorem cqtail_key (q : Nat) : (Fld.hifQCqtail_TAIL q).key = (0x2011c + q * 0x20) * 32 := rfl
theorem cqphase_key (q : Nat) : (Fld.hifQCqtail_PHASE q).key = (0x2011c + q * 0x20) * 32 + 16 := rfl
theorem cntCpl_key : Fld.hifCntCpl_COUNT.key = 0x20018 * 32 := rfl

/-- The registers as a completion entry leaves them: the ring's tail, its phase where the ring wraps, and the count. -/
def cplRegs (s : State) (q : Nat) : State :=
  let t := fget s (Fld.hifQCqtail_TAIL q)
  let wrap := decide (fget s (Fld.hifQCfg_CQSIZE q) < t + 1)
  let u := fset s (Fld.hifQCqtail_TAIL q) (if wrap then 0 else t + 1)
  bump (if wrap then fset u (Fld.hifQCqtail_PHASE q) (1 - fget s (Fld.hifQCqtail_PHASE q)) else u) Fld.hifCntCpl_COUNT 1

/-- The bytes of a completion entry as its ring stands. -/
def cplEntry (s : State) (c : HostCmd) (status result info : Nat) : List Byte :=
  cplBytes c.cid (if c.entry.isEmpty then fget s (Fld.hifQSqhead_HEAD c.qp) else c.sqHead) status (fget s (Fld.hifQCqtail_PHASE c.qp)) c.qp result info

/-- Where the next completion entry of a ring goes. -/
def cplPlace (s : State) (q : Nat) : Nat := cqBase s q + 16 * fget s (Fld.hifQCqtail_TAIL q)

/-- A completion entry written, its ring moved on, and no vector sent yet. -/
def cplWritten (s : State) (c : HostCmd) (status result info : Nat) : State :=
  cplRegs { s with host := memWrite s.host (cplPlace s c.qp) (cplEntry s c status result info) } c.qp

theorem writeCpl_eq (s : State) (c : HostCmd) (status result info : Nat) :
    let u := cplWritten s c status result info
    writeCpl s c status result info = if fon u (Fld.hifQCfg_IEN c.qp) then sendVec u (4 + c.qp) else u := rfl

theorem cplRegs_side (s : State) (q : Nat) : cplRegs s q = { s with regs := (cplRegs s q).regs } := by
  unfold cplRegs
  dsimp only
  split <;> rfl

/-- Of the registers, a completion entry changes its ring's tail and phase and the count of completions. -/
theorem fget_cplRegs_other (s : State) (q : Nat) {g : Field} (ht : g.key ≠ (Fld.hifQCqtail_TAIL q).key) (hp : g.key ≠ (Fld.hifQCqtail_PHASE q).key)
    (hc : g.key ≠ Fld.hifCntCpl_COUNT.key) : fget (cplRegs s q) g = fget s g := by
  unfold cplRegs
  dsimp only
  rw [bump, fget_fset_other _ _ _ _ hc]
  split
  · rw [fget_fset_other _ _ _ _ hp, fget_fset_other _ _ _ _ ht]
  · rw [fget_fset_other _ _ _ _ ht]

theorem fget_cplRegs_tail (s : State) (q : Nat) :
    let t := fget s (Fld.hifQCqtail_TAIL q)
    fget (cplRegs s q) (Fld.hifQCqtail_TAIL q) = (if fget s (Fld.hifQCfg_CQSIZE q) < t + 1 then 0 else t + 1) % 4096 := by
  have hcount : (Fld.hifQCqtail_TAIL q).key ≠ Fld.hifCntCpl_COUNT.key := by rw [cqtail_key, cntCpl_key]; omega
  have hphase : (Fld.hifQCqtail_TAIL q).key ≠ (Fld.hifQCqtail_PHASE q).key := by rw [cqtail_key, cqphase_key]; omega
  intro t
  unfold cplRegs
  dsimp only
  rw [bump, fget_fset_other _ _ _ _ hcount]
  by_cases hwrap : fget s (Fld.hifQCfg_CQSIZE q) < t + 1
  · rw [if_pos (decide_eq_true hwrap), fget_fset_other _ _ _ _ hphase, fget_fset_same, if_pos (decide_eq_true hwrap), if_pos hwrap]
    rfl
  · rw [if_neg (by simpa using hwrap), fget_fset_same, if_neg (by simpa using hwrap), if_neg hwrap]
    rfl

theorem fget_cplWritten_tail (s : State) (c : HostCmd) (status result info : Nat) :
    let t := fget s (Fld.hifQCqtail_TAIL c.qp)
    fget (cplWritten s c status result info) (Fld.hifQCqtail_TAIL c.qp) = (if fget s (Fld.hifQCfg_CQSIZE c.qp) < t + 1 then 0 else t + 1) % 4096 :=
  fget_cplRegs_tail _ c.qp

@[simp] theorem writeCpl_regs (s : State) (c : HostCmd) (status result info : Nat) :
    (writeCpl s c status result info).regs = (cplWritten s c status result info).regs := by
  rw [writeCpl_eq]
  split
  · exact sendVec_regs _ _
  · rfl

@[simp] theorem writeCpl_host (s : State) (c : HostCmd) (status result info : Nat) :
    (writeCpl s c status result info).host = memWrite s.host (cplPlace s c.qp) (cplEntry s c status result info) := by
  have h : (cplWritten s c status result info).host = memWrite s.host (cplPlace s c.qp) (cplEntry s c status result info) := by
    rw [cplWritten, cplRegs_side]
  rw [writeCpl_eq]
  split
  · exact (sendVec_host _ _).trans h
  · exact h

/-! ### A command completes (R411) -/

/-- What completing a command may change: registers, host memory, the host interface's queues and vectors, what the part sends. -/
def CompletionSide (s t : State) : Prop :=
  t = { s with regs := t.regs, host := t.host, hif := { s.hif with qps := t.hif.qps, heldCpl := t.hif.heldCpl, msix := t.hif.msix }, outs := t.outs }

theorem CompletionSide.trans {s t u : State} (h : CompletionSide s t) (k : CompletionSide t u) : CompletionSide s u := by
  unfold CompletionSide at *
  rw [k, h]

theorem completionSide_sendVec (s : State) (v : Nat) : CompletionSide s (sendVec s v) := by
  unfold CompletionSide
  rw [sendVec_side]

theorem completionSide_writeCpl (s : State) (c : HostCmd) (status result info : Nat) : CompletionSide s (writeCpl s c status result info) := by
  have hentry : CompletionSide s (cplWritten s c status result info) := by
    rw [cplWritten, cplRegs_side]
    exact rfl
  rw [writeCpl_eq]
  split
  · exact hentry.trans (completionSide_sendVec _ _)
  · exact hentry

/-- The place that a completed command had reserved, given up. -/
def released (s : State) (c : HostCmd) : State :=
  modQp s c.qp (fun p => if p.gen = c.gen then { p with live := p.live - 1, reserved := p.reserved - 1 } else p)

/-- The three ends of a command: not wanted any more, written at once, or held while Bus Master Enable is 0. -/
theorem complete_cases (s : State) (c : HostCmd) (status result info : Nat) :
    complete s c status result info = (if !cplWanted s c then released s c
      else if s.hif.bme then writeCpl (released s c) c status result info
      else modHif (released s c) (fun h => { h with heldCpl := h.heldCpl ++ [⟨c, status, result, info⟩] })) := rfl

theorem completionSide_complete (s : State) (c : HostCmd) (status result info : Nat) : CompletionSide s (complete s c status result info) := by
  have hreleased : CompletionSide s (released s c) := rfl
  rw [complete_cases]
  split
  · exact hreleased
  · split
    · exact hreleased.trans (completionSide_writeCpl _ _ _ _ _)
    · exact rfl

@[simp] theorem complete_seq (s : State) (c : HostCmd) (status result info : Nat) : (complete s c status result info).seq = s.seq := by
  rw [completionSide_complete s c status result info]

@[simp] theorem complete_expressIn (s : State) (c : HostCmd) (status result info : Nat) :
    (complete s c status result info).hif.expressIn = s.hif.expressIn := by
  rw [completionSide_complete s c status result info]

/-- Of the registers, a completion changes its ring's tail and phase and the count of completions. -/
theorem fget_complete_other (s : State) (c : HostCmd) (status result info : Nat) {g : Field} (ht : g.key ≠ (Fld.hifQCqtail_TAIL c.qp).key)
    (hp : g.key ≠ (Fld.hifQCqtail_PHASE c.qp).key) (hc : g.key ≠ Fld.hifCntCpl_COUNT.key) : fget (complete s c status result info) g = fget s g := by
  rw [complete_cases]
  split
  · rfl
  · split
    · rw [fget_of_regs g (writeCpl_regs _ _ _ _ _), cplWritten, fget_cplRegs_other _ _ ht hp hc]
      rfl
    · rfl

/-- Registers below those of the host interface are out of a completion's reach. -/
theorem fget_complete_below (s : State) (c : HostCmd) (status result info : Nat) {g : Field} (h : g.key < 0x20000 * 32) :
    fget (complete s c status result info) g = fget s g := by
  refine fget_complete_other s c status result info ?_ ?_ ?_
  · rw [cqtail_key]; omega
  · rw [cqphase_key]; omega
  · rw [cntCpl_key]; omega

/-- The registers that say where a completion entry goes and what it shows. -/
def cplFields (q : Nat) : List Field :=
  [Fld.hifQCqbHi_BASE q, Fld.hifQCqbLo_BASE q, Fld.hifQCqtail_TAIL q, Fld.hifQCqtail_PHASE q, Fld.hifQCfg_CQSIZE q]

/-- A wanted completion stands in its ring as Table 14-6 gives it, whatever the effect before it has done to other registers (R405). -/
theorem completed_complete {s u : State} {c : HostCmd} (status result info : Nat) (hw : cplWanted u c = true) (hb : u.hif.bme = true)
    (hregs : ∀ f ∈ cplFields c.qp, fget u f = fget s f) :
    Completed s (complete u c status result info) c (if c.entry.isEmpty then fget u (Fld.hifQSqhead_HEAD c.qp) else c.sqHead) status result info := by
  have hfields : ∀ f ∈ cplFields c.qp, fget (released u c) f = fget s f := hregs
  simp only [cplFields, List.forall_mem_cons] at hfields
  obtain ⟨hhi, hlo, htail, hphase, hsize, -⟩ := hfields
  have hplace : cplPlace (released u c) c.qp = cqBase s c.qp + 16 * fget s (Fld.hifQCqtail_TAIL c.qp) := by
    rw [cplPlace, cqBase, hhi, hlo, htail, cqBase]
  have ht : complete u c status result info = writeCpl (released u c) c status result info := by
    rw [complete_cases, hw, hb]
    rfl
  rw [ht]
  constructor
  · rw [writeCpl_host, hplace, memReadN_memWrite_take _ _ _ (by rw [cplEntry, cplBytes_length]), cplEntry, hphase,
      List.take_of_length_le (by rw [cplBytes_length])]
    rfl
  · rw [fget_of_regs _ (writeCpl_regs _ _ _ _ _), fget_cplWritten_tail, htail, hsize]

/-- The same for a command that was fetched from a submission ring, which keeps the SQ head of its fetch (Table 14-6). -/
theorem completed_of_entry {s u : State} {c : HostCmd} (status result info : Nat) (he : c.entry ≠ []) (hw : cplWanted u c = true) (hb : u.hif.bme = true)
    (hregs : ∀ f ∈ cplFields c.qp, fget u f = fget s f) : Completed s (complete u c status result info) c c.sqHead status result info := by
  have h := completed_complete status result info hw hb hregs
  rwa [if_neg (mt List.isEmpty_iff.mp he)] at h

end Sys2Proof.Machine
end

section
/-! LOAD_IMAGE and the end of its check (R30 to R35, R407). -/

namespace Sys2Proof.Machine

/-! ### Effects on the Frame Sequencer and the host interface alone -/

theorem onlySequencer_trans {s t u : State} (h : OnlySequencer s t) (k : OnlySequencer t u) : OnlySequencer s u := by
  unfold OnlySequencer at *
  rw [k, h]

theorem CompletionSide.onlySequencer {s t : State} (h : CompletionSide s t) : OnlySequencer s t := by
  rw [h]
  rfl

theorem RegisterSide.onlySequencer {s t : State} (h : RegisterSide s t) : OnlySequencer s t := by
  rw [h]
  rfl

theorem onlySequencer_complete {s t : State} (h : OnlySequencer s t) (c : HostCmd) (status result info : Nat) :
    OnlySequencer s (complete t c status result info) :=
  onlySequencer_trans h (completionSide_complete t c status result info).onlySequencer

theorem onlySequencer_drawn {s t : State} (h : OnlySequencer s t) : OnlySequencer s (drawn t) := onlySequencer_trans h rfl

theorem RegisterSide.event {s t : State} (h : RegisterSide s t) (f c : Field) : RegisterSide s (event t f c) := (h.fset _ _).setBits _ _

theorem fget_event_other (s : State) {f c g : Field} (hf : g.key ≠ f.key) (hc : g.key ≠ c.key) : fget (event s f c) g = fget s g := by
  rw [event, setFlag, fget_setBits_other _ _ _ _ hf, bump, fget_fset_other _ _ _ _ hc]

/-- Of the host interface, a flag set by the hardware changes what stands of vectors alone. -/
theorem event_hif (s : State) (f c : Field) : ∃ m a, (event s f c).hif = { s.hif with msix := m, msixAt := a } := by
  have hsettle : ∀ old t : State, ∃ m a, (settle old t).hif = { t.hif with msix := m, msixAt := a } := fun old t => by
    unfold settle
    split
    · rw [sendVec_side]
      exact ⟨_, _, rfl⟩
    · exact ⟨_, _, rfl⟩
  exact hsettle (bump s c 1) _

theorem event_seq (s : State) (f c : Field) : (event s f c).seq = s.seq := ((registerSide_self s).event f c).seq

/-- A flag with its counter: the flag reads 1 and the counter one more (R16). -/
theorem fget_event (s : State) {f c : Field} (hw : f.width = 1) (hk : c.key ≠ f.key) :
    fget (event s f c) f = 1 ∧ fget (event s f c) c = (fget s c + 1) % 2 ^ c.width :=
  ⟨fget_setFlag_same _ f hw, (fget_setBits_other _ f c 1 hk).trans (fget_fset_same s c _)⟩

/-! ### LOAD_IMAGE (R35, R407) -/

/-- LOAD_IMAGE where the pending slot takes no image. -/
theorem startLoad_busy {s : State} (c : HostCmd) (h : fget s Fld.fsqSwap_REQ ≠ 0 ∨ pendingState s = 1 ∨ pendingState s = 2) :
    startLoad s c = drawn (complete s c 2 0 (infoUnread s.free c)) :=
  if_pos (h.imp_left (fon_iff s _).mpr)

theorem execLoadImage_head {s : State} {qp : Nat} {c : HostCmd} (hup : hostUp s = true) (hb : s.hif.bme = true) (hc : headCmd s qp 1 = some c) :
    execLoadImage qp s = .next (startLoad (popCmd s qp) c) := by
  rw [execLoadImage, hc]
  exact whenever_true (by rw [hup, hb]; rfl)

/-- A LOAD_IMAGE that finds the slot busy, or a swap requested, completes with PENDING_BUSY and touches nothing of the Frame Sequencer. -/
theorem loadImage_busy {s : State} {qp : Nat} {c : HostCmd} (hup : hostUp s = true) (hb : s.hif.bme = true) (hc : headCmd s qp 1 = some c)
    (hbusy : fget s Fld.fsqSwap_REQ ≠ 0 ∨ pendingState s = 1 ∨ pendingState s = 2) (hw : cplWanted s c = true) :
    ∃ t, execLoadImage qp s = .next t ∧ Completed s t c c.sqHead 2 0 (infoUnread s.free c) ∧ t.seq = s.seq ∧ OnlySequencer s t
      ∧ ∀ f : Field, f.key < 0x20000 * 32 → fget t f = fget s f := by
  have hpopped : OnlySequencer s (popCmd s qp) := rfl
  have hcpl := completed_of_entry (s := s) (u := popCmd s qp) (c := c) 2 0 (infoUnread s.free c) (headCmd_entry hc (by decide))
    (by rw [cplWanted_popCmd]; exact hw) hb (fun _ _ => rfl)
  refine ⟨_, execLoadImage_head hup hb hc, ?_⟩
  rw [startLoad_busy (s := popCmd s qp) c hbusy]
  exact ⟨hcpl, complete_seq (popCmd s qp) _ _ _ _, onlySequencer_drawn (onlySequencer_complete hpopped _ _ _ _), fun f hf => fget_complete_below (popCmd s qp) _ _ _ _ hf⟩

/-- Settles O59: the completion's place and bytes, and that no register below the host interface's and no part of the sequencer's state changes. -/
theorem loadWhileSwapIsRequested : Obligations.LoadWhileSwapIsRequested := by
  unfold Obligations.LoadWhileSwapIsRequested
  intro s qp c hup hb hreq hc hw
  obtain ⟨t, ht, hcpl, hseq, -, hbelow⟩ := loadImage_busy hup hb hc (.inl hreq) hw
  rw [exec_loadImage]
  refine ⟨t, ht, hcpl, hbelow _ (by decide), ?_, hbelow _ (by decide), ?_, ?_, hbelow _ (by decide)⟩ <;> rw [hseq]

/-! ### The codes of admission (R30) -/

/-- The codes that fail stand in rising order, from 1 to 12. -/
theorem admission_sublist (s : State) (bs : List Byte) (len : Nat) : (admission s bs len).Sublist (List.range' 1 12) := by
  have hfits : ∀ fits : List Bool, 8 ≤ fits.length → ((([5, 6, 7, 8, 9, 10, 11, 12].zip fits).filter (·.2)).map (·.1)).Sublist (List.range' 1 12) := fun fits h => by
    refine ((List.filter_sublist).map _).trans ?_
    rw [List.map_fst_zip (l₁ := [5, 6, 7, 8, 9, 10, 11, 12]) h]
    decide
  unfold admission
  dsimp only
  split
  · decide
  · split
    · decide
    · split
      · decide
      · split
        · decide
        · exact hfits _ (le_refl 8)

/-- The map of failed checks as a number: bit `k - 1` is set for code `k`. -/
theorem testBit_codes {codes : List Nat} (h : codes.Sublist (List.range' 1 12)) {k : Nat} (hk : 1 ≤ k) :
    (codes.foldl (fun m k => m + 2 ^ (k - 1)) 0).testBit (k - 1) = codes.contains k := by
  have hsorted : (codes.map (· - 1)).SortedLT :=
    List.Pairwise.sortedLT (List.Pairwise.sublist (h.map _) (show ((List.range' 1 12).map (· - 1)).Pairwise (· < ·) by decide))
  have hsum : codes.foldl (fun m k => m + 2 ^ (k - 1)) 0 = ((codes.map (· - 1)).map (2 ^ ·)).sum := by
    rw [List.sum_eq_foldl, List.foldl_map, List.foldl_map]
  have hone : ∀ j ∈ codes, 1 ≤ j := fun j hj => by
    have := List.mem_range'_1.mp (h.subset hj)
    omega
  have hmem : (k - 1) ∈ codes.map (· - 1) ↔ k ∈ codes := by
    refine ⟨fun hm => ?_, fun hm => List.mem_map_of_mem hm⟩
    obtain ⟨j, hj, he⟩ := List.mem_map.mp hm
    have := hone j hj
    rwa [show k = j by omega]
  rw [Bool.eq_iff_iff, ← Nat.mem_bitIndices, hsum, Nat.bitIndices_sum_map_two_pow hsorted, hmem, List.contains_iff_mem]

/-! ### The end of a check (R30 to R34) -/

/-- What a check that ends decides: the codes, and what becomes of the pending slot. -/
def decided (s : State) (c : HostCmd) (codes : List Nat) : State :=
  let u := fset (fset s Fld.fsqAdmit_PRIMARY (codes.headD 0)) Fld.fsqAdmitMap_MAP (codes.foldl (fun m k => m + 2 ^ (k - 1)) 0)
  let u := modSeq u (fun q => { q with loading := none, fetchedImg := [] })
  if codes.isEmpty then
    fset (modSeq u (fun q => { q with pendingImg := some (imageOf (s.seq.fetchedImg.take (c.len - 64))) })) Fld.fsqStatus_PENDING 3
  else fset (fset (fset u Fld.fsqStatus_PENDING 0) Fld.fsqPendingId_ID 0) Fld.fsqSwap_REQ 0

/-- The same with a failed signature reported. -/
def judged (s : State) (c : HostCmd) (codes : List Nat) : State :=
  if codes.headD 0 = 2 then event (decided s c codes) Fld.secErr_SIGFAIL Fld.secCntSigfail_COUNT else decided s c codes

theorem endAdmission_eq (s : State) (c : HostCmd) (codes : List Nat) :
    endAdmission s c codes = complete (sendVec (judged s c codes) 3) c (if codes.isEmpty then 0 else 1) (codes.headD 0) (fieldOf s.seq.fetchedImg 0xC 4) := rfl

/-- Beside registers, a decision changes what the sequencer keeps of the image. -/
theorem decided_side (s : State) (c : HostCmd) (codes : List Nat) :
    decided s c codes = { s with
      regs := (decided s c codes).regs
      seq := { s.seq with
        loading := none, fetchedImg := []
        pendingImg := if codes.isEmpty then some (imageOf (s.seq.fetchedImg.take (c.len - 64))) else s.seq.pendingImg } } := by
  cases codes <;> rfl

/-- The sequencer's registers once a check has ended. -/
theorem fget_decided (s : State) (c : HostCmd) (codes : List Nat) :
    let t := decided s c codes
    fget t Fld.fsqAdmit_PRIMARY = codes.headD 0 % 2 ^ 8 ∧ fget t Fld.fsqAdmitMap_MAP = codes.foldl (fun m k => m + 2 ^ (k - 1)) 0 % 2 ^ 12
      ∧ pendingState t = (if codes.isEmpty then 3 else 0)
      ∧ (codes.isEmpty = false → fget t Fld.fsqPendingId_ID = 0 ∧ fget t Fld.fsqSwap_REQ = 0) := by
  have hmod : ∀ (u : State) (q : Sequencer → Sequencer) (f : Field), fget (modSeq u q) f = fget u f := fun _ _ _ => rfl
  cases codes with
  | nil =>
    refine ⟨?_, ?_, fget_fset_same _ _ 3, fun h => by cases h⟩ <;>
      simp (disch := decide) only [decided, List.isEmpty_nil, if_true, hmod, fget_fset_other, fget_fset_same] <;> rfl
  | cons k r =>
    refine ⟨?_, ?_, ?_, fun _ => ⟨?_, fget_fset_same _ _ 0⟩⟩ <;>
      simp (disch := decide) only [decided, pendingState, List.isEmpty_cons, Bool.false_eq_true, if_false, hmod, fget_fset_other, fget_fset_same] <;> rfl

/-- Registers beyond the sequencer's are out of a decision's reach. -/
theorem fget_decided_beyond (s : State) (c : HostCmd) (codes : List Nat) {g : Field} (h : 0x10064 * 32 ≤ g.key) : fget (decided s c codes) g = fget s g := by
  have hne : ∀ f : Field, f.key < 0x10064 * 32 → g.key ≠ f.key := fun f hf => by omega
  have hmod : ∀ (u : State) (q : Sequencer → Sequencer) (f : Field), fget (modSeq u q) f = fget u f := fun _ _ _ => rfl
  cases codes <;> simp (disch := (apply hne; decide)) only [decided, List.isEmpty_nil, List.isEmpty_cons, Bool.false_eq_true, if_true, if_false, hmod, fget_fset_other]

/-- The identity of the active image is none of the registers that a decision writes. -/
theorem fget_decided_active (s : State) (c : HostCmd) (codes : List Nat) : fget (decided s c codes) Fld.fsqActiveId_ID = fget s Fld.fsqActiveId_ID := by
  have hmod : ∀ (u : State) (q : Sequencer → Sequencer) (f : Field), fget (modSeq u q) f = fget u f := fun _ _ _ => rfl
  cases codes <;>
    simp (disch := decide) only [decided, List.isEmpty_nil, List.isEmpty_cons, Bool.false_eq_true, if_true, if_false, hmod, fget_fset_other]

theorem judged_seq (s : State) (c : HostCmd) (codes : List Nat) : (judged s c codes).seq = (decided s c codes).seq := by
  unfold judged
  split
  · exact event_seq _ _ _
  · rfl

theorem onlySequencer_judged (s : State) (c : HostCmd) (codes : List Nat) : OnlySequencer s (judged s c codes) := by
  have hdecided : OnlySequencer s (decided s c codes) := by
    rw [decided_side]
    exact rfl
  unfold judged
  split
  · exact onlySequencer_trans hdecided ((registerSide_self _).event _ _).onlySequencer
  · exact hdecided

theorem judged_hif (s : State) (c : HostCmd) (codes : List Nat) : (judged s c codes).hif.bme = s.hif.bme ∧ (judged s c codes).hif.qps = s.hif.qps := by
  have hdecided : (decided s c codes).hif = s.hif := by rw [decided_side]
  unfold judged
  split
  · obtain ⟨m, a, h⟩ := event_hif (decided s c codes) Fld.secErr_SIGFAIL Fld.secCntSigfail_COUNT
    rw [h, hdecided]
    exact ⟨rfl, rfl⟩
  · rw [hdecided]
    exact ⟨rfl, rfl⟩

theorem fget_judged_other (s : State) (c : HostCmd) (codes : List Nat) {g : Field} (hflag : g.key ≠ Fld.secErr_SIGFAIL.key)
    (hcount : g.key ≠ Fld.secCntSigfail_COUNT.key) : fget (judged s c codes) g = fget (decided s c codes) g := by
  unfold judged
  split
  · exact fget_event_other _ hflag hcount
  · rfl

/-- The registers of a queue pair that a completion reads stand apart from those that the end of a check writes. -/
theorem fget_judged_pair (s : State) (c : HostCmd) (codes : List Nat) (q : Nat) :
    ∀ f ∈ Fld.hifQState_STATE q :: cplFields q, fget (sendVec (judged s c codes) 3) f = fget s f := by
  have hkey : ∀ f ∈ Fld.hifQState_STATE q :: cplFields q, 0x10064 * 32 ≤ f.key ∧ f.key ≠ Fld.secErr_SIGFAIL.key ∧ f.key ≠ Fld.secCntSigfail_COUNT.key := by
    simp only [cplFields, List.forall_mem_cons, Field.key, Fld.secErr_SIGFAIL, Fld.secCntSigfail_COUNT, Fld.hifQState_STATE, Fld.hifQCqbHi_BASE, Fld.hifQCqbLo_BASE, Fld.hifQCqtail_TAIL,
      Fld.hifQCqtail_PHASE, Fld.hifQCfg_CQSIZE]
    refine ⟨?_, ?_, ?_, ?_, ?_, ?_, fun _ h => by cases h⟩ <;> omega
  intro f hf
  obtain ⟨hbeyond, hf1, hf2⟩ := hkey f hf
  rw [fget_of_regs f (sendVec_regs _ _), fget_judged_other s c codes hf1 hf2, fget_decided_beyond s c codes hbeyond]

/-- The end of a check: what it shows, what becomes of the pending slot and of a request, and what it leaves alone (R30 to R34). -/
theorem endAdmission_effect (s : State) (c : HostCmd) (codes : List Nat) :
    let t := endAdmission s c codes
    OnlySequencer s t
      ∧ t.seq = { s.seq with
          loading := none, fetchedImg := []
          pendingImg := if codes.isEmpty then some (imageOf (s.seq.fetchedImg.take (c.len - 64))) else s.seq.pendingImg }
      ∧ (∀ f : Field, f.key < 0x20000 * 32 → fget t f = fget (decided s c codes) f)
      ∧ (s.hif.bme = true → c.entry ≠ [] → cplWanted s c = true →
          Completed s t c c.sqHead (if codes.isEmpty then 0 else 1) (codes.headD 0) (fieldOf s.seq.fetchedImg 0xC 4)) := by
  intro t
  have hjudged := onlySequencer_judged s c codes
  obtain ⟨hbme, hqps⟩ := judged_hif s c codes
  have hflag : Fld.secErr_SIGFAIL.key = 0xf0010 * 32 + 1 := rfl
  have hcount : Fld.secCntSigfail_COUNT.key = 0xf0018 * 32 := rfl
  have ht : t = complete (sendVec (judged s c codes) 3) c (if codes.isEmpty then 0 else 1) (codes.headD 0) (fieldOf s.seq.fetchedImg 0xC 4) := endAdmission_eq s c codes
  rw [ht]
  refine ⟨onlySequencer_complete (onlySequencer_trans hjudged (completionSide_sendVec _ 3).onlySequencer) _ _ _ _, ?_, fun f hf => ?_, fun hb he hw => ?_⟩
  · rw [complete_seq, sendVec_seq, judged_seq, decided_side]
  · rw [fget_complete_below _ _ _ _ _ hf, fget_of_regs f (sendVec_regs _ _), fget_judged_other s c codes (by omega) (by omega)]
  · have hpair := List.forall_mem_cons.mp (fget_judged_pair s c codes c.qp)
    have hqp : qpOf (sendVec (judged s c codes) 3) c.qp = qpOf s c.qp := by rw [qpOf, sendVec_qps, hqps, qpOf]
    exact completed_of_entry _ _ _ he ((cplWanted_congr (by rw [hqp]) hpair.1).trans hw) (by rw [sendVec_bme, hbme, hb]) hpair.2

theorem execAdmissionEnd_loading {s : State} {c : HostCmd} (hserve : serving s = true) (hc : s.seq.loading = some c) :
    execAdmissionEnd s = .next (endAdmission s c (admission s s.seq.fetchedImg c.len)) := by
  rw [execAdmissionEnd, hc]
  exact whenever_true hserve

/-- Settles O60: a refusal clears the request and the pending slot, and the frame under way and the active image stay. -/
theorem refusedImageClearsTheRequest : Obligations.RefusedImageClearsTheRequest := by
  unfold Obligations.RefusedImageClearsTheRequest
  intro s c hserve hc hrefused
  have hne : (admission s s.seq.fetchedImg c.len).isEmpty = false := by simpa using hrefused
  obtain ⟨-, hseq, hregs, -⟩ := endAdmission_effect s c (admission s s.seq.fetchedImg c.len)
  obtain ⟨-, -, hpending, hcleared⟩ := fget_decided s c (admission s s.seq.fetchedImg c.len)
  rw [exec_admissionEnd]
  refine ⟨_, execAdmissionEnd_loading hserve hc, (hregs _ (by decide)).trans (hcleared hne).2, ?_, ?_, ?_, ?_, ?_, ?_⟩
  · rw [pendingState, hregs _ (by decide), ← pendingState, hpending, hne]
    rfl
  · rw [hseq]
  · rw [hregs _ (by decide), fget_decided_active]
  all_goals rw [hseq]

end Sys2Proof.Machine
end

section
/-! The values after reset (R37, R492, Tables 01-11, 14-12, 16-1). -/

namespace Sys2Proof.Machine

/-- In the reset state every register field reads its reset value: the register file lists none. -/
theorem fget_reset (f : Field) : fget State.reset f = f.reset := rfl

/-- Settles O55: the register file is empty at reset, so each register reads the reset value of its table. -/
theorem resetValues : Obligations.ResetValues := by
  unfold Obligations.ResetValues
  simp only [fget_reset, cfgStaged, cfgCommitted, cfgForce]
  refine ⟨rfl, rfl, rfl, rfl, rfl, rfl, rfl, rfl, rfl, rfl, rfl, rfl, rfl, rfl, rfl, fun _ _ => ⟨rfl, rfl, rfl, rfl⟩, ?_, fun _ _ => ⟨rfl, rfl, rfl, rfl⟩,
    rfl, rfl, rfl, rfl, rfl, rfl, rfl, rfl, rfl, rfl, rfl, rfl, rfl, rfl, rfl, rfl⟩
  decide

end Sys2Proof.Machine
end

section
/-! What of the frame an effect leaves alone: the clock, the sequencer's own state, its registers, and which task each context runs. -/

namespace Sys2Proof.Machine

/-! ### The view -/

/-- A register of the Frame Sequencer, or one below it, other than an event flag: FSQ_EVENTS is set by many units. -/
abbrev Field.OfFrame (f : Field) : Prop := f.key < 0x10064 * 32 ∧ f.key / 32 ≠ 0x10030

/-- A field that is none of those: an event flag, or one of a block above the Frame Sequencer's. -/
abbrev Field.Aside (f : Field) : Prop := 0x10064 ≤ f.addr ∨ (f.addr = 0x10030 ∧ f.lo < 32)

/-- The frame as aborts, repairs, completions and page moves leave it: of the sequencer's state they change records and counts alone. -/
structure FrameView where
  now : Nat
  power : Power
  bme : Bool
  seq : Sequencer
  regs : Field → Nat
  task : Who → Option Nat

/-- The sequencer's state without the records and counts that it collects for the report. -/
def Sequencer.bare (q : Sequencer) : Sequencer :=
  { q with repairFlag := false, errRecs := [], pmIn := 0, pmOut := 0, pmFail := 0, pmCycles := 0, expAborted := [] }

def frameView (s : State) : FrameView :=
  { now := s.now, power := s.power, bme := s.hif.bme, seq := s.seq.bare, regs := fun f => if f.OfFrame then fget s f else 0
    task := fun w => (ctxOf s w).task }

theorem frameView_mk {s t : State} (hnow : t.now = s.now) (hpower : t.power = s.power) (hbme : t.hif.bme = s.hif.bme) (hseq : t.seq.bare = s.seq.bare)
    (hregs : ∀ f : Field, f.OfFrame → fget t f = fget s f) (htask : ∀ w, (ctxOf t w).task = (ctxOf s w).task) : frameView t = frameView s := by
  have hr : (fun f : Field => if f.OfFrame then fget t f else 0) = fun f => if f.OfFrame then fget s f else 0 := by
    funext f
    split
    · exact hregs f ‹_›
    · rfl
  simp only [frameView, hnow, hpower, hbme, hseq, hr, htask]

section
variable {s t : State} (h : frameView t = frameView s)
include h

theorem now_of_frameView : t.now = s.now := congrArg FrameView.now h
theorem power_of_frameView : t.power = s.power := congrArg FrameView.power h
theorem bme_of_frameView : t.hif.bme = s.hif.bme := congrArg FrameView.bme h
theorem tasks_of_frameView : t.seq.tasks = s.seq.tasks := congrArg (fun v => v.seq.tasks) h
theorem inFrame_of_frameView : t.seq.inFrame = s.seq.inFrame := congrArg (fun v => v.seq.inFrame) h
theorem lastTick_of_frameView : t.seq.lastTick = s.seq.lastTick := congrArg (fun v => v.seq.lastTick) h
theorem task_of_frameView (w : Who) : (ctxOf t w).task = (ctxOf s w).task := congrFun (congrArg FrameView.task h) w

theorem fget_of_frameView {f : Field} (hf : f.OfFrame) : fget t f = fget s f := by
  have hr := congrFun (congrArg FrameView.regs h) f
  simpa only [frameView, if_pos hf] using hr

theorem tcyc_of_frameView : tcyc t = tcyc s := by
  rw [tcyc, inFrame_of_frameView h, lastTick_of_frameView h, now_of_frameView h, tcyc]

end

/-- An effect that each element of a list has is one of the whole list. -/
theorem foldl_keeps {α β : Type} (v : State → α) {f : State → β → State} (h : ∀ t x, v (f t x) = v t) (xs : List β) (s : State) : v (xs.foldl f s) = v s := by
  induction xs generalizing s with
  | nil => rfl
  | cons x r ih => exact (ih (f s x)).trans (h s x)

/-! ### Parts of the state outside the view -/

section
variable (s : State)

@[simp] theorem frameView_modRepair (f : Repair → Repair) : frameView (modRepair s f) = frameView s := rfl
@[simp] theorem frameView_modShadow (q : Nat) (f : Shadow → Shadow) : frameView (modShadow s q f) = frameView s := rfl
@[simp] theorem frameView_modPaging (f : Paging → Paging) : frameView (modPaging s f) = frameView s := rfl
@[simp] theorem frameView_modMgmt (f : Mgmt → Mgmt) : frameView (modMgmt s f) = frameView s :=
  frameView_mk rfl rfl rfl rfl (fun _ _ => rfl) fun _ => rfl
@[simp] theorem frameView_modEngine (e : Nat) (f : Engine → Engine) : frameView (modEngine s e f) = frameView s := rfl
@[simp] theorem frameView_modSem (n : Nat) (f : Sem → Sem) : frameView (modSem s n f) = frameView s := rfl
@[simp] theorem frameView_modChan (k : Nat) (f : Chan → Chan) : frameView (modChan s k f) = frameView s := rfl
@[simp] theorem frameView_modPort (p : Nat) (f : Port → Port) : frameView (modPort s p f) = frameView s := rfl
@[simp] theorem frameView_drawn : frameView (drawn s) = frameView s := rfl

/-! ### Registers and flags outside the view -/

theorem ne_of_ofFrame {f g : Field} (hg : g.OfFrame) (hf : f.Aside) : g.key ≠ f.key := by
  obtain ⟨hlow, hevents⟩ := hg
  rcases hf with hbeyond | ⟨haddr, hlo⟩
  · have hk : f.key = f.addr * 32 + f.lo := rfl
    omega
  · have hk : f.key = f.addr * 32 + f.lo := rfl
    omega

@[simp] theorem frameView_fset (f : Field) (v : Nat) (hf : f.Aside) : frameView (fset s f v) = frameView s :=
  frameView_mk rfl rfl rfl rfl (fun g hg => fget_fset_other s f g v (ne_of_ofFrame hg hf)) fun _ => rfl

@[simp] theorem frameView_bump (f : Field) (n : Nat) (hf : f.Aside) : frameView (bump s f n) = frameView s := frameView_fset s f _ hf

theorem frameView_of_completionSide {t : State} (h : CompletionSide s t) (hregs : ∀ g : Field, g.key < 0x20000 * 32 → fget t g = fget s g) :
    frameView t = frameView s := by
  refine frameView_mk ?_ ?_ ?_ ?_ (fun g hg => hregs g (by omega)) fun w => ?_ <;> rw [h]
  rfl

@[simp] theorem frameView_sendVec (v : Nat) : frameView (sendVec s v) = frameView s :=
  frameView_of_completionSide s (completionSide_sendVec s v) fun g _ => fget_of_regs g (sendVec_regs s v)

@[simp] theorem frameView_complete (c : HostCmd) (status result info : Nat) : frameView (complete s c status result info) = frameView s :=
  frameView_of_completionSide s (completionSide_complete s c status result info) fun _ hg => fget_complete_below s c status result info hg

@[simp] theorem frameView_settle (old : State) : frameView (settle old s) = frameView s := by
  unfold settle
  split
  · exact frameView_sendVec _ 1
  · rfl

@[simp] theorem frameView_setBits (f : Field) (bits : Nat) (hf : f.Aside) : frameView (setBits s f bits) = frameView s :=
  (frameView_settle _ s).trans (frameView_fset s f _ hf)

@[simp] theorem frameView_setFlag (f : Field) (hf : f.Aside) : frameView (setFlag s f) = frameView s := frameView_setBits s f 1 hf

@[simp] theorem frameView_event (f c : Field) (hf : f.Aside) (hc : c.Aside) : frameView (event s f c) = frameView s :=
  (frameView_setFlag _ f hf).trans (frameView_bump s c 1 hc)

/-! ### Facets whose contexts run the same tasks -/

theorem facetOf_mapFacets (g : Nat × Facet → Nat × Facet) (hkey : ∀ e, (g e).1 = e.1) (l : Nat) :
    mapFind (s.facets.map g) l = (mapFind s.facets l).map (fun x => (g (l, x)).2) := by
  generalize s.facets = m
  induction m with
  | nil => rfl
  | cons e r ih =>
    obtain ⟨k, x⟩ := e
    have hk : (g (k, x)).1 = k := hkey (k, x)
    by_cases h : l = k
    · subst h
      simp [mapFind, hk]
    · simp [mapFind, hk, h, ih]

/-- Every facet changed, each context's task as it was. -/
theorem frameView_mapFacets (g : Nat × Facet → Nat × Facet) (hkey : ∀ e, (g e).1 = e.1) (htask : ∀ e c, ((g e).2.ctx c).task = (e.2.ctx c).task) :
    frameView { s with facets := s.facets.map g } = frameView s := by
  refine frameView_mk rfl rfl rfl rfl (fun _ _ => rfl) fun w => ?_
  simp only [ctxOf, facetOf, mapGet, facetOf_mapFacets s g hkey]
  cases mapFind s.facets w.lf with
  | none => rfl
  | some x => exact htask (w.lf, x) w.ctx

theorem frameView_modFacet {lf : Nat} {f : Facet → Facet} (htask : ∀ x c, ((f x).ctx c).task = (x.ctx c).task) : frameView (modFacet s lf f) = frameView s := by
  refine frameView_mk rfl rfl rfl rfl (fun _ _ => rfl) fun w => ?_
  by_cases h : w.lf = lf
  · rw [ctxOf, h, facetOf_modFacet_same, htask, ← h, ctxOf]
  · rw [ctxOf, facetOf_modFacet_other _ _ h, ctxOf]

/-- A change of a facet that reaches neither of its contexts. -/
theorem frameView_modFacet_beside {lf : Nat} {f : Facet → Facet} (ha : ∀ x, (f x).ctxA = x.ctxA) (hb : ∀ x, (f x).ctxB = x.ctxB) :
    frameView (modFacet s lf f) = frameView s :=
  frameView_modFacet s fun x c => by rw [Facet.ctx, Facet.ctx, ha, hb]

@[simp] theorem frameView_modLat (w : Who) (f : Lat → Lat) : frameView (modLat s w f) = frameView s :=
  frameView_modFacet_beside s (fun x => by unfold Facet.setLat; split <;> rfl) (fun x => by unfold Facet.setLat; split <;> rfl)

end

end Sys2Proof.Machine
end

section
/-! The shared effects of aborts, repairs, page moves and completions leave the frame's view alone. -/

namespace Sys2Proof.Machine

/-! ### Numbered registers above the Frame Sequencer's -/

/-- A register of a numbered unit whose first one stands above the Frame Sequencer's. -/
theorem aside_of_base {f : Field} (a : Nat) (ha : 0x10064 ≤ a) (hf : a ≤ f.addr) : f.Aside := .inl (ha.trans hf)

@[simp] theorem aside_stsCntLines (i : Nat) : (Fld.stsCntLines_COUNT i).Aside := aside_of_base 0xa0020 (by decide) (Nat.le_add_right _ _)
@[simp] theorem aside_stsCntXq (i : Nat) : (Fld.stsCntXq_COUNT i).Aside := aside_of_base 0xa0030 (by decide) (Nat.le_add_right _ _)
@[simp] theorem aside_fmemCntGatedwr (f : Nat) : (Fld.fmemCntGatedwr_COUNT f).Aside := aside_of_base 0x10f301c (by decide) (Nat.le_add_right _ _)
@[simp] theorem aside_fmemErrGatedwr (f : Nat) : (Fld.fmemErr_GATEDWR f).Aside := aside_of_base 0x10f3008 (by decide) (Nat.le_add_right _ _)
@[simp] theorem aside_rpmFmap (i : Nat) : (Fld.rpmFmap_PFACET i).Aside := aside_of_base 0xe0100 (by decide) (Nat.le_add_right _ _)
@[simp] theorem aside_rpmSmap (i : Nat) : (Fld.rpmSmap_PSLICE i).Aside := aside_of_base 0xe0200 (by decide) (Nat.le_add_right _ _)
@[simp] theorem aside_rpmFstate (i : Nat) : (Fld.rpmFstate_STATE i).Aside := aside_of_base 0xe0500 (by decide) (Nat.le_add_right _ _)
@[simp] theorem aside_rpmFstateWorn (i : Nat) : (Fld.rpmFstate_WORN i).Aside := aside_of_base 0xe0500 (by decide) (Nat.le_add_right _ _)
@[simp] theorem aside_rpmSstate (i : Nat) : (Fld.rpmSstate_STATE i).Aside := aside_of_base 0xe0600 (by decide) (Nat.le_add_right _ _)
@[simp] theorem aside_cmpKatResult (f : Nat) : (Fld.cmpKat_RESULTFAIL f).Aside := aside_of_base 0x10f202c (by decide) (Nat.le_add_right _ _)
@[simp] theorem aside_cmpKatTime (f : Nat) : (Fld.cmpKat_TIMEFAIL f).Aside := aside_of_base 0x10f202c (by decide) (Nat.le_add_right _ _)
@[simp] theorem aside_cmpStatusStruct (f : Nat) : (Fld.cmpStatus_STRUCT f).Aside := aside_of_base 0x10f2000 (by decide) (Nat.le_add_right _ _)
@[simp] theorem aside_calCore (i : Nat) : (Fld.calCore_SLACK i).Aside := aside_of_base 0xd0400 (by decide) (Nat.le_add_right _ _)
@[simp] theorem aside_farChState (d : Nat) : (Fld.farChState_STATE d).Aside := aside_of_base 0xb0100 (by decide) (Nat.le_add_right _ _)
@[simp] theorem aside_farChWorn (d : Nat) : (Fld.farChState_WORN d).Aside := aside_of_base 0xb0100 (by decide) (Nat.le_add_right _ _)
@[simp] theorem aside_farChPool (d : Nat) : (Fld.farChPool_FREE d).Aside := aside_of_base 0xb010c (by decide) (Nat.le_add_right _ _)
@[simp] theorem aside_farChBlocks (d : Nat) : (Fld.farChBlocks_COUNT d).Aside := aside_of_base 0xb0110 (by decide) (Nat.le_add_right _ _)

variable (s : State)

/-! ### Records, memories, host memory -/

@[simp] theorem frameView_logEvent (code : Nat) (detail : List Byte) : frameView (logEvent s code detail) = frameView s := by
  unfold logEvent
  exact frameView_modMgmt s _

@[simp] theorem frameView_errorRec (cls unit index ev task detail : Nat) : frameView (errorRec s cls unit index ev task detail) = frameView s := by
  have hrec : ∀ t : State, frameView (modSeq t (fun q => { q with errRecs := q.errRecs ++ [recBytes cls unit index ev task (tcyc s) detail] })) = frameView t := fun _ => rfl
  have hflag : ∀ t : State, frameView (modSeq t (fun q => { q with repairFlag := true })) = frameView t := fun _ => rfl
  unfold errorRec
  dsimp only
  split_ifs <;> simp +decide [hrec, hflag]

@[simp] theorem frameView_hostWrite (a : Nat) (bs : List Byte) : frameView (hostWrite s a bs) = frameView s := by
  unfold hostWrite
  split <;> rfl

@[simp] theorem frameView_serveLines (unit : Option Nat) (isWrite : Bool) (lines : List Nat) : frameView (serveLines s unit isWrite lines) = frameView s := by
  refine foldl_keeps frameView (fun t q => ?_) _ s
  dsimp only
  split <;> split_ifs <;> simp

@[simp] theorem frameView_countLines (unit : Option Nat) (isWrite : Bool) (as : List Nat) : frameView (countLines s unit isWrite as) = frameView s :=
  frameView_serveLines s _ _ _

@[simp] theorem frameView_countRange (unit : Option Nat) (isWrite : Bool) (a n : Nat) : frameView (countRange s unit isWrite a n) = frameView s :=
  frameView_serveLines s _ _ _

@[simp] theorem frameView_healWords (whole : Nat → Bool) : frameView (healWords s whole) = frameView s := by
  unfold healWords
  split <;> rfl

@[simp] theorem frameView_stsPut (unit : Option Nat) (ws : List (Nat × Byte)) : frameView (stsPut s unit ws) = frameView s := by
  simp only [stsPut, frameView_countLines, frameView_healWords]
  rfl

@[simp] theorem frameView_stsWrite (unit : Option Nat) (a : Nat) (bs : List Byte) : frameView (stsWrite s unit a bs) = frameView s := by
  simp only [stsWrite, frameView_countRange, frameView_healWords]
  rfl

@[simp] theorem frameView_fmemPut (pf : Nat) (ws : List (Nat × Byte)) : frameView (fmemPut s pf ws) = frameView s := by
  have hcount : ∀ t : State, frameView (countDropped t pf ws) = frameView t := fun t => by
    unfold countDropped
    dsimp only
    split <;> simp
  exact hcount _

@[simp] theorem frameView_loadImem (lf pf : Nat) : frameView (loadImem s lf pf) = frameView s := by
  unfold loadImem
  split <;> rfl

/-! ### Repair (R458 to R466) -/

@[simp] theorem frameView_retireFacet (pf : Nat) : frameView (retireFacet s pf) = frameView s := frameView_fset s _ _ (aside_rpmFstate pf)

@[simp] theorem frameView_setFacetMap (lf pf : Nat) : frameView (setFacetMap s lf pf) = frameView s := by
  have h : frameView (bump (fset s (Fld.rpmFmap_PFACET lf) pf) Fld.rpmMapgen_GEN 1) = frameView s := by simp +decide
  exact h

@[simp] theorem frameView_unmappedRec (lf : Nat) : frameView (unmappedRec s lf) = frameView s := by simp +decide [unmappedRec]

@[simp] theorem frameView_unmapFacet (lf : Nat) : frameView (unmapFacet s lf) = frameView s := by simp [unmapFacet]

@[simp] theorem frameView_stopShadow (q : Nat) : frameView (stopShadow s q) = frameView s := by
  unfold stopShadow
  split <;> simp +decide

@[simp] theorem frameView_abandonShadow (lf id : Nat) : frameView (abandonShadow s lf id) = frameView s := by
  unfold abandonShadow
  split <;> simp

@[simp] theorem frameView_startSwap (lf : Nat) : frameView (startSwap s lf) = frameView s := by
  have hflag : ∀ t : State, frameView (modSeq t (fun q => { q with repairFlag := true })) = frameView t := fun _ => rfl
  unfold startSwap
  dsimp only
  split <;> simp [hflag]

@[simp] theorem frameView_katResult (pf : Nat) (runs : List KatRun) : frameView (katResult s pf runs) = frameView s := by simp [katResult]

@[simp] theorem frameView_wearFacet (pf : Nat) : frameView (wearFacet s pf) = frameView s := by
  unfold wearFacet
  split
  · simp
  · dsimp only
    split_ifs
    · rfl
    · split <;> simp +decide
    · split <;> simp

@[simp] theorem frameView_measureSlack (pf : Nat) : frameView (measureSlack s pf) = frameView s := by
  unfold measureSlack
  dsimp only
  split_ifs <;> simp

@[simp] theorem frameView_suspectTest (q : Nat) : frameView (suspectTest s q) = frameView s := by
  unfold suspectTest
  split
  · dsimp only
    split <;> simp
  · simp
  · rfl

@[simp] theorem frameView_planSwap (x : FacetSwap) : frameView (planSwap s x) = frameView s := by
  unfold planSwap
  split
  · rfl
  · dsimp only
    split <;> simp

@[simp] theorem frameView_planSwaps : frameView (planSwaps s) = frameView s := foldl_keeps frameView frameView_planSwap _ s

@[simp] theorem frameView_routineRetrain (mask n : Nat) : frameView (routineRetrain s mask n) = frameView s := by
  have hstart : ∀ ch urgent, frameView (startRetrain s ch urgent) = frameView s := fun ch urgent => frameView_fset (modRepair s _) _ 2 (aside_farChState ch)
  unfold routineRetrain
  split
  · rfl
  · split
    · rfl
    · exact hstart _ _

@[simp] theorem frameView_maintenanceTail : frameView (maintenanceTail s) = frameView s := by
  simp only [maintenanceTail, frameView_routineRetrain, frameView_planSwaps, foldl_keeps frameView frameView_measureSlack, foldl_keeps frameView frameView_suspectTest]

@[simp] theorem frameView_plannedMap (x : FacetSwap) : frameView (plannedMap s x) = frameView s := by simp +decide [plannedMap]

@[simp] theorem frameView_sliceMapped (c : SliceCopy) : frameView (sliceMapped s c) = frameView s := by simp +decide [sliceMapped]

@[simp] theorem frameView_prologueMaps : frameView (prologueMaps s) = frameView s := by
  have hflag : ∀ t : State, frameView (modSeq t (fun q => { q with repairFlag := true })) = frameView t := fun _ => rfl
  unfold prologueMaps
  dsimp only
  split_ifs <;> simp only [hflag, foldl_keeps frameView frameView_unmappedRec, foldl_keeps frameView frameView_sliceMapped,
    foldl_keeps frameView frameView_plannedMap, frameView_modRepair]

@[simp] theorem frameView_repairTick : frameView (repairTick s) = frameView s := rfl

@[simp] theorem frameView_throttleRecs : frameView (throttleRecs s) = frameView s := by
  have h : ∀ (t : State) q, frameView (if (throttleOf t q).ran = 0 then t else errorRec t 4 11 q 13 0xFFFF (throttleOf t q).ran) = frameView t := fun t q => by
    split <;> simp
  unfold throttleRecs
  dsimp only
  split_ifs <;> simp [foldl_keeps frameView h]

end Sys2Proof.Machine
end

section
/-! The commands of Frame Sequencer entries and express windows: LOAD_IMAGE, MANIFEST, the end of a fetch, EXPRESS (R35, R39, R40, R48, R407 to R410). -/

namespace Sys2Proof.Machine

/-! ### Registers of queue pairs -/

/-- The registers of queue pairs stand above those of the Frame Sequencer and the counts of the host interface. -/
theorem cplFields_above (q : Nat) : ∀ f ∈ Fld.hifQState_STATE q :: cplFields q, 0x20100 * 32 ≤ f.key := by
  simp only [cplFields, List.forall_mem_cons, Field.key, Fld.hifQState_STATE, Fld.hifQCqbHi_BASE, Fld.hifQCqbLo_BASE, Fld.hifQCqtail_TAIL, Fld.hifQCqtail_PHASE,
    Fld.hifQCfg_CQSIZE]
  refine ⟨?_, ?_, ?_, ?_, ?_, ?_, fun _ h => by cases h⟩ <;> omega

/-- A command that was fetched completes where an effect that leaves the queue pairs alone has taken place before. -/
theorem completed_after {s u : State} {c : HostCmd} (status result info : Nat) (he : c.entry ≠ []) (hw : cplWanted s c = true) (hb : u.hif.bme = true)
    (hgen : (qpOf u c.qp).gen = (qpOf s c.qp).gen) (hregs : ∀ f : Field, 0x20100 * 32 ≤ f.key → fget u f = fget s f) :
    Completed s (complete u c status result info) c c.sqHead status result info := by
  have hpair := List.forall_mem_cons.mp (fun f hf => hregs f (cplFields_above c.qp f hf))
  exact completed_of_entry status result info he ((cplWanted_congr hgen hpair.1).trans hw) hb hpair.2

/-- A register below the queue pairs', counted up, leaves theirs alone. -/
theorem fget_bump_above (s : State) (f : Field) (n : Nat) (hf : f.key < 0x20100 * 32) {g : Field} (hg : 0x20100 * 32 ≤ g.key) : fget (bump s f n) g = fget s g :=
  fget_fset_other _ _ _ _ (by omega)

/-! ### LOAD_IMAGE -/

theorem startLoad_free {s : State} (c : HostCmd) (hreq : fget s Fld.fsqSwap_REQ = 0) (h1 : pendingState s ≠ 1) (h2 : pendingState s ≠ 2) :
    let bs := memReadN s.host c.addr (min c.len (4 * 2 ^ 20 + 64))
    startLoad s c = fset (fset (modSeq s (fun q => { q with pendingImg := none, loading := some c, fetchedImg := bs })) Fld.fsqStatus_PENDING 2) Fld.fsqPendingId_ID (fieldOf bs 0xC 4) := by
  have hfree : ¬ (fon s Fld.fsqSwap_REQ ∨ pendingState s = 1 ∨ pendingState s = 2) := by
    rw [fon_iff]
    omega
  exact if_neg hfree

/-- A LOAD_IMAGE that finds the slot free and no swap requested starts a check of the bytes fetched. -/
theorem loadImage_free {s : State} {qp : Nat} {c : HostCmd} (hup : hostUp s = true) (hb : s.hif.bme = true) (hc : headCmd s qp 1 = some c)
    (hreq : fget s Fld.fsqSwap_REQ = 0) (h1 : pendingState s ≠ 1) (h2 : pendingState s ≠ 2) :
    let bs := memReadN s.host c.addr (min c.len (4 * 2 ^ 20 + 64))
    ∃ t, execLoadImage qp s = .next t ∧ pendingState t = 2 ∧ fget t Fld.fsqPendingId_ID = fieldOf bs 0xC 4 ∧ t.seq.loading = some c ∧ t.seq.fetchedImg = bs
      ∧ t.seq.pendingImg = none ∧ (qpOf t qp).fetched = (qpOf s qp).fetched.drop 1 ∧ t = { s with regs := t.regs, seq := t.seq, hif := t.hif } := by
  refine ⟨_, execLoadImage_head hup hb hc, ?_⟩
  rw [startLoad_free (s := popCmd s qp) c hreq h1 h2]
  refine ⟨?_, ?_, rfl, rfl, rfl, qpOf_popCmd_fetched s qp, rfl⟩
  · rw [pendingState, fget_fset_other _ _ _ _ (by decide), fget_fset_same]
    rfl
  · rw [fget_fset_same]
    exact Nat.mod_eq_of_lt (fieldOf_lt _ _ 4)

/-! ### MANIFEST -/

section
variable {s : State} {qp : Nat} {c : HostCmd} (hserve : serving s = true) (hb : s.hif.bme = true) (hc : headCmd s qp 2 = some c)
include hserve hb hc

theorem execManifestCmd_head : execManifestCmd qp s = .next (takeManifest (popCmd s qp) c) := by
  rw [execManifestCmd, hc]
  exact whenever_true (by rw [hserve, hb]; rfl)

/-- A timely MANIFEST stands by, in order of arrival. -/
theorem manifestCmd_timely (hahead : framesAhead s c.frame ≤ 1) (htime : framesAhead s c.frame = 0 → afterCutoff s c.arrival = false) :
    execManifestCmd qp s = .next (addManifest (popCmd s qp) ⟨c, c.frame, c.len, manifestEntries s c, false, false⟩) := by
  have hearly : (framesAhead s c.frame = 0 && afterCutoff s c.arrival) = false := by
    by_cases h : framesAhead s c.frame = 0
    · simp [htime h]
    · simp [h]
  rw [execManifestCmd_head hserve hb hc]
  exact congrArg _ ((if_pos hahead).trans (if_neg (Bool.eq_false_iff.mp hearly)))

/-- A command after the cut-off of the frame that comes next is late. -/
theorem manifestCmd_late (hahead : framesAhead s c.frame = 0) (hlate : afterCutoff s c.arrival = true) :
    execManifestCmd qp s = .next (lateManifest (popCmd s qp) c) := by
  rw [execManifestCmd_head hserve hb hc]
  have hnow : (decide (framesAhead s c.frame = 0) && afterCutoff s c.arrival) = true := by rw [hahead, hlate]; rfl
  exact congrArg _ ((if_pos (hahead.trans_le (Nat.zero_le 1))).trans (if_pos hnow))

/-- A command carried out after the tick of its frame: late, or one whose fetch is lost. -/
theorem manifestCmd_begun (hahead : 1 < framesAhead s c.frame) (hframe : s.seq.inFrame = true ∧ c.frame = frameNo s ∧ c.arrival ≤ s.seq.lastTick ∧ s.seq.ran = true) :
    execManifestCmd qp s = .next (if pastCutoff s.seq.cutoff c.arrival then lateAfterTick (popCmd s qp) c else lostManifest (popCmd s qp) c) := by
  rw [execManifestCmd_head hserve hb hc]
  exact congrArg _ ((if_neg (Nat.not_le.mpr hahead)).trans (if_pos hframe))

/-- A command for another frame. -/
theorem manifestCmd_badFrame (hahead : 1 < framesAhead s c.frame)
    (hframe : s.seq.inFrame = true → c.frame = frameNo s → c.arrival ≤ s.seq.lastTick → s.seq.ran = false) :
    execManifestCmd qp s = .next (complete (popCmd s qp) c 4 0 c.frame) := by
  have hother : ¬ (s.seq.inFrame = true ∧ c.frame = frameNo s ∧ c.arrival ≤ s.seq.lastTick ∧ s.seq.ran = true) := by
    rintro ⟨h1, h2, h3, h4⟩
    rw [hframe h1 h2 h3] at h4
    cases h4
  rw [execManifestCmd_head hserve hb hc]
  exact congrArg _ ((if_neg (Nat.not_le.mpr hahead)).trans (if_neg hother))

end

/-- Of registers and memories, latching a frame's slots changes none: it rewrites the slots alone. -/
theorem latch_side (s : State) (f : Nat) : latch s f = { s with seq := { s.seq with slots := (latch s f).seq.slots } } := by
  unfold latch
  split <;> rfl

theorem onlySequencer_latch (s : State) (f : Nat) : OnlySequencer s (latch s f) := by
  unfold OnlySequencer
  rw [latch_side]

@[simp] theorem latch_regs (s : State) (f : Nat) : (latch s f).regs = s.regs := by rw [latch_side]
@[simp] theorem latch_hif (s : State) (f : Nat) : (latch s f).hif = s.hif := by rw [latch_side]

@[simp] theorem fget_latch (s : State) (f : Nat) (g : Field) : fget (latch s f) g = fget s g := fget_of_regs g (latch_regs s f)

/-- Taking a command from its queue pair changes nothing that slots are latched from. -/
theorem latch_popCmd_seq (s : State) (qp f : Nat) : (latch (popCmd s qp) f).seq = (latch s f).seq := by
  have hseq : (popCmd s qp).seq = s.seq := rfl
  unfold latch
  rw [hseq]
  cases s.seq.active <;> rfl

/-- A command of the Frame Sequencer that completes after an effect on the sequencer alone. -/
theorem onlySequencer_completed {s u : State} {c : HostCmd} (status result info : Nat) (hu : OnlySequencer s u) (he : c.entry ≠ []) (hw : cplWanted s c = true)
    (hb : u.hif.bme = true) (hgen : (qpOf u c.qp).gen = (qpOf s c.qp).gen) (hregs : ∀ f : Field, 0x20100 * 32 ≤ f.key → fget u f = fget s f) :
    Completed s (complete u c status result info) c c.sqHead status result info ∧ OnlySequencer s (complete u c status result info) :=
  ⟨completed_after status result info he hw hb hgen hregs, onlySequencer_complete hu _ _ _ _⟩

/-- A late MANIFEST completes with LATE and is counted. -/
theorem lateManifest_effect {s : State} {qp : Nat} {c : HostCmd} (hb : s.hif.bme = true) (he : c.entry ≠ []) (hw : cplWanted s c = true) :
    let t := lateManifest (popCmd s qp) c
    Completed s t c c.sqHead 3 c.len c.frame ∧ fget t Fld.fsqCntLate_COUNT = (fget s Fld.fsqCntLate_COUNT + 1) % 2 ^ 32 ∧ t.seq.manifests = s.seq.manifests ∧ OnlySequencer s t := by
  obtain ⟨hcpl, honly⟩ := onlySequencer_completed (u := skipSlots (popCmd s qp) c) 3 c.len c.frame (s := s) rfl he hw hb (qpOf_popCmd_gen s qp c.qp)
    fun f hf => fget_bump_above _ _ _ (by decide) hf
  refine ⟨hcpl, ?_, ?_, honly⟩
  · exact (fget_complete_below _ _ _ _ _ (by decide)).trans (fget_fset_same s _ _)
  · rw [lateManifest, complete_seq]
    rfl

/-- One carried out after its frame's tick latches the frame's slots afresh (log 26). -/
theorem lateAfterTick_effect {s : State} {qp : Nat} {c : HostCmd} (hb : s.hif.bme = true) (he : c.entry ≠ []) (hw : cplWanted s c = true) :
    let t := lateAfterTick (popCmd s qp) c
    Completed s t c c.sqHead 3 c.len c.frame ∧ t.seq = (latch (skipSlots s c) c.frame).seq ∧ OnlySequencer s t := by
  have hskipped : OnlySequencer s (skipSlots (popCmd s qp) c) := rfl
  obtain ⟨hcpl, honly⟩ := onlySequencer_completed (u := latch (skipSlots (popCmd s qp) c) c.frame) 3 c.len c.frame (onlySequencer_trans hskipped (onlySequencer_latch _ _)) he hw
    (by rw [latch_hif]; exact hb) (by rw [qpOf, latch_hif]; exact qpOf_popCmd_gen s qp c.qp)
    fun f hf => (fget_latch _ _ f).trans (fget_bump_above _ _ _ (by decide) hf)
  refine ⟨hcpl, ?_, honly⟩
  rw [lateAfterTick, complete_seq]
  exact latch_popCmd_seq (skipSlots s c) qp c.frame

/-- One whose fetch the tick has ended completes with no entry (log 67). -/
theorem lostManifest_effect {s : State} {qp : Nat} {c : HostCmd} (hb : s.hif.bme = true) (he : c.entry ≠ []) (hw : cplWanted s c = true) :
    let t := lostManifest (popCmd s qp) c
    Completed s t c c.sqHead 3 0 c.frame ∧ OnlySequencer s t := by
  have hadded : OnlySequencer s (addManifest (bump (popCmd s qp) Fld.fsqCntLate_COUNT 1) ⟨c, c.frame, c.len, [], true, true⟩) := rfl
  exact onlySequencer_completed 3 0 c.frame (onlySequencer_trans hadded (onlySequencer_latch _ _)) he hw
    (by rw [latch_hif]; exact hb) (by rw [qpOf, latch_hif]; exact qpOf_popCmd_gen s qp c.qp)
    fun f hf => (fget_latch _ _ f).trans (fget_bump_above _ _ _ (by decide) hf)

/-! ### The end of a MANIFEST's fetch -/

theorem execManifestFetchEnd_head {s : State} {m : Manifest} {n : Nat} (hserve : serving s = true) (hb : s.hif.bme = true)
    (hm : s.seq.manifests.find? (fun x => !x.done) = some m) (hn : n ≤ m.count) (hend : (s.seq.inFrame = true ∧ m.frame = frameNo s) ∨ n = m.count) :
    execManifestFetchEnd n s = .next (endFetch s m n) := by
  rw [execManifestFetchEnd, hm]
  refine whenever_true ?_
  simp only [hserve, hb, Bool.and_eq_true, Bool.or_eq_true, decide_eq_true_eq, true_and]
  exact ⟨hn, hend⟩

/-- A fetch with every entry ends its MANIFEST with OK. -/
theorem endFetch_whole {s : State} {m : Manifest} (hb : s.hif.bme = true) (he : m.cmd.entry ≠ []) (hw : cplWanted s m.cmd = true) :
    let t := endFetch s m m.count
    Completed s t m.cmd m.cmd.sqHead 0 m.count m.frame ∧ (∀ x ∈ t.seq.manifests, x.cmd = m.cmd → x.done = true) ∧ OnlySequencer s t := by
  have ht : endFetch s m m.count = complete (modManifest s m (fun x => { x with done := true, short := false })) m.cmd 0 m.count m.frame := if_pos rfl
  obtain ⟨hcpl, honly⟩ := onlySequencer_completed (u := modManifest s m (fun x => { x with done := true, short := false })) 0 m.count m.frame (s := s) rfl he hw hb rfl
    fun _ _ => rfl
  intro t
  rw [show t = _ from ht]
  refine ⟨hcpl, fun x hx hcmd => ?_, honly⟩
  rw [complete_seq] at hx
  obtain ⟨y, -, rfl⟩ := List.mem_map.mp hx
  split
  · rfl
  · next hother => exact absurd (by rwa [if_neg hother] at hcmd) hother

/-- A fetch that the frame's tick finds unfinished ends its MANIFEST with LATE and what was fetched. -/
theorem endFetch_short {s : State} {m : Manifest} {n : Nat} (hb : s.hif.bme = true) (he : m.cmd.entry ≠ []) (hw : cplWanted s m.cmd = true) (hn : n < m.count) :
    let t := endFetch s m n
    Completed s t m.cmd m.cmd.sqHead 3 n m.frame ∧ fget t Fld.fsqCntLate_COUNT = (fget s Fld.fsqCntLate_COUNT + 1) % 2 ^ 32 ∧ OnlySequencer s t := by
  let u := modManifest (bump s Fld.fsqCntLate_COUNT 1) m (fun x => { x with done := true, short := true, entries := x.entries.take n })
  have ht : endFetch s m n = complete (latch u m.frame) m.cmd 3 n m.frame := if_neg hn.ne
  have hu : OnlySequencer s u := rfl
  obtain ⟨hcpl, honly⟩ := onlySequencer_completed (u := latch u m.frame) 3 n m.frame (onlySequencer_trans hu (onlySequencer_latch _ _)) he hw
    (by rw [latch_hif]; exact hb) (by rw [qpOf, latch_hif]; rfl) fun f hf => (fget_latch _ _ f).trans (fget_bump_above _ _ _ (by decide) hf)
  intro t
  rw [show t = _ from ht]
  refine ⟨hcpl, ?_, honly⟩
  rw [fget_complete_below _ _ _ _ _ (by decide), fget_latch]
  exact fget_fset_same s _ _

/-! ### Express windows -/

theorem hostErr_expressIn (s : State) (bar : Nat) (isWrite : Bool) (addr size cause : Nat) : (hostErr s bar isWrite addr size cause).hif.expressIn = s.hif.expressIn := by
  obtain ⟨m, a, h⟩ := event_hif (fset (fset (fset (fset (fset (fset s Fld.glbHerrInfo_BAR bar) Fld.glbHerrInfo_WRITE (if isWrite then 1 else 0))
    Fld.glbHerrInfo_BYTES (if 256 ≤ size then 0 else size)) Fld.glbHerrInfo_CAUSE cause) Fld.glbHerrAddrLo_ADDR addr) Fld.glbHerrAddrHi_ADDR (addr / 2 ^ 32))
    Fld.glbHerr_ACCESS Fld.glbCntHerr_COUNT
  rw [hostErr, h]
  rfl

/-- A write of another size to an express window is an access error (R418). -/
theorem expressRequest_badSize {s : State} {qp : Nat} {r : List Byte} (hup : hostUp s = true) (hqp : qp < 64) (hr : r.length ≠ 128) :
    ∃ t, execExpressRequest qp r s = .next t ∧ t.seq = s.seq ∧ fget t Fld.glbHerrInfo_CAUSE = 7 ∧ t.host = s.host ∧ t.hif.expressIn = s.hif.expressIn := by
  have hside := (registerSide_self s).hostErr 1 true (qp * 0x1000 + 0x100) r.length 7
  obtain ⟨-, -, -, hcause, -⟩ := fget_hostErr s 1 true (qp * 0x1000 + 0x100) r.length 7
  refine ⟨hostErr s 1 true (qp * 0x1000 + 0x100) r.length 7, ?_, hside.seq, hcause, by rw [hside], hostErr_expressIn _ _ _ _ _ _⟩
  rw [execExpressRequest, whenever_true (by simp [hup, hqp]), if_pos hr]

theorem expressRequest_whole {s : State} {qp : Nat} {r : List Byte} (hup : hostUp s = true) (hqp : qp < 64) (hr : r.length = 128) :
    execExpressRequest qp r s = .next { s with hif := { s.hif with expressIn := s.hif.expressIn ++ [(s.now + 26, qp, r)] } } := by
  rw [execExpressRequest, whenever_true (by simp [hup, hqp]), if_neg (not_not.mpr hr)]
  rfl

/-- No request under way to an express window any more. -/
def drained (s : State) : State := { s with hif := { s.hif with expressIn := [] } }

/-- One request that is due arrives. -/
theorem expressCycle_single {s : State} {c0 qp : Nat} {r : List Byte} (hup : hostUp s = true) (hin : s.hif.expressIn = [(c0, qp, r)]) (hdue : c0 ≤ s.now) :
    expressCycle s = arriveExpress (drained s) qp r := by
  have hfilter : s.hif.expressIn.filter (fun x => decide (x.1 ≤ s.now)) = [(c0, qp, r)] := by simp [hin, hdue]
  have hrest : s.hif.expressIn.filter (fun x => decide (s.now < x.1)) = [] := by simp [hin, hdue]
  have hdrained : modHif s (fun h => { h with expressIn := h.expressIn.filter (fun x => decide (s.now < x.1)) }) = drained s :=
    congrArg (fun l => ({ s with hif := { s.hif with expressIn := l } } : State)) hrest
  have hup' : hostUp (drained s) = true := hup
  unfold expressCycle
  dsimp only
  rw [hfilter, hdrained]
  exact if_pos hup'

/-- A request to a queue pair that is off, or whose completion ring is full, is dropped and counted (R48). -/
theorem arriveExpress_dropped {s : State} {q : Nat} (r : List Byte) (h : qpState s q ≠ 1 ∨ cqFree s q = false) :
    let t := arriveExpress s q r
    t.hif.expressIn = s.hif.expressIn ∧ t.seq = s.seq ∧ fget t Fld.hifCntXdrop_COUNT = (fget s Fld.hifCntXdrop_COUNT + 1) % 2 ^ 32
      ∧ fget t Fld.hifErr_XDROP = 1 ∧ t.host = s.host := by
  have ht : arriveExpress s q r = event s Fld.hifErr_XDROP Fld.hifCntXdrop_COUNT := if_pos h
  obtain ⟨hflag, hcount⟩ := fget_event s (f := Fld.hifErr_XDROP) (c := Fld.hifCntXdrop_COUNT) rfl (by decide)
  obtain ⟨m, a, hhif⟩ := event_hif s Fld.hifErr_XDROP Fld.hifCntXdrop_COUNT
  have hside := (registerSide_self s).event Fld.hifErr_XDROP Fld.hifCntXdrop_COUNT
  intro t
  rw [show t = _ from ht]
  exact ⟨by rw [hhif], hside.seq, hcount, hflag, by rw [hside]⟩

/-- The command that an express request makes: it stands in no submission ring, and its completion shows the ring's own head. -/
def expressCmd (s : State) (q : Nat) (r : List Byte) : HostCmd := ⟨q, (qpOf s q).gen, fieldOf r 2 2, 0, [], s.now⟩

/-- A place for its completion, taken. -/
def booked (s : State) (q : Nat) : State :=
  modQp (bump s Fld.hifCntCmd_COUNT 1) q (fun p => { p with reserved := p.reserved + 1, live := p.live + 1 })

theorem qpOf_booked (s : State) (q : Nat) : qpOf (booked s q) q = { qpOf s q with reserved := (qpOf s q).reserved + 1, live := (qpOf s q).live + 1 } :=
  qpOf_modQp_same (bump s Fld.hifCntCmd_COUNT 1) q _

/-- What R410 checks is not the queue pair's. -/
theorem expressCheck_booked (s : State) (q : Nat) (r : List Byte) : expressCheck (booked s q) r = expressCheck s r := by
  have hseq : (booked s q).seq = s.seq := rfl
  unfold expressCheck expressTask expressSlot
  rw [hseq]

theorem takeExpress_eq (s : State) (q : Nat) (r : List Byte) :
    takeExpress s q r = (if expressCheck (booked s q) r = 0
      then modSeq (booked s q) (fun x => { x with express := x.express ++ [⟨expressCmd s q r, fieldOf r 4 2, fieldOf r 6 2, r.drop 64⟩] })
      else complete (booked s q) (expressCmd s q r) (expressCheck (booked s q) r) 0 (frameNo (booked s q))) := rfl

theorem arriveExpress_taken {s : State} {q : Nat} (r : List Byte) (hq : qpState s q = 1) (hfree : cqFree s q = true) :
    arriveExpress s q r = (if expressCheck s r = 0
      then modSeq (booked s q) (fun x => { x with express := x.express ++ [⟨expressCmd s q r, fieldOf r 4 2, fieldOf r 6 2, r.drop 64⟩] })
      else complete (booked s q) (expressCmd s q r) (expressCheck s r) 0 (frameNo s)) := by
  have htaken : ¬ (qpState s q ≠ 1 ∨ cqFree s q = false) := by simp [hq, hfree]
  have hframe : frameNo (booked s q) = frameNo s := fget_fset_other _ _ _ _ (by decide)
  rw [arriveExpress, if_neg htaken, takeExpress_eq, expressCheck_booked, hframe]

/-- A request that passes the checks of R410 is queued. -/
theorem arriveExpress_queued {s : State} {q : Nat} (r : List Byte) (hq : qpState s q = 1) (hfree : cqFree s q = true) (hok : expressCheck s r = 0) :
    let t := arriveExpress s q r
    t.hif.expressIn = s.hif.expressIn ∧ t.seq = { s.seq with express := s.seq.express ++ [⟨expressCmd s q r, fieldOf r 4 2, fieldOf r 6 2, r.drop 64⟩] }
      ∧ (qpOf t q).reserved = (qpOf s q).reserved + 1 ∧ OnlySequencer s t := by
  have ht := (arriveExpress_taken r hq hfree).trans (if_pos hok)
  intro t
  rw [show t = _ from ht]
  refine ⟨rfl, rfl, ?_, rfl⟩
  exact congrArg Qp.reserved (qpOf_booked s q)

/-- One that fails them completes with the status of the first check that it fails. -/
theorem arriveExpress_refused {s : State} {q : Nat} (r : List Byte) (hb : s.hif.bme = true) (hq : qpState s q = 1) (hfree : cqFree s q = true) (hbad : expressCheck s r ≠ 0) :
    let t := arriveExpress s q r
    t.hif.expressIn = s.hif.expressIn ∧ t.seq = s.seq
      ∧ Completed s t (expressCmd s q r) (fget s (Fld.hifQSqhead_HEAD q)) (expressCheck s r) 0 (frameNo s) ∧ OnlySequencer s t := by
  have ht := (arriveExpress_taken r hq hfree).trans (if_neg hbad)
  have hbooked : OnlySequencer s (booked s q) := rfl
  have habove : ∀ f : Field, 0x20100 * 32 ≤ f.key → fget (booked s q) f = fget s f := fun f hf => fget_bump_above s Fld.hifCntCmd_COUNT 1 (by decide) hf
  have hpair := List.forall_mem_cons.mp (fun f hf => habove f (cplFields_above q f hf))
  have hgen : (qpOf (booked s q) q).gen = (qpOf s q).gen := (congrArg Qp.gen (qpOf_booked s q)).trans rfl
  have hw : cplWanted (booked s q) (expressCmd s q r) = true := by
    rw [cplWanted, Bool.and_eq_true, decide_eq_true_eq, decide_eq_true_eq]
    exact ⟨hgen, hpair.1.trans hq⟩
  have hhead : fget (booked s q) (Fld.hifQSqhead_HEAD q) = fget s (Fld.hifQSqhead_HEAD q) :=
    habove _ (by simp only [Field.key, Fld.hifQSqhead_HEAD]; omega)
  intro t
  rw [show t = _ from ht]
  refine ⟨complete_expressIn _ _ _ _ _, complete_seq _ _ _ _ _, ?_, onlySequencer_complete hbooked _ _ _ _⟩
  have hcpl := completed_complete (s := s) (u := booked s q) (c := expressCmd s q r) (expressCheck s r) 0 (frameNo s) hw hb hpair.2
  rwa [show (expressCmd s q r).entry.isEmpty = true from rfl, if_pos rfl, show (expressCmd s q r).qp = q from rfl, hhead] at hcpl

end Sys2Proof.Machine
end

section
/-! Page moves and the frame's report (R53, R214): what they leave of the frame's view and of the memories. -/

namespace Sys2Proof.Machine

variable (s : State)

/-! ### Page moves under the frame's view -/

@[simp] theorem frameView_setNear (n : Nat) (e : NearEntry) : frameView (setNear s n e) = frameView s := frameView_modPaging s _
@[simp] theorem frameView_freeNear (n : Nat) : frameView (freeNear s n) = frameView s := frameView_modPaging s _
@[simp] theorem frameView_modMig (m i : Nat) (f : MigEntry → MigEntry) : frameView (modMig s m i f) = frameView s := frameView_modPaging s _
@[simp] theorem frameView_countBlocks (ch : Nat) : frameView (countBlocks s ch) = frameView s := frameView_bump s _ 16 (aside_farChBlocks ch)
@[simp] theorem frameView_setPte (vpn v : Nat) : frameView (setPte s vpn v) = frameView s := frameView_stsWrite s _ _ _

@[simp] theorem frameView_freeFar (f : Nat) : frameView (freeFar s f) = frameView s := by
  unfold freeFar
  split <;> simp

@[simp] theorem frameView_dueRetire (f cause : Nat) : frameView (dueRetire s f cause) = frameView s := by
  unfold dueRetire
  split <;> simp

/-- The counts of page moves are records for the report. -/
theorem frameView_moveCounts (f : Sequencer → Sequencer) (hf : ∀ q, (f q).bare = q.bare) : frameView (modSeq s f) = frameView s :=
  frameView_mk rfl rfl rfl (hf s.seq) (fun _ _ => rfl) fun _ => rfl

theorem frameView_commitFetch (e : MigEntry) : frameView (commitFetch s e).1 = frameView s := by
  have hin : ∀ t : State, frameView (modSeq t (fun q => { q with pmIn := q.pmIn + 1 })) = frameView t := fun t => frameView_moveCounts t _ fun _ => rfl
  unfold commitFetch
  dsimp only
  split_ifs <;> simp +decide [hin]

theorem frameView_commitOut (e : MigEntry) : frameView (commitOut s e).1 = frameView s := by
  have hout : ∀ t : State, frameView (modSeq t (fun q => { q with pmOut := q.pmOut + 1 })) = frameView t := fun t => frameView_moveCounts t _ fun _ => rfl
  have hfar : ∀ (t : State) (m : Mem), frameView { t with far := m } = frameView t := fun _ _ => rfl
  unfold commitOut
  dsimp only
  split_ifs <;> simp +decide [hout, hfar]

@[simp] theorem frameView_endEntry (m i st : Nat) : frameView (endEntry s m i st) = frameView s := by
  have hfail : ∀ t : State, frameView (modSeq t (fun q => { q with pmFail := q.pmFail + 1 })) = frameView t := fun t => frameView_moveCounts t _ fun _ => rfl
  have hcycles : ∀ (t : State) n, frameView (modSeq t (fun q => { q with pmCycles := q.pmCycles + n })) = frameView t := fun t _ => frameView_moveCounts t _ fun _ => rfl
  unfold endEntry
  dsimp only
  split_ifs <;> simp +decide [hfail, hcycles]

@[simp] theorem frameView_commitEntry (m i : Nat) (e : MigEntry) : frameView (commitEntry s m i e) = frameView s := by
  unfold commitEntry
  dsimp only
  split
  · exact (frameView_endEntry _ _ _ _).trans (frameView_commitFetch s e)
  · exact (frameView_endEntry _ _ _ _).trans (frameView_commitOut s e)

@[simp] theorem frameView_commitWhere (p : MigEntry → Bool) : frameView (commitWhere s p) = frameView s :=
  foldl_keeps frameView (fun t x => by split <;> simp) _ s

@[simp] theorem frameView_writeBack (c : MigCmd) : frameView (writeBack s c) = frameView s := by
  have hfail : ∀ (t : State) n, frameView (modSeq t (fun q => { q with pmFail := q.pmFail + n })) = frameView t := fun t _ => frameView_moveCounts t _ fun _ => rfl
  have hstatus : ∀ (xs : List ((Option Nat × Nat) × Nat)), frameView (xs.foldl (fun s x => hostWrite s (c.addr + 16 * x.2 + 14) (leBytes 1 x.1.2)) s) = frameView s :=
    fun xs => foldl_keeps frameView (fun t x => frameView_hostWrite t _ _) xs s
  simp +decide [writeBack, hfail, hstatus]

@[simp] theorem frameView_writeBackAll : frameView (writeBackAll s) = frameView s := by
  simp only [writeBackAll, foldl_keeps frameView frameView_writeBack, frameView_modPaging, frameView_commitWhere]

/-! ### The memories -/

/-- Facet memory, instruction memories, the State Store, far memory and flash. -/
def stores (s : State) : Mem × Mem × Mem × Mem × Mem := (s.fmem, s.imem, s.sts, s.far, s.flash)

theorem fmem_of_stores {s t : State} (h : stores t = stores s) : t.fmem = s.fmem := congrArg Prod.fst h
theorem sts_of_stores {s t : State} (h : stores t = stores s) : t.sts = s.sts := congrArg (fun m => m.2.2.1) h
theorem far_of_stores {s t : State} (h : stores t = stores s) : t.far = s.far := congrArg (fun m => m.2.2.2.1) h

/-- A memory under an effect on registers and flags. -/
theorem stores_of_registerSide {s t : State} (h : RegisterSide s t) : stores t = stores s := by
  obtain ⟨hf, hi, hs, hr, -, hl⟩ := h.sameMemories
  simp only [stores, hf, hi, hs, hr, hl]

theorem stores_of_completionSide {s t : State} (h : CompletionSide s t) : stores t = stores s := by
  rw [h]
  rfl

@[simp] theorem stores_complete (c : HostCmd) (status result info : Nat) : stores (complete s c status result info) = stores s :=
  stores_of_completionSide (completionSide_complete s c status result info)

@[simp] theorem stores_hostWrite (a : Nat) (bs : List Byte) : stores (hostWrite s a bs) = stores s := by
  unfold hostWrite
  split <;> rfl

@[simp] theorem stores_event (f c : Field) : stores (event s f c) = stores s := stores_of_registerSide ((registerSide_self s).event f c)

@[simp] theorem stores_sendVec (v : Nat) : stores (sendVec s v) = stores s := stores_of_completionSide (completionSide_sendVec s v)

@[simp] theorem stores_modSeq (f : Sequencer → Sequencer) : stores (modSeq s f) = stores s := rfl
@[simp] theorem stores_modMgmt (f : Mgmt → Mgmt) : stores (modMgmt s f) = stores s := by simp only [stores, modMgmt]
@[simp] theorem stores_fset (f : Field) (v : Nat) : stores (fset s f v) = stores s := rfl
@[simp] theorem stores_bump (f : Field) (n : Nat) : stores (bump s f n) = stores s := rfl

@[simp] theorem stores_logEvent (code : Nat) (detail : List Byte) : stores (logEvent s code detail) = stores s := by
  unfold logEvent
  exact stores_modMgmt s _

@[simp] theorem stores_errorRec (cls unit index ev task detail : Nat) : stores (errorRec s cls unit index ev task detail) = stores s := by
  unfold errorRec
  dsimp only
  split_ifs <;> simp only [stores_modSeq, stores_modMgmt, stores_bump, stores_logEvent]

theorem stores_throttleRecs : stores (throttleRecs s) = stores s := by
  have h : ∀ (t : State) q, stores (if (throttleOf t q).ran = 0 then t else errorRec t 4 11 q 13 0xFFFF (throttleOf t q).ran) = stores t := fun t q => by
    split <;> simp
  unfold throttleRecs
  dsimp only
  split_ifs <;> simp [foldl_keeps stores h]

theorem stores_writeBack (c : MigCmd) : stores (writeBack s c) = stores s := by
  have hstatus : ∀ (xs : List ((Option Nat × Nat) × Nat)), stores (xs.foldl (fun s x => hostWrite s (c.addr + 16 * x.2 + 14) (leBytes 1 x.1.2)) s) = stores s :=
    fun xs => foldl_keeps stores (fun t x => stores_hostWrite t _ _) xs s
  exact (stores_complete _ _ _ _ _).trans (hstatus _)

/-! ### Page moves under the memories -/

@[simp] theorem stores_serveLines (unit : Option Nat) (isWrite : Bool) (lines : List Nat) : stores (serveLines s unit isWrite lines) = stores s := by
  refine foldl_keeps stores (fun t q => ?_) _ s
  dsimp only
  split <;> split_ifs <;> rfl

theorem fmem_stsWrite (unit : Option Nat) (a : Nat) (bs : List Byte) : (stsWrite s unit a bs).fmem = s.fmem := by
  have hheal : ∀ (t : State) w, (healWords t w).fmem = t.fmem := fun t w => by
    unfold healWords
    split <;> rfl
  have hcount : ∀ t : State, (countRange t unit true a bs.length).fmem = t.fmem := fun t => fmem_of_stores (stores_serveLines t _ _ _)
  simp only [stsWrite, hcount, hheal]

/-- A page move reaches no facet. -/
theorem fmem_commitFetch (e : MigEntry) : (commitFetch s e).1.fmem = s.fmem := by
  have hfree : ∀ (t : State) f, (freeFar t f).fmem = t.fmem := fun t f => by
    unfold freeFar
    split <;> rfl
  have hdue : ∀ (t : State) f c, (dueRetire t f c).fmem = t.fmem := fun t f c => by
    unfold dueRetire
    split <;> rfl
  have hcount : ∀ (t : State) f n m, (bump (countBlocks t m) f n).fmem = t.fmem := fun _ _ _ _ => rfl
  have hmod : ∀ (t : State) g, (modSeq t g).fmem = t.fmem := fun _ _ => rfl
  have hnear : ∀ (t : State) n x, (setNear t n x).fmem = t.fmem := fun _ _ _ => rfl
  unfold commitFetch
  dsimp only
  split_ifs <;> simp only [hmod, hcount, hdue, hfree, setPte, fmem_stsWrite, hnear]

theorem fmem_commitOut (e : MigEntry) : (commitOut s e).1.fmem = s.fmem := by
  have hlines : ∀ (t : State) u w a n, (countRange t u w a n).fmem = t.fmem := fun t _ _ _ _ => fmem_of_stores (stores_serveLines t _ _ _)
  have hcount : ∀ (t : State) f n m, (bump (countBlocks t m) f n).fmem = t.fmem := fun _ _ _ _ => rfl
  have hmod : ∀ (t : State) g, (modSeq t g).fmem = t.fmem := fun _ _ => rfl
  have hnear : ∀ (t : State) n x, (setNear t n x).fmem = t.fmem := fun _ _ _ => rfl
  have hfree : ∀ (t : State) n, (freeNear t n).fmem = t.fmem := fun _ _ => rfl
  unfold commitOut
  dsimp only
  split_ifs <;> simp only [hmod, hcount, hfree, setPte, fmem_stsWrite, hnear, hlines]

theorem fmem_endEntry (m i st : Nat) : (endEntry s m i st).fmem = s.fmem := by
  unfold endEntry
  dsimp only
  split_ifs <;> rfl

theorem fmem_commitWhere (p : MigEntry → Bool) : (commitWhere s p).fmem = s.fmem := by
  refine foldl_keeps State.fmem (fun t x => ?_) _ s
  have hentry : (commitEntry t x.1 x.2.1 x.2.2).fmem = t.fmem := by
    unfold commitEntry
    dsimp only
    split
    · exact (fmem_endEntry _ _ _ _).trans (fmem_commitFetch t x.2.2)
    · exact (fmem_endEntry _ _ _ _).trans (fmem_commitOut t x.2.2)
  split
  · exact hentry
  · rfl

/-- With no move under way there is none to commit. -/
theorem commitWhere_idle (p : MigEntry → Bool) (h : migRunning s = []) : commitWhere s p = s := by
  have hidle : ∀ x ∈ migAll s, x.2.2.running = false := fun x hx => by
    simpa using List.filter_eq_nil_iff.mp h x.2.2 (List.mem_map_of_mem hx)
  have hstep : ∀ (t : State), ∀ x ∈ migAll s, (if x.2.2.running && p x.2.2 then commitEntry t x.1 x.2.1 x.2.2 else t) = t := fun t x hx => by
    rw [hidle x hx]
    rfl
  exact (List.foldl_ext _ _ s hstep).trans (List.foldl_fixed _)

/-- What is written back at a frame's end goes to host memory; facet memory stays, and the State Store with far memory where no move is under way. -/
theorem writeBackAll_stores : (writeBackAll s).fmem = s.fmem ∧ (migRunning s = [] → stores (writeBackAll s) = stores s) := by
  have hback : ∀ t : State, stores (writeBackAll t) = stores (commitWhere t fun _ => true) := fun t => foldl_keeps stores stores_writeBack _ _
  exact ⟨(fmem_of_stores (hback s)).trans (fmem_commitWhere s _), fun h => (hback s).trans (by rw [commitWhere_idle s _ h])⟩

end Sys2Proof.Machine
end

section
/-! The frame's report (R53, R54, R411), and the commands of the host for frames taken together. -/

namespace Sys2Proof.Machine

variable {s u : State}

/-! ### The report's place in the ring -/

/-- The first bytes of a report are the frame's number. -/
theorem reportBytes_take (u : State) : (reportBytes u).take 4 = leBytes 4 (frameNo u) := by
  simp only [reportBytes, List.append_assoc]
  exact List.take_left' (leBytes_length 4 _)

theorem reportBytes_length (u : State) : 4 ≤ (reportBytes u).length := by
  simp only [reportBytes, List.append_assoc, List.length_append, leBytes_length]
  omega

/-- With a buffer free the report goes to host memory and HEAD moves on. -/
theorem postReport_free (hb : u.hif.bme = true) (hn : 2 ≤ ringBufs u) (hfree : (fget u Fld.fsqRptHead_HEAD + 1) % ringBufs u ≠ fget u Fld.fsqRptTail_TAIL) :
    (postReport u).regs = (fset u Fld.fsqRptHead_HEAD ((fget u Fld.fsqRptHead_HEAD + 1) % ringBufs u)).regs
      ∧ (postReport u).host = memWrite u.host (ringAddr u) (reportBytes u) := by
  have hwrite : hostWrite u (ringAddr u) (reportBytes u) = { u with host := memWrite u.host (ringAddr u) (reportBytes u) } := if_pos hb
  have hpost : postReport u
      = sendVec (fset { u with host := memWrite u.host (ringAddr u) (reportBytes u) } Fld.fsqRptHead_HEAD ((fget u Fld.fsqRptHead_HEAD + 1) % ringBufs u)) 0 := by
    rw [← hwrite]
    exact (if_neg (by omega)).trans (if_neg hfree)
  rw [hpost]
  exact ⟨sendVec_regs _ 0, sendVec_host _ 0⟩

/-- With none free it is dropped and counted. -/
theorem postReport_full (hn : 2 ≤ ringBufs u) (hfull : (fget u Fld.fsqRptHead_HEAD + 1) % ringBufs u = fget u Fld.fsqRptTail_TAIL) :
    postReport u = event u Fld.fsqEvents_RPTDROP Fld.fsqCntRptdrop_COUNT :=
  (if_neg (by omega)).trans (if_pos hfull)

theorem postReport_seq (u : State) : (postReport u).seq = u.seq := by
  have hwrite : (hostWrite u (ringAddr u) (reportBytes u)).seq = u.seq := by
    unfold hostWrite
    split <;> rfl
  unfold postReport
  dsimp only
  split_ifs
  · rfl
  · exact event_seq _ _ _
  · exact (sendVec_seq _ 0).trans hwrite

theorem postReport_power (u : State) : (postReport u).power = u.power := by
  have hwrite : (hostWrite u (ringAddr u) (reportBytes u)).power = u.power := by
    unfold hostWrite
    split <;> rfl
  have hevent : ∀ f c, (event u f c).power = u.power := fun f c => by rw [(registerSide_self u).event f c]
  unfold postReport
  dsimp only
  split_ifs
  · rfl
  · exact hevent _ _
  · rw [sendVec_side]
    exact hwrite

theorem stores_postReport (u : State) : stores (postReport u) = stores u := by
  unfold postReport
  dsimp only
  split_ifs
  · rfl
  · exact stores_event _ _ _
  · simp only [stores_sendVec, stores_fset, stores_hostWrite]

/-! ### The report written -/

/-- The frame whose report is about to be posted: page moves over, statuses back in host memory, throttling recorded. -/
def beforeReport (s : State) : State := throttleRecs (writeBackAll s)

@[simp] theorem frameView_beforeReport (s : State) : frameView (beforeReport s) = frameView s :=
  (frameView_throttleRecs _).trans (frameView_writeBackAll s)

/-- A frame whose report stands is over, and with it a run that is to stop. -/
def concluded (v : State) : State :=
  let t := modSeq v (fun q => { q with reported := true, clampRecs := [] })
  if t.seq.stopReq || !runOn t then stopFrames t else t

theorem writeReport_eq (s : State) : writeReport s = concluded (postReport (beforeReport s)) := by
  unfold writeReport concluded beforeReport
  rfl

/-- A frame's report marked as written. -/
def marked (v : State) : State := modSeq v (fun q => { q with reported := true, clampRecs := [] })

/-- Frames ended: RUN reads 0 and no frame is under way. -/
def ended (v : State) : State := modSeq (fset v Fld.fsqCtl_RUN 0) (fun q => { q with stopReq := false, inFrame := false, winOpen := [] })

theorem concluded_stopping {v : State} (hpower : v.power.stopReq = none) (h : (v.seq.stopReq || !runOn v) = true) : concluded v = ended (marked v) := by
  have hend : stopFrames (marked v) = ended (marked v) := afterStop_of_none (s := ended (marked v)) hpower
  rw [← hend]
  exact if_pos h

theorem concluded_running {v : State} (h : (v.seq.stopReq || !runOn v) = false) : concluded v = marked v := if_neg (Bool.eq_false_iff.mp h)

theorem concluded_stops {v : State} (hpower : v.power.stopReq = none) (hstop : v.seq.stopReq = true) :
    fget (concluded v) Fld.fsqCtl_RUN = 0 ∧ (concluded v).seq.inFrame = false := by
  rw [concluded_stopping hpower (by rw [hstop, Bool.true_or])]
  exact ⟨fget_fset_same (marked v) _ 0, rfl⟩

/-- Of registers, host memory and the memories, the end of a report changes RUN alone. -/
theorem concluded_keeps {v : State} (hstop : v.power.stopReq = none) :
    (concluded v).seq.reported = true ∧ (∀ f : Field, f.key ≠ Fld.fsqCtl_RUN.key → fget (concluded v) f = fget v f) ∧ (concluded v).host = v.host ∧ stores (concluded v) = stores v := by
  cases h : (v.seq.stopReq || !runOn v)
  · rw [concluded_running h]
    exact ⟨rfl, fun _ _ => rfl, rfl, rfl⟩
  · rw [concluded_stopping hstop h]
    exact ⟨rfl, fun f hf => fget_fset_other (marked v) _ _ _ hf, rfl, rfl⟩

theorem stores_beforeReport (s : State) : (beforeReport s).fmem = s.fmem ∧ (migRunning s = [] → stores (beforeReport s) = stores s) := by
  obtain ⟨hf, hs⟩ := writeBackAll_stores s
  have hrec : stores (beforeReport s) = stores (writeBackAll s) := stores_throttleRecs _
  exact ⟨(fmem_of_stores hrec).trans hf, fun h => hrec.trans (hs h)⟩

theorem execFrameReport_due (hserve : serving s = true) (hin : s.seq.inFrame = true) (hrep : s.seq.reported = false) (hover : tasksOver s = true)
    (hmig : s.seq.hardDone = true ∨ ∀ m ∈ s.paging.migrations, migNow s m = false) : execFrameReport s = .next (writeReport s) := by
  have hidle : (s.seq.hardDone || !s.paging.migrations.any (migNow s)) = true := by
    rcases hmig with h | h
    · rw [h, Bool.true_or]
    · rw [List.any_eq_false.mpr fun m hm => by rw [h m hm]; exact Bool.false_ne_true, Bool.not_false, Bool.or_true]
  refine whenever_true ?_
  rw [hserve, hin, hrep, hover, hidle]
  rfl

/-- The report of a frame: it is marked, posted or dropped, ends a run that is to stop, and touches facet memory never. -/
theorem frameReport_effect (hb : s.hif.bme = true) (hstop : s.power.stopReq = none) :
    let n := fget s Fld.fsqRptCfg_BUFS
    let h := (fget s Fld.fsqRptHead_HEAD + 1) % n
    let t := writeReport s
    t.seq.reported = true ∧ (migRunning s = [] → t.sts = s.sts ∧ t.far = s.far) ∧ t.fmem = s.fmem
      ∧ (s.seq.stopReq = true → fget t Fld.fsqCtl_RUN = 0 ∧ t.seq.inFrame = false)
      ∧ (2 ≤ n → n < 4096 → h ≠ fget s Fld.fsqRptTail_TAIL → fget t Fld.fsqRptHead_HEAD = h ∧ memLe t.host (ringAddr s) 4 = frameNo s % 2 ^ 32)
      ∧ (2 ≤ n → h = fget s Fld.fsqRptTail_TAIL → fget t Fld.fsqCntRptdrop_COUNT = (fget s Fld.fsqCntRptdrop_COUNT + 1) % 2 ^ 32 ∧ fget t Fld.fsqEvents_RPTDROP = 1) := by
  obtain ⟨hfmem, hmems⟩ := stores_beforeReport s
  have hview := frameView_beforeReport s
  rw [writeReport_eq s]
  generalize beforeReport s = u at hfmem hmems hview
  have hpower : (postReport u).power.stopReq = none := by rw [postReport_power, power_of_frameView hview, hstop]
  obtain ⟨hreported, hregs, hhost, hposted⟩ := concluded_keeps hpower
  have hstores : stores (concluded (postReport u)) = stores u := hposted.trans (stores_postReport u)
  have hbufs : fget u Fld.fsqRptCfg_BUFS = fget s Fld.fsqRptCfg_BUFS := fget_of_frameView hview (by decide)
  have hhead : fget u Fld.fsqRptHead_HEAD = fget s Fld.fsqRptHead_HEAD := fget_of_frameView hview (by decide)
  have htail : fget u Fld.fsqRptTail_TAIL = fget s Fld.fsqRptTail_TAIL := fget_of_frameView hview (by decide)
  have haddr : ringAddr u = ringAddr s := by
    rw [ringAddr, hhead, fget_of_frameView hview (f := Fld.fsqRptBaseHi_BASE) (by decide), fget_of_frameView hview (f := Fld.fsqRptBaseLo_BASE) (by decide),
      fget_of_frameView hview (f := Fld.fsqRptCfg_BUFKIB) (by decide), ringAddr]
  have hframe : frameNo u = frameNo s := fget_of_frameView hview (by decide)
  intro n h t
  refine ⟨hreported, fun hidle => ?_, (fmem_of_stores hstores).trans hfmem, fun hreq => concluded_stops hpower ((congrArg Sequencer.stopReq (postReport_seq u)).trans ((congrArg (fun v => v.seq.stopReq) hview).trans hreq)), fun hn hlimit hfree => ?_, fun hn hfull => ?_⟩
  · have hkept := hstores.trans (hmems hidle)
    exact ⟨sts_of_stores hkept, far_of_stores hkept⟩
  · obtain ⟨hposted, hwritten⟩ := postReport_free (u := u) ((bme_of_frameView hview).trans hb) (by rw [ringBufs, hbufs]; exact hn)
      (by rw [ringBufs, hbufs, hhead, htail]; exact hfree)
    constructor
    · rw [hregs _ (by decide), fget_of_regs _ hposted, fget_fset_same, ringBufs, hbufs, hhead]
      have hmod : h < n := Nat.mod_lt _ (by omega)
      exact Nat.mod_eq_of_lt (by show h < 4096; omega)
    · rw [hhost, hwritten, haddr, memLe, memReadN_memWrite_take _ _ _ (reportBytes_length _), reportBytes_take, ofLe_leBytes, hframe]
      rfl
  · have hdropped := postReport_full (u := u) (by rw [ringBufs, hbufs]; exact hn) (by rw [ringBufs, hbufs, hhead, htail]; exact hfull)
    obtain ⟨hflag, hcount⟩ := fget_event u (f := Fld.fsqEvents_RPTDROP) (c := Fld.fsqCntRptdrop_COUNT) rfl (by decide)
    refine ⟨?_, ?_⟩
    · rw [hregs _ (by decide), hdropped, hcount, fget_of_frameView hview (by decide)]
      rfl
    · rw [hregs _ (by decide), hdropped, hflag]

/-! ### The commands together -/

/-- The end of a check as its register fields, its slot and its completion show it. -/
theorem admissionEnd_effect {c : HostCmd} (hserve : serving s = true) (hb : s.hif.bme = true) (hc : s.seq.loading = some c) (he : c.entry ≠ []) (hw : cplWanted s c = true) :
    let codes := admission s s.seq.fetchedImg c.len
    ∃ t, execAdmissionEnd s = .next t ∧ fget t Fld.fsqAdmit_PRIMARY = codes.headD 0 ∧ (∀ k, 1 ≤ k → k ≤ 12 → bitSet (fget t Fld.fsqAdmitMap_MAP) (k - 1) = codes.contains k)
      ∧ t.seq.loading = none ∧ Completed s t c c.sqHead (if codes = [] then 0 else 1) (codes.headD 0) (fieldOf s.seq.fetchedImg 0xC 4) ∧ OnlySequencer s t
      ∧ (codes = [] → pendingState t = 3 ∧ t.seq.pendingImg = some (imageOf (s.seq.fetchedImg.take (c.len - 64))))
      ∧ (codes ≠ [] → pendingState t = 0 ∧ fget t Fld.fsqPendingId_ID = 0 ∧ fget t Fld.fsqSwap_REQ = 0) := by
  intro codes
  have hsub : codes.Sublist (List.range' 1 12) := admission_sublist s s.seq.fetchedImg c.len
  obtain ⟨honly, hseq, hregs, hcpl⟩ := endAdmission_effect s c codes
  obtain ⟨hprimary, hmap, hpending, hcleared⟩ := fget_decided s c codes
  have hhead : codes.headD 0 < 2 ^ 8 := by
    cases hcodes : codes with
    | nil => decide
    | cons k r =>
      have hk := List.mem_range'_1.mp (hsub.subset (hcodes ▸ List.mem_cons_self))
      exact (show k < 2 ^ 8 by omega)
  refine ⟨_, execAdmissionEnd_loading hserve hc, ?_, fun k hk hk' => ?_, ?_, ?_, honly, fun hnone => ?_, fun hsome => ?_⟩
  · rw [hregs _ (by decide), hprimary, Nat.mod_eq_of_lt hhead]
  · rw [hregs _ (by decide), hmap, bitSet_eq_testBit, Nat.testBit_mod_two_pow, testBit_codes hsub hk, decide_eq_true (by omega), Bool.true_and]
  · rw [hseq]
  · have h := hcpl hb he hw
    simpa only [List.isEmpty_iff] using h
  · rw [pendingState, hregs _ (by decide), ← pendingState, hpending, hseq, hnone]
    exact ⟨rfl, rfl⟩
  · have hempty : codes.isEmpty = false := List.isEmpty_eq_false_iff.mpr hsome
    rw [pendingState, hregs _ (by decide), ← pendingState, hpending, hregs _ (by decide), hregs _ (by decide), hempty]
    exact ⟨rfl, hcleared hempty⟩

/-- Settles O42, command by command: LOAD_IMAGE and its check, MANIFEST and the end of its fetch, a request of an express window and its arrival, the report. -/
theorem frameCommandsOfTheHost : Obligations.FrameCommandsOfTheHost := by
  unfold Obligations.FrameCommandsOfTheHost
  intro s hup hb
  have hserve := serving_of_hostUp hup
  refine ⟨fun qp c hc => ⟨fun hreq h1 h2 => ?_, fun hbusy hw => ?_⟩, fun c hc he hw => ?_, fun qp c hc hw => ⟨fun hahead htime => ?_, fun hahead hlate => ?_, fun hahead hin hframe harr hran => ?_, fun hahead hother => ?_⟩,
    fun m hm he hw => ⟨?_, fun n hn hin hframe => ?_⟩, fun qp r hqp => ⟨fun hr => ?_, fun hr => ?_⟩, fun c0 qp r hin hdue => ?_, fun hin hrep hover hstop hmig => ?_⟩
  · rw [exec_loadImage]
    exact loadImage_free hup hb hc hreq h1 h2
  · obtain ⟨t, ht, hcpl, hseq, honly, -⟩ := loadImage_busy hup hb hc hbusy hw
    rw [exec_loadImage]
    exact ⟨t, ht, hcpl, hseq, honly⟩
  · rw [exec_admissionEnd]
    exact admissionEnd_effect hserve hb hc he hw
  · rw [exec_manifestCmd]
    exact ⟨_, manifestCmd_timely hserve hb hc hahead htime, rfl, rfl⟩
  · rw [exec_manifestCmd]
    exact ⟨_, manifestCmd_late hserve hb hc hahead hlate, lateManifest_effect hb (headCmd_entry hc (by decide)) hw⟩
  · have hnext := manifestCmd_begun hserve hb hc hahead ⟨hin, hframe, harr, hran⟩
    have he := headCmd_entry hc (by decide)
    rw [exec_manifestCmd]
    constructor
    · intro hpast
      rw [hpast, if_pos rfl] at hnext
      exact ⟨_, hnext, lateAfterTick_effect hb he hw⟩
    · intro hpast
      rw [hpast, if_neg Bool.false_ne_true] at hnext
      exact ⟨_, hnext, lostManifest_effect hb he hw⟩
  · have hpopped : OnlySequencer s (popCmd s qp) := rfl
    obtain ⟨hcpl, honly⟩ := onlySequencer_completed (u := popCmd s qp) 4 0 c.frame hpopped (headCmd_entry hc (by decide)) hw hb (qpOf_popCmd_gen s qp c.qp) fun _ _ => rfl
    rw [exec_manifestCmd]
    exact ⟨_, manifestCmd_badFrame hserve hb hc hahead hother, hcpl, complete_seq (popCmd s qp) _ _ _ _, honly⟩
  · rw [exec_manifestFetchEnd]
    exact ⟨_, execManifestFetchEnd_head hserve hb hm le_rfl (.inr rfl), endFetch_whole hb he hw⟩
  · rw [exec_manifestFetchEnd]
    exact ⟨_, execManifestFetchEnd_head hserve hb hm hn.le (.inl ⟨hin, hframe⟩), endFetch_short hb he hw hn⟩
  · rw [exec_expressRequest]
    exact expressRequest_whole hup hqp hr
  · rw [exec_expressRequest]
    exact expressRequest_badSize hup hqp hr
  · have ht := expressCycle_single hup hin hdue
    have hdrained : OnlySequencer s (drained s) := rfl
    intro c t
    rw [show t = _ from ht]
    by_cases hdrop : qpState s qp ≠ 1 ∨ cqFree s qp = false
    · obtain ⟨hempty, hseq, hcount, hflag, hhost⟩ := arriveExpress_dropped (s := drained s) r hdrop
      refine ⟨hempty, fun hq hfree => ?_, fun hq hfree => ?_, fun _ => ⟨hseq, hcount, hflag, hhost⟩⟩ <;> simp [hq, hfree] at hdrop
    · have hon : qpState s qp = 1 := not_not.mp fun h => hdrop (.inl h)
      have hfree : cqFree s qp = true := by simpa using fun h => hdrop (.inr h)
      refine ⟨?_, fun _ _ hok => ?_, fun _ _ hbad => ?_, fun h => absurd h hdrop⟩
      · by_cases hok : expressCheck s r = 0
        · exact (arriveExpress_queued (s := drained s) r hon hfree hok).1
        · exact (arriveExpress_refused (s := drained s) r hb hon hfree hok).1
      · obtain ⟨-, hseq, hreserved, honly⟩ := arriveExpress_queued (s := drained s) r hon hfree hok
        exact ⟨hseq, hreserved, onlySequencer_trans hdrained honly⟩
      · obtain ⟨-, hseq, hcpl, honly⟩ := arriveExpress_refused (s := drained s) r hb hon hfree hbad
        exact ⟨hseq, hcpl, onlySequencer_trans hdrained honly⟩
  · rw [exec_frameReport]
    exact ⟨_, execFrameReport_due hserve hin hrep hover hmig, frameReport_effect hb hstop⟩

end Sys2Proof.Machine
end

section
/-! What an abort takes down leaves the frame's view alone: messages, waits, transfers, streams, jobs, queries, updates, buffers, channels (R305 to R309). -/

namespace Sys2Proof.Machine

variable (s : State)

/-! ### Parts of the state outside the view -/

theorem frameView_semMsgs (ms : List SemMsg) : frameView { s with semMsgs := ms } = frameView s := rfl
theorem frameView_grants (gs : List Grant) : frameView { s with grants := gs } = frameView s := rfl
theorem frameView_jobs (js : SMap Job) : frameView { s with jobs := js } = frameView s := rfl

@[simp] theorem frameView_chordDrop : frameView (chordDrop s) = frameView s := frameView_event s _ _ (by decide) (by decide)

@[simp] theorem frameView_queueOn (p : Nat) (bytes : List Byte) (vc : Nat) (forwarded : Bool) (mcast : Option Nat) (o : Origin) :
    frameView (queueOn s p bytes vc forwarded mcast o) = frameView s := frameView_modPort s p _

@[simp] theorem frameView_closeStreams (w : Who) (state e : Nat) : frameView (closeStreams s w state e) = frameView s := frameView_modEngine s e _

/-! ### Semaphores (R255 to R260) -/

@[simp] theorem frameView_grant (m : SemMsg) (left : Nat) (took : Bool) : frameView (grant s m left took) = frameView s := rfl

@[simp] theorem frameView_serveWaiters (sem fuel : Nat) : frameView (serveWaiters s sem fuel) = frameView s := by
  induction fuel generalizing s with
  | zero => rfl
  | succ fuel ih =>
    unfold serveWaiters
    dsimp only
    split
    · rfl
    · split_ifs <;> simp only [ih, frameView_grant, frameView_modSem]

@[simp] theorem frameView_serve (sem : Nat) : frameView (serve s sem) = frameView s := frameView_serveWaiters s sem _

@[simp] theorem frameView_semDirty (sem : Nat) : frameView (semDirty s sem) = frameView s := foldl_keeps frameView (fun t (e : ChanEntry) => frameView_modChan t e.key id) _ s

@[simp] theorem frameView_withdrawWaits (w : Who) : frameView (withdrawWaits s w) = frameView s := by
  unfold withdrawWaits
  exact foldl_keeps frameView (fun t n => by simp) _ _

/-! ### Channels (R265 to R275) -/

@[simp] theorem frameView_chanFlush (e : ChanEntry) (k : Nat) (f : Flight) : frameView (chanFlush s e k f) = frameView s := by
  simp only [chanFlush, frameView_modSem, frameView_semMsgs, frameView_modChan]

@[simp] theorem frameView_chanProducerEnd (k : Nat) (f : Flight) : frameView (chanProducerEnd s k f) = frameView s := frameView_modChan s k _

@[simp] theorem frameView_chanConsumerEnd (e : ChanEntry) (k : Nat) (f : Flight) : frameView (chanConsumerEnd s e k f) = frameView s := by
  simp only [chanConsumerEnd, frameView_grants, frameView_modSem, frameView_modChan, frameView_chanFlush]

@[simp] theorem frameView_chansEnd (old : State) (id : Nat) : frameView (chansEnd old s id) = frameView s := by
  refine foldl_keeps frameView (fun t e => ?_) _ s
  dsimp only
  split_ifs <;> simp

@[simp] theorem frameView_countFill (task lf : Nat) (as : List Nat) : frameView (countFill s task lf as) = frameView s := by
  refine foldl_keeps frameView (fun t e => ?_) _ s
  dsimp only
  split <;> rfl

/-! ### Merge jobs and streams -/

@[simp] theorem frameView_leaveJob (n : Nat) (which : Nat → Bool) : frameView (leaveJob s n which) = frameView s := by
  refine frameView_mapFacets s _ (fun e => ?_) fun e c => ?_
  · split <;> rfl
  · split
    · rw [Facet.ctx, Facet.ctx]
      split <;> rfl
    · rfl

@[simp] theorem frameView_freeJob (n : Nat) : frameView (freeJob s n) = frameView s := (frameView_leaveJob _ n _).trans (frameView_jobs s _)

@[simp] theorem frameView_setJob (n : Nat) (j : Job) : frameView (setJob s n j) = frameView s := by
  unfold setJob
  split
  · exact frameView_freeJob s n
  · rfl

@[simp] theorem frameView_endLeaf (n l : Nat) (aborted : Bool) : frameView (endLeaf s n l aborted) = frameView s := by
  unfold endLeaf
  split
  · rfl
  · split <;> simp

@[simp] theorem frameView_sendMergeEnd (e chip job : Nat) (aborted : Bool) : frameView (sendMergeEnd s e chip job aborted) = frameView s := by
  unfold sendMergeEnd
  split
  · exact frameView_endLeaf s _ _ _
  · split <;> simp

@[simp] theorem frameView_streamEnds (e : Nat) (st : Stream) (aborted : Bool) : frameView (streamEnds s e st aborted) = frameView s :=
  foldl_keeps frameView (fun t (x : Nat × Nat) => frameView_sendMergeEnd t e x.1 x.2 aborted) _ s

@[simp] theorem frameView_sendEnds (w : Who) (aborted : Bool) (e : Nat) : frameView (sendEnds s w aborted e) = frameView s :=
  (foldl_keeps frameView (fun t (x : Nat × Stream) => frameView_streamEnds t e x.2 aborted) _ _).trans (frameView_modEngine s e _)

@[simp] theorem frameView_resultEnds (j : Job) (aborted : Bool) : frameView (resultEnds s j aborted) = frameView s := by
  refine foldl_keeps frameView (fun t x => ?_) _ s
  split
  · rfl
  · exact frameView_sendMergeEnd t _ _ _ _

@[simp] theorem frameView_closeJob (n : Nat) (j : Job) : frameView (closeJob s n j) = frameView s := by simp +decide [closeJob]

@[simp] theorem frameView_abortPush (lf n : Nat) : frameView (abortPush s lf n) = frameView s := by
  unfold abortPush
  split
  · exact frameView_endLeaf s _ _ _
  · rfl

@[simp] theorem frameView_abortMerge (w : Who) : frameView (abortMerge s w) = frameView s := by
  simp only [abortMerge, foldl_keeps frameView fun t (j : Nat × Job) => frameView_closeJob t j.1 ((mapFind t.jobs j.1).getD j.2),
    foldl_keeps frameView fun t n => frameView_abortPush t w.lf n]

/-! ### Transfers, queries, updates, buffers -/

@[simp] theorem frameView_dropTransfers (w : Who) : frameView (dropTransfers s w) = frameView s :=
  foldl_keeps frameView (fun t e => frameView_modEngine t e _) _ s

@[simp] theorem frameView_dropUnits (w : Who) : frameView (dropUnits s w) = frameView s := rfl

@[simp] theorem frameView_settleFlights : frameView (settleFlights s) = frameView s := rfl

@[simp] theorem frameView_renewBuffers (lf : Nat) (a b : Bool) : frameView (renewBuffers s lf a b) = frameView s := by
  simp only [renewBuffers, frameView_drawn]
  exact frameView_modFacet_beside s (fun _ => rfl) fun _ => rfl

@[simp] theorem frameView_freeRows (w : Who) : frameView (freeRows s w) = frameView s := by
  simp only [freeRows, frameView_drawn]
  exact frameView_modFacet_beside s (fun _ => rfl) fun _ => rfl

@[simp] theorem frameView_stopLattice (w : Who) : frameView (stopLattice s w) = frameView s := by
  unfold stopLattice
  split <;> simp

@[simp] theorem frameView_stopUpdate (w : Who) (c : ECmd) : frameView (stopUpdate s w c) = frameView s := by
  unfold stopUpdate
  dsimp only
  split <;> simp +decide

@[simp] theorem frameView_leavePartial (w : Who) : frameView (leavePartial s w) = frameView s := by
  simp only [leavePartial, foldl_keeps frameView fun t c => frameView_stopUpdate t w c]
  refine (foldl_keeps frameView (fun t c => ?_) _ _).trans ?_ <;> simp

@[simp] theorem frameView_leaveSplit (lf : Nat) : frameView (leaveSplit s lf) = frameView s := by
  unfold leaveSplit
  split
  · exact frameView_modFacet_beside s (fun _ => rfl) fun _ => rfl
  · rfl

@[simp] theorem frameView_facetFreed (lf : Nat) : frameView (facetFreed s lf) = frameView s := by
  unfold facetFreed
  dsimp only
  split <;> simp

end Sys2Proof.Machine
end

section
/-! Aborts of tasks (R29, R42, R287, R305 to R309): what becomes of the task records and of the contexts. -/

namespace Sys2Proof.Machine

/-! ### The frame's view without its tasks -/

/-- The view without the task records and the contexts' tasks: what an abort leaves alone. -/
def FrameView.ground (v : FrameView) : FrameView := { v with seq := { v.seq with tasks := [] }, task := fun _ => none }

def frameGround (s : State) : FrameView := (frameView s).ground

theorem frameGround_of_frameView {s t : State} (h : frameView t = frameView s) : frameGround t = frameGround s := congrArg FrameView.ground h

theorem frameGround_modTask (s : State) (id : Nat) (f : TaskRec → TaskRec) : frameGround (modTask s id f) = frameGround s := rfl

theorem frameGround_modCtx (s : State) (w : Who) (f : Ctx → Ctx) : frameGround (modCtx s w f) = frameGround s := rfl

section
variable {s t : State} (h : frameGround t = frameGround s)
include h

theorem tcyc_of_frameGround : tcyc t = tcyc s := by
  have hin : t.seq.inFrame = s.seq.inFrame := congrArg (fun v => v.seq.inFrame) h
  have hlast : t.seq.lastTick = s.seq.lastTick := congrArg (fun v => v.seq.lastTick) h
  have hnow : t.now = s.now := congrArg FrameView.now h
  rw [tcyc, hin, hlast, hnow, tcyc]

theorem idleWindow_of_frameGround (e : TaskEntry) (reason : Nat) : idleWindow t e reason = idleWindow s e reason := by
  have hexp : t.seq.express = s.seq.express := congrArg (fun v => v.seq.express) h
  have hlast : t.seq.lastTick = s.seq.lastTick := congrArg (fun v => v.seq.lastTick) h
  unfold idleWindow windowWanted expressStart
  rw [hexp, hlast]

end

/-- Each context runs what it ran, or nothing. -/
def NoneStarted (s t : State) : Prop := ∀ v, (ctxOf t v).task = none ∨ (ctxOf t v).task = (ctxOf s v).task

theorem noneStarted_of_frameView {s t : State} (h : frameView t = frameView s) : NoneStarted s t := fun v => .inr (task_of_frameView h v)

theorem NoneStarted.trans {s t u : State} (h : NoneStarted s t) (k : NoneStarted t u) : NoneStarted s u := fun v => (k v).elim .inl fun e => e ▸ h v

theorem NoneStarted.idle {s t : State} (h : NoneStarted s t) {v : Who} (hv : (ctxOf s v).task = none) : (ctxOf t v).task = none :=
  (h v).elim id fun e => e.trans hv

/-! ### One task aborted -/

/-- What ends with an aborted context, before the context itself does. -/
def workDropped (s : State) (w : Who) : State :=
  let s := dropTransfers (withdrawWaits (stopLattice (leavePartial s w) w) w) w
  dropUnits (abortMerge ((enginesOf w.lf).foldl (fun s e => sendEnds (closeStreams s w 3 e) w true e) s) w) w

theorem frameView_workDropped (s : State) (w : Who) : frameView (workDropped s w) = frameView s := by
  have hstreams : ∀ (t : State) (es : List Nat), frameView (es.foldl (fun s e => sendEnds (closeStreams s w 3 e) w true e) t) = frameView t :=
    fun t es => foldl_keeps frameView (fun u e => by simp) es t
  simp [workDropped, hstreams]

/-- The context's end: it shows no task. -/
def vacated (s : State) (w : Who) : State := modCtx s w (fun c => { Ctx.idle with gmax := c.gmax })

theorem task_vacated (s : State) (w : Who) : (ctxOf (vacated s w) w).task = none ∧ NoneStarted s (vacated s w) := by
  have hself : (ctxOf (vacated s w) w).task = none := by
    rw [vacated, ctxOf_modCtx]
    rfl
  refine ⟨hself, fun v => ?_⟩
  by_cases hlf : v.lf = w.lf
  · have hfacet : facetOf (vacated s w) v.lf = (facetOf s v.lf).setCtx w.ctx { Ctx.idle with gmax := ((facetOf s w.lf).ctx w.ctx).gmax } := by
      rw [hlf]
      exact facetOf_modFacet_same s w.lf _
    rw [ctxOf, hfacet, ctxOf]
    unfold Facet.setCtx Facet.ctx
    split_ifs
    · exact .inl rfl
    · exact .inr rfl
    · exact .inr rfl
    · exact .inl rfl
  · exact .inr (by rw [ctxOf, vacated, modCtx, facetOf_modFacet_other _ _ hlf, ctxOf])

/-- A task's record as an abort at cycle `c` leaves it. -/
def TaskRec.stopped (t : TaskRec) (reason c : Nat) : TaskRec := { t with phase := .ended, status := 1, reason := reason, stop := c }

/-- What follows a context's end: its facet, the task's channels, its record, its copy in the shadow facet. -/
def retiredTask (old s : State) (w : Who) (id reason : Nat) : State :=
  let s := chansEnd old (facetFreed (settleFlights s) w.lf) id
  abandonShadow (modTask s id (fun t => t.stopped reason (tcyc s))) w.lf id

theorem retiredTask_effect (old s : State) (w : Who) (id reason : Nat) :
    let t := retiredTask old s w id reason
    frameGround t = frameGround s ∧ t.seq.tasks = s.seq.tasks.map (fun r => if r.entry.id = id then r.stopped reason (tcyc s) else r) ∧ NoneStarted s t := by
  have hbefore : frameView (chansEnd old (facetFreed (settleFlights s) w.lf) id) = frameView s := by simp
  unfold retiredTask
  dsimp only
  generalize chansEnd old (facetFreed (settleFlights s) w.lf) id = u at hbefore
  have hview := frameView_abandonShadow (modTask u id (fun t => t.stopped reason (tcyc u))) w.lf id
  have hctx : NoneStarted s (modTask u id (fun t => t.stopped reason (tcyc u))) := noneStarted_of_frameView (t := u) hbefore
  have hground : frameGround (modTask u id (fun t => t.stopped reason (tcyc u))) = frameGround s := (frameGround_modTask u id _).trans (frameGround_of_frameView hbefore)
  refine ⟨(frameGround_of_frameView hview).trans hground, ?_, hctx.trans (noneStarted_of_frameView hview)⟩
  rw [tasks_of_frameView hview, ← tasks_of_frameView hbefore, ← tcyc_of_frameView hbefore]
  rfl

/-- An express request that its task's abort ends. -/
def expressAborted (s : State) (x : Option ExpressReq) (reason : Nat) : State :=
  match x with
  | none => s
  | some r => complete (modSeq s (fun q => { q with expAborted := q.expAborted ++ [r.slot] })) r.cmd 6 reason (fget s Fld.fsqFrame_FRAME)

theorem frameView_expressAborted (s : State) (x : Option ExpressReq) (reason : Nat) : frameView (expressAborted s x reason) = frameView s := by
  unfold expressAborted
  split
  · rfl
  · exact (frameView_complete _ _ _ _ _).trans (frameView_moveCounts s _ fun _ => rfl)

theorem stopTask_eq (s : State) (w : Who) (id reason : Nat) :
    stopTask s w id reason = expressAborted (retiredTask s (vacated (workDropped s w) w) w id reason) (ctxOf s w).express reason := by
  unfold stopTask expressAborted retiredTask vacated workDropped
  rfl

/-- A task that runs, stopped: its record, its context, and what stays. -/
theorem stopTask_effect (s : State) (w : Who) (id reason : Nat) :
    let t := stopTask s w id reason
    frameGround t = frameGround s ∧ t.seq.tasks = s.seq.tasks.map (fun r => if r.entry.id = id then r.stopped reason (tcyc s) else r)
      ∧ (ctxOf t w).task = none ∧ NoneStarted s t := by
  have hdown := frameView_workDropped s w
  rw [stopTask_eq]
  generalize workDropped s w = u at hdown
  obtain ⟨hidle, hnone⟩ := task_vacated u w
  have hground : frameGround (vacated u w) = frameGround s := (frameGround_modCtx u w _).trans (frameGround_of_frameView hdown)
  have htasks : (vacated u w).seq.tasks = s.seq.tasks := tasks_of_frameView (t := u) hdown
  obtain ⟨hground', htasks', hnone'⟩ := retiredTask_effect s (vacated u w) w id reason
  generalize retiredTask s (vacated u w) w id reason = v at hground' htasks' hnone'
  have hexp := frameView_expressAborted v (ctxOf s w).express reason
  have hlast := noneStarted_of_frameView hexp
  refine ⟨(frameGround_of_frameView hexp).trans (hground'.trans hground), ?_, (hnone'.trans hlast).idle hidle,
    (noneStarted_of_frameView hdown).trans (hnone.trans (hnone'.trans hlast))⟩
  rw [tasks_of_frameView hexp, htasks', htasks, tcyc_of_frameGround hground]

/-- A task's record as the abort of a task that waits leaves it: an express window without a request that it still holds stays IDLE (R45). -/
def TaskRec.skipped (s : State) (t : TaskRec) (reason : Nat) : TaskRec :=
  if idleWindow s t.entry reason then { t with phase := .ended, status := 2 }
  else { t with phase := .ended, status := 1, reason := reason, start := tcyc s, stop := tcyc s }

/-- A task's record as an abort leaves it. -/
def TaskRec.aborted (s : State) (t : TaskRec) (reason : Nat) : TaskRec :=
  match t.phase with
  | .ended => t
  | .waiting => t.skipped s reason
  | .running => t.stopped reason (tcyc s)

@[simp] theorem TaskRec.skipped_entry (s : State) (t : TaskRec) (reason : Nat) : (t.skipped s reason).entry = t.entry := by
  unfold TaskRec.skipped
  split <;> rfl

@[simp] theorem TaskRec.aborted_entry (s : State) (t : TaskRec) (reason : Nat) : (t.aborted s reason).entry = t.entry := by
  unfold TaskRec.aborted
  split
  · rfl
  · exact t.skipped_entry s reason
  · rfl

theorem TaskRec.aborted_phase (s : State) (t : TaskRec) (reason : Nat) : (t.aborted s reason).phase = .ended := by
  unfold TaskRec.aborted TaskRec.skipped
  split
  · assumption
  · split <;> rfl
  · rfl

theorem TaskRec.aborted_of_ended (s : State) {t : TaskRec} (h : t.phase = .ended) (reason : Nat) : t.aborted s reason = t := by
  rw [TaskRec.aborted, h]

/-- A record's end depends on the ground alone. -/
theorem TaskRec.aborted_of_frameGround {s t : State} (h : frameGround t = frameGround s) (r : TaskRec) (reason : Nat) : r.aborted t reason = r.aborted s reason := by
  simp only [TaskRec.aborted, TaskRec.skipped, idleWindow_of_frameGround h, tcyc_of_frameGround h]

/-- One abort: the records under its id, its context, and what stays. -/
structure AbortsOne (s t : State) (id reason : Nat) (f : TaskRec → TaskRec) : Prop where
  entry : ∀ x, (f x).entry = x.entry
  tasks : t.seq.tasks = s.seq.tasks.map (fun x => if x.entry.id = id then f x else x)
  record : ∀ r, taskRec s id = some r → f r = r.aborted s reason
  ground : frameGround t = frameGround s
  none : NoneStarted s t

theorem abortsOne_nothing {s : State} {id : Nat} (reason : Nat) (h : ∀ r, taskRec s id = some r → r.phase = .ended) : AbortsOne s s id reason (fun x => x) where
  entry _ := rfl
  tasks := by simp
  record r hr := (TaskRec.aborted_of_ended s (h r hr) reason).symm
  ground := rfl
  none _ := .inr rfl

theorem skipTask_aborts {s : State} {id : Nat} {r : TaskRec} (hr : taskRec s id = some r) (hwait : r.phase = .waiting) (reason : Nat) :
    ∃ f, AbortsOne s (skipTask s id reason) id reason f := by
  have hrecord : ∀ x, taskRec s id = some x → x.aborted s reason = r.skipped s reason := fun x hx => by
    cases hr.symm.trans hx
    simp only [TaskRec.aborted, hwait]
  cases hidle : idleWindow s r.entry reason
  · let f (t : TaskRec) : TaskRec := { t with phase := .ended, status := 1, reason := reason, start := tcyc s, stop := tcyc s }
    have hskip : skipTask s id reason = chansEnd (modTask s id f) (modTask s id f) id := by
      rw [skipTask, hr]
      exact if_neg (by simp [hidle])
    have hview := frameView_chansEnd (modTask s id f) (modTask s id f) id
    have hctx : NoneStarted s (modTask s id f) := fun _ => .inr rfl
    rw [hskip]
    refine ⟨f, fun _ => rfl, tasks_of_frameView hview, fun x hx => ?_, (frameGround_of_frameView hview).trans (frameGround_modTask s id f), hctx.trans (noneStarted_of_frameView hview)⟩
    rw [hrecord x hx, TaskRec.skipped, hidle, ← Option.some.inj (hr.symm.trans hx)]
    rfl
  · have hskip : skipTask s id reason = modTask s id (fun t => { t with phase := .ended, status := 2 }) := by
      rw [skipTask, hr]
      exact if_pos (by simp [hidle])
    rw [hskip]
    refine ⟨fun t => { t with phase := .ended, status := 2 }, fun _ => rfl, rfl, fun x hx => ?_, rfl, fun _ => .inr rfl⟩
    rw [hrecord x hx, TaskRec.skipped, hidle, ← Option.some.inj (hr.symm.trans hx)]
    rfl

theorem stopTask_aborts {s : State} {id : Nat} {r : TaskRec} (hr : taskRec s id = some r) (hrun : r.phase = .running) (w : Who) (reason : Nat) :
    AbortsOne s (stopTask s w id reason) id reason (fun x => x.stopped reason (tcyc s)) := by
  obtain ⟨hground, htasks, -, hnone⟩ := stopTask_effect s w id reason
  refine ⟨fun _ => rfl, htasks, fun x hx => ?_, hground, hnone⟩
  cases hr.symm.trans hx
  simp only [TaskRec.aborted, hrun]

theorem abortOne_aborts (s : State) (id reason : Nat) : ∃ f, AbortsOne s (abortOne s id reason) id reason f := by
  unfold abortOne
  split
  · next hr => exact ⟨_, abortsOne_nothing reason fun r h => by rw [hr] at h; cases h⟩
  · next r hr =>
    split
    · next hended => exact ⟨_, abortsOne_nothing reason fun x hx => by rw [← Option.some.inj (hr.symm.trans hx), hended]⟩
    · next hwait => exact skipTask_aborts hr hwait reason
    · next hrun => exact ⟨_, stopTask_aborts hr hrun r.entry.who reason⟩

/-- The records of other tasks stay. -/
theorem AbortsOne.taskRec_other {s t : State} {d reason : Nat} {f : TaskRec → TaskRec} (h : AbortsOne s t d reason f) {id : Nat} (hne : id ≠ d) : taskRec t id = taskRec s id := by
  have hkeep : ∀ x : TaskRec, ((if x.entry.id = d then f x else x).entry.id = id) = (x.entry.id = id) := fun x => by
    split
    · rw [h.entry]
    · rfl
  rw [taskRec, h.tasks, List.find?_map, taskRec]
  simp only [Function.comp_def, hkeep]
  cases hx : s.seq.tasks.find? (fun t => decide (t.entry.id = id)) with
  | none => rfl
  | some x =>
    have hid : x.entry.id = id := by simpa using List.find?_some hx
    rw [Option.map_some, if_neg (hid ▸ hne)]

/-! ### Many tasks aborted -/

/-- Records under distinct ids. -/
abbrev DistinctTasks (s : State) : Prop := (s.seq.tasks.map (·.entry.id)).Nodup

theorem taskRec_of_distinct {s : State} (h : DistinctTasks s) {r : TaskRec} (hr : r ∈ s.seq.tasks) : taskRec s r.entry.id = some r := by
  unfold DistinctTasks at h
  unfold taskRec
  generalize s.seq.tasks = xs at h hr
  induction xs with
  | nil => cases hr
  | cons x xs ih =>
    rw [List.map_cons, List.nodup_cons] at h
    obtain ⟨hx, hxs⟩ := h
    rcases List.mem_cons.mp hr with rfl | hmem
    · rw [List.find?_cons_of_pos (by simp)]
    · have hne : x.entry.id ≠ r.entry.id := fun he => hx (he ▸ List.mem_map_of_mem hmem)
      rw [List.find?_cons_of_neg (by simpa using hne), ih hxs hmem]

/-- With distinct ids an abort changes the one record as R29 and R45 say. -/
theorem abortOne_tasks {s : State} (h : DistinctTasks s) (id reason : Nat) :
    (abortOne s id reason).seq.tasks = s.seq.tasks.map (fun x => if x.entry.id = id then x.aborted s reason else x) := by
  obtain ⟨f, hf⟩ := abortOne_aborts s id reason
  rw [hf.tasks]
  refine List.map_congr_left fun x hx => ?_
  split
  · next hid => exact hf.record x (hid ▸ taskRec_of_distinct h hx)
  · rfl

theorem frameGround_abortOne (s : State) (id reason : Nat) : frameGround (abortOne s id reason) = frameGround s := by
  obtain ⟨f, hf⟩ := abortOne_aborts s id reason
  exact hf.ground

/-- Records mapped to records of the same entries stay distinct. -/
theorem distinct_of_map {s t : State} (h : DistinctTasks s) {f : TaskRec → TaskRec} (hf : ∀ x, (f x).entry = x.entry) (ht : t.seq.tasks = s.seq.tasks.map f) : DistinctTasks t := by
  unfold DistinctTasks
  rw [ht, List.map_map]
  simpa only [Function.comp_def, hf] using h

/-- A list of aborts: each record named in it ends once. -/
theorem abortAll_effect (ρ : Nat → Nat) (ids : List Nat) {s : State} (h : DistinctTasks s) :
    let t := ids.foldl (fun t id => abortOne t id (ρ id)) s
    t.seq.tasks = s.seq.tasks.map (fun x => if x.entry.id ∈ ids then x.aborted s (ρ x.entry.id) else x) ∧ frameGround t = frameGround s := by
  induction ids generalizing s with
  | nil => simp
  | cons d ids ih =>
    let g (x : TaskRec) : TaskRec := if x.entry.id = d then x.aborted s (ρ d) else x
    have hentry : ∀ x, (g x).entry = x.entry := fun x => by
      show (if x.entry.id = d then x.aborted s (ρ d) else x).entry = x.entry
      split
      · exact x.aborted_entry s _
      · rfl
    have htasks : (abortOne s d (ρ d)).seq.tasks = s.seq.tasks.map g := abortOne_tasks h d (ρ d)
    have hground := frameGround_abortOne s d (ρ d)
    obtain ⟨hrest, hground'⟩ := ih (distinct_of_map h hentry htasks)
    refine ⟨?_, hground'.trans hground⟩
    rw [List.foldl_cons, hrest, htasks, List.map_map]
    refine List.map_congr_left fun x _ => ?_
    simp only [Function.comp_def, hentry, TaskRec.aborted_of_frameGround hground, List.mem_cons]
    by_cases hid : x.entry.id = d
    · have hx : g x = x.aborted s (ρ x.entry.id) := by rw [hid]; exact if_pos hid
      rw [hx, TaskRec.aborted_of_ended s (x.aborted_phase s _), ite_self, if_pos (.inl hid)]
    · have hx : g x = x := if_neg hid
      simp only [hx, hid, false_or]

/-! ### The stall watchdog (R287) -/

/-- Aborts of other tasks leave a record, and start nothing. -/
theorem abortOthers_effect (reason id : Nat) (ds : List Nat) (s : State) (hne : ∀ d ∈ ds, id ≠ d) :
    let t := ds.foldl (fun t d => abortOne t d reason) s
    taskRec t id = taskRec s id ∧ NoneStarted s t := by
  induction ds generalizing s with
  | nil => exact ⟨rfl, fun _ => .inr rfl⟩
  | cons d ds ih =>
    obtain ⟨hd, hds⟩ := List.forall_mem_cons.mp hne
    obtain ⟨f, hf⟩ := abortOne_aborts s d reason
    obtain ⟨hrec, hnone⟩ := ih (abortOne s d reason) hds
    exact ⟨hrec.trans (hf.taskRec_other hd), hf.none.trans hnone⟩

theorem downstream_ne (s : State) (id : Nat) : ∀ d ∈ downstream s id, id ≠ d := by
  intro d hd
  unfold downstream at hd
  split at hd
  · cases hd
  · have hne := (List.mem_filter.mp hd).2
    exact fun he => by simp [he] at hne

/-- A task aborted for a reason other than the hard limit: its context is free, its record shows the abort. -/
theorem abortId_effect {s : State} {id : Nat} {r : TaskRec} (hr : taskRec s id = some r) (hrun : r.phase = .running) {reason : Nat} (hreason : reason ≠ 7) :
    let t := abortId s id reason
    ctxBusy t r.entry.who = false ∧ taskRec t id = some (r.stopped reason (tcyc s)) := by
  have hone : abortOne s id reason = stopTask s r.entry.who id reason := by
    unfold abortOne
    rw [hr]
    dsimp only
    rw [hrun]
  obtain ⟨-, htasks, hidle, -⟩ := stopTask_effect s r.entry.who id reason
  have hstopped : taskRec (stopTask s r.entry.who id reason) id = some (r.stopped reason (tcyc s)) := by
    have hid : r.entry.id = id := by simpa using List.find?_some hr
    have hsame : ∀ x : TaskRec, (if x.entry.id = id then x.stopped reason (tcyc s) else x).entry.id = x.entry.id := fun x => by split <;> rfl
    rw [taskRec, htasks, List.find?_map]
    simp only [Function.comp_def, hsame]
    rw [show s.seq.tasks.find? (fun t => decide (t.entry.id = id)) = some r from hr, Option.map_some, if_pos hid]
  have habort : abortId s id reason = (downstream s id).foldl (fun t d => abortOne t d 8) (stopTask s r.entry.who id reason) := by
    rw [← hone]
    exact if_neg hreason
  intro t
  rw [show t = _ from habort]
  generalize stopTask s r.entry.who id reason = u at hidle hstopped
  obtain ⟨hrec, hnone⟩ := abortOthers_effect 8 id (downstream s id) u (downstream_ne s id)
  refine ⟨?_, hrec.trans hstopped⟩
  rw [ctxBusy, hnone.idle hidle]
  rfl

end Sys2Proof.Machine
end

section
/-! Tasks are released and limited; reserved windows open and close (R29, R42 to R45, R287, R457). -/

namespace Sys2Proof.Machine

variable {s : State}

/-! ### A task starts (R42) -/

/-- Buffers of a facet renewed: no memory and no part of the sequencer's state changes. -/
theorem clearBuffers_side (s : State) (e : TaskEntry) : clearBuffers s e = { s with facets := (clearBuffers s e).facets, free := (clearBuffers s e).free } := rfl

theorem taskRec_id {id : Nat} {r : TaskRec} (h : taskRec s id = some r) : r.entry.id = id := by
  simpa using List.find?_some h

/-- A record changed under its own id is found changed. -/
theorem taskRec_modTask {id : Nat} {r : TaskRec} (h : taskRec s id = some r) (f : TaskRec → TaskRec) (hf : ∀ x, (f x).entry = x.entry) :
    taskRec (modTask s id f) id = some (f r) := by
  have hsame : ∀ x : TaskRec, (if x.entry.id = id then f x else x).entry.id = x.entry.id := fun x => by
    split
    · rw [hf]
    · rfl
  show (s.seq.tasks.map (fun x => if x.entry.id = id then f x else x)).find? (fun x => decide (x.entry.id = id)) = _
  rw [List.find?_map]
  simp only [Function.comp_def, hsame]
  rw [show s.seq.tasks.find? (fun x => decide (x.entry.id = id)) = some r from h, Option.map_some, if_pos (taskRec_id h)]

/-- A context at its task's entry. -/
def begunCtx (s : State) (e : TaskEntry) (x : Option ExpressReq) : Ctx :=
  { Ctx.idle with task := some e.id, pc := e.entry, free := s.now, start := tcyc s, startNow := s.now, wdog := wdogOf s e, storeAt := 0, express := x }

/-- A task's record as it starts at cycle `c`. -/
def TaskRec.begun (r : TaskRec) (c : Nat) : TaskRec := { r with phase := .running, status := 0, start := c }

/-- The context and the record of a task that starts. -/
def begun (s : State) (e : TaskEntry) (x : Option ExpressReq) : State :=
  modTask (modCtx s e.who (fun _ => begunCtx s e x)) e.id (fun r => r.begun (tcyc s))

theorem startTask_eq (s : State) (e : TaskEntry) (x : Option ExpressReq) : startTask s e x = begun (clearBuffers s e) e x := rfl

theorem begun_starts (s : State) (e : TaskEntry) (x : Option ExpressReq) : Starts s (begun s e x) e x := by
  have hctx : ctxOf (begun s e x) e.who = begunCtx s e x := ctxOf_modCtx s e.who (fun _ => begunCtx s e x)
  refine ⟨congrArg Ctx.task hctx, congrArg Ctx.pc hctx, congrArg Ctx.wait hctx, congrArg Ctx.express hctx, congrArg Ctx.start hctx, fun q => ?_⟩
  rw [rget, hctx]
  split <;> rfl

/-- A task started: its context at ENTRY with every register 0, its record, the memories. -/
theorem startTask_effect {id : Nat} {r : TaskRec} (h : taskRec s id = some r) (x : Option ExpressReq) :
    let t := startTask s r.entry x
    Starts s t r.entry x ∧ (taskRec t id).map (·.phase) = some .running ∧ SameMemories s t ∧ t.seq.express = s.seq.express := by
  have hclear := clearBuffers_side s r.entry
  rw [startTask_eq]
  generalize clearBuffers s r.entry = u at hclear
  have hcyc : tcyc u = tcyc s := by rw [hclear]; rfl
  have hrec : taskRec (modCtx u r.entry.who (fun _ => begunCtx u r.entry x)) id = some r := by rw [← h, hclear]; rfl
  have hstarts := begun_starts u r.entry x
  unfold Starts at hstarts ⊢
  rw [hcyc] at hstarts
  refine ⟨hstarts, ?_, ?_, ?_⟩
  · rw [begun, taskRec_id h, taskRec_modTask hrec (fun r => r.begun (tcyc u)) fun _ => rfl]
    rfl
  · rw [hclear]
    exact ⟨rfl, rfl, rfl, rfl, rfl, rfl⟩
  · rw [hclear]
    rfl

/-- The copy of a task that a shadow facet begins: its instruction memory, and the quadrant's shadow. -/
theorem shadowStart_side (s : State) (e : TaskEntry) : shadowStart s e = { s with imem := (shadowStart s e).imem, repair := (shadowStart s e).repair } := by
  have hload : ∀ (t : State) lf pf, loadImem t lf pf = { t with imem := (loadImem t lf pf).imem } := fun t lf pf => by
    unfold loadImem
    split <;> rfl
  unfold shadowStart
  dsimp only
  split
  · split
    · rw [hload]
      rfl
    · rfl
  · rfl

theorem release_whole {e : TaskEntry} (hphys : physOf s e.lf ≠ 0x3F) (hheld : (throttleOf s (quadOf e.lf)).held = false) :
    release s e = shadowStart (startTask s e none) e :=
  (if_neg hphys).trans (if_neg (Bool.eq_false_iff.mp hheld))

/-- A task that is due is released. -/
theorem taskRelease_effect {id : Nat} {r : TaskRec} (hr : taskRec s id = some r) (hrel : releasing s = true) (hwait : r.phase = .waiting) (hkind : r.entry.kind ≠ 1)
    (hdue : r.entry.release ≤ tcyc s) (h2048 : 2048 ≤ tcyc s) (hnext : nextInLine s r.entry = true) (hfree : ctxFreeFor s r.entry = true)
    (hopen : facetOpen s r.entry.lf = true) (hphys : physOf s r.entry.lf ≠ 0x3F) (hheld : (throttleOf s (quadOf r.entry.lf)).held = false) :
    ∃ t, execTaskRelease id s = .next t ∧ Starts s t r.entry none ∧ (taskRec t id).map (·.phase) = some .running ∧ SameMemories s { t with imem := s.imem } := by
  obtain ⟨hstarts, hphase, hmems, -⟩ := startTask_effect hr none
  have hexec : execTaskRelease id s = .next (release s r.entry) := by
    rw [execTaskRelease, hr]
    exact whenever_true (by simp only [hrel, hwait, hkind, hdue, h2048, hnext, hfree, hopen, decide_true, Bool.and_self, ne_eq, not_false_eq_true])
  rw [hexec, release_whole hphys hheld]
  generalize startTask s r.entry none = u at hstarts hphase hmems
  refine ⟨_, rfl, ?_, ?_, ?_⟩ <;> rw [shadowStart_side]
  · exact hstarts
  · exact hphase
  · obtain ⟨hfmem, -, hsts, hfar, hhost, hflash⟩ := hmems
    exact ⟨hfmem, rfl, hsts, hfar, hhost, hflash⟩

theorem dropFirst_length {α : Type} (p : α → Bool) (xs : List α) {x : α} (h : xs.find? p = some x) : (dropFirst p xs).length + 1 = xs.length := by
  induction xs with
  | nil => cases h
  | cons y ys ih =>
    unfold dropFirst
    by_cases hy : p y = true
    · rw [if_pos hy, List.length_cons]
    · rw [if_neg hy, List.length_cons, List.length_cons, ih (by rwa [List.find?_cons_of_neg hy] at h)]

/-- An express task starts for its first queued request, which leaves the queue. -/
theorem expressDispatch_effect {id : Nat} {r : TaskRec} {x : ExpressReq} (hr : taskRec s id = some r) (hx : s.seq.express.find? (fun y => y.task = id) = some x)
    (hrel : releasing s = true) (hwait : r.phase = .waiting) (hkind : r.entry.kind = 1) (hdue : expressStart s r.entry x ≤ tcyc s)
    (hroom : tcyc s + r.entry.xwcl ≤ r.entry.release + r.entry.wcl) (hfree : ctxFreeFor s r.entry = true) (hopen : facetOpen s r.entry.lf = true)
    (hphys : physOf s r.entry.lf ≠ 0x3F) (hheld : (throttleOf s (quadOf r.entry.lf)).held = false) :
    ∃ t, execExpressDispatch id s = .next t ∧ Starts s t r.entry (some x) ∧ (taskRec t id).map (·.phase) = some .running
      ∧ t.seq.express.length + 1 = s.seq.express.length ∧ SameMemories s t := by
  let u := modSeq s (fun q => { q with express := dropFirst (fun y => decide (y.task = id)) q.express, expRuns := mapPut q.expRuns x.slot x.entry })
  have hu : taskRec u id = some r := hr
  have hstays : ¬ (physOf u r.entry.lf = 0x3F ∨ (throttleOf u (quadOf r.entry.lf)).held = true) := by
    rintro (h | h)
    · exact hphys h
    · exact Bool.eq_false_iff.mp hheld h
  have hexec : execExpressDispatch id s = .next (startTask u r.entry (some x)) := by
    rw [execExpressDispatch, hr, hx]
    refine (whenever_true (by simp only [hrel, hwait, hkind, hdue, hroom, hfree, hopen, decide_true, Bool.and_self])).trans ?_
    exact congrArg _ (if_neg hstays)
  obtain ⟨hstarts, hphase, hmems, hexp⟩ := startTask_effect hu (some x)
  refine ⟨_, hexec, hstarts, hphase, ?_, hmems⟩
  rw [hexp]
  exact dropFirst_length _ _ hx

/-- A context whose watchdog limit has passed is aborted with STALL_WATCHDOG. -/
theorem stallWatchdog_effect {w : Who} {id : Nat} {r : TaskRec} (hw : (ctxOf s w).task = some id) (hr : taskRec s id = some r) (hrun : r.phase = .running)
    (hwho : r.entry.who = w) (hlimit : (ctxOf s w).startNow + (ctxOf s w).wdog + repairTime s ≤ s.now) :
    ∃ t, execStallWatchdog w s = .next t ∧ ctxBusy t w = false ∧ taskRec t id = some { r with phase := .ended, status := 1, reason := 5, stop := tcyc s } := by
  have hbusy : ctxBusy s w = true := by rw [ctxBusy, hw]; rfl
  have hexec : execStallWatchdog w s = .next (abortId s id 5) := by
    refine (whenever_true (by rw [hbusy, decide_eq_true hlimit]; rfl)).trans ?_
    rw [abortTask, hw]
  have heffect := abortId_effect hr hrun (reason := 5) (by decide)
  rw [hwho] at heffect
  exact ⟨_, hexec, heffect⟩

/-! ### The hard limit (R29, R45) -/

/-- An id stands among those of the records that a test picks just where its own record passes the test. -/
theorem mem_picked_iff (h : DistinctTasks s) (p : TaskRec → Bool) {r : TaskRec} (hr : r ∈ s.seq.tasks) :
    r.entry.id ∈ (s.seq.tasks.filter p).map (·.entry.id) ↔ p r = true := by
  refine ⟨fun hmem => ?_, fun hp => List.mem_map_of_mem (List.mem_filter.mpr ⟨hr, hp⟩)⟩
  obtain ⟨x, hx, hid⟩ := List.mem_map.mp hmem
  obtain ⟨hxs, hpx⟩ := List.mem_filter.mp hx
  have hsame := taskRec_of_distinct h hxs
  rw [show x.entry.id = r.entry.id from hid, taskRec_of_distinct h hr] at hsame
  rwa [Option.some.inj hsame]

/-- Aborts of all the records of one phase: each of them ends, the others stay. -/
theorem abortPhase_effect (h : DistinctTasks s) (ρ : Nat → Nat) (ph : TaskPhase) :
    let t := (s.seq.tasks.filter (fun x => x.phase = ph)).foldl (fun t x => abortOne t x.entry.id (ρ x.entry.id)) s
    t.seq.tasks = s.seq.tasks.map (fun x => if x.phase = ph then x.aborted s (ρ x.entry.id) else x) ∧ frameGround t = frameGround s := by
  obtain ⟨htasks, hground⟩ := abortAll_effect ρ ((s.seq.tasks.filter (fun x => x.phase = ph)).map (·.entry.id)) h
  rw [List.foldl_map] at htasks hground
  refine ⟨htasks.trans (List.map_congr_left fun x hx => ?_), hground⟩
  simp only [mem_picked_iff h _ hx, decide_eq_true_eq]

/-- A record after the aborts of the hard limit, before its cycles are set. -/
def TaskRec.limited (s : State) (t : TaskRec) (reason : Nat) : TaskRec :=
  match t.phase with
  | .ended => t
  | .running => t.stopped 7 (tcyc s)
  | .waiting => t.skipped s reason

@[simp] theorem TaskRec.limited_entry (s : State) (t : TaskRec) (reason : Nat) : (t.limited s reason).entry = t.entry := by
  unfold TaskRec.limited
  split
  · rfl
  · rfl
  · exact t.skipped_entry s reason

/-- The aborts of the hard limit: first what runs, then what waits, downstream of an abort with UPSTREAM. -/
theorem limits_effect (h : DistinctTasks s) :
    ∃ ρ : Nat → Nat, (∀ i, ρ i = 7 ∨ ρ i = 8) ∧ (limitWaiting (limitRunning s)).seq.tasks = s.seq.tasks.map (fun x => x.limited s (ρ x.entry.id)) := by
  obtain ⟨hrun, hground⟩ := abortPhase_effect h (fun _ => 7) .running
  change (limitRunning s).seq.tasks = _ at hrun
  change frameGround (limitRunning s) = _ at hground
  generalize limitRunning s = u at hrun hground
  have hentry : ∀ x : TaskRec, (if x.phase = .running then x.aborted s 7 else x).entry = x.entry := fun x => by
    split
    · exact x.aborted_entry s 7
    · rfl
  have hdistinct : DistinctTasks u := distinct_of_map h hentry hrun
  let gone := (u.seq.tasks.filter (fun t => decide (t.status = 1) && decide (t.phase = .ended))).map (·.entry.id)
  let ρ (i : Nat) : Nat := if (gone.flatMap (downstream u)).contains i then 8 else 7
  have hwait : (limitWaiting u).seq.tasks = u.seq.tasks.map (fun x => if x.phase = .waiting then x.aborted u (ρ x.entry.id) else x) :=
    (abortPhase_effect hdistinct ρ .waiting).1
  refine ⟨ρ, fun i => ?_, ?_⟩
  · show (if (gone.flatMap (downstream u)).contains i then 8 else 7) = 7 ∨ (if (gone.flatMap (downstream u)).contains i then 8 else 7) = 8
    split
    · exact .inr rfl
    · exact .inl rfl
  · rw [hwait, hrun, List.map_map]
    refine List.map_congr_left fun x _ => ?_
    simp only [Function.comp_apply, TaskRec.aborted_of_frameGround hground, hentry]
    cases hphase : x.phase
    case waiting => simp [TaskRec.limited, TaskRec.aborted, hphase]
    case running => simp [TaskRec.limited, TaskRec.aborted, TaskRec.stopped, hphase]
    case ended => simp [TaskRec.limited, hphase]

/-- The tasks that the hard limit ends, and whether each waited. -/
def openTasks (s : State) : List (Nat × Bool) := (s.seq.tasks.filter (fun t => t.phase ≠ .ended)).map (fun t => (t.entry.id, decide (t.phase = .waiting)))

/-- Of the tasks that the limit ends, one that it aborts shows the limit as its last cycle; one that waited shows it as its first too. -/
def TaskRec.stamped (lim : Nat) (ends : List (Nat × Bool)) (t : TaskRec) : TaskRec :=
  match ends.find? (fun o => o.1 = t.entry.id) with
  | some o => if t.status = 1 then { t with stop := lim, start := if o.2 then lim else t.start } else t
  | none => t

def stampAll (s : State) (lim : Nat) (ends : List (Nat × Bool)) : State :=
  modSeq s (fun q => { q with hardDone := true, tasks := q.tasks.map (TaskRec.stamped lim ends) })

/-- The end of the hard limit: the event where a task overran, and the frame's maintenance. -/
def afterLimit (s : State) (ends : List (Nat × Bool)) : State :=
  maintenanceTail (if s.seq.tasks.any (fun t => decide (t.status = 1) && decide (t.reason = 7) && ends.any (fun o => o.1 = t.entry.id)) then setFlag s Fld.fsqEvents_OVERRUN else s)

theorem atHardLimit_eq (s : State) : atHardLimit s = afterLimit (stampAll (limitWaiting (limitRunning s)) (budget s + 52000) (openTasks s)) (openTasks s) := by
  unfold atHardLimit afterLimit stampAll openTasks
  rfl

theorem frameView_afterLimit (s : State) (ends : List (Nat × Bool)) : frameView (afterLimit s ends) = frameView s := by
  unfold afterLimit
  split <;> simp +decide

/-- The tasks that the limit ends, under distinct ids: an ended task is none of them, another stands with its phase. -/
theorem openTasks_find (h : DistinctTasks s) {r : TaskRec} (hr : r ∈ s.seq.tasks) :
    (openTasks s).find? (fun o => o.1 = r.entry.id) = if r.phase = .ended then none else some (r.entry.id, decide (r.phase = .waiting)) := by
  have hrec := taskRec_of_distinct h hr
  rw [openTasks, List.find?_map]
  split
  · next hended =>
    rw [Option.map_eq_none_iff, List.find?_eq_none]
    intro x hx
    obtain ⟨hxs, hopen⟩ := List.mem_filter.mp hx
    intro hid
    have hsame := taskRec_of_distinct h hxs
    rw [show x.entry.id = r.entry.id by simpa using hid, hrec] at hsame
    rw [← Option.some.inj hsame, hended] at hopen
    exact absurd hopen (by decide)
  · next hopen =>
    have hfound : (s.seq.tasks.filter (fun t => t.phase ≠ .ended)).find? (fun x => decide (x.entry.id = r.entry.id)) = some r :=
      taskRec_of_distinct (s := modSeq s (fun q => { q with tasks := q.tasks.filter (fun t => t.phase ≠ .ended) }))
        (h.sublist (List.filter_sublist.map _)) (List.mem_filter.mpr ⟨hr, by simpa using hopen⟩)
    exact congrArg (Option.map fun t : TaskRec => (t.entry.id, decide (t.phase = .waiting))) hfound

/-- What the hard limit at cycle `lim` makes of the record `r`. -/
def LimitedTo (s : State) (lim : Nat) (r r' : TaskRec) : Prop :=
  r'.entry = r.entry ∧ r'.phase = .ended
    ∧ (r.phase = .ended → r' = r) ∧ (r.phase = .running → r'.status = 1 ∧ r'.reason = 7 ∧ r'.stop = lim)
    ∧ (r.phase = .waiting → r.entry.kind ≠ 1 → r'.status = 1 ∧ (r'.reason = 7 ∨ r'.reason = 8) ∧ r'.stop = lim)
    ∧ (r.phase = .waiting → r.entry.kind = 1 → windowWanted s r.entry = false → r'.status = 2)
    ∧ (r.phase = .waiting → r.entry.kind = 1 → r'.status = 2 ∨ (r'.status = 1 ∧ r'.reason = 8 ∧ r'.stop = lim))

theorem idleWindow_iff (s : State) (e : TaskEntry) (reason : Nat) : idleWindow s e reason = true ↔ e.kind = 1 ∧ (reason = 8 → windowWanted s e = false) := by
  simp [idleWindow, imp_iff_not_or]

/-- Each record after the limit, by its phase before it. -/
theorem limitedTo_stamped (h : DistinctTasks s) {r : TaskRec} (hr : r ∈ s.seq.tasks) (lim : Nat) {reason : Nat} (hreason : reason = 7 ∨ reason = 8) :
    LimitedTo s lim r ((r.limited s reason).stamped lim (openTasks s)) := by
  have hfind := openTasks_find h hr
  rw [TaskRec.stamped, TaskRec.limited_entry, hfind]
  cases hphase : r.phase
  case ended => simp [LimitedTo, TaskRec.limited, hphase]
  case running => simp [LimitedTo, TaskRec.limited, TaskRec.stopped, hphase]
  case waiting =>
    cases hidle : idleWindow s r.entry reason
    · have hheld : r.entry.kind = 1 → reason = 8 ∧ windowWanted s r.entry = true := fun hkind => by
        have hnot := mt (idleWindow_iff s r.entry reason).mpr (by rw [hidle]; exact Bool.false_ne_true)
        simpa [hkind] using hnot
      simpa [LimitedTo, TaskRec.limited, TaskRec.skipped, hphase, hidle, hreason] using
        ⟨fun hkind => (hheld hkind).2, fun hkind => (hheld hkind).1⟩
    · obtain ⟨hkind, -⟩ := (idleWindow_iff s r.entry reason).mp hidle
      simp [LimitedTo, TaskRec.limited, TaskRec.skipped, hphase, hidle, hkind]

/-- At the hard limit every task is over. -/
theorem hardLimit_effect (hserve : serving s = true) (hin : s.seq.inFrame = true) (hdone : s.seq.hardDone = false) (hlim : budget s + 52000 ≤ tcyc s) (h : DistinctTasks s) :
    ∃ t, execHardLimit s = .next t ∧ t.seq.hardDone = true
      ∧ ∀ (k : Nat) (r : TaskRec), s.seq.tasks[k]? = some r → ∃ r', t.seq.tasks[k]? = some r' ∧ LimitedTo s (budget s + 52000) r r' := by
  obtain ⟨ρ, hρ, htasks⟩ := limits_effect h
  have hexec : execHardLimit s = .next (atHardLimit s) := whenever_true (by rw [hserve, hin, hdone, decide_eq_true hlim]; rfl)
  rw [hexec, atHardLimit_eq]
  generalize limitWaiting (limitRunning s) = u at htasks
  have hview := frameView_afterLimit (stampAll u (budget s + 52000) (openTasks s)) (openTasks s)
  refine ⟨_, rfl, congrArg (fun v => v.seq.hardDone) hview, fun k r hk => ?_⟩
  have hfinal : (afterLimit (stampAll u (budget s + 52000) (openTasks s)) (openTasks s)).seq.tasks
      = s.seq.tasks.map (fun x => (x.limited s (ρ x.entry.id)).stamped (budget s + 52000) (openTasks s)) := by
    rw [tasks_of_frameView hview]
    show u.seq.tasks.map _ = _
    rw [htasks, List.map_map]
    rfl
  rw [hfinal, List.getElem?_map, hk]
  exact ⟨_, rfl, limitedTo_stamped h (List.mem_of_getElem? hk) _ (hρ _)⟩

/-! ### Reserved windows (R457) -/

/-- A window of another kind than the Protractor's changes nothing else as it opens. -/
theorem reservedWindowOpen_plain {i : Nat} {w : WindowEntry} (hw : (windows s)[i]? = some w) (hkind : w.kind ≠ 1) (hserve : serving s = true) (hin : s.seq.inFrame = true)
    (hi : i ∉ s.seq.winOpen) (h0 : w.t0 ≤ tcyc s) (h1 : tcyc s < w.t1) :
    execReservedWindowOpen i s = .next { s with seq := { s.seq with winOpen := s.seq.winOpen ++ [i] } } := by
  rw [execReservedWindowOpen, hw]
  refine (whenever_true ?_).trans (congrArg _ (if_neg hkind))
  simp [hserve, hin, hi, h0, h1]

theorem execReservedWindowClose_due {i : Nat} {w : WindowEntry} (hw : (windows s)[i]? = some w) (hi : i ∈ s.seq.winOpen) (h1 : w.t1 ≤ tcyc s) :
    execReservedWindowClose i s = .next (modSeq (if w.kind = 0 then closeMover s w else s) (fun q => { q with winOpen := q.winOpen.filter (· ≠ i) })) := by
  rw [execReservedWindowClose, hw]
  exact whenever_true (by simp [hi, h1])

theorem frameView_closeMover (s : State) (w : WindowEntry) : frameView (closeMover s w) = frameView s :=
  (frameView_modPaging _ _).trans (frameView_commitWhere s _)

/-- The page mover's own end leaves which windows are open. -/
theorem closeMover_winOpen (s : State) (w : WindowEntry) : (if w.kind = 0 then closeMover s w else s).seq.winOpen = s.seq.winOpen := by
  split
  · exact congrArg (fun v => v.seq.winOpen) (frameView_closeMover s w)
  · rfl

/-- Settles O41: a release, an express dispatch, the stall watchdog, the hard limit, and windows that open and close. -/
theorem tasksAreReleasedAndLimited : Obligations.TasksAreReleasedAndLimited := by
  unfold Obligations.TasksAreReleasedAndLimited
  intro s
  refine ⟨fun id r hr hrel hwait hkind hdue h2048 hnext hfree hopen hphys hheld => ?_, fun id r x hr hx hrel hwait hkind hdue hroom hfree hopen hphys hheld => ?_,
    fun w id r hw hr hrun hwho hlimit => ?_, fun hserve hin hdone hlim hdistinct => ?_, fun i w hw hkind hserve hin hi h0 h1 => ?_, fun i w hw hi h1 => ⟨fun hkind => ?_, ?_⟩⟩
  · rw [exec_taskRelease]
    exact taskRelease_effect hr hrel hwait hkind hdue h2048 hnext hfree hopen hphys hheld
  · rw [exec_expressDispatch]
    exact expressDispatch_effect hr hx hrel hwait hkind hdue hroom hfree hopen hphys hheld
  · rw [exec_stallWatchdog]
    exact stallWatchdog_effect hw hr hrun hwho hlimit
  · rw [exec_hardLimit]
    exact hardLimit_effect hserve hin hdone hlim hdistinct
  · rw [exec_reservedWindowOpen]
    exact reservedWindowOpen_plain hw hkind hserve hin hi h0 h1
  · rw [exec_reservedWindowClose, execReservedWindowClose_due hw hi h1, if_neg hkind]
    rfl
  · rw [exec_reservedWindowClose, execReservedWindowClose_due hw hi h1]
    have hopen := closeMover_winOpen s w
    generalize (if w.kind = 0 then closeMover s w else s) = u at hopen
    have hafter : (modSeq u (fun q => { q with winOpen := q.winOpen.filter (· ≠ i) })).seq.winOpen = s.seq.winOpen.filter (· ≠ i) := by rw [← hopen]; rfl
    refine ⟨_, rfl, ?_, fun j hj => ?_⟩ <;> rw [hafter, List.mem_filter]
    · simp
    · simp [hj]

end Sys2Proof.Machine
end

section
/-! Ticks and what begins with them (R18 to R22, R26, R52). -/

namespace Sys2Proof.Machine

/-! ### What a frame's start sets before the image, the configuration and the units are renewed -/

/-- The Frame Sequencer's registers that a tick's later effects leave alone. -/
def tickFields : List Field := [Fld.fsqCtl_RUN, Fld.fsqTickctl_SRC, Fld.fsqFrame_FRAME, Fld.fsqCntMissed_COUNT, Fld.fsqPtmerr_ERRNS]

/-- The frame under way as its start sets it. -/
structure TickView where
  now : Nat
  inFrame : Bool
  lastTick : Nat
  firstTick : Bool
  reported : Bool
  hardDone : Bool
  winOpen : List Nat
  madeTicks : Nat
  regs : List Nat

def tickView (s : State) : TickView :=
  { now := s.now, inFrame := s.seq.inFrame, lastTick := s.seq.lastTick, firstTick := s.seq.firstTick, reported := s.seq.reported, hardDone := s.seq.hardDone
    winOpen := s.seq.winOpen, madeTicks := s.seq.madeTicks, regs := tickFields.map (fget s) }

theorem tickFields_ofFrame : ∀ f ∈ tickFields, f.OfFrame := by decide

theorem tickView_of_regs {s t : State} (hnow : t.now = s.now) (hseq : t.seq = s.seq) (hregs : ∀ f ∈ tickFields, fget t f = fget s f) : tickView t = tickView s := by
  have hr : tickFields.map (fget t) = tickFields.map (fget s) := List.map_congr_left hregs
  simp only [tickView, hnow, hseq, hr]

/-- The same of a frame's view. -/
def FrameView.tick (v : FrameView) : TickView :=
  { now := v.now, inFrame := v.seq.inFrame, lastTick := v.seq.lastTick, firstTick := v.seq.firstTick, reported := v.seq.reported, hardDone := v.seq.hardDone
    winOpen := v.seq.winOpen, madeTicks := v.seq.madeTicks, regs := tickFields.map v.regs }

theorem tickView_eq (s : State) : tickView s = (frameView s).tick := by
  have hr : tickFields.map (fget s) = tickFields.map (frameView s).regs := List.map_congr_left fun f hf => (if_pos (tickFields_ofFrame f hf)).symm
  rw [tickView, hr]
  rfl

theorem tickView_of_frameView {s t : State} (h : frameView t = frameView s) : tickView t = tickView s := by
  rw [tickView_eq, h, tickView_eq]

theorem fget_of_tickView {s t : State} (h : tickView t = tickView s) {f : Field} (hf : f ∈ tickFields) : fget t f = fget s f :=
  List.map_inj_left.mp (congrArg TickView.regs h) f hf

variable (s : State)

@[simp] theorem tickView_fset (f : Field) (v : Nat) (hf : f.key ∉ tickFields.map Field.key) : tickView (fset s f v) = tickView s :=
  tickView_of_regs rfl rfl fun _ hg => fget_fset_other s _ _ v fun e => hf (e ▸ List.mem_map_of_mem hg)

/-- A register above the Frame Sequencer's is none of these. -/
theorem notTick_of_beyond {f : Field} (h : 0x10064 * 32 ≤ f.key) : f.key ∉ tickFields.map Field.key := by
  intro hm
  obtain ⟨g, hg, he⟩ := List.mem_map.mp hm
  obtain ⟨hlow, -⟩ := tickFields_ofFrame g hg
  omega

theorem tickView_complete (c : HostCmd) (status result info : Nat) : tickView (complete s c status result info) = tickView s :=
  tickView_of_frameView (frameView_complete s c status result info)

/-- Fields of the configuration coming into force change clamp records and registers of their own. -/
theorem tickView_of_commitSide {s t : State} (h : CommitSide s t) (hregs : ∀ f ∈ tickFields, fget t f = fget s f) : tickView t = tickView s := by
  have hr : tickFields.map (fget t) = tickFields.map (fget s) := List.map_congr_left hregs
  have hnow : t.now = s.now := by rw [h]
  have hseq : t.seq = { s.seq with clampRecs := t.seq.clampRecs } := congrArg State.seq h
  rw [tickView, hnow, hseq, hr, tickView]

/-! ### The image and the configuration of a tick (R33, R445) -/

theorem tickFields_notApplied : ∀ f ∈ tickFields, NotAtRest f := by decide

@[simp] theorem tickView_applyTickFields : tickView (applyTickFields s) = tickView s :=
  tickView_of_commitSide (commitSide_applyTickFields s) fun f hf => fget_applyTickFields s (tickFields_notApplied f hf).1

@[simp] theorem tickView_applySwapFields : tickView (applySwapFields s) = tickView s :=
  tickView_of_commitSide (commitSide_applySwapFields s) fun f hf => by
    obtain ⟨happlied, hwait, hperiod, hbudget⟩ := tickFields_notApplied f hf
    exact fget_applySwapFields s happlied hwait hperiod hbudget

@[simp] theorem tickView_applyAtSwap : tickView (applyAtSwap s) = tickView s := by
  unfold applyAtSwap
  split <;> simp

@[simp] theorem tickView_putCommitted (vs : List Nat) : tickView (putCommitted s vs) = tickView s :=
  foldl_keeps tickView (fun t (x : Nat × Nat) => tickView_fset t _ x.2 (notTick_of_beyond (by rw [commit_key]; omega))) _ s

@[simp] theorem tickView_applyAtTick : tickView (applyAtTick s) = tickView s := by
  have hclamps : ∀ (t : State) cs, tickView { t with clamps := cs } = tickView t := fun _ _ => rfl
  unfold applyAtTick
  split
  · exact tickView_applyTickFields s
  · simp only [tickView_putCommitted, hclamps, tickView_applyTickFields]

@[simp] theorem tickView_showImage (i : Image) : tickView (showImage s i) = tickView s :=
  foldl_keeps tickView (fun t k => tickView_fset t _ _ (notTick_of_beyond (by simp only [Field.key, Fld.secAimg_DIGEST]; omega))) _ s

@[simp] theorem tickView_dropExpress (i : Image) : tickView (dropExpress s i) = tickView s := by
  unfold dropExpress
  exact foldl_keeps tickView (fun t (r : ExpressReq) => tickView_complete t r.cmd 7 0 (frameNo t)) _ _

@[simp] theorem tickView_swapTo (i : Image) : tickView (swapTo s i) = tickView s := by
  have hload : ∀ (t : State) (ls : List Nat), tickView (ls.foldl (fun s l => if physOf s l < 52 then loadImem s l (physOf s l) else s) t) = tickView t := fun t ls => by
    refine foldl_keeps tickView (fun u l => ?_) ls t
    split
    · exact tickView_of_frameView (frameView_loadImem u _ _)
    · rfl
  have hactive : ∀ t : State, tickView (modSeq t (fun q => { q with active := some i, pendingImg := none, swapped := true })) = tickView t := fun _ => rfl
  simp +decide only [swapTo, tickView_applyAtSwap, tickView_dropExpress, tickView_showImage, hload, tickView_fset, hactive]

@[simp] theorem tickView_swapAtTick : tickView (swapAtTick s) = tickView s := by
  unfold swapAtTick
  split
  · split <;> simp
  · rfl

/-! ### Units renewed (R26) -/

theorem mapFind_filter {α : Type} (m : SMap α) {p : Nat × α → Bool} {k : Nat} (hp : ∀ v, p (k, v) = true) : mapFind (m.filter p) k = mapFind m k := by
  induction m with
  | nil => rfl
  | cons e r ih =>
    obtain ⟨j, v⟩ := e
    by_cases hk : k = j
    · subst hk
      rw [List.filter_cons_of_pos (hp v)]
      simp [mapFind]
    · cases hpe : p (j, v)
      · rw [List.filter_cons_of_neg (by simp [hpe]), ih, mapFind, if_neg hk]
      · rw [List.filter_cons_of_pos hpe, mapFind, if_neg hk, ih, mapFind, if_neg hk]

/-- Of the registers, a fresh frame clears the arrival counters of the facets and counts discarded records. -/
theorem tickView_freshFrame : tickView (freshFrame s) = tickView s := by
  refine tickView_of_regs rfl rfl fun f hf => ?_
  have hlow := (tickFields_ofFrame f hf).1
  have hcount : f.key ≠ Fld.mrgCntDiscard_COUNT.key := by
    have hk : Fld.mrgCntDiscard_COUNT.key = (Fld.mrgCntDiscard_COUNT.addr) * 32 + Fld.mrgCntDiscard_COUNT.lo := rfl
    have ha : 0x10064 ≤ Fld.mrgCntDiscard_COUNT.addr := by decide
    omega
  have hbump : fget (bump s Fld.mrgCntDiscard_COUNT (treeRecords s)) f = fget s f := fget_fset_other s _ _ _ hcount
  rw [← hbump]
  refine congrArg (fun o => Option.getD o f.reset) (mapFind_filter _ fun v => ?_)
  have harr : ∀ n, (Fld.fmemArr_COUNT n 0).key = (0x10f3100 + n * 0x100000) * 32 := fun n => by simp only [Field.key, Fld.fmemArr_COUNT]; omega
  have hout : ∀ n ∈ List.range 52, ¬ (decide ((Fld.fmemArr_COUNT n 0).key ≤ f.key) && decide (f.key < (Fld.fmemArr_COUNT n 0).key + 64 * 128)) = true := fun n _ => by
    have := harr n
    simp only [Bool.and_eq_true, decide_eq_true_eq]
    omega
  simpa using List.any_eq_false.mpr hout

end Sys2Proof.Machine
end

section
/-! A frame begins at each source's tick (R18 to R22, R26). -/

namespace Sys2Proof.Machine

/-! ### A frame's start (R26, R52) -/

/-- The frame's own state as its tick sets it. -/
def frameBegun (s : State) (c : Nat) : State :=
  let f := nextFrame s
  let s := modSeq s (fun q => { q with
    cutoff := cutoffOf s, inFrame := true, lastTick := c, firstTick := false, tasks := [], winOpen := [], pmIn := 0, pmOut := 0, pmFail := 0, pmCycles := 0
    errRecs := [], hardDone := false, reported := false, swapped := false, repairFlag := false, synth := false, ran := true
    srcChanged := decide (srcOf (fget s Fld.fsqTickctl_SRC) ≠ q.src), src := srcOf (fget s Fld.fsqTickctl_SRC), expRuns := [], expAborted := [] })
  modPaging (fset s Fld.fsqFrame_FRAME f) (fun p => { p with retiredNow := 0, frameCe := [], pausedAt := [] })

/-- The units as a frame's start leaves them, and its slots latched. -/
def renewed (s : State) (f : Nat) : State := latch (keepManifests (freshFrame s) f) f

/-- The frame's tasks, its tick's time, and the pulses that announce it. -/
def announced (s : State) (c : Nat) : State :=
  let s := emit (modSeq s (fun q => { q with tasks := frameTasks s, tickTime := tickNs s c })) .tickOut
  if fon s Fld.chdTickctl_FOLLOW then s else sendTicks s (1000 * fget s Fld.fsqPeriod_PERIODUS)

theorem startFrame_eq (s : State) (c : Nat) :
    startFrame s c = announced (renewed (applyAtTick (swapAtTick (prologueMaps (repairTick (frameBegun s c))))) (nextFrame s)) c := by
  unfold startFrame announced renewed frameBegun
  rfl

variable {s : State}

theorem tickView_renewed (s : State) (f : Nat) : tickView (renewed s f) = tickView s := by
  rw [renewed, latch_side]
  exact tickView_freshFrame s

/-- No message, Merge job, stream or Update command is left over (R26). -/
theorem renewed_units (s : State) (f : Nat) :
    let t := renewed s f
    t.semMsgs = [] ∧ t.jobs = [] ∧ t.engines = [] ∧ t.updates = [] := by
  intro t
  have ht : t = renewed s f := rfl
  rw [ht, renewed, latch_side]
  exact ⟨rfl, rfl, rfl, rfl⟩

/-- Only messages have been sent since `s`. -/
def OnlySends (s t : State) : Prop := t = { s with outs := t.outs } ∧ s.outs ⊆ t.outs

theorem onlySends_sendTicks (s : State) (ns : Nat) : OnlySends s (sendTicks s ns) := by
  have h : ∀ (ps : List Nat) (t : State), OnlySends t (ps.foldl (fun s p => emit s (.control p 1 (ns % 2 ^ 32))) t) := fun ps => by
    induction ps with
    | nil => exact fun t => ⟨rfl, List.Subset.refl _⟩
    | cons p ps ih =>
      intro t
      obtain ⟨hrest, houts⟩ := ih (emit t (.control p 1 (ns % 2 ^ 32)))
      exact ⟨hrest.trans rfl, List.Subset.trans (List.subset_append_left _ _) houts⟩
  exact h _ s

theorem frameTasks_congr {s t : State} (h : t.seq.active = s.seq.active) : frameTasks t = frameTasks s := by
  rw [frameTasks, h, frameTasks]

/-- The announcement of a frame: its task records, its pulse, and nothing else of what its start has set. -/
theorem announced_effect (s : State) (c : Nat) :
    let t := announced s c
    tickView t = tickView s ∧ t.seq.tasks = frameTasks t ∧ (t.semMsgs = s.semMsgs ∧ t.jobs = s.jobs ∧ t.engines = s.engines ∧ t.updates = s.updates) ∧ ⟨s.now, .tickOut⟩ ∈ t.outs := by
  have hsends : OnlySends (emit (modSeq s (fun q => { q with tasks := frameTasks s, tickTime := tickNs s c })) .tickOut) (announced s c) := by
    unfold announced
    dsimp only
    split
    · exact ⟨rfl, List.Subset.refl _⟩
    · exact onlySends_sendTicks _ _
  obtain ⟨hsame, houts⟩ := hsends
  intro t
  have hpulse : ⟨s.now, .tickOut⟩ ∈ (announced s c).outs := houts (List.mem_append_right _ (List.mem_singleton_self _))
  refine ⟨?_, ?_, ?_, hpulse⟩ <;> rw [show t = _ from hsame]
  · rfl
  · exact (frameTasks_congr rfl).symm
  · exact ⟨rfl, rfl, rfl, rfl⟩

theorem nextFrame_lt (s : State) : nextFrame s < 2 ^ 32 := by
  unfold nextFrame
  split
  · exact Nat.mod_lt _ (by decide)
  · decide

/-- A frame started: its number and state, and the registers and the count of made ticks that it leaves. -/
theorem startFrame_effect (s : State) (c : Nat) :
    let t := startFrame s c
    BeginsFrame s t c ∧ t.seq.madeTicks = s.seq.madeTicks ∧ ∀ f ∈ tickFields, f.key ≠ Fld.fsqFrame_FRAME.key → fget t f = fget s f := by
  have hbefore : tickView (applyAtTick (swapAtTick (prologueMaps (repairTick (frameBegun s c))))) = tickView (frameBegun s c) := by
    rw [tickView_applyAtTick, tickView_swapAtTick, tickView_of_frameView (frameView_prologueMaps _), tickView_of_frameView (frameView_repairTick _)]
  rw [startFrame_eq]
  generalize applyAtTick (swapAtTick (prologueMaps (repairTick (frameBegun s c)))) = u at hbefore
  have hview := tickView_renewed u (nextFrame s)
  obtain ⟨hmsgs, hjobs, hengines, hupdates⟩ := renewed_units u (nextFrame s)
  generalize renewed u (nextFrame s) = v at hview hmsgs hjobs hengines hupdates
  obtain ⟨hsame, htasks, ⟨hmsgs', hjobs', hengines', hupdates'⟩, hpulse⟩ := announced_effect v c
  have hnow : v.now = s.now := congrArg TickView.now (hview.trans hbefore)
  have hfinal : tickView (announced v c) = tickView (frameBegun s c) := hsame.trans (hview.trans hbefore)
  rw [hnow] at hpulse
  generalize announced v c = t at *
  have hframe : fget t Fld.fsqFrame_FRAME = nextFrame s :=
    (fget_of_tickView hfinal (by decide)).trans ((fget_fset_same _ _ _).trans (Nat.mod_eq_of_lt (nextFrame_lt s)))
  refine ⟨⟨hframe, congrArg TickView.inFrame hfinal, congrArg TickView.lastTick hfinal, congrArg TickView.firstTick hfinal, congrArg TickView.reported hfinal,
    congrArg TickView.hardDone hfinal, congrArg TickView.winOpen hfinal, htasks, hmsgs'.trans hmsgs, hjobs'.trans hjobs, hengines'.trans hengines, hupdates'.trans hupdates, hpulse⟩,
    congrArg TickView.madeTicks hfinal, fun f hf hne => ?_⟩
  exact (fget_of_tickView hfinal hf).trans (fget_fset_other _ _ _ _ hne)

/-- With no report owed a tick begins the frame at once. -/
theorem beginFrame_reported (hclosed : s.seq.inFrame = true → s.seq.reported = true) (hrun : runOn s = true) (c : Nat) : beginFrame s c = startFrame s c := by
  have hclose : closeFrame s = s := by
    refine if_neg ?_
    cases hin : s.seq.inFrame
    · exact Bool.false_ne_true
    · rw [hclosed hin]
      exact Bool.false_ne_true
  unfold beginFrame
  dsimp only
  rw [hclose, if_pos hrun]

theorem beginFrame_effect (hclosed : s.seq.inFrame = true → s.seq.reported = true) (hrun : runOn s = true) (c : Nat) :
    let t := beginFrame s c
    BeginsFrame s t c ∧ t.seq.madeTicks = s.seq.madeTicks ∧ ∀ f ∈ tickFields, f.key ≠ Fld.fsqFrame_FRAME.key → fget t f = fget s f := by
  rw [beginFrame_reported hclosed hrun c]
  exact startFrame_effect s c

/-! ### The sources (R18, R20 to R22) -/

theorem runOn_of_ticking (h : ticking s = true) : runOn s = true := by
  simp only [ticking, Bool.and_eq_true] at h
  exact h.1.2

/-- What begins a frame after `u` begins it after `s`, where both count the same frames at the same cycle. -/
theorem beginsFrame_of_same {u t : State} {c : Nat} (h : BeginsFrame u t c) (hnow : u.now = s.now) (hran : u.seq.ran = s.seq.ran)
    (hframe : fget u Fld.fsqFrame_FRAME = fget s Fld.fsqFrame_FRAME) : BeginsFrame s t c := by
  have hnext : nextFrame u = nextFrame s := by rw [nextFrame, hran, hframe, nextFrame]
  unfold BeginsFrame at h ⊢
  rwa [hnext, hnow] at h

section
variable (htick : ticking s = true) (hclosed : s.seq.inFrame = true → s.seq.reported = true)
include htick hclosed

/-- The internal timer, or the one in place of PTM time. -/
theorem internalTimerTick_effect {due : Nat}
    (hdue : (s.seq.src = 0 ∧ due = (if s.seq.firstTick then s.now else s.seq.lastTick + period s))
      ∨ (s.seq.src = 2 ∧ fget s Fld.hifPtmstat_VALID = 0 ∧ due = (if s.seq.firstTick then s.seq.runAt else s.seq.lastTick) + period s))
    (hnow : due ≤ s.now) (hrun : s.seq.runAt < s.now) : ∃ t, execInternalTimerTick s = .next t ∧ BeginsFrame s t due := by
  have hcycle : (if s.seq.firstTick then (if s.seq.src = 2 then s.seq.runAt + period s else s.now) else s.seq.lastTick + period s) = due := by
    rcases hdue with ⟨hsrc, rfl⟩ | ⟨hsrc, -, rfl⟩
    · rw [if_neg (show ¬ s.seq.src = 2 by omega)]
    · rw [if_pos hsrc]
      split <;> rfl
  have hsource : (decide (s.seq.src = 0) || (decide (s.seq.src = 2) && !fon s Fld.hifPtmstat_VALID)) = true := by
    rcases hdue with ⟨hsrc, -⟩ | ⟨hsrc, hvalid, -⟩
    · rw [decide_eq_true hsrc, Bool.true_or]
    · rw [decide_eq_true hsrc, (fon_eq_false_iff s _).mpr hvalid, Bool.not_false, Bool.and_self, Bool.or_true]
  refine ⟨beginFrame s due, ?_, (beginFrame_effect hclosed (runOn_of_ticking htick) due).1⟩
  unfold execInternalTimerTick
  dsimp only
  rw [hcycle]
  exact whenever_true (by rw [htick, hsource, decide_eq_true hnow, decide_eq_true hrun]; rfl)

/-- An edge between the earliest and the latest cycle ticks. -/
theorem edgeArrives_timely (hsrc : s.seq.src = 1) (hearly : earliestTick s ≤ s.now) (hlate : s.now ≤ latestTick s) (n : Nat) :
    let t := edgeArrives s (n + 1)
    BeginsFrame s t s.now ∧ t.seq.madeTicks = 0 := by
  have hedge : edgeArrives s (n + 1) = beginFrame (modSeq s (fun q => { q with madeTicks := 0 })) s.now := by
    unfold edgeArrives
    rw [if_neg (by simp [htick, hsrc]), if_neg (by omega)]
    exact if_neg (by omega)
  obtain ⟨hbegins, hmade, -⟩ := beginFrame_effect (s := modSeq s (fun q => { q with madeTicks := 0 })) hclosed (runOn_of_ticking htick) s.now
  rw [hedge]
  exact ⟨beginsFrame_of_same hbegins rfl rfl rfl, hmade⟩

end

/-- The edge of TICK_IN at a Frame Sequencer that takes it: a placed edge is used up. -/
theorem execTickInEdge_due (htick : ticking s = true) (hsrc : s.seq.src = 1) (hfollow : fget s Fld.chdTickctl_FOLLOW = 0 ∨ ∃ c, s.seq.edgeAt = some c ∧ c ≤ s.now) :
    execTickInEdge s = .next (edgeArrives (if fon s Fld.chdTickctl_FOLLOW then modSeq s (fun q => { q with edgeAt := none }) else s) 5) := by
  refine whenever_true ?_
  rw [htick, decide_eq_true hsrc]
  rcases hfollow with h | ⟨c, hc, hle⟩
  · rw [(fon_eq_false_iff s _).mpr h]
    rfl
  · rw [hc]
    simp [hle]

theorem tickInEdge_timely (htick : ticking s = true) (hclosed : s.seq.inFrame = true → s.seq.reported = true) (hsrc : s.seq.src = 1)
    (hfollow : fget s Fld.chdTickctl_FOLLOW = 0 ∨ ∃ c, s.seq.edgeAt = some c ∧ c ≤ s.now) (hearly : earliestTick s ≤ s.now) (hlate : s.now ≤ latestTick s) :
    ∃ t, execTickInEdge s = .next t ∧ BeginsFrame s t s.now ∧ t.seq.madeTicks = 0 := by
  refine ⟨_, execTickInEdge_due htick hsrc hfollow, ?_⟩
  split
  · obtain ⟨hbegins, hmade⟩ := edgeArrives_timely (s := modSeq s (fun q => { q with edgeAt := none })) htick hclosed hsrc hearly hlate 4
    exact ⟨beginsFrame_of_same hbegins rfl rfl rfl, hmade⟩
  · exact edgeArrives_timely htick hclosed hsrc hearly hlate 4

/-- The earliest cycle of an external tick is not after the latest. -/
theorem earliest_le_latest (hsrc : s.seq.src = 1) : earliestTick s ≤ latestTick s := by
  unfold earliestTick latestTick
  have hnot : ¬ s.seq.src = 0 := by omega
  by_cases hfirst : s.seq.firstTick = true
  · rw [if_pos hfirst, if_pos hfirst]
    omega
  · rw [if_neg hfirst, if_neg hfirst]
    by_cases hchanged : s.seq.srcChanged = true
    · rw [if_pos (.inl hchanged), if_pos hchanged]
      omega
    · rw [if_neg (by simp [hchanged, hnot]), if_neg hchanged, if_neg hnot]
      omega

/-- An edge before the earliest cycle is ignored and counted. -/
theorem tickInEdge_early (htick : ticking s = true) (hsrc : s.seq.src = 1) (hfollow : fget s Fld.chdTickctl_FOLLOW = 0) (hearly : s.now < earliestTick s) :
    ∃ t, execTickInEdge s = .next t ∧ t.seq = s.seq ∧ fget t Fld.fsqCntEarly_COUNT = (fget s Fld.fsqCntEarly_COUNT + 1) % 2 ^ 32
      ∧ fget t Fld.fsqEvents_TICKEARLY = 1 ∧ fget t Fld.fsqFrame_FRAME = fget s Fld.fsqFrame_FRAME := by
  have hlate := earliest_le_latest hsrc
  have hfon : ¬ fon s Fld.chdTickctl_FOLLOW = true := by rw [(fon_eq_false_iff s _).mpr hfollow]; exact Bool.false_ne_true
  have hedge : edgeArrives s 5 = event s Fld.fsqEvents_TICKEARLY Fld.fsqCntEarly_COUNT := by
    unfold edgeArrives
    rw [if_neg (by simp [htick, hsrc]), if_neg (by omega)]
    exact if_pos hearly
  obtain ⟨hflag, hcount⟩ := fget_event s (f := Fld.fsqEvents_TICKEARLY) (c := Fld.fsqCntEarly_COUNT) rfl (by decide)
  refine ⟨_, execTickInEdge_due htick hsrc (.inl hfollow), ?_⟩
  rw [if_neg hfon, hedge]
  exact ⟨event_seq _ _ _, hcount, hflag, fget_event_other _ (by decide) (by decide)⟩

/-- The PTM-aligned timer ticks at its cycle and leaves the error to the grid point. -/
theorem ptmGridTick_effect (htick : ticking s = true) (hclosed : s.seq.inFrame = true → s.seq.reported = true) (hsrc : s.seq.src = 2)
    (hvalid : fget s Fld.hifPtmstat_VALID ≠ 0) (hdue : ptmDue s ≤ s.now) :
    ∃ t, execPtmGridTick (gridTarget s) s = .next t ∧ BeginsFrame s t (ptmDue s) ∧ fget t Fld.fsqPtmerr_ERRNS = ptmError s (ptmDue s) ∧ t.seq.madeTicks = 0 := by
  let u := modSeq (fset s Fld.fsqPtmerr_ERRNS (ptmError s (ptmDue s))) (fun q => { q with madeTicks := 0 })
  have hframe : fget u Fld.fsqFrame_FRAME = fget s Fld.fsqFrame_FRAME := fget_fset_other s _ _ _ (by decide)
  have hon : runOn u = true := by
    rw [← runOn_of_ticking htick]
    exact congrArg (fun n => decide (n ≠ 0)) (fget_fset_other s _ Fld.fsqCtl_RUN _ (by decide))
  have herror : ptmError s (ptmDue s) < 2 ^ 32 := by
    unfold ptmError
    omega
  obtain ⟨hbegins, hmade, hregs⟩ := beginFrame_effect (s := u) hclosed hon (ptmDue s)
  refine ⟨beginFrame u (ptmDue s), ?_, beginsFrame_of_same hbegins rfl rfl hframe, ?_, hmade⟩
  · exact whenever_true (by rw [decide_eq_true rfl, htick, decide_eq_true hsrc, (fon_iff s _).mpr hvalid, decide_eq_true hdue]; rfl)
  · rw [hregs _ (by decide) (by decide)]
    exact (fget_fset_same s _ _).trans (Nat.mod_eq_of_lt herror)

/-! ### A tick that the Frame Sequencer makes (R21, R22) -/

/-- A flag set by the hardware takes back no message. -/
theorem mem_outs_setFlag (s : State) (f : Field) {o : Out} (h : o ∈ s.outs) : o ∈ (setFlag s f).outs := by
  have hvec : ∀ (t : State) v, o ∈ t.outs → o ∈ (sendVec t v).outs := fun t v ht => by
    unfold sendVec
    split
    · exact ht
    · split
      · exact ht
      · exact List.mem_append_left _ ht
  have hsettle : ∀ t : State, o ∈ t.outs → o ∈ (settle s t).outs := fun t ht => by
    unfold settle
    split
    · exact hvec _ 1 ht
    · exact ht
  exact hsettle _ h

/-- A frame that has begun stays so under what a made tick records, and under messages sent. -/
theorem beginsFrame_congr {t u : State} {c : Nat} (h : BeginsFrame s t c) (hframe : fget u Fld.fsqFrame_FRAME = fget t Fld.fsqFrame_FRAME)
    (hseq : u.seq = { t.seq with synth := u.seq.synth, madeTicks := u.seq.madeTicks, src := u.seq.src, srcChanged := u.seq.srcChanged })
    (hunits : u.semMsgs = t.semMsgs ∧ u.jobs = t.jobs ∧ u.engines = t.engines ∧ u.updates = t.updates) (houts : t.outs ⊆ u.outs) : BeginsFrame s u c := by
  obtain ⟨hmsgs, hjobs, hengines, hupdates⟩ := hunits
  have htasks : frameTasks u = frameTasks t := frameTasks_congr (by rw [hseq])
  obtain ⟨hno, hin, hlast, hfirst, hrep, hdone, hwin, hrecs, hnomsg, hnojob, hnoengine, hnoupdate, hpulse⟩ := h
  exact ⟨hframe.trans hno, (congrArg Sequencer.inFrame hseq).trans hin, (congrArg Sequencer.lastTick hseq).trans hlast, (congrArg Sequencer.firstTick hseq).trans hfirst,
    (congrArg Sequencer.reported hseq).trans hrep, (congrArg Sequencer.hardDone hseq).trans hdone, (congrArg Sequencer.winOpen hseq).trans hwin,
    (congrArg Sequencer.tasks hseq).trans (hrecs.trans htasks.symm), hmsgs.trans hnomsg, hjobs.trans hnojob, hengines.trans hnoengine, hupdates.trans hnoupdate, houts hpulse⟩

/-- The made tick recorded, one of `n` in a row. -/
def madeTick (s : State) (n : Nat) : State := modSeq s (fun q => { q with synth := true, madeTicks := n })

/-- The source that falls back to the internal timer after the fourth made tick in a row. -/
def fallenBack (s : State) : State :=
  setFlag (modSeq (fset s Fld.fsqTickctl_SRC 0) (fun q => { q with src := 0, srcChanged := true, madeTicks := 0 })) Fld.fsqEvents_TICKLOST

theorem fallenBack_effect (s : State) :
    let t := fallenBack s
    t.seq = { s.seq with src := 0, srcChanged := true, madeTicks := 0 } ∧ fget t Fld.fsqTickctl_SRC = 0 ∧ fget t Fld.fsqEvents_TICKLOST = 1
      ∧ (∀ f : Field, f.key ≠ Fld.fsqTickctl_SRC.key → f.key ≠ Fld.fsqEvents_TICKLOST.key → fget t f = fget s f)
      ∧ (t.semMsgs = s.semMsgs ∧ t.jobs = s.jobs ∧ t.engines = s.engines ∧ t.updates = s.updates) ∧ s.outs ⊆ t.outs := by
  let u := modSeq (fset s Fld.fsqTickctl_SRC 0) (fun q => { q with src := 0, srcChanged := true, madeTicks := 0 })
  have hside : RegisterSide u (fallenBack s) := (registerSide_self u).setBits _ 1
  refine ⟨hside.seq, ?_, fget_setFlag_same u _ rfl, fun f hsrc hlost => ?_, ?_, fun o ho => mem_outs_setFlag u _ ho⟩
  · exact (fget_setBits_other u _ _ 1 (by decide)).trans (fget_fset_same s _ 0)
  · exact (fget_setBits_other u _ _ 1 hlost).trans (fget_fset_other s _ _ 0 hsrc)
  · rw [hside]
    exact ⟨rfl, rfl, rfl, rfl⟩

/-- A made tick: its frame begins at the latest cycle, it is counted, and the fourth in a row loses the source. -/
theorem makeTick_effect (hclosed : s.seq.inFrame = true → s.seq.reported = true) (hrun : runOn s = true) :
    let t := makeTick s
    BeginsFrame s t (latestTick s) ∧ t.seq.synth = true ∧ fget t Fld.fsqCntMissed_COUNT = (fget s Fld.fsqCntMissed_COUNT + 1) % 2 ^ 32
      ∧ (if s.seq.madeTicks < 3 then t.seq.madeTicks = s.seq.madeTicks + 1
         else t.seq.madeTicks = 0 ∧ t.seq.src = 0 ∧ fget t Fld.fsqTickctl_SRC = 0 ∧ fget t Fld.fsqEvents_TICKLOST = 1) := by
  let u := event s Fld.fsqEvents_TICKMISSED Fld.fsqCntMissed_COUNT
  have hseq : u.seq = s.seq := event_seq s _ _
  have hother : ∀ f : Field, f.key ≠ Fld.fsqEvents_TICKMISSED.key → f.key ≠ Fld.fsqCntMissed_COUNT.key → fget u f = fget s f := fun f h1 h2 => fget_event_other s h1 h2
  have hcount := (fget_event s (f := Fld.fsqEvents_TICKMISSED) (c := Fld.fsqCntMissed_COUNT) rfl (by decide)).2
  have hon : runOn u = true := by rw [← hrun, runOn, fon, hother _ (by decide) (by decide)]; rfl
  have hnow : u.now = s.now := ((registerSide_self s).event _ _).now
  obtain ⟨hbegins, -, hregs⟩ := beginFrame_effect (s := u) (by rw [hseq]; exact hclosed) hon (latestTick s)
  have hb : runOn (beginFrame u (latestTick s)) = true := by rw [← hon, runOn, fon, hregs _ (by decide) (by decide)]; rfl
  have hmissed := (hregs _ (show Fld.fsqCntMissed_COUNT ∈ tickFields by decide) (by decide)).trans hcount
  have hmake : makeTick s = tickLost (madeTick (beginFrame u (latestTick s)) (s.seq.madeTicks + 1)) := by
    unfold makeTick
    dsimp only
    exact if_pos hb
  rw [hmake]
  have hbegins' : BeginsFrame s (beginFrame u (latestTick s)) (latestTick s) :=
    beginsFrame_of_same hbegins hnow (by rw [hseq]) (hother _ (by decide) (by decide))
  generalize beginFrame u (latestTick s) = b at hbegins' hmissed
  have hmade : BeginsFrame s (madeTick b (s.seq.madeTicks + 1)) (latestTick s) := beginsFrame_congr hbegins' rfl rfl ⟨rfl, rfl, rfl, rfl⟩ (List.Subset.refl _)
  by_cases hfew : s.seq.madeTicks < 3
  · have hkeep : tickLost (madeTick b (s.seq.madeTicks + 1)) = madeTick b (s.seq.madeTicks + 1) := if_pos (show s.seq.madeTicks + 1 < 4 by omega)
    rw [hkeep]
    refine ⟨hmade, rfl, hmissed, ?_⟩
    rw [if_pos hfew]
    rfl
  · have hfall : tickLost (madeTick b (s.seq.madeTicks + 1)) = fallenBack (madeTick b (s.seq.madeTicks + 1)) := if_neg (show ¬ s.seq.madeTicks + 1 < 4 by omega)
    obtain ⟨hseq', hsrc, hlost, hregs', hunits, houts⟩ := fallenBack_effect (madeTick b (s.seq.madeTicks + 1))
    rw [hfall]
    refine ⟨beginsFrame_congr hmade (hregs' _ (by decide) (by decide)) (by rw [hseq']) hunits houts, by rw [hseq']; rfl, (hregs' _ (by decide) (by decide)).trans hmissed, ?_⟩
    rw [if_neg hfew]
    exact ⟨by rw [hseq'], by rw [hseq'], hsrc, hlost⟩

/-- Settles O39, source by source: the internal timer, an edge in time, an edge too early, the PTM-aligned timer, a tick that is made. -/
theorem ticksBeginFrames : Obligations.TicksBeginFrames := by
  unfold Obligations.TicksBeginFrames
  intro s htick hclosed
  refine ⟨fun due hdue hnow hrun => ?_, fun hsrc hfollow hearly hlate => ?_, fun hsrc hfollow hearly => ?_, fun hsrc hvalid hdue => ?_, fun hsrc hlate => ?_⟩
  · rw [exec_internalTimerTick]
    exact internalTimerTick_effect htick hclosed hdue hnow hrun
  · rw [exec_tickInEdge]
    exact tickInEdge_timely htick hclosed hsrc hfollow hearly hlate
  · rw [exec_tickInEdge]
    exact tickInEdge_early htick hsrc hfollow hearly
  · rw [exec_ptmGridTick]
    exact ptmGridTick_effect htick hclosed hsrc hvalid hdue
  · rw [exec_tickSynth]
    exact ⟨_, whenever_true (by rw [htick, decide_eq_true hsrc, decide_eq_true hlate]; rfl), makeTick_effect hclosed (runOn_of_ticking htick)⟩

end Sys2Proof.Machine
end

section
/-! Instructions of a context that may not issue (R54, R290, R308). -/

namespace Sys2Proof.Machine

section
variable {s : State} {w : Who} (h : canIssue s w = false)
include h

/-- An instruction that is held back for a bank, for room or for its queue has no effect either way. -/
theorem heldBack_stalls (p : Prop) [Decidable p] (srcs dsts : List Reg) (legal : Bool) (k : State → State) :
    (if p then .next s else issue s w srcs dsts legal k) = .next s :=
  ite_eq_left_iff.mpr fun _ => issue_stalls h

theorem issueWhen_stalls (srcs dsts : List Reg) (legal room : Bool) (k : State → State) : issueWhen s w srcs dsts legal room k = .next s :=
  heldBack_stalls h ..

theorem alu_stalls (o : AluArgs) (readsD unary : Bool) (occ lat : Nat) (f : Word → Word → Word → Word) : alu w o readsD unary occ lat f s = .next s :=
  issue_stalls h

theorem engine_stalls (q : EQueue) (op : State → EOp) (after : Nat) (srcs : List Reg) (d b : Reg) (legal : Bool) :
    engine w q op after srcs d b legal s = .next s :=
  heldBack_stalls h ..

end

/-- Settles O11, by how an instruction of the scalar core issues: as one that computes, as one that queues an engine command, as one that waits for room or for its banks, or at once. -/
theorem instructionsWaitForTheirContext : Obligations.InstructionsWaitForTheirContext := by
  unfold Obligations.InstructionsWaitForTheirContext
  intro i w s hw h
  cases i
  case add | sub | andI | orI | xorI | sll | srl | sra | slt | sltu | minS | maxS | minu | maxu | mul | mulh | mulhu | div | divu | rem | remu | clz | ctz | popc
      | fadd | fsub | fmul | fma | fdiv | fsqrt | fmin | fmax | feq | flt | fle | fcvtSW | fcvtWS | fabs | fneg =>
    cases hw
    exact alu_stalls h ..
  case tdmk | tdrl | strm | stq | lload | lpass | lsplit | ldrainDrain | ldrainFill | cmode | vadd | vmax | vfma | vexp | vrsq | vsig | vred | vcvt
      | mgpush | mgpushEnd | mgdrainOpen | mgdrainWait | pdqQuery | pdqPrefetch | upsign | upvote =>
    cases hw
    exact engine_stalls h ..
  case swait | swaitTry | spost | chpush | chcommit | chcommitRewind =>
    cases hw
    exact issueWhen_stalls h ..
  case ldW | stW | mfill | mcopy =>
    cases hw
    exact heldBack_stalls h ..
  case jal | jalr | br | dbnz | waitt | mfsr | mtsr | cwait | cwaitTry | creset | chpopAcquire | chpopRelease | chflush | fence | tend =>
    cases hw
    unfold exec
    exact issue_stalls h
  all_goals cases hw

end Sys2Proof.Machine
end

section
/-! The Compactor of a facet number beyond the part's 48 (R8, R105, Table 04-5). -/

namespace Sys2Proof.Machine

/-- A field as a command leaves it, where the command answers a next state. -/
def fieldAfter (r : Res) (f : Field) : Option Nat :=
  match r with
  | .next t => some (fget t f)
  | _ => none

theorem fget_of_fieldAfter {r : Res} {t : State} {f : Field} {v : Nat} (hr : r = .next t) (h : fieldAfter r f = some v) : fget t f = v := by
  rw [hr] at h
  exact Option.some.inj h

/-- A logical facet past the 48 of the part: the word of RPM_FMAP that its number leads to is CMP_STATUS of physical facet 0. -/
def strayFacet : Nat := ((Fld.cmpStatus_PLAST 0).addr - (Fld.rpmFmap_PFACET 0).addr) / 4

/-- An LLOAD of one tile that has started. -/
def strayLload : ECmd := { newCmd 0 .lat (.lload 1 128 0 false) 0 0#5 0#5 0 0 with started := some 0 }

/-- Its span: one group with one pass, still to be loaded. -/
def straySpan : Span :=
  { newSpan 0 1 128 0 false with groups := [⟨0, 1, 1⟩], todo := [(0, 0)], passes := 1, chosen := true }

/-- That facet runs the LLOAD, its group stands in bank 0, and its word of RPM_FMAP reads physical facet 0. -/
def strayState : State :=
  { State.reset with
    regs := [((Fld.rpmFmap_PFACET strayFacet).key, 0)]
    facets := [(strayFacet, { Facet.idle with
      ctxA := { Ctx.idle with task := some 1, cmds := [strayLload] }
      latA := { Lat.empty with span := some straySpan, banks := [⟨0, 0, 0, []⟩] } })] }

/-- P_LAST is written before the span is counted, and is here the map: the span counts for physical facet 1. -/
theorem strayState_span : fieldAfter (exec (.stationaryLoad ⟨strayFacet, 0⟩) strayState) (Fld.cmpCntSpan_COUNT 0) = some 0 := by decide

/-- Refutes O26, in its last clause: the statement takes every facet number, and for one beyond the part's 48 a load that shows P_LAST changes the facet's map, so that CMP_CNT_SPAN of the
facet it was mapped to does not count. -/
theorem not_compactorChoosesAndLoads : ¬ Obligations.CompactorChoosesAndLoads := by
  unfold Obligations.CompactorChoosesAndLoads
  intro h
  obtain ⟨-, hload⟩ := h strayState ⟨strayFacet, 0⟩ straySpan
  obtain ⟨t, ht, -, -, -, -, -, hcount⟩ := hload 0 0 0 strayLload (by decide) rfl (by decide)
  have hmap : physOf strayState strayFacet = 0 := by decide
  have hbefore : fget strayState (Fld.cmpCntSpan_COUNT 0) = 0 := by decide
  rw [hmap, fget_of_fieldAfter ht strayState_span, hbefore] at hcount
  exact absurd hcount (by decide)

end Sys2Proof.Machine
end

section
/-! A state whose map register holds more than the six bits of its field (R71, R461, R462). -/

namespace Sys2Proof.Machine

/-- A physical facet number past the 52 of the part: the word of RPM_FSTATE that it leads to is FMEM_CNT_UE of physical facet 0. -/
def wideFacet : Nat := ((Fld.fmemCntUe_COUNT 0).addr - (Fld.rpmFstate_STATE 0).addr) / 4

/-- The task that runs on logical facet 1. -/
def wideTask : TaskEntry :=
  { lf := 1, id := 1, kind := 0, flags := 0, release := 0, wcl := 0, entry := 0, wdog := 0, slotFirst := 0, slotCount := 0, xwcl := 0 }

/-- Logical facet 1 is mapped to that number and its swap waits for its task to end; quadrant 0 has no spare. -/
def wideState : State :=
  { State.reset with
    regs := [((Fld.rpmFmap_PFACET 0).key, 0), ((Fld.rpmFmap_PFACET 1).key, wideFacet)] ++ (List.range 13).map (fun f => ((Fld.rpmFstate_STATE f).key, 0))
    seq := { Sequencer.reset with tasks := [⟨wideTask, .running, 0, 0, 0, 0⟩] }
    facets := [(1, { Facet.idle with ctxA := { Ctx.idle with task := some 1 } })]
    repair := { Repair.reset with deferredFacets := [wideFacet] }
    power := { Power.reset with phase := .running } }

/-- The abort starts the swap, which finds no spare and retires the mapped facet: STATE 4 goes where the counter stands. -/
theorem wideState_count : fieldAfter (exec (.fmemUe 0 0 (some ⟨1, 0⟩)) wideState) (Fld.fmemCntUe_COUNT 0) = some 4 := by decide

/-- Refutes O50, in its clause on facet memory: the statement takes every state, and in one whose RPM_FMAP holds a number wider than its field the retirement that an abort sets off
overwrites the counter that the error has just advanced. -/
theorem not_errorsAreCountedAndContained : ¬ Obligations.ErrorsAreCountedAndContained := by
  unfold Obligations.ErrorsAreCountedAndContained
  intro h
  obtain ⟨-, -, -, -, -, hfmem, -⟩ := h wideState (by decide)
  obtain ⟨t, ht, -, hcount, -⟩ := hfmem 0 0 ⟨1, 0⟩ (by decide) (by decide)
  have hbefore : fget wideState (Fld.fmemCntUe_COUNT 0) = 0 := by decide
  rw [Counts, fget_of_fieldAfter ht wideState_count, hbefore] at hcount
  exact absurd hcount (by decide)

end Sys2Proof.Machine
end

section
/-! The Compactor's choice of a gather factor (R113, R114). -/

namespace Sys2Proof.Machine

/-! ### The candidates and which of them fit -/

theorem mem_candidates_iff {n gmax g : Nat} :
    g ∈ candidates n gmax ↔ g = 1 ∨ ((g = 2 ∨ g = 4 ∨ g = 8) ∧ g ≤ n ∧ g ≤ gmax) := by
  simp only [candidates, List.mem_filter, List.mem_cons, List.not_mem_nil, or_false, Bool.or_eq_true, Bool.and_eq_true, decide_eq_true_eq]
  omega

/-- R114 for each factor but 1, which always fits. -/
theorem fits_iff {tiles : List TileBytes} {g : Nat} :
    fits tiles g = true ↔ g = 1 ∨ ∀ x ∈ groupsOf tiles g, (x.map fitLength).sum ≤ 32768 := by
  simp only [fits, groupFits, Bool.or_eq_true, decide_eq_true_eq, List.all_eq_true]

@[simp] theorem fits_one (tiles : List TileBytes) : fits tiles 1 = true := fits_iff.mpr (.inl rfl)

/-- What the Compactor chooses from (R113). -/
def fittingCandidates (tiles : List TileBytes) (n gmax : Nat) : List Nat := (candidates n gmax).filter (fits tiles)

theorem mem_fittingCandidates_iff {tiles : List TileBytes} {n gmax g : Nat} :
    g ∈ fittingCandidates tiles n gmax ↔ g ∈ candidates n gmax ∧ fits tiles g = true := List.mem_filter

/-- 1 heads the list, so that the fold of `chooseG` may start from it. -/
theorem fittingCandidates_eq_one_cons (tiles : List TileBytes) (n gmax : Nat) :
    ∃ rest, fittingCandidates tiles n gmax = 1 :: rest :=
  ⟨_, List.filter_cons_of_pos (fits_one tiles)⟩

/-- They stand in rising order, so that the first of several is the smallest. -/
theorem sortedLT_fittingCandidates (tiles : List TileBytes) (n gmax : Nat) : (fittingCandidates tiles n gmax).SortedLT := by
  have hall : [1, 2, 4, 8].Pairwise (· < ·) := by decide
  exact ((hall.filter _).filter _).sortedLT

/-! ### The choice is the list's first minimum -/

/-- In a strictly rising list the earlier of two elements is the smaller. -/
theorem le_of_idxOf_le {l : List Nat} (hl : l.SortedLT) {a b : Nat} (ha : a ∈ l) (hb : b ∈ l) (h : l.idxOf a ≤ l.idxOf b) : a ≤ b := by
  have hget := hl.getElem_le_getElem_iff (hi := List.idxOf_lt_length_of_mem ha) (hj := List.idxOf_lt_length_of_mem hb)
  simpa using hget.mpr h

/-- The fold of `chooseG` is that of `List.argmin`, which takes the first of the elements with the least value. -/
theorem chooseG_mem_argmin (tiles : List TileBytes) (n gmax : Nat) :
    chooseG tiles n gmax ∈ (fittingCandidates tiles n gmax).argmin (passesAt tiles) := by
  obtain ⟨rest, hrest⟩ := fittingCandidates_eq_one_cons tiles n gmax
  have hchoose : chooseG tiles n gmax = (fittingCandidates tiles n gmax).foldl (fun best g => if passesAt tiles g < passesAt tiles best then g else best) 1 := rfl
  rw [hchoose, hrest, List.foldl_cons, ite_self]
  exact List.foldl_hom some (fun best g => (apply_ite some _ _ _).symm)

theorem chooseG_mem_fittingCandidates (tiles : List TileBytes) (n gmax : Nat) : chooseG tiles n gmax ∈ fittingCandidates tiles n gmax :=
  List.argmin_mem (chooseG_mem_argmin tiles n gmax)

/-- Settles O25: the choice is a fitting candidate, the first with the fewest passes, and the candidates rise. -/
theorem chosenFactorHasFewestPasses : Obligations.ChosenFactorHasFewestPasses := by
  unfold Obligations.ChosenFactorHasFewestPasses
  intro tiles n gmax
  have hmin := chooseG_mem_argmin tiles n gmax
  have hmem := chooseG_mem_fittingCandidates tiles n gmax
  refine ⟨?_, fun k hk hfit => ?_⟩
  · obtain ⟨hcand, hfit⟩ := mem_fittingCandidates_iff.mp hmem
    rcases mem_candidates_iff.mp hcand with hone | ⟨hpow, hn, hgmax⟩
    · exact .inl hone
    · exact (fits_iff.mp hfit).imp_right fun hsum => ⟨hpow, hn, hgmax, hsum⟩
  · have hk : k ∈ fittingCandidates tiles n gmax := mem_fittingCandidates_iff.mpr ⟨hk, hfit⟩
    refine ⟨List.le_of_mem_argmin hk hmin, fun htie => ?_⟩
    exact le_of_idxOf_le (sortedLT_fittingCandidates tiles n gmax) hmem hk (List.index_of_argmin hmin hk htie.le)

end Sys2Proof.Machine
end

section
/-! What an access of the State Store changes beside its bytes (R183 to R187, R191). -/

namespace Sys2Proof.Machine

variable (s : State)

/-- Line and link counters stand from STS_CNT_LINES on, whatever unit they count for. -/
theorem fget_serveLines_below (unit : Option Nat) (isWrite : Bool) (lines : List Nat) {g : Field} (h : g.key < (Fld.stsCntLines_COUNT 0).key) :
    fget (serveLines s unit isWrite lines) g = fget s g := by
  have hlines : ∀ (t : State) q n, fget (bump t (Fld.stsCntLines_COUNT q) n) g = fget t g := fun t q n =>
    fget_fset_other _ _ _ _ (by simp only [Field.key, Fld.stsCntLines_COUNT] at h ⊢; omega)
  have hlinks : ∀ (t : State) u n, fget (bump t (Fld.stsCntXq_COUNT u) n) g = fget t g := fun t u n =>
    fget_fset_other _ _ _ _ (by simp only [Field.key, Fld.stsCntLines_COUNT, Fld.stsCntXq_COUNT] at h ⊢; omega)
  refine foldl_keeps (fget · g) (fun t q => ?_) _ s
  dsimp only
  split <;> split_ifs <;> simp only [hlines, hlinks]

/-- Beside registers, serving lines changes nothing. -/
theorem serveLines_side (unit : Option Nat) (isWrite : Bool) (lines : List Nat) :
    serveLines s unit isWrite lines = { s with regs := (serveLines s unit isWrite lines).regs } := by
  have hsame : { serveLines s unit isWrite lines with regs := [] } = { s with regs := [] } := by
    refine foldl_keeps (fun t : State => { t with regs := [] }) (fun t q => ?_) _ s
    dsimp only
    split <;> split_ifs <;> rfl
  exact congrArg (fun t : State => { t with regs := (serveLines s unit isWrite lines).regs }) hsame

theorem healWords_side (whole : Nat → Bool) : healWords s whole = { s with paging := (healWords s whole).paging } := by
  unfold healWords
  split <;> rfl

/-- A contiguous write: its bytes, the counters, and the words that hold no error any more. -/
theorem stsWrite_side (unit : Option Nat) (a : Nat) (bs : List Byte) :
    stsWrite s unit a bs = { s with sts := memWrite s.sts a bs, regs := (stsWrite s unit a bs).regs, paging := (stsWrite s unit a bs).paging } := by
  rw [stsWrite, countRange, serveLines_side, healWords_side]

theorem fget_stsWrite_below (unit : Option Nat) (a : Nat) (bs : List Byte) {g : Field} (h : g.key < (Fld.stsCntLines_COUNT 0).key) :
    fget (stsWrite s unit a bs) g = fget s g := by
  rw [stsWrite, countRange, fget_serveLines_below _ _ _ _ h, healWords_side]
  rfl

end Sys2Proof.Machine
end

section
/-! Results of a Merge job and its end (R138, R142, R335). -/

namespace Sys2Proof.Machine

theorem exec_mergeResultWrite (n : Nat) (s : State) : exec (.mergeResultWrite n) s = execMergeResultWrite n s := by rfl
theorem exec_mergeJobComplete (n : Nat) (s : State) : exec (.mergeJobComplete n) s = execMergeJobComplete n s := by rfl

theorem mapFind_mapDel_same {α : Type} (m : SMap α) (k : Nat) : mapFind (mapDel m k) k = none := by
  induction m with
  | nil => rfl
  | cons e r ih =>
    obtain ⟨k', v⟩ := e
    by_cases h : k' = k
    · simpa [mapDel, h] using ih
    · have hk : k ≠ k' := fun e => h e.symm
      simpa [mapDel, h, mapFind, hk] using ih

theorem fget_bump_same (s : State) {f : Field} (n : Nat) : fget (bump s f n) f = (fget s f + n) % 2 ^ f.width := fget_fset_same s f _

variable {s : State} {n : Nat} {j : Job}

/-- A job once its due result has been written. -/
def Job.wrote (j : Job) (r : Running) : Job :=
  { j with
    out := j.out.drop 1, written := j.written + 1
    offset := if j.indexed then j.offset else (resultBytes j r).2 + (resultBytes j r).1.length }

/-- The bytes of a result and their place, part by part. -/
theorem resultBytes_eq (j : Job) (r : Running) :
    resultBytes j r = (if j.indexed then resultPayload j r else resultHead j r ++ resultPayload j r, if j.indexed then r.key * j.outStride else j.offset) := by
  unfold resultBytes
  split <;> rfl

/-- A result beyond the output range is discarded (R138). -/
theorem execMergeResultWrite_discards {r : Running} (hj : mapFind s.jobs n = some j) (hr : resultDue s j = some r)
    (hlong : Td.rangeLen j.td < (resultBytes j r).2 + (resultBytes j r).1.length) :
    execMergeResultWrite n s =
      .next (bump { s with jobs := mapPut s.jobs n { j with out := j.out.drop 1, dropped := j.dropped + 1 } } Fld.mrgCntOutdrop_COUNT 1) := by
  simp only [execMergeResultWrite, hj, hr, if_pos hlong]

/-- A result within an output range of the State Store is written there by the stream engine of the opener's facet (R138). -/
theorem execMergeResultWrite_stores {r : Running} (hj : mapFind s.jobs n = some j) (hr : resultDue s j = some r) (hkind : Td.kind j.td = 0) (hspace : Td.space j.td = 1)
    (hfits : (resultBytes j r).2 + (resultBytes j r).1.length ≤ Td.rangeLen j.td) :
    execMergeResultWrite n s =
      .next (stsWrite (bump { s with jobs := mapPut s.jobs n (j.wrote r) } Fld.mrgCntOut_COUNT 1) (some (quadOf j.lf))
        (Td.rangeBase j.td + (resultBytes j r).2) (resultBytes j r).1) := by
  have htakes : ∀ a k, tdTakes s ⟨j.lf, j.ctx⟩ j.td a k = true := fun a k => by simp [tdTakes, hkind, hspace]
  simp only [execMergeResultWrite, hj, hr, if_neg (Nat.not_lt.mpr hfits)]
  rw [whenever_true (htakes _ _)]
  simp [tdPut, hkind, hspace, Job.wrote]

/-- A job that feeds no other and has nothing left completes; one without its opener is free (R142, R335). -/
theorem execMergeJobComplete_over (hj : mapFind s.jobs n = some j) (hended : j.allEnded = true) (hrecs : j.records = 0) (hrun : j.running = none) (hout : j.out = [])
    (hclosing : j.closing = false) (hcomplete : j.complete = false) (hfed : j.fed = []) :
    execMergeJobComplete n s = .next (if j.orphan then freeJob s n else { s with jobs := mapPut s.jobs n { j with complete := true } }) := by
  have hends : resultEnds s j false = s := by rw [resultEnds, hfed]; rfl
  have hsame : { j with complete := true, fed := [] } = { j with complete := true } := by rw [← hfed]
  simp only [execMergeJobComplete, hj, hends, hsame]
  exact whenever_true (by simp [hended, hrecs, hrun, hout, hclosing, hcomplete])

/-- Settles O29: the result's bytes in the State Store with the counter of R138, the discarded result, and the end of the job. -/
theorem mergeResultsAndEnd : Obligations.MergeResultsAndEnd := by
  unfold Obligations.MergeResultsAndEnd
  intro s n j hj
  rw [exec_mergeResultWrite, exec_mergeJobComplete]
  refine ⟨fun r hr hkind hspace => ?_, fun hended hrecs hrun hout hclosing hcomplete hfed => ?_⟩
  · have hbytes := resultBytes_eq j r
    dsimp only
    generalize hbs : (if j.indexed then resultPayload j r else resultHead j r ++ resultPayload j r) = bs at hbytes ⊢
    generalize hoff : (if j.indexed then r.key * j.outStride else j.offset) = off at hbytes ⊢
    refine ⟨fun hfits => ⟨_, execMergeResultWrite_stores hj hr hkind hspace (by rwa [hbytes]), ?_⟩, fun hlong => ⟨_, execMergeResultWrite_discards hj hr (by rwa [hbytes]), ?_⟩⟩
    · rw [fget_stsWrite_below _ _ _ _ (by decide), fget_bump_same, stsWrite_side, Job.wrote, hbytes]
      exact ⟨rfl, mapFind_mapPut_same _ _ _, rfl, rfl⟩
    · exact ⟨⟨rfl, rfl, rfl, rfl, rfl, rfl⟩, mapFind_mapPut_same _ _ _, fget_bump_same _ 1⟩
  · refine ⟨_, execMergeJobComplete_over hj hended hrecs hrun hout hclosing hcomplete hfed, ?_⟩
    cases j.orphan with
    | true => exact ⟨rfl, mapFind_mapDel_same _ _⟩
    | false => exact ⟨rfl, mapFind_mapPut_same _ _ _⟩

end Sys2Proof.Machine
end

section
/-! A query of a facet number beyond the part's 48 (R8, R150, R175). -/

namespace Sys2Proof.Machine

/-- A logical facet past the 48 of the part: the word of RPM_FMAP that its number leads to is arrival counter 0 of physical facet 0. -/
def strayQueryFacet : Nat := ((Fld.fmemArr_COUNT 0 0).addr - (Fld.rpmFmap_PFACET 0).addr) / 4

/-- A query of that facet whose list goes to address 0 and names arrival counter 0: flag bit 1 of its block. -/
def strayQuery : PredQuery := ⟨strayQueryFacet, 0, 1, 7, List.replicate 13 0#8 ++ [2#8] ++ List.replicate 18 0#8⟩

/-- The list of neuron 0 alone, of a set of 128. -/
def strayQueryList : List Byte := listHead strayQuery.block 128 [0] ++ [0].flatMap (leBytes 2)

/-- The query's command, with that list worked out. -/
def strayQueryCmd : ECmd := { newCmd 7 .prd (.query 0#32) 0 0#5 0#5 0 0 with started := some 0, image := strayQueryList }

/-- That facet's word of RPM_FMAP reads physical facet 0, and the Predictor serves the query. -/
def strayQueryState : State :=
  { State.reset with
    regs := [((Fld.rpmFmap_PFACET strayQueryFacet).key, 0)]
    facets := [(strayQueryFacet, { Facet.idle with ctxA := { Ctx.idle with task := some 1, cmds := [strayQueryCmd] } })]
    predictor := { Predictor.reset with queue := [strayQuery], running := some .query } }

/-- A byte of facet memory as a command leaves it, where the command answers a next state. -/
def fmemAfter (r : Res) (a : Nat) : Option Byte :=
  match r with
  | .next t => some (memRead t.fmem a)
  | _ => none

theorem memRead_of_fmemAfter {r : Res} {t : State} {a : Nat} {b : Byte} (hr : r = .next t) (h : fmemAfter r a = some b) : memRead t.fmem a = b := by
  rw [hr] at h
  exact Option.some.inj h

set_option maxRecDepth 2000 in
/-- The counter advances by the 48 bytes of the head before the list is written, and is here the map: the list goes to physical facet 48. -/
theorem strayQueryState_fmem : fmemAfter (exec .predictorQueryService strayQueryState) (fbase 48) = some 1#8 := by decide

/-- Refutes O30, in its last clause: the statement takes every facet number, and for one beyond the part's 48 the arrival counter that the head advances is the facet's own map, so that the
list is written in another facet than the one that the query was mapped to. -/
theorem not_predictorLoadsAndServes : ¬ Obligations.PredictorLoadsAndServes := by
  unfold Obligations.PredictorLoadsAndServes
  intro h
  obtain ⟨-, hquery⟩ := h strayQueryState
  obtain ⟨-, hserve⟩ := hquery strayQuery [] rfl (by decide) rfl (by decide)
  obtain ⟨t, ht, -, -, -, hframe, -⟩ := hserve strayQueryCmd rfl (by decide) (by decide)
  have hmap : physOf strayQueryState strayQuery.lf = 0 := by decide
  have hbeyond : fbase 0 + qDest strayQuery.block + strayQueryCmd.image.length ≤ fbase 48 := by decide
  rw [hmap] at hframe
  have hkept : memRead t.fmem (fbase 48) = 0#8 := hframe _ (.inr hbeyond)
  rw [memRead_of_fmemAfter ht strayQueryState_fmem] at hkept
  exact absurd hkept (by decide)

end Sys2Proof.Machine
end

section
/-! Every command, and so every step, keeps the memories canonical (R160, R189, R220). -/

namespace Sys2Proof.Machine

/-- Each command keeps the queue, the clock and canonical memories, by the law of its own meaning. -/
theorem exec_held {p : List Instr} {n : Nat} {b : Bool} (c : Instr) (s : State) (hs : Held p n b s) : HeldR p n b (exec c s) := by
  cases c with
  | internalTimerTick => exact execInternalTimerTick_held s hs
  | tickInEdge => exact execTickInEdge_held s hs
  | ptmGridTick point => exact execPtmGridTick_held point s hs
  | tickSynth => exact execTickSynth_held s hs
  | fsqTickctlWrite src => exact execFsqTickctlWrite_held src s hs
  | runStart => exact execRunStart_held s hs
  | runStop => exact execRunStop_held s hs
  | fsqSwapReq => exact execFsqSwapReq_held s hs
  | fsqSwapCancel => exact execFsqSwapCancel_held s hs
  | loadImage qp => exact execLoadImage_held qp s hs
  | admissionEnd => exact execAdmissionEnd_held s hs
  | manifestCmd qp => exact execManifestCmd_held qp s hs
  | manifestFetchEnd fetched => exact execManifestFetchEnd_held fetched s hs
  | expressRequest qp request => exact execExpressRequest_held qp request s hs
  | expressDispatch task => exact execExpressDispatch_held task s hs
  | taskRelease task => exact execTaskRelease_held task s hs
  | stallWatchdog w => exact execStallWatchdog_held w s hs
  | hardLimit => exact execHardLimit_held s hs
  | frameReport => exact execFrameReport_held s hs
  | fsqRptTailWrite tail => exact execFsqRptTailWrite_held tail s hs
  | fsqRptRingConfig reg value => exact execFsqRptRingConfig_held reg value s hs
  | hostRegisterWrite addr size value => exact execHostRegisterWrite_held addr size value s hs
  | bar0AccessError bar isWrite addr size => exact execBar0AccessError_held bar isWrite addr size s hs
  | illegalInstruction w word => exact execIllegalInstruction_held w word s hs
  | add w o => exact execAdd_held w o s hs
  | sub w o => exact execSub_held w o s hs
  | andI w o => exact execAndI_held w o s hs
  | orI w o => exact execOrI_held w o s hs
  | xorI w o => exact execXorI_held w o s hs
  | sll w o => exact execSll_held w o s hs
  | srl w o => exact execSrl_held w o s hs
  | sra w o => exact execSra_held w o s hs
  | slt w o => exact execSlt_held w o s hs
  | sltu w o => exact execSltu_held w o s hs
  | minS w o => exact execMinS_held w o s hs
  | maxS w o => exact execMaxS_held w o s hs
  | minu w o => exact execMinu_held w o s hs
  | maxu w o => exact execMaxu_held w o s hs
  | mul w o => exact execMul_held w o s hs
  | mulh w o => exact execMulh_held w o s hs
  | mulhu w o => exact execMulhu_held w o s hs
  | div w o => exact execDiv_held w o s hs
  | divu w o => exact execDivu_held w o s hs
  | rem w o => exact execRem_held w o s hs
  | remu w o => exact execRemu_held w o s hs
  | clz w o => exact execClz_held w o s hs
  | ctz w o => exact execCtz_held w o s hs
  | popc w o => exact execPopc_held w o s hs
  | fadd w o => exact execFadd_held w o s hs
  | fsub w o => exact execFsub_held w o s hs
  | fmul w o => exact execFmul_held w o s hs
  | fma w o => exact execFma_held w o s hs
  | fdiv w o => exact execFdiv_held w o s hs
  | fsqrt w o => exact execFsqrt_held w o s hs
  | fmin w o => exact execFmin_held w o s hs
  | fmax w o => exact execFmax_held w o s hs
  | feq w o => exact execFeq_held w o s hs
  | flt w o => exact execFlt_held w o s hs
  | fle w o => exact execFle_held w o s hs
  | fcvtSW w o => exact execFcvtSW_held w o s hs
  | fcvtWS w o => exact execFcvtWS_held w o s hs
  | fabs w o => exact execFabs_held w o s hs
  | fneg w o => exact execFneg_held w o s hs
  | jal w d imm => exact execJal_held w d imm s hs
  | jalr w d a imm => exact execJalr_held w d a imm s hs
  | br w cond a b imm => exact execBr_held w cond a b imm s hs
  | dbnz w d imm => exact execDbnz_held w d imm s hs
  | waitt w a imm => exact execWaitt_held w a imm s hs
  | waittTargetReached w => exact execWaittTargetReached_held w s hs
  | mfsr w d n => exact execMfsr_held w d n s hs
  | mtsr w a n => exact execMtsr_held w a n s hs
  | ldW w d a imm => exact execLdW_held w d a imm s hs
  | stW w a b imm => exact execStW_held w a b imm s hs
  | mfill w a b imm => exact execMfill_held w a b imm s hs
  | mcopy w a b imm => exact execMcopy_held w a b imm s hs
  | fillCopyComplete w => exact execFillCopyComplete_held w s hs
  | swait w d a b imm => exact execSwait_held w d a b imm s hs
  | swaitTry w d a b imm => exact execSwaitTry_held w d a b imm s hs
  | spost w a b imm nofence => exact execSpost_held w a b imm nofence s hs
  | semMessageApply sem => exact execSemMessageApply_held sem s hs
  | swaitGrant w => exact execSwaitGrant_held w s hs
  | cwait w d a b ctr => exact execCwait_held w d a b ctr s hs
  | cwaitTry w d a b ctr => exact execCwaitTry_held w d a b ctr s hs
  | creset w ctr => exact execCreset_held w ctr s hs
  | cwaitSatisfied w => exact execCwaitSatisfied_held w s hs
  | chpush w d ch => exact execChpush_held w d ch s hs
  | chpushGrant w => exact execChpushGrant_held w s hs
  | chcommit w a ch => exact execChcommit_held w a ch s hs
  | chcommitRewind w ch => exact execChcommitRewind_held w ch s hs
  | commitArrival ch => exact execCommitArrival_held ch s hs
  | packetVisible ch => exact execPacketVisible_held ch s hs
  | chpopAcquire w d b ch => exact execChpopAcquire_held w d b ch s hs
  | packetAcquired w => exact execPacketAcquired_held w s hs
  | chpopRelease w ch => exact execChpopRelease_held w ch s hs
  | chflush w ch => exact execChflush_held w ch s hs
  | deferredEmptyPost ch => exact execDeferredEmptyPost_held ch s hs
  | channelRecordRewrite ch => exact execChannelRecordRewrite_held ch s hs
  | fence w => exact execFence_held w s hs
  | fenceComplete w => exact execFenceComplete_held w s hs
  | tend w => exact execTend_held w s hs
  | tendComplete w => exact execTendComplete_held w s hs
  | tdmk w d a handle off fromSts after => exact execTdmk_held w d a handle off fromSts after s hs
  | tdrl w handle after => exact execTdrl_held w handle after s hs
  | strm w o after => exact execStrm_held w o after s hs
  | stq w d handle wait qeng walk after => exact execStq_held w d handle wait qeng walk after s hs
  | lload w n kp fmt hi after => exact execLload_held w n kp fmt hi after s hs
  | lpass w a b accum afmt np after => exact execLpass_held w a b accum afmt np after s hs
  | lsplit w after => exact execLsplit_held w after s hs
  | ldrainDrain w d a b rows conv after => exact execLdrainDrain_held w d a b rows conv after s hs
  | ldrainFill w a b rows conv after => exact execLdrainFill_held w a b rows conv after s hs
  | cmode w gmax after => exact execCmode_held w gmax after s hs
  | vadd w v => exact execVadd_held w v s hs
  | vmax w v => exact execVmax_held w v s hs
  | vfma w v => exact execVfma_held w v s hs
  | vexp w v => exact execVexp_held w v s hs
  | vrsq w v => exact execVrsq_held w v s hs
  | vsig w v => exact execVsig_held w v s hs
  | vred w v => exact execVred_held w v s hs
  | vcvt w v => exact execVcvt_held w v s hs
  | mgpush w a b job after => exact execMgpush_held w a b job after s hs
  | mgpushEnd w a b job after => exact execMgpushEnd_held w a b job after s hs
  | mgdrainOpen w a after => exact execMgdrainOpen_held w a after s hs
  | mgdrainWait w d b job after => exact execMgdrainWait_held w d b job after s hs
  | pdqQuery w d a after => exact execPdqQuery_held w d a after s hs
  | pdqPrefetch w a after => exact execPdqPrefetch_held w a after s hs
  | upsign w a after => exact execUpsign_held w a after s hs
  | upvote w a after => exact execUpvote_held w a after s hs
  | engineCommandStart w q => exact execEngineCommandStart_held w q s hs
  | engineCommandComplete w q => exact execEngineCommandComplete_held w q s hs
  | gatherFactorChoice w => exact execGatherFactorChoice_held w s hs
  | stationaryLoad w => exact execStationaryLoad_held w s hs
  | blockListFetch e h => exact execBlockListFetch_held e h s hs
  | transferStart e h => exact execTransferStart_held e h s hs
  | transferComplete e t => exact execTransferComplete_held e t s hs
  | neuronListReady e h => exact execNeuronListReady_held e h s hs
  | mergeResultWrite job => exact execMergeResultWrite_held job s hs
  | mergeJobComplete job => exact execMergeJobComplete_held job s hs
  | weightSetLoad => exact execWeightSetLoad_held s hs
  | predictorQueryService => exact execPredictorQueryService_held s hs
  | facetWindowWrite addr data => exact execFacetWindowWrite_held addr data s hs
  | fmemHostFill f => exact execFmemHostFill_held f s hs
  | fmemHostCopy f => exact execFmemHostCopy_held f s hs
  | fmemHostOpDone f => exact execFmemHostOpDone_held f s hs
  | fmemGateRequest f bank => exact execFmemGateRequest_held f bank s hs
  | fmemGateCancel f bank => exact execFmemGateCancel_held f bank s hs
  | fmemWake f bank => exact execFmemWake_held f bank s hs
  | bankGated f bank => exact execBankGated_held f bank s hs
  | gateForced f bank => exact execGateForced_held f bank s hs
  | bankWakeDone f bank => exact execBankWakeDone_held f bank s hs
  | bar4Access isWrite addr len data => exact execBar4Access_held isWrite addr len data s hs
  | stsInitDone => exact execStsInitDone_held s hs
  | farInitDone => exact execFarInitDone_held s hs
  | migrateCmd qp => exact execMigrateCmd_held qp s hs
  | fetchPage m i1 => exact execFetchPage_held m i1 s hs
  | fetchMove m i1 => exact execFetchMove_held m i1 s hs
  | evictPage m i1 => exact execEvictPage_held m i1 s hs
  | cleanPage m i1 => exact execCleanPage_held m i1 s hs
  | dropFar m i1 => exact execDropFar_held m i1 s hs
  | zeroNear m i1 => exact execZeroNear_held m i1 s hs
  | freePage m i1 => exact execFreePage_held m i1 s hs
  | retagPage m i1 => exact execRetagPage_held m i1 s hs
  | migrationCommit m i1 => exact execMigrationCommit_held m i1 s hs
  | migrateStatusWriteback => exact execMigrateStatusWriteback_held s hs
  | reservedWindowOpen i1 => exact execReservedWindowOpen_held i1 s hs
  | reservedWindowClose i1 => exact execReservedWindowClose_held i1 s hs
  | farFrameRetire => exact execFarFrameRetire_held s hs
  | cptPteWrite => exact execCptPteWrite_held s hs
  | permutationLoad quad index => exact execPermutationLoad_held quad index s hs
  | permutationStored => exact execPermutationStored_held s hs
  | portEnable p => exact execPortEnable_held p s hs
  | portDisable p => exact execPortDisable_held p s hs
  | signalDetected p => exact execSignalDetected_held p s hs
  | trainDone p => exact execTrainDone_held p s hs
  | alignDone p => exact execAlignDone_held p s hs
  | bringupTimeout p => exact execBringupTimeout_held p s hs
  | bringupRetry p => exact execBringupRetry_held p s hs
  | exchange p version chip vc credits => exact execExchange_held p version chip vc credits s hs
  | delayProbe p stamp => exact execDelayProbe_held p stamp s hs
  | delayEcho p stamp => exact execDelayEcho_held p stamp s hs
  | tickField p arg => exact execTickField_held p arg s hs
  | laneLost p lane => exact execLaneLost_held p lane s hs
  | swapReq p lane count => exact execSwapReq_held p lane count s hs
  | swapAck p lane count => exact execSwapAck_held p lane count s hs
  | fecFailure p => exact execFecFailure_held p s hs
  | dataFlit p flit => exact execDataFlit_held p flit s hs
  | idleFlit p flit => exact execIdleFlit_held p flit s hs
  | ackTimeout p => exact execAckTimeout_held p s hs
  | packetTransmit p vc => exact execPacketTransmit_held p vc s hs
  | writePkt p => exact execWritePkt_held p s hs
  | readPkt p => exact execReadPkt_held p s hs
  | respPkt p => exact execRespPkt_held p s hs
  | postPkt p => exact execPostPkt_held p s hs
  | mergePkt p => exact execMergePkt_held p s hs
  | mergeEndPkt p => exact execMergeEndPkt_held p s hs
  | readTimeout tag => exact execReadTimeout_held tag s hs
  | mcastStall p vc => exact execMcastStall_held p vc s hs
  | chipidWrite chip => exact execChipidWrite_held chip s hs
  | ownerTableLoad table => exact execOwnerTableLoad_held table s hs
  | ownerTableLoaded => exact execOwnerTableLoaded_held s hs
  | linkTraining speed width => exact execLinkTraining_held speed width s hs
  | qpEnable q => exact execQpEnable_held q s hs
  | qpDisable q => exact execQpDisable_held q s hs
  | qpDrained q => exact execQpDrained_held q s hs
  | sqTail q value => exact execSqTail_held q value s hs
  | cqHead q value => exact execCqHead_held q value s hs
  | sqFetch q => exact execSqFetch_held q s hs
  | nopCmd qp => exact execNopCmd_held qp s hs
  | badCommand qp => exact execBadCommand_held qp s hs
  | deviceReadError src => exact execDeviceReadError_held src s hs
  | busMasterDisable => exact execBusMasterDisable_held s hs
  | d3hotEntry => exact execD3hotEntry_held s hs
  | d0Return => exact execD0Return_held s hs
  | functionLevelReset => exact execFunctionLevelReset_held s hs
  | hotReset => exact execHotReset_held s hs
  | dlDown => exact execDlDown_held s hs
  | ptmExchange ok timeNs => exact execPtmExchange_held ok timeNs s hs
  | doeRequest object => exact execDoeRequest_held object s hs
  | laneMargining lane voltage step errors => exact execLaneMargining_held lane voltage step errors s hs
  | setEndpointId binding eid => exact execSetEndpointId_held binding eid s hs
  | getStatus binding => exact execGetStatus_held binding s hs
  | setOfflineNone binding => exact execSetOfflineNone_held binding s hs
  | setOfflineQuiesce binding => exact execSetOfflineQuiesce_held binding s hs
  | setOfflineReset binding => exact execSetOfflineReset_held binding s hs
  | setOfflinePowerOff binding => exact execSetOfflinePowerOff_held binding s hs
  | setPowerCap binding watts => exact execSetPowerCap_held binding watts s hs
  | readLog binding first count => exact execReadLog_held binding first count s hs
  | regRead binding addr words => exact execRegRead_held binding addr words s hs
  | regWrite binding addr value => exact execRegWrite_held binding addr value s hs
  | mbxSend binding message => exact execMbxSend_held binding message s hs
  | mbxFetch binding offset => exact execMbxFetch_held binding offset s hs
  | hostMailboxSend len => exact execHostMailboxSend_held len s hs
  | setImageKey binding key => exact execSetImageKey_held binding key s hs
  | fuseOwner binding slot hash signature publicKey => exact execFuseOwner_held binding slot hash signature publicKey s hs
  | revoke binding cls slot signature publicKey => exact execRevoke_held binding cls slot signature publicKey s hs
  | commitSvn binding component => exact execCommitSvn_held binding component s hs
  | limmundBadRequest binding command body => exact execLimmundBadRequest_held binding command body s hs
  | requestUpdate binding => exact execRequestUpdate_held binding s hs
  | verifyComplete component => exact execVerifyComplete_held component s hs
  | activateFirmware => exact execActivateFirmware_held s hs
  | firmwareReadyTimeout => exact execFirmwareReadyTimeout_held s hs
  | getCertificate offset len => exact execGetCertificate_held offset len s hs
  | challenge nonce => exact execChallenge_held nonce s hs
  | getMeasurements index nonce => exact execGetMeasurements_held index nonce s hs
  | sensorRead binding id reading => exact execSensorRead_held binding id reading s hs
  | configCommit => exact execConfigCommit_held s hs
  | correctedError site => exact execCorrectedError_held site s hs
  | facetUe f array half => exact execFacetUe_held f array half s hs
  | fmemUe f addr finder => exact execFmemUe_held f addr finder s hs
  | stsUe addr finder => exact execStsUe_held addr finder s hs
  | farUe frame finder => exact execFarUe_held frame finder s hs
  | mergeUe => exact execMergeUe_held s hs
  | predictorUe => exact execPredictorUe_held s hs
  | prismUe q => exact execPrismUe_held q s hs
  | streamEngineUe e => exact execStreamEngineUe_held e s hs
  | updateUe q => exact execUpdateUe_held q s hs
  | tableUe w => exact execTableUe_held w s hs
  | fatalError cause => exact execFatalError_held cause s hs
  | sliceCopyDone => exact execSliceCopyDone_held s hs
  | urgentRetrain ch => exact execUrgentRetrain_held ch s hs
  | retrainDone ok => exact execRetrainDone_held ok s hs
  | shadowCheckEnd q outs abandoned => exact execShadowCheckEnd_held q outs abandoned s hs
  | protractorWindow host lane transitions singular ctle width height => exact execProtractorWindow_held host lane transitions singular ctle width height s hs
  | farStrobeTrack ch readWindow writeWindow => exact execFarStrobeTrack_held ch readWindow writeWindow s hs
  | skewSample samples spineTemp => exact execSkewSample_held samples spineTemp s hs
  | skewOverrun q => exact execSkewOverrun_held q s hs
  | powerCapSample watts => exact execPowerCapSample_held watts s hs
  | thermtrip => exact execThermtrip_held s hs
  | clockLoss pcie => exact execClockLoss_held pcie s hs
  | stbyPwrokRise straps => exact execStbyPwrokRise_held straps s hs
  | stbyPwrokFall => exact execStbyPwrokFall_held s hs
  | pwrGoodRise n => exact execPwrGoodRise_held n s hs
  | pwrGoodTimeout n => exact execPwrGoodTimeout_held n s hs
  | pwrGoodLoss n => exact execPwrGoodLoss_held n s hs
  | powerDownStep => exact execPowerDownStep_held s hs
  | mainFirmwareLoaded => exact execMainFirmwareLoaded_held s hs
  | perstNFall => exact execPerstNFall_held s hs
  | perstNRise => exact execPerstNRise_held s hs
  | avsCurrentRead q amps => exact execAvsCurrentRead_held q amps s hs
  | facetSwapDone q runs => exact execFacetSwapDone_held q runs s hs
  | managementFirmwareReady => exact execManagementFirmwareReady_held s hs
  | startUpSelfTestEnd runs => exact execStartUpSelfTestEnd_held runs s hs
  | busMasterEnable => exact execBusMasterEnable_held s hs
  | functionResetEnd => exact execFunctionResetEnd_held s hs
  | dynamicAddressAssignment addr => exact execDynamicAddressAssignment_held addr s hs
  | componentWrite component offset data => exact execComponentWrite_held component offset data s hs

/-- Settles O5: a memory that lists nothing is canonical. -/
theorem resetMemoriesAreCanonical : Obligations.ResetMemoriesAreCanonical := by
  unfold Obligations.ResetMemoriesAreCanonical
  exact (canonical_iff State.reset).mpr ⟨wf_nil, wf_nil, wf_nil, wf_nil, wf_nil, wf_nil⟩

/-- Settles O6: a step is a cycle of the clock or the command at the front of the queue, and both keep the memories canonical. -/
theorem everyStepKeepsMemoriesCanonical : Obligations.EveryStepKeepsMemoriesCanonical := by
  unfold Obligations.EveryStepKeepsMemoriesCanonical
  intro s t hs hstep
  unfold step at hstep
  split at hstep
  · obtain ⟨-, -, hcanonical⟩ := heldR_elim hstep (heldR_next (clockCycle_held s (held_self s)))
    exact hcanonical hs
  · next c rest _ =>
    obtain ⟨-, -, hcanonical⟩ := exec_held c _ (held_self { s with pending := rest }) t hstep
    exact hcanonical hs

end Sys2Proof.Machine
end

section
/-! What a context's instruction leaves of its registers, its pc and its wait (R288, R290, R308), and the arrival counters (R174 to R177, R305). -/

namespace Sys2Proof.Machine

theorem exec_cwait (w : Who) (d a b : Reg) (ctr : Nat) (s : State) : exec (.cwait w d a b ctr) s = execCwait w d a b ctr s := by rfl
theorem exec_cwaitTry (w : Who) (d a b : Reg) (ctr : Nat) (s : State) : exec (.cwaitTry w d a b ctr) s = execCwaitTry w d a b ctr s := by rfl
theorem exec_creset (w : Who) (ctr : Nat) (s : State) : exec (.creset w ctr) s = execCreset w ctr s := by rfl
theorem exec_cwaitSatisfied (w : Who) (s : State) : exec (.cwaitSatisfied w) s = execCwaitSatisfied w s := by rfl

/-! ### Going on, waiting, resuming -/

/-- Only a context's pc and occupancy say where it goes on. -/
theorem GoesOn.of_ctx {w : Who} {k : Nat} {s t u : State} (h : GoesOn w k s t) (hpc : (ctxOf u w).pc = (ctxOf t w).pc)
    (hfree : (ctxOf u w).free = (ctxOf t w).free) : GoesOn w k s u :=
  ⟨hpc.trans h.1, hfree.trans h.2⟩

/-- Only a context's registers and their ready times say what an instruction has written. -/
theorem WroteReg.of_ctx {w : Who} {s t u : State} {d : Reg} {v : Word} {lat : Nat} (h : WroteReg w s t d v lat)
    (hregs : (ctxOf u w).regs = (ctxOf t w).regs) (hready : (ctxOf u w).ready = (ctxOf t w).ready) : WroteReg w s u d v lat := by
  obtain ⟨hval, hsame, hother⟩ := h
  exact ⟨fun r => (rget_of_regs hregs r).trans (hval r), fun hd => hready ▸ hsame hd, fun r hr => hready ▸ hother r hr⟩

theorem goesOn_advance (s : State) (w : Who) (k : Nat) : GoesOn w k s (advance s w k) := by
  unfold GoesOn GoesTo
  rw [ctxOf_advance]
  exact ⟨rfl, rfl⟩

theorem onlyCtx_waitFor (s : State) (w : Who) (x : Wait) : OnlyCtx w s (waitFor s w x) := onlyCtx_modCtx _ (onlyCtx_advance s w 1)

theorem ctxOf_waitFor (s : State) (w : Who) (x : Wait) : ctxOf (waitFor s w x) w = { ctxOf (advance s w 1) w with wait := x } := ctxOf_modCtx _ w _

theorem waits_waitFor (s : State) (w : Who) (x : Wait) : Waits w s (waitFor s w x) x := by
  have hctx := ctxOf_waitFor s w x
  refine ⟨?_, (goesOn_advance s w 1).of_ctx (by rw [hctx]) (by rw [hctx])⟩
  rw [hctx, ctxOf_advance]
  rfl

theorem onlyCtx_endWait (s : State) (w : Who) : OnlyCtx w s (endWait s w) := onlyCtx_modCtx _ (onlyCtx_self s w)

theorem ctxOf_endWait (s : State) (w : Who) : ctxOf (endWait s w) w = { ctxOf s w with wait := .none, free := s.now + 1 } := ctxOf_modCtx s w _

theorem resumes_endWait (s : State) (w : Who) : Resumes w s (endWait s w) := by
  unfold Resumes
  rw [ctxOf_endWait]
  exact ⟨rfl, rfl, rfl⟩

/-- A wait's end comes before nothing but the context that it resumes: a register written with it is written from the state before. -/
theorem wroteReg_rput_endWait (s : State) (w : Who) (d : Reg) (v : Word) (lat : Nat) : WroteReg w s (rput (endWait s w) w d v lat) d v lat := by
  have hend := ctxOf_endWait s w
  have hregs : (ctxOf (endWait s w) w).regs = (ctxOf s w).regs := by rw [hend]
  have hready : (ctxOf (endWait s w) w).ready = (ctxOf s w).ready := by rw [hend]
  refine ⟨fun r => ?_, fun hd => ?_, fun r hr => ?_⟩
  · rw [rget_rput, rget_of_regs hregs]
  · rw [ctxOf_rput, if_neg hd, hready]
    exact mapGet_mapPut_same _ _ _ _
  · rw [ctxOf_rput, hready]
    split
    · rw [hready]
    · exact mapGet_mapPut_other _ _ _ (toNat_ne hr)

theorem resumes_rput_endWait (s : State) (w : Who) (d : Reg) (v : Word) (lat : Nat) : Resumes w s (rput (endWait s w) w d v lat) := by
  unfold Resumes
  rw [ctxOf_rput, ctxOf_endWait]
  split <;> exact ⟨rfl, rfl, rfl⟩

/-! ### Arrival counters -/

/-- The sign bit of the difference says whether a counter has reached a target (R177). -/
theorem reachedTarget_iff (count target : Word) : reachedTarget count target = true ↔ 0 ≤ (count - target).toInt := by
  rw [reachedTarget, BitVec.msb_eq_toInt]
  simp

/-- Settles O19, instruction by instruction: CWAIT by whether its counter has reached its target, TRY, CRESET, and the wait that is satisfied. -/
theorem arrivalCounterInstructions : Obligations.ArrivalCounterInstructions := by
  unfold Obligations.ArrivalCounterInstructions
  intro s w ctr hctr v
  have hlegal : decide (ctr < 64) = true := decide_eq_true hctr
  have hv : arrWord s w.lf ctr = v := rfl
  refine ⟨fun d a b hissue => ?_, fun hissue => ?_, fun d target hwait hreached => ?_⟩
  · intro target
    refine ⟨fun hreached => ⟨_, ?_, computes_rput_advance s w d v 1 1⟩, fun hshort => ⟨_, ?_, onlyCtx_waitFor s w _, waits_waitFor s w _⟩,
      _, ?_, computes_rput_advance s w d v 1 1⟩
    · rw [exec_cwait, execCwait, hlegal, issue_runs hissue]
      exact congrArg _ (if_pos ((reachedTarget_iff v target).mpr hreached))
    · rw [exec_cwait, execCwait, hlegal, issue_runs hissue]
      exact congrArg _ (if_neg fun h => absurd ((reachedTarget_iff v target).mp h) (Int.not_le.mpr hshort))
    · rw [exec_cwaitTry, execCwaitTry, hlegal, issue_runs hissue, hv]
  · refine ⟨arrReset (advance s w 1) w.lf ctr, ?_, (goesOn_advance s w 1).of_ctx rfl rfl, ?_, fget_fset_same _ _ _⟩
    · rw [exec_creset, execCreset, hlegal, issue_runs hissue]
    · exact onlyFields_fset _ _ (onlyFields_self s _) (List.mem_singleton.mpr rfl)
  · refine ⟨_, ?_, onlyCtx_modCtx _ (onlyCtx_endWait s w), resumes_rput_endWait s w d v 1, wroteReg_rput_endWait s w d v 1⟩
    rw [exec_cwaitSatisfied, execCwaitSatisfied, hwait]
    exact whenever_true ((reachedTarget_iff v target).mpr hreached)

end Sys2Proof.Machine
end

section
/-! The narrow view of facet memory: LD.W and ST.W, and MFILL and MCOPY, on banks that are on and awake (R162, R172, R173, R301 to R303). -/

namespace Sys2Proof.Machine

theorem exec_ldW (w : Who) (d a : Reg) (imm : Word) (s : State) : exec (.ldW w d a imm) s = execLdW w d a imm s := by rfl
theorem exec_stW (w : Who) (a b : Reg) (imm : Word) (s : State) : exec (.stW w a b imm) s = execStW w a b imm s := by rfl
theorem exec_mfill (w : Who) (a b : Reg) (imm : Word) (s : State) : exec (.mfill w a b imm) s = execMfill w a b imm s := by rfl
theorem exec_mcopy (w : Who) (a b : Reg) (imm : Word) (s : State) : exec (.mcopy w a b imm) s = execMcopy w a b imm s := by rfl
theorem exec_fillCopyComplete (w : Who) (s : State) : exec (.fillCopyComplete w) s = execFillCopyComplete w s := by rfl

/-! ### Banks that are on and awake -/

/-- No bank of a facet whose FMEM_GATED reads 0 is gated. -/
theorem gatedAt_of_state_zero {s : State} {pf : Nat} (h : fget s (Fld.fmemGated_STATE pf) = 0) (a : Nat) : gatedAt s pf a = false := by
  rw [gatedAt, h, bitSet_eq_testBit, Nat.zero_testBit]

/-- A read of banks that are on counts nothing. -/
theorem fmemTouch_ungated {s : State} {pf : Nat} {as : List Nat} (h : ∀ a ∈ as, gatedAt s pf a = false) : fmemTouch s pf as = s :=
  if_pos (congrArg List.length (gatedLines_nil h))

theorem countDropped_ungated {s : State} {pf : Nat} {ws : List (Nat × Byte)} (h : ∀ a ∈ ws.map Prod.fst, gatedAt s pf a = false) :
    countDropped s pf ws = s :=
  if_pos (congrArg List.length (gatedLines_nil h))

/-- The stored byte of one of several writes to distinct places, read back from a bank that is on. -/
theorem fmemPeek_fmemStore_mem {s : State} {pf : Nat} {ws : List (Nat × Byte)} {x : Nat × Byte} (hnodup : (ws.map Prod.fst).Nodup) (hx : x ∈ ws)
    (hon : gatedAt s pf x.1 = false) : fmemPeek (fmemStore s pf ws) pf [x.1] = [x.2] := by
  have hplaces : ((ws.map (fun w => (fbase pf + w.1, w.2 ^^^ fmemMask s pf w.1))).map Prod.fst).Nodup := by
    have he : (ws.map (fun w => (fbase pf + w.1, w.2 ^^^ fmemMask s pf w.1))).map Prod.fst = (ws.map Prod.fst).map (fbase pf + ·) := by
      rw [List.map_map, List.map_map]; rfl
    rw [he]
    exact hnodup.map fun _ _ e => Nat.add_left_cancel e
  have hread := memRead_memPuts_mem _ s.fmem hplaces _ (List.mem_map_of_mem hx)
  have hgate : gatedAt (fmemStore s pf ws) pf x.1 = false := hon
  simp only [fmemPeek, List.map_cons, List.map_nil, hgate, Bool.false_eq_true, if_false]
  show [memRead (memPuts s.fmem _) (fbase pf + x.1) ^^^ fmemMask s pf x.1] = _
  rw [hread, BitVec.xor_assoc, BitVec.xor_self, BitVec.xor_zero]

theorem memRead_fmemStore_out {s : State} {pf : Nat} {ws : List (Nat × Byte)} {y : Nat} (h : ∀ x ∈ ws, fbase pf + x.1 ≠ y) :
    memRead (fmemStore s pf ws).fmem y = memRead s.fmem y :=
  memRead_memPuts_out _ s.fmem fun v hv => by
    obtain ⟨x, hx, rfl⟩ := List.mem_map.mp hv
    exact h x hx

/-- An access that reaches no waking bank of a facet that is not held need not wait (R181, R459). -/
theorem awake_iff {s : State} {lf : Nat} {as : List Nat} :
    awake s lf as = true ↔ heldFacet s lf = false ∧ ∀ a ∈ as, wakingAt s (physOf s lf) a = false := by
  simp [awake]

theorem narrowOk_iff {s : State} {w : Who} {x : Nat} : narrowOk s w x = true ↔ x % 4 = 0 ∧ x + 4 ≤ fmemUsed s w.lf := by
  simp [narrowOk, inUsed]

/-- Of the four bytes that a narrow access can reach, each is on. -/
theorem ungated_of_narrowReachable {s : State} {w : Who} {x : Nat} (h : NarrowReachable s w x) : ∀ y ∈ span x 4, gatedAt s (physOf s w.lf) y = false := by
  obtain ⟨-, -, -, hbanks⟩ := h
  intro y hy
  obtain ⟨hlo, hhi⟩ := mem_span.mp hy
  have hon := (hbanks (y - x) (by omega)).1
  rwa [Nat.add_sub_cancel' hlo] at hon

theorem awake_of_narrowReachable {s : State} {w : Who} {x : Nat} (h : NarrowReachable s w x) : awake s w.lf [x] = true := by
  obtain ⟨-, -, hheld, hbanks⟩ := h
  exact awake_iff.mpr ⟨hheld, fun a ha => List.mem_singleton.mp ha ▸ (hbanks 0 (by decide)).2⟩

theorem narrowOk_of_narrowReachable {s : State} {w : Who} {x : Nat} (h : NarrowReachable s w x) : narrowOk s w x = true :=
  narrowOk_iff.mpr ⟨h.1, h.2.1⟩

/-! ### LD.W and ST.W -/

/-- A context with one more narrow access under way, those that are over by `now` left out. -/
def Ctx.noted (c : Ctx) (now : Nat) (x : Narrow) : Ctx := { c with narrow := c.narrow.filter (fun y => decide (now < y.doneAt)) ++ [x] }

theorem loadLatency_cases (s : State) (lf : Nat) : loadLatency s lf = 3 ∨ (loadLatency s lf = 4 ∧ guaranteedWork s lf = true) := by
  unfold loadLatency
  split
  · next hwork =>
    rcases Nat.mod_two_eq_zero_or_one (freshWord s).toNat with h | h
    · exact .inl (by rw [h])
    · exact .inr ⟨by rw [h], hwork⟩
  · exact .inl rfl

/-- A context that has issued a load of the word at `x`, before its draw is taken. -/
def loading (s : State) (w : Who) (d : Reg) (x : Nat) : State :=
  modCtx (rput (advance s w 1) w d (BitVec.ofNat 32 (ofLe (facetRead s w.lf x 4))) (loadLatency s w.lf)) w (·.noted s.now ⟨false, x, s.now + loadLatency s w.lf⟩)

theorem ctxOf_loading (s : State) (w : Who) (d : Reg) (x : Nat) :
    ctxOf (loading s w d x) w = (ctxOf (rput (advance s w 1) w d (BitVec.ofNat 32 (ofLe (facetRead s w.lf x 4))) (loadLatency s w.lf)) w).noted
      s.now ⟨false, x, s.now + loadLatency s w.lf⟩ :=
  ctxOf_modCtx _ w _

theorem onlyCtx_loading (s : State) (w : Who) (d : Reg) (x : Nat) : OnlyCtx w s (loading s w d x) :=
  onlyCtx_modCtx _ (computes_rput_advance s w d _ 1 _).1

theorem goesOn_loading (s : State) (w : Who) (d : Reg) (x : Nat) : GoesOn w 1 s (loading s w d x) := by
  obtain ⟨-, -, hgoes, -⟩ := computes_rput_advance s w d (BitVec.ofNat 32 (ofLe (facetRead s w.lf x 4))) 1 (loadLatency s w.lf)
  exact hgoes.of_ctx (by rw [ctxOf_loading]; rfl) (by rw [ctxOf_loading]; rfl)

theorem wroteReg_loading (s : State) (w : Who) (d : Reg) (x : Nat) :
    WroteReg w s (loading s w d x) d (BitVec.ofNat 32 (ofLe (facetRead s w.lf x 4))) (loadLatency s w.lf) := by
  obtain ⟨-, -, -, hwrote⟩ := computes_rput_advance s w d (BitVec.ofNat 32 (ofLe (facetRead s w.lf x 4))) 1 (loadLatency s w.lf)
  exact hwrote.of_ctx (by rw [ctxOf_loading]; rfl) (by rw [ctxOf_loading]; rfl)

section
variable {s : State} {w : Who} {d a b : Reg} {imm : Word}

/-- LD.W of reachable bytes: the word is on its way to its register, and a draw is taken. -/
theorem execLdW_reachable (hissue : issues s w [a] [d] = true) (h : NarrowReachable s w (rget s w a + imm).toNat) :
    execLdW w d a imm s = .next (drawn (loading s w d (rget s w a + imm).toNat)) := by
  have hawake : awake s w.lf [narrowAddr s w a imm] = true := awake_of_narrowReachable h
  have hlegal : narrowOk s w (narrowAddr s w a imm) = true := narrowOk_of_narrowReachable h
  have htouch : fmemTouch s (physOf s w.lf) (span (narrowAddr s w a imm) 4) = s := fmemTouch_ungated (ungated_of_narrowReachable h)
  rw [execLdW, hawake, Bool.not_true, Bool.and_false, if_neg Bool.false_ne_true, hlegal, issue_runs hissue]
  dsimp only
  rw [htouch]
  rfl

/-- A narrow access that is misaligned or beyond FMEM_USED aborts its task (R302). -/
theorem execLdW_illegal (hissue : issues s w [a] [d] = true) (hawake : awake s w.lf [(rget s w a + imm).toNat] = true)
    (hbad : narrowOk s w (rget s w a + imm).toNat = false) : execLdW w d a imm s = .next (faultTask s w) := by
  have hawake : awake s w.lf [narrowAddr s w a imm] = true := hawake
  have hbad : narrowOk s w (narrowAddr s w a imm) = false := hbad
  rw [execLdW, hawake, Bool.not_true, Bool.and_false, if_neg Bool.false_ne_true, hbad, issue_illegal hissue]

theorem execStW_illegal (hissue : issues s w [a, b] [] = true) (hawake : awake s w.lf [(rget s w a + imm).toNat] = true)
    (hbad : narrowOk s w (rget s w a + imm).toNat = false) : execStW w a b imm s = .next (faultTask s w) := by
  have hawake : awake s w.lf [narrowAddr s w a imm] = true := hawake
  have hbad : narrowOk s w (narrowAddr s w a imm) = false := hbad
  rw [execStW, hawake, Bool.not_true, Bool.and_false, if_neg Bool.false_ne_true, hbad, issue_illegal hissue]

end

/-- Beside the channels, counting what has been filled of open slots changes nothing. -/
theorem countFill_side (s : State) (task lf : Nat) (as : List Nat) : countFill s task lf as = { s with chans := (countFill s task lf as).chans } := by
  have hsame : { countFill s task lf as with chans := [] } = { s with chans := [] } := by
    refine foldl_keeps (fun t : State => { t with chans := [] }) (fun t e => ?_) _ s
    dsimp only
    split <;> rfl
  exact congrArg (fun t : State => { t with chans := (countFill s task lf as).chans }) hsame

/-- The narrow writes that no wide write of the cycle stands over (R162). -/
def narrowKept (s : State) (pf : Nat) (ws : List (Nat × Byte)) : List (Nat × Byte) := ws.filter (fun x => !(thisCycle s).wide.contains (fbase pf + x.1))

theorem mem_narrowKept_iff {s : State} {pf : Nat} {ws : List (Nat × Byte)} {x : Nat × Byte} :
    x ∈ narrowKept s pf ws ↔ x ∈ ws ∧ fbase pf + x.1 ∉ (thisCycle s).wide := by
  simp [narrowKept]

theorem narrowKept_nodup (s : State) (pf a : Nat) (bs : List Byte) : ((narrowKept s pf (laidAt a bs)).map Prod.fst).Nodup :=
  (laidAt_map_fst a bs ▸ span_nodup a bs.length).sublist (List.filter_sublist.map Prod.fst)

/-- A narrow write to banks that are on stores what no wide write stands over, and aborts nothing. -/
theorem narrowWriteOrAbort_ungated {s : State} {task lf : Nat} {ws : List (Nat × Byte)} (h : ∀ a ∈ ws.map Prod.fst, gatedAt s (physOf s lf) a = false) :
    narrowWriteOrAbort s task lf ws = countFill (fmemStore s (physOf s lf) (narrowKept s (physOf s lf) ws)) task lf (ws.map Prod.fst) := by
  have hput : fmemPutNarrow s (physOf s lf) ws = fmemStore s (physOf s lf) (narrowKept s (physOf s lf) ws) := by
    rw [fmemPutNarrow, keptWrites_all h]
    exact countDropped_ungated h
  simp only [narrowWriteOrAbort, abortDropped, fmemDrops_ungated h, keptWrites_all h, hput, Bool.false_eq_true, if_false]

/-- Byte `i` of the little-endian bytes of a number. -/
theorem getElem_leBytes (n : Nat) : ∀ (x i : Nat) (h : i < (leBytes n x).length), (leBytes n x)[i] = byteAt x i := by
  induction n with
  | zero => intro x i h; exact absurd h (Nat.not_lt_zero i)
  | succ n ih =>
    intro x i h
    cases i with
    | zero => simp [leBytes, byteAt]
    | succ j => simp only [leBytes, List.getElem_cons_succ, ih, byteAt, Nat.div_div_eq_div_mul, Nat.pow_succ']

/-- A context that has issued a store at `x`, before its bytes are written. -/
def storing (s : State) (w : Who) (x : Nat) : State :=
  modCtx (advance s w 1) w (fun c => { c.noted s.now ⟨true, x, s.now + 2⟩ with storeAt := s.now + 2 })

theorem ctxOf_storing (s : State) (w : Who) (x : Nat) :
    ctxOf (storing s w x) w = { (ctxOf (advance s w 1) w).noted s.now ⟨true, x, s.now + 2⟩ with storeAt := s.now + 2 } :=
  ctxOf_modCtx _ w _

/-- The state after a store of the word `v` at `x`: its bytes are written, but where a wide write of the cycle has been (R162). -/
def storedWord (s : State) (w : Who) (x : Nat) (v : Word) : State :=
  countFill (fmemStore (storing s w x) (physOf s w.lf) (narrowKept s (physOf s w.lf) (laidAt x (leBytes 4 v.toNat)))) (taskId s w) w.lf
    ((laidAt x (leBytes 4 v.toNat)).map Prod.fst)

section
variable {s : State} {w : Who} {a b : Reg} {imm : Word} {x : Nat} {v : Word}

theorem execStW_reachable (hissue : issues s w [a, b] [] = true) (h : NarrowReachable s w (rget s w a + imm).toNat) :
    execStW w a b imm s = .next (storedWord s w (rget s w a + imm).toNat (rget s w b)) := by
  have hawake : awake s w.lf [narrowAddr s w a imm] = true := awake_of_narrowReachable h
  have hlegal : narrowOk s w (narrowAddr s w a imm) = true := narrowOk_of_narrowReachable h
  have hon : ∀ y ∈ (laidAt (narrowAddr s w a imm) (leBytes 4 (rget s w b).toNat)).map Prod.fst, gatedAt s (physOf s w.lf) y = false := by
    rw [laidAt_map_fst, leBytes_length]
    exact ungated_of_narrowReachable h
  rw [execStW, hawake, Bool.not_true, Bool.and_false, if_neg Bool.false_ne_true, hlegal, issue_runs hissue]
  exact congrArg _ (narrowWriteOrAbort_ungated (s := storing s w (narrowAddr s w a imm)) hon)

theorem storedWord_side : storedWord s w x v = { s with fmem := (storedWord s w x v).fmem, facets := (storedWord s w x v).facets, chans := (storedWord s w x v).chans } := by
  rw [storedWord, countFill_side]
  rfl

theorem ctxOf_storedWord : ctxOf (storedWord s w x v) w = { (ctxOf (advance s w 1) w).noted s.now ⟨true, x, s.now + 2⟩ with storeAt := s.now + 2 } := by
  rw [storedWord, countFill_side]
  exact ctxOf_storing s w x

theorem goesOn_storedWord : GoesOn w 1 s (storedWord s w x v) :=
  (goesOn_advance s w 1).of_ctx (by rw [ctxOf_storedWord]; rfl) (by rw [ctxOf_storedWord]; rfl)

theorem rget_storedWord (r : Reg) : rget (storedWord s w x v) w r = rget s w r :=
  rget_of_regs (by rw [ctxOf_storedWord, ctxOf_advance]; rfl) r

/-- Each byte of the word that no wide write stands over reads back. -/
theorem facetRead_storedWord (hreach : NarrowReachable s w x) {i : Nat} (hi : i < 4) (hwide : fbase (physOf s w.lf) + (x + i) ∉ (thisCycle s).wide) :
    facetRead (storedWord s w x v) w.lf (x + i) 1 = [byteAt v.toNat i] := by
  have hlen : i < (leBytes 4 v.toNat).length := (leBytes_length 4 _).symm ▸ hi
  have hkept := mem_narrowKept_iff.mpr ⟨getElem_mem_laidAt x (leBytes 4 v.toNat) hlen, hwide⟩
  have hon : gatedAt s (physOf s w.lf) (x + i) = false := ungated_of_narrowReachable hreach _ (mem_span.mpr ⟨by omega, by omega⟩)
  have hread := fmemPeek_fmemStore_mem (s := storing s w x) (narrowKept_nodup s (physOf s w.lf) x _) hkept hon
  rw [getElem_leBytes] at hread
  rw [storedWord, countFill_side]
  exact hread

/-- What is not one of those bytes stays. -/
theorem memRead_storedWord_out {y : Nat} (h : ∀ i < 4, y = fbase (physOf s w.lf) + x + i → y ∈ (thisCycle s).wide) :
    memRead (storedWord s w x v).fmem y = memRead s.fmem y := by
  rw [storedWord, countFill_side]
  refine memRead_fmemStore_out (s := storing s w x) fun c hc he => ?_
  obtain ⟨hlaid, hwide⟩ := mem_narrowKept_iff.mp hc
  obtain ⟨hlo, hhi⟩ := mem_span.mp (fst_mem_span_of_mem_laidAt hlaid)
  rw [leBytes_length] at hhi
  exact hwide (he ▸ h (c.1 - x) (by omega) (by rw [← he, Nat.add_assoc, Nat.add_sub_cancel' hlo]))

end

/-- Settles O15: LD.W and ST.W of reachable bytes, then those that are misaligned or out of range. -/
theorem narrowAccesses : Obligations.NarrowAccesses := by
  unfold Obligations.NarrowAccesses
  intro s w d a b imm x base
  refine ⟨fun hissue hreach => ?_, fun hissue hreach => ?_, fun hbad hawake => ?_⟩
  · exact ⟨drawn (loading s w d x), loadLatency s w.lf, execLdW_reachable hissue hreach, loadLatency_cases s w.lf, onlyCtx_loading s w d x, goesOn_loading s w d x,
      wroteReg_loading s w d x⟩
  · exact ⟨_, execStW_reachable hissue hreach, fun i hi hwide => facetRead_storedWord hreach hi (Nat.add_assoc _ x i ▸ hwide), fun y => memRead_storedWord_out,
      storedWord_side, goesOn_storedWord, rget_storedWord⟩
  · have hillegal : narrowOk s w x = false := by
      rw [← Bool.not_eq_true, narrowOk_iff]
      omega
    rw [exec_ldW, exec_stW]
    exact ⟨fun hissue => execLdW_illegal hissue hawake hillegal, fun hissue => execStW_illegal hissue hawake hillegal⟩

/-! ### MFILL and MCOPY -/

section
variable {s : State} {w : Who} {a b : Reg} {imm : Word}

/-- A legal MFILL holds its context for one cycle in 256 bytes; one of no bytes goes on at once. -/
theorem execMfill_legal (hissue : issues s w [a, b] [] = true) (hheld : heldFacet s w.lf = false) (hwake : ∀ y, wakingAt s (physOf s w.lf) y = false)
    (hdst : (rget s w a).toNat % 4 = 0) (hlen : (rget s w b).toNat % 4 = 0) (hused : (rget s w a).toNat + (rget s w b).toNat ≤ fmemUsed s w.lf) :
    execMfill w a b imm s = .next (if (rget s w b).toNat = 0 then advance s w 1 else
      waitFor s w (.memOp ⟨s.now + ceilDiv (rget s w b).toNat 256, (rget s w a).toNat, none, (rget s w b).toNat, patternBytes imm (rget s w b).toNat, []⟩)) := by
  have hawake : ∀ as, awake s w.lf as = true := fun as => awake_iff.mpr ⟨hheld, fun y _ => hwake y⟩
  have hlegal : (decide ((rget s w a).toNat % 4 = 0) && decide ((rget s w b).toNat % 4 = 0)
      && (decide ((rget s w b).toNat = 0) || inUsed s w.lf (rget s w a).toNat (rget s w b).toNat)) = true := by
    simp [inUsed, hdst, hlen, hused]
  simp only [execMfill, hawake, hlegal, Bool.not_true, Bool.and_false, Bool.false_eq_true, if_false]
  exact issue_runs hissue

/-- A legal MCOPY takes its source as it stands and holds its context for one cycle in 128 bytes; one of no bytes goes on at once. -/
theorem execMcopy_legal (hissue : issues s w [a, b] [] = true) (hheld : heldFacet s w.lf = false) (hwake : ∀ y, wakingAt s (physOf s w.lf) y = false)
    (hdst : (rget s w a).toNat % 4 = 0) (hsrc : (rget s w b).toNat % 4 = 0) (hlen : imm.toNat % 4 = 0)
    (hdstUsed : (rget s w a).toNat + imm.toNat ≤ fmemUsed s w.lf) (hsrcUsed : (rget s w b).toNat + imm.toNat ≤ fmemUsed s w.lf)
    (hgated : fget s (Fld.fmemGated_STATE (physOf s w.lf)) = 0) :
    execMcopy w a b imm s = .next (if imm = 0#32 then advance s w 1 else
      waitFor s w (.memOp ⟨s.now + ceilDiv imm.toNat 128, (rget s w a).toNat, some (rget s w b).toNat, imm.toNat, facetRead s w.lf (rget s w b).toNat imm.toNat, []⟩)) := by
  have hawake : ∀ as, awake s w.lf as = true := fun as => awake_iff.mpr ⟨hheld, fun y _ => hwake y⟩
  have hlegal : (decide ((rget s w a).toNat % 4 = 0) && decide ((rget s w b).toNat % 4 = 0) && decide (imm.toNat % 4 = 0)
      && (decide (imm.toNat = 0) || (inUsed s w.lf (rget s w a).toNat imm.toNat && inUsed s w.lf (rget s w b).toNat imm.toNat))) = true := by
    simp [inUsed, hdst, hsrc, hlen, hdstUsed, hsrcUsed]
  have htouch : fmemTouch s (physOf s w.lf) (span (rget s w b).toNat imm.toNat) = s := fmemTouch_ungated fun y _ => gatedAt_of_state_zero hgated y
  have hzero : imm.toNat = 0 ↔ imm = 0#32 := BitVec.toNat_inj (y := 0#32)
  simp only [execMcopy, hawake, hlegal, Bool.not_true, Bool.and_false, Bool.false_eq_true, if_false, issue_runs hissue, htouch]
  simp only [hzero, startMemOp]

end

/-- A context that goes on where there is nothing to do, and else waits, does one of the two and touches no other. -/
theorem goesOn_or_waits (s : State) (w : Who) (x : Wait) (p : Prop) [Decidable p] :
    OnlyCtx w s (if p then advance s w 1 else waitFor s w x)
      ∧ (if p then GoesOn w 1 s (if p then advance s w 1 else waitFor s w x)
            ∧ (ctxOf (if p then advance s w 1 else waitFor s w x) w).wait = (ctxOf s w).wait
         else Waits w s (if p then advance s w 1 else waitFor s w x) x) := by
  split_ifs
  · exact ⟨onlyCtx_advance s w 1, goesOn_advance s w 1, by rw [ctxOf_advance]⟩
  · exact ⟨onlyCtx_waitFor s w x, waits_waitFor s w x⟩

/-- A task's wide write to banks that are on aborts nothing. -/
theorem rawWriteOrAbort_ungated {s : State} {task lf : Nat} {ws : List (Nat × Byte)} (h : ∀ a ∈ ws.map Prod.fst, gatedAt s (physOf s lf) a = false) :
    rawWriteOrAbort s task lf ws = fmemPut s (physOf s lf) ws := by
  simp only [rawWriteOrAbort, abortDropped, fmemDrops_ungated h, Bool.false_eq_true, if_false]

/-- A fill writes its own bytes, whatever the memory holds. -/
theorem memOpBytes_of_fill {m : MemOp} (s : State) (pf : Nat) (h : m.src = none) : memOpBytes s pf m = m.bytes := by rw [memOpBytes, h]

theorem execFillCopyComplete_due {s : State} {w : Who} {m : MemOp} (hwait : (ctxOf s w).wait = .memOp m) (hsrc : m.src = none) (hdue : m.doneAt ≤ s.now)
    (hgated : fget s (Fld.fmemGated_STATE (physOf s w.lf)) = 0) :
    execFillCopyComplete w s = .next (fmemPut (drawn (endWait s w)) (physOf s w.lf) (laidAt m.dst m.bytes)) := by
  have hm : memOpDue s w = some m := by rw [memOpDue, hwait]; exact if_pos hdue
  have hon : ∀ y ∈ (laidAt m.dst m.bytes).map Prod.fst, gatedAt (drawn (endWait s w)) (physOf (drawn (endWait s w)) w.lf) y = false :=
    fun y _ => gatedAt_of_state_zero hgated y
  rw [execFillCopyComplete, hm]
  dsimp only
  rw [memOpBytes_of_fill s _ hsrc]
  exact congrArg _ (rawWriteOrAbort_ungated hon)

/-- Settles O16: the start of MFILL, the start of MCOPY, the end of an MFILL. -/
theorem fillsAndCopies : Obligations.FillsAndCopies := by
  unfold Obligations.FillsAndCopies
  intro s w
  refine ⟨fun a b imm hissue hheld hwake => ⟨fun hdst hlen hused => ?_, fun hdst hsrc hlen hdstUsed hsrcUsed hgated => ?_⟩, fun m hwait hsrc hdue hgated => ?_⟩
  · exact ⟨_, execMfill_legal hissue hheld hwake hdst hlen hused, goesOn_or_waits s w _ _⟩
  · exact ⟨_, execMcopy_legal hissue hheld hwake hdst hsrc hlen hdstUsed hsrcUsed hgated, goesOn_or_waits s w _ _⟩
  · have hon : ∀ y, gatedAt (drawn (endWait s w)) (physOf s w.lf) y = false := fun y => gatedAt_of_state_zero hgated y
    refine ⟨_, execFillCopyComplete_due hwait hsrc hdue hgated, ?_⟩
    rw [fmemPut_ungated fun y _ => hon y]
    exact ⟨resumes_endWait s w, fmemPeek_fmemStore_laidAt fun y _ => hon y, fun y hy => memRead_fmemStore_laidAt_out _ _ _ _ hy, rfl⟩

end Sys2Proof.Machine
end

section
/-! Host fills and copies of facet memory, on banks that are on and awake (R169, R172, R173, R190). -/

namespace Sys2Proof.Machine

theorem exec_fmemHostFill (f : Nat) (s : State) : exec (.fmemHostFill f) s = execFmemHostFill f s := by rfl
theorem exec_fmemHostCopy (f : Nat) (s : State) : exec (.fmemHostCopy f) s = execFmemHostCopy f s := by rfl
theorem exec_fmemHostOpDone (f : Nat) (s : State) : exec (.fmemHostOpDone f) s = execFmemHostOpDone f s := by rfl

variable {s : State} {f : Nat}

/-! ### The start -/

/-- Where a host operation's registers point and how long it is, in bytes. -/
def hostDst (s : State) (f : Nat) : Nat := 4 * fget s (Fld.fmemOpdst_ADDR f)
def hostSrc (s : State) (f : Nat) : Nat := 4 * fget s (Fld.fmemOpsrc_ADDR f)
def hostLen (s : State) (f : Nat) : Nat := 4 * fget s (Fld.fmemOplen_LEN f)

/-- The fill that the registers ask for. -/
def askedFill (s : State) (f : Nat) : MemOp :=
  ⟨s.now + ceilDiv (hostLen s f) 256, hostDst s f, none, hostLen s f, patternBytes (BitVec.ofNat 32 (fget s (Fld.fmemOpval_VALUE f))) (hostLen s f), []⟩

/-- The copy that the registers ask for, its source taken. -/
def askedCopy (s : State) (f : Nat) : MemOp :=
  ⟨s.now + ceilDiv (hostLen s f) 128, hostDst s f, some (hostSrc s f), hostLen s f, fmemPeek s f (span (hostSrc s f) (hostLen s f)), []⟩

/-- Writing the operation code of FMEM_OPCTL leaves the facet's other registers, whose fields start at bit 0 or 2. -/
theorem fget_fset_opctl (s : State) (f op : Nat) {g : Field} (hlo : g.lo = 0 ∨ g.lo = 2) (h : g.addr ≠ 0x10f3030 + f * 0x100000) :
    fget (fset s (Fld.fmemOpctl_OP f) op) g = fget s g :=
  fget_fset_other _ _ _ _ (by simp only [Field.key, Fld.fmemOpctl_OP]; omega)

/-- Writing the operation code leaves what a fill or copy is made of. -/
theorem hostFields_fset_opctl (s : State) (f op : Nat) :
    fget (fset s (Fld.fmemOpctl_OP f) op) (Fld.fmemOpdst_ADDR f) = fget s (Fld.fmemOpdst_ADDR f)
      ∧ fget (fset s (Fld.fmemOpctl_OP f) op) (Fld.fmemOpsrc_ADDR f) = fget s (Fld.fmemOpsrc_ADDR f)
      ∧ fget (fset s (Fld.fmemOpctl_OP f) op) (Fld.fmemOplen_LEN f) = fget s (Fld.fmemOplen_LEN f)
      ∧ fget (fset s (Fld.fmemOpctl_OP f) op) (Fld.fmemOpval_VALUE f) = fget s (Fld.fmemOpval_VALUE f)
      ∧ fget (fset s (Fld.fmemOpctl_OP f) op) (Fld.fmemGated_STATE f) = fget s (Fld.fmemGated_STATE f) := by
  refine ⟨?_, ?_, ?_, ?_, ?_⟩ <;> refine fget_fset_opctl s f op ?_ ?_
  all_goals simp [Fld.fmemOpdst_ADDR, Fld.fmemOpsrc_ADDR, Fld.fmemOplen_LEN, Fld.fmemOpval_VALUE, Fld.fmemGated_STATE]

/-- What START does on a facet on which no operation runs. -/
theorem startHostOp_idle (op : Nat) (hidle : fget s (Fld.fmemOpstat_STATE f) ≠ 1) :
    startHostOp s f op =
      if op = 4 ∧ opRangeOk (hostDst s f) (hostLen s f) = true then beginOp (fset s (Fld.fmemOpctl_OP f) op) f (askedFill s f)
      else if op = 5 ∧ (opRangeOk (hostDst s f) (hostLen s f) && opRangeOk (hostSrc s f) (hostLen s f)) = true then
        beginCopy (fset s (Fld.fmemOpctl_OP f) op) f (hostDst s f) (hostSrc s f) (hostLen s f)
      else refuseOp (fset s (Fld.fmemOpctl_OP f) op) f := by
  obtain ⟨hdst, hsrc, hlen, hval, -⟩ := hostFields_fset_opctl s f op
  simp only [startHostOp, if_neg hidle, hdst, hsrc, hlen, hval]
  rfl

theorem opRangeOk_iff {a n : Nat} : opRangeOk a n = true ↔ a + n ≤ 0x80000 := decide_eq_true_iff

theorem startHostOp_fill (hidle : fget s (Fld.fmemOpstat_STATE f) ≠ 1) :
    startHostOp s f 4 = if hostDst s f + hostLen s f ≤ 0x80000 then beginOp (fset s (Fld.fmemOpctl_OP f) 4) f (askedFill s f)
      else refuseOp (fset s (Fld.fmemOpctl_OP f) 4) f := by
  simp [startHostOp_idle 4 hidle, opRangeOk_iff]

/-- A copy's source is taken at once where no bank of it wakes, and as it stands (R173). -/
theorem beginCopy_awake (hgated : fget s (Fld.fmemGated_STATE f) = 0) (hwake : ∀ a, wakingAt s f a = false) :
    beginCopy (fset s (Fld.fmemOpctl_OP f) 5) f (hostDst s f) (hostSrc s f) (hostLen s f) = beginOp (fset s (Fld.fmemOpctl_OP f) 5) f (askedCopy s f) := by
  obtain ⟨-, -, -, -, hgate⟩ := hostFields_fset_opctl s f 5
  have hon : ∀ a, gatedAt (fset s (Fld.fmemOpctl_OP f) 5) f a = false := fun a => gatedAt_of_state_zero (hgate.trans hgated) a
  have hawake : (span (hostSrc s f) (hostLen s f)).any (wakingAt (fset s (Fld.fmemOpctl_OP f) 5) f) = false :=
    List.any_eq_false.mpr fun a _ => Bool.eq_false_iff.mp (hwake a)
  have hpeek : fmemPeek (fset s (Fld.fmemOpctl_OP f) 5) f (span (hostSrc s f) (hostLen s f)) = fmemPeek s f (span (hostSrc s f) (hostLen s f)) := by
    simp only [fmemPeek, hon, fun a => gatedAt_of_state_zero hgated a]
    rfl
  simp only [beginCopy, takeSource, hawake, Bool.false_eq_true, if_false, fmemTouch_ungated fun a _ => hon a, hpeek]
  rfl

theorem startHostOp_copy (hidle : fget s (Fld.fmemOpstat_STATE f) ≠ 1) (hgated : fget s (Fld.fmemGated_STATE f) = 0) (hwake : ∀ a, wakingAt s f a = false) :
    startHostOp s f 5 = if hostDst s f + hostLen s f ≤ 0x80000 ∧ hostSrc s f + hostLen s f ≤ 0x80000
      then beginOp (fset s (Fld.fmemOpctl_OP f) 5) f (askedCopy s f) else refuseOp (fset s (Fld.fmemOpctl_OP f) 5) f := by
  simp [startHostOp_idle 5 hidle, opRangeOk_iff, beginCopy_awake hgated hwake]

theorem begun_beginOp (u : State) (m : MemOp) :
    fget (beginOp u f m) (Fld.fmemOpstat_STATE f) = 1 ∧ SameMemories u (beginOp u f m) ∧ mapFind (beginOp u f m).memOps f = some m :=
  ⟨fget_fset_same _ _ 1, ⟨rfl, rfl, rfl, rfl, rfl, rfl⟩, mapFind_mapPut_same _ _ _⟩

/-- A refused start: STATE 3, the log's cause 4, and no memory or operation changed. -/
theorem refused_refuseOp (s : State) (f op : Nat) :
    let t := refuseOp (fset s (Fld.fmemOpctl_OP f) op) f
    fget t (Fld.fmemOpstat_STATE f) = 3 ∧ fget t Fld.glbHerrInfo_CAUSE = 4 ∧ SameMemories s t ∧ t.memOps = s.memOps := by
  obtain ⟨hside, hstate, hcause⟩ := refuseOp_effect (fset s (Fld.fmemOpctl_OP f) op) f
  have hside := ((registerSide_self s).fset (Fld.fmemOpctl_OP f) op).trans hside
  exact ⟨hstate, hcause, hside.sameMemories, hside.memOps⟩

/-- A start, on its condition, begins the operation or is refused. -/
theorem begun_or_refused (s : State) (f op : Nat) (m : MemOp) (p : Prop) [Decidable p] :
    let t := if p then beginOp (fset s (Fld.fmemOpctl_OP f) op) f m else refuseOp (fset s (Fld.fmemOpctl_OP f) op) f
    if p then fget t (Fld.fmemOpstat_STATE f) = 1 ∧ SameMemories s t ∧ mapFind t.memOps f = some m
    else fget t (Fld.fmemOpstat_STATE f) = 3 ∧ fget t Fld.glbHerrInfo_CAUSE = 4 ∧ SameMemories s t ∧ t.memOps = s.memOps := by
  by_cases h : p
  · simp only [if_pos h]
    exact begun_beginOp (f := f) (fset s (Fld.fmemOpctl_OP f) op) m
  · simp only [if_neg h]
    exact refused_refuseOp s f op

/-! ### The end -/

/-- The state in which a host operation has ended, before its bytes are written. -/
def hostOpEnded (s : State) (f : Nat) : State := fset { drawn s with memOps := mapDel s.memOps f } (Fld.fmemOpstat_STATE f) 2

theorem gated_hostOpEnded (s : State) (f : Nat) : fget (hostOpEnded s f) (Fld.fmemGated_STATE f) = fget s (Fld.fmemGated_STATE f) :=
  fget_fset_other _ _ _ _ (by simp only [Field.key, Fld.fmemGated_STATE, Fld.fmemOpstat_STATE]; omega)

theorem onlyFields_hostOpEnded (s : State) (f : Nat) : OnlyFields [Fld.fmemOpstat_STATE f] s { hostOpEnded s f with memOps := s.memOps, free := s.free } :=
  onlyFields_fset _ 2 (onlyFields_self s _) (List.mem_singleton.mpr rfl)

/-- A fill that no forced gate has cut writes all its bytes when its time is over. -/
theorem execFmemHostOpDone_fill {m : MemOp} (hm : mapFind s.memOps f = some m) (hsrc : m.src = none) (hlost : m.lost = []) (hdue : m.doneAt ≤ s.now)
    (hgated : fget s (Fld.fmemGated_STATE f) = 0) (hwake : ∀ a, wakingAt s f a = false) :
    execFmemHostOpDone f s = .next (fmemPut (hostOpEnded s f) f (laidAt m.dst m.bytes)) := by
  have hon : ∀ a, gatedAt (hostOpEnded s f) f a = false := gatedAt_of_state_zero ((gated_hostOpEnded s f).trans hgated)
  have hready : (m.taken && decide (m.doneAt ≤ s.now) && (span m.dst m.len).all (fun a => !wakingAt s f a)) = true := by
    simp [MemOp.taken, hsrc, hdue, hwake]
  have hkept : m.kept (memOpBytes s f m) = laidAt m.dst m.bytes := by
    rw [memOpBytes_of_fill s f hsrc, MemOp.kept, hlost]
    exact List.filter_eq_self.mpr fun _ _ => rfl
  simp only [execFmemHostOpDone, hm]
  rw [whenever_true hready, hkept]
  exact congrArg _ (if_neg (Bool.eq_false_iff.mp (fmemDrops_ungated fun a _ => hon a)))

/-- Settles O33: the start of a fill, the start of a copy, the end of a fill. -/
theorem hostFillsAndCopiesFacetMemory : Obligations.HostFillsAndCopiesFacetMemory := by
  unfold Obligations.HostFillsAndCopiesFacetMemory
  intro s f hf hgated hwake dst src n refused
  refine ⟨fun hup hidle => ?_, fun m hm hsrc hlost hdue => ?_⟩
  · have hready : (hostUp s && decide (f < 52)) = true := by simp [hup, hf]
    rw [exec_fmemHostFill, exec_fmemHostCopy, execFmemHostFill, execFmemHostCopy, whenever_true hready, whenever_true hready,
      startHostOp_fill hidle, startHostOp_copy hidle hgated hwake]
    exact ⟨⟨_, rfl, begun_or_refused s f 4 (askedFill s f) _⟩, ⟨_, rfl, begun_or_refused s f 5 (askedCopy s f) _⟩⟩
  · have hon : ∀ a, gatedAt (hostOpEnded s f) f a = false := gatedAt_of_state_zero ((gated_hostOpEnded s f).trans hgated)
    refine ⟨_, execFmemHostOpDone_fill hm hsrc hlost hdue hgated hwake, ?_⟩
    rw [fmemPut_ungated fun a _ => hon a]
    exact ⟨fget_fset_same _ _ 2, mapFind_mapDel_same _ _, fmemPeek_fmemStore_laidAt fun a _ => hon a,
      fun y hy => memRead_fmemStore_laidAt_out (hostOpEnded s f) f _ _ hy, onlyFields_hostOpEnded s f⟩

end Sys2Proof.Machine
end

section
/-! Banks of a facet's memory: requested, gated, forced, woken and zeroed (R178 to R181). -/

namespace Sys2Proof.Machine

theorem exec_fmemGateRequest (f b : Nat) (s : State) : exec (.fmemGateRequest f b) s = execFmemGateRequest f b s := by rfl
theorem exec_fmemGateCancel (f b : Nat) (s : State) : exec (.fmemGateCancel f b) s = execFmemGateCancel f b s := by rfl
theorem exec_fmemWake (f b : Nat) (s : State) : exec (.fmemWake f b) s = execFmemWake f b s := by rfl
theorem exec_bankGated (f b : Nat) (s : State) : exec (.bankGated f b) s = execBankGated f b s := by rfl
theorem exec_gateForced (f b : Nat) (s : State) : exec (.gateForced f b) s = execGateForced f b s := by rfl
theorem exec_bankWakeDone (f b : Nat) (s : State) : exec (.bankWakeDone f b) s = execBankWakeDone f b s := by rfl

/-! ### The bit of a bank -/

theorem bitSet_setBit (x i : Nat) : bitSet (setBit x i) i = true := by
  unfold setBit
  split
  · assumption
  · next h =>
    rw [bitSet_eq_testBit] at h ⊢
    rw [Nat.add_comm, Nat.testBit_two_pow_add_eq]
    simpa using h

theorem bitSet_clearBit (x i : Nat) : bitSet (clearBit x i) i = false := by
  unfold clearBit
  split
  · next h =>
    rw [bitSet_eq_testBit] at h ⊢
    have hadd := Nat.testBit_two_pow_add_eq (x - 2 ^ i) i
    rw [Nat.add_sub_cancel' (Nat.ge_two_pow_of_testBit h), h] at hadd
    simpa using hadd
  · next h => exact Bool.eq_false_iff.mpr h

/-- A bit within a field's width reads as it is written. -/
theorem bitSet_fget_fset (s : State) (g : Field) (v : Nat) {i : Nat} (h : i < g.width) : bitSet (fget (fset s g v) g) i = bitSet v i := by
  rw [fget_fset_same, bitSet_eq_testBit, bitSet_eq_testBit, Nat.testBit_mod_two_pow, decide_eq_true h, Bool.true_and]

variable {s : State} {f b : Nat}

theorem bankKey_eq (f b : Nat) : bankKey f b = 32 * f + b := by
  rw [bankKey, Nat.mul_comm]

/-- FMEM_GATE and FMEM_GATED are two registers. -/
theorem gate_key_ne (f : Nat) : (Fld.fmemGated_STATE f).key ≠ (Fld.fmemGate_REQ f).key := by
  simp only [Field.key, Fld.fmemGated_STATE, Fld.fmemGate_REQ]
  omega

/-! ### Requests -/

/-- The host's write to a bit of FMEM_GATE, where the manager has not written the register in the cycle, acts on a state that differs in the cycle's record alone. -/
theorem hostGate_alone {act : State → State} (h : bitsIn (thisCycle s).manager (Fld.fmemGate_REQ f).key = 0) :
    ∃ c, hostGate s f b act = act { s with cyc := c } :=
  ⟨_, if_neg (not_not_intro h)⟩

theorem serving_bank (hserve : serving s = true) (hf : f < 52) (hb : b < 32) : (serving s && bankExists f b) = true := by
  simp [hserve, bankExists, hf, hb]

/-- A new request: the bank's bit is set, and the request stands from now. -/
theorem requestGate_new (hreq : bitSet (fget s (Fld.fmemGate_REQ f)) b = false) (hgated : bitSet (fget s (Fld.fmemGated_STATE f)) b = false) :
    requestGate s f b = { fset s (Fld.fmemGate_REQ f) (setBit (fget s (Fld.fmemGate_REQ f)) b) with gates := mapPut s.gates (bankKey f b) s.now } := by
  simp only [requestGate, hreq, hgated, Bool.false_and, Bool.false_eq_true, if_false]
  rfl

/-- A request that is given up, and a wake where the bank is gated and none is under way. -/
theorem clearGate_set (hreq : bitSet (fget s (Fld.fmemGate_REQ f)) b = true) (hwakes : mapFind s.wakes (bankKey f b) = none) :
    clearGate s f b = { fset s (Fld.fmemGate_REQ f) (clearBit (fget s (Fld.fmemGate_REQ f)) b) with
      gates := mapDel s.gates (bankKey f b)
      wakes := if bitSet (fget s (Fld.fmemGated_STATE f)) b then mapPut s.wakes (bankKey f b) (s.now + 256) else s.wakes } := by
  simp only [clearGate, hreq, if_true]
  cases hgated : bitSet (fget s (Fld.fmemGated_STATE f)) b <;> simp [hwakes]

/-- What a new request leaves (R178). -/
theorem requestGate_effect (hb : b < 32) (hreq : bitSet (fget s (Fld.fmemGate_REQ f)) b = false) (hgated : bitSet (fget s (Fld.fmemGated_STATE f)) b = false) :
    bitSet (fget (requestGate s f b) (Fld.fmemGate_REQ f)) b = true ∧ fget (requestGate s f b) (Fld.fmemGated_STATE f) = fget s (Fld.fmemGated_STATE f)
      ∧ mapFind (requestGate s f b).gates (bankKey f b) = some s.now ∧ SameMemories s (requestGate s f b) := by
  rw [requestGate_new hreq hgated]
  exact ⟨(bitSet_fget_fset _ _ _ hb).trans (bitSet_setBit _ _), fget_fset_other _ _ _ _ (gate_key_ne f), mapFind_mapPut_same _ _ _, rfl, rfl, rfl, rfl, rfl, rfl⟩

/-- What clearing a request's bit leaves (R178, R181). -/
theorem clearGate_effect (hb : b < 32) (hreq : bitSet (fget s (Fld.fmemGate_REQ f)) b = true) (hwakes : mapFind s.wakes (bankKey f b) = none) :
    bitSet (fget (clearGate s f b) (Fld.fmemGate_REQ f)) b = false ∧ fget (clearGate s f b) (Fld.fmemGated_STATE f) = fget s (Fld.fmemGated_STATE f)
      ∧ mapFind (clearGate s f b).gates (bankKey f b) = none ∧ SameMemories s (clearGate s f b)
      ∧ (bitSet (fget s (Fld.fmemGated_STATE f)) b = true → mapFind (clearGate s f b).wakes (bankKey f b) = some (s.now + 256)) := by
  rw [clearGate_set hreq hwakes]
  refine ⟨(bitSet_fget_fset _ _ _ hb).trans (bitSet_clearBit _ _), fget_fset_other _ _ _ _ (gate_key_ne f), mapFind_mapDel_same _ _, ⟨rfl, rfl, rfl, rfl, rfl, rfl⟩,
    fun hgated => ?_⟩
  simp only [hgated, if_true]
  exact mapFind_mapPut_same _ _ _

/-! ### Gating -/

/-- Bytes of a gated bank read zero (R180). -/
theorem fmemPeek_gated {a : Nat} (h : gatedAt s f a = true) : fmemPeek s f [a] = [0#8] := by
  simp [fmemPeek, h]

theorem gated_gateBank (s : State) (f : Nat) {b : Nat} (hb : b < 32) : bitSet (fget (gateBank s f b) (Fld.fmemGated_STATE f)) b = true :=
  (bitSet_fget_fset _ _ _ hb).trans (bitSet_setBit _ _)

theorem gates_gateBank (s : State) (f b : Nat) : mapFind (gateBank s f b).gates (bankKey f b) = none := mapFind_mapDel_same _ _

theorem sameMemories_gateBank (s : State) (f b : Nat) : SameMemories s (gateBank s f b) := ⟨rfl, rfl, rfl, rfl, rfl, rfl⟩

/-- A bank with nothing pending gates (R178, R181). -/
theorem execBankGated_quiet {at_ : Nat} (hgates : mapFind s.gates (bankKey f b) = some at_) (hwakes : mapFind s.wakes (bankKey f b) = none)
    (htasks : pendingTasks s f b = []) (hhost : hostPending s f b = false) : execBankGated f b s = .next (gateBank s f b) :=
  whenever_true (by simp [hgates, hwakes, htasks, hhost])

/-! ### A forced gate -/

theorem registerSide_hostDropped (u : State) (f n : Nat) :
    RegisterSide u (hostErr (setFlag (bump u (Fld.fmemCntGatedwr_COUNT f) n) (Fld.fmemErr_GATEDWR f)) 0 true (0x10F3030 + f * 0x100000) 4 5) :=
  (((registerSide_self u).fset _ _).setBits _ 1).hostErr _ _ _ _ _

/-- Dropping a host operation's writes at a bank touches no memory and no request. -/
theorem dropHostPending_frame (s : State) (f b : Nat) :
    SameMemories s (dropHostPending s f b) ∧ (dropHostPending s f b).gates = s.gates := by
  unfold dropHostPending
  split
  · exact ⟨⟨rfl, rfl, rfl, rfl, rfl, rfl⟩, rfl⟩
  · next m _ =>
    dsimp only
    split
    · exact ⟨⟨rfl, rfl, rfl, rfl, rfl, rfl⟩, rfl⟩
    · have hside := fun n => registerSide_hostDropped { s with memOps := mapPut s.memOps f { m with lost := m.lost ++ [b] } } f n
      exact ⟨(hside _).sameMemories, by rw [hside]⟩

/-- Of the registers, dropped writes change FMEM_CNT_GATEDWR, the flag, and the log of access errors. -/
theorem fget_dropHostPending_other (s : State) {f : Nat} (b : Nat) {g : Field} (hlog : 0x38 * 32 ≤ g.key) (hcount : g.key ≠ (Fld.fmemCntGatedwr_COUNT f).key)
    (hflag : g.key ≠ (Fld.fmemErr_GATEDWR f).key) : fget (dropHostPending s f b) g = fget s g := by
  unfold dropHostPending
  split
  · rfl
  · dsimp only
    split
    · rfl
    · rw [fget_hostErr_beyond _ _ _ _ _ _ hlog, setFlag, fget_setBits_other _ _ _ _ hflag, bump, fget_fset_other _ _ _ _ hcount]
      rfl

theorem gated_key_ne_forced (f : Nat) : (Fld.fmemGated_STATE f).key ≠ (Fld.fmemCntForced_COUNT f).key := by
  simp only [Field.key, Fld.fmemGated_STATE, Fld.fmemCntForced_COUNT]
  omega

theorem fget_dropHostPending_gated (s : State) (f b : Nat) : fget (dropHostPending s f b) (Fld.fmemGated_STATE f) = fget s (Fld.fmemGated_STATE f) := by
  refine fget_dropHostPending_other s b ?_ ?_ ?_ <;>
    simp only [Field.key, Fld.fmemGated_STATE, Fld.fmemCntGatedwr_COUNT, Fld.fmemErr_GATEDWR] <;> omega

theorem fget_dropHostPending_forced (s : State) (f b : Nat) : fget (dropHostPending s f b) (Fld.fmemCntForced_COUNT f) = fget s (Fld.fmemCntForced_COUNT f) := by
  refine fget_dropHostPending_other s b ?_ ?_ ?_ <;>
    simp only [Field.key, Fld.fmemCntForced_COUNT, Fld.fmemCntGatedwr_COUNT, Fld.fmemErr_GATEDWR] <;> omega

/-- A request that has stood for 4 096 cycles with host writes alone pending at its bank gates it, and drops them (R179). -/
theorem execGateForced_host {at_ : Nat} (hgates : mapFind s.gates (bankKey f b) = some at_) (hold : at_ + 4096 ≤ s.now) (htasks : pendingTasks s f b = [])
    (hhost : hostPending s f b = true) :
    execGateForced f b s = .next (dropHostPending (bump (gateBank s f b) (Fld.fmemCntForced_COUNT f) 1) f b) := by
  have hdue : (decide (at_ + 4096 ≤ s.now) && (!(pendingTasks s f b).isEmpty || hostPending s f b)) = true := by simp [hold, hhost]
  simp only [execGateForced, hgates]
  rw [whenever_true hdue, htasks]
  rfl

/-! ### A wake that is over -/

theorem fbase_succ (f : Nat) : fbase (f + 1) = fbase f + 524288 := Nat.succ_mul f _

theorem zeroFacetAt_side (s : State) (f : Nat) (p : Nat → Bool) : zeroFacetAt s f p = { s with fmem := (zeroFacetAt s f p).fmem } := by
  cases hmask : mapFind s.masks f <;> simp only [zeroFacetAt, hmask]

theorem fget_zeroFacetAt (s : State) (f : Nat) (p : Nat → Bool) (g : Field) : fget (zeroFacetAt s f p) g = fget s g := by
  rw [zeroFacetAt_side]
  rfl

/-- A zeroed byte holds what an unwritten one of its facet holds, and so reads zero (R165, R181). -/
theorem memRead_zeroFacetAt_in (s : State) (f : Nat) {p : Nat → Bool} {a : Nat} (ha : a < 524288) (hp : p a = true) :
    memRead (zeroFacetAt s f p).fmem (fbase f + a) = fmemMask s f a := by
  cases hmask : mapFind s.masks f with
  | none =>
    simp only [zeroFacetAt, fmemMask, hmask]
    exact memRead_filter_drop (p := fun k => !(decide (fbase f ≤ k) && decide (k < fbase (f + 1)) && p (k - fbase f))) s.fmem (by
      simp [fbase_succ, ha, hp])
  | some e =>
    simp only [zeroFacetAt, fmemMask, hmask]
    have hnodup : (((span 0 524288).filter p).map (fun a => (fbase f + a, Config.freeByte e a))).map Prod.fst |>.Nodup := by
      rw [List.map_map]
      exact ((span_nodup 0 524288).filter p).map fun _ _ h => Nat.add_left_cancel h
    exact memRead_memPuts_mem _ s.fmem hnodup (fbase f + a, Config.freeByte e a)
      (List.mem_map.mpr ⟨a, List.mem_filter.mpr ⟨mem_span.mpr ⟨Nat.zero_le a, by omega⟩, hp⟩, rfl⟩)

theorem memRead_zeroFacetAt_out (s : State) (f : Nat) {p : Nat → Bool} {y : Nat} (h : ¬(fbase f ≤ y ∧ y < fbase (f + 1) ∧ p (y - fbase f) = true)) :
    memRead (zeroFacetAt s f p).fmem y = memRead s.fmem y := by
  cases hmask : mapFind s.masks f with
  | none =>
    simp only [zeroFacetAt, hmask]
    exact memRead_filter_keep (p := fun k => !(decide (fbase f ≤ k) && decide (k < fbase (f + 1)) && p (k - fbase f))) s.fmem (by
      simpa [imp_iff_not_or, or_assoc] using h)
  | some e =>
    simp only [zeroFacetAt, hmask]
    refine memRead_memPuts_out _ s.fmem fun v hv he => h ?_
    obtain ⟨a, ha, rfl⟩ := List.mem_map.mp hv
    obtain ⟨hspan, hp⟩ := List.mem_filter.mp ha
    obtain ⟨-, hlt⟩ := mem_span.mp hspan
    simp only at he
    subst he
    exact ⟨Nat.le_add_right _ _, by rw [fbase_succ]; omega, by rwa [Nat.add_sub_cancel_left]⟩

/-- The state after the wake of a bank is over. -/
def wokenBank (s : State) (f b : Nat) : State :=
  fset (zeroFacetAt { s with wakes := mapDel s.wakes (bankKey f b) } f (fun a => decide (bankOf a = b))) (Fld.fmemGated_STATE f)
    (clearBit (fget s (Fld.fmemGated_STATE f)) b)

theorem execBankWakeDone_due {at_ : Nat} (hwakes : mapFind s.wakes (bankKey f b) = some at_) (hdue : at_ ≤ s.now) :
    execBankWakeDone f b s = .next (wokenBank s f b) := by
  simp only [execBankWakeDone, hwakes]
  rw [whenever_true (decide_eq_true hdue), fget_zeroFacetAt]
  rfl

theorem wokenBank_side (s : State) (f b : Nat) :
    wokenBank s f b = { s with fmem := (wokenBank s f b).fmem, regs := (wokenBank s f b).regs, wakes := (wokenBank s f b).wakes } := by
  rw [wokenBank, zeroFacetAt_side]
  rfl

theorem wakes_wokenBank (s : State) (f b : Nat) : mapFind (wokenBank s f b).wakes (bankKey f b) = none := by
  rw [wokenBank, zeroFacetAt_side]
  exact mapFind_mapDel_same _ _

theorem gated_wokenBank (s : State) (f : Nat) {b : Nat} (hb : b < 32) : bitSet (fget (wokenBank s f b) (Fld.fmemGated_STATE f)) b = false :=
  (bitSet_fget_fset _ _ _ hb).trans (bitSet_clearBit _ _)

/-- Every byte of the bank reads zero. -/
theorem fmemPeek_wokenBank (s : State) (f : Nat) {b a : Nat} (hb : b < 32) (ha : a < 524288) (hbank : bankOf a = b) :
    fmemPeek (wokenBank s f b) f [a] = [0#8] := by
  have hon : gatedAt (wokenBank s f b) f a = false := by rw [gatedAt, hbank]; exact gated_wokenBank s f hb
  have hread := memRead_zeroFacetAt_in { s with wakes := mapDel s.wakes (bankKey f b) } f (p := fun a => decide (bankOf a = b)) ha (decide_eq_true hbank)
  have hmask : fmemMask (wokenBank s f b) f a = fmemMask s f a := by rw [wokenBank_side]; rfl
  simp only [fmemPeek, List.map_cons, List.map_nil, hon, Bool.false_eq_true, if_false, hmask]
  rw [show memRead (wokenBank s f b).fmem (fbase f + a) = fmemMask s f a from hread, BitVec.xor_self]

/-- Settles O34: the request, its cancelling and the start of a wake; a gate; a forced gate; a wake that is over. -/
theorem banksGateAndWake : Obligations.BanksGateAndWake := by
  unfold Obligations.BanksGateAndWake
  intro s f b hf hb req gated k
  have hk : bankKey f b = k := bankKey_eq f b
  rw [exec_fmemGateRequest, exec_fmemGateCancel, exec_fmemWake, exec_bankGated, exec_gateForced, exec_bankWakeDone, ← hk]
  refine ⟨fun hserve halone hwakes => ?_, fun at_ hgates hwakes htasks hhost => ?_, fun at_ hgates hold htasks hhost => ?_, fun at_ hwakes hdue => ?_⟩
  · have hready := serving_bank hserve hf hb
    refine ⟨fun hreq hgated => ?_, fun hreq hgated => ?_, fun hreq hgated => ?_⟩
    · obtain ⟨c, hact⟩ := hostGate_alone (act := (requestGate · f b)) halone
      obtain ⟨hset, hstate, hstands, hmem⟩ := requestGate_effect (s := { s with cyc := c }) hb hreq hgated
      exact ⟨_, (whenever_true hready).trans (congrArg _ hact), hset, (congrArg (bitSet · b) hstate).trans hgated, hstands, hmem⟩
    · obtain ⟨c, hact⟩ := hostGate_alone (act := (clearGate · f b)) halone
      obtain ⟨hclear, hstate, hgone, hmem, -⟩ := clearGate_effect (s := { s with cyc := c }) hb hreq hwakes
      have hon : (serving s && bankExists f b && !bitSet (fget s (Fld.fmemGated_STATE f)) b) = true := by rw [hready, show bitSet _ b = false from hgated]; rfl
      exact ⟨_, (whenever_true hon).trans (congrArg _ hact), hclear, (congrArg (bitSet · b) hstate).trans hgated, hgone, hmem⟩
    · obtain ⟨c, hact⟩ := hostGate_alone (act := (clearGate · f b)) halone
      obtain ⟨hclear, hstate, -, hmem, hwake⟩ := clearGate_effect (s := { s with cyc := c }) hb hreq hwakes
      have hoff : (serving s && bankExists f b && bitSet (fget s (Fld.fmemGated_STATE f)) b) = true := by rw [hready, show bitSet _ b = true from hgated]; rfl
      exact ⟨_, (whenever_true hoff).trans (congrArg _ hact), hclear, (congrArg (bitSet · b) hstate).trans hgated, hwake hgated, hmem⟩
  · have hgated := gated_gateBank s f hb
    exact ⟨_, execBankGated_quiet hgates hwakes htasks hhost, hgated, gates_gateBank s f b, sameMemories_gateBank s f b,
      fun a ha => fmemPeek_gated (by rw [gatedAt, ha]; exact hgated)⟩
  · obtain ⟨hmem, hkept⟩ := dropHostPending_frame (bump (gateBank s f b) (Fld.fmemCntForced_COUNT f) 1) f b
    refine ⟨_, execGateForced_host hgates hold htasks hhost, ?_, ?_, hmem, ?_⟩
    · show bitSet (fget _ _) b = true
      rw [fget_dropHostPending_gated, bump, fget_fset_other _ _ _ _ (gated_key_ne_forced f)]
      exact gated_gateBank s f hb
    · rw [hkept]
      exact gates_gateBank s f b
    · rw [fget_dropHostPending_forced, fget_bump_same, gateBank, fget_fset_other _ _ _ _ (gated_key_ne_forced f).symm]
      rfl
  · exact ⟨_, execBankWakeDone_due hwakes hdue, gated_wokenBank s f hb, wakes_wokenBank s f b,
      fun a ha hbank => fmemPeek_wokenBank s f hb ha hbank, fun y hy => memRead_zeroFacetAt_out _ f (by simpa using hy), wokenBank_side s f b⟩

end Sys2Proof.Machine
end

section
/-! A State Store error that its interrupt is enabled for (R186, R413, R414). -/

namespace Sys2Proof.Machine

/-- The host reaches the part, the State Store is ready, its UE flag is let through to GLB_INTSUM, and vector 1 is not masked. -/
def alarmedState : State :=
  { State.reset with
    regs := [(Fld.glbStatus_MAINREADY.key, 1), (Fld.stsStatus_INITDONE.key, 1), (Fld.stsInten_EN.key, 2)]
    hif := { HostIf.reset with bme := true, msix := [(28, 0)] }
    power := { Power.reset with phase := .running, hifReset := false } }

/-- What the part has sent, as a command leaves it, where the command answers a next state. -/
def sentAfter (r : Res) : Option (List Out) :=
  match r with
  | .next t => some t.outs
  | _ => none

theorem outs_of_sentAfter {r : Res} {t : State} {os : List Out} (hr : r = .next t) (h : sentAfter r = some os) : t.outs = os := by
  rw [hr] at h
  exact Option.some.inj h

/-- The read of a word in error sends vector 1 before its data. -/
theorem alarmedState_sent :
    sentAfter (exec (.bar4Access false 0 8 ⟨[], [0]⟩) alarmedState) = some [⟨0, .msix 1⟩, ⟨0, .readData (List.replicate 8 0xFF#8)⟩] := by decide

/-- Refutes O35, in its clause on a read of a word in error: the statement takes every state, and where STS_INTEN lets UE through, the flag's rise sends an MSI-X message of its own, so that
the read's data is not all that is sent. -/
theorem not_stateStoreAccesses : ¬ Obligations.StateStoreAccesses := by
  unfold Obligations.StateStoreAccesses
  intro h
  obtain ⟨hbar4, -⟩ := h alarmedState
  obtain ⟨-, -, -, hbad⟩ := hbar4 (by decide) (by decide) 0 (List.replicate 8 0#8) (by decide)
  obtain ⟨t, bs, ht, houts, -⟩ := hbad 0 (by decide) (by decide) (by decide) rfl
  rw [outs_of_sentAfter ht alarmedState_sent] at houts
  have hcount : 2 = 1 := congrArg List.length houts
  exact absurd hcount (by decide)

end Sys2Proof.Machine
end

section
/-! The page table (R196 to R204): ranges of a memory read and written, the fields of an entry, what a write of one entry changes and what it leaves. -/

namespace Sys2Proof.Machine

/-! ### Ranges of a memory -/

@[simp] theorem memReadN_length (m : Mem) (a n : Nat) : (memReadN m a n).length = n := by simp [memReadN]

theorem memReadN_memWrite_out (m : Mem) (a : Nat) (bs : List Byte) {b n : Nat} (h : b + n ≤ a ∨ a + bs.length ≤ b) :
    memReadN (memWrite m a bs) b n = memReadN m b n := by
  refine List.map_congr_left fun i hi => memRead_memWrite_out m a bs ?_
  have hn : i < n := List.mem_range.mp hi
  omega

theorem memReadN_memWrite_same (m : Mem) (a : Nat) {bs : List Byte} {n : Nat} (h : bs.length = n) : memReadN (memWrite m a bs) a n = bs := by
  rw [memReadN_memWrite_take m a bs h.ge, ← h, List.take_length]

theorem memReadN_add (m : Mem) (a n k : Nat) : memReadN m a (n + k) = memReadN m a n ++ memReadN m (a + n) k := by
  simp [memReadN, List.range_add, Nat.add_assoc, Function.comp_def]

/-- A range read block by block. -/
theorem memReadN_blocks (m : Mem) (a n k : Nat) : (List.range k).flatMap (fun b => memReadN m (a + n * b) n) = memReadN m a (n * k) := by
  induction k with
  | zero => rfl
  | succ k ih => rw [List.range_succ, List.flatMap_append, ih, Nat.mul_succ, memReadN_add, List.flatMap_singleton]

theorem memCells_zeros (a n : Nat) : memCells a (List.replicate n 0#8) = [] := by
  induction n generalizing a with
  | zero => rfl
  | succ n ih => simpa [List.replicate_succ, memCells] using ih (a + 1)

/-- Clearing a range is writing zero bytes. -/
theorem memZero_eq_memWrite (m : Mem) (a n : Nat) : memZero m a n = memWrite m a (List.replicate n 0#8) := by
  simp [memZero, memWrite, memCells_zeros]

/-! ### Fields of an entry (Table 07-2) -/

section
variable (st fmt frame : Nat) (migr pin : Bool)

theorem mkPte_lt : mkPte st migr pin fmt frame < 2 ^ 32 := by
  unfold mkPte
  split <;> split <;> omega

@[simp] theorem pteState_mkPte : pteState (mkPte st migr pin fmt frame) = st % 4 := by
  unfold pteState bitsOf mkPte
  split <;> split <;> omega

@[simp] theorem pteMigrating_mkPte : pteMigrating (mkPte st migr pin fmt frame) = migr := by
  unfold pteMigrating bitSet mkPte
  cases migr <;> cases pin <;> simp <;> omega

@[simp] theorem ptePinned_mkPte : ptePinned (mkPte st migr pin fmt frame) = pin := by
  unfold ptePinned bitSet mkPte
  cases migr <;> cases pin <;> simp <;> omega

@[simp] theorem pteFormat_mkPte : pteFormat (mkPte st migr pin fmt frame) = fmt % 16 := by
  unfold pteFormat bitsOf mkPte
  split <;> split <;> omega

@[simp] theorem pteFrame_mkPte : pteFrame (mkPte st migr pin fmt frame) = frame % 2 ^ 24 := by
  unfold pteFrame bitsOf mkPte
  split <;> split <;> omega

end

theorem pteState_lt (x : Nat) : pteState x < 4 := Nat.mod_lt _ (by decide)
theorem pteFormat_lt (x : Nat) : pteFormat x < 16 := Nat.mod_lt _ (by decide)
theorem pteFrame_lt (x : Nat) : pteFrame x < 2 ^ 24 := Nat.mod_lt _ (by decide)

/-! ### An entry read back -/

section
variable {s t : State}

theorem pteOf_of_sts (h : t.sts = s.sts) (u : Nat) : pteOf t u = pteOf s u := by rw [pteOf, h, pteOf]

/-- The entry just written reads as it was written. -/
theorem pteOf_of_written {m : Mem} {v x : Nat} (hx : x < 2 ^ 32) (h : t.sts = memWrite m (0xBC000000 + 4 * v) (leBytes 4 x)) : pteOf t v = x := by
  rw [pteOf, memLe, h, memReadN_memWrite_same _ _ (leBytes_length 4 x), ofLe_leBytes]
  exact Nat.mod_eq_of_lt hx

/-- A write of another entry, or of bytes below the table, leaves an entry as it was. -/
theorem pteOf_of_written_other {a u : Nat} {bs : List Byte} (h : t.sts = memWrite s.sts a bs)
    (ha : 0xBC000000 + 4 * u + 4 ≤ a ∨ a + bs.length ≤ 0xBC000000 + 4 * u) : pteOf t u = pteOf s u := by
  rw [pteOf, memLe, h, memReadN_memWrite_out _ _ _ ha, pteOf, memLe]

end

/-! ### Operations of the page mover that leave the table alone -/

/-- What no change of a page-table entry reaches: far memory, facet memory, the migration commands. -/
def besideTable (s : State) : Mem × Mem × List MigCmd := (s.far, s.fmem, s.paging.migrations)

theorem far_of_besideTable {s t : State} (h : besideTable t = besideTable s) : t.far = s.far := congrArg Prod.fst h
theorem fmem_of_besideTable {s t : State} (h : besideTable t = besideTable s) : t.fmem = s.fmem := congrArg (fun x => x.2.1) h
theorem migrations_of_besideTable {s t : State} (h : besideTable t = besideTable s) : t.paging.migrations = s.paging.migrations := congrArg (fun x => x.2.2) h

section
variable (s : State)

theorem healWords_paging (whole : Nat → Bool) :
    (healWords s whole).paging = { s.paging with badWords := (healWords s whole).paging.badWords } := by
  unfold healWords
  split <;> rfl

/-- A write of the State Store by a unit: the bytes, the counters, and the words that are whole again. -/
theorem stsWrite_frame (unit : Option Nat) (a : Nat) (bs : List Byte) :
    stsWrite s unit a bs = { s with
      sts := memWrite s.sts a bs, regs := (stsWrite s unit a bs).regs, paging := { s.paging with badWords := (stsWrite s unit a bs).paging.badWords } } := by
  rw [stsWrite, countRange, serveLines_side, healWords_side, healWords_paging]

theorem setPte_frame (v x : Nat) :
    setPte s v x = { s with
      sts := memWrite s.sts (0xBC000000 + 4 * v) (leBytes 4 x), regs := (setPte s v x).regs, paging := { s.paging with badWords := (setPte s v x).paging.badWords } } :=
  stsWrite_frame s _ _ _

@[simp] theorem stsWrite_sts (unit : Option Nat) (a : Nat) (bs : List Byte) : (stsWrite s unit a bs).sts = memWrite s.sts a bs := by rw [stsWrite_frame]
@[simp] theorem setPte_sts (v x : Nat) : (setPte s v x).sts = memWrite s.sts (0xBC000000 + 4 * v) (leBytes 4 x) := by rw [setPte_frame]
@[simp] theorem setNear_sts (n : Nat) (e : NearEntry) : (setNear s n e).sts = s.sts := rfl
@[simp] theorem freeNear_sts (n : Nat) : (freeNear s n).sts = s.sts := rfl
@[simp] theorem countRange_sts (unit : Option Nat) (isWrite : Bool) (a n : Nat) : (countRange s unit isWrite a n).sts = s.sts := by
  rw [countRange, serveLines_side]
@[simp] theorem healWords_sts (whole : Nat → Bool) : (healWords s whole).sts = s.sts := by rw [healWords_side]

@[simp] theorem freeFar_sts (f : Nat) : (freeFar s f).sts = s.sts := by
  unfold freeFar
  split <;> rfl

@[simp] theorem besideTable_stsWrite (unit : Option Nat) (a : Nat) (bs : List Byte) : besideTable (stsWrite s unit a bs) = besideTable s := by
  rw [stsWrite_frame]
  rfl

@[simp] theorem besideTable_setPte (v x : Nat) : besideTable (setPte s v x) = besideTable s := besideTable_stsWrite s _ _ _
@[simp] theorem besideTable_setNear (n : Nat) (e : NearEntry) : besideTable (setNear s n e) = besideTable s := rfl
@[simp] theorem besideTable_freeNear (n : Nat) : besideTable (freeNear s n) = besideTable s := rfl
@[simp] theorem besideTable_bump (f : Field) (n : Nat) : besideTable (bump s f n) = besideTable s := rfl
@[simp] theorem besideTable_modSeq (f : Sequencer → Sequencer) : besideTable (modSeq s f) = besideTable s := rfl

@[simp] theorem besideTable_countRange (unit : Option Nat) (isWrite : Bool) (a n : Nat) : besideTable (countRange s unit isWrite a n) = besideTable s := by
  rw [countRange, serveLines_side]
  rfl

@[simp] theorem besideTable_healWords (whole : Nat → Bool) : besideTable (healWords s whole) = besideTable s := by
  unfold healWords
  split <;> rfl

@[simp] theorem besideTable_freeFar (f : Nat) : besideTable (freeFar s f) = besideTable s := by
  unfold freeFar
  split <;> rfl

@[simp] theorem pteOf_setPte_same {v x : Nat} (hx : x < 2 ^ 32) : pteOf (setPte s v x) v = x := pteOf_of_written hx (setPte_sts s v x)

theorem pteOf_setPte_other {u v : Nat} (x : Nat) (h : u ≠ v) : pteOf (setPte s v x) u = pteOf s u :=
  pteOf_of_written_other (setPte_sts s v x) (by rw [leBytes_length]; omega)

end

end Sys2Proof.Machine
end

section
/-! Migration entries (R212 to R214): one that fails, one whose effect comes at once, one whose transfer starts. -/

namespace Sys2Proof.Machine

theorem exec_fetchPage (m i : Nat) (s : State) : exec (.fetchPage m i) s = execFetchPage m i s := by rfl
theorem exec_fetchMove (m i : Nat) (s : State) : exec (.fetchMove m i) s = execFetchMove m i s := by rfl
theorem exec_evictPage (m i : Nat) (s : State) : exec (.evictPage m i) s = execEvictPage m i s := by rfl
theorem exec_cleanPage (m i : Nat) (s : State) : exec (.cleanPage m i) s = execCleanPage m i s := by rfl
theorem exec_dropFar (m i : Nat) (s : State) : exec (.dropFar m i) s = execDropFar m i s := by rfl
theorem exec_zeroNear (m i : Nat) (s : State) : exec (.zeroNear m i) s = execZeroNear m i s := by rfl
theorem exec_freePage (m i : Nat) (s : State) : exec (.freePage m i) s = execFreePage m i s := by rfl
theorem exec_retagPage (m i : Nat) (s : State) : exec (.retagPage m i) s = execRetagPage m i s := by rfl

/-! ### Entries of the commands kept -/

theorem getElem?_updAt_same {α : Type} (xs : List α) (i : Nat) (f : α → α) : (updAt xs i f)[i]? = xs[i]?.map f := by
  induction xs generalizing i with
  | nil => rfl
  | cons x r ih =>
    cases i with
    | zero => rfl
    | succ j => simpa [updAt] using ih j

theorem migEntry_modMig (s : State) (m i : Nat) (f : MigEntry → MigEntry) : migEntry (modMig s m i f) m i = (migEntry s m i).map f := by
  simp only [migEntry, modMig, modPaging, getElem?_updAt_same]
  cases s.paging.migrations[m]? with
  | none => rfl
  | some c => exact getElem?_updAt_same c.entries i f

theorem migEntry_of_migrations {s t : State} (h : t.paging.migrations = s.paging.migrations) (m i : Nat) : migEntry t m i = migEntry s m i := by
  rw [migEntry, h, migEntry]

section
variable {s : State} {m i op st : Nat} {e : MigEntry}

/-- An entry that may start is the one at its place, and its operation the one asked for. -/
theorem migDue_entry (h : migDue s m i op = some e) : migEntry s m i = some e ∧ e.op = op := by
  unfold migDue at h
  split at h
  · next x hx _ =>
    split at h
    · next hready =>
      cases h
      simp only [Bool.and_eq_true, decide_eq_true_eq] at hready
      obtain ⟨⟨⟨⟨⟨hop, -⟩, -⟩, -⟩, -⟩, -⟩ := hready
      exact ⟨hx, hop⟩
    · cases h
  · cases h

/-- An entry that passes the checks names a near frame below the page table (R199). -/
theorem near_lt_of_passes (h : entryFails s e = none) (hop : namesNear e.op = true) : e.near < 192512 := by
  by_contra hout
  have hbad : nearUsable s e.near = false := by simp [nearUsable, hout]
  unfold entryFails at h
  simp only [hop, hbad, Bool.not_false, Bool.and_self, Bool.true_or, if_true] at h
  split at h <;> cases h

/-! ### The end of an entry -/

/-- The end of an entry changes the entry, the counters and the page mover's records for the report. -/
theorem endEntry_frame (s : State) (m i st : Nat) :
    endEntry s m i st = { modMig s m i (fun e => { e with status := some st, running := false }) with
      regs := (endEntry s m i st).regs, seq := (endEntry s m i st).seq } := by
  unfold endEntry
  dsimp only
  split_ifs <;> rfl

theorem sameMemories_endEntry (s : State) (m i st : Nat) : SameMemories s (endEntry s m i st) := by
  rw [endEntry_frame]
  exact ⟨rfl, rfl, rfl, rfl, rfl, rfl⟩

@[simp] theorem endEntry_sts (s : State) (m i st : Nat) : (endEntry s m i st).sts = s.sts := by rw [endEntry_frame]; rfl
@[simp] theorem endEntry_far (s : State) (m i st : Nat) : (endEntry s m i st).far = s.far := by rw [endEntry_frame]; rfl
@[simp] theorem pteOf_endEntry (s : State) (m i st u : Nat) : pteOf (endEntry s m i st) u = pteOf s u := pteOf_of_sts (endEntry_sts s m i st) u
@[simp] theorem nearOf_endEntry (s : State) (m i st n : Nat) : nearOf (endEntry s m i st) n = nearOf s n := by rw [endEntry_frame]; rfl

theorem migEntry_endEntry (h : migEntry s m i = some e) (st : Nat) :
    migEntry (endEntry s m i st) m i = some { e with status := some st, running := false } := by
  rw [endEntry_frame]
  exact (migEntry_modMig s m i _).trans (congrArg (Option.map _) h)

/-- CPT_CNT_FAIL counts the entries that end with a status other than 0 (Table 07-7). -/
theorem fget_endEntry_fail (s : State) (m i st : Nat) :
    fget (endEntry s m i st) Fld.cptCntFail_COUNT = if st = 0 then fget s Fld.cptCntFail_COUNT else (fget s Fld.cptCntFail_COUNT + 1) % 2 ^ 32 := by
  unfold endEntry
  dsimp only
  split_ifs
  · rfl
  · rfl
  · exact fget_bump_same (modMig s m i _) 1
  · exact fget_bump_same (modMig s m i _) 1

/-! ### The three ways that an entry starts -/

/-- The commands that run an entry, each with its operation (Table 07-5). -/
def migrationRows (m i : Nat) : List (Instr × Nat) :=
  [(.fetchPage m i, 1), (.fetchMove m i, 2), (.evictPage m i, 3), (.cleanPage m i, 4), (.dropFar m i, 5), (.zeroNear m i, 6), (.freePage m i, 7), (.retagPage m i, 8)]

theorem migrationRows_op {c : Instr × Nat} (hc : c ∈ migrationRows m i) : 1 ≤ c.2 ∧ c.2 ≤ 8 := by
  have hop : c.2 ∈ [1, 2, 3, 4, 5, 6, 7, 8] := List.mem_map_of_mem (f := Prod.snd) hc
  simp only [List.mem_cons, List.not_mem_nil, or_false] at hop
  omega

theorem execRetagPage_due (h : migDue s m i 8 = some e) : execRetagPage m i s = runEntry s m i 8 := by
  obtain ⟨hentry, hop⟩ := migDue_entry h
  simp [execRetagPage, hentry, hop]

theorem exec_migrationRow {c : Instr × Nat} (hc : c ∈ migrationRows m i) (h : migDue s m i c.2 = some e) : exec c.1 s = runEntry s m i c.2 := by
  simp only [migrationRows, List.mem_cons, List.not_mem_nil, or_false] at hc
  rcases hc with rfl | rfl | rfl | rfl | rfl | rfl | rfl | rfl
  · exact exec_fetchPage m i s
  · exact exec_fetchMove m i s
  · exact exec_evictPage m i s
  · exact exec_cleanPage m i s
  · exact exec_dropFar m i s
  · exact exec_zeroNear m i s
  · exact exec_freePage m i s
  · exact (exec_retagPage m i s).trans (execRetagPage_due h)

/-- The page mover's time at work is counted from here where it was idle. -/
def busyFrom (s : State) : State := if (migRunning s).isEmpty then modPaging s (fun g => { g with busySince := s.now }) else s

theorem busyFrom_frame (s : State) : busyFrom s = modPaging s (fun g => { g with busySince := (busyFrom s).paging.busySince }) := by
  unfold busyFrom
  split <;> rfl

theorem runEntry_fails (h : migDue s m i op = some e) (hf : entryFails s e = some st) : runEntry s m i op = .next (endEntry s m i st) := by
  simp only [runEntry, h, hf]

theorem runEntry_transfers (h : migDue s m i op = some e) (hf : entryFails s e = none) (ht : transfers s e = true) :
    runEntry s m i op = .next (beginMove s m i e) := by
  simp only [runEntry, h, hf, ht, if_true]

theorem runEntry_rests (h : migDue s m i op = some e) (hf : entryFails s e = none) (ht : transfers s e = false) :
    runEntry s m i op = .next (endEntry (moveNothing (busyFrom s) e) m i 0) := by
  simp only [runEntry, h, hf, ht, Bool.false_eq_true, if_false, busyFrom]

end

/-! ### What an operation leaves of the table -/

/-- The table and all beside it stand as they did. -/
def KeepsTable (s t : State) : Prop := besideTable t = besideTable s ∧ ∀ u, pteOf t u = pteOf s u

theorem keepsTable_of_sts {s t : State} (h : t.sts = s.sts) (hb : besideTable t = besideTable s) : KeepsTable s t := ⟨hb, pteOf_of_sts h⟩

theorem keepsTable_self (s : State) : KeepsTable s s := ⟨rfl, fun _ => rfl⟩

theorem KeepsTable.trans {r s t : State} (h : KeepsTable r s) (k : KeepsTable s t) : KeepsTable r t := ⟨k.1.trans h.1, fun u => (k.2 u).trans (h.2 u)⟩

/-- The entry of page `v` is `x`; no other page's entry has changed, and nothing beside the table. -/
structure LeavesPage (s t : State) (v x : Nat) : Prop where
  beside : besideTable t = besideTable s
  entry : pteOf t v = x
  others : ∀ u, u ≠ v → pteOf t u = pteOf s u

theorem leavesPage_setPte (s : State) (v : Nat) {x : Nat} (hx : x < 2 ^ 32) : LeavesPage s (setPte s v x) v x :=
  ⟨besideTable_setPte s v x, pteOf_setPte_same s hx, fun _ hu => pteOf_setPte_other s x hu⟩

theorem KeepsTable.thenLeaves {r s t : State} {v x : Nat} (k : KeepsTable r s) (h : LeavesPage s t v x) : LeavesPage r t v x :=
  ⟨h.beside.trans k.1, h.entry, fun u hu => (h.others u hu).trans (k.2 u)⟩

theorem LeavesPage.thenKeeps {s t r : State} {v x : Nat} (h : LeavesPage s t v x) (k : KeepsTable t r) : LeavesPage s r v x :=
  ⟨k.1.trans h.beside, (k.2 v).trans h.entry, fun u hu => (k.2 u).trans (h.others u hu)⟩

section
variable (s : State)

theorem keepsTable_setNear (n : Nat) (x : NearEntry) : KeepsTable s (setNear s n x) := keepsTable_of_sts rfl rfl
theorem keepsTable_freeNear (n : Nat) : KeepsTable s (freeNear s n) := keepsTable_of_sts rfl rfl
theorem keepsTable_freeFar (f : Nat) : KeepsTable s (freeFar s f) := keepsTable_of_sts (freeFar_sts s f) (besideTable_freeFar s f)
theorem keepsTable_drawn : KeepsTable s (drawn s) := keepsTable_of_sts rfl rfl
theorem keepsTable_busyFrom : KeepsTable s (busyFrom s) := by
  rw [busyFrom_frame]
  exact keepsTable_of_sts rfl rfl

theorem resultPte_lt (e : MigEntry) (st frame : Nat) : resultPte s e st frame < 2 ^ 32 := mkPte_lt _ _ _ _ _

theorem leavesPage_resultPte (t : State) (e : MigEntry) (st frame : Nat) :
    LeavesPage t (setPte t e.vpn (resultPte s e st frame)) e.vpn (resultPte s e st frame) := leavesPage_setPte t e.vpn (resultPte_lt s e st frame)

/-- The near frame of ZERO_NEAR, cleared. -/
def zeroedNear (e : MigEntry) : State :=
  countRange (healWords { s with sts := memZero s.sts (e.near * 2 ^ 14) (2 ^ 14) } (fun k => decide (k / 2048 = e.near))) none true (e.near * 2 ^ 14) (2 ^ 14)

theorem zeroedNear_sts (e : MigEntry) : (zeroedNear s e).sts = memWrite s.sts (e.near * 2 ^ 14) (List.replicate (2 ^ 14) 0#8) := by
  rw [zeroedNear, countRange_sts, healWords_sts, memZero_eq_memWrite]

theorem keepsTable_zeroedNear {e : MigEntry} (h : e.near < 192512) : KeepsTable s (zeroedNear s e) := by
  refine ⟨?_, fun u => pteOf_of_written_other (zeroedNear_sts s e) (.inr ?_)⟩
  · rw [zeroedNear, besideTable_countRange, besideTable_healWords]
    rfl
  · rw [List.length_replicate]
    omega

/-- A page's far home released, where it has one (DROP_FAR, FREE). -/
def homeReleased (t : State) (n : Nat) : State :=
  match homeOf s n with
  | none => t
  | some h => freeFar t h

theorem keepsTable_homeReleased (t : State) (n : Nat) : KeepsTable t (homeReleased s t n) := by
  unfold homeReleased
  split
  · exact keepsTable_self t
  · exact keepsTable_freeFar t _

/-- The near frame of a page of state `st` released, where it has one (FREE). -/
def nearReleased (st n : Nat) : State := if 2 ≤ st then freeNear s n else s

theorem keepsTable_nearReleased (st n : Nat) : KeepsTable s (nearReleased s st n) := by
  unfold nearReleased
  split
  · exact keepsTable_freeNear s n
  · exact keepsTable_self s

/-- The frames of a page of state `st` at frame `n` released (FREE). -/
def framesReleased (st n : Nat) : State :=
  if st = 1 then freeFar (nearReleased s st n) n else if st = 3 then homeReleased s (nearReleased s st n) n else nearReleased s st n

theorem keepsTable_framesReleased (st n : Nat) : KeepsTable s (framesReleased s st n) := by
  have hnear := keepsTable_nearReleased s st n
  unfold framesReleased
  split_ifs
  · exact hnear.trans (keepsTable_freeFar _ n)
  · exact hnear.trans (keepsTable_homeReleased s _ n)
  · exact hnear

end

/-! ### Operations without a transfer (Table 07-5) -/

section
variable (s : State) (e : MigEntry)

theorem moveNothing_evict (hop : e.op = 3) : moveNothing s e =
    freeNear (setPte s e.vpn (resultPte s e 1 ((homeOf s (pteFrame (pteOf s e.vpn))).getD 0))) (pteFrame (pteOf s e.vpn)) := by
  unfold moveNothing
  rw [hop]
  rfl

theorem moveNothing_clean (hop : e.op = 4) : moveNothing s e = setPte s e.vpn (resultPte s e 3 (pteFrame (pteOf s e.vpn))) := by
  unfold moveNothing
  rw [hop]
  rfl

theorem moveNothing_dropFar (hop : e.op = 5) : moveNothing s e =
    setPte (setNear (homeReleased s s (pteFrame (pteOf s e.vpn))) (pteFrame (pteOf s e.vpn)) ⟨e.vpn, none, nearDirty s (pteFrame (pteOf s e.vpn))⟩) e.vpn
      (resultPte s e 2 (pteFrame (pteOf s e.vpn))) := by
  unfold moveNothing
  rw [hop]
  rfl

theorem moveNothing_zeroNear (hop : e.op = 6) : moveNothing s e =
    setPte (setNear (zeroedNear s e) e.near ⟨e.vpn, none, false⟩) e.vpn (resultPte s e 2 e.near) := by
  unfold moveNothing
  rw [hop]
  rfl

theorem moveNothing_free (hop : e.op = 7) : moveNothing s e =
    drawn (setPte (framesReleased s (pteState (pteOf s e.vpn)) (pteFrame (pteOf s e.vpn))) e.vpn (resultPte s e 0 ((Config.freeWord s.free).toNat % 2 ^ 24))) := by
  unfold moveNothing
  rw [hop]
  rfl

theorem moveNothing_retag (hop : e.op = 8) : moveNothing s e = setPte s e.vpn (resultPte s e (pteState (pteOf s e.vpn)) (pteFrame (pteOf s e.vpn))) := by
  unfold moveNothing
  rw [hop]
  rfl

theorem nearOf_moveNothing_evict (hop : e.op = 3) : nearOf (moveNothing s e) (pteFrame (pteOf s e.vpn)) = none := by
  rw [moveNothing_evict s e hop]
  exact mapFind_mapDel_same _ _

/-- ZERO_NEAR leaves a frame of zeros. -/
theorem memRead_moveNothing_zeroNear (hop : e.op = 6) (hnear : e.near < 192512) {x : Nat} (hx : x < 16384) :
    memRead (moveNothing s e).sts (e.near * 16384 + x) = 0#8 := by
  rw [moveNothing_zeroNear s e hop, setPte_sts, setNear_sts, zeroedNear_sts, memRead_memWrite_out _ _ _ (by omega)]
  exact (memRead_memWrite_in s.sts (e.near * 2 ^ 14) _ (by rwa [List.length_replicate])).trans (List.getD_replicate _ hx)

/-- The state in which an operation leaves its page. -/
def restedState (op old : Nat) : Nat :=
  match op with
  | 3 => 1
  | 4 => 3
  | 5 => 2
  | 6 => 2
  | 7 => 0
  | _ => old

/-- The frame that an operation leaves in its page's entry; that of an ABSENT page is free. -/
def restedFrame : Nat :=
  match e.op with
  | 3 => (homeOf s (pteFrame (pteOf s e.vpn))).getD 0
  | 6 => e.near
  | 7 => (Config.freeWord s.free).toNat % 2 ^ 24
  | _ => pteFrame (pteOf s e.vpn)

theorem restedFrame_evict (hop : e.op = 3) : restedFrame s e = (homeOf s (pteFrame (pteOf s e.vpn))).getD 0 := by simp only [restedFrame, hop]

theorem restedFrame_zeroNear (hop : e.op = 6) : restedFrame s e = e.near := by simp only [restedFrame, hop]

/-- CLEAN, DROP_FAR and RETAG leave a page where it was. -/
theorem restedFrame_kept (hop : e.op ∈ [4, 5, 8]) : restedFrame s e = pteFrame (pteOf s e.vpn) := by
  simp only [List.mem_cons, List.not_mem_nil, or_false] at hop
  rcases hop with h | h | h <;> simp only [restedFrame, h]

/-- The entry that an operation without a transfer leaves. -/
def restedPte : Nat := resultPte s e (restedState e.op (pteState (pteOf s e.vpn))) (restedFrame s e)

theorem pteFrame_restedPte : pteFrame (restedPte s e) = restedFrame s e % 2 ^ 24 := pteFrame_mkPte _ _ _ _ _

theorem leavesPage_moveNothing (hop : e.op = 3 ∨ e.op = 4 ∨ e.op = 5 ∨ e.op = 6 ∨ e.op = 7 ∨ e.op = 8) (hnear : e.op = 6 → e.near < 192512) :
    LeavesPage s (moveNothing s e) e.vpn (restedPte s e) := by
  rcases hop with hop | hop | hop | hop | hop | hop
  · simp only [moveNothing_evict s e hop, restedPte, restedState, restedFrame, hop]
    exact (leavesPage_resultPte s s e _ _).thenKeeps (keepsTable_freeNear _ _)
  · simp only [moveNothing_clean s e hop, restedPte, restedState, restedFrame, hop]
    exact leavesPage_resultPte s s e _ _
  · simp only [moveNothing_dropFar s e hop, restedPte, restedState, restedFrame, hop]
    exact ((keepsTable_homeReleased s s _).trans (keepsTable_setNear _ _ _)).thenLeaves (leavesPage_resultPte s _ e _ _)
  · simp only [moveNothing_zeroNear s e hop, restedPte, restedState, restedFrame, hop]
    exact ((keepsTable_zeroedNear s (hnear hop)).trans (keepsTable_setNear _ _ _)).thenLeaves (leavesPage_resultPte s _ e _ _)
  · simp only [moveNothing_free s e hop, restedPte, restedState, restedFrame, hop]
    exact ((keepsTable_framesReleased s _ _).thenLeaves (leavesPage_resultPte s _ e _ _)).thenKeeps (keepsTable_drawn _)
  · simp only [moveNothing_retag s e hop, restedPte, restedState, restedFrame, hop]
    exact leavesPage_resultPte s s e _ _

theorem restedPte_busyFrom : restedPte (busyFrom s) e = restedPte s e := by
  rw [busyFrom_frame]
  rfl

/-- An entry without a transfer runs: its page has the entry that Table 07-5 gives, no other page's has changed, and the entry has ended. -/
theorem leavesPage_rests (hop : e.op = 3 ∨ e.op = 4 ∨ e.op = 5 ∨ e.op = 6 ∨ e.op = 7 ∨ e.op = 8) (hnear : e.op = 6 → e.near < 192512) : LeavesPage s (moveNothing (busyFrom s) e) e.vpn (restedPte s e) := by
  rw [← restedPte_busyFrom]
  exact (keepsTable_busyFrom s).thenLeaves (leavesPage_moveNothing (busyFrom s) e hop hnear)

end

/-- The fields of the entry that an operation leaves. -/
theorem leavesPte_of_resultPte {s t : State} {e : MigEntry} {st frame : Nat} (h : pteOf t e.vpn = resultPte s e st frame) (hst : st < 4) :
    LeavesPte s t e st (if e.op = 7 then pteFormat (pteOf s e.vpn) else e.format) := by
  have hfmt : (if e.op = 7 then pteFormat (pteOf s e.vpn) else e.format) < 16 := by
    split
    · exact pteFormat_lt _
    · exact Nat.mod_lt _ (by decide)
  rw [LeavesPte, h, resultPte, pteState_mkPte, pteMigrating_mkPte, pteFormat_mkPte, ptePinned_mkPte]
  exact ⟨Nat.mod_eq_of_lt hst, rfl, Nat.mod_eq_of_lt hfmt, rfl⟩

theorem restedState_lt (op : Nat) {old : Nat} (h : old < 4) : restedState op old < 4 := by
  unfold restedState
  split <;> omega

/-! ### A transfer starts -/

/-- Its entry runs, its page is MIGRATING, and nothing else of the table changes. -/
theorem leavesPage_beginMove (s : State) (m i : Nat) (e : MigEntry) :
    LeavesPage (modMig s m i (fun x => { x with running := true, doneAt := workEnds s (e.vpn % 16) 320 })) (beginMove s m i e) e.vpn
      (mkPte (pteState (pteOf s e.vpn)) true (ptePinned (pteOf s e.vpn)) (pteFormat (pteOf s e.vpn)) (pteFrame (pteOf s e.vpn))) := by
  have hset : ∀ r t : State, KeepsTable r t → ∀ x, x < 2 ^ 32 → LeavesPage r (if namesNear e.op then setNear (setPte t e.vpn x) e.near ⟨e.vpn, none, false⟩ else setPte t e.vpn x) e.vpn x := by
    intro r t k x hx
    split
    · exact (k.thenLeaves (leavesPage_setPte t e.vpn hx)).thenKeeps (keepsTable_setNear _ _ _)
    · exact k.thenLeaves (leavesPage_setPte t e.vpn hx)
  refine hset _ _ ?_ _ (mkPte_lt _ _ _ _ _)
  split <;> exact keepsTable_of_sts rfl rfl

/-- Settles O36: an entry fails with its status, starts its transfer, or has its effect at once. -/
theorem migrationEntriesRun : Obligations.MigrationEntriesRun := by
  unfold Obligations.MigrationEntriesRun
  intro s m i e p others rows
  refine ⟨fun c hc hdue st hfails => ?_, fun c hc hdue hpasses hmoves => ?_, fun c hc hdue hpasses hrests hfetch hmove => ?_⟩
  · obtain ⟨hentry, -⟩ := migDue_entry hdue
    exact ⟨_, (exec_migrationRow hc hdue).trans (runEntry_fails hdue hfails), migEntry_endEntry hentry st, sameMemories_endEntry s m i st, fget_endEntry_fail s m i st⟩
  · obtain ⟨hentry, -⟩ := migDue_entry hdue
    obtain ⟨hbeside, hpte, hothers⟩ := leavesPage_beginMove s m i e
    refine ⟨_, (exec_migrationRow hc hdue).trans (runEntry_transfers hdue hpasses hmoves), ?_, hpte, fun u _ hu => hothers u hu,
      (far_of_besideTable hbeside).trans rfl, (fmem_of_besideTable hbeside).trans rfl⟩
    rw [migEntry_of_migrations (migrations_of_besideTable hbeside), migEntry_modMig, hentry]
    rfl
  · obtain ⟨hentry, hop⟩ := migDue_entry hdue
    have hnear : e.op = 6 → e.near < 192512 := fun h => near_lt_of_passes hpasses (by rw [h]; rfl)
    have hrow : e.op = 3 ∨ e.op = 4 ∨ e.op = 5 ∨ e.op = 6 ∨ e.op = 7 ∨ e.op = 8 := by
      have hbound := migrationRows_op hc
      omega
    obtain ⟨hbeside, hrested, hothers⟩ := leavesPage_rests s e hrow hnear
    have hpte : pteOf (endEntry (moveNothing (busyFrom s) e) m i 0) e.vpn = restedPte s e := (pteOf_endEntry _ _ _ _ _).trans hrested
    have hframe := (congrArg pteFrame hpte).trans (pteFrame_restedPte s e)
    rw [← hop]
    refine ⟨_, (exec_migrationRow hc hdue).trans (runEntry_rests hdue hpasses hrests), ?_, fun u _ hu => (pteOf_endEntry _ _ _ _ _).trans (hothers u hu),
      (endEntry_far _ _ _ _).trans (far_of_besideTable hbeside), (fmem_endEntry _ _ _ _).trans (fmem_of_besideTable hbeside),
      leavesPte_of_resultPte hpte (restedState_lt e.op (pteState_lt _)), fun h3 => ⟨?_, ?_⟩, fun h6 => ⟨?_, fun x hx => ?_⟩, fun h458 => ?_⟩
    · exact migEntry_endEntry ((migEntry_of_migrations (migrations_of_besideTable hbeside) m i).trans hentry) 0
    · rw [hframe, restedFrame_evict s e h3]
    · rw [nearOf_endEntry, show p = _ from ((keepsTable_busyFrom s).2 e.vpn).symm]
      exact nearOf_moveNothing_evict (busyFrom s) e h3
    · rw [hframe, restedFrame_zeroNear s e h6]
      exact Nat.mod_eq_of_lt ((hnear h6).trans (by decide))
    · rw [endEntry_sts]
      exact memRead_moveNothing_zeroNear (busyFrom s) e h6 (hnear h6) hx
    · rw [hframe, restedFrame_kept s e (hop ▸ h458)]
      exact Nat.mod_eq_of_lt (pteFrame_lt p)

end Sys2Proof.Machine
end

section
/-! MIGRATE, the commit of a transfer, and the end of the frame (R211, R213 to R215). -/

namespace Sys2Proof.Machine

theorem exec_migrateCmd (qp : Nat) (s : State) : exec (.migrateCmd qp) s = execMigrateCmd qp s := by rfl
theorem exec_migrationCommit (m i : Nat) (s : State) : exec (.migrationCommit m i) s = execMigrationCommit m i s := by rfl
theorem exec_migrateStatusWriteback (s : State) : exec .migrateStatusWriteback s = execMigrateStatusWriteback s := by rfl

/-! ### A command is kept (R211) -/

/-- MIGRATE for the frame after the next, before the cut-off: it is taken from its queue pair and kept. -/
theorem execMigrateCmd_kept {s : State} {qp : Nat} {c : HostCmd} (hc : headCmd s qp 4 = some c) (hserve : serving s = true) (hbme : s.hif.bme = true)
    (hframe : framesAhead s c.frame = 1) (hcut : afterCutoff s c.arrival = false) :
    execMigrateCmd qp s = .next (modPaging (popCmd s qp) (fun p => { p with
      migrations := p.migrations.filter (fun x => decide (x.cmd.arrival ≤ c.arrival))
        ++ ⟨c, c.frame, c.addr, fetchEntries s c⟩ :: p.migrations.filter (fun x => decide (c.arrival < x.cmd.arrival)) })) := by
  have hahead : framesAhead (popCmd s qp) c.frame = 1 := hframe
  have hbefore : afterCutoff (popCmd s qp) c.arrival = false := hcut
  simp only [execMigrateCmd, hc]
  rw [whenever_true (by rw [hserve, hbme]; rfl), takeMigrate, if_neg (by rw [hahead]; decide), hbefore]
  rfl

/-! ### The bytes that a commit copies (R215) -/

section
variable (s : State)

theorem farPage_good {f : Nat} (h : farBad s f = false) : farPage s f = memReadN s.far (f * 16384) 16384 := by
  have hgood : ∀ b ∈ List.range 16, s.paging.badBlocks.contains (16 * f + b) = false := fun b hb => by
    have hlt := List.mem_range.mp hb
    by_contra hbad
    have hmem : 16 * f + b ∈ s.paging.badBlocks := by simpa using hbad
    have hframe := List.any_eq_false.mp h _ hmem
    simp only [decide_eq_true_eq] at hframe
    omega
  rw [← memReadN_blocks s.far (f * 16384) 1024 16, farPage]
  refine List.flatMap_congr fun b hb => ?_
  rw [hgood b hb]
  rfl

theorem nearPage_good {n : Nat} (h : nearBad s n = false) : nearPage s n = memReadN s.sts (n * 16384) 16384 := by
  have hgood : ∀ b ∈ List.range 16, s.paging.badWords.any (fun k => k / 128 = 16 * n + b) = false := fun b hb => by
    have hlt := List.mem_range.mp hb
    refine List.any_eq_false.mpr fun k hk => ?_
    have hframe := List.any_eq_false.mp h k hk
    simp only [decide_eq_true_eq] at hframe ⊢
    omega
  rw [← memReadN_blocks s.sts (n * 16384) 1024 16, nearPage]
  refine List.flatMap_congr fun b hb => ?_
  rw [hgood b hb]
  rfl

/-! ### A commit -/

variable (e : MigEntry)

@[simp] theorem dueRetire_sts (f cause : Nat) : (dueRetire s f cause).sts = s.sts := by
  unfold dueRetire
  split <;> rfl

@[simp] theorem besideTable_dueRetire (f cause : Nat) : besideTable (dueRetire s f cause) = besideTable s := by
  unfold dueRetire
  split <;> rfl

/-- FETCH and FETCH_MOVE write the page's near frame and its table entry. -/
theorem commitFetch_sts : (commitFetch s e).1.sts =
    memWrite (memWrite s.sts (e.near * 2 ^ 14) (farPage s (pteFrame (pteOf s e.vpn)))) (0xBC000000 + 4 * e.vpn)
      (leBytes 4 (resultPte s e (if e.op = 1 then 3 else 2) e.near)) := by
  unfold commitFetch
  dsimp only
  simp only [decide_eq_true_eq]
  split_ifs <;> simp only [countBlocks, bump, modSeq_sts, fset_sts, dueRetire_sts, freeFar_sts, setPte_sts, setNear_sts, stsWrite_sts]

theorem besideTable_commitFetch : besideTable (commitFetch s e).1 = besideTable s := by
  unfold commitFetch
  dsimp only
  split_ifs <;> simp only [countBlocks, besideTable_modSeq, besideTable_bump, besideTable_dueRetire, besideTable_freeFar, besideTable_setPte,
    besideTable_setNear, besideTable_stsWrite]

theorem commitFetch_status (h : farBad s (pteFrame (pteOf s e.vpn)) = false) : (commitFetch s e).2 = 0 := by
  simp [commitFetch, h]

/-- The far frame to which EVICT and CLEAN write a page: the one that the entry names for a NEAR page, else the home. -/
def outFrame : Nat := if pteState (pteOf s e.vpn) = 2 then e.far else (homeOf s (pteFrame (pteOf s e.vpn))).getD 0

/-- The page's near bytes, written at its far frame (R214). -/
def pageSent : State :=
  countRange { s with far := memWrite s.far (outFrame s e * 2 ^ 14) (nearPage s (pteFrame (pteOf s e.vpn))) } none false (pteFrame (pteOf s e.vpn) * 2 ^ 14) (2 ^ 14)

/-- The table entry that EVICT and CLEAN leave. -/
def sentPte : Nat := if e.op = 3 then resultPte s e 1 (outFrame s e) else resultPte s e 3 (pteFrame (pteOf s e.vpn))

theorem sentPte_lt : sentPte s e < 2 ^ 32 := by
  unfold sentPte
  split <;> exact resultPte_lt s e _ _

/-- The page once EVICT has released its near frame, or CLEAN has noted its home there, and its table entry is written. -/
def pageOut : State :=
  if e.op = 3 then freeNear (setPte (pageSent s e) e.vpn (resultPte s e 1 (outFrame s e))) (pteFrame (pteOf s e.vpn))
  else setPte (setNear (pageSent s e) (pteFrame (pteOf s e.vpn)) ⟨e.vpn, some (outFrame s e), false⟩) e.vpn (resultPte s e 3 (pteFrame (pteOf s e.vpn)))

theorem pageOut_sts : (pageOut s e).sts = memWrite s.sts (0xBC000000 + 4 * e.vpn) (leBytes 4 (sentPte s e)) := by
  have hsent : (pageSent s e).sts = s.sts := countRange_sts _ _ _ _ _
  rw [pageOut, sentPte]
  split
  · rw [freeNear_sts, setPte_sts, hsent]
  · rw [setPte_sts, setNear_sts, hsent]

theorem besideTable_pageOut :
    besideTable (pageOut s e) = besideTable { s with far := memWrite s.far (outFrame s e * 2 ^ 14) (nearPage s (pteFrame (pteOf s e.vpn))) } := by
  have hsent : besideTable (pageSent s e) = besideTable { s with far := memWrite s.far (outFrame s e * 2 ^ 14) (nearPage s (pteFrame (pteOf s e.vpn))) } :=
    besideTable_countRange _ _ _ _ _
  rw [pageOut]
  split
  · rw [besideTable_freeNear, besideTable_setPte, hsent]
  · rw [besideTable_setPte, besideTable_setNear, hsent]

/-- A page that has gone out is counted (R192, Table 07-7). -/
def outCounted (t : State) (ch : Nat) : State := modSeq (bump (countBlocks t ch) Fld.cptCntOut_COUNT 1) (fun q => { q with pmOut := q.pmOut + 1 })

/-- EVICT and CLEAN write the page's far frame, then its table entry. -/
theorem commitOut_eq : commitOut s e = (outCounted (pageOut s e) (e.vpn % 16), if nearBad s (pteFrame (pteOf s e.vpn)) then 8 else 0) := rfl

theorem commitOut_sts : (commitOut s e).1.sts = memWrite s.sts (0xBC000000 + 4 * e.vpn) (leBytes 4 (sentPte s e)) := by
  rw [commitOut_eq]
  exact pageOut_sts s e

theorem besideTable_commitOut : besideTable (commitOut s e).1 =
    besideTable { s with far := memWrite s.far (outFrame s e * 2 ^ 14) (nearPage s (pteFrame (pteOf s e.vpn))) } := by
  rw [commitOut_eq]
  exact besideTable_pageOut s e

theorem commitOut_status (h : nearBad s (pteFrame (pteOf s e.vpn)) = false) : (commitOut s e).2 = 0 := by
  simp [commitOut_eq, h]

end

section
variable {s : State} {m i : Nat} {e : MigEntry}

theorem execMigrationCommit_due (hentry : migEntry s m i = some e) (hrun : e.running = true) (hdue : e.doneAt ≤ s.now) :
    execMigrationCommit m i s = .next (commitEntry s m i e) := by
  simp only [execMigrationCommit, hentry]
  exact whenever_true (by rw [hrun, decide_eq_true hdue]; rfl)

theorem commitEntry_fetch (hop : e.op = 1 ∨ e.op = 2) (hgood : farBad s (pteFrame (pteOf s e.vpn)) = false) :
    commitEntry s m i e = endEntry (commitFetch s e).1 m i 0 := by
  have hlow : e.op < 3 := by omega
  simp only [commitEntry, if_pos hlow, commitFetch_status s e hgood]

theorem commitEntry_out (hop : e.op = 3 ∨ e.op = 4) (hgood : nearBad s (pteFrame (pteOf s e.vpn)) = false) :
    commitEntry s m i e = endEntry (commitOut s e).1 m i 0 := by
  have hhigh : ¬e.op < 3 := by omega
  simp only [commitEntry, if_neg hhigh, commitOut_status s e hgood]

end

/-! ### The end of a frame (R213) -/

theorem paging_of_completionSide {s t : State} (h : CompletionSide s t) : t.paging = s.paging := by rw [h]

theorem paging_writeBack (s : State) (c : MigCmd) : (writeBack s c).paging = s.paging := by
  have hwrite : ∀ (t : State) a bs, (hostWrite t a bs).paging = t.paging := fun t a bs => by
    unfold hostWrite
    split <;> rfl
  exact (paging_of_completionSide (completionSide_complete _ _ _ _ _)).trans (foldl_keeps State.paging (fun t x => hwrite t _ _) _ s)

/-- Where nothing runs, the write-back takes the frame's commands from those kept, and changes nothing else of the paging unit. -/
theorem paging_writeBackAll {s : State} (h : migRunning s = []) :
    (writeBackAll s).paging = { s.paging with migrations := s.paging.migrations.filter (fun c => !migNow s c) } := by
  rw [writeBackAll, commitWhere_idle s _ h]
  exact foldl_keeps State.paging paging_writeBack _ _

theorem execMigrateStatusWriteback_due {s : State} (hany : ∃ c ∈ s.paging.migrations, migNow s c = true) (hidle : migRunning s = [])
    (hend : moverEnd s ≤ tcyc s) : execMigrateStatusWriteback s = .next (writeBackAll s) := by
  refine whenever_true ?_
  rw [List.any_eq_true.mpr hany, hidle, decide_eq_true hend]
  rfl

/-- Settles O37: a MIGRATE is kept, a transfer's commit, and the end of the frame. -/
theorem migrationCommandsAndCommit : Obligations.MigrationCommandsAndCommit := by
  unfold Obligations.MigrationCommandsAndCommit
  intro s
  refine ⟨fun qp c hc hserve hbme hframe hcut => ?_, fun m i e hentry hrun hdue => ?_, fun hany hidle hend => ?_⟩
  · exact ⟨_, (exec_migrateCmd qp s).trans (execMigrateCmd_kept hc hserve hbme hframe hcut), rfl, qpOf_popCmd_fetched s qp, rfl⟩
  · intro p n
    have hexec := (exec_migrationCommit m i s).trans (execMigrationCommit_due hentry hrun hdue)
    refine ⟨fun hop hgood hnear => ?_, fun hop hst hgood => ?_⟩
    · have hbeside := besideTable_commitFetch s e
      have hsts := commitFetch_sts s e
      have hpte : pteOf (endEntry (commitFetch s e).1 m i 0) e.vpn = resultPte s e (if e.op = 1 then 3 else 2) e.near :=
        (pteOf_endEntry _ _ _ _ _).trans (pteOf_of_written (resultPte_lt s e _ _) hsts)
      refine ⟨_, hexec.trans (congrArg _ (commitEntry_fetch hop hgood)),
        ?_, ?_, ?_, migEntry_endEntry ((migEntry_of_migrations (migrations_of_besideTable hbeside) m i).trans hentry) 0,
        (endEntry_far _ _ _ _).trans (far_of_besideTable hbeside)⟩
      · rw [hpte, resultPte, pteState_mkPte]
        split <;> rfl
      · rw [hpte, resultPte, pteFrame_mkPte]
        exact Nat.mod_eq_of_lt (hnear.trans (by decide))
      · rw [endEntry_sts, hsts, farPage_good s hgood, memReadN_memWrite_out _ _ _ (.inl (by omega))]
        exact memReadN_memWrite_same _ _ (memReadN_length _ _ _)
    · have hbeside := besideTable_commitOut s e
      have hfrom : outFrame s e = e.far := if_pos hst
      have hpte : pteOf (endEntry (commitOut s e).1 m i 0) e.vpn = sentPte s e :=
        (pteOf_endEntry _ _ _ _ _).trans (pteOf_of_written (sentPte_lt s e) (commitOut_sts s e))
      refine ⟨_, hexec.trans (congrArg _ (commitEntry_out hop hgood)),
        ?_, ?_, ?_, migEntry_endEntry ((migEntry_of_migrations (migrations_of_besideTable hbeside) m i).trans hentry) 0⟩
      · rw [hpte, sentPte]
        split <;> exact pteState_mkPte _ _ _ _ _
      · rw [hpte, sentPte, hfrom]
        split
        · exact (pteFrame_mkPte _ _ _ _ _).trans (Nat.mod_eq_of_lt (Nat.mod_lt _ (by decide)))
        · exact (pteFrame_mkPte _ _ _ _ _).trans (Nat.mod_eq_of_lt (pteFrame_lt p))
      · rw [endEntry_far, far_of_besideTable hbeside, hfrom, nearPage_good s hgood]
        exact memReadN_memWrite_same _ _ (memReadN_length _ _ _)
  · have hstores := writeBackAll_stores s
    exact ⟨_, (exec_migrateStatusWriteback s).trans (execMigrateStatusWriteback_due hany hidle hend), paging_writeBackAll hidle,
      sts_of_stores (hstores.2 hidle), far_of_stores (hstores.2 hidle), hstores.1⟩

end Sys2Proof.Machine
end

section
/-! CPT_PTE_CMD and the retirement of far frames (R218, R219, R222). -/

namespace Sys2Proof.Machine

theorem exec_cptPteWrite (s : State) : exec .cptPteWrite s = execCptPteWrite s := by rfl
theorem exec_farFrameRetire (s : State) : exec .farFrameRetire s = execFarFrameRetire s := by rfl

/-! ### CPT_PTE_CMD (R222) -/

section
variable (s : State)

/-- RESULT of a write of GO: 3 while frames run, 1 for a MIGRATING page, 2 for a value that breaks the frame rules, 0 where it is accepted. -/
def pteResult : Nat :=
  if runOn s then 3 else if pteMigrating (pteOf s (fget s Fld.cptPteVpn_VPN)) then 1
  else if pteRefused s (fget s Fld.cptPteVpn_VPN) (fget s Fld.cptPteData_VALUE) then 2 else 0

theorem pteResult_lt : pteResult s < 4 := by
  unfold pteResult
  split_ifs <;> decide

/-- What a write of GO with a result leaves, but for RESULT: the entry is written only where it is accepted. -/
def pteWritten : State := if pteResult s = 0 then acceptPte s (fget s Fld.cptPteVpn_VPN) (fget s Fld.cptPteData_VALUE) else s

theorem execCptPteWrite_serving (h : serving s = true) : execCptPteWrite s = .next (fset (pteWritten s) Fld.cptPteCmd_RESULT (pteResult s)) := by
  refine (whenever_true h).trans ?_
  unfold pteWritten pteResult
  cases runOn s <;> cases pteMigrating (pteOf s (fget s Fld.cptPteVpn_VPN)) <;>
    cases pteRefused s (fget s Fld.cptPteVpn_VPN) (fget s Fld.cptPteData_VALUE) <;> rfl

/-- The near frame that a value of state `st` names, claimed for the page. -/
def nearClaimed (st n vpn home : Nat) : State := if 2 ≤ st then setNear s n ⟨vpn, if st = 3 then some home else none, false⟩ else s

theorem keepsTable_fset (f : Field) (v : Nat) : KeepsTable s (fset s f v) := keepsTable_of_sts rfl rfl

theorem keepsTable_nearClaimed (st n vpn home : Nat) : KeepsTable s (nearClaimed s st n vpn home) := by
  unfold nearClaimed
  split
  · exact keepsTable_setNear s n _
  · exact keepsTable_self s

theorem leavesPage_acceptPte (v x : Nat) :
    LeavesPage s (acceptPte s v x) v (mkPte (pteState x) false (ptePinned x) (pteFormat x) (pteFrame x)) :=
  (((keepsTable_nearReleased s (pteState (pteOf s v)) (pteFrame (pteOf s v))).trans (keepsTable_nearClaimed _ (pteState x) (pteFrame x) v (newHome s v))).thenLeaves
    (leavesPage_setPte _ v (mkPte_lt _ _ _ _ _))).thenKeeps (keepsTable_drawn _)

end

/-! ### Retirement (R218, R219) -/

/-- What a retirement changes of far memory and of the map of far frames. -/
def farView (s : State) : Mem × List (Nat × Nat) × List Nat := (s.far, s.paging.retired, s.paging.poolUsed)

theorem farView_eq_iff {s : State} {far : Mem} {retired : List (Nat × Nat)} {used : List Nat} :
    farView s = (far, retired, used) ↔ s.far = far ∧ s.paging.retired = retired ∧ s.paging.poolUsed = used := by
  simp [farView]

section
variable (s : State)

theorem farView_setPte (v x : Nat) : farView (setPte s v x) = farView s := by
  rw [setPte_frame]
  rfl

theorem farView_setNear (n : Nat) (e : NearEntry) : farView (setNear s n e) = farView s := rfl

theorem RegisterSide.paging {s t : State} (h : RegisterSide s t) : t.paging = s.paging := by rw [h]

theorem farView_setFlag (f : Field) : farView (setFlag s f) = farView s := by
  have hside : RegisterSide s (setFlag s f) := (registerSide_self s).setBits f 1
  rw [farView, hside.paging, far_of_stores (stores_of_registerSide hside), farView]

theorem farView_modSeq (f : Sequencer → Sequencer) : farView (modSeq s f) = farView s := rfl
theorem farView_modMgmt (f : Mgmt → Mgmt) : farView (modMgmt s f) = farView s := by simp only [farView, modMgmt]
theorem farView_bump (f : Field) (n : Nat) : farView (bump s f n) = farView s := rfl

theorem farView_logEvent (code : Nat) (detail : List Byte) : farView (logEvent s code detail) = farView s := by
  unfold logEvent
  exact farView_modMgmt s _

theorem farView_errorRec (cls unit index ev task detail : Nat) : farView (errorRec s cls unit index ev task detail) = farView s := by
  unfold errorRec
  dsimp only
  split_ifs <;> simp only [farView_modSeq, farView_modMgmt, farView_bump, farView_logEvent]

/-- The page's bytes move to the new frame. -/
theorem farView_moveHome (f new : Nat) :
    farView (moveHome s f new) = (memWrite s.far (new * 2 ^ 14) (farPage s f), s.paging.retired, s.paging.poolUsed) := by
  have hhomes : ∀ (t : State) (xs : List (Nat × NearEntry)), farView (xs.foldl (fun t e => setNear t e.1 { e.2 with home := some new }) t) = farView t :=
    fun t xs => foldl_keeps farView (fun t e => farView_setNear t e.1 _) xs t
  have hpages : ∀ (t : State) (x : Nat → Nat) (vs : List Nat), farView (vs.foldl (fun t v => setPte t v (x v)) t) = farView t :=
    fun t x vs => foldl_keeps farView (fun t v => farView_setPte t v (x v)) vs t
  exact (hhomes _ _).trans (hpages _ _ _)

/-- A frame of a channel's pool taken for a retired page: its counts, POOL_LOW, the blocks read and written. -/
def spareTaken (ch new : Nat) : State :=
  let t := modPaging s (fun p => { p with poolUsed := p.poolUsed ++ [new] })
  let t := fset t (Fld.farChPool_FREE ch) (fget t (Fld.farChPool_FREE ch) - 1)
  let t := if fget t (Fld.farChPool_FREE ch) = 256 then setFlag t Fld.farErr_POOLLOW else t
  modSeq (countBlocks (countBlocks t ch) ch) (fun q => { q with pmCycles := q.pmCycles + 640 })

theorem farView_spareTaken (ch new : Nat) : farView (spareTaken s ch new) = (s.far, s.paging.retired, s.paging.poolUsed ++ [new]) := by
  simp only [spareTaken, countBlocks, farView_modSeq, farView_bump]
  split
  · exact farView_setFlag _ _
  · rfl

theorem farView_logRetired (f cause : Nat) : farView (logRetired s f cause) = (s.far, s.paging.retired ++ [(f, cause)], s.paging.poolUsed) :=
  farView_errorRec _ _ _ _ _ _ _

/-- A due frame's page moved to a pool frame (R218, R219). -/
def frameRetired (f cause new : Nat) : State := logRetired (spareTaken (moveHome (takeChannel s (f % 16) 640) f new) (f % 16) new) f cause

theorem execFarFrameRetire_moves {f cause new : Nat} (hnext : retireNext s = some (f, cause)) (hpool : poolFrame s (f % 16) = some new) :
    execFarFrameRetire s = .next (frameRetired s f cause new) := by
  simp only [execFarFrameRetire, hnext, hpool]
  rfl

theorem farView_frameRetired (f cause new : Nat) : farView (frameRetired s f cause new) =
    (memWrite s.far (new * 2 ^ 14) (farPage s f), s.paging.retired ++ [(f, cause)], s.paging.poolUsed ++ [new]) := by
  obtain ⟨hmoved, hmap, hused⟩ := farView_eq_iff.mp (farView_moveHome (takeChannel s (f % 16) 640) f new)
  obtain ⟨hfar, hretired, hpool⟩ := farView_eq_iff.mp (farView_spareTaken (moveHome (takeChannel s (f % 16) 640) f new) (f % 16) new)
  rw [frameRetired, farView_logRetired, hfar, hretired, hpool, hmoved, hmap, hused]
  rfl

end

/-- Settles O38: what a write of GO leaves, and the move of a far frame that is due. -/
theorem pageTableWritesAndRetirement : Obligations.PageTableWritesAndRetirement := by
  unfold Obligations.PageTableWritesAndRetirement
  intro s
  refine ⟨fun hserve => ?_, fun f cause new hnext hpool hgood => ?_⟩
  · intro v x why _
    have hwhy : why = pteResult s := rfl
    refine ⟨_, (exec_cptPteWrite s).trans (execCptPteWrite_serving s hserve), ?_, ?_⟩
    · exact (fget_fset_same _ _ _).trans (Nat.mod_eq_of_lt (pteResult_lt s))
    · rw [hwhy]
      by_cases hok : pteResult s = 0
      · obtain ⟨hbeside, hentry, hothers⟩ := (leavesPage_acceptPte s v x).thenKeeps (keepsTable_fset _ Fld.cptPteCmd_RESULT (pteResult s))
        have hw : pteWritten s = acceptPte s v x := if_pos hok
        rw [hw, if_pos hok]
        refine ⟨fun u _ hu => hothers u hu, far_of_besideTable hbeside, ?_⟩
        rw [hentry, pteState_mkPte, pteMigrating_mkPte, ptePinned_mkPte, pteFormat_mkPte, pteFrame_mkPte]
        exact ⟨Nat.mod_eq_of_lt (pteState_lt x), rfl, rfl, Nat.mod_eq_of_lt (pteFormat_lt x), Nat.mod_eq_of_lt (pteFrame_lt x)⟩
      · have hw : pteWritten s = s := if_neg hok
        rw [hw, if_neg hok]
        exact ⟨fun _ _ _ => rfl, rfl, rfl, rfl⟩
  · obtain ⟨hfar, hretired, hused⟩ := farView_eq_iff.mp (farView_frameRetired s f cause new)
    rw [farPage_good s hgood] at hfar
    refine ⟨_, (exec_farFrameRetire s).trans (execFarFrameRetire_moves s hnext hpool), hretired, hused, ?_, fun y hy => ?_⟩
    · rw [hfar]
      exact memReadN_memWrite_same _ _ (memReadN_length _ _ _)
    · rw [hfar]
      exact memRead_memWrite_out _ _ _ (by rwa [memReadN_length])

end Sys2Proof.Machine
end

section
/-! Loads of Prism permutations (R249). -/

namespace Sys2Proof.Machine

theorem exec_permutationLoad (q i : Nat) (s : State) : exec (.permutationLoad q i) s = execPermutationLoad q i s := by rfl
theorem exec_permutationStored (s : State) : exec .permutationStored s = execPermutationStored s := by rfl

variable (s : State) (q i : Nat)

/-- The VALID registers stand above PRS_PCMD, whatever Prism they are of. -/
theorem fget_setPermValid_below (v : Bool) {g : Field} (h : g.key < (Fld.prsPvalidLo_VALID 0).key) : fget (setPermValid s q i v) g = fget s g := by
  unfold setPermValid
  refine fget_fset_other _ _ _ _ ?_
  split <;> simp only [Field.key, Fld.prsPvalidLo_VALID, Fld.prsPvalidHi_VALID] at h ⊢ <;> omega

/-- A permutation's VALID bit once it is set. -/
theorem bitSet_setPermValid :
    bitSet (fget (setPermValid s q i true) (if i < 32 then Fld.prsPvalidLo_VALID q else Fld.prsPvalidHi_VALID q)) (i % 32) = true := by
  have hbit : i % 32 < 32 := Nat.mod_lt _ (by decide)
  unfold setPermValid
  split <;> exact (bitSet_fget_fset _ _ _ hbit).trans (bitSet_setBit _ _)

/-- QUAD and INDEX as a write of GO leaves them. -/
def permNamed : State := fset (fset s Fld.prsPcmd_QUAD q) Fld.prsPcmd_INDEX i

theorem permNamed_quad (hq : q < 4) : fget (permNamed s q i) Fld.prsPcmd_QUAD = q :=
  (fget_fset_other _ _ _ _ (by decide)).trans ((fget_fset_same _ _ _).trans (Nat.mod_eq_of_lt hq))

theorem permNamed_index (hi : i < 64) : fget (permNamed s q i) Fld.prsPcmd_INDEX = i :=
  (fget_fset_same _ _ _).trans (Nat.mod_eq_of_lt hi)

/-- RESULT of PRS_PCMD and the VALID bit as the end of a load leaves them. -/
def permEnded (result : Nat) (v : Bool) : State := setPermValid (fset s Fld.prsPcmd_RESULT result) q i v

theorem permEnded_result {result : Nat} (v : Bool) (h : result < 4) : fget (permEnded s q i result v) Fld.prsPcmd_RESULT = result :=
  (fget_setPermValid_below _ _ _ _ (by decide)).trans ((fget_fset_same _ _ _).trans (Nat.mod_eq_of_lt h))

theorem fget_permEnded_other (result : Nat) (v : Bool) {g : Field} (h : g.key < (Fld.prsPvalidLo_VALID 0).key) (hne : g.key ≠ Fld.prsPcmd_RESULT.key) :
    fget (permEnded s q i result v) g = fget s g :=
  (fget_setPermValid_below _ _ _ _ h).trans (fget_fset_other _ _ _ _ hne)

variable {s q i}

/-- A write of GO with no load under way begins one, or ends at once where a lane is named twice (R249). -/
theorem execPermutationLoad_idle (hup : hostUp s = true) (hidle : s.permLoad = none) (hq : q < 4) (hi : i < 64) :
    execPermutationLoad q i s = .next (if (bufferLanes s).eraseDups.length = 128 then { permNamed s q i with permLoad := some ⟨q, i, bufferLanes s, s.now⟩ }
      else { permEnded (permNamed s q i) q i 1 false with perms := mapDel s.perms (64 * q + i) }) := by
  simp only [execPermutationLoad, Nat.mod_eq_of_lt hq, Nat.mod_eq_of_lt hi]
  rw [whenever_true hup, hidle]
  rfl

/-- The stored permutation that a load leaves (R249). -/
theorem execPermutationStored_due {p : PermLoad} (hp : s.permLoad = some p) :
    execPermutationStored s =
      .next { permEnded s p.quad p.index 0 true with permLoad := none, perms := mapPut s.perms (64 * p.quad + p.index) p.lanes } := by
  simp only [execPermutationStored, hp]
  rfl

/-- Settles O31: the start of a load by whether its lanes are distinct, and the permutation that is stored. -/
theorem permutationsLoadAndAreStored : Obligations.PermutationsLoadAndAreStored := by
  unfold Obligations.PermutationsLoadAndAreStored
  intro s
  refine ⟨fun q i hup hidle hq hi => ?_, fun p hp _ _ => ?_⟩
  · refine ⟨_, (exec_permutationLoad q i s).trans (execPermutationLoad_idle hup hidle hq hi), ?_⟩
    split
    · exact ⟨permNamed_quad s q i hq, permNamed_index s q i hi, rfl, rfl, rfl⟩
    · exact ⟨(fget_permEnded_other _ _ _ _ _ (by decide) (by decide)).trans (permNamed_quad s q i hq),
        (fget_permEnded_other _ _ _ _ _ (by decide) (by decide)).trans (permNamed_index s q i hi), rfl,
        hidle, permEnded_result _ _ _ _ (by decide), mapFind_mapDel_same _ _⟩
  · exact ⟨_, (exec_permutationStored s).trans (execPermutationStored_due hp), rfl, permEnded_result _ _ _ _ (by decide), mapFind_mapPut_same _ _ _,
      fun k hk => mapFind_mapPut_other _ _ hk, bitSet_setPermValid _ _ _, rfl⟩

end Sys2Proof.Machine
end

section
/-! Rules of stream engines: what a change of an engine or of a stream leaves, and what the accesses of a transfer leave beside memories and engines (R233, R234, R237). -/

namespace Sys2Proof.Machine

/-! ### Memories and engines kept -/

theorem sameMemories_self (s : State) : SameMemories s s := ⟨rfl, rfl, rfl, rfl, rfl, rfl⟩

theorem SameMemories.trans {s t u : State} (h : SameMemories s t) (k : SameMemories t u) : SameMemories s u := by
  obtain ⟨hf, hi, hs, hr, hh, hl⟩ := h
  obtain ⟨kf, ki, ks, kr, kh, kl⟩ := k
  exact ⟨kf.trans hf, ki.trans hi, ks.trans hs, kr.trans hr, kh.trans hh, kl.trans hl⟩

theorem RegisterSide.engines {s t : State} (h : RegisterSide s t) : t.engines = s.engines := by rw [h]

theorem RegisterSide.bump {s t : State} (h : RegisterSide s t) (f : Field) (n : Nat) : RegisterSide s (bump t f n) := h.fset f _

section
variable {s t : State} (h : t.engines = s.engines)
include h

theorem engineOf_of_engines (e : Nat) : engineOf t e = engineOf s e := by rw [engineOf, h, engineOf]

theorem streamOf_of_engines (e k : Nat) : streamOf t e k = streamOf s e k := by rw [streamOf, engineOf_of_engines h, streamOf]

end

/-! ### An engine changed, a stream changed -/

section
variable (s : State) (e : Nat)

@[simp] theorem engineOf_modEngine_same (f : Engine → Engine) : engineOf (modEngine s e f) e = f (engineOf s e) := mapGet_mapPut_same _ _ _ _

theorem engineOf_modEngine_other (f : Engine → Engine) {k : Nat} (h : k ≠ e) : engineOf (modEngine s e f) k = engineOf s k := mapGet_mapPut_other _ _ _ h

theorem sameMemories_modEngine (f : Engine → Engine) : SameMemories s (modEngine s e f) := ⟨rfl, rfl, rfl, rfl, rfl, rfl⟩

/-- A change of an engine that keeps its streams. -/
theorem streamOf_modEngine {f : Engine → Engine} (h : (f (engineOf s e)).streams = (engineOf s e).streams) (k : Nat) :
    streamOf (modEngine s e f) e k = streamOf s e k := by
  rw [streamOf, engineOf_modEngine_same, h, streamOf]

variable {h : Nat}

/-- Beside its engine, a change of a stream changes nothing. -/
theorem modStream_side (f : Stream → Stream) : modStream s e h f = { s with engines := (modStream s e h f).engines } := by
  unfold modStream
  split <;> rfl

theorem sameMemories_modStream (f : Stream → Stream) : SameMemories s (modStream s e h f) := by
  rw [modStream_side]
  exact ⟨rfl, rfl, rfl, rfl, rfl, rfl⟩

@[simp] theorem transfers_modStream (f : Stream → Stream) : (engineOf (modStream s e h f) e).transfers = (engineOf s e).transfers := by
  unfold modStream
  split
  · rfl
  · rw [engineOf_modEngine_same]

theorem engineOf_modStream_other (f : Stream → Stream) {k : Nat} (hk : k ≠ e) : engineOf (modStream s e h f) k = engineOf s k := by
  unfold modStream
  split
  · rfl
  · exact engineOf_modEngine_other s e _ hk

variable {s e} {x : Stream}

theorem streamOf_modStream (hx : streamOf s e h = some x) (f : Stream → Stream) : streamOf (modStream s e h f) e h = some (f x) := by
  rw [modStream, hx, streamOf]
  dsimp only
  rw [engineOf_modEngine_same]
  exact mapFind_mapPut_same _ _ _

theorem modStream_congr (hx : streamOf s e h = some x) {f g : Stream → Stream} (hfg : f x = g x) : modStream s e h f = modStream s e h g := by
  simp only [modStream, hx, hfg]

end

/-! ### A stream that settles -/

/-- A stream that has ended (R233). -/
def Stream.closed (x : Stream) (now : Nat) : Stream := { x with state := 2, endedAt := now, fed := [] }

section
variable {s : State} {e h : Nat} {x : Stream}

/-- A stream that has fetched its END entry and whose blocks have all been performed closes; one that fed no job owes no end. -/
theorem streamSettle_over (hx : streamOf s e h = some x) (hfed : x.fed = []) (hstate : x.state = 1) (hended : x.ended = true) (hentries : x.entries = [])
    (hdone : ∀ t ∈ (engineOf s e).transfers, t.handle ≠ h) : streamSettle s e h = modStream s e h (·.closed s.now) := by
  have hall : (engineOf s e).transfers.all (fun t => t.handle ≠ h) = true := by simpa using hdone
  simp only [streamSettle, hx, hstate, hended, hentries, hall, and_self, if_true, streamEnds, hfed]
  rfl

/-- A stream that fed no job closes or stays as it is. -/
theorem streamSettle_unfed (hx : streamOf s e h = some x) (hfed : x.fed = []) :
    streamSettle s e h = s ∨ streamSettle s e h = modStream s e h (·.closed s.now) := by
  by_cases hover : x.state = 1 ∧ x.ended = true ∧ x.entries = [] ∧ (engineOf s e).transfers.all (fun t => t.handle ≠ h) = true
  · obtain ⟨hstate, hended, hentries, hdone⟩ := hover
    exact .inr (streamSettle_over hx hfed hstate hended hentries (by simpa using hdone))
  · left
    simp only [streamSettle, hx]
    exact if_neg hover

end

/-! ### Accesses and counters of a transfer -/

section
variable (s : State)

theorem registerSide_fmemTouch (pf : Nat) (as : List Nat) : RegisterSide s (fmemTouch s pf as) := by
  unfold fmemTouch
  dsimp only
  split
  · rfl
  · exact ((registerSide_self s).bump _ _).setBits _ 1

theorem registerSide_serveLines (unit : Option Nat) (isWrite : Bool) (lines : List Nat) : RegisterSide s (serveLines s unit isWrite lines) := by
  unfold RegisterSide
  rw [serveLines_side]

theorem registerSide_spaceTouch (own : Nat) (d : Td) (as : List Nat) : RegisterSide s (spaceTouch s own d as) := by
  unfold spaceTouch
  split
  · exact registerSide_serveLines _ _ _ _
  · exact registerSide_fmemTouch _ _ _

theorem registerSide_countTransfer (e : Nat) (t : Transfer) : RegisterSide s (countTransfer s e t) := by
  have hbump : ∀ (u : State) (p : Prop) [Decidable p] (f : Field) (n : Nat), RegisterSide u (if p then bump u f n else u) := fun u p _ f n => by
    split <;> rfl
  have hsparse : RegisterSide s (match t.sparse with
    | none => s
    | some true => bump s (Fld.strCntSparse_COUNT (physOf s t.lf)) 1
    | some false => bump s (Fld.strCntDense_COUNT (physOf s t.lf)) 1) := by split <;> rfl
  unfold countTransfer
  dsimp only
  split
  · exact (((hsparse.trans (hbump _ _ _ _)).bump _ _).trans (hbump _ _ _ _)).trans (hbump _ _ _ _)
  · exact (hsparse.trans (hbump _ _ _ _)).bump _ _

/-- Bytes written in the State Store: beside them, the counters of lines and the words that hold no error any more. -/
theorem stsPut_side (unit : Option Nat) (ws : List (Nat × Byte)) :
    stsPut s unit ws = { s with sts := memPuts s.sts ws, regs := (stsPut s unit ws).regs, paging := (stsPut s unit ws).paging } := by
  rw [stsPut, countLines, serveLines_side, healWords_side]

end

end Sys2Proof.Machine
end

section
/-! A stream's fetch of its END entry, and its neuron list (R233, R234, R239). -/

namespace Sys2Proof.Machine

theorem exec_blockListFetch (e h : Nat) (s : State) : exec (.blockListFetch e h) s = execBlockListFetch e h s := by rfl
theorem exec_neuronListReady (e h : Nat) (s : State) : exec (.neuronListReady e h) s = execNeuronListReady e h s := by rfl

variable {s : State} {e h : Nat} {x : Stream}

/-! ### The fetch of END -/

/-- Nothing is gathered once a fetch has stopped. -/
theorem foldl_fetchEntry_stopped {acc : Fetched} (hoff : acc.on = false) (as : List Nat) : as.foldl (fetchEntry s x) acc = acc := by
  induction as with
  | nil => rfl
  | cons a r ih => rwa [List.foldl_cons, show fetchEntry s x acc a = acc by simp [fetchEntry, hoff]]

theorem fieldOf_memReadN_byte (m : Mem) (a k : Nat) {n : Nat} (h : k < n) : fieldOf (memReadN m a n) k 1 = (memRead m (a + k)).toNat := by
  have hbyte : sliceOf (memReadN m a n) k 1 = [memRead m (a + k)] := by simp [sliceOf, memReadN, List.take_one, h]
  rw [fieldOf, hbyte]
  rfl

/-- END ends the stream: the fetch stops there and takes no entry (R234). -/
theorem fetchEntry_end {acc : Fetched} {a : Nat} (hon : acc.on = true) (halloc : inAnyAlloc s a 64 = true) (hop : memRead s.sts a = 0#8)
    (hflags : memRead s.sts (a + 1) = 0#8) : fetchEntry s x acc a = { acc with ended := true, on := false } := by
  have hopcode : fieldOf (memReadN s.sts a 64) 0 1 = 0 := by rw [fieldOf_memReadN_byte _ _ _ (by decide), Nat.add_zero, hop]; rfl
  have hgroup : bitSet (fieldOf (memReadN s.sts a 64) 1 1) 0 = false := by rw [fieldOf_memReadN_byte _ _ _ (by decide), hflags]; rfl
  simp [fetchEntry, hon, halloc, BEntry.hasGroup, BEntry.op, hopcode, hgroup]

/-- A burst whose first entry is END. -/
theorem fetchBurst_end (halign : x.next % 64 = 0) (halloc : inAnyAlloc s x.next 64 = true) (hop : memRead s.sts x.next = 0#8)
    (hflags : memRead s.sts (x.next + 1) = 0#8) : fetchBurst s x = ⟨[], 0, x.next, true, false⟩ := by
  obtain ⟨k, hk⟩ : ∃ k, (512 - x.next % 512) / 64 = k + 1 := ⟨(512 - x.next % 512) / 64 - 1, by omega⟩
  rw [fetchBurst, hk, List.range_succ_eq_map, List.map_cons, List.foldl_cons, Nat.mul_zero, Nat.add_zero, fetchEntry_end rfl halloc hop hflags]
  exact foldl_fetchEntry_stopped rfl _

/-- A stream once a burst that begins with END has come. -/
def Stream.fetchedEnd (x : Stream) (now : Nat) : Stream := { x with ended := true, burstAt := now, entries := [] }

/-- The state in which a burst that begins with END has come. -/
def endFetched (s : State) (e h : Nat) (x : Stream) : State :=
  let t := countRange (modStream s e h (·.fetchedEnd s.now)) (some (quadOf x.lf)) false x.next (512 - x.next % 512)
  bump t (Fld.strCntSkip_COUNT (physOf t x.lf)) 0

theorem registerSide_endFetched : RegisterSide (modStream s e h (·.fetchedEnd s.now)) (endFetched s e h x) :=
  (registerSide_serveLines _ _ _ _).bump _ _

/-- A stream that has nothing left fetches END: it takes it, and settles. -/
theorem execBlockListFetch_end (hx : streamOf s e h = some x) (hstate : x.state = 1) (hgoing : x.ended = false) (hentries : x.entries = [])
    (hburst : x.burstAt + stsLatency x.lf x.next ≤ s.now) (hend : fetchBurst s x = ⟨[], 0, x.next, true, false⟩) :
    execBlockListFetch e h s = .next (streamSettle (endFetched s e h x) e h) := by
  have hready : (decide (x.state = 1) && !x.ended && decide (x.entries.length ≤ 4) && decide (x.burstAt + stsLatency x.lf x.next ≤ s.now)) = true := by
    simp [hstate, hgoing, hentries, hburst]
  have hkept : modStream s e h (fun y => { y with
      next := x.next, ended := true, burstAt := s.now, entries := (y.entries ++ []).dropWhile (fun b => decide (b.op = 6) && b.inAlloc) })
      = modStream s e h (·.fetchedEnd s.now) := modStream_congr hx (by rw [hentries]; rfl)
  simp only [execBlockListFetch, hx]
  rw [whenever_true hready, hend, hkept]
  rfl

/-! ### A neuron list -/

/-- A stream that has read its neuron list (R239). -/
def Stream.listed (x : Stream) (gs : Nat × List Nat) : Stream := { x with list := none, groups := some gs }

/-- The state in which a stream's neuron list has been read. -/
def listRead (s : State) (e h : Nat) (x : Stream) (l : ListRef) : State :=
  drawn (modStream (fmemTouch s (physOf s x.lf) (listAddrs s x.lf l.addr)) e h (·.listed (listGroups s x.lf l.addr)))

theorem execNeuronListReady_due {l : ListRef} (hx : streamOf s e h = some x) (hstate : x.state = 1) (hl : x.list = some l)
    (hdue : 0 ≤ (BitVec.ofNat 32 (fget s (Fld.fmemArr_COUNT (physOf s x.lf) l.ctr)) - l.target).toInt)
    (hawake : awake s x.lf (listAddrs s x.lf l.addr) = true) : execNeuronListReady e h s = .next (listRead s e h x l) := by
  have hreached : reachedTarget (arrWord s x.lf l.ctr) l.target = true := (reachedTarget_iff _ _).mpr hdue
  simp only [execNeuronListReady, hx, hl]
  exact whenever_true (by simp [hstate, hreached, hawake])

/-- Settles O27: END of a stream with nothing left, and the groups of a neuron list whose counter has reached its target. -/
theorem streamsFetchAndReadLists : Obligations.StreamsFetchAndReadLists := by
  unfold Obligations.StreamsFetchAndReadLists
  intro s e h x hx hstate
  refine ⟨fun hgoing hentries hfed hburst hidle _ halloc hop hflags halign => ?_, fun l hl hdue hawake => ?_⟩
  · have hside := registerSide_endFetched (s := s) (e := e) (h := h) (x := x)
    have hfetched : streamOf (endFetched s e h x) e h = some (x.fetchedEnd s.now) :=
      (streamOf_of_engines hside.engines e h).trans (streamOf_modStream hx _)
    have hquiet : (engineOf (endFetched s e h x) e).transfers = [] := by
      rw [engineOf_of_engines hside.engines, transfers_modStream, hidle]
    have hnow : (endFetched s e h x).now = s.now := by rw [hside.now, modStream_side]
    have hsettle := streamSettle_over hfetched hfed hstate rfl rfl (by simp [hquiet])
    rw [hnow] at hsettle
    refine ⟨_, (x.fetchedEnd s.now).closed s.now, (exec_blockListFetch e h s).trans (execBlockListFetch_end hx hstate hgoing hentries hburst (fetchBurst_end halign halloc hop hflags)), ?_⟩
    rw [hsettle]
    exact ⟨streamOf_modStream hfetched _, rfl, rfl, rfl, rfl, ((sameMemories_modStream s e _).trans hside.sameMemories).trans (sameMemories_modStream _ e _)⟩
  · have htouch := registerSide_fmemTouch s (physOf s x.lf) (listAddrs s x.lf l.addr)
    refine ⟨_, (exec_neuronListReady e h s).trans (execNeuronListReady_due hx hstate hl hdue hawake),
      streamOf_modStream ((streamOf_of_engines htouch.engines e h).trans hx) _, htouch.sameMemories.trans (sameMemories_modStream _ e _), fun k hk => ?_⟩
    exact (engineOf_modStream_other _ e _ hk).trans (engineOf_of_engines htouch.engines k)

end Sys2Proof.Machine
end

section
/-! A COPY between memories, and a transfer performed in the State Store (R233, R235 to R237). -/

namespace Sys2Proof.Machine

theorem exec_transferStart (e h : Nat) (s : State) : exec (.transferStart e h) s = execTransferStart e h s := by rfl
theorem exec_transferComplete (e id : Nat) (s : State) : exec (.transferComplete e id) s = execTransferComplete e id s := by rfl

/-! ### A transfer queued -/

section
variable (s : State) (e h : Nat)

/-- Beside the crossing queues, the bytes that enter them change nothing. -/
theorem crossLinks_side (cs : List (Nat × Nat × Nat)) : crossLinks s cs = { s with links := (crossLinks s cs).links } := by
  have hsame : { crossLinks s cs with links := [] } = { s with links := [] } := by
    refine foldl_keeps (fun t : State => { t with links := [] }) (fun t x => ?_) cs s
    rfl
  exact congrArg (fun t : State => { t with links := (crossLinks s cs).links }) hsame

/-- Beside a counter, the count of a clipped delivery changes the entry of a stream alone. -/
theorem countClip_keeps (x : Stream) (clip : Bool) :
    SameMemories s (countClip s e h x clip) ∧ (engineOf (countClip s e h x clip) e).transfers = (engineOf s e).transfers := by
  unfold countClip
  split
  · exact ⟨(show SameMemories s (bump s _ 1) from ⟨rfl, rfl, rfl, rfl, rfl, rfl⟩).trans (sameMemories_modStream _ e _), transfers_modStream _ e _⟩
  · exact ⟨sameMemories_self s, rfl⟩

/-- The cycle at which a launched transfer is due: its time has passed, and its bytes have crossed the links that they need. -/
def launchDue (t : Transfer) : Nat :=
  let cs := if t.ent.piece = 0 then crossings t.lf t.ent else []
  let u := crossLinks s cs
  max ((cs.map (fun x => linkFree u x.1 x.2.1)).foldl max 0) (u.now + 0 + (if t.late then 0 else transferTime t))

/-- A launched transfer stands last on its engine, and no memory changes. -/
theorem launch_queues (t : Transfer) (whole : Bool) :
    (engineOf (launch s e h t whole) e).transfers = (engineOf s e).transfers ++ [{ t with doneAt := launchDue s t }] ∧ SameMemories s (launch s e h t whole) := by
  unfold launch launchAfter launchDue
  dsimp only
  generalize (if t.ent.piece = 0 then crossings t.lf t.ent else []) = cs
  have hlinks := crossLinks_side s cs
  have hengines : (crossLinks s cs).engines = s.engines := by rw [hlinks]
  have hcross : SameMemories s (crossLinks s cs) := by
    rw [hlinks]
    exact ⟨rfl, rfl, rfl, rfl, rfl, rfl⟩
  constructor
  · rw [transfers_modStream, engineOf_modEngine_same, engineOf_of_engines hengines]
  · exact (hcross.trans (sameMemories_modEngine _ e _)).trans (sameMemories_modStream _ e _)

end

variable {s : State} {e h : Nat} {x : Stream} {b : BEntry}

/-! ### The start of a COPY -/

/-- The elements of a COPY: as many as its entry, both views and 65 536 bytes allow (R236). -/
theorem copyCount_fst (b : BEntry) :
    (copyCount b).1 = min (min (min b.count (b.srcTd.count - b.srcFirst)) (b.dstTd.count - b.dstFirst)) (65536 / b.srcTd.esize) := by
  simp only [copyCount, Nat.min_assoc]

/-- A COPY that passes no Prism reads its source view, works out its writes, and queues one transfer (R236). -/
theorem startCopy_queues (hplain : b.xform = 0) :
    ∃ tr, (engineOf (startCopy s e h x b) e).transfers = (engineOf s e).transfers ++ [tr]
      ∧ tr.data = viewRead s x.lf b.srcTd b.srcFirst (copyCount b).1 ∧ tr.pieces = 1 ∧ tr.writes = (blockWrites b 0 tr.data).1 ∧ tr.handle = h
      ∧ SameMemories s (startCopy s e h x b) := by
  simp only [startCopy, throughPrism, hplain, true_or, if_true]
  have htouch := registerSide_spaceTouch s x.lf b.srcTd (viewAddrs b.srcTd b.srcFirst (copyCount b).1)
  generalize spaceTouch s x.lf b.srcTd (viewAddrs b.srcTd b.srcFirst (copyCount b).1) = u at htouch
  generalize (((copyCount b).2 || (blockWrites b 0 (viewRead s x.lf b.srcTd b.srcFirst (copyCount b).1)).2) && !b.clipped) = clip
  obtain ⟨hclip, hqueue⟩ := countClip_keeps u e h x clip
  generalize countClip u e h x clip = v at hclip hqueue
  obtain ⟨hlaunched, hmem⟩ := launch_queues v e h { newTransfer v e h x b with
    data := viewRead s x.lf b.srcTd b.srcFirst (copyCount b).1
    writes := (blockWrites b 0 (viewRead s x.lf b.srcTd b.srcFirst (copyCount b).1)).1
    dest := destOf x.lf b, arr := b.arr, units := ceilDiv (viewRead s x.lf b.srcTd b.srcFirst (copyCount b).1).length 64, quad := none } true
  rw [hqueue, engineOf_of_engines htouch.engines] at hlaunched
  exact ⟨_, hlaunched, rfl, rfl, rfl, rfl, (htouch.sameMemories.trans hclip).trans hmem⟩

theorem startEntry_bad (hbad : entryBad e x.lf x.compress b = true) : startEntry s e h x b = .error 1 := if_pos hbad

theorem startEntry_copy (hgood : entryBad e x.lf x.compress b = false) (hop : b.op = 1) (hsrc : b.srcTd.kind = 0) (hdst : b.dstTd.kind = 0) :
    startEntry s e h x b = .ok (startCopy s e h x b) := by
  simp [startEntry, hgood, hop, hsrc, hdst, BEntry.walks]

section
variable {r : List BEntry} (hx : streamOf s e h = some x) (hwant : wantedTile s e h = none) (hentries : x.entries = b :: r) (hmay : mayStart s e h x = true)
  (hplace : placeFor s e h x = true) (hwins : winsRequest s e h x = true) (hrate : x.rate ≠ 0)
include hx hwant hentries hmay hplace hwins hrate

/-- A rated stream that may start its head entry. -/
theorem execTransferStart_starts {t : State} (hstart : startEntry s e h x b = .ok t) : execTransferStart e h s = .next t := by
  simp only [execTransferStart, hx, hrate, if_false, startNext, hwant, hentries, hstart]
  exact whenever_true (by simp [hmay, hplace, hwins])

/-- A head entry that is forbidden aborts the stream's task with ILLEGAL_INSN (R235). -/
theorem execTransferStart_illegal (hstart : startEntry s e h x b = .error 1) : execTransferStart e h s = .next (abortTask s x.who 1) := by
  simp only [execTransferStart, hx, hrate, if_false, startNext, hwant, hentries, hstart]
  exact whenever_true (by simp [hmay, hplace, hwins])

end

/-! ### A transfer performed -/

/-- A stream that has delivered a transfer (R237, R241). -/
def Stream.delivered (x : Stream) (tr : Transfer) (now : Nat) : Stream :=
  { x with
    done := x.done + tr.pieces, lastWalk := if tr.ent.srcTd.kind = 1 then tr.walkDrop else x.lastWalk
    moved := x.moved + max tr.data.length tr.writes.length, movedAt := some (x.movedAt.getD now) }

/-- The state in which a transfer has left its engine and its stream has counted it. -/
def deliveryCounted (s : State) (e id : Nat) (tr : Transfer) : State :=
  modStream (countTransfer (modEngine s e (fun g => { g with transfers := g.transfers.filter (fun y => y.id ≠ id) })) e tr) e tr.handle (·.delivered tr s.now)

/-- The state in which the bytes of that transfer stand in the State Store. -/
def deliveredToSts (s : State) (e id : Nat) (tr : Transfer) : State := stsPut (deliveryCounted s e id tr) (some (quadOf tr.lf)) tr.writes

variable {id : Nat} {tr : Transfer}

/-- A transfer into the State Store that may be performed (R233, R237). -/
theorem execTransferComplete_sts (hfind : (engineOf s e).transfers.find? (fun t => t.id = id) = some tr) (hperf : performable s e tr = true) (hdest : tr.dest = .sts) :
    execTransferComplete e id s = .next (settleFlights (streamSettle (deliveredToSts s e id tr) e tr.handle)) := by
  simp only [execTransferComplete, hfind, perform, hdest, reduceCtorEq, false_and, if_false]
  exact whenever_true hperf

theorem transfers_deliveredToSts :
    (engineOf (deliveredToSts s e id tr) e).transfers = (engineOf s e).transfers.filter (fun y => y.id ≠ id) := by
  have hput : (deliveredToSts s e id tr).engines = (deliveryCounted s e id tr).engines := by rw [deliveredToSts, stsPut_side]
  rw [engineOf_of_engines hput, deliveryCounted, transfers_modStream, engineOf_of_engines (registerSide_countTransfer _ e tr).engines, engineOf_modEngine_same]

theorem streamOf_deliveredToSts (hx : streamOf s e tr.handle = some x) : streamOf (deliveredToSts s e id tr) e tr.handle = some (x.delivered tr s.now) := by
  have hput : (deliveredToSts s e id tr).engines = (deliveryCounted s e id tr).engines := by rw [deliveredToSts, stsPut_side]
  rw [streamOf_of_engines hput]
  refine streamOf_modStream ?_ _
  rw [streamOf_of_engines (registerSide_countTransfer _ e tr).engines]
  exact (streamOf_modEngine s e rfl tr.handle).trans hx

/-- Of the memories the State Store alone has changed. -/
theorem sameMemories_deliveredToSts : SameMemories { s with sts := memPuts s.sts tr.writes } (deliveredToSts s e id tr) := by
  obtain ⟨hf, hi, hs, hr, hh, hl⟩ : SameMemories s (deliveryCounted s e id tr) :=
    ((sameMemories_modEngine s e _).trans (registerSide_countTransfer _ e tr).sameMemories).trans (sameMemories_modStream _ e _)
  rw [deliveredToSts, stsPut_side, hs]
  exact ⟨hf, hi, rfl, hr, hh, hl⟩

/-- Settling a stream that fed no job keeps its DONE, the transfers of its engine and the memories. -/
theorem streamSettle_keeps (hx : streamOf s e h = some x) (hfed : x.fed = []) :
    (∃ y, streamOf (streamSettle s e h) e h = some y ∧ y.done = x.done) ∧ (engineOf (streamSettle s e h) e).transfers = (engineOf s e).transfers
      ∧ SameMemories s (streamSettle s e h) := by
  rcases streamSettle_unfed hx hfed with hsettle | hsettle <;> rw [hsettle]
  · exact ⟨⟨x, hx, rfl⟩, rfl, sameMemories_self s⟩
  · exact ⟨⟨_, streamOf_modStream hx _, rfl⟩, transfers_modStream s e _, sameMemories_modStream s e _⟩

/-- Settling the accesses that channels wait for reaches no engine. -/
theorem settleFlights_engines (s : State) : (settleFlights s).engines = s.engines := rfl

theorem sameMemories_settleFlights (s : State) : SameMemories s (settleFlights s) := ⟨rfl, rfl, rfl, rfl, rfl, rfl⟩

/-- Settles O28: a COPY's start or its abort, and the transfer performed in the State Store. -/
theorem copiesReadAndDeliver : Obligations.CopiesReadAndDeliver := by
  unfold Obligations.CopiesReadAndDeliver
  intro s e h x hx
  rw [exec_transferStart]
  refine ⟨fun b r hwant hentries hmay hplace hwins hrate => ⟨fun hbad => ?_, fun hgood hop hplain hsrc hdst => ?_⟩, fun id tr hfind hperf hdest hhandle hfed => ?_⟩
  · exact execTransferStart_illegal hx hwant hentries hmay hplace hwins hrate (startEntry_bad hbad)
  · obtain ⟨tr, hqueued, hstarted⟩ := startCopy_queues (s := s) (e := e) (h := h) (x := x) hplain
    rw [copyCount_fst] at hstarted
    exact ⟨_, tr, execTransferStart_starts hx hwant hentries hmay hplace hwins hrate (startEntry_copy hgood hop hsrc hdst), hqueued, hstarted⟩
  · subst hhandle
    obtain ⟨⟨y, hy, hdone⟩, htransfers, hkept⟩ := streamSettle_keeps (streamOf_deliveredToSts (id := id) hx) hfed
    obtain ⟨hf, hi, hs, hr, hh, hl⟩ := (sameMemories_deliveredToSts.trans hkept).trans (sameMemories_settleFlights _)
    refine ⟨_, y, (exec_transferComplete e id s).trans (execTransferComplete_sts hfind hperf hdest), hs, hf, hr, hh, hi, hl, ?_, ?_, hdone⟩
    · rw [engineOf_of_engines (settleFlights_engines _), htransfers, transfers_deliveredToSts]
    · rw [streamOf_of_engines (settleFlights_engines _), hy]

end Sys2Proof.Machine
end

section
/-! Semaphore messages: what sends one, what a semaphore makes of it, and the grant that comes back (R257 to R262, R277, R304). -/

namespace Sys2Proof.Machine

theorem exec_swait (w : Who) (d a b : Reg) (imm : Word) (s : State) : exec (.swait w d a b imm) s = execSwait w d a b imm s := by rfl
theorem exec_swaitTry (w : Who) (d a b : Reg) (imm : Word) (s : State) : exec (.swaitTry w d a b imm) s = execSwaitTry w d a b imm s := by rfl
theorem exec_spost (w : Who) (a b : Reg) (imm : Word) (nofence : Bool) (s : State) : exec (.spost w a b imm nofence) s = execSpost w a b imm nofence s := by rfl
theorem exec_swaitGrant (w : Who) (s : State) : exec (.swaitGrant w) s = execSwaitGrant w s := by rfl
theorem exec_semMessageApply (n : Nat) (s : State) : exec (.semMessageApply n) s = execSemMessageApply n s := by rfl

/-! ### A message sent (R262, R304) -/

/-- A legal instruction that may issue and finds room has its effect. -/
theorem issueWhen_runs {s : State} {w : Who} {srcs dsts : List Reg} {legal room : Bool} {k : State → State} (hissue : issues s w srcs dsts = true)
    (hlegal : legal = true) (hroom : room = true) : issueWhen s w srcs dsts legal room k = .next (k s) := by
  subst hlegal hroom
  rw [issueWhen, Bool.not_true, Bool.and_false, if_neg Bool.false_ne_true, issue_runs hissue]

theorem semOk_iff {s : State} {sem n low : Nat} :
    semOk s sem n low = true ↔ (((sem < 4096 ∧ semDeclared s sem = true) ∧ semOfChan s sem = false) ∧ low ≤ n) ∧ n ≤ 65535 := by
  simp [semOk]

theorem OnlyCtx.semMsgs {w : Who} {s t : State} (h : OnlyCtx w s t) : t.semMsgs = s.semMsgs := by rw [h.1.1]

/-- A message sent after a change of the sender's context alone. -/
theorem sendsSem_sendSem {w : Who} {s t : State} (h : OnlyCtx w s t) (sem n : Nat) (op : SemOp) :
    SendsSem w s (sendSem t (semMsg s w (taskId s w) sem n op)) sem n op := by
  refine ⟨?_, congrArg (· ++ [semMsg s w (taskId s w) sem n op]) h.semMsgs⟩
  rw [← h.semMsgs]
  exact h

/-- A wait sent to its semaphore: the context stands behind it, and the message is on its way. -/
theorem sendsSem_and_waits (s : State) (w : Who) (x : Wait) (sem n : Nat) (op : SemOp) :
    SendsSem w s (sendSem (waitFor s w x) (semMsg s w (taskId s w) sem n op)) sem n op
      ∧ Waits w s (sendSem (waitFor s w x) (semMsg s w (taskId s w) sem n op)) x :=
  ⟨sendsSem_sendSem (onlyCtx_waitFor s w x) sem n op, waits_waitFor s w x⟩

/-- A post that waits for its fence stands last among those of its context (R259). -/
def keepPost (s : State) (w : Who) (p : PendingPost) : State := modCtx (advance s w 1) w (fun c => { c with posts := c.posts ++ [p] })

theorem ctxOf_keepPost (s : State) (w : Who) (p : PendingPost) :
    ctxOf (keepPost s w p) w = { ctxOf (advance s w 1) w with posts := (ctxOf (advance s w 1) w).posts ++ [p] } :=
  ctxOf_modCtx _ w _

theorem onlyCtx_keepPost (s : State) (w : Who) (p : PendingPost) : OnlyCtx w s (keepPost s w p) := onlyCtx_modCtx _ (onlyCtx_advance s w 1)

theorem goesOn_keepPost (s : State) (w : Who) (p : PendingPost) : GoesOn w 1 s (keepPost s w p) :=
  (goesOn_advance s w 1).of_ctx (by rw [ctxOf_keepPost]) (by rw [ctxOf_keepPost])

theorem posts_keepPost (s : State) (w : Who) (p : PendingPost) : (ctxOf (keepPost s w p) w).posts = (ctxOf s w).posts ++ [p] := by
  rw [ctxOf_keepPost, ctxOf_advance]

theorem onlyCtx_rput_endWait (s : State) (w : Who) (d : Reg) (v : Word) (lat : Nat) : OnlyCtx w s (rput (endWait s w) w d v lat) :=
  onlyCtx_modCtx _ (onlyCtx_endWait s w)

theorem postsWait_eq (s : State) (w : Who) (nofence : Bool) : postsWait s w nofence = !(nofence || fenceNow s w) := by
  rw [postsWait, Bool.not_or]

section
variable {s : State} {w : Who} {a b : Reg} {imm : Word} {nofence : Bool} (hissue : issues s w [a, b] [] = true)
  (hok : semOk s (semOperand s w a imm) (countOperand s w b imm) 1 = true)
include hissue hok

/-- SPOST with NOFENCE, or whose fence holds: its post leaves. -/
theorem execSpost_leaves (hnow : (nofence || fenceNow s w) = true) (hroom : semRoom s w (semOperand s w a imm) = true) :
    execSpost w a b imm nofence s
      = .next (sendSem (advance s w 1) (semMsg s w (taskId s w) (semOperand s w a imm) (countOperand s w b imm) .post)) := by
  have hwait : postsWait s w nofence = false := by rw [postsWait_eq, hnow, Bool.not_true]
  rw [execSpost, issueWhen_runs hissue hok (by rw [hroom, Bool.or_true])]
  simp only [hwait, Bool.not_false, if_true]

/-- SPOST whose fence does not hold yet: its post is kept with the commands and stores issued before it. -/
theorem execSpost_keeps (hnow : (nofence || fenceNow s w) = false) :
    execSpost w a b imm nofence s
      = .next (keepPost s w ⟨semOperand s w a imm, countOperand s w b imm, (facetOf s w.lf).seq, (ctxOf s w).storeAt⟩) := by
  have hwait : postsWait s w nofence = true := by rw [postsWait_eq, hnow, Bool.not_false]
  have hstore : (ctxOf (advance s w 1) w).storeAt = (ctxOf s w).storeAt := by rw [ctxOf_advance]
  rw [execSpost, issueWhen_runs hissue hok (by rw [hwait, Bool.true_or])]
  simp only [hwait, Bool.not_true, Bool.false_eq_true, if_false, keepPost, ← hstore]
  rfl

end

/-- Settles O17: SWAIT and SWAIT TRY, SPOST by whether its post leaves at once, and the grant. -/
theorem semaphoreInstructions : Obligations.SemaphoreInstructions := by
  unfold Obligations.SemaphoreInstructions
  intro s w
  refine ⟨fun d a b imm hissue => ?_, fun a b imm nofence hissue => ?_, fun d g hwait hgrant => ?_⟩
  · intro sem n hsem hdecl hchan hmax hroom
    refine ⟨fun hmin => ⟨_, ?_, sendsSem_and_waits s w (.sem d) sem n .wait⟩, _, ?_, sendsSem_and_waits s w (.sem d) sem n .tryTake⟩
    · rw [exec_swait, execSwait]
      exact issueWhen_runs hissue (semOk_iff.mpr ⟨⟨⟨⟨hsem, hdecl⟩, hchan⟩, hmin⟩, hmax⟩) hroom
    · rw [exec_swaitTry, execSwaitTry]
      exact issueWhen_runs hissue (semOk_iff.mpr ⟨⟨⟨⟨hsem, hdecl⟩, hchan⟩, n.zero_le⟩, hmax⟩) hroom
  · intro sem n hsem hdecl hchan hmin hmax hroom
    have hok : semOk s sem n 1 = true := semOk_iff.mpr ⟨⟨⟨⟨hsem, hdecl⟩, hchan⟩, hmin⟩, hmax⟩
    rw [exec_spost]
    by_cases hnow : (nofence || fenceNow s w) = true
    · refine ⟨_, execSpost_leaves hissue hok hnow (hroom hnow), goesOn_advance s w 1, ?_⟩
      rw [if_pos hnow]
      exact sendsSem_sendSem (onlyCtx_advance s w 1) sem n .post
    · refine ⟨_, execSpost_keeps hissue hok (Bool.eq_false_iff.mpr hnow), goesOn_keepPost s w _, ?_⟩
      rw [if_neg hnow]
      exact ⟨onlyCtx_keepPost s w _, posts_keepPost s w _⟩
  · refine ⟨rput (endWait (dropGrant s g) w) w d (swaitResult g) 1, ?_, resumes_rput_endWait (dropGrant s g) w d _ 1,
      wroteReg_rput_endWait (dropGrant s g) w d _ 1, rfl, onlyCtx_rput_endWait s w d (swaitResult g) 1⟩
    rw [exec_swaitGrant, execSwaitGrant, hwait, hgrant]

/-! ### A message at its semaphore (R258 to R260) -/

theorem semOf_modSem_same (s : State) (n : Nat) (f : Sem → Sem) : semOf (modSem s n f) n = f (semOf s n) := mapGet_mapPut_same _ _ _ _

theorem semOf_modSem_other (s : State) {n k : Nat} (f : Sem → Sem) (h : k ≠ n) : semOf (modSem s n f) k = semOf s k := mapGet_mapPut_other _ _ _ h

/-- Of two states: one semaphore is left as `x`, some grants have left for their waiters, and nothing else has changed. -/
def LeavesSem (s t : State) (n : Nat) (x : Sem) (gs : List Grant) : Prop :=
  t = { s with sems := t.sems, grants := s.grants ++ gs } ∧ semOf t n = x ∧ ∀ k, k ≠ n → semOf t k = semOf s k

theorem leavesSem_self (s : State) (n : Nat) : LeavesSem s s n (semOf s n) [] := ⟨by rw [List.append_nil], rfl, fun _ _ => rfl⟩

theorem LeavesSem.modSem {s t : State} {n : Nat} {x : Sem} {gs : List Grant} (h : LeavesSem s t n x gs) (f : Sem → Sem) :
    LeavesSem s (modSem t n f) n (f x) gs := by
  obtain ⟨hside, hsem, hother⟩ := h
  refine ⟨?_, (semOf_modSem_same t n f).trans (congrArg f hsem), fun k hk => (semOf_modSem_other t f hk).trans (hother k hk)⟩
  rw [hside]
  rfl

/-- The grant of a message, on its way for the travel time back from the semaphore (R262). -/
def grantOf (s : State) (m : SemMsg) (left : Nat) (took : Bool) : Grant :=
  ⟨m.lf, m.ctx, m.task, m.op, m.sem, left, took, s.now + travel (quadOf m.lf) (m.sem / 1024)⟩

theorem LeavesSem.grant {s t : State} {n : Nat} {x : Sem} (h : LeavesSem s t n x []) (m : SemMsg) (left : Nat) (took : Bool) :
    LeavesSem s (grant t m left took) n x [grantOf s m left took] := by
  obtain ⟨hside, hsem, hother⟩ := h
  have hnow : t.now = s.now := by rw [hside]
  have hgrants : t.grants = s.grants := by rw [hside, List.append_nil]
  refine ⟨?_, hsem, hother⟩
  rw [Machine.grant, hgrants, hnow]
  rw [hside]
  rfl

/-- With no waiters there is nobody to serve. -/
theorem serve_nobody {s : State} {n : Nat} (h : (semOf s n).waiters = []) : serve s n = s := by rw [serve, h]; rfl

/-- One waiter, no CHPUSH at a sink, is served where its count is there. -/
theorem serve_one {s : State} {n : Nat} {m : SemMsg} (h : (semOf s n).waiters = [m]) (hsink : sinkPush s m = false) :
    serve s n = if m.n ≤ (semOf s n).count
      then grant (modSem s n (fun _ => ⟨(semOf s n).count - m.n, []⟩)) m ((semOf s n).count - m.n) (decide (1 ≤ m.n)) else s := by
  simp [serve, serveWaiters, h, hsink]

section
variable {s : State} {m : SemMsg} (hidle : (semOf s m.sem).waiters = [])
include hidle

/-- A post that keeps the count at or below 65 535 (R259). -/
theorem applyPost_adds (hfits : (semOf s m.sem).count + m.n ≤ 65535) :
    LeavesSem s (serve (applyPost s m) m.sem) m.sem ⟨(semOf s m.sem).count + m.n, []⟩ [] := by
  have hadds : LeavesSem s (applyPost s m) m.sem ⟨(semOf s m.sem).count + m.n, []⟩ [] := by
    rw [applyPost, if_pos hfits, ← hidle]
    exact (leavesSem_self s m.sem).modSem fun x => { x with count := x.count + m.n }
  obtain ⟨-, hsem, -⟩ := id hadds
  rw [serve_nobody (by rw [hsem])]
  exact hadds

variable (htask : (ctxOf s ⟨m.lf, m.ctx⟩).task = some m.task)
include htask

/-- A TRY where nobody waits: it takes its count, or answers the count with nothing taken (R258). -/
theorem applyWait_tryTake (hop : m.op = .tryTake) :
    applyWait s m = if m.n ≤ (semOf s m.sem).count
      then grant (modSem s m.sem (fun y => { y with count := y.count - m.n })) m ((semOf s m.sem).count - m.n) (decide (1 ≤ m.n))
      else grant s m (semOf s m.sem).count false := by
  simp only [applyWait, htask, ne_eq, not_true_eq_false, if_false, hop, hidle, true_and]

/-- A wait where nobody waits: it stands in line, and is served at once where its count is there (R258). -/
theorem applyWait_inLine (hop : m.op ≠ .tryTake) (hsink : sinkPush s m = false) :
    let u := modSem s m.sem (fun x => { x with waiters := x.waiters ++ [m] })
    applyWait s m = if m.n ≤ (semOf s m.sem).count
      then grant (modSem u m.sem (fun _ => ⟨(semOf s m.sem).count - m.n, []⟩)) m ((semOf s m.sem).count - m.n) (decide (1 ≤ m.n)) else u := by
  intro u
  have hu : semOf u m.sem = ⟨(semOf s m.sem).count, [m]⟩ := by rw [semOf_modSem_same, hidle]; rfl
  have hserve := serve_one (s := u) (n := m.sem) (by rw [hu]) hsink
  rw [hu] at hserve
  rw [← hserve, applyWait, htask, if_neg (not_not.mpr rfl)]
  split
  · next h => exact absurd h hop
  · rfl

/-- A wait or TRY that finds its count takes it. -/
theorem applyWait_takes (hsink : sinkPush s m = false) (hcount : m.n ≤ (semOf s m.sem).count) :
    LeavesSem s (applyWait s m) m.sem ⟨(semOf s m.sem).count - m.n, []⟩ [grantOf s m ((semOf s m.sem).count - m.n) (decide (1 ≤ m.n))] := by
  by_cases hop : m.op = .tryTake
  · rw [applyWait_tryTake hidle htask hop, if_pos hcount, ← hidle]
    exact ((leavesSem_self s m.sem).modSem _).grant m _ _
  · rw [applyWait_inLine hidle htask hop hsink, if_pos hcount]
    exact (((leavesSem_self s m.sem).modSem _).modSem _).grant m _ _

/-- A TRY that does not find its count answers the count. -/
theorem applyWait_answers (hop : m.op = .tryTake) (hcount : (semOf s m.sem).count < m.n) :
    LeavesSem s (applyWait s m) m.sem ⟨(semOf s m.sem).count, []⟩ [grantOf s m (semOf s m.sem).count false] := by
  rw [applyWait_tryTake hidle htask hop, if_neg (Nat.not_le.mpr hcount), ← hidle]
  exact (leavesSem_self s m.sem).grant m _ _

/-- A wait that does not find its count stands in line. -/
theorem applyWait_waits (hop : m.op ≠ .tryTake) (hsink : sinkPush s m = false) (hcount : (semOf s m.sem).count < m.n) :
    LeavesSem s (applyWait s m) m.sem ⟨(semOf s m.sem).count, [m]⟩ [] := by
  have hline := (leavesSem_self s m.sem).modSem fun x => { x with waiters := x.waiters ++ [m] }
  rw [hidle] at hline
  rw [applyWait_inLine hidle htask hop hsink, if_neg (Nat.not_le.mpr hcount)]
  exact hline

end

/-! ### The messages of a cycle (R260, R275) -/

/-- Beside the channels, the records that a semaphore's counts make stale change nothing (R275). -/
theorem semDirty_side (s : State) (n : Nat) : semDirty s n = { s with chans := (semDirty s n).chans } := by
  have hsame : { semDirty s n with chans := [] } = { s with chans := [] } := by
    refine foldl_keeps (fun t : State => { t with chans := [] }) (fun t e => ?_) _ s
    rfl
  exact congrArg (fun t : State => { t with chans := (semDirty s n).chans }) hsame

/-- The state in which the messages that reached a semaphore in one cycle have been taken up. -/
def messagesTaken (s : State) (n arrive : Nat) : State :=
  { s with semMsgs := s.semMsgs.filter (fun x => !(decide (x.sem = n) && decide (x.arrive = arrive))) }

theorem firstArrival_one (m : SemMsg) : firstArrival [m] = m.arrive := by simp [firstArrival]

/-- The only message that a semaphore has had for its four cycles is one for that semaphore. -/
theorem sem_of_semReady_one {s : State} {n : Nat} {m : SemMsg} (h : semReady s n = [m]) : m.sem = n := by
  have hm : m ∈ semReady s n := by rw [h]; exact List.mem_singleton.mpr rfl
  have hsem := (List.mem_filter.mp hm).2
  simp only [Bool.and_eq_true, decide_eq_true_eq] at hsem
  exact hsem.1

/-- The batch of one message, where nobody waits: a post is applied, anything else stands in line or is answered. -/
theorem execSemMessageApply_one {s : State} {n : Nat} {m : SemMsg} (hready : semReady s n = [m]) (hidle : (semOf s n).waiters = []) :
    execSemMessageApply n s = .next (semDirty (if m.op = .post then serve (applyPost (messagesTaken s n m.arrive) m) n
      else applyWait (messagesTaken s n m.arrive) m) n) := by
  have hserve : serve (messagesTaken s n m.arrive) n = messagesTaken s n m.arrive := serve_nobody hidle
  have hbatch : applyBatch (messagesTaken s n m.arrive) n [m] = if m.op = .post then serve (applyPost (messagesTaken s n m.arrive) m) n
      else applyWait (messagesTaken s n m.arrive) m := by
    by_cases hpost : m.op = .post <;> simp [applyBatch, hpost, sortBy, insertBy, hserve]
  simp only [execSemMessageApply, hready, firstArrival_one, List.isEmpty_cons, Bool.not_false, decide_true, List.filter_cons_of_pos, List.filter_nil]
  rw [whenever_true rfl]
  exact congrArg (fun t => Host.Outcome.next (semDirty t n)) hbatch

/-- What the batch leaves once the channel records it makes stale are marked. -/
theorem LeavesSem.atSemaphore {s u : State} {n arrive : Nat} {x : Sem} {gs : List Grant} (h : LeavesSem (messagesTaken s n arrive) u n x gs) :
    AtSemaphore s (semDirty u n) n arrive ∧ semOf (semDirty u n) n = x ∧ (semDirty u n).grants = s.grants ++ gs := by
  obtain ⟨hside, hsem, hother⟩ := h
  have hsems (k : Nat) : semOf (semDirty u n) k = semOf u k := by rw [semDirty_side]; rfl
  refine ⟨⟨?_, ?_, fun k hk => (hsems k).trans (hother k hk)⟩, (hsems n).trans hsem, ?_⟩ <;> rw [semDirty_side, hside] <;> rfl

/-- Settles O18: a post, a count taken, a TRY's answer, a wait that stands in line. -/
theorem semaphoreAppliesMessages : Obligations.SemaphoreAppliesMessages := by
  unfold Obligations.SemaphoreAppliesMessages
  intro s n m hready hidle hsink htask
  obtain rfl := sem_of_semReady_one hready
  rw [exec_semMessageApply, execSemMessageApply_one hready hidle]
  refine ⟨fun hop hfits => ⟨_, rfl, ?_⟩, fun hop hcount => ⟨_, rfl, ?_⟩, fun hop hcount => ⟨_, rfl, ?_⟩, fun hpost hop hcount => ⟨_, rfl, ?_⟩⟩
  · rw [if_pos hop, ← s.grants.append_nil]
    exact (applyPost_adds (s := messagesTaken s m.sem m.arrive) hidle hfits).atSemaphore
  · rw [if_neg hop]
    exact (applyWait_takes (s := messagesTaken s m.sem m.arrive) hidle (htask hop) hsink hcount).atSemaphore
  · have hpost : m.op ≠ .post := by rw [hop]; decide
    rw [if_neg hpost]
    exact (applyWait_answers (s := messagesTaken s m.sem m.arrive) hidle (htask hpost) hop hcount).atSemaphore
  · rw [if_neg hpost, ← s.grants.append_nil]
    exact (applyWait_waits (s := messagesTaken s m.sem m.arrive) hidle (htask hpost) hop hsink hcount).atSemaphore

end Sys2Proof.Machine
end

section
/-! The events of a channel: grants, commits, visible packets, delayed posts and the channel record (R265 to R275, R524). -/

namespace Sys2Proof.Machine

theorem exec_chpushGrant (w : Who) (s : State) : exec (.chpushGrant w) s = execChpushGrant w s := by rfl
theorem exec_packetAcquired (w : Who) (s : State) : exec (.packetAcquired w) s = execPacketAcquired w s := by rfl
theorem exec_commitArrival (ch : ChanName) (s : State) : exec (.commitArrival ch) s = execCommitArrival ch s := by rfl
theorem exec_packetVisible (ch : ChanName) (s : State) : exec (.packetVisible ch) s = execPacketVisible ch s := by rfl
theorem exec_deferredEmptyPost (ch : ChanName) (s : State) : exec (.deferredEmptyPost ch) s = execDeferredEmptyPost ch s := by rfl
theorem exec_channelRecordRewrite (ch : ChanName) (s : State) : exec (.channelRecordRewrite ch) s = execChannelRecordRewrite ch s := by rfl

/-! ### A channel changed -/

theorem chanOf_modChan_same (s : State) (k : Nat) (f : Chan → Chan) : chanOf (modChan s k f) k = { f (chanOf s k) with dirty := true } :=
  mapGet_mapPut_same _ _ _ _

/-- A channel after an event. -/
theorem chanOf_chanEvent_same (s : State) (k : Nat) (ev : ChanEvent) : chanOf (chanEvent s k ev) k = { chanApply s.now (chanOf s k) ev with dirty := true } :=
  chanOf_modChan_same s k fun c => chanApply s.now c ev

theorem chanOf_chanEvent_of_apply {s : State} {k : Nat} {ev : ChanEvent} {c : Chan} (h : chanApply s.now (chanOf s k) ev = c) :
    chanOf (chanEvent s k ev) k = { c with dirty := true } := by rw [chanOf_chanEvent_same, h]

theorem declOf_eq {s : State} {k : Nat} {e : ChanEntry} (h : chanDecl s k = some e) : declOf s k = e := by rw [declOf, h]; rfl

/-! ### What each event does to its channel -/

section
variable {c : Chan} {now : Nat}

theorem chanProducerGone_of_running (h : c.prodEnded = false) : chanProducerGone c = c := by rw [chanProducerGone, h]

/-- A commit where the oldest reservation has none, its channel no sink (R268). -/
theorem commitAt_head {x : Reservation} {xs : List Reservation} (hres : c.res = x :: xs) (hlen : x.len = none) (hsink : c.sink = false) (len : Nat) :
    commitAt now len c = { c with res := { x with len := some len, lastAt := now } :: xs } := by
  simp [commitAt, hres, hlen, hsink, firstIdx, findIdxFrom, updAt]

/-- A commit at a channel whose producer runs. -/
theorem chanApply_commit {x : Reservation} {xs : List Reservation} (hres : c.res = x :: xs) (hlen : x.len = none) (hsink : c.sink = false)
    (hrun : c.prodEnded = false) (len : Nat) :
    chanApply now c (.commit len) = { c with res := { x with len := some len, lastAt := now } :: xs } := by
  rw [chanApply, commitAt_head hres hlen hsink]
  exact chanProducerGone_of_running hrun

theorem chanApply_visible {x : Reservation} {xs : List Reservation} {l : Nat} (hres : c.res = x :: xs) (hlen : x.len = some l) :
    chanApply now c .visible = { c with res := xs, visible := c.visible ++ [(x.n, l)], committed := c.committed + 1, lastLen := l } := by
  simp only [chanApply, visibleAt, hres, hlen]

theorem chanApply_acquire {p : Nat × Nat} {r : List (Nat × Nat)} (hvisible : c.visible = p :: r) :
    chanApply now c .acquire = { c with visible := r, acquired := c.acquired ++ [p], nacquired := c.nacquired + 1 } := by
  simp only [chanApply, acquireAt, hvisible]

/-- A head that is committed and filled in an earlier cycle (R268). -/
theorem headFilled_of_head {x : Reservation} {xs : List Reservation} {l : Nat} (hres : c.res = x :: xs) (hlen : x.len = some l) (hfill : l ≤ x.fill)
    (hearlier : x.lastAt < now) : headFilled c now = true := by
  simp [headFilled, hres, hlen, hfill, hearlier]

end

/-! ### Grants (R266, R270) -/

section
variable {s : State} {w : Who} {d b : Reg} {k : Nat} {e : ChanEntry} {g : Grant} (hdecl : chanDecl s k = some e)
include hdecl

theorem execChpushGrant_granted (hwait : (ctxOf s w).wait = .push d k) (hgrant : grantFor s w [.push] = some g) :
    execChpushGrant w s
      = .next (rput (chanEvent (endWait (dropGrant s g) w) k .reserve) w d (BitVec.ofNat 32 (slotAddr e (chanOf s k).next)) 1) := by
  rw [execChpushGrant, hwait, hgrant]
  dsimp only
  rw [declOf_eq hdecl]

theorem execPacketAcquired_granted {p : Nat × Nat} {r : List (Nat × Nat)} (hwait : (ctxOf s w).wait = .acquire d b k)
    (hgrant : grantFor s w [.acquire] = some g) (hvisible : (chanOf s k).visible = p :: r) :
    execPacketAcquired w s
      = .next (rput (rput (chanEvent (endWait (dropGrant s g) w) k .acquire) w d (BitVec.ofNat 32 (slotAddr e p.1)) 1) w b (BitVec.ofNat 32 p.2) 1) := by
  rw [execPacketAcquired, hwait, hgrant]
  dsimp only
  rw [hvisible, declOf_eq hdecl]

end

theorem ctxOf_chanEvent (s : State) (k : Nat) (ev : ChanEvent) (w : Who) : ctxOf (chanEvent s k ev) w = ctxOf s w := rfl

theorem ctxOf_dropGrant (s : State) (g : Grant) (w : Who) : ctxOf (dropGrant s g) w = ctxOf s w := rfl

/-- A grant taken with its channel's event leaves the context as the end of the wait and the written register do: neither reaches a context. -/
theorem ctxOf_rput_chanEvent (s : State) (w : Who) (g : Grant) (k : Nat) (ev : ChanEvent) (d : Reg) (v : Word) :
    ctxOf (rput (chanEvent (endWait (dropGrant s g) w) k ev) w d v 1) w = ctxOf (rput (endWait s w) w d v 1) w := by
  have hnow : (chanEvent (endWait (dropGrant s g) w) k ev).now = (endWait s w).now := rfl
  have hdrop : (dropGrant s g).now = s.now := rfl
  rw [ctxOf_rput, ctxOf_rput, hnow, ctxOf_chanEvent, ctxOf_endWait, ctxOf_endWait, ctxOf_dropGrant, hdrop]

theorem wroteReg_rput_chanEvent (s : State) (w : Who) (g : Grant) (k : Nat) (ev : ChanEvent) (d : Reg) (v : Word) :
    WroteReg w s (rput (chanEvent (endWait (dropGrant s g) w) k ev) w d v 1) d v 1 :=
  (wroteReg_rput_endWait s w d v 1).of_ctx (by rw [ctxOf_rput_chanEvent]) (by rw [ctxOf_rput_chanEvent])

theorem resumes_rput_chanEvent (s : State) (w : Who) (g : Grant) (k : Nat) (ev : ChanEvent) (d : Reg) (v : Word) :
    Resumes w s (rput (chanEvent (endWait (dropGrant s g) w) k ev) w d v 1) := by
  rw [Resumes, ctxOf_rput_chanEvent]
  exact resumes_rput_endWait s w d v 1

theorem chanOf_rput (s : State) (w : Who) (d : Reg) (v : Word) (lat k : Nat) : chanOf (rput s w d v lat) k = chanOf s k := rfl

/-- A register written keeps the end of a wait. -/
theorem Resumes.rput {s t : State} {w : Who} (h : Resumes w s t) (d : Reg) (v : Word) (lat : Nat) : Resumes w s (rput t w d v lat) := by
  obtain ⟨hwait, hfree, hpc⟩ := h
  rw [Resumes, ctxOf_rput]
  split <;> exact ⟨hwait, hfree, hpc⟩

/-! ### The channel record (R275) -/

/-- Bytes written together in banks of a logical facet that are on read back there, and nothing else but what the cycle keeps of them changes. -/
theorem fmemPut_laidAt_lands {s : State} {lf : Nat} (off : Nat) (data : List Byte) (hon : ∀ y, gatedAt s (physOf s lf) y = false) :
    let t := fmemPut s (physOf s lf) (laidAt off data)
    facetRead t lf off data.length = data
      ∧ (∀ y, y < fbase (physOf s lf) + off ∨ fbase (physOf s lf) + off + data.length ≤ y → memRead t.fmem y = memRead s.fmem y)
      ∧ t = { s with fmem := t.fmem, cyc := t.cyc } := by
  intro t
  have ht : t = modCycle (fmemStore s (physOf s lf) (laidAt off data)) _ := fmemPut_ungated fun y _ => hon y
  rw [ht]
  refine ⟨?_, ?_, ?_⟩
  · show fmemPeek (fmemStore s (physOf s lf) (laidAt off data)) (physOf s lf) (span off data.length) = data
    exact fmemPeek_fmemStore_laidAt fun y _ => hon y
  · exact fun y hy => memRead_fmemStore_laidAt_out s _ _ _ hy
  · rfl

/-- The state in which a channel counts as recorded, before its record is written. -/
def recorded (s : State) (k : Nat) : State := { s with chans := mapPut s.chans k { chanOf s k with dirty := false } }

theorem recordBytes_length (s : State) (e : ChanEntry) (c : Chan) : (recordBytes s e c).length = 64 := by
  simp [recordBytes]

/-! ### Events that are due -/

section
variable {s : State} {ch : ChanName} {e : ChanEntry} (hdecl : chanDecl s (chanKey ch) = some e)
include hdecl

theorem execCommitArrival_due {m : CommitMsg} {r : List CommitMsg} (hcommits : (chanOf s (chanKey ch)).commits = m :: r) (hcommit : m.rewind = false)
    (hdue : m.arrive ≤ s.now) :
    execCommitArrival ch s = .next (chanEvent (modChan s (chanKey ch) (fun c => { c with commits := r })) (chanKey ch) (.commit m.len)) := by
  rw [execCommitArrival, hdecl, hcommits]
  dsimp only
  rw [whenever_true (decide_eq_true hdue), hcommit, if_neg Bool.false_ne_true]

theorem execPacketVisible_due (hfilled : headFilled (chanOf s (chanKey ch)) s.now = true) (hrun : (chanOf s (chanKey ch)).prodEnded = false) :
    execPacketVisible ch s = .next (chanPost (chanEvent s (chanKey ch) .visible) e.consumer e.fullSem 1) := by
  have hover : holdOver s (chanOf s (chanKey ch)) = true := by rw [holdOver, hrun]; rfl
  rw [execPacketVisible, hdecl]
  exact whenever_true (by rw [hfilled, hover, Bool.and_self])

/-- The oldest of the delayed posts, its accesses over (R524). -/
theorem execDeferredEmptyPost_due {x : Deferred} {xs : List Deferred} (hdeferred : (chanOf s (chanKey ch)).deferred = x :: xs) (hpost : x.restore = false)
    (hover : flightDone s x.flight = true) :
    execDeferredEmptyPost ch s = .next (chanPost (modChan s (chanKey ch) (fun c => { c with deferred := xs })) e.consumer e.emptySem x.n) := by
  have hfirst : deferredDue s (chanOf s (chanKey ch)) = some 0 := by simp [deferredDue, hdeferred, firstIdx, findIdxFrom, hover]
  simp only [execDeferredEmptyPost, hdecl, hfirst, modChan, hdeferred, List.getElem?_cons_zero, hpost, Bool.false_eq_true, if_false]
  rfl

/-- A changed record rewritten in banks that are on. -/
theorem execChannelRecordRewrite_dirty (hdirty : (chanOf s (chanKey ch)).dirty = true) :
    execChannelRecordRewrite ch s = .next (fmemPut (recorded s (chanKey ch)) (physOf s e.consumer)
      (laidAt e.record (recordBytes s e (chanOf s (chanKey ch))))) := by
  rw [execChannelRecordRewrite, hdecl]
  exact whenever_true hdirty

end

/-- Settles O21, event by event: a slot reserved, a packet acquired, a commit, a packet that becomes visible, a delayed post, the record. -/
theorem channelEvents : Obligations.ChannelEvents := by
  unfold Obligations.ChannelEvents
  intro s ch e hdecl k c slot post
  refine ⟨fun w d g hwait hgrant => ?_, fun w d b g p r hwait hgrant hvisible hdb hd hb => ?_, fun m r x xs hcommits hcommit hdue hres hlen hsink hrun => ?_,
    fun x xs l hres hlen hfill hearlier hrun => ?_, fun x xs hdeferred hpost hover => ?_, fun hdirty hgated => ?_⟩
  · exact ⟨_, (exec_chpushGrant w s).trans (execChpushGrant_granted hdecl hwait hgrant), resumes_rput_chanEvent s w g k _ d _,
      wroteReg_rput_chanEvent s w g k _ d _, chanOf_chanEvent_same (endWait (dropGrant s g) w) k .reserve⟩
  · refine ⟨_, (exec_packetAcquired w s).trans (execPacketAcquired_granted hdecl hwait hgrant hvisible), (resumes_rput_chanEvent s w g k _ d _).rput b _ 1,
      ?_, ?_, fun x hxd hxb => ?_, ?_⟩
    · rw [rget_rput, if_neg (fun h => hdb h.1), (wroteReg_rput_chanEvent s w g k _ d _).1, if_pos ⟨rfl, hd⟩]
      rfl
    · rw [rget_rput, if_pos ⟨rfl, hb⟩]
    · rw [rget_rput, if_neg (fun h => hxb h.1), (wroteReg_rput_chanEvent s w g k _ d _).1, if_neg (fun h => hxd h.1)]
    · rw [chanOf_rput, chanOf_rput]
      exact chanOf_chanEvent_of_apply (chanApply_acquire hvisible)
  · refine ⟨_, (exec_commitArrival ch s).trans (execCommitArrival_due hdecl hcommits hcommit hdue), ?_, rfl⟩
    have hchan := chanOf_modChan_same s k fun c => { c with commits := r }
    rw [chanOf_chanEvent_of_apply (chanApply_commit (by rw [hchan]; exact hres) hlen (by rw [hchan]; exact hsink) (by rw [hchan]; exact hrun) m.len), hchan]
    rfl
  · exact ⟨_, (exec_packetVisible ch s).trans (execPacketVisible_due hdecl (headFilled_of_head hres hlen hfill hearlier) hrun), rfl,
      chanOf_chanEvent_of_apply (chanApply_visible hres hlen), rfl⟩
  · exact ⟨_, (exec_deferredEmptyPost ch s).trans (execDeferredEmptyPost_due hdecl hdeferred hpost hover), rfl,
      chanOf_modChan_same s k fun c => { c with deferred := xs }, rfl⟩
  · have hon : ∀ y, gatedAt (recorded s k) (physOf (recorded s k) e.consumer) y = false := gatedAt_of_state_zero hgated
    obtain ⟨hread, hout, hside⟩ := fmemPut_laidAt_lands e.record (recordBytes s e c) hon
    rw [recordBytes_length] at hread hout
    refine ⟨fmemPut (recorded s k) (physOf (recorded s k) e.consumer) (laidAt e.record (recordBytes s e c)),
      (exec_channelRecordRewrite ch s).trans (execChannelRecordRewrite_dirty hdecl hdirty), ?_, hread, hout, ?_⟩
    · rw [hside]
      exact mapGet_mapPut_same _ _ _ _
    · rw [hside]
      rfl

end Sys2Proof.Machine
end

section
/-! Fences, and the end of a task that waits at TEND (R259, R282, R289, R307, R335). -/

namespace Sys2Proof.Machine

theorem exec_fence (w : Who) (s : State) : exec (.fence w) s = execFence w s := by rfl
theorem exec_fenceComplete (w : Who) (s : State) : exec (.fenceComplete w) s = execFenceComplete w s := by rfl
theorem exec_tend (w : Who) (s : State) : exec (.tend w) s = execTend w s := by rfl
theorem exec_tendComplete (w : Who) (s : State) : exec (.tendComplete w) s = execTendComplete w s := by rfl

/-! ### FENCE (R282) -/

/-- Of a context, an instruction that does not branch changes the pc and the occupancy alone. -/
theorem keepsCtx_advance (s : State) (w : Who) (k : Nat) : KeepsCtx w s (advance s w k) := by
  unfold KeepsCtx
  rw [ctxOf_advance]

theorem rget_advance (s : State) (w : Who) (k : Nat) (r : Reg) : rget (advance s w k) w r = rget s w r := rget_of_regs (by rw [ctxOf_advance]) r

/-- Stores performed, and no command left outside the STR queue. -/
theorem fenceNow_of_settled {s : State} {w : Who} (hstores : (ctxOf s w).storeAt ≤ s.now) (hcmds : ∀ c ∈ (ctxOf s w).cmds, c.queue = .str) :
    fenceNow s w = true := by
  have hover : commandsOver s w (facetOf s w.lf).seq = true :=
    List.all_eq_true.mpr fun c hc => by simp [hcmds c hc]
  rw [fenceNow, fenceHolds, hover, decide_eq_true hstores, Bool.and_self]

/-- A waiting FENCE whose condition holds completes; with no posts kept, nothing else happens. -/
theorem execFenceComplete_due {s : State} {w : Who} (hwait : (ctxOf s w).wait = .fence) (hfence : fenceNow s w = true) (hposts : (ctxOf s w).posts = []) :
    execFenceComplete w s = .next (endWait s w) := by
  have hdue : fenceDue s w = true := by simp [fenceDue, hwait, hfence]
  rw [execFenceComplete, whenever_true hdue, hposts]
  exact congrArg _ (if_pos ⟨hwait, hfence⟩)

/-! ### What the end of a task leaves alone -/

/-- Beside stream engines, jobs, channels and the tasks' contexts, nothing has changed. -/
def TaskSide (s t : State) : Prop := t = { s with engines := t.engines, jobs := t.jobs, chans := t.chans, facets := t.facets }

theorem taskSide_self (s : State) : TaskSide s s := rfl

theorem TaskSide.trans {s t u : State} (h : TaskSide s t) (k : TaskSide t u) : TaskSide s u := by
  unfold TaskSide at *
  rw [k, h]

section
variable {s t : State} (h : TaskSide s t)
include h

theorem TaskSide.sameMemories : SameMemories s t := by rw [h]; exact ⟨rfl, rfl, rfl, rfl, rfl, rfl⟩
theorem TaskSide.seq : t.seq = s.seq := by rw [h]
theorem TaskSide.tcyc : tcyc t = tcyc s := by rw [h]; rfl
theorem TaskSide.chanDecls : chanDecls t = chanDecls s := by rw [h]; rfl
theorem TaskSide.deferred (lf : Nat) : deferred t lf = deferred s lf := by rw [h]; rfl

end

/-- Effects that keep to engines, jobs, channels and contexts, one after another. -/
theorem taskSide_foldl {β : Type} {f : State → β → State} (h : ∀ t x, TaskSide t (f t x)) (xs : List β) (s : State) : TaskSide s (xs.foldl f s) := by
  induction xs generalizing s with
  | nil => exact taskSide_self s
  | cons x xs ih => exact (h s x).trans (ih (f s x))

/-! ### Streams closed and engines without work (R233, R307) -/

/-- An engine on which no stream stands and no transfer is in flight. -/
def Engine.quiet (g : Engine) : Prop := g.streams = [] ∧ g.transfers = []

theorem quiet_modEngine {s : State} {k e : Nat} {f : Engine → Engine} (hf : ∀ g : Engine, g.quiet → (f g).quiet) (h : (engineOf s k).quiet) :
    (engineOf (modEngine s e f) k).quiet := by
  by_cases hk : k = e
  · subst hk
    rw [engineOf_modEngine_same]
    exact hf _ h
  · rwa [engineOf_modEngine_other s e f hk]

/-- A change of an engine that keeps it quiet, on engines one after another. -/
theorem quiet_foldl {f : State → Nat → State} (h : ∀ t e k, (engineOf t k).quiet → (engineOf (f t e) k).quiet) (es : List Nat) {s : State} {k : Nat}
    (hs : (engineOf s k).quiet) : (engineOf (es.foldl f s) k).quiet := by
  induction es generalizing s with
  | nil => exact hs
  | cons e es ih => exact ih (h s e k hs)

theorem quiet_closeAndDrop (w : Who) (t : State) (e k : Nat) (h : (engineOf t k).quiet) : (engineOf (dropTiles (closeStreams t w 0 e) w e) k).quiet := by
  refine quiet_modEngine (fun g hg => ⟨hg.1, ?_⟩) (quiet_modEngine (fun g hg => ⟨?_, hg.2⟩) h)
  · rw [hg.2]; rfl
  · rw [hg.1]; rfl

/-- TEND with no part in a Merge job left closes streams alone. -/
theorem tendCloses_eq {s : State} {w : Who} (h : (ctxOf s w).mergeJobs = []) :
    tendCloses s w = (enginesOf w.lf).foldl (fun t e => dropTiles (closeStreams t w 0 e) w e) s := by
  rw [tendCloses, h]
  rfl

/-- States that agree beside their engines. -/
theorem side_of_withoutEngines {s t : State} (h : { t with engines := [] } = { s with engines := [] }) : t = { s with engines := t.engines } :=
  congrArg (fun u : State => { u with engines := t.engines }) h

/-- With no part in a Merge job left TEND touches stream engines alone. -/
theorem tendCloses_side {s : State} {w : Who} (h : (ctxOf s w).mergeJobs = []) : tendCloses s w = { s with engines := (tendCloses s w).engines } := by
  have hstep (t : State) (e : Nat) : { dropTiles (closeStreams t w 0 e) w e with engines := [] } = { t with engines := [] } := rfl
  rw [tendCloses_eq h]
  exact side_of_withoutEngines (foldl_keeps (fun t : State => { t with engines := [] }) hstep (enginesOf w.lf) s)

theorem quiet_tendCloses {s : State} {w : Who} (h : (ctxOf s w).mergeJobs = []) {k : Nat} (hk : (engineOf s k).quiet) : (engineOf (tendCloses s w) k).quiet := by
  rw [tendCloses_eq h]
  exact quiet_foldl (quiet_closeAndDrop w) _ hk

theorem streamsDone_of_quiet {s : State} {w : Who} (h : ∀ e ∈ enginesOf w.lf, (engineOf s e).quiet) : streamsDone s w = true := by
  refine List.all_eq_true.mpr fun e he => ?_
  obtain ⟨hstreams, htransfers⟩ := h e he
  rw [hstreams, htransfers]
  rfl

/-- An engine on which the streams of a context have no end left to send. -/
def Engine.endsSent (g : Engine) (w : Who) : Engine :=
  { g with streams := g.streams.map (fun x => if x.2.of w then (x.1, { x.2 with fed := [] }) else x) }

theorem Engine.quiet.endsSent {g : Engine} (h : g.quiet) (w : Who) : (g.endsSent w).quiet := by
  obtain ⟨hstreams, htransfers⟩ := h
  exact ⟨by rw [Engine.endsSent, hstreams]; rfl, htransfers⟩

/-- On a quiet engine no stream owes an end. -/
theorem sendEnds_quiet {s : State} {e : Nat} (h : (engineOf s e).quiet) (w : Who) (aborted : Bool) :
    sendEnds s w aborted e = modEngine s e (·.endsSent w) := by
  rw [sendEnds, h.1]
  rfl

/-- Quiet engines, one after another: the engines alone are touched. -/
theorem sendEnds_foldl_side (w : Who) (aborted : Bool) (es : List Nat) {s : State} (h : ∀ e ∈ es, (engineOf s e).quiet) :
    es.foldl (fun t e => sendEnds t w aborted e) s = { s with engines := (es.foldl (fun t e => sendEnds t w aborted e) s).engines } := by
  induction es generalizing s with
  | nil => rfl
  | cons e es ih =>
    obtain ⟨he, hes⟩ := List.forall_mem_cons.mp h
    rw [List.foldl_cons, sendEnds_quiet he w aborted]
    exact ih fun k hk => quiet_modEngine (fun _ hg => hg.endsSent w) (hes k hk)

/-! ### Jobs left behind (R335) -/

/-- Leaving a job keeps each context's GMAX. -/
theorem ctxOf_gmax_leaveJob (s : State) (n : Nat) (which : Nat → Bool) (w : Who) : (ctxOf (leaveJob s n which) w).gmax = (ctxOf s w).gmax := by
  have hkey : ∀ f : Nat × Facet,
      (if which f.1 then (f.1, { f.2 with ctxA := f.2.ctxA.leaveJob n, ctxB := f.2.ctxB.leaveJob n }) else f).1 = f.1 := fun f => by split <;> rfl
  rw [ctxOf, facetOf, mapGet, leaveJob, facetOf_mapFacets s _ hkey, ctxOf, facetOf, mapGet]
  cases mapFind s.facets w.lf with
  | none => rfl
  | some x =>
    show ((if which w.lf then (w.lf, { x with ctxA := x.ctxA.leaveJob n, ctxB := x.ctxB.leaveJob n }) else (w.lf, x)).2.ctx w.ctx).gmax = _
    split
    · rw [Facet.ctx, Option.getD_some, Facet.ctx]
      split <;> rfl
    · rfl

theorem ctxOf_gmax_freeJob (s : State) (n : Nat) (w : Who) : (ctxOf (freeJob s n) w).gmax = (ctxOf s w).gmax := ctxOf_gmax_leaveJob _ n _ w

theorem taskSide_freeJob (s : State) (n : Nat) : TaskSide s (freeJob s n) := rfl

theorem taskSide_jobs (s : State) (js : SMap Job) : TaskSide s { s with jobs := js } := rfl

theorem taskSide_orphanJobs (s : State) (w : Who) (id : Nat) : TaskSide s (orphanJobs s w id) :=
  (taskSide_foldl (fun t (j : Nat × Job) => taskSide_freeJob t j.1) _ s).trans (taskSide_jobs _ _)

theorem ctxOf_gmax_orphanJobs (s : State) (w : Who) (id : Nat) : (ctxOf (orphanJobs s w id) w).gmax = (ctxOf s w).gmax :=
  foldl_keeps (fun t => (ctxOf t w).gmax) (fun t (j : Nat × Job) => ctxOf_gmax_freeJob t j.1 w) _ s

/-! ### The facet and the channels behind a task (R69, R276) -/

theorem taskSide_vacated (s : State) (w : Who) : TaskSide s (vacated s w) := rfl

theorem taskSide_settleFlights (s : State) : TaskSide s (settleFlights s) := rfl

theorem ctxOf_settleFlights (s : State) (w : Who) : ctxOf (settleFlights s) w = ctxOf s w := rfl

theorem taskSide_leaveSplit (s : State) (lf : Nat) : TaskSide s (leaveSplit s lf) := by
  unfold leaveSplit
  split <;> rfl

/-- Leaving split mode reaches no context. -/
theorem ctxOf_leaveSplit (s : State) (w : Who) : ctxOf (leaveSplit s w.lf) w = ctxOf s w := by
  unfold leaveSplit
  split
  · rw [ctxOf, facetOf_modFacet_same]; rfl
  · rfl

/-- A facet whose swap does not wait is only left by its split halves. -/
theorem facetFreed_undeferred {s : State} {lf : Nat} (h : deferred s lf = false) : facetFreed s lf = leaveSplit s lf := by
  have hleft : deferred (leaveSplit s lf) lf = false := ((taskSide_leaveSplit s lf).deferred lf).trans h
  rw [facetFreed]
  exact if_neg (by simp [hleft])

/-- A task without channels leaves none behind. -/
theorem chansEnd_unconcerned (old : State) {s : State} {id : Nat} (h : ∀ e ∈ chanDecls s, e.prodTask ≠ id ∧ e.consTask ≠ id) : chansEnd old s id = s := by
  rw [chansEnd]
  generalize chanDecls s = es at h
  induction es with
  | nil => rfl
  | cons e es ih =>
    obtain ⟨⟨hprod, hcons⟩, hes⟩ := List.forall_mem_cons.mp h
    rw [List.foldl_cons, if_neg hprod, if_neg hcons]
    exact ih hes

/-! ### TEND (R289, R307) -/

theorem ctxOf_modTask (s : State) (id : Nat) (f : TaskRec → TaskRec) (w : Who) : ctxOf (modTask s id f) w = ctxOf s w := rfl

theorem sameMemories_modTask (s : State) (id : Nat) (f : TaskRec → TaskRec) : SameMemories s (modTask s id f) := ⟨rfl, rfl, rfl, rfl, rfl, rfl⟩

/-- A task's record as its end at cycle `c` leaves it (R289). -/
def TaskRec.endedOk (t : TaskRec) (c : Nat) : TaskRec := { t with phase := .ended, status := 0, reason := 0, stop := c }

/-- The ends that a context's streams owe sent, on both engines of its facet. -/
def endsSent (s : State) (w : Who) : State := (enginesOf w.lf).foldl (fun s e => sendEnds s w false e) s

/-- The state in which a task that ends has left its engines, its jobs and its context. -/
def taskVacated (s : State) (w : Who) : State := settleFlights (vacated (orphanJobs (endsSent s w) w (taskId s w)) w)

/-- What follows: the facet is free, the task's channels end, its record says OK. -/
def completedTask (old s : State) (w : Who) (id : Nat) : State :=
  modTask (chansEnd old (facetFreed s w.lf) id) id (·.endedOk (tcyc (chansEnd old (facetFreed s w.lf) id)))

theorem completedTask_eq {old s u : State} {w : Who} {id : Nat} (hfreed : facetFreed s w.lf = u) (hnone : chansEnd old u id = u) :
    completedTask old s w id = modTask u id (·.endedOk (tcyc u)) := by
  rw [completedTask, hfreed, hnone]

/-- A task that no express request asked for. -/
theorem endTask_unasked {s : State} {w : Who} (h : (ctxOf s w).express = none) : endTask s w = completedTask s (taskVacated s w) w (taskId s w) := by
  simp only [endTask, h]
  rfl

theorem ctxOf_vacated (s : State) (w : Who) : ctxOf (vacated s w) w = { Ctx.idle with gmax := (ctxOf s w).gmax } := ctxOf_modCtx s w _

section
variable {s : State} {w : Who} (hquiet : ∀ e ∈ enginesOf w.lf, (engineOf s e).quiet)
include hquiet

theorem endsSent_side : endsSent s w = { s with engines := (endsSent s w).engines } := sendEnds_foldl_side w false (enginesOf w.lf) hquiet

theorem taskSide_taskVacated : TaskSide s (taskVacated s w) := by
  have hends : TaskSide s (endsSent s w) := by rw [endsSent_side hquiet]; rfl
  have hjobs := hends.trans (taskSide_orphanJobs _ w (taskId s w))
  exact (hjobs.trans (taskSide_vacated _ w)).trans (taskSide_settleFlights _)

theorem ctxOf_taskVacated : ctxOf (taskVacated s w) w = { Ctx.idle with gmax := (ctxOf s w).gmax } := by
  have hends : ctxOf (endsSent s w) w = ctxOf s w := by rw [endsSent_side hquiet]; rfl
  rw [taskVacated, ctxOf_settleFlights, ctxOf_vacated, ctxOf_gmax_orphanJobs, hends]

/-- A task that leaves no channel, no swap that waits and no express request behind. -/
theorem endTask_eq (hexpress : (ctxOf s w).express = none) (hdeferred : deferred s w.lf = false)
    (hchans : ∀ e ∈ chanDecls s, e.prodTask ≠ taskId s w ∧ e.consTask ≠ taskId s w) :
    endTask s w = modTask (leaveSplit (taskVacated s w) w.lf) (taskId s w) (·.endedOk (tcyc s)) := by
  have hside := taskSide_taskVacated hquiet
  have hfreed := facetFreed_undeferred ((hside.deferred w.lf).trans hdeferred)
  have hsplit := hside.trans (taskSide_leaveSplit _ w.lf)
  have hnone := chansEnd_unconcerned (id := taskId s w) s fun e he => hchans e (hsplit.chanDecls ▸ he)
  rw [endTask_unasked hexpress, completedTask_eq hfreed hnone, hsplit.tcyc]

end

/-- What TEND waits for holds, and nothing of the task is left in its engines: the task ends. -/
theorem execTendComplete_ends {s : State} {w : Who} (hdue : tendDue s w = true) (hquiet : ∀ e ∈ enginesOf w.lf, (engineOf (tendCloses s w) e).quiet) :
    execTendComplete w s = .next (endTask (tendCloses s w) w) := by
  rw [execTendComplete, whenever_true hdue]
  exact congrArg _ (if_pos (streamsDone_of_quiet hquiet))

/-- A due TEND of a task with no Merge part, no work on its engines, no channel, no express request and no swap that waits for its facet. -/
theorem execTendComplete_bare {s : State} {w : Who} {id : Nat} {r : TaskRec} (hdue : tendDue s w = true) (htask : (ctxOf s w).task = some id)
    (hrec : taskRec s id = some r) (hjobs : (ctxOf s w).mergeJobs = []) (hexpress : (ctxOf s w).express = none) (hdeferred : deferred s w.lf = false)
    (hengines : ∀ e ∈ enginesOf w.lf, (engineOf s e).quiet) (hchans : ∀ e ∈ chanDecls s, e.prodTask ≠ id ∧ e.consTask ≠ id) :
    ∃ t, execTendComplete w s = .next t ∧ ctxOf t w = { Ctx.idle with gmax := (ctxOf s w).gmax } ∧ taskRec t id = some (r.endedOk (tcyc s)) ∧ SameMemories s t := by
  have hcloses := tendCloses_side hjobs
  have hquiet : ∀ e ∈ enginesOf w.lf, (engineOf (tendCloses s w) e).quiet := fun e he => quiet_tendCloses hjobs (hengines e he)
  have hends := execTendComplete_ends hdue hquiet
  generalize tendCloses s w = u at hcloses hquiet hends
  have hside : TaskSide s u := by rw [hcloses]; rfl
  have hctx : ctxOf u w = ctxOf s w := by rw [hcloses]; rfl
  have hid : taskId u w = id := by rw [taskId, hctx, htask]; rfl
  have hleft := (hside.trans (taskSide_taskVacated hquiet)).trans (taskSide_leaveSplit _ w.lf)
  have hkept : taskRec (leaveSplit (taskVacated u w) w.lf) id = some r := by rw [taskRec, hleft.seq]; exact hrec
  have hnone : ∀ e ∈ chanDecls u, e.prodTask ≠ taskId u w ∧ e.consTask ≠ taskId u w := by rw [hside.chanDecls, hid]; exact hchans
  rw [endTask_eq hquiet (hctx ▸ hexpress) ((hside.deferred w.lf).trans hdeferred) hnone, hid, hside.tcyc] at hends
  refine ⟨_, hends, ?_, taskRec_modTask hkept (·.endedOk (tcyc s)) fun _ => rfl, hleft.sameMemories.trans (sameMemories_modTask _ _ _)⟩
  rw [ctxOf_modTask, ctxOf_leaveSplit, ctxOf_taskVacated hquiet, hctx]

/-- Settles O22: FENCE, TEND, the waiting FENCE that completes, the task that ends. -/
theorem fenceAndTend : Obligations.FenceAndTend := by
  unfold Obligations.FenceAndTend
  intro s w
  refine ⟨fun hissue => ⟨fun hfence => ?_, fun hfence => ?_, ?_⟩, fun hwait hstores hcmds hposts => ?_,
    fun id r hdue htask hrec hjobs hexpress hdeferred hengines hchans => ?_⟩
  · refine ⟨advance s w 1, ?_, onlyCtx_advance s w 1, keepsCtx_advance s w 1, goesOn_advance s w 1, rget_advance s w 1⟩
    rw [exec_fence, execFence, issue_runs hissue, if_pos hfence]
  · refine ⟨waitFor s w .fence, ?_, onlyCtx_waitFor s w _, waits_waitFor s w _⟩
    rw [exec_fence, execFence, issue_runs hissue, if_neg (Bool.eq_false_iff.mp hfence)]
  · refine ⟨waitFor s w .tend, ?_, onlyCtx_waitFor s w _, waits_waitFor s w _⟩
    rw [exec_tend, execTend, issue_runs hissue]
  · exact ⟨endWait s w, (exec_fenceComplete w s).trans (execFenceComplete_due hwait (fenceNow_of_settled hstores hcmds) hposts),
      onlyCtx_endWait s w, resumes_endWait s w⟩
  · rw [exec_tendComplete]
    exact execTendComplete_bare hdue htask hrec hjobs hexpress hdeferred hengines hchans

end Sys2Proof.Machine
end

section
/-! The words of the scalar core's instructions: decoding undoes encoding and encoding undoes decoding (R291 to R293, R317, Tables 10-1 to 10-3 and 11-2). -/

namespace Sys2Proof

/-! ### Words and their fields (Table 10-1) -/

/-- A field that lies wholly in the low part of a word is a field of that part. -/
theorem extract_low {n m : Nat} {x : BitVec n} {y : BitVec m} {lo len : Nat} {v : BitVec len} (h : y.extractLsb' lo len = v) (hlow : lo + len ≤ m := by decide) :
    (x ++ y).extractLsb' lo len = v :=
  (BitVec.extractLsb'_append_eq_of_add_le hlow).trans h

theorem unpack_pack (f : Fields) : unpack (pack f) = f := by
  obtain ⟨major, d, a, b, func, imm⟩ := f
  let tail := d ++ (a ++ (b ++ (func ++ imm)))
  have hmajor : (major ++ tail).extractLsb' 58 6 = major := BitVec.extractLsb'_append_eq_left
  have hd : (major ++ tail).extractLsb' 53 5 = d := extract_low BitVec.extractLsb'_append_eq_left
  have ha : (major ++ tail).extractLsb' 48 5 = a := extract_low (extract_low BitVec.extractLsb'_append_eq_left)
  have hb : (major ++ tail).extractLsb' 43 5 = b := extract_low (extract_low (extract_low BitVec.extractLsb'_append_eq_left))
  have hfunc : (major ++ tail).extractLsb' 32 11 = func := extract_low (extract_low (extract_low (extract_low BitVec.extractLsb'_append_eq_left)))
  have himm : (major ++ tail).extractLsb' 0 32 = imm := extract_low (extract_low (extract_low (extract_low BitVec.extractLsb'_append_eq_right)))
  exact (Fields.mk.injEq ..).mpr ⟨hmajor, hd, ha, hb, hfunc, himm⟩

theorem pack_unpack (x : BitVec 64) : pack (unpack x) = x := by
  have himm : x.extractLsb' 32 11 ++ x.extractLsb' 0 32 = x.extractLsb' 0 43 := BitVec.extractLsb'_append_extractLsb'_eq_extractLsb' rfl
  have hb : x.extractLsb' 43 5 ++ x.extractLsb' 0 43 = x.extractLsb' 0 48 := BitVec.extractLsb'_append_extractLsb'_eq_extractLsb' rfl
  have ha : x.extractLsb' 48 5 ++ x.extractLsb' 0 48 = x.extractLsb' 0 53 := BitVec.extractLsb'_append_extractLsb'_eq_extractLsb' rfl
  have hd : x.extractLsb' 53 5 ++ x.extractLsb' 0 53 = x.extractLsb' 0 58 := BitVec.extractLsb'_append_extractLsb'_eq_extractLsb' rfl
  have hmajor : x.extractLsb' 58 6 ++ x.extractLsb' 0 58 = x.extractLsb' 0 64 := BitVec.extractLsb'_append_extractLsb'_eq_extractLsb' rfl
  rw [pack, unpack, himm, hb, ha, hd, hmajor, BitVec.extractLsb'_eq_self]

/-- Fields agree where their numbers do. -/
theorem fields_eq_iff (m : BitVec 6) (d a b : Reg) (n : BitVec 11) (i : Word) (f : Fields) :
    Fields.mk m d a b n i = f ↔ f.major.toNat = m.toNat ∧ d = f.d ∧ a = f.a ∧ b = f.b ∧ n.toNat = f.func.toNat ∧ i.toNat = f.imm.toNat := by
  obtain ⟨m', d', a', b', n', i'⟩ := f
  simp only [Fields.mk.injEq, BitVec.toNat_inj]
  rw [eq_comm (a := m)]

/-! ### Parts of FUNC and IMM -/

theorem only_eq_some {p : Prop} [Decidable p] {i j : Instr} : only p j = some i ↔ p ∧ j = i := by simp [only]

theorem bitOf_lt_two (p : Bool) : bitOf p < 2 := by cases p <;> decide

@[simp] theorem bitOf_eq_one (p : Bool) : decide (bitOf p = 1) = p := by cases p <;> rfl

/-- A flag read from a bit is that bit. -/
theorem bitOf_bit (n : Nat) : bitOf (decide (n % 2 = 1)) = n % 2 := by
  rcases Nat.mod_two_eq_zero_or_one n with h | h <;> rw [h] <;> rfl

theorem bitOf_top {n : Nat} (h : n < 2) : bitOf (decide (n = 1)) = n := by
  have := bitOf_bit n
  rwa [Nat.mod_eq_of_lt h] at this

theorem bitOf_getLsbD (x : Word) (k : Nat) : bitOf (x.getLsbD k) = x.toNat / 2 ^ k % 2 := by
  rw [← BitVec.testBit_toNat, Nat.testBit_eq_decide_div_mod_eq, bitOf_bit]

/-- FUNC of an engine instruction, put together from its two parts (R317). -/
theorem toNat_engFunc {after n : Nat} (ha : after < 8) (hn : n < 128) : (engFunc after n).toNat = after * 128 + n := by
  rw [engFunc, BitVec.toNat_ofNat]
  omega

/-! ### A word spells an instruction -/

/-- Fields spell an instruction of a context: it is the context's, well formed if the context exists, and its encoding is those fields. -/
def Spells (w : Who) (f : Fields) (i : Instr) : Prop := whoOf i = some w ∧ (w.wf = true → i.wf = true) ∧ encodeFields i = some f

theorem intFunc_spells {n : Nat} {unary : Bool} {mk : Who → AluArgs → Instr} (h : intFunc n = some (unary, mk)) (w : Who) (o : AluArgs) :
    whoOf (mk w o) = some w ∧ (mk w o).wf = (w.wf && if unary then o.wfUnary else o.wf) ∧ encodeFields (mk w o) = some (aluFields 0 n o) := by
  unfold intFunc at h
  split at h <;> cases h <;> exact ⟨rfl, rfl, rfl⟩

theorem fpFunc_spells {n : Nat} {unary : Bool} {mk : Who → AluArgs → Instr} (h : fpFunc n = some (unary, mk)) (w : Who) (o : AluArgs) :
    whoOf (mk w o) = some w ∧ (mk w o).wf = (w.wf && if unary then o.wfUnary else o.wf) ∧ encodeFields (mk w o) = some (aluFields 2 n o) := by
  unfold fpFunc at h
  split at h <;> cases h <;> exact ⟨rfl, rfl, rfl⟩

/-- The fields of an integer or FP32 word whose major says which form it has. -/
theorem aluFields_self {f : Fields} {fp : Nat} {immForm : Bool} (hfp : fp = 0 ∨ fp = 2) (hmajor : f.major.toNat = fp + bitOf immForm) :
    aluFields fp f.func.toNat ⟨immForm, f.d, f.a, f.b, f.imm⟩ = f := by
  refine (fields_eq_iff ..).mpr ⟨?_, rfl, rfl, rfl, ?_, rfl⟩
  · rw [hmajor]
    rcases hfp with rfl | rfl <;> cases immForm <;> rfl
  · rw [BitVec.toNat_ofNat, Nat.mod_eq_of_lt f.func.isLt]

theorem decodeAlu_spells {w : Who} {fp : Nat} {immForm : Bool} {fn : Option (Bool × (Who → AluArgs → Instr))} {f : Fields} {i : Instr}
    (hfp : fp = 0 ∨ fp = 2) (hmajor : f.major.toNat = fp + bitOf immForm)
    (hfn : ∀ unary mk, fn = some (unary, mk) → ∀ o, whoOf (mk w o) = some w ∧ (mk w o).wf = (w.wf && if unary then o.wfUnary else o.wf)
      ∧ encodeFields (mk w o) = some (aluFields fp f.func.toNat o))
    (h : decodeAlu w immForm fn f = some i) : Spells w f i := by
  unfold decodeAlu at h
  split at h
  · cases h
  · next unary mk =>
    obtain ⟨hlegal, hi⟩ := Option.ite_none_right_eq_some.mp h
    cases hi
    obtain ⟨hwho, hwf, henc⟩ := hfn unary mk rfl ⟨immForm, f.d, f.a, f.b, f.imm⟩
    refine ⟨hwho, fun hw => ?_, henc.trans (congrArg some (aluFields_self hfp hmajor))⟩
    rw [hwf, hw, Bool.true_and]
    cases unary
    · cases immForm <;> simpa [AluArgs.wf] using hlegal
    · simpa [AluArgs.wfUnary] using hlegal

/-- A channel's name, back in IMM (R306). -/
theorem toNat_chanImm_chanOfImm (imm : Word) : (chanImm (chanOfImm imm)).toNat = imm.toNat := by
  rw [chanImm, chanOfImm, BitVec.toNat_ofNat, Nat.mod_add_div, Nat.mod_eq_of_lt imm.isLt]

theorem chanOfImm_wf {imm : Word} (h : imm.toNat < 8192) : (chanOfImm imm).wf = true := by
  have hindex : imm.toNat / 256 < 32 := by omega
  simp [ChanName.wf, chanOfImm, hindex, Nat.mod_lt]

theorem condOf_spells {n : Nat} {c : Cond} (h : condOf n = some c) : condNum c = n := by
  unfold condOf at h
  split at h <;> cases h <;> rfl

/-- An answer that stands only under a condition spells what it would spell under it. -/
theorem only_spells {w : Who} {f : Fields} {p : Prop} [Decidable p] {i j : Instr} (h : only p j = some i) (hj : p → Spells w f j) : Spells w f i := by
  obtain ⟨hp, rfl⟩ := only_eq_some.mp h
  exact hj hp

theorem decodeCore_spells {w : Who} {f : Fields} {i : Instr} (h : decodeCore w f = some i) : Spells w f i := by
  have hchan := toNat_chanImm_chanOfImm f.imm
  have hchanWf := chanOfImm_wf (imm := f.imm)
  unfold decodeCore at h
  dsimp only at h
  split at h
  -- The majors of one instruction each, whose unused fields are 0.
  case h_1 hm | h_2 hm | h_4 hm | h_5 hm | h_6 hm | h_7 hm | h_8 hm | h_9 hm | h_10 hm | h_11 hm | h_15 hm | h_18 hm =>
    refine only_spells h fun hlegal => ⟨rfl, fun hw => ?_, ?_⟩
    · simp_all [Instr.wf]
    · simp [encodeFields, fields_eq_iff, hm, hlegal, hchan]
  -- BR
  case h_3 hm =>
    split at h
    · cases h
    · next c hc =>
      refine only_spells h fun hlegal => ⟨rfl, fun hw => hw, ?_⟩
      simp [encodeFields, fields_eq_iff, hm, hlegal, condOf_spells hc]
  -- SWAIT and its TRY
  case h_12 hm =>
    split at h
    · next hn =>
      cases h
      exact ⟨rfl, fun hw => hw, by simp [encodeFields, fields_eq_iff, hm, hn]⟩
    · exact only_spells h fun hn => ⟨rfl, fun hw => hw, by simp [encodeFields, fields_eq_iff, hm, hn]⟩
  -- SPOST
  case h_13 hm =>
    refine only_spells h fun ⟨hd, hn⟩ => ⟨rfl, fun hw => hw, ?_⟩
    simp [encodeFields, fields_eq_iff, hm, hd, bitOf_top hn]
  -- CWAIT, its TRY, CRESET
  case h_14 hm =>
    obtain ⟨hctr, h⟩ := Option.ite_none_right_eq_some.mp h
    split at h
    · next hn =>
      cases h
      exact ⟨rfl, fun hw => by simp [Instr.wf, hw, hctr], by simp [encodeFields, fields_eq_iff, hm, hn]⟩
    · split at h
      · next hn =>
        cases h
        exact ⟨rfl, fun hw => by simp [Instr.wf, hw, hctr], by simp [encodeFields, fields_eq_iff, hm, hn]⟩
      · exact only_spells h fun hlegal => ⟨rfl, fun hw => by simp [Instr.wf, hw, hctr], by simp [encodeFields, fields_eq_iff, hm, hlegal]⟩
  -- CHCOMMIT and its REWIND
  case h_16 hm =>
    obtain ⟨hzero, h⟩ := Option.ite_none_right_eq_some.mp h
    split at h
    · next hn =>
      cases h
      exact ⟨rfl, fun hw => by simp [Instr.wf, hw, hchanWf, hzero], by simp [encodeFields, fields_eq_iff, hm, hn, hzero, hchan]⟩
    · exact only_spells h fun hlegal => ⟨rfl, fun hw => by simp [Instr.wf, hw, hchanWf, hzero],
        by simp [encodeFields, fields_eq_iff, hm, hlegal, hzero, hchan]⟩
  -- CHPOP: ACQUIRE and RELEASE
  case h_17 hm =>
    obtain ⟨hzero, h⟩ := Option.ite_none_right_eq_some.mp h
    split at h
    · next hn =>
      exact only_spells h fun hlegal => ⟨rfl, fun hw => by simp_all [Instr.wf], by simp [encodeFields, fields_eq_iff, hm, hn, hzero, hchan]⟩
    · exact only_spells h fun hlegal => ⟨rfl, fun hw => by simp [Instr.wf, hw, hchanWf, hzero],
        by simp [encodeFields, fields_eq_iff, hm, hlegal, hzero, hchan]⟩
  -- FENCE and TEND
  case h_19 hm =>
    obtain ⟨hzero, h⟩ := Option.ite_none_right_eq_some.mp h
    split at h
    · next hn =>
      cases h
      exact ⟨rfl, fun hw => hw, by simp [encodeFields, fields_eq_iff, hm, hn, hzero]⟩
    · exact only_spells h fun hn => ⟨rfl, fun hw => hw, by simp [encodeFields, fields_eq_iff, hm, hn, hzero]⟩
  case h_20 => cases h

/-- An engine instruction is spelled by fields whose FUNC holds its AFTER field over its function bits `k`, and whose IMM is the number `x`. -/
theorem engine_spells {w : Who} {f : Fields} {j : Instr} {m : BitVec 6} {d a b : Reg} {t n k x : Nat} (hfunc : f.func.toNat = t * 128 + n)
    (henc : encodeFields j = some ⟨m, d, a, b, engFunc t k, BitVec.ofNat 32 x⟩) (hwho : whoOf j = some w) (hwf : w.wf = true → j.wf = true)
    (hm : f.major.toNat = m.toNat) (hd : f.d = d) (ha : f.a = a) (hb : f.b = b) (hk : k = n) (hx : x = f.imm.toNat) : Spells w f j := by
  have hsize := f.func.isLt
  refine ⟨hwho, hwf, henc.trans (congrArg some ((fields_eq_iff ..).mpr ⟨hm, hd.symm, ha.symm, hb.symm, ?_, ?_⟩))⟩
  · rw [hk, engFunc, BitVec.toNat_ofNat, ← hfunc, Nat.mod_eq_of_lt hsize]
  · rw [hx, BitVec.toNat_ofNat, Nat.mod_eq_of_lt f.imm.isLt]

/-- The operand field of a vector instruction, put together again (R331). -/
theorem vecImm_eq {imm : Word} (h : imm.toNat < 65536) :
    imm.toNat % 4096 + 4096 * bitOf (imm.getLsbD 12) + 8192 * bitOf (imm.getLsbD 13) + 16384 * bitOf (imm.getLsbD 14) + 32768 * bitOf (imm.getLsbD 15)
      = imm.toNat := by
  simp only [bitOf_getLsbD]
  omega

/-- Bits above an IMM's size are 0. -/
theorem getLsbD_of_imm_lt {imm : Word} {k j : Nat} (h : imm.toNat < 2 ^ k) (hkj : k ≤ j) : imm.getLsbD j = false := by
  rw [← BitVec.testBit_toNat]
  exact Nat.testBit_lt_two_pow (h.trans_le (Nat.pow_le_pow_right (by decide) hkj))

/-- The operands of a vector instruction as decoded are within their fields. -/
theorem vecOf_wf (f : Fields) (bf16 noadd negb : Bool) (sel : Nat) {after : Nat} (h : after < 8) : (vecOf f bf16 noadd negb sel after).wf = true := by
  simp [VecArgs.wf, vecOf, Nat.mod_lt, h]

/-- Without the flags of operand B, a decoded vector instruction has no operand B. -/
theorem vecOf_noB {f : Fields} (hb : f.b = 0) (himm : f.imm.toNat < 2 ^ 14) (bf16 : Bool) (sel after : Nat) : (vecOf f bf16 false false sel after).noB = true := by
  have h14 : f.imm.getLsbD 14 = false := getLsbD_of_imm_lt himm (by decide)
  have h15 : f.imm.getLsbD 15 = false := getLsbD_of_imm_lt himm (by decide)
  simp only [VecArgs.noB, vecOf, hb, h14, h15]
  rfl

theorem decodeEngine_spells {w : Who} {f : Fields} {i : Instr} {t n : Nat} (ht : t < 8) (hfunc : f.func.toNat = t * 128 + n)
    (h : decodeEngine w f t n = some i) : Spells w f i := by
  unfold decodeEngine at h
  dsimp only at h
  split at h
  -- TDMK
  case h_1 hm =>
    exact only_spells h fun ⟨hb, hn, hh, hi⟩ => engine_spells hfunc rfl rfl (fun hw => by simp [Instr.wf, hw, ht, hh]; omega) hm rfl rfl hb (bitOf_top hn)
      (Nat.mod_add_div ..)
  -- TDRL
  case h_2 hm =>
    exact only_spells h fun ⟨hd, ha, hb, hn, hi⟩ => engine_spells hfunc rfl rfl (fun hw => by simp [Instr.wf, hw, ht, hi]) hm hd ha hb hn.symm rfl
  -- STRM
  case h_3 hm =>
    refine only_spells h fun ⟨hn, hi, hlist⟩ => engine_spells hfunc rfl rfl (fun hw => ?_) hm rfl rfl rfl ?_ (by dsimp only; omega)
    · have hstrm : StrmArgs.wf ⟨f.d, f.a, f.b, f.imm.toNat % 16, f.imm.toNat / 16 % 64, f.imm.toNat / 1024, decide (n % 2 = 1),
          decide (n / 2 % 2 = 1), decide (n / 4 = 1)⟩ = true := by
        rcases Nat.mod_two_eq_zero_or_one (n / 2) with hflag | hflag
        · obtain ⟨hd, hsmall⟩ := hlist hflag
          simp [StrmArgs.wf, Nat.mod_lt, hd]
          omega
        · simp [StrmArgs.wf, Nat.mod_lt, hflag]
          omega
      simp [Instr.wf, hw, ht, hstrm]
    · rw [bitOf_bit, bitOf_bit, bitOf_top (by omega)]
      omega
  -- STQ
  case h_4 hm =>
    refine only_spells h fun ⟨ha, hb, hn, hi⟩ => engine_spells hfunc rfl rfl (fun hw => by simp [Instr.wf, hw, ht, hi]) hm rfl ha hb ?_ rfl
    rw [bitOf_bit, bitOf_bit, bitOf_top (by omega)]
    omega
  -- LLOAD
  case h_5 hm =>
    refine only_spells h fun ⟨hd, ha, hb, hn, hh, hi⟩ => engine_spells hfunc rfl rfl (fun hw => ?_) hm hd ha hb ?_ (Nat.mod_add_div ..)
    · simp [Instr.wf, hw, ht, hh, Nat.mod_lt]
      omega
    · rw [bitOf_top (by omega), Nat.mod_add_div]
  -- LPASS
  case h_6 hm =>
    refine only_spells h fun ⟨hd, hn, hi⟩ => engine_spells hfunc rfl rfl (fun hw => ?_) hm hd rfl rfl ?_ rfl
    · simp [Instr.wf, hw, ht, hi]
      omega
    · rw [bitOf_bit, Nat.mod_add_div]
  -- LSPLIT
  case h_7 hm =>
    exact only_spells h fun ⟨hd, ha, hb, hn, hi⟩ => engine_spells hfunc rfl rfl (fun hw => by simp [Instr.wf, hw, ht]) hm hd ha hb hn.symm hi.symm
  -- LDRAIN: DRAIN and FILL
  case h_8 hm =>
    obtain ⟨hi, h⟩ := Option.ite_none_right_eq_some.mp h
    split at h
    · next hn =>
      refine only_spells h fun hconv => engine_spells hfunc rfl rfl (fun hw => ?_) hm rfl rfl rfl hn.symm (Nat.mod_add_div ..)
      simp [Instr.wf, hw, ht, Nat.mod_lt]
      exact ⟨by omega, Decidable.or_iff_not_imp_left.mpr hconv⟩
    · refine only_spells h fun ⟨hn, hd⟩ => engine_spells hfunc rfl rfl (fun hw => ?_) hm hd rfl rfl hn.symm (Nat.mod_add_div ..)
      simp [Instr.wf, hw, ht, Nat.mod_lt]
      omega
  -- CMODE
  case h_9 hm =>
    exact only_spells h fun ⟨hd, ha, hb, hn, hi⟩ => engine_spells hfunc rfl rfl (fun hw => by simp [Instr.wf, hw, ht, hi]) hm hd ha hb hn.symm rfl
  -- VADD, VMAX, VFMA
  case h_10 hm =>
    obtain ⟨⟨hn, hi⟩, h⟩ := Option.ite_none_right_eq_some.mp h
    have hflags {k : Nat} (hk : k = n % 4 + 4 * (n / 4 % 2)) : k + 8 * bitOf (decide (n / 8 % 2 = 1)) + 16 * bitOf (decide (n / 16 = 1)) = n := by
      rw [bitOf_bit, bitOf_top (by omega)]
      omega
    have hsum {k : Nat} (hop : n % 4 = k) (hadd : decide (n / 4 % 2 = 1) = false) : k = n % 4 + 4 * (n / 4 % 2) := by
      have := of_decide_eq_false hadd
      omega
    split at h
    · next hop =>
      exact only_spells h fun hadd => engine_spells hfunc rfl rfl (fun hw => by simp [Instr.wf, hw, vecOf_wf f _ _ _ _ ht, hadd]; rfl) hm rfl rfl rfl
        (hflags (hsum hop hadd)) (vecImm_eq hi)
    · split at h
      · next hop =>
        exact only_spells h fun hadd => engine_spells hfunc rfl rfl (fun hw => by simp [Instr.wf, hw, vecOf_wf f _ _ _ _ ht, hadd]; rfl) hm rfl rfl rfl
          (hflags (hsum hop hadd)) (vecImm_eq hi)
      · exact only_spells h fun hop => engine_spells hfunc rfl rfl (fun hw => by simp [Instr.wf, hw, vecOf_wf f _ _ _ _ ht]; rfl) hm rfl rfl rfl
          (hflags (by show 2 + 4 * bitOf (decide (n / 4 % 2 = 1)) = _; rw [bitOf_bit, hop])) (vecImm_eq hi)
  -- VEXP, VRSQ, VSIG
  case h_11 hm =>
    obtain ⟨⟨hn, hzero, hb, hi⟩, h⟩ := Option.ite_none_right_eq_some.mp h
    have himm := vecImm_eq (hi.trans (by decide : 2 ^ 14 < 65536))
    have hflags {k : Nat} (hop : n % 4 = k) : k + 8 * bitOf (decide (n / 8 = 1)) = n := by
      rw [bitOf_top (by omega)]
      omega
    have hwf {j : Instr} {v : VecArgs} (hv : v = vecOf f (decide (n / 8 = 1)) false false 0 t) (hj : j.wf = (w.wf && v.wf && v.noB && decide (v.sel = 0)))
        (hw : w.wf = true) : j.wf = true := by
      rw [hj, hv, hw, vecOf_wf f _ _ _ _ ht, vecOf_noB hb hi]
      rfl
    split at h
    · next hop =>
      cases h
      exact engine_spells hfunc rfl rfl (hwf rfl rfl) hm rfl rfl rfl (hflags hop) himm
    · split at h
      · next hop =>
        cases h
        exact engine_spells hfunc rfl rfl (hwf rfl rfl) hm rfl rfl rfl (hflags hop) himm
      · exact only_spells h fun hop => engine_spells hfunc rfl rfl (hwf rfl rfl) hm rfl rfl rfl (hflags hop) himm
  -- VRED
  case h_12 hm =>
    refine only_spells h fun ⟨hn, hb, hi⟩ => engine_spells hfunc rfl rfl (fun hw => ?_) hm rfl rfl rfl rfl (vecImm_eq (hi.trans (by decide : 2 ^ 14 < 65536)))
    simp [Instr.wf, hw, vecOf_wf f _ _ _ _ ht, vecOf_noB hb hi]
    exact ⟨rfl, Nat.le_of_lt_succ hn⟩
  -- VCVT
  case h_13 hm =>
    refine only_spells h fun ⟨hn, hb, hi⟩ => engine_spells hfunc rfl rfl (fun hw => ?_) hm rfl rfl rfl rfl (vecImm_eq (hi.trans (by decide : 2 ^ 14 < 65536)))
    simp [Instr.wf, hw, vecOf_wf f _ _ _ _ ht, vecOf_noB hb hi]
    exact ⟨rfl, hn⟩
  -- MGPUSH and MGDRAIN
  case h_14 hm =>
    split at h
    · next hn =>
      exact only_spells h fun ⟨hd, hi⟩ => engine_spells hfunc rfl rfl (fun hw => by simp [Instr.wf, hw, ht, hi]) hm hd rfl rfl hn.symm rfl
    · split at h
      · next hn =>
        exact only_spells h fun ⟨hd, hi⟩ => engine_spells hfunc rfl rfl (fun hw => by simp [Instr.wf, hw, ht, hi]) hm hd rfl rfl hn.symm rfl
      · split at h
        · next hn =>
          exact only_spells h fun ⟨hd, hb, hi⟩ => engine_spells hfunc rfl rfl (fun hw => by simp [Instr.wf, hw, ht]) hm hd rfl hb hn.symm hi.symm
        · exact only_spells h fun ⟨hn, ha, hi⟩ => engine_spells hfunc rfl rfl (fun hw => by simp [Instr.wf, hw, ht, hi]) hm rfl ha rfl hn.symm rfl
  -- PDQ
  case h_15 hm =>
    split at h
    · next hn =>
      exact only_spells h fun ⟨hb, hi⟩ => engine_spells hfunc rfl rfl (fun hw => by simp [Instr.wf, hw, ht]) hm rfl rfl hb hn.symm hi.symm
    · exact only_spells h fun ⟨hn, hd, hb, hi⟩ => engine_spells hfunc rfl rfl (fun hw => by simp [Instr.wf, hw, ht]) hm hd rfl hb hn.symm hi.symm
  -- UPSIGN and UPVOTE
  case h_16 hm =>
    obtain ⟨⟨hd, hb, hi⟩, h⟩ := Option.ite_none_right_eq_some.mp h
    split at h
    · next hn =>
      cases h
      exact engine_spells hfunc rfl rfl (fun hw => by simp [Instr.wf, hw, ht]) hm hd rfl hb hn.symm hi.symm
    · exact only_spells h fun hn => engine_spells hfunc rfl rfl (fun hw => by simp [Instr.wf, hw, ht]) hm hd rfl hb hn.symm hi.symm
  case h_17 => cases h

theorem decodeFields_spells {w : Who} {f : Fields} {i : Instr} (h : decodeFields w f = some i) : Spells w f i := by
  unfold decodeFields at h
  split at h
  case h_1 hm => exact decodeAlu_spells (immForm := false) (.inl rfl) hm (fun _ _ hfn => intFunc_spells hfn w) h
  case h_2 hm => exact decodeAlu_spells (immForm := true) (.inl rfl) hm (fun _ _ hfn => intFunc_spells hfn w) h
  case h_3 hm => exact decodeAlu_spells (immForm := false) (.inr rfl) hm (fun _ _ hfn => fpFunc_spells hfn w) h
  case h_4 hm => exact decodeAlu_spells (immForm := true) (.inr rfl) hm (fun _ _ hfn => fpFunc_spells hfn w) h
  case h_5 =>
    split at h
    · exact decodeCore_spells h
    · obtain ⟨hafter, h⟩ := Option.ite_none_right_eq_some.mp h
      exact decodeEngine_spells hafter (Nat.div_add_mod' ..).symm h

/-! ### An instruction's fields decode -/

/-- An instruction of a context has fields that decode to it. -/
def DecodesBack (w : Who) (i : Instr) : Prop := ∃ f, encodeFields i = some f ∧ decodeFields w f = some i

theorem decodeAlu_binary {w : Who} {fn : Option (Bool × (Who → AluArgs → Instr))} {mk : Who → AluArgs → Instr} {o : AluArgs} (fp n : Nat)
    (hfn : fn = some (false, mk)) (hwf : o.wf = true) : decodeAlu w o.immForm fn (aluFields fp n o) = some (mk w o) := by
  rw [hfn]
  refine if_pos ?_
  simpa [AluArgs.wf, aluFields] using hwf

theorem decodeAlu_unary {w : Who} {fn : Option (Bool × (Who → AluArgs → Instr))} {mk : Who → AluArgs → Instr} {o : AluArgs} (fp n : Nat)
    (hfn : fn = some (true, mk)) (hwf : o.wfUnary = true) : decodeAlu w o.immForm fn (aluFields fp n o) = some (mk w o) := by
  rw [hfn]
  refine if_pos ?_
  simpa [AluArgs.wfUnary, aluFields] using hwf

theorem decodeFields_int {n : Nat} (hn : n < 2048) (w : Who) (o : AluArgs) :
    decodeFields w (aluFields 0 n o) = decodeAlu w o.immForm (intFunc n) (aluFields 0 n o) := by
  have hfunc : (BitVec.ofNat 11 n).toNat = n := by rw [BitVec.toNat_ofNat, Nat.mod_eq_of_lt hn]
  obtain ⟨immForm, d, a, b, imm⟩ := o
  cases immForm <;> exact congrArg (fun k => decodeAlu w _ (intFunc k) _) hfunc

theorem decodeFields_fp {n : Nat} (hn : n < 2048) (w : Who) (o : AluArgs) :
    decodeFields w (aluFields 2 n o) = decodeAlu w o.immForm (fpFunc n) (aluFields 2 n o) := by
  have hfunc : (BitVec.ofNat 11 n).toNat = n := by rw [BitVec.toNat_ofNat, Nat.mod_eq_of_lt hn]
  obtain ⟨immForm, d, a, b, imm⟩ := o
  cases immForm <;> exact congrArg (fun k => decodeAlu w _ (fpFunc k) _) hfunc

section
variable {w : Who} {o : AluArgs} {mk : Who → AluArgs → Instr} {n : Nat}

theorem intBinary_decodesBack (henc : encodeFields (mk w o) = some (aluFields 0 n o)) (hfn : intFunc n = some (false, mk)) (hn : n < 2048) (hwf : o.wf = true) :
    DecodesBack w (mk w o) :=
  ⟨_, henc, (decodeFields_int hn w o).trans (decodeAlu_binary 0 n hfn hwf)⟩

theorem intUnary_decodesBack (henc : encodeFields (mk w o) = some (aluFields 0 n o)) (hfn : intFunc n = some (true, mk)) (hn : n < 2048) (hwf : o.wfUnary = true) :
    DecodesBack w (mk w o) :=
  ⟨_, henc, (decodeFields_int hn w o).trans (decodeAlu_unary 0 n hfn hwf)⟩

theorem fpBinary_decodesBack (henc : encodeFields (mk w o) = some (aluFields 2 n o)) (hfn : fpFunc n = some (false, mk)) (hn : n < 2048) (hwf : o.wf = true) :
    DecodesBack w (mk w o) :=
  ⟨_, henc, (decodeFields_fp hn w o).trans (decodeAlu_binary 2 n hfn hwf)⟩

theorem fpUnary_decodesBack (henc : encodeFields (mk w o) = some (aluFields 2 n o)) (hfn : fpFunc n = some (true, mk)) (hn : n < 2048) (hwf : o.wfUnary = true) :
    DecodesBack w (mk w o) :=
  ⟨_, henc, (decodeFields_fp hn w o).trans (decodeAlu_unary 2 n hfn hwf)⟩

end

theorem toNat_ofNat_of_lt {n k : Nat} (h : n < 2 ^ k) (hk : k ≤ 32 := by decide) : (BitVec.ofNat 32 n).toNat = n := by
  rw [BitVec.toNat_ofNat, Nat.mod_eq_of_lt (h.trans_le (Nat.pow_le_pow_right (by decide) hk))]

/-- The IMM of a channel's name, read back (R306). -/
theorem chanImm_of_wf {c : ChanName} (h : c.wf = true) : (chanImm c).toNat < 8192 ∧ chanOfImm (chanImm c) = c := by
  obtain ⟨consumer, index⟩ := c
  simp only [ChanName.wf, Bool.and_eq_true, decide_eq_true_eq] at h
  have himm : (chanImm ⟨consumer, index⟩).toNat = consumer + 256 * index := toNat_ofNat_of_lt (k := 13) (by dsimp only; omega)
  rw [chanOfImm, himm, ChanName.mk.injEq]
  omega

theorem condOf_condNum (c : Cond) : condOf (condNum c) = some c := by cases c <;> rfl

/-- An instruction whose major's answer stands under one condition. -/
theorem core_decodesBack {w : Who} {i : Instr} {f : Fields} {p : Prop} {dec : Decidable p} {x y : Option Instr} (henc : encodeFields i = some f)
    (hcore : decodeFields w f = decodeCore w f) (hdec : decodeCore w f = @ite _ p dec x y) (hp : p) (hx : x = some i) : DecodesBack w i :=
  ⟨f, henc, by rw [hcore, hdec, if_pos hp, hx]⟩

theorem low_part {x k : Nat} (h : x < k) (y : Nat) : (x + k * y) % k = x := by rw [Nat.add_mul_mod_self_left, Nat.mod_eq_of_lt h]

theorem high_part {x k : Nat} (h : x < k) (y : Nat) : (x + k * y) / k = y := by
  rw [Nat.add_mul_div_left _ _ (Nat.zero_lt_of_lt h), Nat.div_eq_of_lt h, Nat.zero_add]

/-- The AFTER field and the function bits of an engine instruction are read back from its FUNC (R317). -/
theorem decodeFields_engine (w : Who) {m : BitVec 6} (d a b : Reg) {t n : Nat} (imm : Word) (hm : 0x28 ≤ m.toNat) (ht : t < 8) (hn : n < 128) :
    decodeFields w ⟨m, d, a, b, engFunc t n, imm⟩ = decodeEngine w ⟨m, d, a, b, engFunc t n, imm⟩ t n := by
  have hfunc := toNat_engFunc ht hn
  have hafter : (engFunc t n).toNat / 128 = t := by omega
  have hbits : (engFunc t n).toNat % 128 = n := by omega
  unfold decodeFields
  split
  case h_1 h | h_2 h | h_3 h | h_4 h => exact absurd (h ▸ hm) (by decide)
  case h_5 => rw [if_neg (Nat.not_lt.mpr hm), hafter, hbits, if_pos ht]

theorem engine_decodesBack {w : Who} {i : Instr} {m : BitVec 6} {d a b : Reg} {t n : Nat} {imm : Word}
    (henc : encodeFields i = some ⟨m, d, a, b, engFunc t n, imm⟩) (hm : 0x28 ≤ m.toNat) (ht : t < 8) (hn : n < 128)
    (hdec : decodeEngine w ⟨m, d, a, b, engFunc t n, imm⟩ t n = some i) : DecodesBack w i :=
  ⟨_, henc, (decodeFields_engine w d a b imm hm ht hn).trans hdec⟩

/-- An engine instruction whose major's answer stands under one condition. -/
theorem engineIf_decodesBack {w : Who} {i : Instr} {m : BitVec 6} {d a b : Reg} {t n : Nat} {imm : Word} {p : Prop} {dec : Decidable p} {x y : Option Instr}
    (henc : encodeFields i = some ⟨m, d, a, b, engFunc t n, imm⟩) (hdec : decodeEngine w ⟨m, d, a, b, engFunc t n, imm⟩ t n = @ite _ p dec x y)
    (hm : 0x28 ≤ m.toNat) (ht : t < 8) (hn : n < 128) (hp : p) (hx : x = some i) : DecodesBack w i :=
  engine_decodesBack henc hm ht hn (by rw [hdec, if_pos hp, hx])

/-- IMM of a vector instruction holds its operand field alone (R331). -/
theorem toNat_vecFields_imm {v : VecArgs} (h : v.wf = true) (major n : Nat) : (vecFields major n v).imm.toNat
    = v.count + 4096 * bitOf v.dacc + 8192 * bitOf v.aacc + 16384 * bitOf v.bacc + 32768 * bitOf v.bbc ∧ (vecFields major n v).imm.toNat < 65536 := by
  have hcount : v.count < 4096 := of_decide_eq_true (Bool.and_eq_true_iff.mp h).1
  have hbits : bitOf v.dacc < 2 ∧ bitOf v.aacc < 2 ∧ bitOf v.bacc < 2 ∧ bitOf v.bbc < 2 := ⟨bitOf_lt_two _, bitOf_lt_two _, bitOf_lt_two _, bitOf_lt_two _⟩
  rw [show (vecFields major n v).imm.toNat = _ from toNat_ofNat_of_lt (k := 16) (by omega)]
  omega

/-- The operands of a vector instruction are read back from its fields (R331). -/
theorem vecOf_vecFields {v : VecArgs} (h : v.wf = true) (major n : Nat) : vecOf (vecFields major n v) v.bf16 v.noadd v.negb v.sel v.after = v := by
  obtain ⟨himm, -⟩ := toNat_vecFields_imm h major n
  have hcount : v.count < 4096 := of_decide_eq_true (Bool.and_eq_true_iff.mp h).1
  have hbits : bitOf v.dacc < 2 ∧ bitOf v.aacc < 2 ∧ bitOf v.bacc < 2 ∧ bitOf v.bbc < 2 := ⟨bitOf_lt_two _, bitOf_lt_two _, bitOf_lt_two _, bitOf_lt_two _⟩
  have hflag {k : Nat} {p : Bool} (hk : (vecFields major n v).imm.toNat / 2 ^ k % 2 = bitOf p) : (vecFields major n v).imm.getLsbD k = p := by
    rw [← BitVec.testBit_toNat, Nat.testBit_eq_decide_div_mod_eq, hk, bitOf_eq_one]
  refine (VecArgs.mk.injEq ..).mpr ⟨rfl, rfl, rfl, ?_, hflag ?_, hflag ?_, hflag ?_, hflag ?_, rfl, rfl, rfl, rfl, rfl⟩ <;> rw [himm] <;> omega

/-- The binary vector operations, by function number (R332). -/
theorem decodeEngine_vecBinary (w : Who) {v : VecArgs} (hv : v.wf = true) (hsel : v.sel = 0) {k n : Nat} (hk : k < 4)
    (hn : n = k + 4 * bitOf v.noadd + 8 * bitOf v.bf16 + 16 * bitOf v.negb) : decodeEngine w (vecFields 0x38 n v) v.after n =
      if k = 0 then only (v.noadd = false) (.vadd w v) else if k = 1 then only (v.noadd = false) (.vmax w v) else only (k = 2) (.vfma w v) := by
  have hbits : bitOf v.noadd < 2 ∧ bitOf v.bf16 < 2 ∧ bitOf v.negb < 2 := ⟨bitOf_lt_two _, bitOf_lt_two _, bitOf_lt_two _⟩
  have hop : n % 4 = k := by omega
  have hnoadd : decide (n / 4 % 2 = 1) = v.noadd := by rw [show n / 4 % 2 = bitOf v.noadd by omega, bitOf_eq_one]
  have hbf16 : decide (n / 8 % 2 = 1) = v.bf16 := by rw [show n / 8 % 2 = bitOf v.bf16 by omega, bitOf_eq_one]
  have hnegb : decide (n / 16 = 1) = v.negb := by rw [show n / 16 = bitOf v.negb by omega, bitOf_eq_one]
  have hback := vecOf_vecFields hv 0x38 n
  rw [hsel] at hback
  refine (if_pos ⟨by omega, (toNat_vecFields_imm hv 0x38 n).2⟩).trans ?_
  rw [hop, hnoadd, hbf16, hnegb, hback]

/-- Without operand B the flags of operand B are 0 (R331). -/
theorem vecFields_noB {v : VecArgs} (hv : v.wf = true) (hnoB : v.noB = true) (major n : Nat) :
    v.noadd = false ∧ v.negb = false ∧ (vecFields major n v).b = 0 ∧ (vecFields major n v).imm.toNat < 2 ^ 14 := by
  simp only [VecArgs.noB, Bool.and_eq_true, Bool.not_eq_true', decide_eq_true_eq] at hnoB
  obtain ⟨⟨⟨⟨hb, hbacc⟩, hbbc⟩, hnoadd⟩, hnegb⟩ := hnoB
  have hcount : v.count < 4096 := of_decide_eq_true (Bool.and_eq_true_iff.mp hv).1
  have hbits : bitOf v.dacc < 2 ∧ bitOf v.aacc < 2 := ⟨bitOf_lt_two _, bitOf_lt_two _⟩
  obtain ⟨himm, -⟩ := toNat_vecFields_imm hv major n
  rw [hbacc, hbbc] at himm
  refine ⟨hnoadd, hnegb, hb, himm ▸ ?_⟩
  show _ + 16384 * 0 + 32768 * 0 < _
  omega

/-- The unary vector operations, by function number (R332). -/
theorem decodeEngine_vecUnary (w : Who) {v : VecArgs} (hv : v.wf = true) (hnoB : v.noB = true) (hsel : v.sel = 0) {k n : Nat} (hk : k < 4)
    (hn : n = k + 8 * bitOf v.bf16) : decodeEngine w (vecFields 0x39 n v) v.after n =
      if k = 0 then some (.vexp w v) else if k = 1 then some (.vrsq w v) else only (k = 2) (.vsig w v) := by
  obtain ⟨hnoadd, hnegb, hb, himm⟩ := vecFields_noB hv hnoB 0x39 n
  have hbit := bitOf_lt_two v.bf16
  have hop : n % 4 = k := by omega
  have hbf16 : decide (n / 8 = 1) = v.bf16 := by rw [show n / 8 = bitOf v.bf16 by omega, bitOf_eq_one]
  have hback := vecOf_vecFields hv 0x39 n
  rw [hsel, hnoadd, hnegb] at hback
  refine (if_pos ⟨by omega, by omega, hb, himm⟩).trans ?_
  rw [hop, hbf16, hback]

/-- The operands of VRED and VCVT, whose function bits are their selector (R332). -/
theorem vecOf_sel {v : VecArgs} (hv : v.wf = true) (hnoB : v.noB = true) (hbf16 : v.bf16 = false) (major : Nat) :
    vecOf (vecFields major v.sel v) false false false v.sel v.after = v := by
  obtain ⟨hnoadd, hnegb, -, -⟩ := vecFields_noB hv hnoB major v.sel
  have hback := vecOf_vecFields hv major v.sel
  rwa [hbf16, hnoadd, hnegb] at hback

theorem VecArgs.after_lt {v : VecArgs} (h : v.wf = true) : v.after < 8 := of_decide_eq_true (Bool.and_eq_true_iff.mp h).2

theorem decodesBack_of_wf {i : Instr} {w : Who} (hwho : whoOf i = some w) (hwf : i.wf = true) : DecodesBack w i := by
  cases i
  case add | sub | andI | orI | xorI | sll | srl | sra | slt | sltu | minS | maxS | minu | maxu | mul | mulh | mulhu | div | divu | rem | remu =>
    cases hwho
    exact intBinary_decodesBack rfl rfl (by decide) (Bool.and_eq_true_iff.mp hwf).2
  case clz | ctz | popc =>
    cases hwho
    exact intUnary_decodesBack rfl rfl (by decide) (Bool.and_eq_true_iff.mp hwf).2
  case fadd | fsub | fmul | fma | fdiv | fmin | fmax | feq | flt | fle =>
    cases hwho
    exact fpBinary_decodesBack rfl rfl (by decide) (Bool.and_eq_true_iff.mp hwf).2
  case fsqrt | fcvtSW | fcvtWS | fabs | fneg =>
    cases hwho
    exact fpUnary_decodesBack rfl rfl (by decide) (Bool.and_eq_true_iff.mp hwf).2
  case jal | jalr | waitt | ldW | stW | mfill | mcopy | swait | swaitTry | fence | tend =>
    cases hwho
    exact ⟨_, rfl, rfl⟩
  case mfsr n | mtsr n =>
    cases hwho
    have hn : n < 2 ^ 12 := of_decide_eq_true (Bool.and_eq_true_iff.mp hwf).2
    have himm := toNat_ofNat_of_lt hn
    exact core_decodesBack rfl rfl rfl ⟨rfl, rfl, rfl, himm.symm ▸ hn⟩ (by rw [himm])
  case cwait ctr | cwaitTry ctr | creset ctr =>
    cases hwho
    have hctr : ctr < 2 ^ 6 := of_decide_eq_true (Bool.and_eq_true_iff.mp hwf).2
    have himm := toNat_ofNat_of_lt hctr
    exact core_decodesBack rfl rfl rfl (himm.symm ▸ hctr) (by rw [himm]; rfl)
  case br c _ _ _ =>
    cases hwho
    cases c <;> exact ⟨_, rfl, rfl⟩
  case dbnz =>
    cases hwho
    exact core_decodesBack rfl rfl rfl ⟨rfl, rfl, rfl, of_decide_eq_true (Bool.and_eq_true_iff.mp hwf).2⟩ rfl
  case spost nofence =>
    cases hwho
    cases nofence <;> exact ⟨_, rfl, rfl⟩
  case chpush ch | chflush ch =>
    cases hwho
    obtain ⟨himm, hch⟩ := chanImm_of_wf (Bool.and_eq_true_iff.mp hwf).2
    exact core_decodesBack rfl rfl rfl (by simp [himm]) (by rw [hch])
  case chcommit ch | chcommitRewind ch | chpopRelease ch =>
    cases hwho
    obtain ⟨himm, hch⟩ := chanImm_of_wf (Bool.and_eq_true_iff.mp hwf).2
    exact core_decodesBack rfl rfl rfl (by simp [himm]) (by rw [hch]; rfl)
  case chpopAcquire ch =>
    cases hwho
    simp only [Instr.wf, Bool.and_eq_true, decide_eq_true_eq] at hwf
    obtain ⟨⟨⟨⟨-, hwf⟩, hbd⟩, hb⟩, hd⟩ := hwf
    obtain ⟨himm, hch⟩ := chanImm_of_wf hwf
    exact core_decodesBack rfl rfl rfl ⟨rfl, himm⟩ (by rw [hch]; exact only_eq_some.mpr ⟨⟨hbd, hb, hd⟩, rfl⟩)
  case tdmk handle off fromSts after =>
    cases hwho
    simp only [Instr.wf, Bool.and_eq_true, decide_eq_true_eq] at hwf
    obtain ⟨⟨⟨-, hh⟩, ho⟩, ht⟩ := hwf
    have himm := toNat_ofNat_of_lt (show handle + 256 * off < 2 ^ 22 by omega)
    have hn := bitOf_lt_two fromSts
    refine engineIf_decodesBack rfl rfl (by decide) ht (by omega) ⟨rfl, hn, ?_, by dsimp only; omega⟩ ?_ <;> dsimp only <;> rw [himm, low_part (by omega)]
    · exact hh
    · rw [high_part (by omega), bitOf_eq_one]
  case tdrl handle after =>
    cases hwho
    simp only [Instr.wf, Bool.and_eq_true, decide_eq_true_eq] at hwf
    obtain ⟨⟨-, hh⟩, ht⟩ := hwf
    have himm := toNat_ofNat_of_lt (show handle < 2 ^ 6 from hh)
    exact engineIf_decodesBack rfl rfl (by decide) ht (by decide) ⟨rfl, rfl, rfl, rfl, himm.symm ▸ hh⟩ (by rw [himm])
  case strm o after =>
    cases hwho
    obtain ⟨d, a, b, handle, ctr, listAddr, compress, list, qeng⟩ := o
    simp only [Instr.wf, StrmArgs.wf, Bool.and_eq_true, Bool.or_eq_true, decide_eq_true_eq] at hwf
    obtain ⟨⟨-, ⟨⟨hh, hc⟩, hl⟩, hlist⟩, ht⟩ := hwf
    have himm := toNat_ofNat_of_lt (show handle + 16 * ctr + 1024 * listAddr < 2 ^ 23 by omega)
    have hbits : bitOf compress < 2 ∧ bitOf list < 2 ∧ bitOf qeng < 2 := ⟨bitOf_lt_two _, bitOf_lt_two _, bitOf_lt_two _⟩
    refine engineIf_decodesBack rfl rfl (by decide) ht (by dsimp only; omega) ⟨?_, ?_, ?_⟩ ?_ <;> dsimp only
    · omega
    · omega
    · rintro hflag
      have hnone : list = false := by
        rw [← bitOf_eq_one list, show bitOf list = 0 by omega]
        rfl
      obtain ⟨⟨hd, hctr⟩, haddr⟩ := hlist.resolve_left (by rw [hnone]; exact Bool.false_ne_true)
      exact ⟨hd, by omega⟩
    · rw [himm, show (bitOf compress + 2 * bitOf list + 4 * bitOf qeng) % 2 = bitOf compress by omega,
        show (bitOf compress + 2 * bitOf list + 4 * bitOf qeng) / 2 % 2 = bitOf list by omega,
        show (bitOf compress + 2 * bitOf list + 4 * bitOf qeng) / 4 = bitOf qeng by omega, bitOf_eq_one, bitOf_eq_one, bitOf_eq_one,
        show (handle + 16 * ctr + 1024 * listAddr) % 16 = handle by omega, show (handle + 16 * ctr + 1024 * listAddr) / 16 % 64 = ctr by omega,
        show (handle + 16 * ctr + 1024 * listAddr) / 1024 = listAddr by omega]
  case stq handle wait qeng walk after =>
    cases hwho
    simp only [Instr.wf, Bool.and_eq_true, decide_eq_true_eq] at hwf
    obtain ⟨⟨-, hh⟩, ht⟩ := hwf
    have himm := toNat_ofNat_of_lt (show handle < 2 ^ 4 from hh)
    have hbits : bitOf wait < 2 ∧ bitOf qeng < 2 ∧ bitOf walk < 2 := ⟨bitOf_lt_two _, bitOf_lt_two _, bitOf_lt_two _⟩
    refine engineIf_decodesBack rfl rfl (by decide) ht (by omega) ⟨rfl, rfl, by omega, himm.symm ▸ hh⟩ ?_
    rw [himm, show (bitOf wait + 2 * bitOf qeng + 4 * bitOf walk) % 2 = bitOf wait by omega,
      show (bitOf wait + 2 * bitOf qeng + 4 * bitOf walk) / 2 % 2 = bitOf qeng by omega,
      show (bitOf wait + 2 * bitOf qeng + 4 * bitOf walk) / 4 = bitOf walk by omega, bitOf_eq_one, bitOf_eq_one, bitOf_eq_one]
  case lload n kp fmt hi after =>
    cases hwho
    simp only [Instr.wf, Bool.and_eq_true, decide_eq_true_eq] at hwf
    obtain ⟨⟨⟨⟨-, hn⟩, hkp⟩, hfmt⟩, ht⟩ := hwf
    have himm := toNat_ofNat_of_lt (show n + 256 * kp < 2 ^ 16 by omega)
    have hbit := bitOf_lt_two hi
    refine engineIf_decodesBack rfl rfl (by decide) ht (by omega) ⟨rfl, rfl, rfl, by omega, ?_, by dsimp only; omega⟩ ?_ <;> dsimp only <;> rw [himm, low_part (by omega)]
    · exact hn
    · rw [high_part (by omega), low_part hfmt, high_part hfmt, bitOf_eq_one]
  case lpass accum afmt np after =>
    cases hwho
    simp only [Instr.wf, Bool.and_eq_true, decide_eq_true_eq] at hwf
    obtain ⟨⟨⟨-, hfmt⟩, hnp⟩, ht⟩ := hwf
    have himm := toNat_ofNat_of_lt (show np < 2 ^ 8 from hnp)
    have hbit := bitOf_lt_two accum
    refine engineIf_decodesBack rfl rfl (by decide) ht (by omega) ⟨rfl, by omega, himm.symm ▸ hnp⟩ ?_
    rw [himm, low_part hbit, high_part hbit, bitOf_eq_one]
  case lsplit | upsign | upvote | pdqQuery | pdqPrefetch | mgdrainOpen =>
    cases hwho
    exact engine_decodesBack rfl (by decide) (of_decide_eq_true (Bool.and_eq_true_iff.mp hwf).2) (by decide) rfl
  case cmode gmax after =>
    cases hwho
    simp only [Instr.wf, Bool.and_eq_true, decide_eq_true_eq] at hwf
    obtain ⟨⟨-, hg⟩, ht⟩ := hwf
    have himm := toNat_ofNat_of_lt (show gmax < 2 ^ 4 from hg)
    exact engineIf_decodesBack rfl rfl (by decide) ht (by decide) ⟨rfl, rfl, rfl, rfl, himm.symm ▸ hg⟩ (by rw [himm])
  case mgpush job after | mgpushEnd job after | mgdrainWait job after =>
    cases hwho
    simp only [Instr.wf, Bool.and_eq_true, decide_eq_true_eq] at hwf
    obtain ⟨⟨-, hj⟩, ht⟩ := hwf
    refine engine_decodesBack rfl (by decide) ht (by decide) ?_
    simp [decodeEngine, only]
    omega
  case ldrainDrain rows conv after =>
    cases hwho
    simp only [Instr.wf, Bool.and_eq_true, decide_eq_true_eq] at hwf
    obtain ⟨⟨⟨⟨-, hr⟩, hc⟩, hd⟩, ht⟩ := hwf
    have himm := toNat_ofNat_of_lt (show rows + 1024 * conv < 2 ^ 14 by omega)
    refine engineIf_decodesBack rfl rfl (by decide) ht (by decide) ?_ ?_ <;> dsimp only <;> rw [himm]
    · omega
    · rw [low_part hr, high_part hr]
      exact only_eq_some.mpr ⟨hd.resolve_left, rfl⟩
  case ldrainFill rows conv after =>
    cases hwho
    simp only [Instr.wf, Bool.and_eq_true, decide_eq_true_eq] at hwf
    obtain ⟨⟨⟨-, hr⟩, hc⟩, ht⟩ := hwf
    have himm := toNat_ofNat_of_lt (show rows + 1024 * conv < 2 ^ 14 by omega)
    refine engineIf_decodesBack rfl rfl (by decide) ht (by decide) ?_ ?_ <;> dsimp only <;> rw [himm]
    · omega
    · rw [low_part hr, high_part hr]
      rfl
  case vadd v | vmax v =>
    cases hwho
    simp only [Instr.wf, Bool.and_eq_true, Bool.not_eq_true', decide_eq_true_eq] at hwf
    obtain ⟨⟨⟨-, hv⟩, hadd⟩, hsel⟩ := hwf
    have hbits : bitOf v.bf16 < 2 ∧ bitOf v.negb < 2 := ⟨bitOf_lt_two _, bitOf_lt_two _⟩
    refine engine_decodesBack rfl (by decide) (VecArgs.after_lt hv) (by omega) ((decodeEngine_vecBinary w hv hsel ?_ (by rw [hadd]; rfl)).trans ?_)
    · decide
    · rw [hadd]
      rfl
  case vfma v =>
    cases hwho
    simp only [Instr.wf, Bool.and_eq_true, decide_eq_true_eq] at hwf
    obtain ⟨⟨-, hv⟩, hsel⟩ := hwf
    have hbits : bitOf v.noadd < 2 ∧ bitOf v.bf16 < 2 ∧ bitOf v.negb < 2 := ⟨bitOf_lt_two _, bitOf_lt_two _, bitOf_lt_two _⟩
    exact engine_decodesBack rfl (by decide) (VecArgs.after_lt hv) (by omega) (decodeEngine_vecBinary w hv hsel (by decide) rfl)
  case vexp v | vrsq v | vsig v =>
    cases hwho
    simp only [Instr.wf, Bool.and_eq_true, decide_eq_true_eq] at hwf
    obtain ⟨⟨⟨-, hv⟩, hnoB⟩, hsel⟩ := hwf
    have hbit := bitOf_lt_two v.bf16
    exact engine_decodesBack rfl (by decide) (VecArgs.after_lt hv) (by omega) (decodeEngine_vecUnary w hv hnoB hsel (by decide) rfl)
  case vred v | vcvt v =>
    cases hwho
    simp only [Instr.wf, Bool.and_eq_true, Bool.not_eq_true', decide_eq_true_eq] at hwf
    obtain ⟨⟨⟨⟨-, hv⟩, hnoB⟩, hbf16⟩, hsel⟩ := hwf
    obtain ⟨-, -, hb, himm⟩ := vecFields_noB hv hnoB 0 v.sel
    exact engineIf_decodesBack rfl rfl (by decide) (VecArgs.after_lt hv) (by omega) ⟨hsel, hb, himm⟩
      (congrArg some (congrArg _ (vecOf_sel hv hnoB hbf16 _)))
  all_goals cases hwho

end Sys2Proof

namespace Sys2Proof.Machine

/-- Settles O56: every well-formed instruction's fields decode to it, and a word's fields are read back from it. -/
theorem decodeUndoesEncode : Obligations.DecodeUndoesEncode := by
  unfold Obligations.DecodeUndoesEncode
  intro i w hwho hwf
  obtain ⟨f, henc, hdec⟩ := decodesBack_of_wf hwho hwf
  exact ⟨pack f, by rw [encode, henc, Option.map_some], by rw [decodeInsn, unpack_pack, hdec]⟩

/-- Settles O57: the fields that decode are the fields of the instruction, and a word is its fields. -/
theorem encodeUndoesDecode : Obligations.EncodeUndoesDecode := by
  unfold Obligations.EncodeUndoesDecode
  intro w x i h
  obtain ⟨hwho, hwf, henc⟩ := decodeFields_spells h
  exact ⟨hwho, hwf, by rw [encode, henc, Option.map_some, pack_unpack]⟩

/-- Settles O58: each word evaluates under the decoder. -/
theorem decodedWords : Obligations.DecodedWords := by
  unfold Obligations.DecodedWords
  intro w
  exact ⟨rfl, rfl, rfl, rfl, rfl, rfl, rfl, rfl, rfl, rfl, rfl⟩

end Sys2Proof.Machine
end

section
/-! The integer and FP32 instructions, jumps and branches, WAITT, the special registers, and the engine instructions at issue (R288 to R300, R314, Tables 10-3 to 10-5, 11-2). -/

namespace Sys2Proof.Machine

/-! ### Integer results (R294) -/

theorem boolWord_slt (a b : Word) : boolWord (a.slt b) = if a.toInt < b.toInt then 1#32 else 0#32 := by
  simp [boolWord, BitVec.slt_iff_toInt_lt]

theorem boolWord_ult (a b : Word) : boolWord (a.ult b) = if a.toNat < b.toNat then 1#32 else 0#32 := by
  simp [boolWord, BitVec.ult_iff_toNat_lt]

theorem ite_slt {α : Type} (a b : Word) (x y : α) : (if a.slt b then x else y) = if a.toInt < b.toInt then x else y := by
  simp [BitVec.slt_iff_toInt_lt]

theorem ite_ult {α : Type} (a b : Word) (x y : α) : (if a.ult b then x else y) = if a.toNat < b.toNat then x else y := by
  simp [BitVec.ult_iff_toNat_lt]

theorem sdiv_eq_ofInt (a b : Word) : a.sdiv b = BitVec.ofInt 32 (a.toInt.tdiv b.toInt) := by
  refine BitVec.eq_of_toInt_eq ?_
  rw [BitVec.toInt_sdiv, BitVec.toInt_ofInt]

theorem srem_eq_ofInt (a b : Word) : a.srem b = BitVec.ofInt 32 (a.toInt.tmod b.toInt) := by
  rw [← BitVec.toInt_srem, BitVec.ofInt_toInt]

theorem udiv_eq_ofNat (a b : Word) : a / b = BitVec.ofNat 32 (a.toNat / b.toNat) := by
  rw [← BitVec.toNat_udiv, BitVec.ofNat_toNat, BitVec.setWidth_eq]

theorem umod_eq_ofNat (a b : Word) : a % b = BitVec.ofNat 32 (a.toNat % b.toNat) := by
  rw [← BitVec.toNat_umod, BitVec.ofNat_toNat, BitVec.setWidth_eq]

/-- The first place in a word at which a test holds, or 32. -/
theorem find_range_getD {p : Nat → Bool} {n : Nat} (hn : n ≤ 32) (hbefore : ∀ i, i < n → p i = false) (hat : n < 32 → p n = true) :
    ((List.range 32).find? p).getD 32 = n := by
  rcases Nat.lt_or_eq_of_le hn with hlt | rfl
  · rw [List.find?_range_eq_some.mpr ⟨hat hlt, List.mem_range.mpr hlt, fun i hi => by rw [hbefore i hi]; rfl⟩, Option.getD_some]
  · rw [List.find?_range_eq_none.mpr fun i hi => by rw [hbefore i hi]; rfl, Option.getD_none]

theorem clzOf_eq {a : Word} {n : Nat} (h : ZerosFrom a (31 - ·) n) : clzOf a = n := find_range_getD h.1 h.2.1 h.2.2

theorem ctzOf_eq {a : Word} {n : Nat} (h : ZerosFrom a id n) : ctzOf a = n := find_range_getD h.1 h.2.1 h.2.2

theorem popOf_eq (a : Word) : popOf a = (List.range 32).countP a.getLsbD := List.countP_eq_length_filter.symm

/-! ### Integer and FP32 instructions (Tables 10-3 and 10-5) -/

section
variable {s : State} {w : Who} {o : AluArgs} {i : Instr} {v : Word} {occ lat : Nat} {f : Word → Word → Word → Word}

/-- A binary instruction writes what its function gives. -/
theorem exec_binary {readsD : Bool} (hwf : o.wf = true) (hissue : issues s w (aluSrcs o readsD false) [o.d] = true)
    (hexec : exec i s = alu w o readsD false occ lat f s) (hv : f (rget s w o.d) (rget s w o.a) (operandB s w o) = v) :
    ∃ t, exec i s = .next t ∧ Computes w s t o.d v occ lat := by
  rw [hexec, ← hv]
  exact alu_computes hwf hissue

/-- A unary instruction writes what its function gives. -/
theorem exec_unary (hwf : o.wfUnary = true) (hissue : issues s w (aluSrcs o false true) [o.d] = true)
    (hexec : exec i s = alu w o false true occ lat f s) (hv : f (rget s w o.d) (rget s w o.a) (operandB s w o) = v) :
    ∃ t, exec i s = .next t ∧ Computes w s t o.d v occ lat := by
  rw [hexec, ← hv]
  exact alu_computes_unary hwf hissue

end

/-- Settles O7, instruction by instruction of Table 10-3. -/
theorem integerInstructionsCompute : Obligations.IntegerInstructionsCompute := by
  unfold Obligations.IntegerInstructionsCompute
  intro s w o a b
  refine ⟨fun hwf hissue => ?_, fun hwf hissue => ⟨fun n hn => ?_, fun n hn => ?_, ?_⟩⟩
  · simp only [List.forall_mem_cons]
    refine ⟨exec_binary hwf hissue rfl ?_, exec_binary hwf hissue rfl ?_, exec_binary hwf hissue rfl rfl, exec_binary hwf hissue rfl rfl, exec_binary hwf hissue rfl rfl,
      exec_binary hwf hissue rfl rfl, exec_binary hwf hissue rfl rfl, exec_binary hwf hissue rfl rfl, exec_binary hwf hissue rfl (boolWord_slt a b),
      exec_binary hwf hissue rfl (boolWord_ult a b), exec_binary hwf hissue rfl (ite_slt a b _ _), exec_binary hwf hissue rfl (ite_slt a b _ _),
      exec_binary hwf hissue rfl (ite_ult a b _ _), exec_binary hwf hissue rfl (ite_ult a b _ _), exec_binary hwf hissue rfl ?_, exec_binary hwf hissue rfl rfl,
      exec_binary hwf hissue rfl rfl, exec_binary hwf hissue rfl ?_, exec_binary hwf hissue rfl ?_, exec_binary hwf hissue rfl ?_, exec_binary hwf hissue rfl ?_, List.forall_mem_nil _⟩
    · rw [BitVec.ofInt_add, BitVec.ofInt_toInt, BitVec.ofInt_toInt]
    · exact BitVec.eq_of_toInt_eq (by rw [BitVec.toInt_sub, BitVec.toInt_ofInt])
    · rw [BitVec.ofInt_mul, BitVec.ofInt_toInt, BitVec.ofInt_toInt]
    · rw [divS, sdiv_eq_ofInt]
    · rw [divU, udiv_eq_ofNat]
    · rw [remS, srem_eq_ofInt]
    · rw [remU, umod_eq_ofNat]
  · exact exec_unary hwf hissue rfl (congrArg (BitVec.ofNat 32) (clzOf_eq hn))
  · exact exec_unary hwf hissue rfl (congrArg (BitVec.ofNat 32) (ctzOf_eq hn))
  · exact exec_unary hwf hissue rfl (congrArg (BitVec.ofNat 32) (popOf_eq a))

/-- Settles O8, instruction by instruction of Table 10-3. -/
theorem fpInstructionsCompute : Obligations.FpInstructionsCompute := by
  unfold Obligations.FpInstructionsCompute
  intro s w o d a b
  refine ⟨fun hwf hissue => ?_, fun hwf hissue => exec_binary hwf hissue rfl rfl, fun hwf hissue => ?_⟩
  · iterate 9 refine List.forall_mem_cons.mpr ⟨exec_binary hwf hissue rfl rfl, ?_⟩
    exact List.forall_mem_nil _
  · iterate 5 refine List.forall_mem_cons.mpr ⟨exec_unary hwf hissue rfl rfl, ?_⟩
    exact List.forall_mem_nil _

/-! ### Jumps and branches (R296, R297) -/

theorem exec_jal (w : Who) (d : Reg) (imm : Word) (s : State) : exec (.jal w d imm) s = execJal w d imm s := by rfl
theorem exec_jalr (w : Who) (d a : Reg) (imm : Word) (s : State) : exec (.jalr w d a imm) s = execJalr w d a imm s := by rfl
theorem exec_br (w : Who) (c : Cond) (a b : Reg) (imm : Word) (s : State) : exec (.br w c a b imm) s = execBr w c a b imm s := by rfl
theorem exec_dbnz (w : Who) (d : Reg) (imm : Word) (s : State) : exec (.dbnz w d imm) s = execDbnz w d imm s := by rfl

theorem condHolds_eq_iff (a b : Word) : condHolds .eq a b = true ↔ a = b := by simp [condHolds]
theorem condHolds_ne_iff (a b : Word) : condHolds .ne a b = true ↔ a ≠ b := by simp [condHolds]
theorem condHolds_lt_iff (a b : Word) : condHolds .lt a b = true ↔ a.toInt < b.toInt := by simp [condHolds, BitVec.slt_iff_toInt_lt]
theorem condHolds_ge_iff (a b : Word) : condHolds .ge a b = true ↔ b.toInt ≤ a.toInt := by simp [condHolds, BitVec.slt_eq_decide]
theorem condHolds_ltu_iff (a b : Word) : condHolds .ltu a b = true ↔ a.toNat < b.toNat := by simp [condHolds, BitVec.ult_iff_toNat_lt]
theorem condHolds_geu_iff (a b : Word) : condHolds .geu a b = true ↔ b.toNat ≤ a.toNat := by simp [condHolds, BitVec.ult_eq_decide]

theorem sub_one_ne_zero_iff (v : Word) : v - 1#32 ≠ 0#32 ↔ v ≠ 1#32 := not_congr sub_eq_zero

theorem linkOf_eq (s : State) (w : Who) : linkOf s w = BitVec.ofNat 32 ((ctxOf s w).pc + 8) :=
  BitVec.eq_of_toNat_eq (by rw [linkOf, nextPc, BitVec.toNat_ofNat, BitVec.toNat_ofNat, Nat.mod_mod])

theorem ctxOf_occupy (s : State) (w : Who) (k pc : Nat) :
    ctxOf (occupy s w k pc) w = { ctxOf s w with pc := pc, free := s.now + (if bothRun s w then 2 * k - 1 else k) } := ctxOf_modCtx s w _

theorem onlyCtx_occupy (s : State) (w : Who) (k pc : Nat) : OnlyCtx w s (occupy s w k pc) := by
  unfold occupy
  exact onlyCtx_modCtx _ (onlyCtx_self s w)

theorem rget_occupy (s : State) (w : Who) (k pc : Nat) (r : Reg) : rget (occupy s w k pc) w r = rget s w r := rget_of_regs (by rw [ctxOf_occupy]) r

/-- A jump that writes no register. -/
theorem jumps_occupy (s : State) (w : Who) (pc : Nat) : Jumps w s (occupy s w 3 pc) pc 0#5 0#32 := by
  have hctx := ctxOf_occupy s w 3 pc
  refine ⟨onlyCtx_occupy s w 3 pc, by rw [KeepsCtx, hctx], ⟨by rw [hctx], by rw [hctx]⟩, fun r => ?_, fun h => absurd rfl h, fun r _ => by rw [hctx]⟩
  rw [rget_occupy, if_neg fun h => h.2 rfl]

/-- A jump that leaves a value in a register. -/
theorem jumps_rput_occupy (s : State) (w : Who) (pc : Nat) (d : Reg) (v : Word) : Jumps w s (rput (occupy s w 3 pc) w d v 1) pc d v := by
  have hctx := ctxOf_occupy s w 3 pc
  refine ⟨onlyCtx_modCtx _ (onlyCtx_occupy s w 3 pc), ?_, ?_, fun r => ?_, fun hd => ?_, fun r hr => ?_⟩
  · rw [KeepsCtx, ctxOf_rput, hctx]
    split <;> rfl
  · rw [GoesTo, ctxOf_rput, hctx]
    split <;> exact ⟨rfl, rfl⟩
  · rw [rget_rput, rget_occupy]
  · rw [ctxOf_rput, if_neg hd, hctx]
    exact mapGet_mapPut_same _ _ _ _
  · rw [ctxOf_rput, hctx]
    split
    · rfl
    · exact mapGet_mapPut_other _ _ _ (toNat_ne hr)

section
variable {s : State} {w : Who} {target : Nat} {k : State → State}

theorem branchTo_aligned (h : target % 8 = 0) : branchTo s w target k = k (occupy s w 3 target) := if_neg (not_not.mpr h)

theorem branchTo_misaligned (h : target % 8 ≠ 0) : branchTo s w target k = faultTask s w := if_pos h

end

section
variable {s : State} {w : Who} {d a b : Reg} {imm : Word} {c : Cond}

theorem execJal_eq (hissue : issues s w [] [d] = true) :
    execJal w d imm s = .next (branchTo s w (pcPlus s w imm) fun t => rput t w d (BitVec.ofNat 32 ((ctxOf s w).pc + 8)) 1) := by
  rw [execJal, issue_runs hissue, linkOf_eq]

theorem execJalr_eq (hissue : issues s w [a] [d] = true) :
    execJalr w d a imm s = .next (branchTo s w (rget s w a + imm).toNat fun t => rput t w d (BitVec.ofNat 32 ((ctxOf s w).pc + 8)) 1) := by
  rw [execJalr, issue_runs hissue, linkOf_eq]

theorem execBr_taken (hissue : issues s w [a, b] [] = true) (hc : condHolds c (rget s w a) (rget s w b) = true) :
    execBr w c a b imm s = .next (branchTo s w (pcPlus s w imm) id) := by
  rw [execBr, issue_runs hissue, if_pos hc]

theorem execBr_untaken (hissue : issues s w [a, b] [] = true) (hc : condHolds c (rget s w a) (rget s w b) = false) :
    execBr w c a b imm s = .next (advance s w 1) := by
  rw [execBr, issue_runs hissue, hc, if_neg Bool.false_ne_true]

theorem execDbnz_taken (hissue : issues s w [d] [d] = true) (hd : d ≠ 0#5) (hv : rget s w d ≠ 1#32) :
    execDbnz w d imm s = .next (branchTo s w (pcPlus s w imm) fun t => rput t w d (rget s w d - 1#32) 1) := by
  rw [execDbnz, decide_eq_true hd, issue_runs hissue]
  exact congrArg _ (if_pos ((sub_one_ne_zero_iff _).mpr hv))

theorem execDbnz_untaken (hissue : issues s w [d] [d] = true) (hd : d ≠ 0#5) (hv : rget s w d = 1#32) :
    execDbnz w d imm s = .next (rput (advance s w 1) w d 0#32 1) := by
  rw [execDbnz, decide_eq_true hd, issue_runs hissue, hv]
  rfl

/-- BR by whether the statement `p` of its condition holds. -/
theorem exec_br_cases (hissue : issues s w [a, b] [] = true) {p : Prop} (hp : condHolds c (rget s w a) (rget s w b) = true ↔ p) :
    (p → pcPlus s w imm % 8 = 0 → ∃ t, exec (.br w c a b imm) s = .next t ∧ Jumps w s t (pcPlus s w imm) 0#5 0#32)
      ∧ (¬p → ∃ t, exec (.br w c a b imm) s = .next t ∧ OnlyCtx w s t ∧ KeepsCtx w s t ∧ GoesOn w 1 s t ∧ ∀ r, rget t w r = rget s w r) := by
  rw [exec_br]
  refine ⟨fun h halign => ⟨_, ?_, jumps_occupy s w _⟩,
    fun h => ⟨_, execBr_untaken hissue (Bool.eq_false_iff.mpr (mt hp.mp h)), onlyCtx_advance s w 1, keepsCtx_advance s w 1, goesOn_advance s w 1, rget_advance s w 1⟩⟩
  rw [execBr_taken hissue (hp.mpr h), branchTo_aligned halign]
  rfl

end

/-- Settles O9, instruction by instruction. -/
theorem jumpsAndBranches : Obligations.JumpsAndBranches := by
  unfold Obligations.JumpsAndBranches
  intro s w d a b imm pc rel link
  refine ⟨fun hissue halign => ?_, fun hissue halign => ?_, fun hissue => ?_, fun hissue hd => ⟨fun hv halign => ?_, fun hv => ?_⟩⟩
  · exact ⟨_, by rw [exec_jal, execJal_eq hissue, branchTo_aligned (target := pcPlus s w imm) halign]; rfl, jumps_rput_occupy s w _ d _⟩
  · exact ⟨_, by rw [exec_jalr, execJalr_eq hissue, branchTo_aligned halign], jumps_rput_occupy s w _ d _⟩
  · simp only [List.forall_mem_cons]
    exact ⟨exec_br_cases hissue (condHolds_eq_iff _ _), exec_br_cases hissue (condHolds_ne_iff _ _), exec_br_cases hissue (condHolds_lt_iff _ _),
      exec_br_cases hissue (condHolds_ge_iff _ _), exec_br_cases hissue (condHolds_ltu_iff _ _), exec_br_cases hissue (condHolds_geu_iff _ _), List.forall_mem_nil _⟩
  · exact ⟨_, by rw [exec_dbnz, execDbnz_taken hissue hd hv, branchTo_aligned (target := pcPlus s w imm) halign]; rfl, jumps_rput_occupy s w _ d _⟩
  · exact ⟨_, by rw [exec_dbnz, execDbnz_untaken hissue hd hv], computes_rput_advance s w d 0#32 1 1⟩

/-! ### A pc beyond the image's instruction memory (R297) -/

theorem fetchOk_false {s : State} {w : Who} (h : imemLimit s w.lf ≤ (ctxOf s w).pc) : fetchOk s w = false := decide_eq_false (Nat.not_lt.mpr h)

section
variable {s : State} {w : Who} (hcan : canIssue s w = true) (hfetch : fetchOk s w = false)
include hcan hfetch

theorem issue_beyond (srcs dsts : List Reg) (legal : Bool) (k : State → State) : issue s w srcs dsts legal k = .next (faultTask s w) := by
  simp [issue, hcan, hfetch]

/-- A check that only an instruction in memory reaches holds nothing back. -/
theorem guarded_beyond (p : Bool) (srcs dsts : List Reg) (legal : Bool) (k : State → State) :
    (if fetchOk s w && p then .next s else issue s w srcs dsts legal k) = .next (faultTask s w) := by
  rw [hfetch, Bool.false_and, if_neg Bool.false_ne_true]
  exact issue_beyond hcan hfetch ..

theorem issueWhen_beyond (srcs dsts : List Reg) (legal room : Bool) (k : State → State) : issueWhen s w srcs dsts legal room k = .next (faultTask s w) := by
  rw [issueWhen, issues, hfetch, Bool.and_false, Bool.false_and, Bool.false_and, Bool.false_and, Bool.false_and, if_neg Bool.false_ne_true]
  exact issue_beyond hcan hfetch ..

theorem alu_beyond (o : AluArgs) (readsD unary : Bool) (occ lat : Nat) (f : Word → Word → Word → Word) : alu w o readsD unary occ lat f s = .next (faultTask s w) :=
  issue_beyond hcan hfetch ..

theorem engine_beyond (q : EQueue) (op : State → EOp) (after : Nat) (srcs : List Reg) (d b : Reg) (legal : Bool) :
    engine w q op after srcs d b legal s = .next (faultTask s w) := by
  rw [engine, Bool.and_assoc]
  exact guarded_beyond hcan hfetch ..

/-- Every instruction of a context that could issue aborts its task there, by how it issues. -/
theorem exec_beyond {i : Instr} (hw : whoOf i = some w) : exec i s = .next (faultTask s w) := by
  cases i
  case add | sub | andI | orI | xorI | sll | srl | sra | slt | sltu | minS | maxS | minu | maxu | mul | mulh | mulhu | div | divu | rem | remu | clz | ctz | popc
      | fadd | fsub | fmul | fma | fdiv | fsqrt | fmin | fmax | feq | flt | fle | fcvtSW | fcvtWS | fabs | fneg =>
    cases hw
    exact alu_beyond hcan hfetch ..
  case tdmk | tdrl | strm | stq | lload | lpass | lsplit | ldrainDrain | ldrainFill | cmode | vadd | vmax | vfma | vexp | vrsq | vsig | vred | vcvt
      | mgpush | mgpushEnd | mgdrainOpen | mgdrainWait | pdqQuery | pdqPrefetch | upsign | upvote =>
    cases hw
    exact engine_beyond hcan hfetch ..
  case swait | swaitTry | spost | chpush | chcommit | chcommitRewind =>
    cases hw
    exact issueWhen_beyond hcan hfetch ..
  case ldW | stW | mfill | mcopy =>
    cases hw
    exact guarded_beyond hcan hfetch ..
  case jal | jalr | br | dbnz | waitt | mfsr | mtsr | cwait | cwaitTry | creset | chpopAcquire | chpopRelease | chflush | fence | tend =>
    cases hw
    unfold exec
    exact issue_beyond hcan hfetch ..
  all_goals cases hw

end

/-- Settles O10: the targets of R297, then the pc beyond the instruction memory. -/
theorem badTargetsAndFetchesAbort : Obligations.BadTargetsAndFetchesAbort := by
  unfold Obligations.BadTargetsAndFetchesAbort
  intro s w aborted
  refine ⟨fun d a b imm c => ?_, fun i hw hcan hpc => exec_beyond hcan (fetchOk_false hpc) hw⟩
  intro rel
  refine ⟨fun hissue hbad => ?_, fun hissue hbad => ?_, fun hissue hc hbad => ?_, fun hissue hc => ?_, fun hissue hd hv hbad => ?_, fun hissue hd hv => ?_⟩
  · rw [exec_jal, execJal_eq hissue, branchTo_misaligned (target := pcPlus s w imm) hbad]
    rfl
  · rw [exec_jalr, execJalr_eq hissue, branchTo_misaligned hbad]
    rfl
  · rw [exec_br, execBr_taken hissue hc, branchTo_misaligned (target := pcPlus s w imm) hbad]
    rfl
  · exact ⟨_, by rw [exec_br, execBr_untaken hissue hc], goesOn_advance s w 1⟩
  · rw [exec_dbnz, execDbnz_taken hissue hd hv, branchTo_misaligned (target := pcPlus s w imm) hbad]
    rfl
  · obtain ⟨-, -, hgoes, -⟩ := computes_rput_advance s w d 0#32 1 1
    exact ⟨_, by rw [exec_dbnz, execDbnz_untaken hissue hd hv], hgoes⟩

/-! ### WAITT (R296, R298) -/

theorem exec_waitt (w : Who) (a : Reg) (imm : Word) (s : State) : exec (.waitt w a imm) s = execWaitt w a imm s := by rfl
theorem exec_waittTargetReached (w : Who) (s : State) : exec (.waittTargetReached w) s = execWaittTargetReached w s := by rfl

theorem waittDue_of_wait {s : State} {w : Who} {v : Word} (h : (ctxOf s w).wait = .tcyc v) : waittDue s w = decide (v.toNat ≤ tcyc s) := by
  rw [waittDue, h]

/-- Settles O13: a target that has passed, one that has not, and a wait whose target is reached. -/
theorem waittAndItsTarget : Obligations.WaittAndItsTarget := by
  unfold Obligations.WaittAndItsTarget
  intro s w
  refine ⟨fun a imm hissue => ⟨fun hpast => ?_, fun hahead => ?_⟩, fun v hwait hreached => ?_⟩
  · refine ⟨advance s w 1, ?_, onlyCtx_advance s w 1, keepsCtx_advance s w 1, goesOn_advance s w 1, rget_advance s w 1⟩
    rw [exec_waitt, execWaitt, issue_runs hissue]
    exact congrArg _ (if_pos hpast)
  · refine ⟨waitFor s w (.tcyc (rget s w a + imm)), ?_, onlyCtx_waitFor s w _, waits_waitFor s w _⟩
    rw [exec_waitt, execWaitt, issue_runs hissue]
    exact congrArg _ (if_neg (Nat.not_le.mpr hahead))
  · refine ⟨endWait s w, ?_, onlyCtx_endWait s w, resumes_endWait s w, fun r => rget_of_regs (by rw [ctxOf_endWait]) r⟩
    rw [exec_waittTargetReached, execWaittTargetReached, waittDue_of_wait hwait]
    exact whenever_true (decide_eq_true hreached)

/-! ### Special registers (R299, R300, Table 10-4) -/

theorem exec_mfsr (w : Who) (d : Reg) (n : Nat) (s : State) : exec (.mfsr w d n) s = execMfsr w d n s := by rfl
theorem exec_mtsr (w : Who) (a : Reg) (n : Nat) (s : State) : exec (.mtsr w a n) s = execMtsr w a n s := by rfl

section
variable {s : State} {w : Who} {e : TaskEntry} (he : entryOf s w = some e)
include he

theorem specialReg_slot {n : Nat} (hlo : 0x21 ≤ n) (hhi : n ≤ 0x2F) : specialReg s w n = some (slotReg s w e n) := by
  unfold specialReg
  simp only [he]
  split
  case h_19 => rw [if_pos ⟨hlo, Nat.lt_succ_of_le hhi⟩]
  all_goals exact absurd hlo (by decide)

theorem specialReg_absent {n : Nat} (h : (0x11 ≤ n ∧ n < 0x20) ∨ 0x30 ≤ n) : specialReg s w n = none := by
  have hnone : ¬ (0x21 ≤ n ∧ n < 0x30) := by omega
  unfold specialReg
  simp only [he]
  split
  case h_19 => rw [if_neg hnone]
  all_goals exact absurd h (by decide)

end

/-- Beyond the slot count only SLOTNUM says so (R300). -/
theorem slotReg_beyond {s : State} {w : Who} {e : TaskEntry} (n : Nat) (h : slotCnt e ≤ (ctxOf s w).slotSel) :
    slotReg s w e n = if n = 0x21 then 0xFFFFFFFF else 0 :=
  if_pos h

section
variable {s : State} {w : Who} {d a : Reg} {n : Nat}

theorem mfsr_computes (hissue : issues s w [] [d] = true) {v : Nat} (hv : specialReg s w n = some v) :
    ∃ t, exec (.mfsr w d n) s = .next t ∧ Computes w s t d (BitVec.ofNat 32 v) 1 2 := by
  refine ⟨_, ?_, computes_rput_advance s w d _ 1 2⟩
  rw [exec_mfsr, execMfsr, hv, Option.isSome_some, issue_runs hissue, hv, Option.getD_some]

theorem mfsr_illegal (hissue : issues s w [] [d] = true) (hv : specialReg s w n = none) : exec (.mfsr w d n) s = .next (faultTask s w) := by
  rw [exec_mfsr, execMfsr, hv, Option.isSome_none, issue_illegal hissue]

/-- SLOTSEL written. -/
def slotSelected (s : State) (w : Who) (v : Nat) : State := modCtx (advance s w 1) w (fun c => { c with slotSel := v })

theorem ctxOf_slotSelected (s : State) (w : Who) (v : Nat) : ctxOf (slotSelected s w v) w = { ctxOf (advance s w 1) w with slotSel := v } := ctxOf_modCtx _ w _

theorem mtsr_slotSel (hissue : issues s w [a] [] = true) : exec (.mtsr w a 0x20) s = .next (slotSelected s w ((rget s w a).toNat % 4096)) := by
  rw [exec_mtsr, execMtsr, decide_eq_true rfl, issue_runs hissue]
  rfl

theorem mtsr_illegal (hissue : issues s w [a] [] = true) (hn : n ≠ 0x20) : exec (.mtsr w a n) s = .next (faultTask s w) := by
  rw [exec_mtsr, execMtsr, decide_eq_false hn, issue_illegal hissue]

end

/-- Settles O14: the registers of Table 10-4 read, the slot registers beyond the slot count, numbers without a register; then SLOTSEL written and what MTSR may not write. -/
theorem specialRegistersReadAndWrite : Obligations.SpecialRegistersReadAndWrite := by
  unfold Obligations.SpecialRegistersReadAndWrite
  intro s w d a e he
  refine ⟨fun hissue => ⟨?_, fun hsel n hlo hhi => ?_, fun n hn => mfsr_illegal hissue (specialReg_absent he hn)⟩,
    fun hissue => ⟨⟨_, mtsr_slotSel hissue, onlyCtx_modCtx _ (onlyCtx_advance s w 1), ?_, ?_⟩, fun n hn => mtsr_illegal hissue hn⟩⟩
  · iterate 17 refine List.forall_mem_cons.mpr ⟨mfsr_computes hissue (by unfold specialReg; rw [he]; rfl), ?_⟩
    exact List.forall_mem_nil _
  · have hread := mfsr_computes hissue (specialReg_slot he hlo hhi)
    rwa [slotReg_beyond n hsel, apply_ite (BitVec.ofNat 32)] at hread
  · exact (goesOn_advance s w 1).of_ctx (by rw [ctxOf_slotSelected]) (by rw [ctxOf_slotSelected])
  · rw [ctxOf_slotSelected, ctxOf_advance]

/-! ### Engine instructions at issue (R293, R314, Table 11-2) -/

theorem facetOf_modCtx (s : State) (w : Who) (f : Ctx → Ctx) : facetOf (modCtx s w f) w.lf = (facetOf s w.lf).setCtx w.ctx (f (ctxOf s w)) :=
  facetOf_modFacet_same s w.lf _

@[simp] theorem seq_setCtx (f : Facet) (c : Nat) (x : Ctx) : (f.setCtx c x).seq = f.seq := by
  unfold Facet.setCtx
  split <;> rfl

/-- A facet's command count leaves its contexts as they are. -/
theorem ctxOf_modFacet_seq (s : State) (w : Who) (n : Nat) : ctxOf (modFacet s w.lf (fun f => { f with seq := n })) w = ctxOf s w := by
  rw [ctxOf, facetOf_modFacet_same]
  rfl

section
variable {s : State} {w : Who} {q : EQueue} {op : EOp} {after : Nat} {d b : Reg}

/-- A command that has entered its queue: last of its context's commands, numbered by the facet's count. -/
theorem ctxOf_enqueue : ctxOf (enqueue w q op after d b s) w
    = { ctxOf (advance s w 1) w with cmds := (ctxOf s w).cmds ++ [newCmd (facetOf s w.lf).seq q op after d b s.now (ctxOf s w).storeAt] } := by
  rw [enqueue, ctxOf_modCtx, ctxOf_modFacet_seq, ctxOf_advance]

theorem onlyFacet_enqueue : OnlyFacet w.lf s (enqueue w q op after d b s) := by
  obtain ⟨hfacet, -⟩ := onlyCtx_advance s w 1
  unfold enqueue modCtx
  exact onlyFacet_modFacet _ (onlyFacet_modFacet _ hfacet)

theorem seq_enqueue : (facetOf (enqueue w q op after d b s) w.lf).seq = (facetOf s w.lf).seq + 1 := by
  rw [enqueue, facetOf_modCtx, seq_setCtx, facetOf_modFacet_same]

/-- An engine instruction by whether its queue has room. -/
theorem engine_queues {i : Instr} {srcs : List Reg} {opAt : State → EOp} (hexec : exec i s = engine w q opAt after srcs d b i.wf s) (hop : opAt s = op)
    (hwf : i.wf = true) (hissue : issues s w srcs [d, b] = true) :
    let waiting := ((ctxOf s w).cmds.filter (fun c => decide (c.queue = q) && c.started.isNone)).length
    (waiting < 16 → ∃ t, exec i s = .next t ∧ OnlyFacet w.lf s t ∧ GoesOn w 1 s t ∧ (facetOf t w.lf).seq = (facetOf s w.lf).seq + 1
      ∧ ctxOf t w = { ctxOf s w with
          pc := (ctxOf t w).pc, free := (ctxOf t w).free
          cmds := (ctxOf s w).cmds ++ [newCmd (facetOf s w.lf).seq q op after d b s.now (ctxOf s w).storeAt] })
      ∧ (16 ≤ waiting → exec i s = .next s) := by
  have hfetch : fetchOk s w = true := by
    simp only [issues, Bool.and_eq_true] at hissue
    exact hissue.1.1.2
  rw [hexec, engine, hfetch, hwf, Bool.true_and, Bool.true_and, ← hop]
  refine ⟨fun hroom => ⟨enqueue w q (opAt s) after d b s, ?_, onlyFacet_enqueue, ?_, seq_enqueue, ?_⟩, fun hfull => if_pos (decide_eq_true hfull)⟩
  · exact (if_neg (by rw [queueFull, decide_eq_false (Nat.not_le.mpr hroom)]; exact Bool.false_ne_true)).trans (issue_runs hissue)
  · exact (goesOn_advance s w 1).of_ctx (by rw [ctxOf_enqueue]) (by rw [ctxOf_enqueue])
  · rw [ctxOf_enqueue, ctxOf_advance]

end

/-- Settles O23: each engine instruction is checked and queued by the one rule of `engine`. -/
theorem engineInstructionsQueueTheirCommand : Obligations.EngineInstructionsQueueTheirCommand := by
  unfold Obligations.EngineInstructionsQueueTheirCommand
  intro s w d a b h n kp fmt gmax rows conv job off p q r o v after
  unfold engineRows
  iterate 26 refine List.forall_mem_cons.mpr ⟨engine_queues rfl rfl, ?_⟩
  exact List.forall_mem_nil _

end Sys2Proof.Machine
end

section
/-! An aborted context is left idle, with its GMAX (R289, R305 to R309): which operations of an abort reach the facets, and what of the contexts they keep there. -/

namespace Sys2Proof.Machine

/-! ### Operations that reach no facet -/

theorem RegisterSide.facets {s t : State} (h : RegisterSide s t) : t.facets = s.facets := by rw [h]

section
variable (s : State)

@[simp] theorem facets_bump (f : Field) (n : Nat) : (bump s f n).facets = s.facets := rfl

@[simp] theorem facets_setFlag (f : Field) : (setFlag s f).facets = s.facets := ((registerSide_self s).setBits f 1).facets

@[simp] theorem facets_modShadow (q : Nat) (f : Shadow → Shadow) : (modShadow s q f).facets = s.facets := rfl

@[simp] theorem facets_fmemPut (pf : Nat) (ws : List (Nat × Byte)) : (fmemPut s pf ws).facets = s.facets := by
  have hcount : ∀ t : State, (countDropped t pf ws).facets = t.facets := fun t => by
    unfold countDropped
    dsimp only
    split <;> simp
  exact hcount _

@[simp] theorem facets_countFill (task lf : Nat) (as : List Nat) : (countFill s task lf as).facets = s.facets := by rw [countFill_side]

@[simp] theorem facets_stsPut (unit : Option Nat) (ws : List (Nat × Byte)) : (stsPut s unit ws).facets = s.facets := by
  have hheal : ∀ (t : State) (whole : Nat → Bool), (healWords t whole).facets = t.facets := fun t whole => by
    unfold healWords
    split <;> rfl
  exact (registerSide_serveLines _ _ _ _).facets.trans (hheal _ _)

@[simp] theorem facets_stopUpdate (w : Who) (c : ECmd) : (stopUpdate s w c).facets = s.facets := by
  unfold stopUpdate
  dsimp only
  split <;> simp

@[simp] theorem facets_leavePartial (w : Who) : (leavePartial s w).facets = s.facets := by
  simp only [leavePartial, foldl_keeps State.facets fun t c => facets_stopUpdate t w c]
  refine (foldl_keeps State.facets (fun t c => ?_) _ _).trans ?_ <;> simp

/-! Waits and transfers -/

@[simp] theorem facets_serveWaiters (sem fuel : Nat) : (serveWaiters s sem fuel).facets = s.facets := by
  have hgrant : ∀ (t : State) (m : SemMsg) (left : Nat) (took : Bool), (grant t m left took).facets = t.facets := fun _ _ _ _ => rfl
  induction fuel generalizing s with
  | zero => rfl
  | succ fuel ih =>
    unfold serveWaiters
    dsimp only
    split
    · rfl
    · split_ifs <;> simp only [ih, hgrant, modSem_facets]

@[simp] theorem facets_semDirty (sem : Nat) : (semDirty s sem).facets = s.facets := foldl_keeps State.facets (fun t (e : ChanEntry) => modChan_facets t e.key id) _ s

@[simp] theorem facets_withdrawWaits (w : Who) : (withdrawWaits s w).facets = s.facets := by
  unfold withdrawWaits
  exact foldl_keeps State.facets (fun t n => by simp [serve]) _ _

@[simp] theorem facets_dropTransfers (w : Who) : (dropTransfers s w).facets = s.facets :=
  foldl_keeps State.facets (fun t e => modEngine_facets t e _) _ s

/-! Channels, the shadow facet, a swap that waited -/

@[simp] theorem facets_chanConsumerEnd (e : ChanEntry) (k : Nat) (f : Flight) : (chanConsumerEnd s e k f).facets = s.facets := by
  simp only [chanConsumerEnd, chanFlush, modSem_facets, modChan_facets]

@[simp] theorem facets_chanProducerEnd (k : Nat) (f : Flight) : (chanProducerEnd s k f).facets = s.facets := modChan_facets s k _

@[simp] theorem facets_chansEnd (old : State) (id : Nat) : (chansEnd old s id).facets = s.facets := by
  refine foldl_keeps State.facets (fun t e => ?_) _ s
  dsimp only
  split_ifs <;> simp

@[simp] theorem facets_stopShadow (q : Nat) : (stopShadow s q).facets = s.facets := by
  unfold stopShadow
  split <;> simp

@[simp] theorem facets_abandonShadow (lf id : Nat) : (abandonShadow s lf id).facets = s.facets := by
  unfold abandonShadow
  split <;> simp

/-- Opaque to unfolding: the log's length is a number that the kernel should not count down from. -/
theorem facets_modMgmt (f : Mgmt → Mgmt) : (modMgmt s f).facets = s.facets := by
  cases s
  exact modMgmt_facets _ f

theorem facets_logEvent (code : Nat) (bytes : List Byte) : (logEvent s code bytes).facets = s.facets := by
  unfold logEvent
  exact facets_modMgmt s _

@[simp] theorem facets_errorRec (cls unit index ev task detail : Nat) : (errorRec s cls unit index ev task detail).facets = s.facets := by
  unfold errorRec
  dsimp only
  split_ifs <;> simp [facets_logEvent, facets_modMgmt, -modMgmt_facets]

@[simp] theorem facets_unmapFacet (lf : Nat) : (unmapFacet s lf).facets = s.facets := by
  have hmap : ∀ pf, (setFacetMap s lf pf).facets = s.facets := fun _ => rfl
  simp [unmapFacet, unmappedRec, hmap]

@[simp] theorem facets_startSwap (lf : Nat) : (startSwap s lf).facets = s.facets := by
  have hretire : ∀ pf, (retireFacet s pf).facets = s.facets := fun _ => rfl
  unfold startSwap
  dsimp only
  split <;> simp [hretire]

end

theorem ctxOf_of_facets {s t : State} (h : t.facets = s.facets) (v : Who) : ctxOf t v = ctxOf s v := by
  simp only [ctxOf, facetOf, h]

/-! ### GMAX through what ends with a context -/

/-- Each context's GMAX. -/
def gmaxes (s : State) : Who → Nat := fun v => (ctxOf s v).gmax

theorem gmaxes_of_facets {s t : State} (h : t.facets = s.facets) : gmaxes t = gmaxes s := by
  funext v
  rw [gmaxes, ctxOf_of_facets h, gmaxes]

section
variable (s : State)

/-- A change of a facet that reaches neither of its contexts. -/
theorem gmaxes_modFacet_beside {lf : Nat} {f : Facet → Facet} (ha : ∀ x, (f x).ctxA = x.ctxA) (hb : ∀ x, (f x).ctxB = x.ctxB) :
    gmaxes (modFacet s lf f) = gmaxes s := by
  funext v
  by_cases h : v.lf = lf
  · simp only [gmaxes, ctxOf, h, facetOf_modFacet_same, Facet.ctx, ha, hb]
  · simp only [gmaxes, ctxOf, facetOf_modFacet_other _ _ h]

theorem gmaxes_drawn : gmaxes (drawn s) = gmaxes s := rfl

theorem gmaxes_renewBuffers (lf : Nat) (a b : Bool) : gmaxes (renewBuffers s lf a b) = gmaxes s := by
  simp only [renewBuffers, gmaxes_drawn]
  exact gmaxes_modFacet_beside s (fun _ => rfl) fun _ => rfl

theorem gmaxes_freeRows (w : Who) : gmaxes (freeRows s w) = gmaxes s := by
  simp only [freeRows, gmaxes_drawn]
  exact gmaxes_modFacet_beside s (fun _ => rfl) fun _ => rfl

theorem gmaxes_modLat (w : Who) (f : Lat → Lat) : gmaxes (modLat s w f) = gmaxes s :=
  gmaxes_modFacet_beside s (fun x => by unfold Facet.setLat; split <;> rfl) (fun x => by unfold Facet.setLat; split <;> rfl)

theorem gmaxes_stopLattice (w : Who) : gmaxes (stopLattice s w) = gmaxes s := by
  unfold stopLattice
  split
  · exact gmaxes_renewBuffers s _ _ _
  · exact (gmaxes_modLat _ w _).trans (gmaxes_freeRows s w)

theorem gmaxes_leaveJob (n : Nat) (which : Nat → Bool) : gmaxes (leaveJob s n which) = gmaxes s := funext (ctxOf_gmax_leaveJob s n which)

theorem gmaxes_setJob (n : Nat) (j : Job) : gmaxes (setJob s n j) = gmaxes s := by
  unfold setJob
  split
  · exact gmaxes_leaveJob _ n _
  · rfl

theorem gmaxes_endLeaf (n l : Nat) (aborted : Bool) : gmaxes (endLeaf s n l aborted) = gmaxes s := by
  unfold endLeaf
  split
  · rfl
  · split
    · rfl
    · exact (gmaxes_leaveJob _ n _).trans (gmaxes_setJob s n _)

theorem gmaxes_sendMergeEnd (e chip job : Nat) (aborted : Bool) : gmaxes (sendMergeEnd s e chip job aborted) = gmaxes s := by
  unfold sendMergeEnd
  split
  · exact gmaxes_endLeaf s job _ aborted
  · split
    · exact gmaxes_of_facets ((registerSide_self s).event _ _).facets
    · rfl

theorem gmaxes_sendEnds (w : Who) (aborted : Bool) (e : Nat) : gmaxes (sendEnds s w aborted e) = gmaxes s := by
  have hstream : ∀ (t : State) (x : Nat × Stream), gmaxes (streamEnds t e x.2 aborted) = gmaxes t := fun t x =>
    foldl_keeps gmaxes (fun u (y : Nat × Nat) => gmaxes_sendMergeEnd u e y.1 y.2 aborted) _ t
  exact foldl_keeps gmaxes hstream _ _

theorem gmaxes_resultEnds (j : Job) (aborted : Bool) : gmaxes (resultEnds s j aborted) = gmaxes s := by
  refine foldl_keeps gmaxes (fun t x => ?_) _ s
  split
  · rfl
  · exact gmaxes_sendMergeEnd t _ _ _ _

theorem gmaxes_closeJob (n : Nat) (j : Job) : gmaxes (closeJob s n j) = gmaxes s := by
  unfold closeJob
  exact (gmaxes_resultEnds _ j true).trans (gmaxes_setJob _ n _)

theorem gmaxes_abortPush (lf n : Nat) : gmaxes (abortPush s lf n) = gmaxes s := by
  unfold abortPush
  split
  · exact gmaxes_endLeaf s n lf true
  · rfl

theorem gmaxes_abortMerge (w : Who) : gmaxes (abortMerge s w) = gmaxes s := by
  simp only [abortMerge, foldl_keeps gmaxes fun t (j : Nat × Job) => gmaxes_closeJob t j.1 ((mapFind t.jobs j.1).getD j.2),
    foldl_keeps gmaxes fun t n => gmaxes_abortPush t w.lf n]

theorem gmaxes_workDropped (w : Who) : gmaxes (workDropped s w) = gmaxes s := by
  have hstreams : ∀ t : State, gmaxes ((enginesOf w.lf).foldl (fun s e => sendEnds (closeStreams s w 3 e) w true e) t) = gmaxes t :=
    foldl_keeps gmaxes (fun t e => gmaxes_sendEnds (closeStreams t w 3 e) w true e) _
  calc gmaxes (workDropped s w)
      = gmaxes (dropTransfers (withdrawWaits (stopLattice (leavePartial s w) w) w) w) := (gmaxes_abortMerge _ w).trans (hstreams _)
    _ = gmaxes (stopLattice (leavePartial s w) w) := gmaxes_of_facets (by simp)
    _ = gmaxes (leavePartial s w) := gmaxes_stopLattice _ w
    _ = gmaxes s := gmaxes_of_facets (facets_leavePartial s w)

end

/-! ### The context of an aborted task -/

theorem ctxOf_facetFreed (s : State) (w : Who) : ctxOf (facetFreed s w.lf) w = ctxOf s w := by
  unfold facetFreed
  dsimp only
  split
  · exact (ctxOf_of_facets (by simp) w).trans (ctxOf_leaveSplit s w)
  · exact ctxOf_leaveSplit s w

/-- What follows a context's end leaves the context as it is. -/
theorem ctxOf_retiredTask (old s : State) (w : Who) (id reason : Nat) : ctxOf (retiredTask old s w id reason) w = ctxOf s w := by
  have hafter : (retiredTask old s w id reason).facets = (facetFreed (settleFlights s) w.lf).facets := by simp [retiredTask, modTask]
  exact (ctxOf_of_facets hafter w).trans (ctxOf_facetFreed (settleFlights s) w)

/-- A task that no express request asked for leaves its context idle. -/
theorem ctxOf_stopTask {s : State} {w : Who} (hexpress : (ctxOf s w).express = none) (id reason : Nat) :
    ctxOf (stopTask s w id reason) w = { Ctx.idle with gmax := (ctxOf s w).gmax } := by
  have hgmax : (ctxOf (workDropped s w) w).gmax = (ctxOf s w).gmax := congrFun (gmaxes_workDropped s w) w
  rw [stopTask_eq, hexpress]
  exact (ctxOf_retiredTask s _ w id reason).trans ((ctxOf_vacated _ w).trans (by rw [hgmax]))

end Sys2Proof.Machine
end

section
/-! Illegal instructions (R292, Table 01-8). -/

namespace Sys2Proof.Machine

variable {s : State} {w : Who}

theorem exec_illegalInstruction (x : BitVec 64) : exec (.illegalInstruction w x) s = execIllegalInstruction w x s := rfl

/-- A word without an instruction, of a context that may issue. -/
theorem exec_undecoded {x : BitVec 64} (hissue : issues s w [] [] = true) (hnone : decodeInsn w x = none) (hform : badForm x = none) :
    exec (.illegalInstruction w x) s = .next (faultTask s w) := by
  rw [exec_illegalInstruction, execIllegalInstruction, hform]
  dsimp only
  rw [hnone, Option.isSome_none, if_neg Bool.false_ne_true, issue_illegal hissue]

/-- Posts that leave are messages on their way, and nothing else. -/
theorem sendStorePosts_side (s : State) (w : Who) : sendStorePosts s w = { s with semMsgs := (sendStorePosts s w).semMsgs } := by
  have hsame : { sendStorePosts s w with semMsgs := [] } = { s with semMsgs := [] } := by
    unfold sendStorePosts
    refine foldl_keeps (fun t : State => { t with semMsgs := [] }) (fun t p => ?_) _ s
    rfl
  exact congrArg (fun u : State => { u with semMsgs := (sendStorePosts s w).semMsgs }) hsame

/-- A running task without consumers, aborted for a reason other than the hard limit, is stopped and nothing more. -/
theorem abortId_eq_stopTask {id : Nat} {r : TaskRec} (hr : taskRec s id = some r) (hrun : r.phase = .running) (hdown : downstream s id = [])
    {reason : Nat} (hreason : reason ≠ 7) : abortId s id reason = stopTask s r.entry.who id reason := by
  have hone : abortOne s id reason = stopTask s r.entry.who id reason := by
    unfold abortOne
    rw [hr]
    dsimp only
    rw [hrun]
  rw [abortId, hdown, List.foldl_nil, if_neg hreason, hone]

/-- The task of a context faults: the context it runs on, and its record. -/
theorem faultTask_effect {id : Nat} {r : TaskRec} (htask : (ctxOf s w).task = some id) (hexpress : (ctxOf s w).express = none) (hdown : downstream s id = [])
    (hr : taskRec s id = some r) (hrun : r.phase = .running) (hwho : r.entry.who = w) :
    ctxOf (faultTask s w) w = { Ctx.idle with gmax := (ctxOf s w).gmax } ∧ taskRec (faultTask s w) id = some (r.stopped 1 (tcyc s)) := by
  have hside := sendStorePosts_side s w
  generalize hu : sendStorePosts s w = u at hside
  have hctx : ctxOf u w = ctxOf s w := by rw [hside]; rfl
  have hru : taskRec u id = some r := by rw [hside]; exact hr
  have hdownu : downstream u id = [] := by rw [hside]; exact hdown
  have htcyc : tcyc u = tcyc s := by rw [hside]; rfl
  have hfault : faultTask s w = abortId u id 1 := by rw [faultTask, hu, abortTask, hctx, htask]
  obtain ⟨-, hrec⟩ := abortId_effect hru hrun (reason := 1) (by decide)
  rw [hfault, ← htcyc]
  refine ⟨?_, hrec⟩
  rw [abortId_eq_stopTask hru hrun hdownu (by decide), hwho, ← hctx]
  exact ctxOf_stopTask (hctx ▸ hexpress) id 1

end Sys2Proof.Machine
end

section
namespace Sys2Proof.Machine

/-- Settles O12: the word aborts its task, which leaves its context idle and its record ended. -/
theorem illegalInstructionsAbort : Obligations.IllegalInstructionsAbort := by
  intro s w x hissue hnone hform
  refine ⟨exec_undecoded hissue hnone hform, fun id r htask hexpress hdown hr hrun hwho => ?_⟩
  exact faultTask_effect htask hexpress hdown hr hrun hwho

end Sys2Proof.Machine
end

section
/-! FP32 words by their fields: what flushing, decoding and sign changes do to them (R295, R519). -/

namespace Sys2Proof.Machine

/-! ### The fields of a word -/

theorem toNat_exponent (x : Word) : (x.extractLsb' 23 8).toNat = x.toNat / 8388608 % 256 := by
  simp [BitVec.extractLsb'_toNat, Nat.shiftRight_eq_div_pow]

theorem toNat_fraction (x : Word) : (x.extractLsb' 0 23).toNat = x.toNat % 8388608 := by
  simp [BitVec.extractLsb'_toNat]

theorem nanWord_iff (x : Word) : NanWord x ↔ x.toNat / 8388608 % 256 = 255 ∧ x.toNat % 8388608 ≠ 0 := by
  rw [NanWord, Ne, ← BitVec.toNat_inj, ← BitVec.toNat_inj, toNat_exponent, toNat_fraction]
  rfl

theorem subnormalWord_iff (x : Word) : SubnormalWord x ↔ x.toNat / 8388608 % 256 = 0 ∧ x.toNat % 8388608 ≠ 0 := by
  rw [SubnormalWord, Ne, ← BitVec.toNat_inj, ← BitVec.toNat_inj, toNat_exponent, toNat_fraction]
  rfl

theorem msb_eq_sign (x : Word) : x.msb = decide (x.toNat / 2147483648 % 2 = 1) := by
  rw [BitVec.msb_eq_decide]
  have hlt := x.isLt
  simp only [decide_eq_decide]
  omega

theorem toNat_zeroOf (x : Word) : (zeroOf x).toNat = x.toNat / 2147483648 % 2 * 2147483648 := by
  have hand : (zeroOf x).toNat = x.toNat &&& 2 ^ 31 := BitVec.toNat_and ..
  rw [hand, Nat.and_two_pow, Nat.toNat_testBit]
  rfl

/-- The sign flipped, the other fields kept. -/
theorem toNat_signFlipped (x : Word) :
    (x ^^^ 0x80000000#32).toNat % 2147483648 = x.toNat % 2147483648 ∧ (x ^^^ 0x80000000#32).toNat / 2147483648 = 1 - x.toNat / 2147483648 := by
  have hxor : (x ^^^ 0x80000000#32).toNat = x.toNat ^^^ 2 ^ 31 := BitVec.toNat_xor ..
  have hlt := x.isLt
  have hmod : (x.toNat ^^^ 2 ^ 31) % 2 ^ 31 = x.toNat % 2 ^ 31 := by rw [Nat.xor_mod_two_pow, Nat.mod_self, Nat.xor_zero]
  have hdiv : (x.toNat ^^^ 2 ^ 31) / 2 ^ 31 = 1 - x.toNat / 2 ^ 31 := by
    rw [Nat.xor_div_two_pow, Nat.div_self (by decide)]
    have hbit : x.toNat / 2 ^ 31 = 0 ∨ x.toNat / 2 ^ 31 = 1 := by omega
    rcases hbit with h | h <;> rw [h] <;> rfl
  rw [hxor]
  exact ⟨hmod, hdiv⟩

/-! ### The format binary32 -/

@[simp] theorem fp32_emax : fp32.emax = 255 := rfl
@[simp] theorem fp32_signBit : fp32.signBit = 31 := rfl
@[simp] theorem fp32_mbits : fp32.mbits = 23 := rfl
@[simp] theorem fp32_ebits : fp32.ebits = 8 := rfl
@[simp] theorem fp32_bias : fp32.bias = 127 := rfl
@[simp] theorem fp32_inf : fp32.inf = true := rfl
@[simp] theorem fp32_nanPat : fp32.nanPat = 2143289344 := rfl
theorem fp32_signPat (neg : Bool) : fp32.signPat neg = neg.toNat * 2147483648 := by cases neg <;> rfl

/-! ### Flushing and decoding -/

theorem flush_tiny {p : Nat} (h : p / 8388608 % 256 = 0) : fp32.flush p = p / 2147483648 % 2 * 2147483648 := by
  have htiny : fp32.tiny p = true := decide_eq_true h
  rw [FpFmt.flush, if_pos htiny]
  rfl

theorem flush_normal {p : Nat} (h : p / 8388608 % 256 ≠ 0) : fp32.flush p = p := by
  have htiny : fp32.tiny p = false := decide_eq_false h
  rw [FpFmt.flush, htiny, if_neg Bool.false_ne_true]

/-- A pattern's value by its three fields. -/
theorem decode_eq (p : Nat) :
    fp32.decode p =
      if p / 8388608 % 256 = 255 then (if p % 8388608 = 0 then .inf (decide (p / 2147483648 % 2 = 1)) else .nan)
      else if p / 8388608 % 256 = 0 then .num (decide (p / 2147483648 % 2 = 1)) (p % 8388608) (-149)
      else .num (decide (p / 2147483648 % 2 = 1)) (8388608 + p % 8388608) (-149 + ((p / 8388608 % 256 : Nat) : Int) - 1) := by
  by_cases hmax : p / 8388608 % 256 = 255
  · simp only [FpFmt.decode, fp32_emax, fp32_signBit, fp32_mbits, fp32_ebits, fp32_inf, Nat.reducePow, hmax, and_self, if_true]
    rfl
  · simp only [FpFmt.decode, fp32_emax, fp32_signBit, fp32_mbits, fp32_ebits, fp32_inf, fp32_bias, Nat.reducePow, hmax, false_and, if_false]
    rfl

/-- A word that is zero or subnormal reads as the zero of its sign. -/
theorem rdF_tiny {x : Word} (h : x.toNat / 8388608 % 256 = 0) : rdF x = .num x.msb 0 (-149) := by
  have hflush : fp32.flush x.toNat = x.toNat / 2147483648 % 2 * 2147483648 := flush_tiny h
  rw [rdF, hflush, decode_eq, if_neg (by omega), if_pos (by omega), msb_eq_sign]
  congr 1
  · simp only [decide_eq_decide]
    omega
  · omega

/-- Any other word reads as its pattern says. -/
theorem rdF_normal {x : Word} (h : x.toNat / 8388608 % 256 ≠ 0) (hmax : x.toNat / 8388608 % 256 ≠ 255) :
    rdF x = .num x.msb (8388608 + x.toNat % 8388608) (-149 + ((x.toNat / 8388608 % 256 : Nat) : Int) - 1) := by
  rw [rdF, flush_normal h, decode_eq, if_neg hmax, if_neg h, msb_eq_sign]

theorem rdF_top {x : Word} (h : x.toNat / 8388608 % 256 = 255) : rdF x = if x.toNat % 8388608 = 0 then .inf x.msb else .nan := by
  rw [rdF, flush_normal (by omega), decode_eq, if_pos h, msb_eq_sign]

theorem rdF_nan {x : Word} (h : NanWord x) : rdF x = .nan := by
  obtain ⟨hexp, hfrac⟩ := (nanWord_iff x).mp h
  rw [rdF_top hexp, if_neg hfrac]

theorem isNan_rdF (x : Word) : (rdF x).isNan = true ↔ NanWord x := by
  constructor
  · intro h
    by_cases htiny : x.toNat / 8388608 % 256 = 0
    · rw [rdF_tiny htiny] at h
      cases h
    by_cases hmax : x.toNat / 8388608 % 256 = 255
    · rw [rdF_top hmax] at h
      refine (nanWord_iff x).mpr ⟨hmax, fun hfrac => ?_⟩
      rw [if_pos hfrac] at h
      cases h
    · rw [rdF_normal htiny hmax] at h
      cases h
  · intro h
    rw [rdF_nan h]
    rfl

/-! ### A subnormal counts as the zero of its sign (R295) -/

theorem exponent_zeroOf (x : Word) : (zeroOf x).toNat / 8388608 % 256 = 0 := by
  rw [toNat_zeroOf]
  omega

theorem msb_zeroOf (x : Word) : (zeroOf x).msb = x.msb := by
  rw [msb_eq_sign, msb_eq_sign, toNat_zeroOf, decide_eq_decide]
  omega

theorem wrF_toNat_zeroOf (x : Word) : wrF (zeroOf x).toNat = zeroOf x := by
  have hexp := exponent_zeroOf x
  have hsign : (zeroOf x).toNat / 2147483648 % 2 * 2147483648 = (zeroOf x).toNat := by rw [toNat_zeroOf]; omega
  rw [wrF, flush_tiny hexp, hsign, BitVec.ofNat_toNat, BitVec.setWidth_eq]

section
variable {x : Word} (h : SubnormalWord x)
include h

theorem exponent_of_subnormal : x.toNat / 8388608 % 256 = 0 := ((subnormalWord_iff x).mp h).1

theorem rdF_zeroOf : rdF x = rdF (zeroOf x) := by
  rw [rdF_tiny (exponent_of_subnormal h), rdF_tiny (exponent_zeroOf x), msb_zeroOf]

/-- It is written as that zero. -/
theorem wrF_zeroOf : wrF x.toNat = zeroOf x := by
  rw [wrF, flush_tiny (exponent_of_subnormal h), ← toNat_zeroOf, BitVec.ofNat_toNat, BitVec.setWidth_eq]

end

/-! ### What is written -/

theorem toNat_wrF_tiny {p : Nat} (h : p / 8388608 % 256 = 0) : (wrF p).toNat = p / 2147483648 % 2 * 2147483648 := by
  rw [wrF, flush_tiny h, BitVec.toNat_ofNat]
  exact Nat.mod_eq_of_lt (by omega)

theorem toNat_wrF_normal {p : Nat} (h : p / 8388608 % 256 ≠ 0) (hlt : p < 4294967296) : (wrF p).toNat = p := by
  rw [wrF, flush_normal h, BitVec.toNat_ofNat]
  exact Nat.mod_eq_of_lt hlt

end Sys2Proof.Machine
end

section
/-! The patterns that rounding gives (R295, R520): one NaN pattern, and what is no NaN. -/

namespace Sys2Proof.Machine

/-! ### Rounding, step by step -/

/-- The exponent of the last place of the rounded mantissa. -/
def FpFmt.lastPlace (f : FpFmt) (m : Nat) (e : Int) : Int := max (e + (Nat.log2 m : Int) - (f.mbits : Int)) (1 - (f.bias : Int) - (f.mbits : Int))

/-- `m × 2^e` in units of `2^q`, ties to even. -/
def roundedTo (m : Nat) (e q : Int) (sticky : Bool) : Nat :=
  if q ≤ e then m * 2 ^ (e - q).toNat
  else
    let s := (q - e).toNat
    let t := m / 2 ^ s
    let rem := m % 2 ^ s
    let half := 2 ^ (s - 1)
    if rem > half ∨ (rem = half ∧ (sticky ∨ t % 2 = 1)) then t + 1 else t

/-- The pattern of the mantissa `r` in units of `2^q`, for a format with infinities. -/
def FpFmt.assembled (f : FpFmt) (neg : Bool) (r : Nat) (q : Int) : Nat :=
  if r < 2 ^ f.mbits then f.signPat neg + r
  else if q + (f.bias : Int) + (f.mbits : Int) ≥ (f.emax : Int) then f.overflowPat neg
  else f.signPat neg + ((q + (f.bias : Int) + (f.mbits : Int)).toNat * 2 ^ f.mbits + (r - 2 ^ f.mbits))

theorem round_zero (f : FpFmt) (neg : Bool) (e : Int) (sticky : Bool) : f.round neg 0 e sticky = f.signPat neg := if_pos rfl

/-- Rounding: the mantissa in units of its last place, one place up where it has grown a digit, then the pattern. -/
theorem round_eq {f : FpFmt} (hinf : f.inf = true) (neg : Bool) {m : Nat} (hm : m ≠ 0) (e : Int) (sticky : Bool) :
    f.round neg m e sticky =
      let q := f.lastPlace m e
      let r := roundedTo m e q sticky
      if r ≥ 2 ^ (f.mbits + 1) then f.assembled neg (r / 2) (q + 1) else f.assembled neg r q := by
  rw [FpFmt.round, if_neg hm]
  simp only [hinf, if_true]
  change (match if roundedTo m e (f.lastPlace m e) sticky ≥ 2 ^ (f.mbits + 1) then (roundedTo m e (f.lastPlace m e) sticky / 2, f.lastPlace m e + 1)
    else (roundedTo m e (f.lastPlace m e) sticky, f.lastPlace m e) with | (r', q') => f.assembled neg r' q') = _
  split_ifs <;> rfl

/-- A rounded mantissa has the format's digits, or is the next power of two. -/
theorem roundedTo_le (f : FpFmt) (m : Nat) (e : Int) (sticky : Bool) : roundedTo m e (f.lastPlace m e) sticky ≤ 2 ^ (f.mbits + 1) := by
  have hm : m < 2 ^ (m.log2 + 1) := Nat.lt_log2_self
  have hq : e + (Nat.log2 m : Int) - (f.mbits : Int) ≤ f.lastPlace m e := le_max_left _ _
  generalize f.lastPlace m e = q at hq
  unfold roundedTo
  split
  case isTrue hle =>
    calc m * 2 ^ (e - q).toNat
        ≤ 2 ^ (m.log2 + 1) * 2 ^ (e - q).toNat := Nat.mul_le_mul_right _ hm.le
      _ = 2 ^ (m.log2 + 1 + (e - q).toNat) := (Nat.pow_add ..).symm
      _ ≤ 2 ^ (f.mbits + 1) := Nat.pow_le_pow_right (by decide) (by omega)
  case isFalse hlt =>
    have hpow : m < 2 ^ (q - e).toNat * 2 ^ (f.mbits + 1) :=
      calc m < 2 ^ (m.log2 + 1) := hm
        _ ≤ 2 ^ ((q - e).toNat + (f.mbits + 1)) := Nat.pow_le_pow_right (by decide) (by omega)
        _ = 2 ^ (q - e).toNat * 2 ^ (f.mbits + 1) := Nat.pow_add ..
    have hdiv : m / 2 ^ (q - e).toNat < 2 ^ (f.mbits + 1) := Nat.div_lt_of_lt_mul hpow
    dsimp only
    split
    · exact hdiv
    · exact hdiv.le

/-! ### Patterns that are no NaN but the one -/

/-- The NaN pattern, or a sign and a magnitude that is at most infinity's. -/
def OneNanPat (p : Nat) : Prop := p = 2143289344 ∨ ∃ neg k, k ≤ 2139095040 ∧ p = fp32.signPat neg + k

theorem oneNan_nanPat : OneNanPat fp32.nanPat := .inl rfl

theorem oneNan_signPat (neg : Bool) : OneNanPat (fp32.signPat neg) := .inr ⟨neg, 0, by decide, rfl⟩

theorem oneNan_overflowPat (neg : Bool) : OneNanPat (fp32.overflowPat neg) := .inr ⟨neg, 2139095040, le_rfl, rfl⟩

theorem oneNan_assembled (neg : Bool) {r : Nat} (hr : r ≤ 2 ^ 24) (q : Int) : OneNanPat (fp32.assembled neg r q) := by
  unfold FpFmt.assembled
  split_ifs with hsmall hinf
  · exact .inr ⟨neg, r, by simp only [fp32_mbits] at hsmall; omega, rfl⟩
  · exact oneNan_overflowPat neg
  · exact .inr ⟨neg, _, by simp only [fp32_mbits, fp32_bias, fp32_emax] at hinf ⊢; omega, rfl⟩

theorem oneNan_round (neg : Bool) (m : Nat) (e : Int) (sticky : Bool) : OneNanPat (fp32.round neg m e sticky) := by
  by_cases hm : m = 0
  · rw [hm, round_zero]
    exact oneNan_signPat neg
  · have hle := roundedTo_le fp32 m e sticky
    rw [round_eq fp32_inf neg hm]
    rw [fp32_mbits] at hle
    dsimp only
    split
    · exact oneNan_assembled neg (by omega) _
    · exact oneNan_assembled neg hle _

theorem oneNan_encode (x : Fp) : OneNanPat (fp32.encode x) := by
  cases x with
  | nan => exact oneNan_nanPat
  | inf neg => exact oneNan_overflowPat neg
  | num neg m e => exact oneNan_round neg m e false

theorem oneNan_fpDiv (x y : Fp) : OneNanPat (fpDiv fp32 x y) := by
  unfold fpDiv
  split
  · exact oneNan_nanPat
  · exact oneNan_nanPat
  · exact oneNan_nanPat
  · exact oneNan_overflowPat _
  · exact oneNan_signPat _
  · split_ifs
    · exact oneNan_nanPat
    · exact oneNan_overflowPat _
    · exact oneNan_round _ _ _ _

theorem oneNan_fpSqrt (x : Fp) : OneNanPat (fpSqrt fp32 x) := by
  unfold fpSqrt
  split
  · exact oneNan_nanPat
  · split_ifs
    · exact oneNan_nanPat
    · exact oneNan_overflowPat _
  · split_ifs
    · exact oneNan_signPat _
    · exact oneNan_nanPat
    all_goals exact oneNan_round _ _ _ _

/-- A word that is no NaN, and what shares its fields below the sign. -/
theorem oneNan_of_not_nan {x : Word} (h : ¬NanWord x) {p : Nat} (hp : p < 4294967296) (hmod : p % 2147483648 = x.toNat % 2147483648) : OneNanPat p := by
  rw [nanWord_iff, not_and_not_right] at h
  have hk : p % 2147483648 ≤ 2139095040 := by omega
  by_cases hsign : 2147483648 ≤ p
  · exact .inr ⟨true, p % 2147483648, hk, by rw [fp32_signPat, Bool.toNat_true]; omega⟩
  · exact .inr ⟨false, p % 2147483648, hk, by rw [fp32_signPat, Bool.toNat_false]; omega⟩

theorem oneNan_word {x : Word} (h : ¬NanWord x) : OneNanPat x.toNat := oneNan_of_not_nan h x.isLt rfl

/-- A word that is not subnormal, and a NaN only as 0x7FC00000. -/
def ResultWord (x : Word) : Prop := ¬SubnormalWord x ∧ (NanWord x → x = 0x7FC00000#32)

theorem resultWord_wrF {p : Nat} (h : OneNanPat p) : ResultWord (wrF p) := by
  rw [ResultWord, subnormalWord_iff, nanWord_iff, ← BitVec.toNat_inj]
  by_cases htiny : p / 8388608 % 256 = 0
  · rw [toNat_wrF_tiny htiny]
    omega
  rcases h with rfl | ⟨neg, k, hk, rfl⟩
  · rw [toNat_wrF_normal htiny (by decide)]
    exact ⟨by decide, fun _ => rfl⟩
  · have hneg : neg.toNat ≤ 1 := neg.toNat_le
    rw [fp32_signPat] at htiny ⊢
    rw [toNat_wrF_normal htiny (by omega)]
    omega

end Sys2Proof.Machine
end

section
/-! The scalar core's FP32 operations on NaNs, subnormals, signed zeros and integers (R295, R520). -/

namespace Sys2Proof.Machine

/-! ### NaN operands -/

@[simp] theorem Fp.nan_add (x : Fp) : Fp.nan.add x = .nan := by cases x <;> rfl
@[simp] theorem Fp.add_nan (x : Fp) : x.add .nan = .nan := by cases x <;> rfl
@[simp] theorem Fp.nan_mul (x : Fp) : Fp.nan.mul x = .nan := by cases x <;> rfl
@[simp] theorem Fp.mul_nan (x : Fp) : x.mul .nan = .nan := by cases x <;> rfl
@[simp] theorem Fp.neg_nan : Fp.nan.neg = .nan := rfl
@[simp] theorem Fp.nan_lt (x : Fp) : Fp.nan.lt x = false := by cases x <;> rfl
@[simp] theorem Fp.lt_nan (x : Fp) : x.lt .nan = false := by cases x <;> rfl
@[simp] theorem fpDiv_of_nan (x : Fp) : fpDiv fp32 .nan x = 2143289344 := by cases x <;> rfl
@[simp] theorem fpDiv_by_nan (x : Fp) : fpDiv fp32 x .nan = 2143289344 := by cases x <;> rfl
@[simp] theorem fp32_encode_nan : fp32.encode .nan = 2143289344 := rfl
@[simp] theorem wrF_nanPat : wrF 2143289344 = 0x7FC00000#32 := rfl

section
variable {a b d : Word}

theorem fAdd_nan (h : NanWord a ∨ NanWord b) : fAdd a b = 0x7FC00000#32 := by
  rcases h with h | h <;> simp [fAdd, rdF_nan h]

theorem fSub_nan (h : NanWord a ∨ NanWord b) : fSub a b = 0x7FC00000#32 := by
  rcases h with h | h <;> simp [fSub, rdF_nan h]

theorem fMul_nan (h : NanWord a ∨ NanWord b) : fMul a b = 0x7FC00000#32 := by
  rcases h with h | h <;> simp [fMul, rdF_nan h]

theorem fDiv_nan (h : NanWord a ∨ NanWord b) : fDiv a b = 0x7FC00000#32 := by
  rcases h with h | h <;> simp [fDiv, rdF_nan h]

theorem fFma_nan (h : NanWord a ∨ NanWord b) : fFma d a b = 0x7FC00000#32 := by
  rcases h with h | h <;> simp [fFma, rdF_nan h]

theorem fFma_nan_addend (h : NanWord d) : fFma d a b = 0x7FC00000#32 := by simp [fFma, rdF_nan h]

theorem fMin_nan (h : NanWord a ∨ NanWord b) : fMin a b = 0x7FC00000#32 := if_pos (h.imp (isNan_rdF a).mpr (isNan_rdF b).mpr)

theorem fMax_nan (h : NanWord a ∨ NanWord b) : fMax a b = 0x7FC00000#32 := if_pos (h.imp (isNan_rdF a).mpr (isNan_rdF b).mpr)

theorem fSqrt_nan (h : NanWord a) : fSqrt a = 0x7FC00000#32 := by rw [fSqrt, rdF_nan h]; rfl

theorem fAbs_nan (h : NanWord a) : fAbs a = 0x7FC00000#32 := if_pos ((isNan_rdF a).mpr h)

theorem fNeg_nan (h : NanWord a) : fNeg a = 0x7FC00000#32 := if_pos ((isNan_rdF a).mpr h)

theorem fToInt_nan (h : NanWord a) : fToInt a = 0#32 := by rw [fToInt, rdF_nan h]; rfl

/-- No order and no equality holds of a NaN. -/
theorem comparisons_nan (h : NanWord a ∨ NanWord b) : fEq a b = 0#32 ∧ fLt a b = 0#32 ∧ fLe a b = 0#32 := by
  have hlt : (rdF a).lt (rdF b) = false := by
    rcases h with h | h <;> simp [rdF_nan h]
  have heq : (rdF a).eqNum (rdF b) = false := by
    rcases h with h | h <;> simp [Fp.eqNum, (isNan_rdF _).mpr h]
  rw [fEq, fLt, fLe, hlt, heq]
  exact ⟨rfl, rfl, rfl⟩

end

/-! ### Results -/

theorem resultWord_nan : ResultWord 0x7FC00000#32 := by
  rw [← wrF_nanPat]
  exact resultWord_wrF oneNan_nanPat

section
variable (a b d : Word)

theorem resultWord_fMax : ResultWord (fMax a b) := by
  by_cases h : NanWord a ∨ NanWord b
  · rw [fMax_nan h]
    exact resultWord_nan
  · obtain ⟨ha, hb⟩ := not_or.mp h
    have hnum : ¬((rdF a).isNan = true ∨ (rdF b).isNan = true) := by rwa [isNan_rdF, isNan_rdF]
    rw [fMax, if_neg hnum]
    split_ifs
    · exact resultWord_wrF (oneNan_word hb)
    · exact resultWord_wrF (oneNan_word ha)
    · exact resultWord_wrF (oneNan_word hb)
    · exact resultWord_wrF (oneNan_word ha)

theorem resultWord_fMin : ResultWord (fMin a b) := by
  by_cases h : NanWord a ∨ NanWord b
  · rw [fMin_nan h]
    exact resultWord_nan
  · obtain ⟨ha, hb⟩ := not_or.mp h
    have hnum : ¬((rdF a).isNan = true ∨ (rdF b).isNan = true) := by rwa [isNan_rdF, isNan_rdF]
    rw [fMin, if_neg hnum]
    split_ifs
    · exact resultWord_wrF (oneNan_word ha)
    · exact resultWord_wrF (oneNan_word hb)
    · exact resultWord_wrF (oneNan_word ha)
    · exact resultWord_wrF (oneNan_word hb)

theorem fAbs_number {a : Word} (h : ¬NanWord a) : fAbs a = wrF (a.toNat % 2147483648) := if_neg ((isNan_rdF a).not.mpr h)

theorem fNeg_number {a : Word} (h : ¬NanWord a) : fNeg a = wrF (a ^^^ 0x80000000#32).toNat := if_neg ((isNan_rdF a).not.mpr h)

theorem resultWord_fAbs : ResultWord (fAbs a) := by
  by_cases h : NanWord a
  · rw [fAbs_nan h]
    exact resultWord_nan
  · rw [fAbs_number h]
    exact resultWord_wrF (oneNan_of_not_nan h (by omega) (Nat.mod_mod _ _))

theorem resultWord_fNeg : ResultWord (fNeg a) := by
  by_cases h : NanWord a
  · rw [fNeg_nan h]
    exact resultWord_nan
  · rw [fNeg_number h]
    exact resultWord_wrF (oneNan_of_not_nan h (BitVec.isLt _) (toNat_signFlipped a).1)

theorem resultWord_all :
    ∀ x ∈ [fAdd a b, fSub a b, fMul a b, fDiv a b, fMin a b, fMax a b, fFma d a b, fSqrt a, fAbs a, fNeg a, fOfInt a], ResultWord x := by
  simp only [List.forall_mem_cons]
  exact ⟨resultWord_wrF (oneNan_encode _), resultWord_wrF (oneNan_encode _), resultWord_wrF (oneNan_encode _), resultWord_wrF (oneNan_fpDiv _ _),
    resultWord_fMin a b, resultWord_fMax a b, resultWord_wrF (oneNan_encode _), resultWord_wrF (oneNan_fpSqrt _), resultWord_fAbs a, resultWord_fNeg a,
    resultWord_wrF (oneNan_encode _), List.forall_mem_nil _⟩

end

/-! ### Subnormal operands -/

/-- An operation on two operands sees of each its value, what it would write of it, and its sign. -/
theorem operations_congr {a a' : Word} (hread : rdF a = rdF a') (hwrite : wrF a.toNat = wrF a'.toNat) (hsign : a.msb = a'.msb) (b d : Word) :
    ∀ f ∈ [fAdd, fSub, fMul, fDiv, fMin, fMax, fEq, fLt, fLe, fFma d], f a b = f a' b ∧ f b a = f b a' := by
  simp [fAdd, fSub, fMul, fDiv, fMin, fMax, fEq, fLt, fLe, fFma, hread, hwrite, hsign]

section
variable {a : Word} (h : SubnormalWord a)
include h

theorem not_nan_of_subnormal : ¬NanWord a := by
  rw [nanWord_iff, exponent_of_subnormal h]
  omega

theorem fSqrt_subnormal : fSqrt a = zeroOf a := by
  have hroot : fSqrt a = wrF (if a.msb then 2147483648 else 0) := by rw [fSqrt, rdF_tiny (exponent_of_subnormal h)]; rfl
  rw [hroot, ← BitVec.toNat_inj, toNat_zeroOf, toNat_wrF_tiny (by split <;> rfl), msb_eq_sign]
  split <;> simp_all

theorem fAbs_subnormal : fAbs a = 0#32 := by
  have hexp := exponent_of_subnormal h
  rw [fAbs_number (not_nan_of_subnormal h), ← BitVec.toNat_inj, toNat_wrF_tiny (by omega), BitVec.toNat_ofNat]
  omega

theorem fNeg_subnormal : fNeg a = ~~~(zeroOf a) &&& 0x80000000#32 := by
  have hexp := exponent_of_subnormal h
  obtain ⟨hlow, hsign⟩ := toNat_signFlipped a
  have hnot : (~~~(zeroOf a)).toNat = 4294967296 - 1 - (zeroOf a).toNat := BitVec.toNat_not
  change fNeg a = zeroOf (~~~(zeroOf a))
  rw [fNeg_number (not_nan_of_subnormal h), ← BitVec.toNat_inj, toNat_zeroOf, toNat_wrF_tiny (by omega), hsign, hnot, toNat_zeroOf]
  omega

theorem fToInt_subnormal : fToInt a = 0#32 := by
  rw [fToInt, rdF_tiny (exponent_of_subnormal h)]
  cases a.msb <;> rfl

end

/-! ### Conversions -/

/-- A value of 2^31 or more in magnitude saturates. -/
theorem Fp.toInt_saturates (neg : Bool) {m : Nat} {e : Int} (he : 0 ≤ e) (hbig : 2147483648 ≤ m * 2 ^ e.toNat) :
    (Fp.num neg m e).toInt (-2147483648) 2147483647 = if neg then -2147483648 else 2147483647 := by
  rw [Fp.toInt]
  simp only [if_pos he]
  generalize m * 2 ^ e.toNat = r at hbig
  cases neg <;> simp <;> omega

theorem fToInt_saturates {x : Word} (hnum : ¬NanWord x) (hexp : 158 ≤ x.toNat / 8388608 % 256) :
    fToInt x = if x.msb then 0x80000000#32 else 0x7FFFFFFF#32 := by
  have hval : (rdF x).toInt (-2147483648) 2147483647 = if x.msb then -2147483648 else 2147483647 := by
    by_cases hmax : x.toNat / 8388608 % 256 = 255
    · have hfrac : x.toNat % 8388608 = 0 := by
        by_contra hne
        exact hnum ((nanWord_iff x).mpr ⟨hmax, hne⟩)
      rw [rdF_top hmax, if_pos hfrac]
      rfl
    · rw [rdF_normal (by omega) hmax]
      refine Fp.toInt_saturates _ (by omega) ?_
      calc 2147483648 = 8388608 * 2 ^ 8 := by decide
        _ ≤ (8388608 + x.toNat % 8388608) * 2 ^ _ := Nat.mul_le_mul (by omega) (Nat.pow_le_pow_right (by decide) (by omega))
  rw [fToInt, hval]
  split <;> rfl

/-- A value with a whole magnitude `n` is that integer, within the bounds. -/
theorem Fp.toInt_whole (lo hi : Int) (neg : Bool) (n k : Nat) :
    (Fp.num neg (n * 2 ^ k) (-(k : Int))).toInt lo hi = max lo (min hi (if neg then -(n : Int) else n)) := by
  rw [Fp.toInt]
  cases k with
  | zero => simp
  | succ k =>
    have hneg : ¬(0 : Int) ≤ -((k + 1 : Nat) : Int) := by omega
    have hexp : (-(-((k + 1 : Nat) : Int))).toNat = k + 1 := by omega
    have hpos : 0 < 2 ^ (k + 1) := Nat.two_pow_pos _
    have hhalf : 0 ≠ 2 ^ k := (Nat.two_pow_pos k).ne
    simp only [if_neg hneg, hexp, Nat.mul_div_cancel _ hpos, Nat.mul_mod_left]
    simp [hhalf]

/-- An integer below 2^24 needs no rounding: its digits stand at the top of the fraction. -/
theorem round_small (neg : Bool) {n : Nat} (hn : n ≠ 0) (hlt : n < 16777216) :
    8388608 ≤ n * 2 ^ (23 - n.log2) ∧ n * 2 ^ (23 - n.log2) < 16777216
      ∧ fp32.round neg n 0 false = fp32.signPat neg + ((n.log2 + 127) * 8388608 + (n * 2 ^ (23 - n.log2) - 8388608)) := by
  have hlog : n.log2 < 24 := (Nat.log2_lt hn).mpr hlt
  have hplace : fp32.lastPlace n 0 = -((23 - n.log2 : Nat) : Int) := by
    rw [FpFmt.lastPlace, fp32_mbits, fp32_bias]
    omega
  have hmant : roundedTo n 0 (-((23 - n.log2 : Nat) : Int)) false = n * 2 ^ (23 - n.log2) := by
    have hdigits : (0 - -((23 - n.log2 : Nat) : Int)).toNat = 23 - n.log2 := by omega
    rw [roundedTo, if_pos (by omega), hdigits]
  have hlow : 8388608 ≤ n * 2 ^ (23 - n.log2) :=
    calc 8388608 = 2 ^ n.log2 * 2 ^ (23 - n.log2) := by rw [← Nat.pow_add, Nat.add_sub_of_le (by omega)]
      _ ≤ n * 2 ^ (23 - n.log2) := Nat.mul_le_mul_right _ (Nat.log2_self_le hn)
  have hhigh : n * 2 ^ (23 - n.log2) < 16777216 :=
    calc n * 2 ^ (23 - n.log2) < 2 ^ (n.log2 + 1) * 2 ^ (23 - n.log2) := Nat.mul_lt_mul_of_pos_right Nat.lt_log2_self (Nat.two_pow_pos _)
      _ = 16777216 := by rw [← Nat.pow_add, show n.log2 + 1 + (23 - n.log2) = 24 by omega]
  refine ⟨hlow, hhigh, ?_⟩
  rw [round_eq fp32_inf neg hn, hplace]
  dsimp only
  rw [hmant, if_neg (by rw [fp32_mbits]; omega), FpFmt.assembled, fp32_mbits, fp32_bias, fp32_emax, if_neg (by omega), if_neg (by omega)]
  congr 3
  omega

/-- What the scalar core reads of such an integer's word. -/
theorem rdF_round_small (neg : Bool) {n : Nat} (hn : n ≠ 0) (hlt : n < 16777216) :
    rdF (wrF (fp32.round neg n 0 false)) = .num neg (n * 2 ^ (23 - n.log2)) (-((23 - n.log2 : Nat) : Int)) := by
  have hlog : n.log2 < 24 := (Nat.log2_lt hn).mpr hlt
  obtain ⟨hlow, hhigh, hround⟩ := round_small neg hn hlt
  rw [hround]
  generalize n * 2 ^ (23 - n.log2) = r at hlow hhigh
  have hneg : neg.toNat ≤ 1 := neg.toNat_le
  have hword := toNat_wrF_normal (p := neg.toNat * 2147483648 + ((n.log2 + 127) * 8388608 + (r - 8388608))) (by omega) (by omega)
  rw [fp32_signPat]
  generalize wrF (neg.toNat * 2147483648 + ((n.log2 + 127) * 8388608 + (r - 8388608))) = x at hword ⊢
  have hmsb : x.msb = neg := by
    rw [msb_eq_sign, hword]
    cases neg <;> simp <;> omega
  have hexp : x.toNat / 8388608 % 256 = n.log2 + 127 := by omega
  have hfrac : 8388608 + x.toNat % 8388608 = r := by omega
  rw [rdF_normal (by omega) (by omega), hmsb, hexp, hfrac, show -149 + ((n.log2 + 127 : Nat) : Int) - 1 = -((23 - n.log2 : Nat) : Int) by omega]

/-- An integer below 2^24 in magnitude survives both conversions. -/
theorem fToInt_fOfInt {x : Word} (hlow : -16777216 < x.toInt) (hhigh : x.toInt < 16777216) : fToInt (fOfInt x) = x := by
  have hval : (rdF (fOfInt x)).toInt (-2147483648) 2147483647 = x.toInt := by
    rw [fOfInt, Fp.ofInt, FpFmt.encode]
    by_cases hzero : x.toInt = 0
    · rw [hzero]
      rfl
    · rw [rdF_round_small _ (by omega) (by omega), Fp.toInt_whole]
      by_cases hneg : x.toInt < 0
      · simp only [hneg, decide_true, if_true]
        omega
      · simp only [hneg, decide_false, if_neg Bool.false_ne_true]
        omega
  rw [fToInt, hval, BitVec.ofInt_toInt]

end Sys2Proof.Machine
end

section
namespace Sys2Proof.Machine

/-- Settles O54: NaN operands, results, subnormal operands; then the signed zeros and the conversions. -/
theorem fpSpecialValues : Obligations.FpSpecialValues := by
  refine ⟨fun a b d => ⟨fun h => ?_, fFma_nan_addend, fun h => ⟨fSqrt_nan h, fAbs_nan h, fNeg_nan h, fToInt_nan h⟩, comparisons_nan, resultWord_all a b d,
    fun h => ?_⟩, rfl, rfl, rfl, rfl, fun x hnum hexp => fToInt_saturates hnum ?_, fun x hlow hhigh => fToInt_fOfInt hlow hhigh⟩
  · simp only [List.forall_mem_cons]
    exact ⟨fAdd_nan h, fSub_nan h, fMul_nan h, fDiv_nan h, fMin_nan h, fMax_nan h, fFma_nan h, List.forall_mem_nil _⟩
  · have hwrite : wrF a.toNat = wrF (zeroOf a).toNat := by rw [wrF_zeroOf h, wrF_toNat_zeroOf]
    refine ⟨operations_congr (rdF_zeroOf h) hwrite (msb_zeroOf a).symm b d, ?_, fSqrt_subnormal h, fAbs_subnormal h, fNeg_subnormal h, fToInt_subnormal h⟩
    rw [fFma, rdF_zeroOf h, fFma]
  · rw [← toNat_exponent]
    exact hexp

end Sys2Proof.Machine
end

section
/-! A free value that the statements on Chord ports and packets depend on (R341, R377). Both take every facet number, and for one beyond the part's 48 an abort that leaves a vote partly
written counts its lines in a register of the Chord block. How much of a vote is written is free (R46, R341, log entry 2), so that a proof of either statement would fix a free value. -/

namespace Sys2Proof.Machine

/-! ### A vote that an abort stops (R341) -/

theorem freePrefix_nil {α : Type} (n : Nat) : freePrefix n ([] : List α) = [] := List.take_nil

theorem freePrefix_singleton_of_odd {α : Type} {n : Nat} (h : (Config.freeWord n).toNat % 2 = 1) (x : α) : freePrefix n [x] = [x] := by
  rw [freePrefix, List.length_singleton, h]
  rfl

theorem countDropped_nil (s : State) (pf : Nat) : countDropped s pf [] = s := by
  have hlines : gatedLines s pf [] = [] := by
    unfold gatedLines
    exact ite_self _
  rw [countDropped, List.map_nil, hlines]
  rfl

theorem fmemPut_nil_free (s : State) (pf : Nat) : (fmemPut s pf []).free = s.free := by
  rw [fmemPut, countDropped_nil]
  rfl

/-- A vote of one unit under way: one byte, for State Store address 0. -/
def strayVote : ECmd := { newCmd 0 .upd (.upvote 0#32) 0 0#5 0#5 0 0 with ready := true, todo := [List.replicate 24 0#8], image := [7#8] }

theorem strayVote_facetWrites : strayVote.facetWrites = [] := rfl

theorem strayVote_storeUnits : strayVote.storeUnits = [[(0, 7#8)]] := by decide

/-- What an abort of a context whose one command is that vote leaves written, where the vote's unit is. -/
def voteLeft (s : State) (w : Who) : State :=
  let t := drawn (fmemPut (drawn (fmemPut s (physOf s w.lf) [])) (physOf s w.lf) [])
  drawn (drawn (stsPut (countFill t ((ctxOf s w).task.getD 0xFFFF) w.lf []) (some (quadOf w.lf)) [(0, 7#8)]))

theorem leavePartial_strayVote {s : State} {w : Who} (hcmds : (ctxOf s w).cmds = [strayVote]) (hwait : (ctxOf s w).wait = .none)
    (hodd : (Config.freeWord (s.free + 2)).toNat % 2 = 1) : leavePartial s w = voteLeft s w := by
  have hfree : (countFill (drawn (fmemPut (drawn (fmemPut s (physOf s w.lf) [])) (physOf s w.lf) [])) ((ctxOf s w).task.getD 0xFFFF) w.lf []).free = s.free + 2 := by
    rw [countFill_side]
    simp only [drawn_free, fmemPut_nil_free]
  have hmem : freePrefix s.free (memWords (Wait.memWrites .none)) = [] := freePrefix_nil s.free
  unfold leavePartial
  simp only [hcmds, hwait, hmem, List.flatten_nil, List.foldl_cons, List.foldl_nil, strayVote_facetWrites, freePrefix_nil, keptWrites, List.filter_nil, List.map_nil]
  rw [stopUpdate, hfree, strayVote_storeUnits, freePrefix_singleton_of_odd hodd]
  rfl

/-! ### A part that runs it -/

/-- A logical facet past the 48 of the part, whose quadrant's word of STS_CNT_XQ is the register of a field. -/
def strayFacetOf (f : Field) : Nat := 12 * ((f.addr - (Fld.stsCntXq_COUNT 0).addr) / 4)

/-- Its context 0 runs task 1 and has that vote under way; the part serves, and holds register values beside. -/
def strayPart (f : Field) (regs : SMap Nat) : State :=
  { State.reset with
    now := 52000
    regs := (Fld.glbStatus_MAINREADY.key, 1) :: ((Fld.rpmFmap_PFACET (strayFacetOf f)).key, 0) :: regs
    seq := { Sequencer.reset with tasks := [⟨{ wideTask with lf := strayFacetOf f }, .running, 0, 0, 0, 0⟩] }
    facets := [(strayFacetOf f, { Facet.idle with ctxA := { Ctx.idle with task := some 1, cmds := [strayVote] } })]
    power := { Power.reset with phase := .running, hifReset := false } }

/-! ### A port that leaves ACTIVE (R377) -/

/-- The context whose task is aborted. -/
def strayPortWho : Who := ⟨strayFacetOf (Fld.chdPState_STATE 0), 0⟩

/-- Port 0 is enabled and ACTIVE, and a packet of that task is queued on it. -/
def strayPort : State :=
  { strayPart (Fld.chdPState_STATE 0) [((Fld.chdPState_STATE 0).key, 5), ((Fld.chdPCtl_ENABLE 0).key, 1)] with
    ports := [(0, { Port.down with txq := [⟨[], 0, 0, false, none, 64, 0, 1, strayPortWho.lf, strayPortWho.ctx⟩] })] }

/-- The port as the abort of that task finds it. -/
def strayPortDown : State :=
  let s := enterPort (fset strayPort (Fld.chdPCtl_ENABLE 0) 0) 0 0
  setFlag (modPort s 0 (fun _ => { Port.down with since := s.now })) Fld.chdErr_PORTDOWN

theorem strayPort_disabled : exec (.portDisable 0) strayPort = .next (abortTask strayPortDown strayPortWho 9) := rfl

theorem strayPortDown_aborted : abortTask strayPortDown strayPortWho 9 = stopTask strayPortDown strayPortWho 1 9 := rfl

/-- Written, the vote's line counts where the port's STATE stands. -/
theorem strayPort_state (hodd : (Config.freeWord 2).toNat % 2 = 1) : fget (abortTask strayPortDown strayPortWho 9) (Fld.chdPState_STATE 0) = 1 := by
  rw [strayPortDown_aborted, stopTask_eq, workDropped, leavePartial_strayVote (by decide) (by decide) hodd]
  decide

/-- `ChordPortsComeUp` holds only where no vote is written under the draw numbered 2. -/
theorem freeWord_even_of_chordPortsComeUp (h : Obligations.ChordPortsComeUp) : (Config.freeWord 2).toNat % 2 = 0 := by
  refine (Nat.mod_two_eq_zero_or_one _).resolve_right fun hodd => ?_
  obtain ⟨-, -, hdisable, -⟩ := h strayPort 0 (by decide) (by decide)
  obtain ⟨t, ht, hstate, -⟩ := hdisable (by decide) (by decide) (by decide)
  cases strayPort_disabled.symm.trans ht
  rw [strayPort_state hodd] at hstate
  exact absurd hstate (by decide)

/-! ### A READ without an answer (R377) -/

/-- The context whose READ stays without an answer. -/
def strayReadWho : Who := ⟨strayFacetOf Fld.chdCntTimeout_COUNT, 0⟩

/-- Its READ was sent with tag 0, 40 microseconds ago. -/
def strayReader : State :=
  { strayPart Fld.chdCntTimeout_COUNT [] with reads := [(0, ⟨0, 0, 0, true, strayReadWho.lf, strayReadWho.ctx, 1, 0, 0, 0, 16⟩)] }

/-- The part as the abort of that task finds it. -/
def strayReadGone : State := event { strayReader with reads := [] } Fld.chdErr_TIMEOUT Fld.chdCntTimeout_COUNT

theorem strayReader_timeout : exec (.readTimeout 0) strayReader = .next (abortTask strayReadGone strayReadWho 9) := rfl

theorem strayReadGone_aborted : abortTask strayReadGone strayReadWho 9 = stopTask strayReadGone strayReadWho 1 9 := rfl

/-- Written, the vote's line counts as one more READ without an answer. -/
theorem strayReader_count (hodd : (Config.freeWord 2).toNat % 2 = 1) : fget (abortTask strayReadGone strayReadWho 9) Fld.chdCntTimeout_COUNT = 2 := by
  rw [strayReadGone_aborted, stopTask_eq, workDropped, leavePartial_strayVote (by decide) (by decide) hodd]
  decide

/-- `ChordFlitsAndPackets` holds only where no vote is written under the draw numbered 2. -/
theorem freeWord_even_of_chordFlitsAndPackets (h : Obligations.ChordFlitsAndPackets) : (Config.freeWord 2).toNat % 2 = 0 := by
  refine (Nat.mod_two_eq_zero_or_one _).resolve_right fun hodd => ?_
  obtain ⟨-, -, -, -, -, -, htimeout⟩ := h strayReader 0 (by decide) (by decide)
  obtain ⟨t, ht, -, hcount⟩ := htimeout 0 0 ⟨0, 0, 0, true, strayReadWho.lf, strayReadWho.ctx, 1, 0, 0, 0, 16⟩ (by decide) (by decide)
  cases strayReader_timeout.symm.trans ht
  rw [strayReader_count hodd] at hcount
  exact absurd hcount (by decide)

end Sys2Proof.Machine
end

section
/-! A step (log entry 1): the command at the front of the queue runs, or a cycle passes. Every command answers a next state, and reaches neither the queue nor the cycle count. -/

namespace Sys2Proof.Machine

/-! ### Answers -/

/-- A command's answer is a next state. -/
def IsNext (r : Res) : Prop := ∃ t, r = .next t

@[simp] theorem isNext_next (t : State) : IsNext (.next t) := ⟨t, rfl⟩

theorem isNext_ite {p : Prop} [Decidable p] {a b : Res} (ha : IsNext a) (hb : IsNext b) : IsNext (if p then a else b) := by
  split
  · exact ha
  · exact hb

@[simp] theorem isNext_whenever (p : Bool) (s t : State) : IsNext (whenever p s t) := isNext_ite (isNext_next t) (isNext_next s)

/-- A command that is held back, and otherwise does what answers a next state. -/
theorem isNext_heldBack {p : Prop} [Decidable p] {s : State} {r : Res} (h : IsNext r) : IsNext (if p then .next s else r) :=
  isNext_ite (isNext_next s) h

@[simp] theorem isNext_issue (s : State) (w : Who) (srcs dsts : List Reg) (legal : Bool) (k : State → State) : IsNext (issue s w srcs dsts legal k) :=
  isNext_heldBack (isNext_ite (isNext_next _) (isNext_heldBack (isNext_ite (isNext_next _) (isNext_next _))))

theorem isNext_issueWhen (s : State) (w : Who) (srcs dsts : List Reg) (legal room : Bool) (k : State → State) :
    IsNext (issueWhen s w srcs dsts legal room k) :=
  isNext_heldBack (isNext_issue ..)

@[simp] theorem isNext_engine (w : Who) (q : EQueue) (op : State → EOp) (after : Nat) (srcs : List Reg) (d b : Reg) (legal : Bool) (s : State) :
    IsNext (engine w q op after srcs d b legal s) :=
  isNext_heldBack (isNext_issue ..)

theorem isNext_runEntry (s : State) (m i op : Nat) : IsNext (runEntry s m i op) := by
  unfold runEntry
  repeat' split
  all_goals exact isNext_next _

theorem isNext_performPacket (p op : Nat) (act : State → List Byte → State) (s : State) : IsNext (performPacket p op act s) := by
  unfold performPacket
  split
  · exact isNext_next _
  · exact isNext_whenever ..

theorem isNext_mergePacket (p op : Nat) (s : State) : IsNext (mergePacket p op s) := by
  unfold mergePacket
  split
  · exact isNext_next _
  · exact isNext_whenever ..

/-- Every command answers a next state, by the form of its meaning: one that may not be enabled, an instruction that issues, one that finds something first. -/
theorem isNext_exec (c : Instr) (s : State) : IsNext (exec c s) := by
  cases c
  case internalTimerTick | tickInEdge | ptmGridTick | tickSynth | fsqTickctlWrite | runStart | runStop | fsqSwapReq | fsqSwapCancel | expressRequest | stallWatchdog
      | hardLimit | frameReport | fsqRptTailWrite | fsqRptRingConfig | hostRegisterWrite | bar0AccessError | waittTargetReached | semMessageApply | fenceComplete |
      tendComplete | fmemHostFill | fmemHostCopy | fmemGateRequest | fmemGateCancel | fmemWake | bankGated | bar4Access | stsInitDone | farInitDone |
      migrateStatusWriteback | cptPteWrite | permutationLoad | portEnable | portDisable | signalDetected | trainDone | alignDone | bringupTimeout | exchange |
      delayProbe | tickField | laneLost | swapReq | fecFailure | dataFlit | idleFlit | ackTimeout | chipidWrite | ownerTableLoad | linkTraining | qpEnable | qpDisable |
      qpDrained | sqTail | cqHead | busMasterDisable | d3hotEntry | d0Return | functionLevelReset | hotReset | dlDown | ptmExchange | doeRequest | laneMargining |
      setEndpointId | getStatus | setOfflineNone | setOfflineQuiesce | setOfflineReset | setOfflinePowerOff | setPowerCap | readLog | regRead | regWrite | mbxSend |
      mbxFetch | hostMailboxSend | setImageKey | fuseOwner | revoke | commitSvn | limmundBadRequest | requestUpdate | firmwareReadyTimeout | getCertificate | challenge
      | getMeasurements | sensorRead | configCommit | correctedError | facetUe | fmemUe | stsUe | farUe | mergeUe | predictorUe | prismUe | streamEngineUe | updateUe |
      tableUe | fatalError | urgentRetrain | protractorWindow | farStrobeTrack | skewSample | powerCapSample | thermtrip | stbyPwrokRise | stbyPwrokFall | pwrGoodRise |
      pwrGoodTimeout | pwrGoodLoss | powerDownStep | mainFirmwareLoaded | perstNFall | perstNRise | avsCurrentRead | managementFirmwareReady | startUpSelfTestEnd |
      busMasterEnable | functionResetEnd | dynamicAddressAssignment =>
    exact isNext_whenever ..
  case add | sub | andI | orI | xorI | sll | srl | sra | slt | sltu | minS | maxS | minu | maxu | mul | mulh | mulhu | div | divu | rem | remu | clz | ctz | popc |
      fadd | fsub | fmul | fma | fdiv | fsqrt | fmin | fmax | feq | flt | fle | fcvtSW | fcvtWS | fabs | fneg =>
    exact isNext_issue ..
  case jal | jalr | br | dbnz | waitt | mfsr | mtsr | cwait |
      cwaitTry | creset | chpopAcquire | chpopRelease | chflush | fence | tend =>
    unfold exec
    exact isNext_issue ..
  case swait | swaitTry | spost | chpush | chcommit | chcommitRewind =>
    exact isNext_issueWhen ..
  case tdmk | tdrl | strm | stq | lload | lpass | lsplit | ldrainDrain | ldrainFill | cmode | vadd | vmax | vfma | vexp | vrsq | vsig | vred | vcvt | mgpush |
      mgpushEnd | mgdrainOpen | mgdrainWait | pdqQuery | pdqPrefetch | upsign | upvote =>
    exact isNext_engine ..
  case ldW | stW | mfill | mcopy =>
    exact isNext_heldBack (isNext_issue ..)
  case loadImage | admissionEnd | manifestCmd | manifestFetchEnd | expressDispatch | taskRelease | fillCopyComplete | swaitGrant | cwaitSatisfied | chpushGrant |
      gatherFactorChoice | stationaryLoad | blockListFetch | transferStart | transferComplete | mergeJobComplete | weightSetLoad | fmemHostOpDone | gateForced |
      bankWakeDone | migrateCmd | migrationCommit | reservedWindowOpen | reservedWindowClose | permutationStored | bringupRetry | delayEcho | swapAck |
      packetTransmit | readTimeout | mcastStall | ownerTableLoaded | sqFetch | nopCmd | badCommand | verifyComplete | activateFirmware | sliceCopyDone | retrainDone |
      shadowCheckEnd | skewOverrun | clockLoss | facetSwapDone | componentWrite =>
    dsimp only [exec]
    delta execLoadImage execAdmissionEnd execManifestCmd execManifestFetchEnd execExpressDispatch execTaskRelease execFillCopyComplete
      execSwaitGrant execCwaitSatisfied execChpushGrant execGatherFactorChoice execStationaryLoad execBlockListFetch execTransferStart execTransferComplete
      execMergeJobComplete execWeightSetLoad execFmemHostOpDone execGateForced execBankWakeDone execMigrateCmd execMigrationCommit execReservedWindowOpen
      execReservedWindowClose execPermutationStored execBringupRetry execDelayEcho execSwapAck execPacketTransmit execReadTimeout
      execMcastStall execOwnerTableLoaded execSqFetch execNopCmd execBadCommand execVerifyComplete execActivateFirmware execSliceCopyDone execRetrainDone
      execShadowCheckEnd execSkewOverrun execClockLoss execFacetSwapDone execComponentWrite
    split
    all_goals first | exact isNext_next _ | exact isNext_whenever ..
  case fetchPage | fetchMove | evictPage | cleanPage | dropFar | zeroNear | freePage =>
    exact isNext_runEntry s _ _ _
  case writePkt | readPkt | respPkt | postPkt =>
    dsimp only [exec]
    delta execWritePkt execReadPkt execRespPkt execPostPkt
    exact isNext_performPacket ..
  case mergePkt | mergeEndPkt =>
    exact isNext_mergePacket _ _ s
  case retagPage =>
    dsimp only [exec]
    unfold execRetagPage
    split
    · exact isNext_next _
    · exact isNext_runEntry ..
  case facetWindowWrite =>
    exact isNext_heldBack (isNext_ite (isNext_next _) (isNext_ite (isNext_next _) (isNext_heldBack (isNext_next _))))
  case illegalInstruction | commitArrival | packetVisible | packetAcquired | deferredEmptyPost | channelRecordRewrite | engineCommandStart | engineCommandComplete
      | neuronListReady | mergeResultWrite | predictorQueryService | deviceReadError | farFrameRetire =>
    dsimp only [exec, execIllegalInstruction, execCommitArrival, execPacketVisible, execPacketAcquired, execDeferredEmptyPost, execChannelRecordRewrite,
      execEngineCommandStart, execEngineCommandComplete, execNeuronListReady, execMergeResultWrite, execPredictorQueryService, execDeviceReadError,
      execFarFrameRetire]
    repeat' split
    all_goals first | exact isNext_next _ | exact isNext_whenever .. | exact isNext_engine .. | exact isNext_issue ..

/-- Settles O3. -/
theorem everyCommandAnswers : Obligations.EveryCommandAnswers := by
  unfold Obligations.EveryCommandAnswers
  exact isNext_exec

/-- Settles O4: each command's law says that it keeps the queue and the clock. -/
theorem commandsKeepTheQueueAndTheClock : Obligations.CommandsKeepTheQueueAndTheClock := by
  unfold Obligations.CommandsKeepTheQueueAndTheClock
  intro c s t h
  obtain ⟨hpending, hnow, -⟩ := exec_held c s (held_self s) t h
  exact ⟨hpending, hnow⟩

/-! ### Steps -/

/-- Settles O1: it is the definition of a step. -/
theorem stepRunsTheFrontCommand : Obligations.StepRunsTheFrontCommand := by
  unfold Obligations.StepRunsTheFrontCommand
  intro c r s
  rfl

theorem step_idle {s : State} (h : s.pending = []) : step s = .next (clockCycle s) := by
  unfold step
  rw [h]
  rfl

/-- The state after reset, one cycle later. -/
def resetCycleLater : State := { State.reset with now := 1 }

theorem latticesCycle_reset : latticesCycle State.reset = State.reset := by decide

theorem mergeCycle_reset : mergeCycle State.reset = State.reset := by decide

theorem predictorCycle_reset : predictorCycle State.reset = State.reset := by decide

theorem updatesCycle_reset : updatesCycle State.reset = State.reset := by decide

theorem throttleCycle_reset : throttleCycle State.reset = State.reset := by decide

theorem wakeCopies_reset : wakeCopies State.reset = State.reset := by decide

theorem conflictCycle_reset : conflictCycle State.reset = State.reset := by decide

theorem migratingCycle_reset : migratingCycle State.reset = State.reset := by decide

theorem creditCycle_reset : creditCycle State.reset = State.reset := by decide

theorem mgmtCycle_resetCycleLater : mgmtCycle resetCycleLater = resetCycleLater := by decide

theorem powerCycle_resetCycleLater : powerCycle resetCycleLater = resetCycleLater := by decide

theorem expressCycle_resetCycleLater : expressCycle resetCycleLater = resetCycleLater := by decide

/-- At reset no unit has work, so a cycle counts itself alone. -/
theorem clockCycle_reset : clockCycle State.reset = resetCycleLater := by
  rw [clockCycle, latticesCycle_reset, mergeCycle_reset, predictorCycle_reset, updatesCycle_reset, throttleCycle_reset, wakeCopies_reset, conflictCycle_reset,
    migratingCycle_reset, creditCycle_reset]
  change expressCycle (powerCycle (mgmtCycle resetCycleLater)) = resetCycleLater
  rw [mgmtCycle_resetCycleLater, powerCycle_resetCycleLater, expressCycle_resetCycleLater]

/-- Settles O2: a cycle of the clock keeps the queue and counts one; at reset it does nothing else. -/
theorem idleStepPassesOneCycle : Obligations.IdleStepPassesOneCycle := by
  unfold Obligations.IdleStepPassesOneCycle
  refine ⟨fun s hs => ?_, (step_idle rfl).trans (congrArg _ clockCycle_reset)⟩
  obtain ⟨hpending, hnow, -⟩ := clockCycle_held s (held_self s)
  exact ⟨clockCycle s, step_idle hs, rfl, hnow, hpending.trans hs⟩

end Sys2Proof.Machine
end

section
/-! Queue pairs (R394, R396, R401 to R405, R412): ENABLE, doorbells, fetches, the commands that complete at once, failed device reads, Bus Master Enable. -/

namespace Sys2Proof.Machine

/-! ### The registers of a pair -/

theorem qstate_key (q : Nat) : (Fld.hifQState_STATE q).key = (0x20114 + q * 0x20) * 32 + 16 := rfl
theorem qerrcode_key (q : Nat) : (Fld.hifQState_ERRCODE q).key = (0x20114 + q * 0x20) * 32 + 8 := rfl
theorem qenable_key (q : Nat) : (Fld.hifQCfg_ENABLE q).key = (0x20110 + q * 0x20) * 32 + 31 := rfl
theorem qsqsize_key (q : Nat) : (Fld.hifQCfg_SQSIZE q).key = (0x20110 + q * 0x20) * 32 := rfl
theorem qcqsize_key (q : Nat) : (Fld.hifQCfg_CQSIZE q).key = (0x20110 + q * 0x20) * 32 + 16 := rfl
theorem qsqhead_key (q : Nat) : (Fld.hifQSqhead_HEAD q).key = (0x20118 + q * 0x20) * 32 := rfl
theorem cntCmd_key : Fld.hifCntCmd_COUNT.key = 0x20014 * 32 := rfl
theorem cntCplerr_key : Fld.hifCntCplerr_COUNT.key = 0x2001c * 32 := rfl
theorem hifErrQerr_key : Fld.hifErr_QERR.key < 0x20100 * 32 := by decide

/-- HIF_QERR apart, the bit of a pair changes nothing. -/
theorem fget_setQerr_other (s : State) (q : Nat) (v : Bool) {g : Field} (hg : 0x20100 * 32 ≤ g.key) : fget (setQerr s q v) g = fget s g := by
  unfold setQerr
  refine fget_fset_other _ _ _ _ ?_
  split
  · rw [show Fld.hifQerrLo_QP.key = 0x2000c * 32 from rfl]; omega
  · rw [show Fld.hifQerrHi_QP.key = 0x20010 * 32 from rfl]; omega

theorem fget_setQpState_same (s : State) (q st : Nat) : fget (setQpState s q st) (Fld.hifQState_STATE q) = st % 8 := by
  rw [setQpState, fget_setQerr_other _ _ _ (by rw [qstate_key]; omega), fget_fset_same]
  rfl

theorem fget_setQpState_other (s : State) (q st : Nat) {g : Field} (hg : 0x20100 * 32 ≤ g.key) (hne : g.key ≠ (Fld.hifQState_STATE q).key) :
    fget (setQpState s q st) g = fget s g := by
  rw [setQpState, fget_setQerr_other _ _ _ hg, fget_fset_other _ _ _ _ hne]

theorem registerSide_setQpState (s : State) (q st : Nat) : RegisterSide s (setQpState s q st) := rfl

/-! ### Flags of the host interface leave the pairs alone -/

theorem qps_setBits (s : State) (f : Field) (bits : Nat) : (setBits s f bits).hif.qps = s.hif.qps := by
  unfold setBits settle
  dsimp only [modCycle]
  split
  · exact sendVec_qps _ 1
  · rfl

theorem qps_hostErr (s : State) (bar : Nat) (isWrite : Bool) (addr size cause : Nat) : (hostErr s bar isWrite addr size cause).hif.qps = s.hif.qps :=
  qps_setBits _ _ 1

theorem qpOf_of_qps {s t : State} (h : t.hif.qps = s.hif.qps) (q : Nat) : qpOf t q = qpOf s q := by rw [qpOf, h, qpOf]

/-! ### ENABLE (R401, R412) -/

/-- The registers of a pair that starts. -/
def enabledRegs (s : State) (q : Nat) : State :=
  let u := fset (setQpState (fset s (Fld.hifQCfg_ENABLE q) 1) q 1) (Fld.hifQState_ERRCODE q) 0
  fset (fset (fset u (Fld.hifQSqhead_HEAD q) 0) (Fld.hifQCqtail_TAIL q) 0) (Fld.hifQCqtail_PHASE q) 1

theorem fget_enabledRegs (s : State) (q : Nat) :
    let t := enabledRegs s q
    fget t (Fld.hifQState_STATE q) = 1 ∧ fget t (Fld.hifQState_ERRCODE q) = 0 ∧ fget t (Fld.hifQCfg_ENABLE q) = 1 ∧ fget t (Fld.hifQSqhead_HEAD q) = 0
      ∧ fget t (Fld.hifQCqtail_TAIL q) = 0 ∧ fget t (Fld.hifQCqtail_PHASE q) = 1 := by
  unfold enabledRegs
  refine ⟨?_, ?_, ?_, ?_, ?_, ?_⟩ <;>
    simp (disch := simp only [qstate_key, qerrcode_key, qenable_key, qsqhead_key, cqtail_key, cqphase_key]; omega) only
      [fget_fset_other, fget_fset_same, fget_setQpState_other, fget_setQpState_same] <;>
    rfl

theorem registerSide_enabledRegs (s : State) (q : Nat) : RegisterSide s (enabledRegs s q) :=
  ((((((registerSide_self s).fset _ 1).trans (registerSide_setQpState _ q 1)).fset _ 0).fset _ 0).fset _ 0).fset _ 1

theorem startQp_sized {s : State} {q : Nat} (hsq : fget s (Fld.hifQCfg_SQSIZE q) ≠ 0) (hcq : fget s (Fld.hifQCfg_CQSIZE q) ≠ 0) :
    startQp s q = modQp (enabledRegs s q) q (fun p => { p with sqTail := 0, cqHead := 0, gen := p.gen + 1, reserved := 0, arrivals := [] }) := by
  refine if_neg ?_
  rw [fget_fset_other _ _ _ _ (by rw [qsqsize_key, qenable_key]; omega), fget_fset_other _ _ _ _ (by rw [qcqsize_key, qenable_key]; omega)]
  exact not_or_intro hsq hcq

section
variable {s : State} {q : Nat} (hup : hostUp s = true) (hq : q < 64)
include hup hq

theorem execQpEnable_disabled (hst : fget s (Fld.hifQState_STATE q) = 0) : execQpEnable q s = .next (startQp s q) :=
  whenever_true (by rw [hup, qpState, hst, decide_eq_true hq]; rfl)

/-- A pair with both ring sizes at least 1 starts. -/
theorem qpEnable_starts (hst : fget s (Fld.hifQState_STATE q) = 0) (hsq : fget s (Fld.hifQCfg_SQSIZE q) ≠ 0) (hcq : fget s (Fld.hifQCfg_CQSIZE q) ≠ 0) :
    ∃ t, execQpEnable q s = .next t ∧ fget t (Fld.hifQState_STATE q) = 1 ∧ fget t (Fld.hifQState_ERRCODE q) = 0 ∧ fget t (Fld.hifQCfg_ENABLE q) = 1
      ∧ fget t (Fld.hifQSqhead_HEAD q) = 0 ∧ fget t (Fld.hifQCqtail_TAIL q) = 0 ∧ fget t (Fld.hifQCqtail_PHASE q) = 1 ∧ (qpOf t q).sqTail = 0
      ∧ (qpOf t q).cqHead = 0 ∧ (qpOf t q).arrivals = [] ∧ RegisterSide s t := by
  have hregs := fget_enabledRegs s q
  have hside := registerSide_enabledRegs s q
  rw [execQpEnable_disabled hup hq hst, startQp_sized hsq hcq]
  generalize enabledRegs s q = u at hregs hside
  obtain ⟨hstate, hcode, henable, hhead, htail, hphase⟩ := hregs
  refine ⟨_, rfl, hstate, hcode, henable, hhead, htail, hphase, ?_⟩
  rw [qpOf_modQp_same]
  exact ⟨rfl, rfl, rfl, hside.trans rfl⟩

/-- A pair with a ring of size 0 stays DISABLED with ERRCODE 4. -/
theorem qpEnable_refused (hst : fget s (Fld.hifQState_STATE q) = 0) (hsize : fget s (Fld.hifQCfg_SQSIZE q) = 0 ∨ fget s (Fld.hifQCfg_CQSIZE q) = 0) :
    ∃ t, execQpEnable q s = .next t ∧ fget t (Fld.hifQState_STATE q) = 0 ∧ fget t (Fld.hifQState_ERRCODE q) = 4 ∧ t.hif = s.hif ∧ RegisterSide s t := by
  have hsizes : fget (fset s (Fld.hifQCfg_ENABLE q) 1) (Fld.hifQCfg_SQSIZE q) = 0 ∨ fget (fset s (Fld.hifQCfg_ENABLE q) 1) (Fld.hifQCfg_CQSIZE q) = 0 := by
    rwa [fget_fset_other _ _ _ _ (by rw [qsqsize_key, qenable_key]; omega), fget_fset_other _ _ _ _ (by rw [qcqsize_key, qenable_key]; omega)]
  rw [execQpEnable_disabled hup hq hst, startQp]
  dsimp only
  rw [if_pos hsizes]
  refine ⟨_, rfl, ?_, ?_, rfl, rfl⟩
  · rw [fget_fset_other _ _ _ _ (by rw [qstate_key, qerrcode_key]; omega), fget_fset_other _ _ _ _ (by rw [qstate_key, qenable_key]; omega), hst]
  · rw [fget_fset_same]
    rfl

/-- ENABLE cleared: a pair that runs or is in ERROR drains. -/
theorem qpDisable_drains (hst : fget s (Fld.hifQState_STATE q) = 1 ∨ fget s (Fld.hifQState_STATE q) = 3) :
    ∃ t, execQpDisable q s = .next t ∧ fget t (Fld.hifQState_STATE q) = 2 ∧ fget t (Fld.hifQCfg_ENABLE q) = 0 ∧ (qpOf t q).arrivals = []
      ∧ (qpOf t q).live = (qpOf s q).live ∧ RegisterSide s t := by
  have hstate : qpState (fset s (Fld.hifQCfg_ENABLE q) 0) q = qpState s q := fget_fset_other _ _ _ _ (by rw [qstate_key, qenable_key]; omega)
  have hstop : stopQp s q = modQp (setQpState (fset s (Fld.hifQCfg_ENABLE q) 0) q 2) q (fun p => { p with arrivals := [] }) := by
    rw [stopQp]
    dsimp only
    rw [hstate, qpState, if_neg (by omega), if_neg (by omega)]
  refine ⟨_, whenever_true (by rw [hup, decide_eq_true hq]; rfl), ?_⟩
  rw [hstop, qpOf_modQp_same]
  refine ⟨fget_setQpState_same _ q 2, ?_, rfl, rfl, rfl⟩
  refine (fget_setQpState_other _ q 2 ?_ ?_).trans ?_
  · rw [qenable_key]; omega
  · rw [qenable_key, qstate_key]; omega
  · rw [fget_fset_same]
    rfl

end

/-- The last command of a draining pair is over: the pair is DISABLED. -/
theorem qpDrained_disables {s : State} {q : Nat} (hst : fget s (Fld.hifQState_STATE q) = 2) (hlive : (qpOf s q).live = 0) :
    ∃ t, execQpDrained q s = .next t ∧ fget t (Fld.hifQState_STATE q) = 0 ∧ t = { s with regs := t.regs } :=
  ⟨_, whenever_true (by rw [qpState, hst, hlive]; rfl), fget_setQpState_same s q 0, rfl⟩

/-! ### Doorbells (R402, R403) -/

/-- A pair in ERROR: its STATE, its code, the flag. -/
theorem qpError_effect (s : State) (q : Nat) {code : Nat} (hcode : code < 16) :
    let t := qpError s q code
    fget t (Fld.hifQState_STATE q) = 3 ∧ fget t (Fld.hifQState_ERRCODE q) = code ∧ fget t Fld.hifErr_QERR = 1 ∧ RegisterSide s t := by
  refine ⟨?_, ?_, fget_setFlag_same _ _ rfl, ((registerSide_setQpState s q 3).fset _ code).setBits _ 1⟩
  · rw [qpError, setFlag, fget_setBits_other _ _ _ _ (by have h := hifErrQerr_key; rw [qstate_key]; omega),
      fget_fset_other _ _ _ _ (by rw [qstate_key, qerrcode_key]; omega), fget_setQpState_same]
  · rw [qpError, setFlag, fget_setBits_other _ _ _ _ (by have h := hifErrQerr_key; rw [qerrcode_key]; omega), fget_fset_same]
    exact Nat.mod_eq_of_lt hcode

/-- A doorbell of a pair that does not run is logged, and its pair does not change. -/
theorem badDoorbell_effect (s : State) (q addr : Nat) :
    let t := badDoorbell s addr
    fget t Fld.glbHerrInfo_CAUSE = 6 ∧ fget t Fld.glbHerr_ACCESS = 1 ∧ qpOf t q = qpOf s q ∧ RegisterSide s t := by
  obtain ⟨-, -, -, hcause, -, hflag, -⟩ := fget_hostErr s 1 true addr 4 6
  exact ⟨hcause, hflag, qpOf_of_qps (qps_hostErr ..) q, (registerSide_self s).hostErr ..⟩

section
variable {s : State} {q : Nat} (hup : hostUp s = true) (hq : q < 64)
include hup hq

theorem execSqTail_up (v : Nat) : execSqTail q v s = .next (submit s q (v % 2 ^ 32)) := whenever_true (by rw [hup, decide_eq_true hq]; rfl)

theorem execCqHead_up (v : Nat) : execCqHead q v s = .next (freeCq s q (v % 2 ^ 32)) := whenever_true (by rw [hup, decide_eq_true hq]; rfl)

/-- SQ_TAIL inside the ring submits the entries up to it. -/
theorem sqTail_submits {v : Nat} (hv : v < 2 ^ 32) (hst : fget s (Fld.hifQState_STATE q) = 1) (hin : v ≤ fget s (Fld.hifQCfg_SQSIZE q)) :
    ∃ t, execSqTail q v s = .next t ∧ (qpOf t q).sqTail = v
      ∧ (qpOf t q).arrivals.map (·.1) = ringFrom (fget s (Fld.hifQCfg_SQSIZE q) + 1) (fget s (Fld.hifQSqhead_HEAD q)) v ∧ t = { s with hif := t.hif } := by
  rw [execSqTail_up hup hq, Nat.mod_eq_of_lt hv, submit, if_neg (by rw [qpState, hst]; decide), if_neg (by rw [sqCount]; omega)]
  refine ⟨_, rfl, ?_, ?_, rfl⟩
  · rw [qpOf_modQp_same]
  · rw [qpOf_modQp_same]
    simp [Function.comp_def, sqCount]

/-- SQ_TAIL outside the ring makes ERROR with code 1. -/
theorem sqTail_outside {v : Nat} (hv : v < 2 ^ 32) (hst : fget s (Fld.hifQState_STATE q) = 1) (hout : fget s (Fld.hifQCfg_SQSIZE q) < v) :
    execSqTail q v s = .next (qpError s q 1) := by
  rw [execSqTail_up hup hq, Nat.mod_eq_of_lt hv, submit, if_neg (by rw [qpState, hst]; decide), if_pos (by rw [sqCount]; omega)]

theorem execCqHead_ready {v : Nat} (hv : v < 2 ^ 32) (hst : fget s (Fld.hifQState_STATE q) = 1) :
    execCqHead q v s = .next (if fget s (Fld.hifQCfg_CQSIZE q) + 1 ≤ v then qpError s q 2
      else if cqUsed s q < (v + (fget s (Fld.hifQCfg_CQSIZE q) + 1) - (qpOf s q).cqHead % (fget s (Fld.hifQCfg_CQSIZE q) + 1)) % (fget s (Fld.hifQCfg_CQSIZE q) + 1) then qpError s q 3
      else modQp s q (fun p => { p with cqHead := v })) := by
  rw [execCqHead_up hup hq, Nat.mod_eq_of_lt hv, freeCq]
  dsimp only [cqCount]
  rw [if_neg (by rw [qpState, hst]; decide)]
  rfl

/-- A doorbell of a pair that is not READY. -/
theorem doorbell_notReady (v : Nat) (hst : fget s (Fld.hifQState_STATE q) ≠ 1) :
    ∀ c ∈ [Instr.sqTail q v, .cqHead q v], ∃ t, exec c s = .next t ∧ fget t Fld.glbHerrInfo_CAUSE = 6 ∧ fget t Fld.glbHerr_ACCESS = 1 ∧ qpOf t q = qpOf s q ∧ RegisterSide s t := by
  have hsq : submit s q (v % 2 ^ 32) = badDoorbell s (q * 0x1000) := if_pos hst
  have hcq : freeCq s q (v % 2 ^ 32) = badDoorbell s (q * 0x1000 + 4) := if_pos hst
  simp only [List.forall_mem_cons]
  refine ⟨⟨_, (execSqTail_up hup hq v).trans (congrArg _ hsq), badDoorbell_effect s q _⟩, ⟨_, (execCqHead_up hup hq v).trans (congrArg _ hcq), badDoorbell_effect s q _⟩, ?_⟩
  exact fun _ h => by cases h

/-! ### Fetching (R396, R404) -/

/-- A fetch takes the entry at the head, advances it and reserves a completion. -/
theorem sqFetch_takes {i at_ : Nat} {r : List (Nat × Nat)} (hb : s.hif.bme = true) (hst : fget s (Fld.hifQState_STATE q) = 1) (ha : (qpOf s q).arrivals = (i, at_) :: r)
    (hat : at_ ≤ s.now) (hroom : cqFree s q = true) :
    let x := qpOf s q
    let h := fget s (Fld.hifQSqhead_HEAD q)
    let h' := if h + 1 < fget s (Fld.hifQCfg_SQSIZE q) + 1 then h + 1 else 0
    let e := memReadN s.host (sqBase s q + 64 * h) 64
    ∃ t, execSqFetch q s = .next t ∧ (qpOf t q).fetched = x.fetched ++ [⟨q, x.gen, fieldOf e 2 2, h', e, at_⟩] ∧ (qpOf t q).arrivals = r
      ∧ (qpOf t q).reserved = x.reserved + 1 ∧ (qpOf t q).live = x.live + 1 ∧ fget t (Fld.hifQSqhead_HEAD q) = h' % 4096
      ∧ fget t Fld.hifCntCmd_COUNT = (fget s Fld.hifCntCmd_COUNT + 1) % 2 ^ 32 ∧ RegisterSide s t := by
  have hexec : execSqFetch q s = .next (takeSqEntry s q at_) := by
    rw [execSqFetch, ha]
    exact whenever_true (by rw [hup, hb, qpState, hst, decide_eq_true hat, hroom]; rfl)
  have hne : (Fld.hifQSqhead_HEAD q).key ≠ Fld.hifCntCmd_COUNT.key := by rw [qsqhead_key, cntCmd_key]; omega
  have hqp : ∀ f v, qpOf (bump (fset s f v) Fld.hifCntCmd_COUNT 1) q = qpOf s q := fun _ _ => rfl
  intro x h h' e
  refine ⟨_, hexec, ?_, ?_, ?_, ?_, ?_, ?_, rfl⟩
  · rw [takeSqEntry, qpOf_modQp_same]
    rfl
  · rw [takeSqEntry, qpOf_modQp_same, hqp, ha]
    rfl
  · rw [takeSqEntry, qpOf_modQp_same, hqp]
  · rw [takeSqEntry, qpOf_modQp_same, hqp]
  · show fget (bump (fset s _ h') _ 1) _ = _
    rw [bump, fget_fset_other _ _ _ _ hne, fget_fset_same]
    rfl
  · show fget (bump (fset s _ h') _ 1) _ = _
    rw [bump, fget_fset_same, fget_fset_other _ _ _ _ hne.symm]
    rfl

end

/-! ### Bus Master Enable (R396) -/

/-- The writes that waited go to host memory in order, and nowhere else. -/
theorem heldWrites_done (ws : List (Nat × List Byte)) (s : State) :
    ws.foldl (fun s w => { s with host := memWrite s.host w.1 w.2 }) s = { s with host := writesDone s.host ws } := by
  induction ws generalizing s with
  | nil => rfl
  | cons w ws ih => rw [List.foldl_cons, ih]; rfl

theorem busMasterEnable_releases {s : State} (hup : hostUp s = true) (hcpl : s.hif.heldCpl = []) :
    execBusMasterEnable s = .next { s with host := writesDone s.host s.hif.heldWrites, hif := { s.hif with bme := true, heldWrites := [] } } := by
  have hrel : releaseHeld (modHif s (fun h => { h with bme := true })) = { s with host := writesDone s.host s.hif.heldWrites, hif := { s.hif with bme := true, heldWrites := [] } } := by
    unfold releaseHeld
    dsimp only [modHif]
    rw [heldWrites_done, hcpl]
    rfl
  rw [execBusMasterEnable, whenever_true hup, hrel]

/-! ### Commands that complete at once, and failed device reads (R394, R405, R411) -/

@[simp] theorem fetched_writeCpl (s : State) (c : HostCmd) (status result info q : Nat) : (qpOf (writeCpl s c status result info) q).fetched = (qpOf s q).fetched := by
  have h : qpOf (cplWritten s c status result info) q = qpOf s q := by rw [cplWritten, cplRegs_side]; rfl
  rw [writeCpl_eq]
  split
  · rw [qpOf_of_qps (sendVec_qps _ _), h]
  · rw [h]

/-- A completion leaves the commands that wait in its pair. -/
@[simp] theorem fetched_complete (s : State) (c : HostCmd) (status result info q : Nat) : (qpOf (complete s c status result info) q).fetched = (qpOf s q).fetched := by
  have h : (qpOf (released s c) q).fetched = (qpOf s q).fetched := by
    rw [released, qpOf_modQp]
    split
    · split <;> rfl
    · rfl
  rw [complete_cases]
  split
  · exact h
  · split
    · rw [fetched_writeCpl, h]
    · exact h

theorem headCmd_head {s : State} {q op : Nat} {c : HostCmd} (h : headCmd s q op = some c) : (qpOf s q).fetched.head? = some c := by
  unfold headCmd at h
  split at h
  · next hx =>
    split at h
    · rw [hx, ← h]; rfl
    · cases h
  · cases h

/-- The flag and the count of a failed device read leave host memory and the pairs alone. -/
theorem completed_event {s t : State} {c : HostCmd} {head status result info : Nat} (h : Completed s t c head status result info) :
    Completed s (event t Fld.hifErr_CPLERR Fld.hifCntCplerr_COUNT) c head status result info := by
  obtain ⟨hbytes, htail⟩ := h
  have hside := ((registerSide_self t).fset Fld.hifCntCplerr_COUNT (fget t Fld.hifCntCplerr_COUNT + 1)).setBits Fld.hifErr_CPLERR 1
  have hcpl : Fld.hifErr_CPLERR.key < 0x20100 * 32 := by decide
  refine ⟨?_, ?_⟩
  · rw [event, setFlag, bump, hside]
    exact hbytes
  · rw [event, setFlag, fget_setBits_other _ _ _ _ (by rw [cqtail_key]; omega), bump, fget_fset_other _ _ _ _ (by rw [cqtail_key, cntCplerr_key]; omega)]
    exact htail

theorem qps_event (s : State) (f c : Field) : (event s f c).hif.qps = s.hif.qps := qps_setBits _ f 1

theorem fget_event_count (s : State) : fget (event s Fld.hifErr_CPLERR Fld.hifCntCplerr_COUNT) Fld.hifCntCplerr_COUNT = (fget s Fld.hifCntCplerr_COUNT + 1) % 2 ^ 32 := by
  rw [event, setFlag, fget_setBits_other _ _ _ _ (by decide), bump, fget_fset_same]
  rfl

section
variable {s : State} {q : Nat} {c : HostCmd} (hb : s.hif.bme = true) (he : c.entry ≠ []) (hw : cplWanted s c = true)
include hb he hw

/-- The first command of a pair taken and completed. -/
theorem completed_popped (status result info : Nat) :
    let t := complete (popCmd s q) c status result info
    Completed s t c c.sqHead status result info ∧ (qpOf t q).fetched = (qpOf s q).fetched.drop 1 ∧ t.seq = s.seq :=
  ⟨completed_of_entry status result info he ((cplWanted_popCmd s q c).trans hw) hb fun _ _ => rfl,
    (fetched_complete ..).trans (qpOf_popCmd_fetched s q), complete_seq ..⟩

theorem nopCmd_completes (hc : headCmd s q 0 = some c) :
    ∃ t, execNopCmd q s = .next t ∧ Completed s t c c.sqHead 0 0 0 ∧ (qpOf t q).fetched = (qpOf s q).fetched.drop 1 ∧ t.seq = s.seq :=
  ⟨_, by rw [execNopCmd, hc], completed_popped hb he hw 0 0 0⟩

theorem badCommand_completes (hc : (qpOf s q).fetched.head? = some c) (hok : c.ok = false) :
    ∃ t, execBadCommand q s = .next t ∧ Completed s t c c.sqHead 9 0 (infoUnread s.free c) ∧ (qpOf t q).fetched = (qpOf s q).fetched.drop 1 ∧ t.seq = s.seq := by
  obtain ⟨r, hr⟩ := List.head?_eq_some_iff.mp hc
  have hexec : execBadCommand q s = .next (drawn (complete (popCmd s q) c 9 0 (infoUnread s.free c))) := by
    rw [execBadCommand, hr]
    exact whenever_true (by rw [hok]; rfl)
  exact ⟨_, hexec, completed_popped hb he hw 9 0 _⟩

/-- A MIGRATE whose fetch failed completes with HOST_FAULT (R394). -/
theorem deviceReadError_command (hc : (qpOf s q).fetched.head? = some c) (hok : c.ok = true) (hop : c.opcode = 4) (hup : hostUp s = true)
    (hman : ∀ m ∈ s.seq.manifests, m.cmd.qp = q → m.done = true) :
    ∃ t, execDeviceReadError (.command q) s = .next t ∧ Completed s t c c.sqHead 10 0 c.frame ∧ (qpOf t q).fetched = (qpOf s q).fetched.drop 1
      ∧ fget t Fld.hifErr_CPLERR = 1 ∧ fget t Fld.hifCntCplerr_COUNT = (fget s Fld.hifCntCplerr_COUNT + 1) % 2 ^ 32 := by
  obtain ⟨r, hr⟩ := List.head?_eq_some_iff.mp hc
  have hnone : s.seq.manifests.find? (fun m => decide (m.cmd.qp = q) && !m.done) = none :=
    List.find?_eq_none.mpr fun m hm h => by
      simp only [Bool.and_eq_true, decide_eq_true_eq, Bool.not_eq_true'] at h
      exact Bool.eq_false_iff.mp h.2 (hman m hm h.1)
  have hfetch : fetchingCmd s q = some (popCmd s q, c) := by
    unfold fetchingCmd
    dsimp only
    rw [hnone, hr]
    exact if_pos (by rw [hok, hop]; rfl)
  have hread : entriesRead s.free c = 0 := if_neg (by rw [hop]; decide)
  have hinfo : infoUnread s.free c = c.frame := by
    rw [infoUnread, show fieldOf c.entry 0 1 = 4 from hop]
    rfl
  obtain ⟨hdone, hfetched, -⟩ := completed_popped (q := q) hb he hw 10 0 c.frame
  have hexec : execDeviceReadError (.command q) s
      = .next (event (drawn (complete (popCmd s q) c 10 0 c.frame)) Fld.hifErr_CPLERR Fld.hifCntCplerr_COUNT) := by
    rw [execDeviceReadError, hfetch]
    dsimp only
    rw [whenever_true (by rw [hup, hb]; rfl), hread, hinfo]
  refine ⟨_, hexec, completed_event hdone, (congrArg Qp.fetched (qpOf_of_qps (qps_event ..) q)).trans hfetched, fget_setFlag_same _ _ rfl, ?_⟩
  rw [fget_event_count]
  refine congrArg (fun n => (n + 1) % 2 ^ 32) ((fget_complete_other _ c 10 0 c.frame ?_ ?_ ?_).trans rfl)
  · rw [cntCplerr_key, cqtail_key]; omega
  · rw [cntCplerr_key, cqphase_key]; omega
  · decide

end

/-- A running task whose device read failed is aborted with reason HOST_FAULT, 9 (R394). -/
theorem deviceReadError_task {s : State} {w : Who} {id : Nat} {r : TaskRec} (hup : hostUp s = true) (hw : (ctxOf s w).task = some id) (hr : taskRec s id = some r)
    (hrun : r.phase = .running) (hwho : r.entry.who = w) :
    ∃ t, execDeviceReadError (.task w) s = .next t ∧ ctxBusy t w = false ∧ taskRec t id = some { r with phase := .ended, status := 1, reason := 9, stop := tcyc s }
      ∧ fget t Fld.hifErr_CPLERR = 1 := by
  have hbusy : ctxBusy s w = true := by rw [ctxBusy, hw]; rfl
  have hexec : execDeviceReadError (.task w) s = .next (event (abortId s id 9) Fld.hifErr_CPLERR Fld.hifCntCplerr_COUNT) := by
    rw [execDeviceReadError, whenever_true (by rw [hup, hbusy]; rfl), abortTask, hw]
  obtain ⟨hidle, hrec⟩ := abortId_effect hr hrun (reason := 9) (by decide)
  rw [hwho] at hidle
  have hside : RegisterSide (abortId s id 9) (event (abortId s id 9) Fld.hifErr_CPLERR Fld.hifCntCplerr_COUNT) := ((registerSide_self _).fset _ _).setBits _ 1
  refine ⟨_, hexec, ?_, ?_, fget_setFlag_same _ _ rfl⟩
  · rw [hside]
    exact hidle
  · rw [hside]
    exact hrec

/-- Settles O46, clause by clause. -/
theorem queuePairsRun : Obligations.QueuePairsRun := by
  unfold Obligations.QueuePairsRun
  intro s q hq
  refine ⟨fun hup => ⟨qpEnable_starts hup hq, qpEnable_refused hup hq, qpDisable_drains hup hq, ?_, ?_, ?_, ?_, ?_, ?_, ?_, ?_, ?_⟩, qpDrained_disables, ?_, ?_⟩
  · exact fun v hv => sqTail_submits hup hq hv
  · intro v hv hst hout
    exact ⟨_, sqTail_outside hup hq hv hst hout, qpError_effect s q (by decide)⟩
  · intro v hv hst hin hfree
    refine ⟨_, (execCqHead_ready hup hq hv hst).trans (congrArg _ ((if_neg (by omega)).trans (if_neg (by omega)))), ?_, rfl⟩
    rw [qpOf_modQp_same]
  · intro v hv hst hout
    obtain ⟨hstate, hcode, -, hside⟩ := qpError_effect s q (code := 2) (by decide)
    exact ⟨_, (execCqHead_ready hup hq hv hst).trans (congrArg _ (if_pos (by omega))), hstate, hcode, hside⟩
  · intro v hv hst hin hused
    obtain ⟨hstate, hcode, -, hside⟩ := qpError_effect s q (code := 3) (by decide)
    exact ⟨_, (execCqHead_ready hup hq hv hst).trans (congrArg _ ((if_neg (by omega)).trans (if_pos hused))), hstate, hcode, hside⟩
  · exact doorbell_notReady hup hq
  · exact fun i at_ r => sqFetch_takes hup hq
  · exact ⟨_, whenever_true hup, rfl⟩
  · exact busMasterEnable_releases hup
  · rintro c hb he - hw
    exact ⟨nopCmd_completes hb he hw, badCommand_completes hb he hw, deviceReadError_command hb he hw⟩
  · exact fun w id r => deviceReadError_task

end Sys2Proof.Machine
end

section
/-! Keys, counters, firmware updates and attestation (R428 to R437). -/

namespace Sys2Proof.Machine

/-! ### Limmund commands that are answered (R422, R423) -/

theorem limmund_sideband {s : State} (h : mgmtServes s .sideband = true) (sideOnly : Bool) (act : State → State) : limmund .sideband sideOnly s act = .next (act s) := by
  have hact : (if sideOnly && decide (Binding.sideband = Binding.pcie) then reply s .sideband 2 [] else act s) = act s := if_neg (by simp)
  rw [limmund, whenever_true h, hact]

theorem setBit_zero (i : Nat) : setBit 0 i = 2 ^ i := by
  rw [setBit, bitSet_eq_testBit, Nat.zero_testBit, if_neg Bool.false_ne_true, Nat.zero_add]

theorem ofBe_lt (bs : List Byte) : ofBe bs < 256 ^ bs.length := by
  have h : ∀ a, bs.foldl (fun a b => a * 256 + b.toNat) a < (a + 1) * 256 ^ bs.length := by
    induction bs with
    | nil => simp
    | cons b r ih =>
      intro a
      have hb : b.toNat < 256 := b.isLt
      calc (b :: r).foldl (fun a b => a * 256 + b.toNat) a < (a * 256 + b.toNat + 1) * 256 ^ r.length := ih _
        _ ≤ ((a + 1) * 256) * 256 ^ r.length := Nat.mul_le_mul_right _ (by omega)
        _ = (a + 1) * 256 ^ (b :: r).length := by rw [List.length_cons, pow_succ']; ring
  simpa [ofBe] using h 0

/-! ### The image key (R432) -/

/-- The words of an image key in their registers. -/
def oikWords (s : State) (key : List Byte) : State := (List.range 16).foldl (fun s i => fset s (Fld.secOik_KEY i) (ofBe (sliceOf key (4 * i) 4))) s

theorem oik_key (i : Nat) : (Fld.secOik_KEY i).key = (0xf0040 + i * 4) * 32 := rfl

theorem fget_oikWords (s : State) (key : List Byte) {i : Nat} (hi : i < 16) : fget (oikWords s key) (Fld.secOik_KEY i) = ofBe (sliceOf key (4 * i) 4) := by
  have hinj : ∀ i j, (Fld.secOik_KEY i).key = (Fld.secOik_KEY j).key → i = j := fun i j h => by
    rw [oik_key, oik_key] at h
    omega
  have hlt := ofBe_lt (sliceOf key (4 * i) 4)
  rw [sliceOf_length] at hlt
  exact (fget_putFields hinj (fun i => ofBe (sliceOf key (4 * i) 4)) List.nodup_range (List.mem_range.mpr hi) s).trans (Nat.mod_eq_of_lt hlt)

theorem installKey_eq (s : State) (key : List Byte) :
    let u := fset (fset (oikWords s key) Fld.secOikCtl_VALID 1) Fld.secOikCtl_LOCK 1
    let v := fset u Fld.secOikCtl_SLOT ((ownerSlot u key).getD 0)
    installKey s key = fset v Fld.secStatus_UNOWNED (bitNat v.mgmt.storedUnowned) := rfl

/-- The registers of an installed key: its words, valid and locked; nothing but registers changes. -/
theorem installKey_effect (s : State) (key : List Byte) :
    let t := installKey s key
    fget t Fld.secOikCtl_VALID = 1 ∧ fget t Fld.secOikCtl_LOCK = 1 ∧ (∀ i < 16, fget t (Fld.secOik_KEY i) = ofBe (sliceOf key (4 * i) 4)) ∧ t = { s with regs := t.regs } := by
  have hwords := fun i (hi : i < 16) => fget_oikWords s key hi
  have hside : oikWords s key = { s with regs := (oikWords s key).regs } := (onlyFields_putFields Fld.secOik_KEY _ (List.range 16) s).1
  rw [installKey_eq]
  dsimp only
  generalize oikWords s key = u at hwords hside
  generalize (ownerSlot (fset (fset u Fld.secOikCtl_VALID 1) Fld.secOikCtl_LOCK 1) key).getD 0 = slot
  refine ⟨?_, ?_, fun i hi => ?_, ?_⟩
  · simp (disch := decide) only [fget_fset_other, fget_fset_same]
    rfl
  · simp (disch := decide) only [fget_fset_other, fget_fset_same]
    rfl
  · have hne : ∀ f : Field, f.key < 0xf0040 * 32 → (Fld.secOik_KEY i).key ≠ f.key := fun f hf => by rw [oik_key]; omega
    simp (disch := (apply hne; decide)) only [fget_fset_other]
    exact hwords i hi
  · rw [hside]
    rfl

/-- The manager's record of a key it was given. -/
def keyStored (s : State) (key : List Byte) : State := modMgmt s (fun m => { m with storedKey := some key, storedUnowned := decide (fget s Fld.secStatus_OWNERFUSED = 0) })

/-- The signer of a revocation: a live key of the same class. -/
def revoker (s : State) (cls : Nat) (pub : List Byte) : Option Nat := if cls = 0 then vendorSlot s pub else ownerSlot s pub

/-- What REVOKE's signature covers. -/
def revokeText (cls slot : Nat) : List Byte := leBytes 1 0x0B ++ leBytes 1 cls ++ leBytes 1 slot

section
variable {s : State} (hserve : mgmtServes s .sideband = true)
include hserve

theorem setImageKey_stored {key : List Byte} (hlen : key.length = 64) (howner : ownerSlot s key ≠ none ∨ fget s Fld.secStatus_OWNERFUSED = 0)
    (hlock : fget s Fld.secOikCtl_LOCK = 0) :
    execSetImageKey .sideband key s = .next (if mainReady s then reply (installKey (keyStored s key) key) .sideband 0 [] else reply (keyStored s key) .sideband 6 []) := by
  have hfused : ¬ (fget s Fld.secStatus_OWNERFUSED ≠ 0 ∧ ownerSlot s key = none) := fun ⟨hfused, hnone⟩ => howner.elim (fun h => h hnone) hfused
  have hunlocked : fon s Fld.secOikCtl_LOCK = false := by rw [fon, hlock]; rfl
  have hstored : (mainReady (keyStored s key) && !fon (keyStored s key) Fld.secOikCtl_LOCK) = mainReady s := by
    show (mainReady s && !fon s Fld.secOikCtl_LOCK) = mainReady s
    rw [hunlocked, Bool.not_false, Bool.and_true]
  rw [execSetImageKey, limmund_sideband hserve]
  dsimp only
  rw [if_neg (by omega), if_neg hfused, hunlocked, Bool.false_and, if_neg Bool.false_ne_true]
  exact congrArg _ (by rw [← hstored]; rfl)

theorem setImageKey_effect {key : List Byte} (hlen : key.length = 64) (howner : ownerSlot s key ≠ none ∨ fget s Fld.secStatus_OWNERFUSED = 0)
    (hlock : fget s Fld.secOikCtl_LOCK = 0) :
    ∃ t, execSetImageKey .sideband key s = .next t ∧ t.mgmt.storedKey = some key ∧ t.outs = s.outs ++ [⟨s.now, .limmund .sideband (if mainReady s then 0 else 6) []⟩]
      ∧ t = { s with regs := t.regs, mgmt := t.mgmt, outs := t.outs }
      ∧ (mainReady s = true → fget t Fld.secOikCtl_VALID = 1 ∧ fget t Fld.secOikCtl_LOCK = 1 ∧ ∀ i < 16, fget t (Fld.secOik_KEY i) = ofBe (sliceOf key (4 * i) 4))
      ∧ (mainReady s = false → t.regs = s.regs) := by
  rw [setImageKey_stored hserve hlen howner hlock]
  refine ⟨_, rfl, ?_⟩
  cases hready : mainReady s with
  | false => exact ⟨rfl, rfl, rfl, fun h => absurd h Bool.false_ne_true, fun _ => rfl⟩
  | true =>
    obtain ⟨hvalid, hlocked, hwords, hside⟩ := installKey_effect (keyStored s key) key
    rw [if_pos rfl]
    generalize installKey (keyStored s key) key = u at hvalid hlocked hwords hside
    refine ⟨?_, ?_, ?_, fun _ => ⟨hvalid, hlocked, hwords⟩, fun h => absurd h.symm Bool.false_ne_true⟩
    · rw [hside]; rfl
    · rw [hside]; rfl
    · rw [hside]; rfl

theorem setImageKey_refused {key : List Byte} (hlen : key.length = 64) (hfused : fget s Fld.secStatus_OWNERFUSED ≠ 0) (hnone : ownerSlot s key = none) :
    execSetImageKey .sideband key s = .next (reply s .sideband 4 []) := by
  rw [execSetImageKey, limmund_sideband hserve]
  dsimp only
  rw [if_neg (by omega), if_pos ⟨hfused, hnone⟩]

/-! ### Fuses (R431, R433) -/

theorem fuseOwner_first {slot : Nat} {hash sig pub : List Byte} (hslot : slot < 4) (hhash : hash.length = 32) (hsig : sig.length = 64)
    (hfused : fget s Fld.secStatus_OWNERFUSED = 0) (hoffline : 2 ≤ fget s Fld.mgtStatus_OFFLINE) :
    ∃ t, execFuseOwner .sideband slot hash sig pub s = .next t ∧ fget t Fld.secStatus_OWNERFUSED = 2 ^ slot ∧ mapFind t.mgmt.ownerHash slot = some hash
      ∧ Answers s t .sideband 0 [] ∧ t = { s with regs := t.regs, mgmt := t.mgmt, outs := t.outs } := by
  have hfree : bitSet 0 slot = false := by rw [bitSet_eq_testBit, Nat.zero_testBit]
  rw [execFuseOwner, limmund_sideband hserve]
  dsimp only
  rw [if_neg (by omega), hfused, hfree, if_pos rfl, decide_eq_true hoffline, if_neg (by decide), setBit_zero]
  refine ⟨_, rfl, ?_, mapFind_mapPut_same _ _ _, rfl, rfl⟩
  show fget (fset s Fld.secStatus_OWNERFUSED (2 ^ slot)) Fld.secStatus_OWNERFUSED = 2 ^ slot
  rw [fget_fset_same]
  exact Nat.mod_eq_of_lt (Nat.pow_lt_pow_right (by decide) hslot)

theorem fuseOwner_fused {slot : Nat} {hash sig : List Byte} (pub : List Byte) (hslot : slot < 4) (hhash : hash.length = 32) (hsig : sig.length = 64)
    (hset : bitSet (fget s Fld.secStatus_OWNERFUSED) slot = true) : execFuseOwner .sideband slot hash sig pub s = .next (reply s .sideband 4 []) := by
  rw [execFuseOwner, limmund_sideband hserve]
  dsimp only
  rw [if_neg (by omega), hset, Bool.true_or, if_pos rfl]

theorem revoke_signed {cls slot k : Nat} {sig pub : List Byte} (hcls : cls ≤ 1) (hslot : slot < 4) (hsig : sig.length = 64) (hsigner : revoker s cls pub = some k)
    (hk : k ≠ slot) (hok : ecdsaVerify pub (sha256 (revokeText cls slot)) sig = true) :
    execRevoke .sideband cls slot sig pub s = .next (if cls = 0 then reply (modMgmt s (fun m => { m with vendorRevoked := setBit m.vendorRevoked slot })) .sideband 0 []
      else reply (fset s Fld.secStatus_OWNERREVOKED (setBit (fget s Fld.secStatus_OWNERREVOKED) slot)) .sideband 0 []) := by
  rw [revoker] at hsigner
  rw [revokeText] at hok
  rw [execRevoke, limmund_sideband hserve]
  dsimp only
  rw [if_neg (by omega), hsigner, hok, if_neg (by simp [hk])]

theorem revoke_unsigned {cls slot : Nat} {sig pub : List Byte} (hcls : cls ≤ 1) (hslot : slot < 4) (hsig : sig.length = 64)
    (hbad : ecdsaVerify pub (sha256 (revokeText cls slot)) sig = false) : execRevoke .sideband cls slot sig pub s = .next (reply s .sideband 4 []) := by
  rw [revokeText] at hbad
  rw [execRevoke, limmund_sideband hserve]
  dsimp only
  rw [if_neg (by omega), hbad, Bool.not_false, Bool.or_true, if_pos rfl]

theorem commitSvn_management (hslot : fget s Fld.secBoot_MGTSLOT = s.mgmt.active1) :
    ∃ t, execCommitSvn .sideband 1 s = .next t ∧ fget t Fld.secSvn_MGT = max (fget s Fld.secSvn_MGT) (fieldOf (fwHeader s 1 s.mgmt.active1) 7 1) % 256 ∧ Answers s t .sideband 0 [] := by
  have hrunning : ¬ ((if 1 = 1 then fget s Fld.secBoot_MGTSLOT else if 1 = 2 then fget s Fld.secBoot_MAINSLOT else fget s Fld.secBoot_PROTSLOT) ≠ activeSlot s 1
      ∨ (1 ≠ 1 ∧ s.power.bootedMain = false)) := by
    rw [if_pos rfl, hslot, activeSlot, if_pos rfl]
    simp
  rw [execCommitSvn, limmund_sideband hserve]
  dsimp only
  rw [if_neg (by decide), if_neg hrunning]
  exact ⟨_, rfl, fget_fset_same s Fld.secSvn_MGT _, rfl⟩

end

/-! ### Firmware updates (R436, R437) -/

theorem requestUpdate_free {s : State} {b : Binding} (hserve : mctpServes s b = true) (hnone : s.mgmt.update = none) :
    ∃ t, execRequestUpdate b s = .next t ∧ t.mgmt.update = some ⟨b, []⟩ ∧ t.outs = s.outs ++ [⟨s.now, .mctp b [0#8]⟩] ∧ (mgmtState s = 1 → mgmtState t = 3) := by
  rw [execRequestUpdate, whenever_true hserve, hnone]
  dsimp only
  refine ⟨_, rfl, ?_, ?_, fun hstate => ?_⟩
  · split <;> rfl
  · split <;> rfl
  · rw [if_pos (show mgmtState (modMgmt s _) = 1 from hstate)]
    exact fget_fset_same _ Fld.mgtStatus_STATE 3

theorem requestUpdate_taken {s : State} {b : Binding} {u : Update} (hserve : mctpServes s b = true) (hu : s.mgmt.update = some u) :
    execRequestUpdate b s = .next (emit s (.mctp b [0x8E#8])) := by
  rw [execRequestUpdate, whenever_true hserve, hu]

section
variable {s : State} {u : Update} {comp : Nat} (hu : s.mgmt.update = some u) (hserve : mctpServes s u.agent = true) (hlow : 1 ≤ comp) (hhigh : comp ≤ 3)
include hu hserve hlow hhigh

theorem componentWrite_effect {o : Nat} {data : List Byte} (hroom : o + data.length ≤ (slotPlace comp (1 - activeSlot s comp)).2) :
    let p := slotPlace comp (1 - activeSlot s comp)
    ∃ t, execComponentWrite comp o data s = .next t ∧ memReadN t.flash (p.1 + o) data.length = data
      ∧ (∀ y, y < p.1 + o ∨ p.1 + o + data.length ≤ y → memRead t.flash y = memRead s.flash y) ∧ t.mgmt.update = some { u with verified := u.verified.filter (· ≠ comp) } ∧ t.regs = s.regs := by
  intro p
  have hexec : execComponentWrite comp o data s = .next (modMgmt { s with flash := memWrite s.flash (p.1 + o) data } (fun m => { m with update := some { u with verified := u.verified.filter (· ≠ comp) } })) := by
    rw [execComponentWrite, hu]
    exact whenever_true (by rw [hserve, decide_eq_true ⟨hlow, hhigh⟩, decide_eq_true hroom]; rfl)
  exact ⟨_, hexec, memReadN_memWrite_same _ _ rfl, fun y hy => memRead_memWrite_out _ _ _ hy, rfl, rfl⟩

theorem verifyComplete_accepted (hok : fwAccepted s comp (1 - activeSlot s comp) = true) :
    ∃ t, execVerifyComplete comp s = .next t ∧ (∃ v, t.mgmt.update = some v ∧ v.agent = u.agent ∧ comp ∈ v.verified) ∧ t = { s with mgmt := t.mgmt } := by
  rw [execVerifyComplete, hu]
  dsimp only
  rw [whenever_true (by rw [hserve, decide_eq_true ⟨hlow, hhigh⟩]; rfl), if_pos hok]
  refine ⟨_, rfl, ⟨_, rfl, rfl, ?_⟩, rfl⟩
  dsimp only
  split
  · next h => exact List.contains_iff_mem.mp h
  · exact List.mem_append_right _ (List.mem_singleton.mpr rfl)

theorem verifyComplete_refused (hbad : fwAccepted s comp (1 - activeSlot s comp) = false) :
    ∃ t, execVerifyComplete comp s = .next t ∧ t.mgmt = s.mgmt ∧ fget t Fld.secErr_FWFAIL = 1 ∧ fget t Fld.secCntFwfail_COUNT = (fget s Fld.secCntFwfail_COUNT + 1) % 2 ^ 32 := by
  rw [execVerifyComplete, hu]
  dsimp only
  rw [whenever_true (by rw [hserve, decide_eq_true ⟨hlow, hhigh⟩]; rfl), if_neg (Bool.eq_false_iff.mp hbad)]
  have hside : RegisterSide s (fwRefused s) := (registerSide_self s).event _ _
  refine ⟨_, rfl, ?_, fget_setFlag_same _ _ rfl, ?_⟩
  · rw [hside]
  · rw [fwRefused, event, setFlag, fget_setBits_other _ _ _ _ (by decide), bump, fget_fset_same]
    rfl

end

/-! ### Activation (R436, R437) -/

/-- Only the boot record has changed. -/
def OnlyActive (s t : State) : Prop :=
  t = { s with mgmt := { s.mgmt with active1 := t.mgmt.active1, active2 := t.mgmt.active2, active3 := t.mgmt.active3 } }

theorem onlyActive_setActive (s : State) (c slot : Nat) : OnlyActive s (setActive s c slot) := by
  unfold OnlyActive setActive
  dsimp only [modMgmt]
  split
  · rfl
  · split <;> rfl

theorem activeSlot_setActive (s : State) {c d : Nat} (slot : Nat) (hc : c = 1 ∨ c = 2 ∨ c = 3) (hd : d = 1 ∨ d = 2 ∨ d = 3) :
    activeSlot (setActive s c slot) d = if d = c then slot else activeSlot s d := by
  rcases hc with rfl | rfl | rfl <;> rcases hd with rfl | rfl | rfl <;> rfl

/-- The slots of some components exchanged. -/
def swapped (s : State) (cs : List Nat) : State := cs.foldl (fun s c => setActive s c (1 - activeSlot s c)) s

theorem onlyActive_swapped (cs : List Nat) (s : State) : OnlyActive s (swapped s cs) := by
  induction cs generalizing s with
  | nil => rfl
  | cons c cs ih =>
    have hfirst := onlyActive_setActive s c (1 - activeSlot s c)
    have hrest := ih (setActive s c (1 - activeSlot s c))
    show OnlyActive s (swapped (setActive s c (1 - activeSlot s c)) cs)
    unfold OnlyActive at *
    rw [hrest, hfirst]

theorem activeSlot_swapped {cs : List Nat} (hnd : cs.Nodup) (hcs : ∀ c ∈ cs, c = 1 ∨ c = 2 ∨ c = 3) {d : Nat} (hd : d = 1 ∨ d = 2 ∨ d = 3) (s : State) :
    activeSlot (swapped s cs) d = if d ∈ cs then 1 - activeSlot s d else activeSlot s d := by
  induction cs generalizing s with
  | nil => rfl
  | cons c cs ih =>
    obtain ⟨hc, hcs⟩ := List.forall_mem_cons.mp hcs
    obtain ⟨hnot, hnd⟩ := List.nodup_cons.mp hnd
    show activeSlot (swapped (setActive s c (1 - activeSlot s c)) cs) d = _
    rw [ih hnd hcs, activeSlot_setActive s _ hc hd]
    by_cases h : d = c
    · subst h
      simp [hnot]
    · simp [h]

/-- An activation acknowledged, its boot record written. -/
def acknowledged (s : State) (u : Update) : State := swapped (modMgmt (emit s (.mctp u.agent [0#8])) (fun m => { m with update := none })) u.verified

/-- An update over: the manager is ready again. -/
def updateOver (s : State) : State := if mgmtState s = 3 then fset s Fld.mgtStatus_STATE 1 else s

theorem mgmtState_updateOver (s : State) : mgmtState (updateOver s) = if mgmtState s = 3 then 1 else mgmtState s := by
  unfold updateOver
  split
  · exact fget_fset_same s Fld.mgtStatus_STATE 1
  · rfl

theorem updateOver_side (s : State) : updateOver s = { s with regs := (updateOver s).regs } := by
  unfold updateOver
  split <;> rfl

theorem activateFirmware_eq {s : State} {u : Update} (hu : s.mgmt.update = some u) (hserve : mctpServes s u.agent = true) :
    execActivateFirmware s = .next (if u.verified.contains 1 then modMgmt (updateOver (acknowledged s u)) (fun m => { m with
        switchFrom := some s.mgmt.active1, switchAt := some ((updateOver (acknowledged s u)).now + cyclesOf 5000) })
      else updateOver (acknowledged s u)) := by
  rw [execActivateFirmware, hu]
  exact whenever_true hserve

theorem activateFirmware_effect {s : State} {u : Update} (hu : s.mgmt.update = some u) (hserve : mctpServes s u.agent = true) (hnd : u.verified.Nodup)
    (hcs : ∀ c ∈ u.verified, c = 1 ∨ c = 2 ∨ c = 3) :
    ∃ t, execActivateFirmware s = .next t ∧ t.mgmt.update = none ∧ t.outs = s.outs ++ [⟨s.now, .mctp u.agent [0#8]⟩] ∧ t = { s with regs := t.regs, mgmt := t.mgmt, outs := t.outs }
      ∧ (∀ c ∈ [1, 2, 3], activeSlot t c = if c ∈ u.verified then 1 - activeSlot s c else activeSlot s c) ∧ mgmtState t = (if mgmtState s = 3 then 1 else mgmtState s)
      ∧ (1 ∈ u.verified → t.mgmt.switchFrom = some s.mgmt.active1 ∧ t.mgmt.switchAt = some (s.now + 6500000))
      ∧ (1 ∉ u.verified → t.mgmt.switchFrom = s.mgmt.switchFrom ∧ t.mgmt.switchAt = s.mgmt.switchAt) := by
  have hack : OnlyActive (modMgmt (emit s (.mctp u.agent [0#8])) (fun m => { m with update := none })) (acknowledged s u) := onlyActive_swapped _ _
  have hslots : ∀ c ∈ [1, 2, 3], activeSlot (acknowledged s u) c = if c ∈ u.verified then 1 - activeSlot s c else activeSlot s c := fun c hc =>
    activeSlot_swapped hnd hcs (by simpa using hc) _
  have hstate := mgmtState_updateOver (acknowledged s u)
  have hover := updateOver_side (acknowledged s u)
  have hack' : mgmtState (acknowledged s u) = mgmtState s := by rw [hack]; rfl
  rw [activateFirmware_eq hu hserve]
  generalize updateOver (acknowledged s u) = v at hstate hover
  generalize acknowledged s u = a at hack hslots hstate hover hack'
  have hmgmt : v.mgmt = { s.mgmt with update := none, active1 := a.mgmt.active1, active2 := a.mgmt.active2, active3 := a.mgmt.active3 } := by rw [hover, hack]; rfl
  have hside : v = { s with regs := v.regs, mgmt := v.mgmt, outs := s.outs ++ [⟨s.now, .mctp u.agent [0#8]⟩] } := by rw [hover, hack]; rfl
  have hslots' : ∀ c ∈ [1, 2, 3], activeSlot v c = if c ∈ u.verified then 1 - activeSlot s c else activeSlot s c := fun c hc => by
    rw [← hslots c hc, activeSlot, hover, activeSlot]
  have houts : v.outs = s.outs ++ [⟨s.now, .mctp u.agent [0#8]⟩] := by rw [hside]
  have hnow : v.now = s.now := by rw [hside]
  rw [hack'] at hstate
  refine ⟨_, rfl, ?_⟩
  by_cases hone : 1 ∈ u.verified
  · rw [if_pos (List.contains_iff_mem.mpr hone)]
    refine ⟨?_, houts, ?_, hslots', hstate, fun _ => ⟨rfl, ?_⟩, fun h => absurd hone h⟩
    · dsimp only [modMgmt]
      rw [hmgmt]
    · rw [hside]
      rfl
    · dsimp only [modMgmt]
      rw [hnow]
      rfl
  · rw [if_neg (mt List.contains_iff_mem.mp hone)]
    refine ⟨?_, houts, ?_, hslots', hstate, fun h => absurd h hone, fun _ => ⟨?_, ?_⟩⟩
    · rw [hmgmt]
    · rw [houts]; exact hside
    · rw [hmgmt]
    · rw [hmgmt]

/-! ### Firmware that does not report ready (R429, R437) -/

/-- Whether an image is accepted turns on the flash, its component's counter and the vendor keys revoked alone. -/
theorem fwAccepted_congr {s t : State} {comp : Nat} (hflash : t.flash = s.flash) (hsvn : fget t (svnField comp) = fget s (svnField comp))
    (hrevoked : t.mgmt.vendorRevoked = s.mgmt.vendorRevoked) (slot : Nat) : fwAccepted t comp slot = fwAccepted s comp slot := by
  unfold fwAccepted fwHeader
  dsimp only
  rw [hflash, hsvn, hrevoked]

theorem romTry_accepted {s : State} {slot : Nat} (attempt : Nat) (hok : fwAccepted s 1 slot = true) :
    romTry s slot attempt = modMgmt (fwLoaded s 1 slot) (fun m => { m with bootAt := s.now, bootTried := attempt }) := if_pos hok

/-- Management firmware that runs: its slot is shown, the manager's state and its boot record stay. -/
theorem fwLoaded_management (s : State) (slot : Nat) :
    let t := fwLoaded s 1 slot
    fget t Fld.secBoot_MGTSLOT = slot % 2 ∧ mgmtState t = mgmtState s ∧ t = { s with regs := t.regs, mgmt := { s.mgmt with mgtDigest := t.mgmt.mgtDigest } } := by
  unfold fwLoaded
  dsimp only
  generalize fieldOf (fwHeader s 1 slot) 8 4 = version
  generalize sliceOf (fwHeader s 1 slot) 0x20 32 = digest
  refine ⟨?_, ?_, rfl⟩
  · show fget (fset (fset s Fld.secBoot_MGTSLOT slot) (Fld.mgtVer_VERSION 0) version) Fld.secBoot_MGTSLOT = slot % 2
    rw [fget_fset_other _ _ _ _ (by decide), fget_fset_same]
    rfl
  · show fget (fset (fset s Fld.secBoot_MGTSLOT slot) (Fld.mgtVer_VERSION 0) version) Fld.mgtStatus_STATE = fget s Fld.mgtStatus_STATE
    rw [fget_fset_other _ _ _ _ (by decide), fget_fset_other _ _ _ _ (by decide)]

section
variable {s : State} (hstby : s.power.stbyOk = true) (hlate : s.mgmt.bootAt + 2600000000 ≤ s.now)
include hstby hlate

theorem firmwareReadyTimeout_eq (hstate : mgmtState s = 0 ∨ mgmtState s = 2) :
    execFirmwareReadyTimeout s = .next (match s.mgmt.switchFrom with
      | some old => romTry (setActive (modMgmt s (fun m => { m with switchFrom := none })) 1 old) old 2
      | none => if s.mgmt.bootTried < 2 then romTry s (1 - fget s Fld.secBoot_MGTSLOT) 2 else fset s Fld.mgtStatus_STATE 4) := by
  refine whenever_true ?_
  rw [hstby, decide_eq_true (show s.mgmt.bootAt + cyclesOf 2000000 ≤ s.now from hlate)]
  rcases hstate with h | h <;> rw [h] <;> rfl

theorem firmwareReadyTimeout_recovery (hstate : mgmtState s = 0) (hfrom : s.mgmt.switchFrom = none) (htried : 2 ≤ s.mgmt.bootTried) :
    ∃ t, execFirmwareReadyTimeout s = .next t ∧ mgmtState t = 4 ∧ OnlyFields [Fld.mgtStatus_STATE] s t := by
  rw [firmwareReadyTimeout_eq hstby hlate (.inl hstate), hfrom]
  dsimp only
  rw [if_neg (by omega)]
  exact ⟨_, rfl, fget_fset_same s Fld.mgtStatus_STATE 4, onlyFields_fset _ 4 (onlyFields_self s _) (by simp)⟩

theorem firmwareReadyTimeout_other (hstate : mgmtState s = 0) (hfrom : s.mgmt.switchFrom = none) (htried : s.mgmt.bootTried < 2)
    (hok : fwAccepted s 1 (1 - fget s Fld.secBoot_MGTSLOT) = true) :
    ∃ t, execFirmwareReadyTimeout s = .next t ∧ mgmtState t = 0 ∧ fget t Fld.secBoot_MGTSLOT = 1 - fget s Fld.secBoot_MGTSLOT ∧ t.mgmt.bootTried = 2 ∧ t.mgmt.bootAt = s.now
      ∧ t.mgmt.active1 = s.mgmt.active1 := by
  obtain ⟨hslot, hkeep, hside⟩ := fwLoaded_management s (1 - fget s Fld.secBoot_MGTSLOT)
  rw [firmwareReadyTimeout_eq hstby hlate (.inl hstate), hfrom]
  dsimp only
  rw [if_pos htried, romTry_accepted 2 hok]
  generalize fwLoaded s 1 (1 - fget s Fld.secBoot_MGTSLOT) = u at hslot hkeep hside
  refine ⟨_, rfl, hkeep.trans hstate, hslot.trans (Nat.mod_eq_of_lt (by omega)), rfl, rfl, ?_⟩
  rw [hside]
  rfl

theorem firmwareReadyTimeout_back {old : Nat} (hstate : mgmtState s = 2) (hfrom : s.mgmt.switchFrom = some old) (hold : old < 2) (hok : fwAccepted s 1 old = true) :
    ∃ t, execFirmwareReadyTimeout s = .next t ∧ t.mgmt.active1 = old ∧ fget t Fld.secBoot_MGTSLOT = old ∧ t.mgmt.switchFrom = none ∧ t.mgmt.bootAt = s.now := by
  have hok' : fwAccepted (setActive (modMgmt s (fun m => { m with switchFrom := none })) 1 old) 1 old = true :=
    (fwAccepted_congr (s := s) rfl rfl rfl old).trans hok
  obtain ⟨hslot, -, hside⟩ := fwLoaded_management (setActive (modMgmt s (fun m => { m with switchFrom := none })) 1 old) old
  rw [firmwareReadyTimeout_eq hstby hlate (.inr hstate), hfrom]
  dsimp only
  rw [romTry_accepted 2 hok']
  generalize fwLoaded (setActive (modMgmt s (fun m => { m with switchFrom := none })) 1 old) 1 old = u at hslot hside
  refine ⟨_, rfl, ?_, hslot.trans (Nat.mod_eq_of_lt hold), ?_, rfl⟩
  · rw [hside]; rfl
  · rw [hside]; rfl

end

/-! ### Attestation (R434, R435) -/

section
variable {s : State} (hserve : spdmServes s = true)
include hserve

theorem challenge_signed (nonce : List Byte) :
    ∃ t sig, execChallenge nonce s = .next t ∧ t.outs = s.outs ++ [⟨s.now, .spdm (sha256 (certChain s) ++ sig)⟩]
      ∧ t = { s with mgmt := { s.mgmt with nonce := s.mgmt.nonce + 1 }, outs := t.outs } := by
  rw [execChallenge, whenever_true hserve]
  exact ⟨_, _, rfl, rfl, rfl⟩

theorem getMeasurements_signed {i : Nat} (hlow : 1 ≤ i) (hhigh : i ≤ 7) (nonce : List Byte) :
    ∃ t sig, execGetMeasurements i nonce s = .next t
      ∧ t.outs = s.outs ++ [⟨s.now, .spdm (leBytes 1 i ++ leBytes 2 (measurement s i).length ++ measurement s i ++ sig)⟩]
      ∧ t = { s with mgmt := { s.mgmt with nonce := s.mgmt.nonce + 1 }, outs := t.outs } := by
  have hblocks : (if i = 0 then [] else if i = 0xFF then [1, 2, 3, 4, 5, 6, 7] else [i]) = [i] := by rw [if_neg (by omega), if_neg (by omega)]
  rw [execGetMeasurements]
  dsimp only
  rw [hblocks, if_neg (by omega), List.flatMap_singleton, whenever_true hserve]
  exact ⟨_, _, rfl, rfl, rfl⟩

end

/-- Settles O49, clause by clause. -/
theorem keysFirmwareAndAttestation : Obligations.KeysFirmwareAndAttestation := by
  unfold Obligations.KeysFirmwareAndAttestation
  intro s
  refine ⟨fun hserve => ⟨?_, ?_, ?_, ?_, ?_, ?_, ?_, ?_⟩, fun b hserve => ⟨requestUpdate_free hserve, fun u hu => ⟨_, requestUpdate_taken hserve hu, rfl⟩⟩, ?_, ?_, ?_, ?_, ?_, ?_⟩
  · exact fun key => setImageKey_effect hserve
  · exact fun key hlen hfused hnone => ⟨_, setImageKey_refused hserve hlen hfused hnone, rfl⟩
  · exact fun slot hash sig pub => fuseOwner_first hserve
  · exact fun slot hash sig pub hslot hhash hsig hset => ⟨_, fuseOwner_fused hserve pub hslot hhash hsig hset, rfl⟩
  · intro slot k sig pub hslot hsig hsigner hk hok
    refine ⟨_, revoke_signed hserve (by decide) hslot hsig hsigner hk hok, ?_, rfl⟩
    exact (bitSet_fget_fset s Fld.secStatus_OWNERREVOKED _ hslot).trans (bitSet_setBit _ slot)
  · intro slot k sig pub hslot hsig hsigner hk hok
    exact ⟨_, revoke_signed hserve (by decide) hslot hsig hsigner hk hok, bitSet_setBit _ slot, rfl⟩
  · exact fun cls slot sig pub hcls hslot hsig hbad => ⟨_, revoke_unsigned hserve hcls hslot hsig hbad, rfl⟩
  · exact commitSvn_management hserve
  · exact fun u comp hu hserve hlow hhigh => ⟨fun o data => componentWrite_effect hu hserve hlow hhigh, verifyComplete_accepted hu hserve hlow hhigh, verifyComplete_refused hu hserve hlow hhigh⟩
  · exact fun u => activateFirmware_effect
  · exact fun hstby hstate hlate => firmwareReadyTimeout_recovery hstby hlate hstate
  · exact fun hstby hstate hlate => firmwareReadyTimeout_other hstby hlate hstate
  · exact fun old hstby hstate hlate => firmwareReadyTimeout_back hstby hlate hstate
  · exact fun hserve o n nonce => ⟨⟨_, whenever_true hserve, rfl⟩, challenge_signed hserve nonce, fun i hlow hhigh => getMeasurements_signed hserve hlow hhigh nonce⟩

end Sys2Proof.Machine
end

section
/-! What stopping the main domain's work leaves alone (R461, R499): the clock, the power state, host, far and flash memory, the manager, and some registers. -/

namespace Sys2Proof.Machine

/-! ### The view -/

/-- Registers whose values outlive the work that a reset stops: INIT_DONE of the State Store, the link's speed, the offline mode, the owner fuses. -/
def steadyKeys : List Nat := [Fld.stsStatus_INITDONE.key, Fld.hifLink_SPEED.key, Fld.mgtStatus_OFFLINE.key, Fld.secStatus_OWNERFUSED.key]

abbrev Field.Steady (f : Field) : Prop := f.key ∈ steadyKeys

/-- The state without what stopping work may change. -/
structure SteadyView where
  now : Nat
  power : Power
  host : Mem
  far : Mem
  flash : Mem
  mgmt : Mgmt
  regs : Field → Nat

def steadyView (s : State) : SteadyView :=
  { now := s.now, power := s.power, host := s.host, far := s.far, flash := s.flash, mgmt := s.mgmt, regs := fun f => if f.Steady then fget s f else 0 }

theorem steadyView_mk {s t : State} (hnow : t.now = s.now) (hpower : t.power = s.power) (hhost : t.host = s.host) (hfar : t.far = s.far) (hflash : t.flash = s.flash)
    (hmgmt : t.mgmt = s.mgmt) (hregs : ∀ f : Field, f.Steady → fget t f = fget s f) : steadyView t = steadyView s := by
  have hr : (fun f : Field => if f.Steady then fget t f else 0) = fun f => if f.Steady then fget s f else 0 := by
    funext f
    split
    · exact hregs f ‹_›
    · rfl
  simp only [steadyView, hnow, hpower, hhost, hfar, hflash, hmgmt, hr]

theorem fget_of_steadyView {s t : State} (h : steadyView t = steadyView s) {f : Field} (hf : f.Steady) : fget t f = fget s f := by
  have hr := congrFun (congrArg SteadyView.regs h) f
  simpa only [steadyView, if_pos hf] using hr

/-- A field whose lowest bit is none of theirs. -/
theorem not_steady {f : Field} (h : (f.lo % 32 == 4 || f.lo % 32 == 8) = false) : ¬ f.Steady := by
  intro hf
  have hkeys : ∀ k ∈ steadyKeys, k % 32 = 4 ∨ k % 32 = 8 := by decide
  have hlo : f.key % 32 = f.lo % 32 := by rw [Field.key]; omega
  have hk := hkeys f.key hf
  rw [hlo] at hk
  simp only [Bool.or_eq_false_iff, beq_eq_false_iff_ne, ne_eq] at h
  omega

section
variable (s : State)

@[simp] theorem steadyView_modRepair (f : Repair → Repair) : steadyView (modRepair s f) = steadyView s := rfl
@[simp] theorem steadyView_modShadow (q : Nat) (f : Shadow → Shadow) : steadyView (modShadow s q f) = steadyView s := rfl
@[simp] theorem steadyView_modPaging (f : Paging → Paging) : steadyView (modPaging s f) = steadyView s := rfl
@[simp] theorem steadyView_modSeq (f : Sequencer → Sequencer) : steadyView (modSeq s f) = steadyView s := rfl
@[simp] theorem steadyView_drawn : steadyView (drawn s) = steadyView s := rfl

theorem steadyView_fset (f : Field) (v : Nat) (hf : (f.lo % 32 == 4 || f.lo % 32 == 8) = false) : steadyView (fset s f v) = steadyView s :=
  steadyView_mk rfl rfl rfl rfl rfl rfl fun g hg => fget_fset_other s f g v fun h => not_steady hf (show f.key ∈ steadyKeys from h ▸ hg)

theorem steadyView_bump (f : Field) (n : Nat) (hf : (f.lo % 32 == 4 || f.lo % 32 == 8) = false) : steadyView (bump s f n) = steadyView s := steadyView_fset s f _ hf

theorem steadyView_setFlag (f : Field) (hf : (f.lo % 32 == 4 || f.lo % 32 == 8) = false) : steadyView (setFlag s f) = steadyView s := by
  have hside : RegisterSide s (setFlag s f) := (registerSide_self s).setBits f 1
  refine steadyView_mk ?_ ?_ ?_ ?_ ?_ ?_ fun g hg => fget_setBits_other s f g 1 fun h => not_steady hf (show f.key ∈ steadyKeys from h ▸ hg)
  all_goals rw [hside]

/-! ### Memories written as work stops -/

@[simp] theorem steadyView_serveLines (unit : Option Nat) (isWrite : Bool) (lines : List Nat) : steadyView (serveLines s unit isWrite lines) = steadyView s := by
  refine foldl_keeps steadyView (fun t q => ?_) _ s
  dsimp only
  split <;> split_ifs <;> simp only [steadyView_bump _ (Fld.stsCntLines_COUNT _) _ rfl, steadyView_bump _ (Fld.stsCntXq_COUNT _) _ rfl]

@[simp] theorem steadyView_healWords (whole : Nat → Bool) : steadyView (healWords s whole) = steadyView s := by
  unfold healWords
  split <;> rfl

@[simp] theorem steadyView_stsPut (unit : Option Nat) (ws : List (Nat × Byte)) : steadyView (stsPut s unit ws) = steadyView s := by
  simp only [stsPut, countLines, steadyView_serveLines, steadyView_healWords]
  rfl

@[simp] theorem steadyView_setPte (vpn v : Nat) : steadyView (setPte s vpn v) = steadyView s := by
  simp only [setPte, stsWrite, countRange, steadyView_serveLines, steadyView_healWords]
  rfl

@[simp] theorem steadyView_fmemPut (pf : Nat) (ws : List (Nat × Byte)) : steadyView (fmemPut s pf ws) = steadyView s := by
  have hcount : ∀ t : State, steadyView (countDropped t pf ws) = steadyView t := fun t => by
    unfold countDropped
    dsimp only
    split
    · rfl
    · rw [steadyView_setFlag _ _ rfl, steadyView_bump _ _ _ rfl]
  exact hcount _

@[simp] theorem steadyView_countFill (task lf : Nat) (as : List Nat) : steadyView (countFill s task lf as) = steadyView s := by
  rw [countFill_side]
  rfl

@[simp] theorem steadyView_stopUpdate (w : Who) (c : ECmd) : steadyView (stopUpdate s w c) = steadyView s := by
  unfold stopUpdate
  dsimp only
  split
  · rw [steadyView_bump _ _ _ rfl, steadyView_bump _ _ _ rfl, steadyView_bump _ _ _ rfl]
    simp
  · simp

@[simp] theorem steadyView_leavePartial (w : Who) : steadyView (leavePartial s w) = steadyView s := by
  simp only [leavePartial, foldl_keeps steadyView fun t c => steadyView_stopUpdate t w c]
  refine (foldl_keeps steadyView (fun t c => ?_) _ _).trans ?_ <;> simp

@[simp] theorem steadyView_stopAllTasks : steadyView (stopAllTasks s) = steadyView s := by
  refine foldl_keeps steadyView (fun t w => ?_) _ s
  split
  · exact steadyView_leavePartial t w
  · rfl

@[simp] theorem steadyView_abandonMigrations : steadyView (abandonMigrations s) = steadyView s := by
  unfold abandonMigrations
  dsimp only
  rw [steadyView_modPaging]
  refine foldl_keeps steadyView (fun t e => ?_) _ s
  split
  · rw [freeNear, steadyView_modPaging, steadyView_setPte]
  · exact steadyView_setPte t _ _

/-! ### Swaps that waited -/

theorem steadyView_errorRec {cls : Nat} (hcls : cls ≠ 2) (unit index ev task detail : Nat) : steadyView (errorRec s cls unit index ev task detail) = steadyView s := by
  unfold errorRec
  dsimp only
  simp only [if_neg hcls]
  split_ifs
  · rfl
  · exact steadyView_bump s _ 1 rfl

@[simp] theorem steadyView_unmapFacet (lf : Nat) : steadyView (unmapFacet s lf) = steadyView s := by
  have hmap : steadyView (setFacetMap s lf 0x3F) = steadyView s := by
    have h : steadyView (bump (fset s (Fld.rpmFmap_PFACET lf) 0x3F) Fld.rpmMapgen_GEN 1) = steadyView s := by
      rw [steadyView_bump _ _ _ rfl, steadyView_fset _ _ _ rfl]
    exact h
  rw [unmapFacet, unmappedRec, steadyView_setFlag _ _ rfl, steadyView_errorRec _ (by decide), hmap]

@[simp] theorem steadyView_stopShadow (q : Nat) : steadyView (stopShadow s q) = steadyView s := by
  unfold stopShadow
  split
  · rw [steadyView_bump _ _ _ rfl, steadyView_modShadow]
  · rfl

@[simp] theorem steadyView_startSwap (lf : Nat) : steadyView (startSwap s lf) = steadyView s := by
  unfold startSwap
  dsimp only
  split
  · rw [steadyView_unmapFacet, retireFacet, steadyView_fset _ _ _ rfl]
  · rw [steadyView_modSeq, steadyView_modRepair, steadyView_fset _ _ _ rfl, steadyView_fset _ _ _ rfl, steadyView_fset _ _ _ rfl, steadyView_stopShadow]

@[simp] theorem steadyView_startDeferred : steadyView (startDeferred s) = steadyView s :=
  (foldl_keeps steadyView steadyView_startSwap _ _).trans (steadyView_modRepair s _)

end

end Sys2Proof.Machine
end

section
/-! A reset of the main domain (R497 to R501, Table 18-5): what it empties, and what it keeps. -/

namespace Sys2Proof.Machine

/-! ### Registers that a reset keeps -/

theorem mapFind_filter_none {α : Type} (m : SMap α) {p : Nat × α → Bool} {k : Nat} (hp : ∀ v, p (k, v) = false) : mapFind (m.filter p) k = none := by
  induction m with
  | nil => rfl
  | cons e r ih =>
    obtain ⟨j, v⟩ := e
    by_cases hk : k = j
    · subst hk
      rw [List.filter_cons_of_neg (by simp [hp v]), ih]
    · cases hpe : p (j, v)
      · rw [List.filter_cons_of_neg (by simp [hpe]), ih]
      · rw [List.filter_cons_of_pos hpe]
        simp [mapFind, hk, ih]

/-- The register file cut down to some registers: the others read their reset values. -/
theorem fget_filtered (s : State) (p : Nat → Bool) (g : Field) : fget { s with regs := s.regs.filter (fun e => p e.1) } g = if p g.key then fget s g else g.reset := by
  unfold fget mapGet
  dsimp only
  split
  · next h => rw [mapFind_filter _ fun _ => h]
  · next h => rw [mapFind_filter_none _ fun _ => by simpa using h]; rfl

theorem fget_mainCleared (k : ResetKind) (s : State) (g : Field) : fget (mainCleared k s) g = if keepsReg k g.key then fget s g else g.reset :=
  fget_filtered s (keepsReg k) g

/-! ### After the clearing -/

/-- The tests of spares under repair are shown. -/
def structsShown (s : State) : State := (List.range 52).foldl (fun t f => fset t (Fld.cmpStatus_STRUCT f) (if s.repair.swaps.any (fun x => x.target = f) then 1 else 0)) s

/-- Far channels in training serve. -/
def channelsResumed (s : State) : State := (List.range 16).foldl (fun s d => if fget s (Fld.farChState_STATE d) = 2 then fset s (Fld.farChState_STATE d) 1 else s) s

/-- What a reset clears from: the work of the main domain is stopped. -/
def workStopped (k : ResetKind) (s : State) : State := startDeferred (if k = .powerOn then s else abandonMigrations (stopAllTasks s))

/-- The main domain cleared, the fatal state ended as the kind of reset says. -/
def domainCleared (k : ResetKind) (s : State) : State := modPower (mainCleared k s) (fun p => { p with fatal := p.fatal && decide (k = .main ∨ k = .function) })

/-- The registers that follow from what the reset keeps. -/
def registersRestored (k : ResetKind) (s : State) : State :=
  let s := if k = .powerOn then s else structsShown s
  applyHostFields (if k = .main then channelsResumed s else s)

theorem resetMain_eq (k : ResetKind) (s : State) : resetMain k s = registersRestored k (domainCleared k (workStopped k s)) := by
  unfold resetMain registersRestored domainCleared workStopped
  simp only [decide_eq_true_eq]
  rfl

@[simp] theorem steadyView_workStopped (k : ResetKind) (s : State) : steadyView (workStopped k s) = steadyView s := by
  rw [workStopped, steadyView_startDeferred]
  split
  · rfl
  · rw [steadyView_abandonMigrations, steadyView_stopAllTasks]

/-- A register that nothing writes once the domain is cleared: one below those of the far channels, or a steady one. -/
abbrev Field.Restored (f : Field) : Prop := f.key < 0xB0000 * 32 ∨ f.Steady

theorem steady_places {f : Field} (hf : f.Steady) : f.key % 32 ≠ 0 ∧ f.key % 32 ≠ 12 := by
  have h : ∀ k ∈ steadyKeys, k % 32 ≠ 0 ∧ k % 32 ≠ 12 := by decide
  exact h f.key hf

/-- Registers changed alone, and none that counts as restored. -/
structure Restores (s t : State) : Prop where
  side : CommitSide s t
  regs : ∀ g : Field, g.Restored → fget t g = fget s g

theorem restores_self (s : State) : Restores s s := ⟨rfl, fun _ _ => rfl⟩

theorem Restores.trans {s t u : State} (h : Restores s t) (k : Restores t u) : Restores s u :=
  ⟨h.side.trans k.side, fun g hg => (k.regs g hg).trans (h.regs g hg)⟩

theorem restored_ne {g : Field} (hg : g.Restored) {k : Nat} (hkey : 0xB0000 * 32 ≤ k) (hlo : k % 32 = 0 ∨ k % 32 = 12) : g.key ≠ k := by
  rcases hg with hlow | hsteady
  · omega
  · have hplace := steady_places hsteady
    omega

theorem restores_fset (s : State) {f : Field} (v : Nat) (hkey : 0xB0000 * 32 ≤ f.key) (hlo : f.key % 32 = 0 ∨ f.key % 32 = 12) : Restores s (fset s f v) :=
  ⟨rfl, fun _ hg => fget_fset_other s f _ v (restored_ne hg hkey hlo)⟩

theorem restores_foldl {β : Type} {F : State → β → State} (h : ∀ t x, Restores t (F t x)) (xs : List β) (s : State) : Restores s (xs.foldl F s) := by
  induction xs generalizing s with
  | nil => exact restores_self s
  | cons x xs ih => exact (h s x).trans (ih _)

theorem restores_structsShown (s : State) : Restores s (structsShown s) := by
  refine restores_foldl (fun t f => restores_fset t _ ?_ (.inr ?_)) _ s
  · rw [show (Fld.cmpStatus_STRUCT f).key = (0x10f2000 + f * 0x100000) * 32 + 12 from rfl]; omega
  · rw [show (Fld.cmpStatus_STRUCT f).key = (0x10f2000 + f * 0x100000) * 32 + 12 from rfl]; omega

theorem restores_channelsResumed (s : State) : Restores s (channelsResumed s) := by
  refine restores_foldl (fun t d => ?_) _ s
  split
  · refine restores_fset t _ ?_ (.inl ?_)
    · rw [show (Fld.farChState_STATE d).key = (0xb0100 + d * 0x40) * 32 from rfl]; omega
    · rw [show (Fld.farChState_STATE d).key = (0xb0100 + d * 0x40) * 32 from rfl]; omega
  · exact restores_self t

theorem restores_applyHostFields (s : State) : Restores s (applyHostFields s) := by
  have hkeys : ∀ i ∈ [6, 7], ∀ k ∈ applyKeys i, 0xB0000 * 32 ≤ k ∧ k % 32 = 0 := by decide
  have hone : ∀ t, ∀ i ∈ [6, 7], Restores t (applyField t i) := fun t i hi =>
    ⟨(applies_applyField t i).side, fun g hg => (applies_applyField t i).others g fun hk => restored_ne hg (hkeys i hi _ hk).1 (.inl (hkeys i hi _ hk).2) rfl⟩
  exact (hone s 6 (by simp)).trans (hone _ 7 (by simp))

theorem restores_registersRestored (k : ResetKind) (s : State) : Restores s (registersRestored k s) := by
  have hstructs : Restores s (if k = .powerOn then s else structsShown s) := by
    split
    · exact restores_self s
    · exact restores_structsShown s
  have hchannels : ∀ t, Restores t (if k = .main then channelsResumed t else t) := fun t => by
    split
    · exact restores_channelsResumed t
    · exact restores_self t
  exact (hstructs.trans (hchannels _)).trans (restores_applyHostFields _)

/-! ### The reset as a whole -/

/-- What a reset of a kind leaves of a state (Table 18-5). -/
structure Cleared (k : ResetKind) (s t : State) : Prop where
  now : t.now = s.now
  power : t.power = { s.power with fatal := s.power.fatal && decide (k = .main ∨ k = .function) }
  host : t.host = s.host
  flash : t.flash = s.flash
  mgmt : t.mgmt = s.mgmt
  far : t.far = if k = .powerOn then [] else s.far
  frames : t.seq.inFrame = false ∧ t.seq.active = none
  units : t.facets = [] ∧ t.engines = [] ∧ t.jobs = [] ∧ t.sems = []
  memories : t.fmem = [] ∧ t.imem = [] ∧ (k = .powerOn → t.sts = [])
  hif : t.hif = .reset
  kept : ∀ g : Field, g.Steady → fget t g = if keepsReg k g.key then fget s g else g.reset
  lost : ∀ g : Field, g.key < 0xB0000 * 32 → keepsReg k g.key = false → fget t g = g.reset

/-- The domain's own clearing, the registers that follow set aside. -/
theorem cleared_domainCleared {k : ResetKind} {s u : State} (hsteady : steadyView u = steadyView s) : Cleared k s (domainCleared k u) where
  now := congrArg SteadyView.now hsteady
  power := congrArg (fun v => { v.power with fatal := v.power.fatal && decide (k = ResetKind.main ∨ k = ResetKind.function) }) hsteady
  host := congrArg SteadyView.host hsteady
  flash := congrArg SteadyView.flash hsteady
  mgmt := congrArg SteadyView.mgmt hsteady
  far := by
    have hfar : u.far = s.far := congrArg SteadyView.far hsteady
    simp only [domainCleared, modPower, mainCleared, hfar, decide_eq_true_eq]
  frames := ⟨rfl, rfl⟩
  units := ⟨rfl, rfl, rfl, rfl⟩
  memories := ⟨rfl, rfl, fun h => by subst h; rfl⟩
  hif := rfl
  kept g hg := (fget_mainCleared k u g).trans (by rw [fget_of_steadyView hsteady hg])
  lost g _ hlost := (fget_mainCleared k u g).trans (if_neg (Bool.eq_false_iff.mp hlost))

theorem Cleared.restores {k : ResetKind} {s t u : State} (h : Cleared k s t) (r : Restores t u) : Cleared k s u := by
  obtain ⟨hside, hregs⟩ := r
  refine ⟨?_, ?_, ?_, ?_, ?_, ?_, ?_, ?_, ?_, ?_, fun g hg => (hregs g (.inr hg)).trans (h.kept g hg), fun g hg hlost => (hregs g (.inl (by omega))).trans (h.lost g hg hlost)⟩
  all_goals rw [hside]
  exacts [h.now, h.power, h.host, h.flash, h.mgmt, h.far, h.frames, h.units, h.memories, h.hif]

theorem cleared_resetMain (k : ResetKind) (s : State) : Cleared k s (resetMain k s) := by
  rw [resetMain_eq]
  exact (cleared_domainCleared (steadyView_workStopped k s)).restores (restores_registersRestored k _)

/-! ### The State Store over a reset that keeps it -/

theorem sts_startSwap (s : State) (lf : Nat) : (startSwap s lf).sts = s.sts := by
  have hflag : ∀ t : State, (setFlag t Fld.rpmErr_SPAREOUT).sts = t.sts := fun t => sts_of_stores (stores_of_registerSide ((registerSide_self t).setBits _ 1))
  have hrec : ∀ (t : State) c u i e k d, (errorRec t c u i e k d).sts = t.sts := fun t _ _ _ _ _ _ => sts_of_stores (stores_errorRec t _ _ _ _ _ _)
  have hunmap : ∀ t : State, (unmapFacet t lf).sts = t.sts := fun t => by
    rw [unmapFacet, unmappedRec, hflag, hrec]
    rfl
  have hshadow : ∀ t : State, (stopShadow t (quadOf lf)).sts = t.sts := fun t => by
    unfold stopShadow
    split <;> rfl
  unfold startSwap
  dsimp only
  split
  · rw [hunmap]
    rfl
  · exact hshadow s

theorem sts_setPte (s : State) (vpn v : Nat) {y : Nat} (hy : y < 0xBC000000) : memRead (setPte s vpn v).sts y = memRead s.sts y := by
  have hheal : ∀ (t : State) w, (healWords t w).sts = t.sts := fun t w => by
    unfold healWords
    split <;> rfl
  rw [setPte, stsWrite, countRange, sts_of_stores (stores_serveLines _ _ _ _), hheal]
  exact memRead_memWrite_out _ _ _ (.inl (by omega))

/-- Abandoned migrations reach the page table alone. -/
theorem sts_abandonMigrations (s : State) {y : Nat} (hy : y < 0xBC000000) : memRead (abandonMigrations s).sts y = memRead s.sts y := by
  refine foldl_keeps (fun t : State => memRead t.sts y) (fun t e => ?_) _ s
  dsimp only
  split
  · exact sts_setPte t _ _ hy
  · exact sts_setPte t _ _ hy

/-- With no task running there is no work to stop. -/
theorem stopAllTasks_idle {s : State} (h : ∀ w, ctxBusy s w = false) : stopAllTasks s = s := by
  exact List.foldl_fixed' (fun w => if_neg (by rw [h w]; decide)) allWho

theorem sts_resetMain {k : ResetKind} {s : State} (hk : k ≠ .powerOn) (hidle : ∀ w, ctxBusy s w = false) {y : Nat} (hy : y < 0xBC000000) :
    memRead (resetMain k s).sts y = memRead s.sts y := by
  have hdeferred : ∀ t : State, (startDeferred t).sts = t.sts := fun t => foldl_keeps State.sts sts_startSwap _ _
  have hrestored : ∀ t : State, (registersRestored k t).sts = t.sts := fun t => by rw [(restores_registersRestored k t).side]
  have hcleared : ∀ t : State, (domainCleared k t).sts = t.sts := fun t => if_neg (by simpa using hk)
  rw [resetMain_eq, hrestored, hcleared, workStopped, hdeferred, if_neg hk, stopAllTasks_idle hidle, sts_abandonMigrations s hy]

/-! ### The host interface held in reset (R426, R501) -/

/-- The causes that hold the host interface in reset. -/
def holdsHif (s : State) : Bool := decide (s.power.good ≠ 15) || decide (s.now < s.power.hifAt) || !s.power.perstHigh || s.power.offlineReset || decide (s.power.phase = .off)

/-- Holding the host interface, or letting it go, changes its power flag and the link's registers alone; a held one shows no link. -/
structure HeldHif (s t : State) : Prop where
  side : t = { s with power := { s.power with hifReset := holdsHif s }, regs := t.regs }
  regs : ∀ g : Field, g.key ≠ Fld.hifLink_SPEED.key → g.key ≠ Fld.hifLink_WIDTH.key → fget t g = fget s g
  speed : holdsHif s = true → fget t Fld.hifLink_SPEED = 0

theorem heldHif_hifHold (s : State) : HeldHif s (hifHold s) := by
  have heq : hifHold s = if holdsHif s then fset (fset (modPower s (fun p => { p with hifReset := holdsHif s })) Fld.hifLink_SPEED 0) Fld.hifLink_WIDTH 0
      else modPower s (fun p => { p with hifReset := holdsHif s }) := rfl
  rw [heq]
  cases h : holdsHif s
  · rw [if_neg Bool.false_ne_true]
    exact ⟨by rw [h]; rfl, fun _ _ _ => rfl, fun h' => absurd (h.symm.trans h') Bool.false_ne_true⟩
  · rw [if_pos rfl]
    refine ⟨by rw [h]; rfl, fun g hs hw => ?_, fun _ => ?_⟩
    · rw [fget_fset_other _ _ _ _ hw, fget_fset_other _ _ _ _ hs]
      rfl
    · rw [fget_fset_other _ _ _ _ (by decide), fget_fset_same]
      rfl

/-! ### Function resets (R397, R497) -/

theorem qstate_lost {q : Nat} (hq : q < 64) {k : ResetKind} (hk : k = .flr ∨ k = .function) : keepsReg k (Fld.hifQState_STATE q).key = false := by
  have h : ∀ q < 64, ∀ k ∈ [ResetKind.flr, .function], keepsReg k ((0x20114 + q * 0x20) * 32 + 16) = false := by decide
  exact h q hq k (by simpa using hk)

/-- A function reset that begins while the main domain serves. -/
theorem enterFunctionReset_effect {k : ResetKind} {s : State} (hk : k = .flr ∨ k = .function) (hserve : serving s = true) (hstop : s.power.stopReq = none) :
    let t := enterFunctionReset k s
    InFunctionReset s t ∧ fget t Fld.hifLink_SPEED = (if k = .flr then fget s Fld.hifLink_SPEED else 0) ∧ t.power.fatal = (s.power.fatal && decide (k = .function)) := by
  have hcleared := cleared_resetMain k s
  have hpor : k ≠ .powerOn := by rcases hk with rfl | rfl <;> decide
  have hsts := fun y (hy : y < 0xBC000000) hidle => sts_resetMain hpor (s := s) hidle hy
  have heq : enterFunctionReset k s = modPower (resetMain k s) (fun p => { p with funcReset := some s.now }) := by
    rw [enterFunctionReset, if_pos hserve, afterStop]
    refine if_neg ?_
    dsimp only [modPower]
    rw [hcleared.power]
    simp [hstop]
  intro t
  rw [show t = _ from heq]
  clear heq t
  generalize resetMain k s = u at hcleared hsts
  obtain ⟨hfacets, hengines, hjobs, hsems⟩ := hcleared.units
  obtain ⟨hfmem, himem, -⟩ := hcleared.memories
  obtain ⟨hframe, hactive⟩ := hcleared.frames
  have hkept : keepsReg k Fld.stsStatus_INITDONE.key = true := by rcases hk with rfl | rfl <;> decide
  have hrun : keepsReg k Fld.fsqCtl_RUN.key = false := by rcases hk with rfl | rfl <;> decide
  refine ⟨⟨rfl, hframe, hactive, hfacets, hengines, hjobs, hsems, hfmem, himem, ?_, fun q hq => ?_, ?_, ?_, hcleared.host, ?_, fun y hy hidle => hsts y hy hidle⟩, ?_, ?_⟩
  · exact (hcleared.lost Fld.fsqCtl_RUN (by decide) hrun).trans rfl
  · exact (hcleared.lost (Fld.hifQState_STATE q) (by rw [qstate_key]; omega) (qstate_lost hq hk)).trans rfl
  · exact (congrArg HostIf.qps hcleared.hif).trans rfl
  · exact hcleared.far.trans (if_neg hpor)
  · exact (hcleared.kept Fld.stsStatus_INITDONE (by decide)).trans (if_pos hkept)
  · refine (hcleared.kept Fld.hifLink_SPEED (by decide)).trans ?_
    rcases hk with rfl | rfl
    · rfl
    · rfl
  · have hfatal := congrArg Power.fatal hcleared.power
    refine hfatal.trans ?_
    rcases hk with rfl | rfl <;> rfl

end Sys2Proof.Machine
end

section
/-! The link, D3hot, function resets, PTM, DOE and lane margining (R391, R397, R398, R415 to R417, R497). -/

namespace Sys2Proof.Machine

/-! ### The link (R391) -/

/-- The link shows what it trains at, or nothing. -/
def linkShown (s : State) (speed width : Nat) : State := fset (fset s Fld.hifLink_SPEED speed) Fld.hifLink_WIDTH width

theorem linkShown_effect (s : State) {speed width : Nat} (hspeed : speed < 8) (hwidth : width < 32) :
    let t := linkShown s speed width
    OnlyFields [Fld.hifLink_SPEED, Fld.hifLink_WIDTH] s t ∧ fget t Fld.hifLink_SPEED = speed ∧ fget t Fld.hifLink_WIDTH = width := by
  refine ⟨onlyFields_fset _ _ (onlyFields_fset _ _ (onlyFields_self s _) (by simp)) (by simp), ?_, ?_⟩
  · rw [linkShown, fget_fset_other _ _ _ _ (by decide), fget_fset_same]
    exact Nat.mod_eq_of_lt hspeed
  · rw [linkShown, fget_fset_same]
    exact Nat.mod_eq_of_lt hwidth

theorem linkOk_iff (speed width : Nat) : linkOk speed width = true ↔ 1 ≤ speed ∧ speed ≤ 6 ∧ width ∈ [4, 8, 16] := by
  simp [linkOk, and_assoc]

theorem linkTraining_effect {s : State} (speed width : Nat) (hhif : s.power.hifReset = false) (hphase : s.power.phase ≠ .off) :
    ∃ t, execLinkTraining speed width s = .next t ∧ OnlyFields [Fld.hifLink_SPEED, Fld.hifLink_WIDTH] s t
      ∧ (1 ≤ speed → speed ≤ 6 → width ∈ [4, 8, 16] → fget t Fld.hifLink_SPEED = speed ∧ fget t Fld.hifLink_WIDTH = width)
      ∧ (speed = 0 ∨ 6 < speed ∨ width ∉ [4, 8, 16] → fget t Fld.hifLink_SPEED = 0 ∧ fget t Fld.hifLink_WIDTH = 0) := by
  rw [execLinkTraining, whenever_true (by rw [hhif, decide_eq_true hphase]; rfl)]
  refine ⟨_, rfl, ?_⟩
  by_cases h : 1 ≤ speed ∧ speed ≤ 6 ∧ width ∈ [4, 8, 16]
  · rw [if_pos ((linkOk_iff speed width).mpr h)]
    obtain ⟨hlow, hhigh, hwidth⟩ := h
    have hsmall : width < 32 := by
      simp only [List.mem_cons, List.not_mem_nil, or_false] at hwidth
      omega
    obtain ⟨honly, hspeed, hwid⟩ := linkShown_effect s (speed := speed) (by omega) hsmall
    exact ⟨honly, fun _ _ _ => ⟨hspeed, hwid⟩, fun hbad => by
      rcases hbad with hbad | hbad | hbad
      · omega
      · omega
      · exact absurd hwidth hbad⟩
  · rw [if_neg (mt (linkOk_iff speed width).mp h)]
    obtain ⟨honly, hspeed, hwid⟩ := linkShown_effect s (speed := 0) (width := 0) (by decide) (by decide)
    exact ⟨honly, fun hlow hhigh hwidth => absurd ⟨hlow, hhigh, hwidth⟩ h, fun _ => ⟨hspeed, hwid⟩⟩

/-! ### D3hot (R397, R398) -/

/-- A queue pair disabled with nothing fetched. -/
def PairOff (t : State) (q : Nat) : Prop :=
  fget t (Fld.hifQState_STATE q) = 0 ∧ fget t (Fld.hifQCfg_ENABLE q) = 0 ∧ (qpOf t q).fetched = [] ∧ (qpOf t q).arrivals = []

/-- One pair disabled at once. -/
def pairDiscarded (s : State) (q : Nat) : State :=
  modQp (fset (fset (setQpState s q 0) (Fld.hifQCfg_ENABLE q) 0) (Fld.hifQState_ERRCODE q) 0) q (fun p => { Qp.off with gen := p.gen + 1 })

theorem discardCommands_eq (s : State) : discardCommands s
    = modSeq (modHif ((List.range 64).foldl pairDiscarded (abandonMigrations s)) (fun h => { h with heldCpl := [], expressIn := [] }))
        (fun q => { q with loading := none, fetchedImg := [], manifests := [], express := [] }) := rfl

theorem fget_pairDiscarded_state (s : State) (q r : Nat) :
    fget (pairDiscarded s q) (Fld.hifQState_STATE r) = if r = q then 0 else fget s (Fld.hifQState_STATE r) := by
  show fget (fset (fset (setQpState s q 0) (Fld.hifQCfg_ENABLE q) 0) (Fld.hifQState_ERRCODE q) 0) _ = _
  rw [fget_fset_other _ _ _ _ (by rw [qstate_key, qerrcode_key]; omega), fget_fset_other _ _ _ _ (by rw [qstate_key, qenable_key]; omega)]
  split
  · next h =>
    rw [h, fget_setQpState_same]
  · next h => exact fget_setQpState_other _ _ _ (by rw [qstate_key]; omega) (by rw [qstate_key, qstate_key]; omega)

theorem fget_pairDiscarded_enable (s : State) (q r : Nat) :
    fget (pairDiscarded s q) (Fld.hifQCfg_ENABLE r) = if r = q then 0 else fget s (Fld.hifQCfg_ENABLE r) := by
  show fget (fset (fset (setQpState s q 0) (Fld.hifQCfg_ENABLE q) 0) (Fld.hifQState_ERRCODE q) 0) _ = _
  rw [fget_fset_other _ _ _ _ (by rw [qenable_key, qerrcode_key]; omega)]
  split
  · next h =>
    rw [h, fget_fset_same, Nat.zero_mod]
  · next h =>
    rw [fget_fset_other _ _ _ _ (by rw [qenable_key, qenable_key]; omega)]
    exact fget_setQpState_other _ _ _ (by rw [qenable_key]; omega) (by rw [qenable_key, qstate_key]; omega)

theorem pairOff_pairDiscarded_same (s : State) (q : Nat) : PairOff (pairDiscarded s q) q := by
  refine ⟨?_, ?_, ?_, ?_⟩
  · rw [fget_pairDiscarded_state, if_pos rfl]
  · rw [fget_pairDiscarded_enable, if_pos rfl]
  · rw [pairDiscarded, qpOf_modQp_same]; rfl
  · rw [pairDiscarded, qpOf_modQp_same]; rfl

theorem PairOff.discard {s : State} {r : Nat} (h : PairOff s r) (q : Nat) : PairOff (pairDiscarded s q) r := by
  by_cases hr : r = q
  · subst hr
    exact pairOff_pairDiscarded_same s r
  · obtain ⟨hstate, henable, hfetched, harrivals⟩ := h
    have hqp : qpOf (pairDiscarded s q) r = qpOf s r := by
      rw [pairDiscarded, qpOf_modQp, if_neg hr]
      rfl
    refine ⟨?_, ?_, by rw [hqp, hfetched], by rw [hqp, harrivals]⟩
    · rw [fget_pairDiscarded_state, if_neg hr, hstate]
    · rw [fget_pairDiscarded_enable, if_neg hr, henable]

/-- What each step of a range does for its own number, and no step undoes, holds of all numbers at the end. -/
theorem foldl_range_each {P : State → Nat → Prop} {F : State → Nat → State} {n : Nat} (hsame : ∀ t, ∀ q < n, P (F t q) q) (hkeep : ∀ t, ∀ q < n, ∀ r, P t r → P (F t q) r)
    (s : State) : ∀ q < n, P ((List.range n).foldl F s) q := by
  suffices h : ∀ m ≤ n, ∀ q < m, P ((List.range m).foldl F s) q from h n (Nat.le_refl n)
  intro m
  induction m with
  | zero => exact fun _ q hq => absurd hq (Nat.not_lt_zero q)
  | succ m ih =>
    intro hm q hq
    rw [List.range_succ, List.foldl_append, List.foldl_cons, List.foldl_nil]
    by_cases h : q = m
    · subst h
      exact hsame _ q hm
    · exact hkeep _ m hm q (ih (by omega) q (by omega))

theorem fmem_abandonMigrations (s : State) : (abandonMigrations s).fmem = s.fmem := by
  refine foldl_keeps State.fmem (fun t e => ?_) _ s
  dsimp only
  split
  · exact fmem_stsWrite t _ _ _
  · exact fmem_stsWrite t _ _ _

theorem afterStop_none {s : State} (h : s.power.stopReq = none) : afterStop s = s := if_neg (by rw [h]; decide)

/-- Frames asked to stop, where no offline mode waits for that: RUN, and what the sequencer keeps. -/
theorem stopRun_side {s : State} (hstop : s.power.stopReq = none) : stopRun s = { s with regs := (stopRun s).regs, seq := (stopRun s).seq } := by
  unfold stopRun
  split
  · rfl
  · split
    · rfl
    · rw [stopFrames, afterStop_none (by exact hstop)]
      rfl

theorem d3hotEntry_effect {s : State} (hup : hostUp s = true) (hstop : s.power.stopReq = none) :
    ∃ t, execD3hotEntry s = .next t ∧ t.hif.d3hot = true
      ∧ (∀ q < 64, fget t (Fld.hifQState_STATE q) = 0 ∧ fget t (Fld.hifQCfg_ENABLE q) = 0 ∧ (qpOf t q).fetched = [] ∧ (qpOf t q).arrivals = [])
      ∧ t.hif.heldCpl = [] ∧ t.seq.loading = none ∧ t.seq.manifests = [] ∧ t.seq.express = [] ∧ t.fmem = s.fmem := by
  have hpairs := foldl_range_each (n := 64) (fun t q _ => pairOff_pairDiscarded_same t q) (fun _ q _ _ h => h.discard q) (abandonMigrations (stopRun s))
  have hfmem : ((List.range 64).foldl pairDiscarded (abandonMigrations (stopRun s))).fmem = s.fmem := by
    rw [foldl_keeps State.fmem (f := pairDiscarded) (fun _ _ => rfl), fmem_abandonMigrations, stopRun_side hstop]
  rw [execD3hotEntry, whenever_true hup, discardCommands_eq]
  generalize (List.range 64).foldl pairDiscarded (abandonMigrations (stopRun s)) = u at hpairs hfmem
  exact ⟨_, rfl, rfl, hpairs, rfl, rfl, rfl, rfl, hfmem⟩

/-! ### The end of a function reset (R397, R499) -/

/-- The swaps still due, once those that are ready have been made. -/
def swapsMade (s : State) : State := modRepair s (fun r => { r with pendingSwaps := r.pendingSwaps.filter (fun x => !x.ready) })

/-- With no swap ready and no slice copied, there is no map to change. -/
theorem finishRepairs_none {s : State} (hswaps : ∀ x ∈ s.repair.pendingSwaps, x.ready = false) (hslices : s.repair.slices = []) :
    finishRepairs s = swapsMade s := by
  have hready : s.repair.pendingSwaps.filter (fun x => x.ready) = [] := List.filter_eq_nil_iff.mpr fun x hx => by rw [hswaps x hx]; decide
  unfold finishRepairs
  dsimp only
  rw [hready, List.foldl_nil]
  rw [show (modRepair s _).repair.slices = s.repair.slices from rfl, hslices]
  rfl

theorem functionResetEnd_effect {s : State} (hphase : s.power.phase = .running) (hreset : s.power.funcReset.isSome = true) (hswaps : s.repair.swaps = [])
    (hslices : s.repair.slices = []) (hpending : ∀ x ∈ s.repair.pendingSwaps, x.ready = false) :
    ∃ t, execFunctionResetEnd s = .next t ∧ t.power.funcReset = none ∧ fget t Fld.glbStatus_MAINREADY = 1 ∧ SameMemories s t := by
  have hup : mainUp s = true := by rw [mainUp, hphase]
  have hdone : repairsDone s = true := by rw [repairsDone, hswaps, hslices]; rfl
  rw [execFunctionResetEnd, whenever_true (by rw [hup, hreset, hdone]; rfl), finishRepairs_none hpending hslices]
  have hrunning : (modPower (swapsMade s) (fun p => { p with funcReset := none })).power.phase = .running := hphase
  exact ⟨_, congrArg _ (if_pos hrunning), rfl, fget_fset_same _ Fld.glbStatus_MAINREADY 1, rfl, rfl, rfl, rfl, rfl, rfl⟩

/-! ### PTM (R416) -/

theorem losePtm_effect (s : State) :
    let t := losePtm s
    fget t Fld.hifPtmstat_VALID = 0 ∧ RegisterSide s t ∧ t.hif.ptmFails = s.hif.ptmFails
      ∧ (fget s Fld.hifPtmstat_VALID ≠ 0 → runOn s = true → s.seq.src = 2 → fget t Fld.fsqEvents_TICKMISSED = 1) := by
  have hzero : fget (fset s Fld.hifPtmstat_VALID 0) Fld.hifPtmstat_VALID = 0 := fget_fset_same s _ 0
  have hset : (setFlag (fset s Fld.hifPtmstat_VALID 0) Fld.fsqEvents_TICKMISSED).hif.ptmFails = s.hif.ptmFails := by
    unfold setFlag setBits settle
    dsimp only [modCycle]
    split
    · rw [sendVec_side]
      rfl
    · rfl
  unfold losePtm
  dsimp only
  split
  · exact ⟨(fget_setBits_other _ _ _ _ (by decide)).trans hzero, ((registerSide_self s).fset _ _).setBits _ _, hset, fun _ _ _ => fget_setFlag_same _ _ rfl⟩
  · next h =>
    refine ⟨hzero, rfl, rfl, fun hvalid hrun hsrc => absurd ?_ h⟩
    rw [hrun, hsrc, fon, decide_eq_true hvalid]
    rfl

section
variable {s : State} (hup : hostUp s = true)
include hup

theorem ptmExchange_success (ns : Nat) :
    ∃ t, execPtmExchange true ns s = .next t ∧ fget t Fld.hifPtmstat_VALID = 1 ∧ t.hif = { s.hif with ptmFails := 0, ptmBase := (ns : Int) - (deviceNs s s.now : Int) }
      ∧ OnlyFields [Fld.hifPtmstat_VALID] { s with hif := t.hif } t := by
  rw [execPtmExchange, whenever_true hup, if_pos rfl]
  exact ⟨_, rfl, fget_fset_same _ Fld.hifPtmstat_VALID 1, rfl, onlyFields_fset _ 1 (onlyFields_self _ _) (by simp)⟩

theorem ptmExchange_failure (ns : Nat) : execPtmExchange false ns s
    = .next (let t := modHif s (fun h => { h with ptmFails := h.ptmFails + 1 }); if 3 ≤ s.hif.ptmFails + 1 then losePtm t else t) := by
  rw [execPtmExchange, whenever_true hup, if_neg Bool.false_ne_true]
  rfl

theorem ptmExchange_lost (ns : Nat) (hfails : 2 ≤ s.hif.ptmFails) :
    ∃ t, execPtmExchange false ns s = .next t ∧ fget t Fld.hifPtmstat_VALID = 0 ∧ t.hif.ptmFails = s.hif.ptmFails + 1 ∧ SameMemories s t ∧ t.seq = s.seq
      ∧ (fget s Fld.hifPtmstat_VALID ≠ 0 → runOn s = true → s.seq.src = 2 → fget t Fld.fsqEvents_TICKMISSED = 1) := by
  obtain ⟨hvalid, hside, hcount, hmissed⟩ := losePtm_effect (modHif s (fun h => { h with ptmFails := h.ptmFails + 1 }))
  rw [ptmExchange_failure hup]
  dsimp only
  rw [if_pos (by omega)]
  refine ⟨_, rfl, hvalid, hcount, ?_, hside.seq, hmissed⟩
  exact hside.sameMemories

/-! ### DOE, margining (R415, R417) -/

theorem doeDiscovery_answers {o : List Byte} (hlow : 8 ≤ o.length) (hhigh : o.length ≤ 4096) (hvendor : fieldOf o 0 2 = 1) (hkind : fieldOf o 2 1 = 0) :
    execDoeRequest o s = .next (emit s (.spdm (leBytes 2 1 ++ leBytes 1 (fieldOf o 8 1) ++ leBytes 1 (if fieldOf o 8 1 = 0 then 1 else 0)))) := by
  rw [execDoeRequest]
  dsimp only
  rw [whenever_true (by rw [hup, decide_eq_true hhigh, decide_eq_true hlow]; rfl), hvendor, hkind, if_neg (by decide), if_pos rfl]

theorem laneMargining_reports {lane step : Nat} {voltage : Bool} (errors : Nat) (hlane : lane < fget s Fld.hifLink_WIDTH) (hstep : step ≤ (if voltage then 32 else 16)) :
    execLaneMargining lane voltage step errors s = .next (emit s (.margin lane errors)) :=
  whenever_true (by rw [hup, marginOk, decide_eq_true hlane, decide_eq_true hstep]; rfl)

end

theorem linkDrop_effect {s : State} (hup : mainUp s = true) (hstop : s.power.stopReq = none) :
    InFunctionReset s (linkDrop s) ∧ fget (linkDrop s) Fld.hifLink_SPEED = 0 ∧ (linkDrop s).power.fatal = s.power.fatal := by
  have hserve : serving (modPower s (fun p => { p with funcReset := none })) = true := by
    show (mainUp s && true) = true
    rw [hup]
    rfl
  obtain ⟨hreset, hspeed, hfatal⟩ := enterFunctionReset_effect (k := .function) (.inr rfl) hserve hstop
  exact ⟨hreset, hspeed, hfatal.trans (Bool.and_true _)⟩

/-- Settles O47, clause by clause. -/
theorem hostLinkAndFunction : Obligations.HostLinkAndFunction := by
  unfold Obligations.HostLinkAndFunction
  intro s
  refine ⟨linkTraining_effect, d3hotEntry_effect, ?_, ?_, ?_, functionResetEnd_effect, fun hup => ptmExchange_success hup, fun hup ns => ⟨fun hfails => ?_, ptmExchange_lost hup ns⟩,
    fun hup o => doeDiscovery_answers hup, fun hup lane voltage step errors => laneMargining_reports hup errors⟩
  · exact fun hlink hd3 => whenever_true (by rw [hlink, hd3]; rfl)
  · intro hlink hstop
    have hserve : serving s = true := by
      simp only [hostLink, Bool.and_eq_true] at hlink
      exact hlink.1.1
    obtain ⟨hreset, hspeed, hfatal⟩ := enterFunctionReset_effect (k := .flr) (.inl rfl) hserve hstop
    exact ⟨_, whenever_true hlink, hreset, hspeed, hfatal.trans (Bool.and_false _)⟩
  · intro c hc hup hlink hstop
    have hexec : exec c s = .next (linkDrop s) := by
      simp only [List.mem_cons, List.not_mem_nil, or_false] at hc
      rcases hc with rfl | rfl
      · exact whenever_true (by rw [hup, hlink]; rfl)
      · exact whenever_true (by rw [hup, hlink]; rfl)
    exact ⟨_, hexec, linkDrop_effect hup hstop⟩
  · refine (ptmExchange_failure hup ns).trans (congrArg _ ?_)
    exact if_neg (by omega)

end Sys2Proof.Machine
end

section
/-! Main resets, the rails going down, and the offline modes that lead to them (R426, R493 to R497, R500). -/

namespace Sys2Proof.Machine

/-! ### Resets under a held host interface -/

theorem now_hifHold (s : State) : (hifHold s).now = s.now := by rw [(heldHif_hifHold s).side]

theorem power_hifHold (s : State) : (hifHold s).power = { s.power with hifReset := holdsHif s } := by rw [(heldHif_hifHold s).side]

theorem enterMainReset_running {s : State} (h : s.power.phase = .running) :
    enterMainReset s = hifHold (modPower (resetMain .main s) (fun p => { p with phase := .mainReset, funcReset := none })) := by
  rw [enterMainReset, h]

/-! ### What every reset and every hold keeps -/

/-- The clock and the offline mode are as before. -/
structure KeepsMode (s t : State) : Prop where
  now : t.now = s.now
  mode : offlineMode t = offlineMode s

theorem keepsMode_self (s : State) : KeepsMode s s := ⟨rfl, rfl⟩

theorem KeepsMode.trans {s t u : State} (h : KeepsMode s t) (k : KeepsMode t u) : KeepsMode s u := ⟨k.now.trans h.now, k.mode.trans h.mode⟩

theorem keepsMode_modPower (s : State) (f : Power → Power) : KeepsMode s (modPower s f) := ⟨rfl, rfl⟩

theorem keepsMode_hifHold (s : State) : KeepsMode s (hifHold s) := ⟨now_hifHold s, (heldHif_hifHold s).regs _ (by decide) (by decide)⟩

theorem keepsMode_resetMain (k : ResetKind) (s : State) : KeepsMode s (resetMain k s) := by
  have h := cleared_resetMain k s
  have hkeeps : keepsReg k Fld.mgtStatus_OFFLINE.key = true := by cases k <;> decide
  exact ⟨h.now, (h.kept Fld.mgtStatus_OFFLINE (by decide)).trans (if_pos hkeeps)⟩

theorem keepsMode_enterMainReset (s : State) : KeepsMode s (enterMainReset s) := by
  have hreset := ((keepsMode_resetMain .main s).trans (keepsMode_modPower _ fun p => { p with phase := .mainReset, funcReset := none })).trans (keepsMode_hifHold _)
  unfold enterMainReset
  split
  · exact keepsMode_hifHold s
  · exact keepsMode_hifHold s
  · exact keepsMode_hifHold s
  · exact (keepsMode_modPower s _).trans (keepsMode_hifHold _)
  · exact keepsMode_hifHold s
  · exact hreset

theorem keepsMode_startDown (s : State) : KeepsMode s (startDown s) :=
  ((keepsMode_resetMain .powerOn s).trans (keepsMode_modPower _ _)).trans (keepsMode_hifHold _)

/-! ### Modes RESET and POWER_OFF (R426, R496) -/

/-- The main domain held in reset, its rails not yet considered. -/
def mainHeld (s : State) : State :=
  modPower (enterMainReset (modPower s (fun p => { p with stopReq := none, offlineReset := decide (p.phase ≠ .off) || decide (offlineMode s = 2) })))
    (fun p => { p with fatal := false })

theorem holdMain_eq (s : State) : holdMain s = if offlineMode (mainHeld s) = 3 ∧ (mainHeld s).power.phase ≠ .off then startDown (mainHeld s) else mainHeld s := rfl

theorem keepsMode_mainHeld (s : State) : KeepsMode s (mainHeld s) :=
  ((keepsMode_modPower s _).trans (keepsMode_enterMainReset _)).trans (keepsMode_modPower _ _)

theorem keepsMode_holdMain (s : State) : KeepsMode s (holdMain s) := by
  rw [holdMain_eq]
  split
  · exact (keepsMode_mainHeld s).trans (keepsMode_startDown _)
  · exact keepsMode_mainHeld s

theorem keepsMode_afterStop (s : State) : KeepsMode s (afterStop s) := by
  unfold afterStop
  split
  · exact keepsMode_holdMain s
  · exact keepsMode_self s

theorem keepsMode_stopRun (s : State) : KeepsMode s (stopRun s) := by
  unfold stopRun
  split
  · exact keepsMode_self s
  · split
    · exact ⟨rfl, rfl⟩
    · exact (show KeepsMode s (modSeq (fset s Fld.fsqCtl_RUN 0) _) from ⟨rfl, fget_fset_other _ _ _ _ (by decide)⟩).trans (keepsMode_afterStop _)

/-- A main domain that runs is in a main reset, emptied. -/
theorem mainHeld_running {s : State} (h : s.power.phase = .running) :
    (mainHeld s).power.phase = .mainReset ∧ (mainHeld s).fmem = [] ∧ (mainHeld s).facets = [] := by
  have hcleared := cleared_resetMain .main (modPower s (fun p => { p with stopReq := none, offlineReset := decide (p.phase ≠ .off) || decide (offlineMode s = 2) }))
  rw [mainHeld, enterMainReset_running (by exact h)]
  generalize resetMain .main (modPower s (fun p => { p with stopReq := none, offlineReset := decide (p.phase ≠ .off) || decide (offlineMode s = 2) })) = u at hcleared
  rw [(heldHif_hifHold _).side]
  exact ⟨rfl, hcleared.memories.1, hcleared.units.1⟩

theorem startDown_off (s : State) : (startDown s).power.phase = .off ∧ (startDown s).fmem = [] ∧ (startDown s).facets = [] := by
  have hcleared := cleared_resetMain .powerOn s
  unfold startDown
  dsimp only
  generalize resetMain .powerOn s = u at hcleared
  rw [(heldHif_hifHold _).side]
  exact ⟨rfl, hcleared.memories.1, hcleared.units.1⟩

/-- Modes RESET and POWER_OFF while the main domain runs: a main reset, and in POWER_OFF the rails go down. -/
theorem holdMain_running {s : State} (h : s.power.phase = .running) {mode : Nat} (hmode : offlineMode s = mode) (hdeep : mode = 2 ∨ mode = 3) :
    (holdMain s).power.phase = (if mode = 2 then .mainReset else .off) ∧ (holdMain s).fmem = [] ∧ (holdMain s).facets = [] := by
  obtain ⟨hphase, hfmem, hfacets⟩ := mainHeld_running h
  have hheld : offlineMode (mainHeld s) = mode := (keepsMode_mainHeld s).mode.trans hmode
  rw [holdMain_eq, hheld, hphase]
  rcases hdeep with rfl | rfl
  · rw [if_neg (by decide)]
    exact ⟨hphase, hfmem, hfacets⟩
  · rw [if_pos (by decide)]
    exact startDown_off _

/-! ### A deeper offline mode -/

theorem goOffline_deeper {s : State} {mode : Nat} (h : offlineMode s < mode) : goOffline s mode
    = (let t := fset s Fld.mgtStatus_OFFLINE mode
       if mode = 1 then stopRun t else if runOn t then stopRun (modPower t (fun p => { p with stopReq := some mode })) else holdMain t) := if_neg (by omega)

theorem goOffline_mode (s : State) {mode : Nat} (hmode : mode < 4) : (goOffline s mode).now = s.now ∧ offlineMode (goOffline s mode) = max (offlineMode s) mode := by
  by_cases h : mode ≤ offlineMode s
  · rw [show goOffline s mode = s from if_pos h]
    exact ⟨rfl, by omega⟩
  · have hset : offlineMode (fset s Fld.mgtStatus_OFFLINE mode) = mode := (fget_fset_same s Fld.mgtStatus_OFFLINE mode).trans (Nat.mod_eq_of_lt hmode)
    have hkeeps : KeepsMode (fset s Fld.mgtStatus_OFFLINE mode) (goOffline s mode) := by
      rw [goOffline_deeper (by omega)]
      dsimp only
      split
      · exact keepsMode_stopRun _
      · split
        · exact (keepsMode_modPower _ _).trans (keepsMode_stopRun _)
        · exact keepsMode_holdMain _
    exact ⟨hkeeps.now, (hkeeps.mode.trans hset).trans (by omega)⟩

theorem runOn_offline (s : State) (mode : Nat) : runOn (fset s Fld.mgtStatus_OFFLINE mode) = runOn s := by
  rw [runOn, fon, fget_fset_other _ _ _ _ (by decide), runOn, fon]

/-- RESET or POWER_OFF with no frame running. -/
theorem goOffline_stopped {s : State} {mode : Nat} (hdeep : mode = 2 ∨ mode = 3) (h : offlineMode s < mode) (hrun : fget s Fld.fsqCtl_RUN = 0)
    (hphase : s.power.phase = .running) :
    (goOffline s mode).power.phase = (if mode = 2 then .mainReset else .off) ∧ (goOffline s mode).fmem = [] ∧ (goOffline s mode).facets = [] := by
  have hset : offlineMode (fset s Fld.mgtStatus_OFFLINE mode) = mode := (fget_fset_same s Fld.mgtStatus_OFFLINE mode).trans (by rcases hdeep with rfl | rfl <;> rfl)
  have hstopped : runOn (fset s Fld.mgtStatus_OFFLINE mode) = false := by rw [runOn_offline, runOn, fon, hrun]; rfl
  rw [goOffline_deeper h]
  dsimp only
  rw [if_neg (by omega), hstopped, if_neg Bool.false_ne_true]
  exact holdMain_running (by exact hphase) hset hdeep

/-- A deeper mode while a frame waits for its report: the frames are asked to stop. -/
theorem goOffline_running {s : State} {mode : Nat} (h : offlineMode s < mode) (hrun : fget s Fld.fsqCtl_RUN ≠ 0) (hframe : s.seq.inFrame = true)
    (hreport : s.seq.reported = false) : (goOffline s mode).seq.stopReq = true ∧ (goOffline s mode).fmem = s.fmem := by
  have hon : runOn (fset s Fld.mgtStatus_OFFLINE mode) = true := by rw [runOn_offline]; exact (fon_iff _ _).mpr hrun
  have hstop : ∀ t : State, runOn t = true → t.seq = s.seq → (stopRun t).seq.stopReq = true ∧ (stopRun t).fmem = t.fmem := fun t ht hseq => by
    rw [stopRun, ht, hseq, hframe, hreport]
    exact ⟨rfl, rfl⟩
  rw [goOffline_deeper h]
  dsimp only
  split
  · exact hstop _ hon rfl
  · exact hstop (modPower (fset s Fld.mgtStatus_OFFLINE mode) (fun p => { p with stopReq := some mode })) hon rfl

/-! ### The offline mode left -/

theorem startUp_side (s : State) : startUp s = { s with power := { s.power with enabled := (startUp s).power.enabled, stepAt := (startUp s).power.stepAt } } := by
  unfold startUp
  split <;> rfl

theorem goOnline_effect (s : State) : fget (goOnline s) Fld.mgtStatus_OFFLINE = 0 ∧ (goOnline s).power.thermtrip = false ∧ (goOnline s).power.offlineReset = false
    ∧ (goOnline s).outs = s.outs ∧ (goOnline s).now = s.now := by
  have hzero : fget (fset s Fld.mgtStatus_OFFLINE 0) Fld.mgtStatus_OFFLINE = 0 := fget_fset_same s _ 0
  unfold goOnline
  dsimp only
  rw [startUp_side]
  refine ⟨?_, ?_, ?_, ?_, ?_⟩
  · exact ((heldHif_hifHold _).regs Fld.mgtStatus_OFFLINE (by decide) (by decide)).trans hzero
  · dsimp only
    rw [power_hifHold]
    rfl
  · dsimp only
    rw [power_hifHold]
    rfl
  · dsimp only
    rw [(heldHif_hifHold _).side]
    rfl
  · exact now_hifHold _

end Sys2Proof.Machine
end

section
/-! Limmund, mailbox, MCTP and sensor requests (R421 to R427, R439, R491, R513). -/

namespace Sys2Proof.Machine

/-! ### Limmund commands by who is asked (R422, R423) -/

theorem limmund_either {s : State} {b : Binding} (h : mgmtServes s b = true) (act : State → State) : limmund b false s act = .next (act s) := by
  rw [limmund, whenever_true h]
  rfl

/-- A command that needs the main side, asked on a binding that may give it. -/
theorem limmundMain_served {s : State} {b : Binding} {sideOnly : Bool} (h : ∀ act, limmund b sideOnly s act = .next (act s)) (bad : Bool) (act : State → State) :
    limmundMain b sideOnly s bad act = .next (if bad then reply s b 1 [] else if !(mainReady s && serving s) then reply s b 3 [] else act s) :=
  h _

theorem limmundMain_bad {s : State} {b : Binding} {sideOnly : Bool} (h : ∀ act, limmund b sideOnly s act = .next (act s)) {bad : Bool} (hbad : bad = true)
    (act : State → State) : limmundMain b sideOnly s bad act = .next (reply s b 1 []) := by
  rw [limmundMain_served h, if_pos hbad]

theorem limmundMain_down {s : State} {b : Binding} {sideOnly : Bool} (h : ∀ act, limmund b sideOnly s act = .next (act s)) {bad : Bool} (hbad : bad = false)
    (hdown : (mainReady s && serving s) = false) (act : State → State) : limmundMain b sideOnly s bad act = .next (reply s b 3 []) := by
  rw [limmundMain_served h, hbad, hdown]
  rfl

theorem limmundMain_ready {s : State} {b : Binding} {sideOnly : Bool} (h : ∀ act, limmund b sideOnly s act = .next (act s)) {bad : Bool} (hbad : bad = false)
    (hready : (mainReady s && serving s) = true) (act : State → State) : limmundMain b sideOnly s bad act = .next (act s) := by
  rw [limmundMain_served h, hbad, hready]
  rfl

/-- A command of the side-band alone is refused over PCI Express with no effect. -/
theorem sideOnly_refused {s : State} (h : mgmtServes s .pcie = true) (watts addr : Nat) (value : Word) :
    ∀ c ∈ [Instr.setOfflineNone .pcie, .setOfflineQuiesce .pcie, .setOfflineReset .pcie, .setOfflinePowerOff .pcie, .setPowerCap .pcie watts, .regWrite .pcie addr value],
      exec c s = .next (reply s .pcie 2 []) := by
  simp only [List.forall_mem_cons]
  exact ⟨whenever_true h, whenever_true h, whenever_true h, whenever_true h, whenever_true h, whenever_true h, fun _ h => by cases h⟩

/-! ### Status, log, REG_READ, undefined commands -/

/-- REG_READ's operands are out of range. -/
theorem regRead_range {addr words : Nat} :
    (decide (words < 1 ∨ 16 < words) || !((List.range words).map (fun i => addr + 4 * i)).all managerReaches) = true
      ↔ (words < 1 ∨ 16 < words ∨ ∃ i < words, managerReaches (addr + 4 * i) = false) := by
  simp [or_assoc]

theorem regRead_inRange {addr words : Nat} (hlow : 1 ≤ words) (hhigh : words ≤ 16) (hreach : ∀ i < words, managerReaches (addr + 4 * i) = true) :
    (decide (words < 1 ∨ 16 < words) || !((List.range words).map (fun i => addr + 4 * i)).all managerReaches) = false := by
  refine Bool.eq_false_iff.mpr (mt regRead_range.mp ?_)
  rintro (h | h | ⟨i, hi, h⟩)
  · omega
  · omega
  · rw [hreach i hi] at h
    cases h

section
variable {s : State} {b : Binding} (hserve : mgmtServes s b = true)
include hserve

theorem getStatus_answers : execGetStatus b s = .next (reply s b 0 (leBytes 4 (regView s Fld.mgtStatus_STATE.addr) ++ leBytes 4 (regView s Fld.glbStatus_MAINREADY.addr))) := by
  rw [execGetStatus, limmund_either hserve]

theorem readLog_few (first : Nat) {count : Nat} (h : count ≤ 7) :
    execReadLog b first count s = .next (reply s b 0 ((s.mgmt.log.drop first).take count).flatten) := by
  rw [execReadLog, limmund_either hserve, if_neg (by omega)]

theorem readLog_many (first : Nat) {count : Nat} (h : 7 < count) : execReadLog b first count s = .next (reply s b 1 []) := by
  rw [execReadLog, limmund_either hserve, if_pos h]

theorem badRequest_answered {command : Nat} {body : List Byte} (hbinding : b = .sideband ∨ command ∉ [2, 3, 6, 9, 10, 11, 12])
    (hbad : command = 0 ∨ 12 < command ∨ 240 < body.length) : execLimmundBadRequest b command body s = .next (reply s b 1 []) := by
  have hact : ∀ act, limmund b ([2, 3, 6, 9, 10, 11, 12].contains command) s act = .next (act s) := fun act => by
    rcases hbinding with rfl | hcommon
    · exact limmund_sideband hserve _ act
    · rw [Bool.eq_false_iff.mpr (mt List.contains_iff_mem.mp hcommon)]
      exact limmund_either hserve act
  rw [execLimmundBadRequest, hact, if_neg (by omega)]

theorem regRead_refused {addr words : Nat} (h : words < 1 ∨ 16 < words ∨ ∃ i < words, managerReaches (addr + 4 * i) = false) :
    execRegRead b addr words s = .next (reply s b 1 []) :=
  limmundMain_bad (limmund_either hserve) (regRead_range.mpr h) _

theorem regRead_down {addr words : Nat} (hlow : 1 ≤ words) (hhigh : words ≤ 16) (hreach : ∀ i < words, managerReaches (addr + 4 * i) = true)
    (hdown : (mainReady s && serving s) = false) : execRegRead b addr words s = .next (reply s b 3 []) :=
  limmundMain_down (limmund_either hserve) (regRead_inRange hlow hhigh hreach) hdown _

theorem regRead_answers (hready : (mainReady s && serving s) = true) {addr words : Nat} (hlow : 1 ≤ words) (hhigh : words ≤ 16)
    (hreach : ∀ i < words, managerReaches (addr + 4 * i) = true) :
    ∃ t, execRegRead b addr words s = .next t ∧ Answers s t b 0 ((List.range words).flatMap (fun i => leBytes 4 (regView s (addr + 4 * i)))) ∧ t = { s with outs := t.outs, free := t.free } := by
  have hdrawn : ∀ (as : List Nat) (t : State), let u := as.foldl (fun s _ => drawn s) t
      u.outs = t.outs ∧ u = { t with outs := u.outs, free := u.free } := fun as => by
    induction as with
    | nil => exact fun t => ⟨rfl, rfl⟩
    | cons a as ih =>
      intro t
      obtain ⟨houts, hside⟩ := ih (drawn t)
      exact ⟨houts, hside⟩
  obtain ⟨houts, hside⟩ := hdrawn ((List.range words).map (fun i => addr + 4 * i)) (reply s b 0 (((List.range words).map (fun i => addr + 4 * i)).flatMap (fun a => leBytes 4 (regView s a))))
  refine ⟨_, limmundMain_ready (limmund_either hserve) (regRead_inRange hlow hhigh hreach) hready _, ?_, ?_⟩
  · rw [Answers, houts, List.flatMap_map]
    rfl
  · exact hside

end

/-! ### The mailbox (R439) -/

theorem m2hData_key (i : Nat) : (Fld.mgtM2hBuf_DATA i).key = (0xf0a00 + i * 4) * 32 := rfl

/-- The words of the manager's message in the mailbox. -/
def m2hWords (s : State) (m : List Byte) : State :=
  (List.range ((m.length + 3) / 4)).foldl (fun s i => fset s (Fld.mgtM2hBuf_DATA i) (fieldOf (m ++ [0#8, 0#8, 0#8]) (4 * i) 4)) s

/-- Bytes that lie within a list read the same with more behind it. -/
theorem fieldOf_append (m r : List Byte) {o n : Nat} (h : o + n ≤ m.length) : fieldOf (m ++ r) o n = fieldOf m o n := by
  have hslice : sliceOf (m ++ r) o n = sliceOf m o n := by
    rw [sliceOf, List.drop_append_of_le_length (by omega), List.take_append_of_le_length (by rw [List.length_drop]; omega), sliceOf]
  rw [fieldOf, hslice, fieldOf]

theorem m2hWords_effect (s : State) (m : List Byte) :
    let t := m2hWords s m
    t = { s with regs := t.regs } ∧ ∀ i, 4 * i + 4 ≤ m.length → fget t (Fld.mgtM2hBuf_DATA i) = fieldOf m (4 * i) 4 := by
  have hinj : ∀ i j, (Fld.mgtM2hBuf_DATA i).key = (Fld.mgtM2hBuf_DATA j).key → i = j := fun i j h => by
    rw [m2hData_key, m2hData_key] at h
    omega
  let word (i : Nat) : Nat := fieldOf (m ++ [0#8, 0#8, 0#8]) (4 * i) 4
  refine ⟨(onlyFields_putFields Fld.mgtM2hBuf_DATA word (List.range ((m.length + 3) / 4)) s).1, fun i hi => ?_⟩
  refine (fget_putFields hinj word List.nodup_range (List.mem_range.mpr (by omega)) s).trans ?_
  rw [show word i = fieldOf m (4 * i) 4 from fieldOf_append m _ hi]
  exact Nat.mod_eq_of_lt (fieldOf_lt m (4 * i) 4)

/-- The message latched for the host, with vector 2. -/
def m2hSent (s : State) (m : List Byte) : State := sendVec (setFlag (fset (m2hWords s m) Fld.mgtM2h_LEN m.length) Fld.mgtM2h_READY) 2

theorem m2hSent_effect (s : State) {m : List Byte} (hlen : m.length ≤ 240) :
    let t := m2hSent s m
    fget t Fld.mgtM2h_READY = 1 ∧ fget t Fld.mgtM2h_LEN = m.length ∧ (∀ i, 4 * i + 4 ≤ m.length → fget t (Fld.mgtM2hBuf_DATA i) = fieldOf m (4 * i) 4) ∧ RegisterSide s t := by
  obtain ⟨hside, hwords⟩ := m2hWords_effect s m
  unfold m2hSent
  generalize m2hWords s m = u at hside hwords
  have hready : Fld.mgtM2h_READY.key = 0xf0810 * 32 + 31 := rfl
  have hlenKey : Fld.mgtM2h_LEN.key = 0xf0810 * 32 := rfl
  have hregs : ∀ g, fget (sendVec (setFlag (fset u Fld.mgtM2h_LEN m.length) Fld.mgtM2h_READY) 2) g = fget (setFlag (fset u Fld.mgtM2h_LEN m.length) Fld.mgtM2h_READY) g :=
    fun g => fget_of_regs g (sendVec_regs _ 2)
  refine ⟨?_, ?_, fun i hi => ?_, ?_⟩
  · rw [hregs]
    exact fget_setFlag_same _ _ rfl
  · rw [hregs, setFlag, fget_setBits_other _ _ _ _ (by decide), fget_fset_same]
    exact Nat.mod_eq_of_lt (show m.length < 2 ^ 9 by omega)
  · rw [hregs, setFlag, fget_setBits_other _ _ _ _ (by rw [m2hData_key, hready]; omega), fget_fset_other _ _ _ _ (by rw [m2hData_key, hlenKey]; omega), hwords i hi]
  · have hu : RegisterSide s u := by rw [RegisterSide, hside]
    exact ((hu.fset _ _).setBits _ 1).trans (registerSide_sendVec _ 2)

/-- A vector sent leaves what was sent before. -/
theorem sendVec_outs_subset (s : State) (v : Nat) : s.outs ⊆ (sendVec s v).outs := by
  unfold sendVec
  split
  · exact fun _ h => h
  · split
    · exact fun _ h => h
    · exact List.subset_append_left _ _

section
variable {s : State} {b : Binding} (hserve : mgmtServes s b = true)
include hserve

theorem mbxSend_refused {m : List Byte} (h : m.length < 1 ∨ 240 < m.length) : execMbxSend b m s = .next (reply s b 1 []) :=
  limmundMain_bad (limmund_either hserve) (decide_eq_true h) _

theorem mbxSend_down {m : List Byte} (hlow : 1 ≤ m.length) (hhigh : m.length ≤ 240) (hdown : (mainReady s && serving s) = false) :
    execMbxSend b m s = .next (reply s b 3 []) :=
  limmundMain_down (limmund_either hserve) (decide_eq_false (by omega)) hdown _

section
variable (hready : (mainReady s && serving s) = true)
include hready

theorem mbxSend_ready {m : List Byte} (hlow : 1 ≤ m.length) (hhigh : m.length ≤ 240) :
    execMbxSend b m s = .next (if fon s Fld.mgtM2h_READY then reply s b 5 [] else reply (m2hSent s m) b 0 []) :=
  limmundMain_ready (limmund_either hserve) (decide_eq_false (by omega)) hready _

theorem mbxSend_latches {m : List Byte} (hlow : 1 ≤ m.length) (hhigh : m.length ≤ 240) (hfree : fget s Fld.mgtM2h_READY = 0) :
    ∃ t, execMbxSend b m s = .next t ∧ fget t Fld.mgtM2h_READY = 1 ∧ fget t Fld.mgtM2h_LEN = m.length
      ∧ (∀ i, 4 * i + 4 ≤ m.length → fget t (Fld.mgtM2hBuf_DATA i) = fieldOf m (4 * i) 4)
      ∧ ⟨s.now, .limmund b 0 []⟩ ∈ t.outs ∧ t = { s with regs := t.regs, outs := t.outs, hif := t.hif, cyc := t.cyc } := by
  obtain ⟨hset, hlen, hwords, hside⟩ := m2hSent_effect s hhigh
  rw [mbxSend_ready hserve hready hlow hhigh, if_neg (by rw [fon, hfree]; decide)]
  generalize m2hSent s m = u at hset hlen hwords hside
  refine ⟨_, rfl, hset, hlen, hwords, ?_, ?_⟩
  · exact List.mem_append_right _ (List.mem_singleton.mpr (by rw [hside.now]))
  · rw [hside]
    rfl

theorem mbxSend_busy {m : List Byte} (hlow : 1 ≤ m.length) (hhigh : m.length ≤ 240) (hbusy : fget s Fld.mgtM2h_READY ≠ 0) :
    execMbxSend b m s = .next (reply s b 5 []) := by
  rw [mbxSend_ready hserve hready hlow hhigh, if_pos ((fon_iff _ _).mpr hbusy)]

/-- What MBX_FETCH answers of the host's message from an offset on. -/
def fetchedPart (s : State) (o : Nat) : List Byte := leBytes 2 (hostMessage s).length ++ ((hostMessage s).drop o).take 238

theorem mbxFetch_ready (o : Nat) : execMbxFetch b o s = .next (if !fon s Fld.mgtH2m_BUSY || decide ((hostMessage s).length ≤ o) then reply s b 1 []
    else if (hostMessage s).length ≤ o + 238 then sendVec (fset (reply s b 0 (fetchedPart s o)) Fld.mgtH2m_BUSY 0) 2 else reply s b 0 (fetchedPart s o)) :=
  limmundMain_ready (limmund_either hserve) rfl hready _

theorem mbxFetch_nothing {o : Nat} (h : fget s Fld.mgtH2m_BUSY = 0 ∨ (hostMessage s).length ≤ o) : execMbxFetch b o s = .next (reply s b 1 []) := by
  rw [mbxFetch_ready hserve hready, if_pos]
  rcases h with h | h
  · rw [fon, h]
    rfl
  · rw [decide_eq_true h, Bool.or_true]

theorem mbxFetch_part {o : Nat} (hbusy : fget s Fld.mgtH2m_BUSY ≠ 0) (ho : o < (hostMessage s).length) :
    ∃ t, execMbxFetch b o s = .next t ∧ ⟨s.now, .limmund b 0 (leBytes 2 (hostMessage s).length ++ ((hostMessage s).drop o).take 238)⟩ ∈ t.outs
      ∧ fget t Fld.mgtH2m_BUSY = (if (hostMessage s).length ≤ o + 238 then 0 else fget s Fld.mgtH2m_BUSY) ∧ t = { s with regs := t.regs, outs := t.outs, hif := t.hif } := by
  have hanswer : ⟨s.now, .limmund b 0 (fetchedPart s o)⟩ ∈ (reply s b 0 (fetchedPart s o)).outs := List.mem_append_right _ (List.mem_singleton.mpr rfl)
  rw [mbxFetch_ready hserve hready, if_neg (by rw [fon, decide_eq_true hbusy, decide_eq_false (by omega)]; decide)]
  by_cases hlast : (hostMessage s).length ≤ o + 238
  · rw [if_pos hlast, if_pos hlast]
    refine ⟨_, rfl, ?_, ?_, ?_⟩
    · exact sendVec_outs_subset _ 2 hanswer
    · rw [fget_of_regs _ (sendVec_regs _ 2), fget_fset_same]
      rfl
    · rw [sendVec_side]
      rfl
  · rw [if_neg hlast, if_neg hlast]
    exact ⟨_, rfl, hanswer, rfl, rfl⟩

end

theorem mbxFetch_down (o : Nat) (hdown : (mainReady s && serving s) = false) : execMbxFetch b o s = .next (reply s b 3 []) :=
  limmundMain_down (limmund_either hserve) rfl hdown _

theorem sensorRead_answers {id : Nat} (reading : Int) (hlow : 1 ≤ id) (hhigh : id ≤ 55) :
    execSensorRead b id reading s = .next (emit s (if mainSensor id = true ∧ mainUp s = false then .unavailable b id else .sensor b id (sensorValue s id reading))) := by
  rw [execSensorRead, whenever_true hserve, if_neg (by omega)]
  have hcond : (mainSensor id && !mainUp s) = true ↔ mainSensor id = true ∧ mainUp s = false := by rw [Bool.and_eq_true, Bool.not_eq_true']
  exact congrArg _ ((if_congr hcond rfl rfl).trans (apply_ite (emit s) _ _ _).symm)

end

/-! ### REG_WRITE (R424, R425, Table 15-3) -/

/-- The fields of a register that REG_WRITE considers: the writable ones, and those of the manager's. -/
def regWriteFields (addr : Nat) : List Field := (fieldsAt addr).filter (fun f => decide (f.acc ≠ .ro) || managerWrites f)

section
variable {s : State} (hserve : mgmtServes s .sideband = true)
include hserve

theorem regWrite_unreached {addr : Nat} (value : Word) (h : managerReaches addr = false) : execRegWrite .sideband addr value s = .next (reply s .sideband 1 []) :=
  limmundMain_bad (limmund_sideband hserve true) (by rw [h]; rfl) _

theorem regWrite_down {addr : Nat} (value : Word) (h : managerReaches addr = true) (hdown : (mainReady s && serving s) = false) :
    execRegWrite .sideband addr value s = .next (reply s .sideband 3 []) :=
  limmundMain_down (limmund_sideband hserve true) (by rw [h]; rfl) hdown _

section
variable (hready : (mainReady s && serving s) = true) {addr : Nat} (value : Word) (hreach : managerReaches addr = true)
include hready hreach

theorem regWrite_ready : execRegWrite .sideband addr value s = .next (if (regWriteFields addr).any (fun f => !managerWrites f) then reply s .sideband 2 []
    else reply (if (regWriteFields addr).isEmpty then s else managerWord s addr value.toNat) .sideband 0 []) :=
  limmundMain_ready (limmund_sideband hserve true) (by rw [hreach]; rfl) hready _

theorem regWrite_nothing (h : (fieldsAt addr).all (fun f => decide (f.acc = .ro) && !managerWrites f) = true) :
    execRegWrite .sideband addr value s = .next (reply s .sideband 0 []) := by
  have hnone : regWriteFields addr = [] := List.filter_eq_nil_iff.mpr fun f hf => by
    have hro := List.all_eq_true.mp h f hf
    simp only [Bool.and_eq_true, decide_eq_true_eq, Bool.not_eq_true'] at hro
    simp [hro.1, hro.2]
  rw [regWrite_ready hserve hready value hreach, hnone]
  rfl

theorem regWrite_notOwner (h : (fieldsAt addr).any (fun f => decide (f.acc ≠ .ro) && !managerWrites f) = true) :
    execRegWrite .sideband addr value s = .next (reply s .sideband 2 []) := by
  have hforeign : (regWriteFields addr).any (fun f => !managerWrites f) = true := by
    obtain ⟨f, hf, hforeign⟩ := List.any_eq_true.mp h
    simp only [Bool.and_eq_true, decide_eq_true_eq] at hforeign
    exact List.any_eq_true.mpr ⟨f, List.mem_filter.mpr ⟨hf, by simp [hforeign.1]⟩, hforeign.2⟩
  rw [regWrite_ready hserve hready value hreach, if_pos hforeign]

/-- A register of the manager's own, with a field to write. -/
theorem regWrite_owned (hown : ∀ f ∈ regWriteFields addr, managerWrites f = true) (hsome : regWriteFields addr ≠ []) :
    execRegWrite .sideband addr value s = .next (reply (managerWord s addr value.toNat) .sideband 0 []) := by
  have hforeign : (regWriteFields addr).any (fun f => !managerWrites f) = false := List.any_eq_false.mpr fun f hf => by rw [hown f hf]; decide
  rw [regWrite_ready hserve hready value hreach, hforeign, if_neg Bool.false_ne_true, if_neg (mt List.isEmpty_iff.mp hsome)]

end

end

/-! ### Configuration fields 6 and 7 (R447) -/

theorem keepStaged_side (s : State) (f : Field) : keepStaged s f = { s with cyc := (keepStaged s f).cyc } := by
  unfold keepStaged
  split <;> rfl

theorem stageM_fields {i : Nat} (hi : i < 2) : regWriteFields (0xEC058 + 4 * i) ≠ [] ∧ ∀ f ∈ regWriteFields (0xEC058 + 4 * i), managerWrites f = true := by
  have h : ∀ i < 2, regWriteFields (0xEC058 + 4 * i) ≠ [] ∧ (regWriteFields (0xEC058 + 4 * i)).all managerWrites = true := by decide
  obtain ⟨hsome, hown⟩ := h i hi
  exact ⟨hsome, List.all_eq_true.mp hown⟩

theorem managerWord_stage (s : State) (v : Word) {i : Nat} (hi : i < 2) :
    let t := managerWord s (0xEC058 + 4 * i) v.toNat
    fget t (Fld.rpmCfgStageM_VALUE i) = v.toNat ∧ t = { s with regs := t.regs, cyc := t.cyc } := by
  have heq : managerWord s (0xEC058 + 4 * i) v.toNat = fset (keepStaged s (Fld.rpmCfgStageM_VALUE i)) (Fld.rpmCfgStageM_VALUE i) v.toNat := by
    rw [managerWord, if_neg (by rw [show Fld.rpmCfgCmd_COMMIT.addr = 0xEC000 from rfl]; omega), if_neg (by omega), if_pos (by omega)]
    rw [show (0xEC058 + 4 * i - 0xEC058) / 4 = i by omega]
  intro t
  rw [show t = _ from heq]
  refine ⟨?_, ?_⟩
  · rw [fget_fset_same]
    exact Nat.mod_eq_of_lt v.isLt
  · rw [keepStaged_side]
    rfl

/-! ### W1C registers (R16, R424) -/

/-- With no write of the host in the cycle, the manager's word is written whole. -/
theorem managerWordWrite_alone {s : State} (a v : Nat) (h : (thisCycle s).host = []) :
    managerWordWrite s a v = modCycle (writeWord s a v (fun _ => false)) (fun c => { c with manager := c.manager ++ sharedBits a v, host := c.host.filter (fun x => !meets [x] (sharedBits a v)) }) := by
  rw [managerWordWrite, h, meets_nil, if_neg Bool.false_ne_true]

/-- What a word of the manager's makes of a register that starts no command. -/
theorem managerWordWrite_fields {s : State} {a v : Nat} (hhost : (thisCycle s).host = []) (hstart : startRegister a = false) :
    let t := managerWordWrite s a v
    RegisterSide s t ∧ (∀ f : Field, f.key ∉ (fieldsAt a).map Field.key → fget t f = fget s f)
      ∧ ∀ f : Field, (fieldsAt a).filter (fun g => g.key = f.key) = [f] →
        fget t f = if f.own || writeIgnored s f then fget s f else writtenField f (fget s f) (bitsOf v f.lo f.width) (bitsIn (thisCycle s).flags f.key) := by
  intro t
  have ht : t = modCycle (settle s ((fieldsAt a).foldl (fieldWrite s v) s)) (fun c => { c with manager := c.manager ++ sharedBits a v, host := c.host.filter (fun x => !meets [x] (sharedBits a v)) }) := by
    rw [← writeWord_plain s (a := a) (v := v) (fun h => absurd (hstart.symm.trans h) Bool.false_ne_true), ← managerWordWrite_alone a v hhost]
  have hfget : ∀ f, fget t f = fget ((fieldsAt a).foldl (fieldWrite s v) s) f := fun f => fget_of_regs f (by rw [ht]; exact settle_regs s _)
  have hfold := writesKeys_foldl_fieldWrite s v (fieldsAt a) s fun g hg => List.mem_map_of_mem (f := Field.key) hg
  refine ⟨ht ▸ (hfold.side.settle s).modCycle _, fun f hf => (hfget f).trans (hfold.others f hf), fun f hf => ?_⟩
  exact (hfget f).trans (fget_foldl_fieldWrite s v hf)

/-- A register whose fields are read-only or flags that a write clears. -/
def flagRegister (s : State) (addr : Nat) : Bool := (fieldsAt addr).all (fun f => decide (f.acc = .ro) || (decide (f.acc = .w1c) && !f.own && !writeIgnored s f))

theorem flagRegister_field {s : State} {addr : Nat} (h : flagRegister s addr = true) {f : Field} (hf : f ∈ fieldsAt addr) :
    f.acc = .ro ∨ (f.acc = .w1c ∧ f.own = false ∧ writeIgnored s f = false) := by
  have hfield := List.all_eq_true.mp h f hf
  simpa only [Bool.or_eq_true, Bool.and_eq_true, decide_eq_true_eq, Bool.not_eq_true', and_assoc] using hfield

/-- Such a register has no start bit. -/
theorem flagRegister_starts {s : State} {addr : Nat} (h : flagRegister s addr = true) (hlow : addr < 0xE0000) : startRegister addr = false := by
  have hgo : ∀ a ∈ [Fld.prsPcmd_GO.addr, Fld.chdOtcmd_GO.addr], ∃ f ∈ fieldsAt a, f.acc = .w1s := by decide
  refine Bool.eq_false_iff.mpr fun hstart => ?_
  have hplace : addr ∈ [Fld.prsPcmd_GO.addr, Fld.chdOtcmd_GO.addr] := by
    rcases startRegister_spine hstart (by omega) with ha | ha | ha
    · simp [ha]
    · simp [ha]
    · exact absurd ha (by rw [show Fld.mgtH2m_SEND.addr = 0xf080c from rfl]; omega)
  obtain ⟨f, hf, hacc⟩ := hgo addr hplace
  rcases flagRegister_field h hf with hro | ⟨hw1c, -, -⟩
  · rw [hacc] at hro; cases hro
  · rw [hacc] at hw1c; cases hw1c

theorem flagRegister_owned {s : State} {addr : Nat} (h : flagRegister s addr = true) : ∀ f ∈ regWriteFields addr, managerWrites f = true := by
  intro f hf
  obtain ⟨hmem, hsel⟩ := List.mem_filter.mp hf
  rcases flagRegister_field h hmem with hro | ⟨hw1c, -, -⟩
  · simpa [hro] using hsel
  · simp [managerWrites, hw1c]

theorem managerWord_flags {s : State} {addr v : Nat} (hlow : addr < 0xE0000) : managerWord s addr v = managerWordWrite s addr v := by
  rw [managerWord, if_neg (by rw [show Fld.rpmCfgCmd_COMMIT.addr = 0xEC000 from rfl]; omega), if_neg (by omega), if_neg (by omega)]

theorem regWrite_flags {s : State} (hserve : mgmtServes s .sideband = true) (hready : (mainReady s && serving s) = true) {addr : Nat} (v : Word)
    (hreach : managerReaches addr = true) (hflags : flagRegister s addr = true) (hany : (fieldsAt addr).any (fun f => decide (f.acc = .w1c)) = true)
    (hhost : (thisCycle s).host = []) (hlow : addr < 0xE0000) :
    ∃ t, execRegWrite .sideband addr v s = .next t ∧ ⟨s.now, .limmund .sideband 0 []⟩ ∈ t.outs
      ∧ t = { s with regs := t.regs, hif := t.hif, outs := t.outs, cyc := t.cyc } ∧ (∀ f : Field, f.key ∉ (fieldsAt addr).map Field.key → fget t f = fget s f)
      ∧ ∀ f : Field, (fieldsAt addr).filter (fun g => g.key = f.key) = [f] →
        fget t f = writtenField f (fget s f) (bitsOf v.toNat f.lo f.width) (bitsIn (thisCycle s).flags f.key) := by
  have hsome : regWriteFields addr ≠ [] := fun hnone => by
    obtain ⟨f, hf, hacc⟩ := List.any_eq_true.mp hany
    exact List.filter_eq_nil_iff.mp hnone f hf (by simp [of_decide_eq_true hacc])
  obtain ⟨hside, hothers, hfields⟩ := managerWordWrite_fields (v := v.toNat) hhost (flagRegister_starts hflags hlow)
  rw [regWrite_owned hserve hready v hreach (flagRegister_owned hflags) hsome, managerWord_flags hlow]
  generalize managerWordWrite s addr v.toNat = u at hside hothers hfields
  refine ⟨_, rfl, List.mem_append_right _ (List.mem_singleton.mpr (by rw [hside.now])), ?_, hothers, fun f hf => ?_⟩
  · exact hside.trans rfl
  · have hmem : f ∈ fieldsAt addr := List.mem_of_mem_filter (hf ▸ List.mem_singleton.mpr rfl)
    refine (hfields f hf).trans ?_
    rcases flagRegister_field hflags hmem with hro | ⟨-, hown, hignored⟩
    · rw [writtenField, hro, ite_self]
    · rw [hown, hignored]
      rfl

/-! ### The side-band's own commands -/

section
variable {s : State} (hserve : mgmtServes s .sideband = true)
include hserve

theorem setPowerCap_inRange {w : Nat} (h : w = 0 ∨ (300 ≤ w ∧ w ≤ 780)) :
    ∃ t, execSetPowerCap .sideband w s = .next t ∧ fget t Fld.mgtCap_WATTS = w ∧ Answers s t .sideband 0 [] ∧ t = { s with regs := t.regs, outs := t.outs } := by
  rw [execSetPowerCap, limmund_sideband hserve, if_pos h]
  exact ⟨_, rfl, (fget_fset_same s Fld.mgtCap_WATTS w).trans (Nat.mod_eq_of_lt (show w < 2 ^ 10 by omega)), rfl, rfl⟩

theorem setPowerCap_refused {w : Nat} (h : (0 < w ∧ w < 300) ∨ 780 < w) : execSetPowerCap .sideband w s = .next (reply s .sideband 1 []) := by
  rw [execSetPowerCap, limmund_sideband hserve, if_neg (by omega)]

/-- A command of SET_OFFLINE goes to its mode and is answered. -/
theorem setOffline_goes : ∀ c ∈ [(Instr.setOfflineQuiesce .sideband, 1), (.setOfflineReset .sideband, 2), (.setOfflinePowerOff .sideband, 3)],
    exec c.1 s = .next (reply (goOffline s c.2) .sideband 0 []) ∧ 1 ≤ c.2 ∧ c.2 < 4 := by
  have hquiesce : execSetOfflineQuiesce .sideband s = .next (reply (goOffline s 1) .sideband 0 []) := by rw [execSetOfflineQuiesce, limmund_sideband hserve]
  have hreset : execSetOfflineReset .sideband s = .next (reply (goOffline s 2) .sideband 0 []) := by rw [execSetOfflineReset, limmund_sideband hserve]
  have hpower : execSetOfflinePowerOff .sideband s = .next (reply (goOffline s 3) .sideband 0 []) := by rw [execSetOfflinePowerOff, limmund_sideband hserve]
  simp only [List.forall_mem_cons]
  exact ⟨⟨hquiesce, by decide⟩, ⟨hreset, by decide⟩, ⟨hpower, by decide⟩, fun _ h => by cases h⟩

theorem setOfflineNone_answers : ∃ t, execSetOfflineNone .sideband s = .next t ∧ fget t Fld.mgtStatus_OFFLINE = 0 ∧ t.power.thermtrip = false
    ∧ t.power.offlineReset = false ∧ Answers s t .sideband 0 [] := by
  obtain ⟨hmode, htrip, hreset, houts, hnow⟩ := goOnline_effect s
  rw [execSetOfflineNone, limmund_sideband hserve]
  generalize goOnline s = u at hmode htrip hreset houts hnow
  refine ⟨_, rfl, hmode, htrip, hreset, ?_⟩
  rw [Answers, reply, emit, houts, hnow]

end

theorem setOffline_effect {s t : State} {mode : Nat} (hone : 1 ≤ mode) (hmode : mode < 4) (ht : t = reply (goOffline s mode) .sideband 0 []) :
    fget t Fld.mgtStatus_OFFLINE = max (fget s Fld.mgtStatus_OFFLINE) mode ∧ ⟨s.now, .limmund .sideband 0 []⟩ ∈ t.outs
      ∧ (2 ≤ mode → fget s Fld.mgtStatus_OFFLINE < mode → fget s Fld.fsqCtl_RUN = 0 → s.power.phase = .running →
          t.power.phase = (if mode = 2 then .mainReset else .off) ∧ t.fmem = [] ∧ t.facets = [])
      ∧ (fget s Fld.mgtStatus_OFFLINE < mode → fget s Fld.fsqCtl_RUN ≠ 0 → s.seq.inFrame = true → s.seq.reported = false → t.seq.stopReq = true ∧ t.fmem = s.fmem) := by
  obtain ⟨hnow, hoffline⟩ := goOffline_mode s hmode
  subst ht
  refine ⟨hoffline, List.mem_append_right _ (List.mem_singleton.mpr (by rw [hnow])), fun hdeep h hrun hphase => ?_, fun h hrun hframe hreport => ?_⟩
  · exact goOffline_stopped (by omega) h hrun hphase
  · exact goOffline_running h hrun hframe hreport

/-! ### The host's message (R439) -/

theorem hostMailboxSend_effect {s : State} {len : Nat} (hup : hostUp s = true) (hlen : len < 512) :
    ∃ t, execHostMailboxSend len s = .next t ∧ fget t Fld.mgtH2m_LEN = len ∧ t = { s with regs := t.regs, mgmt := t.mgmt }
      ∧ (fget s Fld.mgtH2m_BUSY = 0 → 1 ≤ len → len ≤ 256 → fget t Fld.mgtH2m_BUSY = 1 ∧ t.mgmt = { s.mgmt with h2mLen := len })
      ∧ (fget s Fld.mgtH2m_BUSY ≠ 0 ∨ len < 1 ∨ 256 < len → fget t Fld.mgtH2m_BUSY = fget s Fld.mgtH2m_BUSY ∧ t.mgmt = s.mgmt) := by
  have hset : fget (fset s Fld.mgtH2m_LEN len) Fld.mgtH2m_LEN = len := (fget_fset_same s _ len).trans (Nat.mod_eq_of_lt hlen)
  have hbusy : fget (fset s Fld.mgtH2m_LEN len) Fld.mgtH2m_BUSY = fget s Fld.mgtH2m_BUSY := fget_fset_other _ _ _ _ (by decide)
  rw [execHostMailboxSend, whenever_true hup]
  dsimp only
  refine ⟨_, rfl, ?_⟩
  by_cases h : fon (fset s Fld.mgtH2m_LEN len) Fld.mgtH2m_BUSY = true ∨ len < 1 ∨ 256 < len
  · rw [if_pos h]
    rw [fon_iff, hbusy] at h
    exact ⟨hset, rfl, fun hfree hlow hhigh => by omega, fun _ => ⟨hbusy, rfl⟩⟩
  · rw [if_neg h]
    rw [fon_iff, hbusy] at h
    refine ⟨(fget_fset_other _ _ _ _ (by decide)).trans hset, rfl, fun _ _ _ => ⟨fget_fset_same _ Fld.mgtH2m_BUSY 1, rfl⟩, fun hbad => absurd hbad h⟩

/-- Settles O48, clause by clause. -/
theorem managementAnswers : Obligations.ManagementAnswers := by
  unfold Obligations.ManagementAnswers
  intro s b
  have hmain : ∀ x, (mainReady s && decide (serving s = x)) = true → (mainReady s && serving s) = x := fun x h => by
    simp only [Bool.and_eq_true, decide_eq_true_eq] at h
    rw [h.1, h.2, Bool.true_and]
  refine ⟨fun hserve watts addr value c hc => ⟨_, sideOnly_refused hserve watts addr value c hc, rfl⟩, fun hserve => ⟨?_, ?_, ?_, ?_, fun hready => ?_, ?_, ?_,
    fun hdown => ?_, ?_⟩, ?_, fun hserve => ⟨?_, ?_, ?_, ?_, ?_, fun hready addr v hreach => ?_⟩, ?_, ?_, ?_⟩
  · exact ⟨_, getStatus_answers hserve, rfl⟩
  · exact fun first count h => ⟨_, readLog_few hserve first h, rfl⟩
  · exact fun first count h => ⟨_, readLog_many hserve first h, rfl⟩
  · exact fun command body hbinding hbad => ⟨_, badRequest_answered hserve hbinding hbad, rfl⟩
  · have hready := hmain true hready
    exact ⟨fun addr words => regRead_answers hserve hready, fun m => mbxSend_latches hserve hready,
      fun m hlow hhigh hbusy => ⟨_, mbxSend_busy hserve hready hlow hhigh hbusy, rfl⟩, fun o => mbxFetch_part hserve hready,
      fun o h => ⟨_, mbxFetch_nothing hserve hready h, rfl⟩⟩
  · exact fun addr words h => ⟨_, regRead_refused hserve h, rfl⟩
  · exact fun m h => ⟨_, mbxSend_refused hserve h, rfl⟩
  · have hdown := hmain false hdown
    refine ⟨fun addr words hlow hhigh hreach => ⟨_, regRead_down hserve hlow hhigh hreach hdown, rfl⟩, ?_, fun m hlow hhigh => ⟨_, mbxSend_down hserve hlow hhigh hdown, rfl⟩,
      fun o => ⟨_, mbxFetch_down hserve o hdown, rfl⟩⟩
    rintro addr v rfl hreach
    exact ⟨_, regWrite_down hserve v hreach hdown, rfl⟩
  · exact fun id reading => sensorRead_answers hserve reading
  · intro hserve eid
    refine ⟨_, whenever_true hserve, ?_⟩
    cases b
    · exact ⟨rfl, rfl, fun _ => ⟨rfl, rfl⟩, fun h => by cases h⟩
    · exact ⟨rfl, rfl, fun h => (by cases h), fun _ => ⟨rfl, rfl⟩⟩
  · exact fun w => setPowerCap_inRange hserve
  · exact fun w h => ⟨_, setPowerCap_refused hserve h, rfl⟩
  · intro c hc _
    obtain ⟨hexec, hone, hmode⟩ := setOffline_goes hserve c hc
    exact ⟨_, hexec, setOffline_effect hone hmode rfl⟩
  · exact setOfflineNone_answers hserve
  · exact fun addr v h => ⟨_, regWrite_unreached hserve v h, rfl⟩
  · have hready := hmain true hready
    refine ⟨fun h => ⟨_, regWrite_nothing hserve hready v hreach h, rfl⟩, fun h => ⟨_, regWrite_notOwner hserve hready v hreach h, rfl⟩, ?_,
      regWrite_flags hserve hready v hreach⟩
    rintro i hi rfl
    obtain ⟨hsome, hown⟩ := stageM_fields hi
    obtain ⟨hvalue, hside⟩ := managerWord_stage s v hi
    refine ⟨_, regWrite_owned hserve hready v hreach hown hsome, hvalue, ?_, ?_⟩
    · rw [hside]; rfl
    · rw [hside]; rfl
  · exact fun hstby hi3c a => whenever_true (by rw [hstby, hi3c]; rfl)
  · exact fun q amps hup hq hgood => ⟨_, whenever_true (by rw [hup, decide_eq_true hq, hgood]; rfl), mapGet_mapPut_same _ _ _ _, rfl⟩
  · exact fun hup len => hostMailboxSend_effect hup

end Sys2Proof.Machine
end

section
/-! The standby domain, the rails and the resets in order (R429, R430, R492 to R497, R500, R501, R505, R512, Table 18-5). -/

namespace Sys2Proof.Machine

/-! ### STBY_PWROK and the management firmware (R429, R492) -/

/-- An image refused: its flag and its count; the registers of the manager stay. -/
theorem fwRefused_effect (s : State) :
    RegisterSide s (fwRefused s) ∧ fget (fwRefused s) Fld.secErr_FWFAIL = 1 ∧ fget (fwRefused s) Fld.secCntFwfail_COUNT = (fget s Fld.secCntFwfail_COUNT + 1) % 2 ^ 32 := by
  refine ⟨(registerSide_self s).event _ _, fget_setFlag_same _ _ rfl, ?_⟩
  rw [fwRefused, event, setFlag, fget_setBits_other _ _ _ _ (by decide), bump, fget_fset_same]
  rfl

/-- A refusal changes no other image's acceptance. -/
theorem fwAccepted_fwRefused (s : State) {comp : Nat} (slot : Nat) : fwAccepted (fwRefused s) comp slot = fwAccepted s comp slot := by
  have hside := (fwRefused_effect s).1
  have hsvn : ∀ g ∈ [Fld.secSvn_MGT, Fld.secSvn_MAIN, Fld.secSvn_PROT], g.key ≠ Fld.secErr_FWFAIL.key ∧ g.key ≠ Fld.secCntFwfail_COUNT.key := by decide
  have hmem : svnField comp ∈ [Fld.secSvn_MGT, Fld.secSvn_MAIN, Fld.secSvn_PROT] := by
    unfold svnField
    split
    · simp
    · split <;> simp
  obtain ⟨hflag, hcount⟩ := hsvn _ hmem
  refine fwAccepted_congr (by rw [hside]) ?_ (by rw [hside]) slot
  rw [fwRefused, event, setFlag, fget_setBits_other _ _ _ _ hflag, bump, fget_fset_other _ _ _ _ hcount]

/-- The ROM reaches registers and the manager's own record alone; pins and flash stay. -/
structure BootSide (s t : State) : Prop where
  power : t.power = s.power
  flash : t.flash = s.flash
  pins : t.mgmt.addr = s.mgmt.addr ∧ t.mgmt.i3c = s.mgmt.i3c

theorem bootSide_fwLoaded (s : State) (slot attempt : Nat) : BootSide s (modMgmt (fwLoaded s 1 slot) (fun m => { m with bootAt := s.now, bootTried := attempt })) := by
  obtain ⟨-, -, hside⟩ := fwLoaded_management s slot
  generalize fwLoaded s 1 slot = u at hside
  exact ⟨by rw [hside]; rfl, by rw [hside]; rfl, by rw [hside]; exact ⟨rfl, rfl⟩⟩

theorem RegisterSide.boot {s t : State} (h : RegisterSide s t) : BootSide s t := by
  rw [h]
  exact ⟨rfl, rfl, rfl, rfl⟩

theorem BootSide.trans {s t u : State} (h : BootSide s t) (k : BootSide t u) : BootSide s u :=
  ⟨k.power.trans h.power, k.flash.trans h.flash, k.pins.1.trans h.pins.1, k.pins.2.trans h.pins.2⟩

theorem bootSide_romTry (s : State) (slot attempt : Nat) : BootSide s (romTry s slot attempt) := by
  have hrefused := (fwRefused_effect s).1.boot
  have hrecovery : ∀ t, BootSide t (fset t Fld.mgtStatus_STATE 4) := fun t => ⟨rfl, rfl, rfl, rfl⟩
  have hother : BootSide (fwRefused s) (modMgmt (fwLoaded (fwRefused s) 1 (1 - slot)) (fun m => { m with bootAt := (fwRefused s).now, bootTried := 2 })) :=
    bootSide_fwLoaded _ _ _
  unfold romTry
  dsimp only
  split
  · exact bootSide_fwLoaded s slot attempt
  · split
    · split
      · exact hrefused.trans hother
      · exact (hrefused.trans (fwRefused_effect _).1.boot).trans (hrecovery _)
    · exact hrefused.trans (hrecovery _)

/-- With both slots refused the ROM stays in RECOVERY, and has counted both. -/
theorem romTry_refused {s : State} {slot : Nat} (hfirst : fwAccepted s 1 slot = false) (hother : fwAccepted s 1 (1 - slot) = false) :
    mgmtState (romTry s slot 1) = 4 ∧ fget (romTry s slot 1) Fld.secCntFwfail_COUNT = (fget s Fld.secCntFwfail_COUNT + 2) % 2 ^ 32 := by
  have hrom : romTry s slot 1 = fset (fwRefused (fwRefused s)) Fld.mgtStatus_STATE 4 := by
    rw [romTry, hfirst, if_neg Bool.false_ne_true]
    dsimp only
    rw [if_pos (by decide), fwAccepted_fwRefused, hother, if_neg Bool.false_ne_true]
  rw [hrom]
  refine ⟨fget_fset_same _ Fld.mgtStatus_STATE 4, ?_⟩
  rw [fget_fset_other _ _ _ _ (by decide), (fwRefused_effect _).2.2, (fwRefused_effect _).2.2]
  omega

/-- The pins as STBY_PWROK's rise reads them. -/
def strapsRead (s : State) (straps : Nat) : State :=
  modMgmt (modPower s (fun p => { p with stbyOk := true })) (fun m => { m with i3c := bitSet straps 2, addr := 0x3C + straps % 4 })

theorem fwAccepted_strapsRead (s : State) (straps slot : Nat) : fwAccepted (strapsRead s straps) 1 slot = fwAccepted s 1 slot := fwAccepted_congr rfl rfl rfl slot

theorem stbyPwrokRise_effect {s : State} (straps : Nat) (hstby : s.power.stbyOk = false) :
    ∃ t, execStbyPwrokRise straps s = .next t ∧ t.power.stbyOk = true ∧ t.mgmt.addr = 0x3C + straps % 4 ∧ t.mgmt.i3c = bitSet straps 2 ∧ t.flash = s.flash
      ∧ (fwAccepted s 1 s.mgmt.active1 = true → fget t Fld.secBoot_MGTSLOT = s.mgmt.active1 % 2 ∧ t.mgmt.bootTried = 1 ∧ t.mgmt.bootAt = s.now ∧ mgmtState t = mgmtState s)
      ∧ (fwAccepted s 1 s.mgmt.active1 = false → fwAccepted s 1 (1 - s.mgmt.active1) = false → mgmtState t = 4 ∧ fget t Fld.secCntFwfail_COUNT = (fget s Fld.secCntFwfail_COUNT + 2) % 2 ^ 32) := by
  have hexec : execStbyPwrokRise straps s = .next (romTry (strapsRead s straps) s.mgmt.active1 1) := whenever_true (by rw [hstby]; rfl)
  obtain ⟨hpower, hflash, haddr, hi3c⟩ := bootSide_romTry (strapsRead s straps) s.mgmt.active1 1
  refine ⟨_, hexec, by rw [hpower]; rfl, haddr, hi3c, hflash, fun hok => ?_, fun hfirst hother => ?_⟩
  · obtain ⟨hslot, hstate, -⟩ := fwLoaded_management (strapsRead s straps) s.mgmt.active1
    rw [romTry_accepted 1 ((fwAccepted_strapsRead s straps _).trans hok)]
    generalize fwLoaded (strapsRead s straps) 1 s.mgmt.active1 = u at hslot hstate
    exact ⟨hslot, rfl, rfl, hstate⟩
  · exact romTry_refused ((fwAccepted_strapsRead s straps _).trans hfirst) ((fwAccepted_strapsRead s straps _).trans hother)

/-! ### The rails go down (R493, R495, R512) -/

/-- Rails taken down: the main domain is off and emptied, the manager keeps its data. -/
structure RailsDown (s t : State) (enabled : Nat) (step : Option Nat) : Prop where
  off : MainOff t
  power : t.power.enabled = enabled ∧ t.power.good = Nat.land s.power.good enabled ∧ t.power.dropStep = (if enabled = 0 then none else step) ∧ t.power.stepAt = s.now
    ∧ t.power.thermtrip = s.power.thermtrip
  mgmt : t.mgmt = s.mgmt
  flash : t.flash = s.flash
  now : t.now = s.now
  fused : fget t Fld.secStatus_OWNERFUSED = fget s Fld.secStatus_OWNERFUSED

theorem railsDown_takenDown (s : State) (enabled : Nat) (step : Option Nat) : RailsDown s (takenDown s enabled step) enabled step := by
  have hcleared := cleared_resetMain .powerOn s
  unfold takenDown
  generalize resetMain .powerOn s = u at hcleared
  have hheld := heldHif_hifHold (modPower u (fun p => { p with
    phase := .off, funcReset := none, goingDown := false, riseAt := none, dropStep := if enabled = 0 then none else step, stepAt := s.now, enabled := enabled
    good := Nat.land p.good enabled, offlineReset := false }))
  have hfused : fget u Fld.secStatus_OWNERFUSED = fget s Fld.secStatus_OWNERFUSED := (hcleared.kept _ (by decide)).trans (if_pos (by decide))
  have hgood : u.power.good = s.power.good := by rw [hcleared.power]
  have htrip : u.power.thermtrip = s.power.thermtrip := by rw [hcleared.power]
  have hfused' := (hheld.regs Fld.secStatus_OWNERFUSED (by decide) (by decide)).trans hfused
  obtain ⟨hfmem, himem, hsts⟩ := hcleared.memories
  have hside := hheld.side
  generalize hifHold _ = t at hside hfused' hheld
  refine ⟨?_, ?_, ?_, ?_, ?_, hfused'⟩
  · rw [hside]
    refine ⟨rfl, ?_, hfmem, himem, hsts rfl, hcleared.far, hcleared.units.1⟩
    simp [holdsHif, modPower]
  · rw [hside]
    exact ⟨rfl, congrArg (fun g => Nat.land g enabled) hgood, rfl, rfl, htrip⟩
  · rw [hside]; exact hcleared.mgmt
  · rw [hside]; exact hcleared.flash
  · rw [hside]; exact hcleared.now

/-- An event logged: one more entry, and nothing but the log changes. -/
theorem logEvent_effect (s : State) (code : Nat) (detail : List Byte) :
    ∃ log, logEvent s code detail = { s with mgmt := { s.mgmt with log := log, logCount := s.mgmt.logCount + 1 } } := ⟨_, rfl⟩

/-- The loss of rails is logged, and the offline mode reads POWER_OFF. -/
theorem railsLost_effect (s : State) (kind : Nat) :
    fget (railsLost s kind) Fld.mgtStatus_OFFLINE = 3 ∧ (railsLost s kind).mgmt.logCount = s.mgmt.logCount + 1
      ∧ railsLost s kind = { s with regs := (railsLost s kind).regs, mgmt := (railsLost s kind).mgmt, free := (railsLost s kind).free } := by
  obtain ⟨log, hlog⟩ := logEvent_effect s (Config.powerEventCode kind) ((List.range 24).map (Config.freeByte s.free))
  refine ⟨fget_fset_same _ Fld.mgtStatus_OFFLINE 3, ?_, ?_⟩
  · rw [railsLost, logPower, hlog]
    rfl
  · rw [railsLost, logPower, hlog]
    rfl

/-- Rails that the manager takes down for a loss, from a state with the same groups enabled. -/
theorem takesDown_sequenceOff {s u : State} (step kind : Nat) (henabled : u.power.enabled = s.power.enabled) (hnow : u.now = s.now) (hmgmt : u.mgmt = s.mgmt) :
    TakesDown s (railsLost (sequenceOff u step) kind) step := by
  have hdown := railsDown_takenDown u (withoutHighest u.power.enabled) (some step)
  rw [sequenceOff]
  generalize takenDown u (withoutHighest u.power.enabled) (some step) = v at hdown
  have hlost := railsLost_effect v kind
  generalize railsLost v kind = t at hlost
  obtain ⟨hmode, hcount, hside⟩ := hlost
  obtain ⟨hoff, ⟨hen, -, hdrop, hstep, -⟩, hkept, -, -, -⟩ := hdown
  rw [henabled] at hen hdrop
  have hpower : t.power = v.power := by rw [hside]
  refine ⟨?_, hpower ▸ hen, hpower ▸ hdrop, hpower ▸ hstep.trans hnow, hmode, by rw [hcount, hkept, hmgmt]⟩
  rw [MainOff, hside]
  exact hoff

theorem pwrGoodTimeout_effect {s : State} {n : Nat} (hrise : rising s n = true) (hlate : s.power.stepAt + 26000000 ≤ s.now) :
    ∃ t, execPwrGoodTimeout n s = .next t ∧ TakesDown s t 1300000 := by
  have hexec : execPwrGoodTimeout n s = .next (railsLost (sequenceOff s (cyclesOf 1000)) 0) :=
    whenever_true (by rw [hrise, Bool.true_and]; exact decide_eq_true hlate)
  exact ⟨_, hexec, takesDown_sequenceOff _ _ rfl rfl rfl⟩

theorem rising_iff (s : State) (n : Nat) : rising s n = true ↔ (1 ≤ n ∧ n ≤ 4) ∧ bitSet s.power.enabled (n - 1) = true ∧ bitSet s.power.good (n - 1) = false
    ∧ s.power.goingDown = false ∧ s.power.dropStep = none := by
  simp [rising, and_assoc]

theorem pwrGoodLoss_effect {s : State} {n : Nat} (hlow : 1 ≤ n) (hhigh : n ≤ 4) (hen : bitSet s.power.enabled (n - 1) = true) (hgood : bitSet s.power.good (n - 1) = true)
    (hup : s.power.goingDown = false) (hdrop : s.power.dropStep = none) : ∃ t, execPwrGoodLoss n s = .next t ∧ TakesDown s t 130000 := by
  have hexec : execPwrGoodLoss n s = .next (railsLost (sequenceOff (modPower s (fun p => { p with good := clearBit p.good (n - 1) })) (cyclesOf 100)) 1) :=
    whenever_true (by simp [hlow, hhigh, hen, hgood, hup, hdrop])
  exact ⟨_, hexec, takesDown_sequenceOff _ _ rfl rfl rfl⟩

theorem thermtrip_effect {s : State} (hstby : s.power.stbyOk = true) (hen : s.power.enabled ≠ 0) :
    ∃ t, execThermtrip s = .next t ∧ MainOff t ∧ t.power.enabled = 0 ∧ t.power.good = 0 ∧ t.power.dropStep = none ∧ fget t Fld.mgtStatus_OFFLINE = 3
      ∧ t.power.thermtrip = true ∧ t.mgmt.logCount = s.mgmt.logCount + 1 := by
  have hexec : execThermtrip s = .next (railsLost (dropRails (modPower s (fun p => { p with thermtrip := true }))) 2) := whenever_true (by simp [hstby, hen])
  have hdown := railsDown_takenDown (modPower s (fun p => { p with thermtrip := true })) 0 none
  rw [dropRails] at hexec
  generalize takenDown (modPower s (fun p => { p with thermtrip := true })) 0 none = v at hdown hexec
  obtain ⟨hoff, ⟨henabled, hgood, hdrop, -, htrip⟩, hkept, -, -, -⟩ := hdown
  have hlost := railsLost_effect v 2
  generalize railsLost v 2 = t at hlost hexec
  obtain ⟨hmode, hcount, hside⟩ := hlost
  have hpower : t.power = v.power := by rw [hside]
  refine ⟨_, hexec, ?_, ?_, ?_, ?_, hmode, ?_, by rw [hcount, hkept]; rfl⟩
  · rw [MainOff, hside]
    exact hoff
  · rw [hpower, henabled]
  · rw [hpower, hgood]
    exact Nat.and_zero _
  · rw [hpower, hdrop]
    exact if_pos rfl
  · rw [hpower, htrip]
    rfl

/-! ### The standby domain falls (R492, R495) -/

/-- The standby domain in reset, the rails down. -/
def standbyReset (s : State) : State :=
  modPower (modMgmt { s with regs := s.regs.filter (fun e => flashReg (e.1 / 32) (e.1 % 32) || fuseField e.1), clamps := [] }
      (fun m => { Mgmt.reset with
        ownerHash := m.ownerHash, vendorRevoked := m.vendorRevoked, storedKey := m.storedKey, storedUnowned := m.storedUnowned
        active1 := m.active1, active2 := m.active2, active3 := m.active3, flashLog := m.flashLog, nonce := m.nonce }))
    (fun p => { Power.reset with perstHigh := p.perstHigh, zeroAt := p.zeroAt })

theorem fget_standbyReset (s : State) (g : Field) : fget (standbyReset s) g = if flashReg (g.key / 32) (g.key % 32) || fuseField g.key then fget s g else g.reset :=
  fget_filtered s (fun k => flashReg (k / 32) (k % 32) || fuseField k) g

theorem stbyPwrokFall_effect {s : State} (hstby : s.power.stbyOk = true) :
    ∃ t, execStbyPwrokFall s = .next t ∧ t.power.stbyOk = false ∧ t.power.phase = .off ∧ t.power.enabled = 0 ∧ t.flash = s.flash ∧ t.mgmt.ownerHash = s.mgmt.ownerHash
      ∧ fget t Fld.secStatus_OWNERFUSED = fget s Fld.secStatus_OWNERFUSED ∧ t.fmem = [] ∧ t.sts = [] ∧ t.far = [] ∧ mgmtState t = 0 := by
  have hexec : execStbyPwrokFall s = .next (standbyReset (dropRails s)) := whenever_true hstby
  obtain ⟨⟨-, -, hfmem, -, hsts, hfar, -⟩, -, hmgmt, hflash, -, hfused⟩ := railsDown_takenDown s 0 none
  rw [dropRails] at hexec
  generalize takenDown s 0 none = u at hfmem hsts hfar hmgmt hflash hfused hexec
  refine ⟨_, hexec, rfl, rfl, rfl, hflash, show u.mgmt.ownerHash = _ from by rw [hmgmt], ?_, hfmem, hsts, hfar, ?_⟩
  · exact ((fget_standbyReset u _).trans (if_pos (by decide))).trans hfused
  · exact (fget_standbyReset u Fld.mgtStatus_STATE).trans (if_neg (by decide))

/-! ### Firmware that reports ready, and rails that come up (R429, R493) -/

theorem managementFirmwareReady_effect {s : State} (hstby : s.power.stbyOk = true) (hstate : mgmtState s = 0 ∨ mgmtState s = 2) (htried : 1 ≤ s.mgmt.bootTried)
    (htime : s.now ≤ s.mgmt.bootAt + 2600000000) :
    ∃ t, execManagementFirmwareReady s = .next t ∧ mgmtState t = 1 ∧ t.power.mgmtUp = true ∧ SameMemories s t
      ∧ t.power.enabled = if fget s Fld.mgtStatus_OFFLINE = 0 ∧ s.power.enabled = 0 ∧ s.power.goingDown = false then 1 else s.power.enabled := by
  have hcond : (s.power.stbyOk && (decide (mgmtState s = 0) || decide (mgmtState s = 2)) && decide (1 ≤ s.mgmt.bootTried)
      && decide (s.now ≤ s.mgmt.bootAt + cyclesOf 2000000)) = true := by
    have htime' : s.now ≤ s.mgmt.bootAt + cyclesOf 2000000 := htime
    simp only [hstby, htried, htime', decide_true, Bool.true_and, Bool.and_true, Bool.or_eq_true, decide_eq_true_eq]
    exact hstate
  have hexec : execManagementFirmwareReady s
      = .next (startUp (modPower (modMgmt (fset s Fld.mgtStatus_STATE 1) (fun m => { m with switchFrom := none })) (fun p => { p with mgmtUp := true }))) := whenever_true hcond
  have hready : mgmtState (fset s Fld.mgtStatus_STATE 1) = 1 := fget_fset_same s Fld.mgtStatus_STATE 1
  have hmode : offlineMode (fset s Fld.mgtStatus_STATE 1) = fget s Fld.mgtStatus_OFFLINE := fget_fset_other _ _ _ _ (by decide)
  rw [startUp_side] at hexec
  refine ⟨_, hexec, hready, rfl, ⟨rfl, rfl, rfl, rfl, rfl, rfl⟩, ?_⟩
  rw [← hmode]
  dsimp only
  rw [startUp]
  by_cases h : offlineMode (fset s Fld.mgtStatus_STATE 1) = 0 ∧ s.power.enabled = 0 ∧ s.power.goingDown = false
  · rw [if_pos h, if_pos]
    · rfl
    · obtain ⟨h1, h2, h3⟩ := h
      exact Bool.and_eq_true_iff.mpr ⟨Bool.and_eq_true_iff.mpr ⟨Bool.and_eq_true_iff.mpr ⟨decide_eq_true h1, decide_eq_true h2⟩, (Bool.not_eq_true' _).mpr h3⟩, rfl⟩
  · rw [if_neg h, if_neg]
    · rfl
    · intro hall
      obtain ⟨h123, -⟩ := Bool.and_eq_true_iff.mp hall
      obtain ⟨h12, h3⟩ := Bool.and_eq_true_iff.mp h123
      obtain ⟨h1, h2⟩ := Bool.and_eq_true_iff.mp h12
      exact h ⟨of_decide_eq_true h1, of_decide_eq_true h2, (Bool.not_eq_true' _).mp h3⟩

theorem pwrGoodRise_effect {s : State} {n : Nat} (hrise : rising s n = true) (htime : s.now ≤ s.power.stepAt + 26000000) (hmode : fget s Fld.mgtStatus_OFFLINE ≠ 3)
    (hhigh : n ≤ 4) :
    ∃ t, execPwrGoodRise n s = .next t ∧ bitSet t.power.good (n - 1) = true
      ∧ (n < 4 → t = { s with power := { s.power with good := setBit s.power.good (n - 1), riseAt := some (s.now + 1300000) } })
      ∧ (n = 4 → t.power.phase = .powerOn ∧ t.power.hifReset = true ∧ t.power.hifAt = s.now + 1300000) := by
  have hexec : execPwrGoodRise n s = .next (afterGood (modPower s (fun p => { p with good := setBit p.good (n - 1) })) n) :=
    whenever_true (by rw [hrise, Bool.true_and]; exact decide_eq_true htime)
  have hbit := bitSet_setBit s.power.good (n - 1)
  refine ⟨_, hexec, ?_⟩
  rw [afterGood, if_neg (by exact hmode)]
  by_cases hn : n < 4
  · rw [if_pos hn]
    exact ⟨hbit, fun _ => rfl, fun h => absurd hn (by omega)⟩
  · have hcleared := cleared_resetMain .powerOn (modPower s (fun p => { p with good := setBit p.good (n - 1) }))
    rw [if_neg hn]
    generalize resetMain .powerOn (modPower s (fun p => { p with good := setBit p.good (n - 1) })) = u at hcleared
    have hgood : u.power.good = setBit s.power.good (n - 1) := by rw [hcleared.power]; rfl
    have hnow : u.now = s.now := hcleared.now
    rw [power_hifHold]
    refine ⟨(congrArg (fun g => bitSet g (n - 1)) hgood).trans hbit, fun h => absurd h hn, fun _ => ⟨rfl, ?_, rfl⟩⟩
    have hheld : decide (u.now < s.now + cyclesOf 1000) = true := decide_eq_true (by rw [hnow]; exact Nat.lt_add_of_pos_right (by decide))
    show (_ || decide (u.now < s.now + cyclesOf 1000) || _ || _ || _) = true
    rw [hheld]
    simp only [Bool.or_true, Bool.true_or]

/-! ### The manager's own steps as time passes (R491, R493, R495) -/

theorem moveCore_side (now : Nat) (p : Power) (q : Nat) : moveCore now p q = { p with corePoints := (moveCore now p q).corePoints } := by
  unfold moveCore
  dsimp only
  split
  · rfl
  · rfl

/-- A cycle of the core rails moves set points alone. -/
theorem coreCycle_side (s : State) : coreCycle s = { s with power := { s.power with corePoints := (coreCycle s).power.corePoints } } := by
  have hmoves : ∀ (qs : List Nat) (p : Power), qs.foldl (moveCore s.now) p = { p with corePoints := (qs.foldl (moveCore s.now) p).corePoints } := fun qs => by
    induction qs with
    | nil => exact fun _ => rfl
    | cons q r ih =>
      intro p
      have hstep := ih (moveCore s.now p q)
      rw [moveCore_side] at hstep
      rw [List.foldl_cons, moveCore_side]
      exact hstep
  show modPower s _ = _
  dsimp only [coreCycle, modPower]
  split
  · exact congrArg (fun p => { s with power := p }) (hmoves _ _)
  · rfl

/-- What a cycle leaves of the rails is what the manager's own steps make of them. -/
theorem powerCycle_rails (s : State) :
    (powerCycle s).power.enabled = (dropNext (enableNext s)).power.enabled ∧ (powerCycle s).power.stepAt = (dropNext (enableNext s)).power.stepAt
      ∧ (powerCycle s).power.riseAt = (dropNext (enableNext s)).power.riseAt := by
  unfold powerCycle
  generalize dropNext (enableNext s) = u
  rw [coreCycle_side]
  dsimp only
  split
  · rw [power_hifHold]
    exact ⟨rfl, rfl, rfl⟩
  · exact ⟨rfl, rfl, rfl⟩

theorem powerCycle_enables {s : State} {t₀ g : Nat} (hrise : s.power.riseAt = some t₀) (hgroup : highest s.power.enabled = some g) (htime : t₀ ≤ s.now)
    (hdrop : s.power.dropStep = none) (hmode : fget s Fld.mgtStatus_OFFLINE ≠ 3) :
    (powerCycle s).power.enabled = setBit s.power.enabled (g + 1) ∧ (powerCycle s).power.stepAt = s.now ∧ (powerCycle s).power.riseAt = none := by
  have henable : enableNext s = modPower s (fun p => { p with enabled := setBit p.enabled (g + 1), riseAt := none, stepAt := s.now }) := by
    rw [enableNext, hrise, hgroup]
    exact (if_neg (by omega)).trans (if_neg hmode)
  have hkept : dropNext (enableNext s) = enableNext s := by
    rw [henable, dropNext]
    dsimp only [modPower]
    rw [hdrop]
  have hrails := powerCycle_rails s
  rw [hkept, henable] at hrails
  exact hrails

/-- No group is enabled again while an offline mode is in force. -/
theorem startUp_offline {s : State} (h : offlineMode s ≠ 0) : startUp s = s := if_neg (by simp [h])

theorem powerCycle_drops {s : State} {d : Nat} (hrise : s.power.riseAt = none) (hdrop : s.power.dropStep = some d) (htime : s.power.stepAt + d ≤ s.now)
    (hmode : fget s Fld.mgtStatus_OFFLINE ≠ 0) : (powerCycle s).power.enabled = withoutHighest s.power.enabled ∧ (powerCycle s).power.stepAt = s.now := by
  have henable : enableNext s = s := by rw [enableNext, hrise]
  have hnext : dropNext s = modPower s (fun p => { p with
      enabled := withoutHighest s.power.enabled, good := Nat.land p.good (withoutHighest s.power.enabled), stepAt := s.now
      dropStep := if withoutHighest s.power.enabled = 0 then none else some d }) := by
    rw [dropNext, hdrop]
    exact (if_neg (by omega)).trans (startUp_offline (by exact hmode))
  obtain ⟨hen, hstep, -⟩ := powerCycle_rails s
  rw [henable, hnext] at hen hstep
  exact ⟨hen, hstep⟩

theorem powerDownStep_effect {s : State} (hdown : s.power.goingDown = true) :
    (∀ g, highest s.power.enabled = some g → ∃ t, execPowerDownStep s = .next t ∧ t.power.enabled = clearBit s.power.enabled g ∧ t.power.stepAt = s.now ∧ t = { s with power := t.power })
      ∧ (highest s.power.enabled = none → fget s Fld.mgtStatus_OFFLINE ≠ 0 → ∃ t, execPowerDownStep s = .next t ∧ t.power.goingDown = false ∧ t.power.enabled = s.power.enabled ∧ t = { s with power := t.power }) := by
  refine ⟨fun g hgroup => ?_, fun hgroup hmode => ?_⟩
  · have hexec : execPowerDownStep s = .next (modPower s (fun p => { p with good := Nat.land p.good p.enabled, enabled := clearBit p.enabled g, stepAt := s.now })) := by
      rw [execPowerDownStep, whenever_true hdown]
      dsimp only [modPower]
      rw [hgroup]
    exact ⟨_, hexec, rfl, rfl, rfl⟩
  · have hexec : execPowerDownStep s = .next (modPower s (fun p => { p with good := Nat.land p.good p.enabled, goingDown := false })) := by
      rw [execPowerDownStep, whenever_true hdown]
      dsimp only [modPower]
      rw [hgroup]
      dsimp only
      rw [startUp_offline (by exact hmode)]
    exact ⟨_, hexec, rfl, rfl, rfl⟩

/-! ### PERST_N (R497, R500, R501) -/

theorem sameMemories_hifHold (s : State) : SameMemories s (hifHold s) := by
  rw [SameMemories, (heldHif_hifHold s).side]
  exact ⟨rfl, rfl, rfl, rfl, rfl, rfl⟩

theorem perstNFall_running {s : State} (hhigh : s.power.perstHigh = true) (hphase : s.power.phase = .running) :
    ∃ t, execPerstNFall s = .next t ∧ t.power.phase = .mainReset ∧ t.power.perstHigh = false ∧ t.power.hifReset = true ∧ fget t Fld.hifLink_SPEED = 0
      ∧ t.fmem = [] ∧ t.imem = [] ∧ t.facets = [] ∧ t.seq.active = none ∧ t.far = s.far := by
  have hexec : execPerstNFall s = .next (enterMainReset (modPower s (fun p => { p with perstHigh := false, perstReset := true }))) := by
    have hpast : pastPowerOn (modPower s (fun p => { p with perstHigh := false })) = true := by
      rw [pastPowerOn]
      dsimp only [modPower]
      rw [hphase]
    rw [execPerstNFall, whenever_true hhigh]
    dsimp only
    rw [hpast, if_pos rfl]
    rfl
  have hcleared := cleared_resetMain .main (modPower s (fun p => { p with perstHigh := false, perstReset := true }))
  rw [enterMainReset_running (by exact hphase)] at hexec
  generalize resetMain .main (modPower s (fun p => { p with perstHigh := false, perstReset := true })) = u at hcleared hexec
  have hlow : u.power.perstHigh = false := by rw [hcleared.power]; rfl
  have hheld : holdsHif (modPower u (fun p => { p with phase := .mainReset, funcReset := none })) = true := by
    show (_ || _ || !u.power.perstHigh || _ || _) = true
    rw [hlow]
    simp only [Bool.not_false, Bool.or_true, Bool.true_or]
  have hhif := heldHif_hifHold (modPower u (fun p => { p with phase := .mainReset, funcReset := none }))
  obtain ⟨hfmem, himem, -⟩ := hcleared.memories
  refine ⟨_, hexec, ?_, ?_, ?_, hhif.speed hheld, ?_, ?_, ?_, ?_, ?_⟩
  all_goals rw [hhif.side]
  exacts [rfl, hlow, hheld, hfmem, himem, hcleared.units.1, hcleared.frames.2, hcleared.far]

theorem perstNFall_off {s : State} (hhigh : s.power.perstHigh = true) (hphase : s.power.phase = .off) :
    ∃ t, execPerstNFall s = .next t ∧ t.power = { s.power with perstHigh := false, hifReset := true } ∧ SameMemories s t := by
  have hexec : execPerstNFall s = .next (hifHold (modPower s (fun p => { p with perstHigh := false }))) := by
    have hpast : pastPowerOn (modPower s (fun p => { p with perstHigh := false })) = false := by
      rw [pastPowerOn]
      dsimp only [modPower]
      rw [hphase]
    rw [execPerstNFall, whenever_true hhigh]
    dsimp only
    rw [hpast, if_neg Bool.false_ne_true]
  have hheld : holdsHif (modPower s (fun p => { p with perstHigh := false })) = true := by simp [holdsHif, modPower]
  refine ⟨_, hexec, ?_, sameMemories_hifHold (modPower s (fun p => { p with perstHigh := false }))⟩
  rw [power_hifHold, hheld]
  rfl

theorem perstNRise_effect {s : State} (hlow : s.power.perstHigh = false) :
    ∃ t, execPerstNRise s = .next t ∧ t.power.perstHigh = true ∧ t.power.perstReset = false ∧ t.power.phase = s.power.phase ∧ SameMemories s t
      ∧ (s.power.good = 15 → s.power.hifAt ≤ s.now → s.power.offlineReset = false → s.power.phase ≠ .off → t.power.hifReset = false) := by
  have hexec : execPerstNRise s = .next (hifHold (modPower s (fun p => { p with perstHigh := true, perstReset := false }))) := whenever_true (by rw [hlow]; rfl)
  have hmems := sameMemories_hifHold (modPower s (fun p => { p with perstHigh := true, perstReset := false }))
  have hpower := power_hifHold (modPower s (fun p => { p with perstHigh := true, perstReset := false }))
  refine ⟨_, hexec, ?_, ?_, ?_, hmems, fun hgood hat hoff hphase => ?_⟩
  all_goals rw [hpower]
  · rfl
  · rfl
  · rfl
  · have hpassed : ¬ s.now < s.power.hifAt := Nat.not_lt.mpr hat
    simp [holdsHif, modPower, hgood, hoff, hphase, hpassed]

/-! ### A clock lost (R455, R505) -/

theorem frameGround_abortTask (s : State) (w : Who) (reason : Nat) : frameGround (abortTask s w reason) = frameGround s := by
  unfold abortTask
  split
  · rfl
  · unfold abortId
    dsimp only
    have hdown : ∀ (ds : List Nat) (t : State), frameGround (ds.foldl (fun t d => abortOne t d 8) t) = frameGround t :=
      foldl_keeps frameGround fun t d => frameGround_abortOne t d 8
    split
    · rw [frameGround_of_frameView (frameView_setFlag _ _ (by decide)), hdown, frameGround_abortOne]
    · rw [hdown, frameGround_abortOne]

/-- Aborts reach no power state. -/
theorem power_abortAll (s : State) (reason : Nat) : (abortAll s reason).power = s.power := by
  have hfacet : ∀ (t : State) lf, frameGround (abortFacet t lf reason) = frameGround t := fun t lf => by rw [abortFacet, frameGround_abortTask, frameGround_abortTask]
  have hground : frameGround (abortAll s reason) = frameGround s := by
    unfold abortAll
    exact foldl_keeps frameGround hfacet (List.range 48) s
  generalize abortAll s reason = t at hground
  exact congrArg FrameView.power hground

/-- An event that is no repair is recorded with the frame, or counted as dropped. -/
theorem errorRec_effect (s : State) {cls : Nat} (hcls : cls ≠ 2) (unit index ev task detail : Nat) :
    let t := errorRec s cls unit index ev task detail
    t = { s with regs := t.regs, seq := { s.seq with errRecs := t.seq.errRecs } } ∧ ∀ g : Field, g.key ≠ Fld.rpmCntRecdrop_COUNT.key → fget t g = fget s g := by
  unfold errorRec
  simp only [if_neg hcls]
  split
  · exact ⟨rfl, fun _ _ => rfl⟩
  · exact ⟨rfl, fun g hg => fget_fset_other _ _ _ _ hg⟩

theorem clockLoss_core {s : State} (hserve : serving s = true) (hstop : s.power.stopReq = none) :
    ∃ t, execClockLoss false s = .next t ∧ fget t Fld.rpmErr_FATAL = 1 ∧ fget t Fld.rpmFatal_CAUSE = 5 ∧ fget t Fld.fsqCtl_RUN = 0 ∧ t.power.fatal = true := by
  have hexec : execClockLoss false s = .next (declareFatal s 5) := (if_neg Bool.false_ne_true).trans (whenever_true hserve)
  have hpower := power_abortAll (modPower s (fun p => { p with fatal := true })) 9
  refine ⟨_, hexec, ?_⟩
  unfold declareFatal
  dsimp only
  generalize abortAll (modPower s (fun p => { p with fatal := true })) 9 = u at hpower
  have hflag : fget (fset (setFlag u Fld.rpmErr_FATAL) Fld.rpmFatal_CAUSE 5) Fld.rpmErr_FATAL = 1 := by
    rw [fget_fset_other _ _ _ _ (by decide)]
    exact fget_setFlag_same _ _ rfl
  have hcause : fget (fset (setFlag u Fld.rpmErr_FATAL) Fld.rpmFatal_CAUSE 5) Fld.rpmFatal_CAUSE = 5 := fget_fset_same _ Fld.rpmFatal_CAUSE 5
  have hkept : (fset (setFlag u Fld.rpmErr_FATAL) Fld.rpmFatal_CAUSE 5).power = u.power := by
    show (setFlag u Fld.rpmErr_FATAL).power = u.power
    have hside : RegisterSide u (setFlag u Fld.rpmErr_FATAL) := (registerSide_self u).setBits Fld.rpmErr_FATAL 1
    rw [hside]
  generalize fset (setFlag u Fld.rpmErr_FATAL) Fld.rpmFatal_CAUSE 5 = v at hflag hcause hkept
  obtain ⟨hside, hregs⟩ := errorRec_effect v (by decide : (5 : Nat) ≠ 2) (if (5 : Nat) = 4 then 10 else 13) 0 16 0xFFFF 5
  generalize errorRec v 5 (if (5 : Nat) = 4 then 10 else 13) 0 16 0xFFFF 5 = w at hside hregs
  have hw : w.power = { s.power with fatal := true } := by rw [hside]; exact hkept.trans hpower
  have hnone : w.power.stopReq = none := by rw [hw]; exact hstop
  rw [afterStop_none (by exact hnone)]
  refine ⟨?_, ?_, fget_fset_same w Fld.fsqCtl_RUN 0, by exact congrArg Power.fatal hw⟩
  · exact (fget_fset_other w _ _ _ (by decide)).trans ((hregs _ (by decide)).trans hflag)
  · exact (fget_fset_other w _ _ _ (by decide)).trans ((hregs _ (by decide)).trans hcause)

theorem clockLoss_pcie {s : State} (hserve : serving s = true) (hstop : s.power.stopReq = none) (hlink : linkUp s = true) :
    ∃ t, execClockLoss true s = .next t ∧ InFunctionReset s t ∧ fget t Fld.hifLink_SPEED = 0 := by
  have hup : mainUp s = true := (Bool.and_eq_true_iff.mp hserve).1
  have hexec : execClockLoss true s = .next (linkDrop s) := (if_pos rfl).trans (whenever_true (by rw [hup, hlink]; rfl))
  obtain ⟨hreset, hspeed, -⟩ := linkDrop_effect hup hstop
  exact ⟨_, hexec, hreset, hspeed⟩

/-! ### The main firmware (R430) -/

/-- Loading a slot counts refusals, and forgets none. -/
theorem loadSlot_kept (s : State) (comp : Nat) :
    RegisterSide s (loadSlot s comp).1 ∧ (fget s Fld.secErr_FWFAIL = 1 → fget (loadSlot s comp).1 Fld.secErr_FWFAIL = 1) := by
  have hone := fwRefused_effect s
  have htwo := fwRefused_effect (fwRefused s)
  have hboth : RegisterSide s (fwRefused (fwRefused s)) := (hone.1.event _ _)
  unfold loadSlot
  dsimp only
  split
  · exact ⟨registerSide_self s, id⟩
  · split
    · exact ⟨hone.1, fun _ => hone.2.1⟩
    · exact ⟨hboth, fun _ => htwo.2.1⟩

theorem loadSlot_accepted {s : State} {comp : Nat} (h : fwAccepted s comp (activeSlot s comp) = true) : loadSlot s comp = (s, some (activeSlot s comp)) := if_pos h

theorem loadSlot_refused {s : State} {comp : Nat} (hfirst : fwAccepted s comp (activeSlot s comp) = false) (hother : fwAccepted s comp (1 - activeSlot s comp) = false) :
    loadSlot s comp = (fwRefused (fwRefused s), none) := by
  unfold loadSlot
  dsimp only
  rw [hfirst, if_neg Bool.false_ne_true, fwAccepted_fwRefused, hother, if_neg Bool.false_ne_true]

/-- Both images of the main domain, run from their slots. -/
theorem fwLoaded_main (s : State) (a b : Nat) :
    let t := fwLoaded (fwLoaded s 2 a) 3 b
    fget t Fld.secBoot_MAINSLOT = a % 2 ∧ fget t Fld.secBoot_PROTSLOT = b % 2 := by
  have hmain : ∀ u : State, ∀ c v d, fget (modMgmt (fset (fset u Fld.secBoot_MAINSLOT c) (Fld.mgtVer_VERSION 1) v) d) Fld.secBoot_MAINSLOT = c % 2 := fun u c v d =>
    (fget_fset_other _ _ _ _ (by decide)).trans (fget_fset_same u Fld.secBoot_MAINSLOT c)
  have hprot : ∀ u : State, ∀ c v d, fget (modMgmt (fset (fset u Fld.secBoot_PROTSLOT c) (Fld.mgtVer_VERSION 2) v) d) Fld.secBoot_PROTSLOT = c % 2
      ∧ fget (modMgmt (fset (fset u Fld.secBoot_PROTSLOT c) (Fld.mgtVer_VERSION 2) v) d) Fld.secBoot_MAINSLOT = fget u Fld.secBoot_MAINSLOT := fun u c v d =>
    ⟨(fget_fset_other _ _ _ _ (by decide)).trans (fget_fset_same u Fld.secBoot_PROTSLOT c), (fget_fset_other _ _ _ _ (by decide)).trans (fget_fset_other u _ _ _ (by decide))⟩
  have hfirst : fget (fwLoaded s 2 a) Fld.secBoot_MAINSLOT = a % 2 := hmain s a _ _
  generalize fwLoaded s 2 a = u at hfirst
  obtain ⟨hslot, hkept⟩ := hprot u b (fieldOf (fwHeader u 3 b) 8 4) (fun m => { m with protDigest := sliceOf (fwHeader u 3 b) 0x20 32 })
  exact ⟨hkept.trans hfirst, hslot⟩

/-- The boot record is no part of an installed key. -/
theorem fget_installKey_boot (s : State) (key : List Byte) {g : Field} (hg : g.key = Fld.secBoot_MAINSLOT.key ∨ g.key = Fld.secBoot_PROTSLOT.key) :
    fget (installKey s key) g = fget s g := by
  have hne : ∀ f ∈ [Fld.secOikCtl_VALID, Fld.secOikCtl_LOCK, Fld.secOikCtl_SLOT, Fld.secStatus_UNOWNED], g.key ≠ f.key := by
    have hboth : ∀ f ∈ [Fld.secOikCtl_VALID, Fld.secOikCtl_LOCK, Fld.secOikCtl_SLOT, Fld.secStatus_UNOWNED],
      Fld.secBoot_MAINSLOT.key ≠ f.key ∧ Fld.secBoot_PROTSLOT.key ≠ f.key := by decide
    intro f hf
    obtain ⟨hm, hp⟩ := hboth f hf
    rcases hg with h | h
    · exact h ▸ hm
    · exact h ▸ hp
  have hwords : fget (oikWords s key) g = fget s g := by
    refine (onlyFields_putFields Fld.secOik_KEY _ (List.range 16) s).2 g fun hmem => ?_
    have hlow : g.key < 0xf0040 * 32 := by
      rcases hg with h | h
      · exact h ▸ (by decide)
      · exact h ▸ (by decide)
    simp only [List.map_map, List.mem_map, Function.comp_apply, oik_key] at hmem
    obtain ⟨i, -, hi⟩ := hmem
    omega
  rw [installKey_eq, fget_fset_other _ _ _ _ (hne _ (by simp)), fget_fset_other _ _ _ _ (hne _ (by simp)), fget_fset_other _ _ _ _ (hne _ (by simp)), fget_fset_other _ _ _ _ (hne _ (by simp)), hwords]

/-- The main domain, out of reset for its self-test, with both images loaded. -/
def mainBooted (s : State) (a b : Nat) : State :=
  modPower (fwLoaded (fwLoaded s 2 a) 3 b) (fun p => { p with
    phase := .selfTest, bootedMain := true, zeroAt := if decide (s.power.phase = .powerOn) then s.now else p.zeroAt })

theorem mainFirmwareLoaded_accepted {s : State} (hserves : mgmtServes s .sideband = true) (hawaits : awaitsFirmware s = true)
    (hmain : fwAccepted s 2 s.mgmt.active2 = true) (hprot : fwAccepted s 3 s.mgmt.active3 = true) :
    ∃ t, execMainFirmwareLoaded s = .next t ∧ t.power.phase = .selfTest ∧ t.power.bootedMain = true ∧ fget t Fld.secBoot_MAINSLOT = s.mgmt.active2 % 2
      ∧ fget t Fld.secBoot_PROTSLOT = s.mgmt.active3 % 2 := by
  have hload₂ : loadSlot s 2 = (s, some s.mgmt.active2) := loadSlot_accepted (comp := 2) hmain
  have hload₃ : loadSlot s 3 = (s, some s.mgmt.active3) := loadSlot_accepted (comp := 3) hprot
  have hslots : fget (mainBooted s s.mgmt.active2 s.mgmt.active3) Fld.secBoot_MAINSLOT = s.mgmt.active2 % 2
      ∧ fget (mainBooted s s.mgmt.active2 s.mgmt.active3) Fld.secBoot_PROTSLOT = s.mgmt.active3 % 2 := by
    have hmain := fwLoaded_main s s.mgmt.active2 s.mgmt.active3
    unfold mainBooted
    generalize fwLoaded (fwLoaded s 2 s.mgmt.active2) 3 s.mgmt.active3 = u at hmain
    exact hmain
  have hphase : (mainBooted s s.mgmt.active2 s.mgmt.active3).power.phase = .selfTest ∧ (mainBooted s s.mgmt.active2 s.mgmt.active3).power.bootedMain = true := ⟨rfl, rfl⟩
  have hexec : execMainFirmwareLoaded s = .next (match (mainBooted s s.mgmt.active2 s.mgmt.active3).mgmt.storedKey with
      | some key => if decide (s.power.phase = .powerOn) then installKey (mainBooted s s.mgmt.active2 s.mgmt.active3) key else mainBooted s s.mgmt.active2 s.mgmt.active3
      | none => mainBooted s s.mgmt.active2 s.mgmt.active3) := by
    rw [execMainFirmwareLoaded, whenever_true (by rw [hserves, hawaits]; rfl), hload₂]
    dsimp only
    rw [hload₃]
    dsimp only
    unfold mainBooted
    generalize fwLoaded (fwLoaded s 2 s.mgmt.active2) 3 s.mgmt.active3 = u
    rfl
  refine ⟨_, hexec, ?_⟩
  clear hexec
  generalize mainBooted s s.mgmt.active2 s.mgmt.active3 = u at hslots hphase
  split
  · next key _ =>
    split
    · obtain ⟨-, -, -, hside⟩ := installKey_effect u key
      rw [fget_installKey_boot u key (.inl rfl), fget_installKey_boot u key (.inr rfl), hside]
      exact ⟨hphase.1, hphase.2, hslots⟩
    · exact ⟨hphase.1, hphase.2, hslots⟩
  · exact ⟨hphase.1, hphase.2, hslots⟩

theorem mainFirmwareLoaded_refused {s : State} (hserves : mgmtServes s .sideband = true) (hawaits : awaitsFirmware s = true)
    (hmain : ∀ k < 2, fwAccepted s 2 k = false) (hactive : s.mgmt.active2 < 2) :
    ∃ t, execMainFirmwareLoaded s = .next t ∧ t.power.phase = .held (decide (s.power.phase = .powerOn)) ∧ fget t Fld.secErr_FWFAIL = 1 ∧ SameMemories s t := by
  have hload : loadSlot s 2 = (fwRefused (fwRefused s), none) := loadSlot_refused (hmain _ hactive) (hmain _ (by show 1 - s.mgmt.active2 < 2; omega))
  have hexec : execMainFirmwareLoaded s
      = .next (modPower (loadSlot (fwRefused (fwRefused s)) 3).1 (fun p => { p with phase := .held (decide (s.power.phase = .powerOn)) })) := by
    rw [execMainFirmwareLoaded, whenever_true (by rw [hserves, hawaits]; rfl), hload]
  obtain ⟨hside₁, -⟩ := fwRefused_effect s
  obtain ⟨hside₂, hflag₂, -⟩ := fwRefused_effect (fwRefused s)
  obtain ⟨hside₃, hflag₃⟩ := loadSlot_kept (fwRefused (fwRefused s)) 3
  have hflag := hflag₃ hflag₂
  clear hflag₃
  generalize (loadSlot (fwRefused (fwRefused s)) 3).1 = w at hside₃ hflag hexec
  refine ⟨_, hexec, rfl, hflag, ?_⟩
  generalize fwRefused (fwRefused s) = v at hside₂ hside₃
  generalize fwRefused s = u at hside₁ hside₂
  rw [SameMemories, hside₃, hside₂, hside₁]
  exact ⟨rfl, rfl, rfl, rfl, rfl, rfl⟩

/-! ### The start-up self-test (R125, R127, R501) -/

theorem kat_key (f : Nat) : (Fld.cmpStatus_STRUCT f).key = (0x10f2000 + f * 0x100000) * 32 + 12 ∧ (Fld.cmpKat_RESULTFAIL f).key = (0x10f202c + f * 0x100000) * 32 + 0
    ∧ (Fld.cmpKat_TIMEFAIL f).key = (0x10f202c + f * 0x100000) * 32 + 1 := ⟨rfl, rfl, rfl⟩

theorem fstate_key (f : Nat) : (Fld.rpmFstate_STATE f).key = (0xe0500 + f * 4) * 32 := rfl

theorem fmap_key (l : Nat) : (Fld.rpmFmap_PFACET l).key = (0xe0100 + l * 4) * 32 := rfl

/-- A test's result is shown in its facet's registers alone. -/
theorem katResult_effect (s : State) (pf : Nat) (runs : List KatRun) :
    katResult s pf runs = { s with regs := (katResult s pf runs).regs }
      ∧ ∀ g : Field, g.key < 0x10f2000 * 32 → fget (katResult s pf runs) g = fget s g := by
  refine ⟨rfl, fun g hg => ?_⟩
  obtain ⟨hs, hr, ht⟩ := kat_key pf
  rw [katResult, fget_fset_other _ _ _ _ (by omega), fget_fset_other _ _ _ _ (by omega), fget_fset_other _ _ _ _ (by omega)]

/-- The results of all facets' tests. -/
def katResults (s : State) (of : Nat → List KatRun) : State := (List.range 52).foldl (fun s f => katResult s f (of f)) s

theorem katResults_effect (s : State) (of : Nat → List KatRun) :
    katResults s of = { s with regs := (katResults s of).regs } ∧ ∀ g : Field, g.key < 0x10f2000 * 32 → fget (katResults s of) g = fget s g := by
  have hall : ∀ (fs : List Nat) (t : State), fs.foldl (fun s f => katResult s f (of f)) t = { t with regs := (fs.foldl (fun s f => katResult s f (of f)) t).regs }
      ∧ ∀ g : Field, g.key < 0x10f2000 * 32 → fget (fs.foldl (fun s f => katResult s f (of f)) t) g = fget t g := fun fs => by
    induction fs with
    | nil => exact fun _ => ⟨rfl, fun _ _ => rfl⟩
    | cons f r ih =>
      intro t
      obtain ⟨hside, hregs⟩ := katResult_effect t f (of f)
      obtain ⟨hside', hregs'⟩ := ih (katResult t f (of f))
      exact ⟨hside'.trans (by rw [hside]; rfl), fun g hg => (hregs' g hg).trans (hregs g hg)⟩
  exact hall _ s

/-- A facet whose test has shown nothing wrong. -/
def KatClean (t : State) (f : Nat) : Prop := fget t (Fld.cmpKat_RESULTFAIL f) = 0 ∧ fget t (Fld.cmpKat_TIMEFAIL f) = 0 ∧ fget t (Fld.cmpStatus_STRUCT f) = 0

theorem katClean_katResult_same (s : State) {pf : Nat} {runs : List KatRun} (h : katPassed runs = true) : KatClean (katResult s pf runs) pf := by
  have hboth : runs.all katResultOk = true ∧ runs.all katTimeOk = true := by
    simp only [katPassed, List.all_eq_true, Bool.and_eq_true] at h ⊢
    exact ⟨fun r hr => (h r hr).1, fun r hr => (h r hr).2⟩
  obtain ⟨hs, hr, ht⟩ := kat_key pf
  rw [katResult, hboth.1, hboth.2]
  refine ⟨?_, ?_, ?_⟩
  · rw [fget_fset_other _ _ _ _ (by omega), fget_fset_same]
    rfl
  · rw [fget_fset_same]
    rfl
  · rw [fget_fset_other _ _ _ _ (by omega), fget_fset_other _ _ _ _ (by omega), fget_fset_same]
    exact Nat.zero_mod _

theorem KatClean.of_other {t : State} {f : Nat} (h : KatClean t f) {pf : Nat} {runs : List KatRun} (hne : f ≠ pf) : KatClean (katResult t pf runs) f := by
  obtain ⟨hs, hr, ht⟩ := kat_key pf
  obtain ⟨hs', hr', ht'⟩ := kat_key f
  have hkeep : ∀ g ∈ [Fld.cmpKat_RESULTFAIL f, Fld.cmpKat_TIMEFAIL f, Fld.cmpStatus_STRUCT f], fget (katResult t pf runs) g = fget t g := by
    intro g hg
    simp only [List.mem_cons, List.not_mem_nil, or_false] at hg
    rw [katResult]
    rcases hg with rfl | rfl | rfl
    all_goals rw [fget_fset_other _ _ _ _ (by omega), fget_fset_other _ _ _ _ (by omega), fget_fset_other _ _ _ _ (by omega)]
  rw [KatClean, hkeep _ (by simp), hkeep _ (by simp), hkeep _ (by simp)]
  exact h

/-- With every test passed, every facet's registers show it. -/
theorem katClean_katResults (s : State) {of : Nat → List KatRun} (h : ∀ f < 52, katPassed (of f) = true) : ∀ f < 52, KatClean (katResults s of) f := by
  refine foldl_range_each (P := KatClean) (F := fun t f => katResult t f (of f)) (fun t f hf => katClean_katResult_same t (h f hf)) (fun t q hq r hr => ?_) s
  by_cases hne : r = q
  · subst hne
    exact katClean_katResult_same t (h r hq)
  · exact hr.of_other hne

/-! ### Facets that have failed it (R127, R462) -/

/-- A facet's failure reaches registers, the frame's records and what the new facet memory holds. -/
def FailSide (s t : State) : Prop := t = { s with regs := t.regs, hif := t.hif, outs := t.outs, cyc := t.cyc, seq := t.seq, masks := t.masks, free := t.free }

theorem FailSide.trans {s t u : State} (h : FailSide s t) (k : FailSide t u) : FailSide s u := by
  rw [FailSide] at *
  rw [k, h]

/-- A failure's effect: beside its side, a retired facet stays retired. -/
structure Fails (s t : State) : Prop where
  side : FailSide s t
  retired : ∀ f, fget s (Fld.rpmFstate_STATE f) = 4 → fget t (Fld.rpmFstate_STATE f) = 4

theorem fails_self (s : State) : Fails s s := ⟨rfl, fun _ h => h⟩

theorem Fails.trans {s t u : State} (h : Fails s t) (k : Fails t u) : Fails s u := ⟨h.side.trans k.side, fun f hf => k.retired f (h.retired f hf)⟩

theorem fails_fset (s : State) {g : Field} (v : Nat) (hg : ∀ f, (Fld.rpmFstate_STATE f).key ≠ g.key) : Fails s (fset s g v) :=
  ⟨rfl, fun f hf => (fget_fset_other s g _ v (hg f)).trans hf⟩

theorem fails_retireFacet (s : State) (pf : Nat) : Fails s (retireFacet s pf) := by
  refine ⟨rfl, fun f hf => ?_⟩
  by_cases h : f = pf
  · subst h
    exact fget_fset_same s (Fld.rpmFstate_STATE f) 4
  · exact (fget_fset_other s _ _ _ (by rw [fstate_key, fstate_key]; omega)).trans hf

theorem fstate_ne {g : Field} (h : g.key < 0xe0500 * 32) (f : Nat) : (Fld.rpmFstate_STATE f).key ≠ g.key := by rw [fstate_key]; omega

theorem fmap_low {l : Nat} (h : l < 48) : (Fld.rpmFmap_PFACET l).key < 0xe0500 * 32 := by rw [fmap_key]; omega

theorem fails_unmapFacet (s : State) {l : Nat} (h : l < 48) : Fails s (unmapFacet s l) := by
  have hmapped : Fails s (setFacetMap s l 0x3F) :=
    (((fails_fset s _ (fstate_ne (fmap_low h))).trans (fails_fset (fset s (Fld.rpmFmap_PFACET l) 0x3F) _ (fstate_ne (g := Fld.rpmMapgen_GEN) (by decide)))).trans
      (⟨rfl, fun _ hf => hf⟩ : Fails (bump (fset s (Fld.rpmFmap_PFACET l) 0x3F) Fld.rpmMapgen_GEN 1) (setFacetMap s l 0x3F)))
  rw [unmapFacet, unmappedRec]
  generalize setFacetMap s l 0x3F = u at hmapped
  obtain ⟨hside, hregs⟩ := errorRec_effect u (by decide : (3 : Nat) ≠ 2) 0 l 11 0xFFFF 0
  generalize errorRec u 3 0 l 11 0xFFFF 0 = v at hside hregs
  have hrec : Fails u v := ⟨by rw [hside]; rfl, fun f hf => (hregs _ (fstate_ne (by decide) f)).trans hf⟩
  have hflag : RegisterSide v (setFlag v Fld.rpmErr_SPAREOUT) := (registerSide_self v).setBits _ 1
  refine (hmapped.trans hrec).trans ⟨by rw [FailSide, hflag], fun f hf => ?_⟩
  exact (fget_setBits_other v _ _ 1 (fstate_ne (by decide) f)).trans hf

theorem logicalOf_lt {s : State} {pf l : Nat} (h : logicalOf s pf = some l) : l < 48 := List.mem_range.mp (List.mem_of_find?_eq_some h)

theorem spareFacet_serves {s : State} {q t : Nat} (h : spareFacet s q = some t) : fget s (Fld.rpmFstate_STATE t) = 1 := by
  have hfound := List.find?_some h
  exact of_decide_eq_true (Bool.and_eq_true_iff.mp hfound).1

theorem fails_failedAtStart (s : State) (pf : Nat) : Fails s (failedAtStart s pf) := by
  unfold failedAtStart
  split
  · exact fails_retireFacet s pf
  · next l hl =>
    have hlow := fmap_low (logicalOf_lt hl)
    split
    · next t ht =>
      have hserves := spareFacet_serves ht
      have hretire : Fails s (fset (retireFacet s pf) (Fld.rpmFstate_STATE t) 0) := by
        refine ⟨rfl, fun f hf => ?_⟩
        have hne : f ≠ t := fun he => by rw [he, hserves] at hf; exact absurd hf (by decide)
        exact (fget_fset_other _ _ _ _ (by rw [fstate_key, fstate_key]; omega)).trans ((fails_retireFacet s pf).retired f hf)
      exact (hretire.trans (fails_fset _ t (fstate_ne hlow))).trans (fails_fset _ _ (fstate_ne (g := Fld.rpmMapgen_GEN) (by decide)))
    · exact (fails_retireFacet s pf).trans (fails_unmapFacet _ (logicalOf_lt hl))

theorem fails_foldl (xs : List Nat) (s : State) : Fails s (xs.foldl failedAtStart s) := by
  induction xs generalizing s with
  | nil => exact fails_self s
  | cons x r ih => exact (fails_failedAtStart s x).trans (ih _)

/-- The map that other registers leave alone. -/
theorem logicalOf_congr {s t : State} (h : ∀ l < 48, physOf t l = physOf s l) (pf : Nat) : logicalOf t pf = logicalOf s pf :=
  List.find?_congr fun l hl => by rw [h l (List.mem_range.mp hl)]

theorem logicalOf_retireFacet (s : State) (x pf : Nat) : logicalOf (retireFacet s x) pf = logicalOf s pf :=
  logicalOf_congr (fun l hl => fget_fset_other s _ _ _ (by rw [fmap_key, fstate_key]; omega)) pf

/-- Spares that have failed are retired, every one. -/
theorem spares_retired {xs : List Nat} {s : State} (hspare : ∀ x ∈ xs, logicalOf s x = none) {f : Nat} (hf : f ∈ xs) :
    fget (xs.foldl failedAtStart s) (Fld.rpmFstate_STATE f) = 4 := by
  induction xs generalizing s with
  | nil => exact absurd hf List.not_mem_nil
  | cons x r ih =>
    have hfirst : failedAtStart s x = retireFacet s x := by rw [failedAtStart, hspare x List.mem_cons_self]
    rw [List.foldl_cons, hfirst]
    rcases List.mem_cons.mp hf with rfl | hr
    · exact (fails_foldl r _).retired f (fget_fset_same s (Fld.rpmFstate_STATE f) 4)
    · exact ih (fun y hy => (logicalOf_retireFacet s x y).trans (hspare y (List.mem_cons_of_mem _ hy))) hr

/-- The runs of one facet. -/
def runsOf (runs : List (Nat × KatRun)) (f : Nat) : List KatRun := (runs.filter (fun r => r.1 = f)).map (·.2)

/-- The facets that have failed. -/
def failedFacets (runs : List (Nat × KatRun)) : List Nat := (List.range 52).filter (fun f => !katPassed (runsOf runs f))

/-- The facets that have failed, spares first, are out of service. -/
def failuresMade (runs : List (Nat × KatRun)) (s : State) : State :=
  let s := ((failedFacets runs).filter (fun f => (logicalOf s f).isNone)).foldl failedAtStart s
  ((failedFacets runs).filter (fun f => (logicalOf s f).isSome)).foldl failedAtStart s

theorem fails_failuresMade (runs : List (Nat × KatRun)) (s : State) : Fails s (failuresMade runs s) := (fails_foldl _ s).trans (fails_foldl _ _)

theorem failuresMade_passed {runs : List (Nat × KatRun)} (h : ∀ f < 52, katPassed (runsOf runs f) = true) (s : State) : failuresMade runs s = s := by
  have hnone : failedFacets runs = [] := List.filter_eq_nil_iff.mpr fun f hf => by rw [h f (List.mem_range.mp hf)]; decide
  rw [failuresMade, hnone]
  rfl

theorem failuresMade_spare {runs : List (Nat × KatRun)} {s : State} {f : Nat} (hf : f < 52) (hspare : logicalOf s f = none) (hfail : katPassed (runsOf runs f) = false) :
    fget (failuresMade runs s) (Fld.rpmFstate_STATE f) = 4 := by
  have hbad : f ∈ (failedFacets runs).filter (fun f => (logicalOf s f).isNone) := by
    simp only [failedFacets, List.mem_filter, List.mem_range, hfail, hspare]
    exact ⟨⟨hf, rfl⟩, rfl⟩
  exact (fails_foldl _ _).retired f (spares_retired (fun x hx => Option.isNone_iff_eq_none.mp (List.mem_filter.mp hx).2) hbad)

section
variable {s : State} (hphase : s.power.phase = .selfTest) (hreset : s.power.funcReset = none) (hswaps : s.repair.swaps = []) (hslices : s.repair.slices = [])
  (hpending : ∀ x ∈ s.repair.pendingSwaps, x.ready = false) (runs : List (Nat × KatRun))
include hphase hreset hswaps hslices hpending

/-- What the end of the self-test makes of the state, with no repair that owes a map change. -/
theorem startUpSelfTestEnd_effect : ∃ t, execStartUpSelfTestEnd runs s = .next t ∧ t.power.phase = .running ∧ fget t Fld.glbStatus_MAINREADY = 1 ∧ SameMemories s t
    ∧ ∀ g : Field, g.key ≠ Fld.glbStatus_MAINREADY.key → fget t g = fget (failuresMade runs (katResults s (runsOf runs))) g := by
  have hdone : repairsDone s = true := by rw [repairsDone, hswaps, hslices]; rfl
  have hkat := (katResults_effect s (runsOf runs)).1
  have hfail := (fails_failuresMade runs (katResults s (runsOf runs))).side
  have hexec : execStartUpSelfTestEnd runs s = .next
      (let u := modPower (finishRepairs (failuresMade runs (katResults s (runsOf runs)))) (fun p => { p with phase := .running })
       if u.power.funcReset.isNone then fset u Fld.glbStatus_MAINREADY 1 else u) := whenever_true (by rw [hphase, hdone]; rfl)
  generalize failuresMade runs (katResults s (runsOf runs)) = v at hfail hexec
  generalize katResults s (runsOf runs) = u at hkat hfail
  have hrepair : v.repair = s.repair := by rw [hfail, hkat]
  have hpower : v.power = s.power := by rw [hfail, hkat]
  have hmems : SameMemories s v := by
    rw [SameMemories, hfail, hkat]
    exact ⟨rfl, rfl, rfl, rfl, rfl, rfl⟩
  rw [finishRepairs_none (by rw [hrepair]; exact hpending) (by rw [hrepair]; exact hslices)] at hexec
  have hnone : (modPower (swapsMade v) (fun p => { p with phase := .running })).power.funcReset.isNone = true := by
    show v.power.funcReset.isNone = true
    rw [hpower, hreset]
    rfl
  dsimp only at hexec
  rw [if_pos hnone] at hexec
  exact ⟨_, hexec, rfl, fget_fset_same _ Fld.glbStatus_MAINREADY 1, hmems, fun g hg => fget_fset_other _ _ _ _ hg⟩

theorem startUpSelfTestEnd_passed (h : ∀ f < 52, katPassed (runsOf runs f) = true) :
    ∃ t, execStartUpSelfTestEnd runs s = .next t ∧ t.power.phase = .running ∧ fget t Fld.glbStatus_MAINREADY = 1
      ∧ (∀ f < 52, fget t (Fld.cmpKat_RESULTFAIL f) = 0 ∧ fget t (Fld.cmpKat_TIMEFAIL f) = 0 ∧ fget t (Fld.cmpStatus_STRUCT f) = 0) ∧ SameMemories s t := by
  obtain ⟨t, hexec, hrun, hready, hmems, hregs⟩ := startUpSelfTestEnd_effect hphase hreset hswaps hslices hpending runs
  refine ⟨t, hexec, hrun, hready, fun f hf => ?_, hmems⟩
  obtain ⟨hs, hr, ht⟩ := kat_key f
  have hkey : Fld.glbStatus_MAINREADY.key = 0x10 * 32 := rfl
  rw [hregs _ (by omega), hregs _ (by omega), hregs _ (by omega), failuresMade_passed h]
  exact katClean_katResults s h f hf

theorem startUpSelfTestEnd_spare {f : Nat} (hf : f < 52) (hspare : logicalOf s f = none) (hfail : katPassed (runsOf runs f) = false) :
    ∃ t, execStartUpSelfTestEnd runs s = .next t ∧ t.power.phase = .running ∧ fget t (Fld.rpmFstate_STATE f) = 4 ∧ SameMemories s t := by
  obtain ⟨t, hexec, hrun, -, hmems, hregs⟩ := startUpSelfTestEnd_effect hphase hreset hswaps hslices hpending runs
  have hmap : logicalOf (katResults s (runsOf runs)) f = none :=
    (logicalOf_congr (fun l hl => (katResults_effect s (runsOf runs)).2 _ (by have := fmap_low hl; omega)) f).trans hspare
  have hkey : Fld.glbStatus_MAINREADY.key = 0x10 * 32 := rfl
  exact ⟨t, hexec, hrun, (hregs _ (by rw [fstate_key]; omega)).trans (failuresMade_spare hf hmap hfail), hmems⟩
end

/-- Settles O52, clause by clause. -/
theorem powerAndResetsRun : Obligations.PowerAndResetsRun := by
  unfold Obligations.PowerAndResetsRun
  intro s
  refine ⟨fun straps hstby => stbyPwrokRise_effect straps hstby, fun hstby => stbyPwrokFall_effect hstby,
    fun hstby hstate htried htime => managementFirmwareReady_effect hstby hstate htried htime, fun n hlow hhigh hen hgood hup hdrop => ?_,
    fun t₀ g hrise hgroup htime hdrop hmode => powerCycle_enables hrise hgroup htime hdrop hmode, fun d hrise hdrop htime hmode => powerCycle_drops hrise hdrop htime hmode,
    fun n hlow hhigh hen hgood hup hdrop => pwrGoodLoss_effect hlow hhigh hen hgood hup hdrop, fun hstby hen => thermtrip_effect hstby hen,
    fun hdown => powerDownStep_effect hdown, fun hserves hawaits => ?_, fun hphase hreset hswaps hslices hpending runs => ?_, fun hhigh => ?_,
    fun hlow => perstNRise_effect hlow, fun hserve hstop => ?_⟩
  · have hrise := (rising_iff s n).mpr ⟨⟨hlow, hhigh⟩, hen, hgood, hup, hdrop⟩
    exact ⟨fun htime hmode => pwrGoodRise_effect hrise htime hmode hhigh, fun hlate => pwrGoodTimeout_effect hrise hlate⟩
  · exact ⟨fun hmain hprot => mainFirmwareLoaded_accepted hserves hawaits hmain hprot, fun hmain hactive => mainFirmwareLoaded_refused hserves hawaits hmain hactive⟩
  · exact ⟨fun hpass => startUpSelfTestEnd_passed hphase hreset hswaps hslices hpending runs hpass,
      fun f hf hspare hfail => startUpSelfTestEnd_spare hphase hreset hswaps hslices hpending runs hf hspare hfail⟩
  · exact ⟨fun hphase => perstNFall_running hhigh hphase, fun hphase => perstNFall_off hhigh hphase⟩
  · exact ⟨clockLoss_core hserve hstop, fun hlink => clockLoss_pcie hserve hstop hlink⟩

end Sys2Proof.Machine
end
